-- ==== Sys2Proof/Word.lean ====
section
/-!
DEFINITION. The machine's words: 64-bit registers and addresses, bytes, and instruction words (spec/00_scope.md R3, R4).
-/

namespace Sys2Proof

/-- A 64-bit word: a general register, an address, an instruction word (R3, R66). -/
abbrev Word := BitVec 64

/-- A byte of memory (R4). -/
abbrev Byte := BitVec 8

/-- The payload of a packet: at most 256 bits, or 320 bits for xs320 (R13). -/
abbrev Payload := BitVec 320

/-- An origin record of poison (R30). -/
abbrev Origin := BitVec 32

end Sys2Proof
end

