-- ==== Sys2Proof/Syntax.lean ====
section
/-!
DEFINITION. The abstract syntax: one constructor of Instr for each row of spec/opcode_table.json. An instruction
carries the fields of its format (spec/03 R66 to R73); an event of the part, which has no encoding (spec/95),
carries the numbers of the units it names.
-/

namespace Sys2Proof

/-- The element types of R74; code 15 is reserved and has no constructor. -/
inductive Ty where
  | i64 | i32 | i16 | i8 | f64 | f32 | f16 | bf16 | e4m3 | e5m2 | e2m1 | mx8 | mx4 | mxi8 | xs320
deriving DecidableEq, Repr

/-- The predicate mode PM of R66; code 3 is reserved and has no constructor. -/
inductive Pm where
  | always | onTrue | onFalse
deriving DecidableEq, Repr

/-- A target field (R64): the operand slot of an instruction, a write entry, the gate of a read entry, or none. -/
inductive Target where
  | left (n : BitVec 8)
  | right (n : BitVec 8)
  | pred (n : BitVec 8)
  | write (n : BitVec 5)
  | gate (n : BitVec 5)
  | none
deriving DecidableEq, Repr

/-- Format A (R67): compute and matrix instructions. -/
structure FmtA where
  pm : Pm
  t0 : Target
  t1 : Target
  ty : Ty
  md : BitVec 6
  ph : BitVec 2
  ir : Bool
  imm : BitVec 21
deriving DecidableEq, Repr

/-- Format C (R70): router control operators. -/
structure FmtC where
  pm : Pm
  t0 : Target
  t1 : Target
  ty : Ty
  cf : BitVec 6
  imm : BitVec 24
deriving DecidableEq, Repr

/-- Format M (R68): memory instructions. -/
structure FmtM where
  pm : Pm
  t0 : Target
  t1 : Target
  sz : BitVec 3
  sc : BitVec 3
  ord : BitVec 2
  lsid : BitVec 5
  off : BitVec 21
deriving DecidableEq, Repr

/-- Format E (R71): engine commands. -/
structure FmtE where
  pm : Pm
  t0 : Target
  flg : BitVec 10
  wsem : BitVec 8
  wthr : BitVec 12
  ssem : BitVec 8
  sinc : BitVec 6
deriving DecidableEq, Repr

/-- Format B (R72) of the exit-class instructions; T0 and T1 always hold 0x3FF. -/
structure FmtB where
  pm : Pm
  exn : BitVec 3
  off : BitVec 20
deriving DecidableEq, Repr

/-- Format B (R72) of `trap` and `brk`. -/
structure FmtT where
  pm : Pm
  code : BitVec 16
deriving DecidableEq, Repr

/-- Format S (R73): system instructions. -/
structure FmtS where
  pm : Pm
  t0 : Target
  t1 : Target
  sysno : BitVec 12
deriving DecidableEq, Repr

/-- Why the loader rejects a word or an image, named after the REASON codes of R80. -/
inductive Reject where
  | version | counts | headerReserved | check | misaligned | opcode | predicate | target | consumer | reserved
  | combination | phase | exits | readEntry | writeEntry | lutFrame | privilege
deriving DecidableEq, Repr

/-- The mode of a read entry (R59); 6 and 7 are reserved. -/
inductive RdMode where
  | plain | pop | peek | gateDrop | gateHold | await
deriving DecidableEq, Repr

/-- A read entry (R59). -/
structure ReadEntry where
  reg : BitVec 7
  mode : RdMode
  t0 : Target
  t1 : Target
deriving DecidableEq, Repr

/-- A write entry (R61). -/
structure WriteEntry where
  reg : BitVec 7
  opt : Bool
deriving DecidableEq, Repr

/-- A valid LUT descriptor (R62): its two words less VALID. -/
structure LutDesc where
  cell : Nat
  lut : Nat
  sel : List (BitVec 8)
  ffen : Bool
  truth : Word
deriving DecidableEq, Repr

/-- A block image whose frames have been taken apart (R55, R57); `luts` keeps the frame of each descriptor. -/
structure Image where
  nins : Nat
  nrd : Nat
  nwr : Nat
  ii : Nat
  nex : Nat
  smask : BitVec 32
  priv : Bool
  rpt : Bool
  strict : Bool
  save : Nat
  nlf : Nat
  reads : List ReadEntry
  writes : List WriteEntry
  luts : List (Nat × LutDesc)
  words : List Word
deriving DecidableEq, Repr

/-- What the host does to memory over CXL.mem (R353): a read of `len` bytes, or a write of `data`. -/
inductive HostOp where
  | read (addr len : Nat)
  | write (addr : Nat) (data : List Byte)
deriving DecidableEq, Repr

/-- One constructor per row of the opcode table, in its order: the instructions, then the events. In an event `c`
is a physical cluster (die x 16 + cluster, R30), `i` a node index, `e` a read or write entry, `k` a position in the
list the event serves, `p` a port, `t` a TASK_ID, `m` a module end (104 x die + number, R394), `f` a far die. -/
inductive Instr where
  /-- ADD: Lanewise integer addition, wrapped to the lane width. (R99) -/
  | add (f : FmtA)
  /-- SUB: Lanewise integer subtraction, wrapped. (R99) -/
  | sub (f : FmtA)
  /-- ADDS: Lanewise signed saturating addition. (R99) -/
  | adds (f : FmtA)
  /-- ADDSU: Lanewise unsigned saturating addition. (R99) -/
  | addsu (f : FmtA)
  /-- SUBS: Lanewise signed saturating subtraction. (R99) -/
  | subs (f : FmtA)
  /-- SUBSU: Lanewise unsigned saturating subtraction; the result is 0 when b exceeds a. (R99) -/
  | subsu (f : FmtA)
  /-- MUL: Lanewise signed multiplication, wrapped or saturated under SAT. (R99) -/
  | mul (f : FmtA)
  /-- MULH: High half of the signed lanewise product. (R99) -/
  | mulh (f : FmtA)
  /-- MULHU: High half of the unsigned lanewise product. (R99) -/
  | mulhu (f : FmtA)
  /-- DIV: Signed division truncated toward zero; division by zero gives 0 and poisons with CAUSE 0x3. (R99) -/
  | div (f : FmtA)
  /-- DIVU: Unsigned lanewise division. (R99) -/
  | divu (f : FmtA)
  /-- REM: Signed remainder, which takes the sign of the dividend. (R99) -/
  | rem (f : FmtA)
  /-- REMU: Unsigned lanewise remainder. (R99) -/
  | remu (f : FmtA)
  /-- NEG: Lanewise negation, wrapped or saturated. (R99) -/
  | neg (f : FmtA)
  /-- ABS: Lanewise absolute value, wrapped or saturated. (R99) -/
  | abs (f : FmtA)
  /-- MIN: Lanewise signed minimum. (R99) -/
  | min (f : FmtA)
  /-- MAX: Lanewise signed maximum. (R99) -/
  | max (f : FmtA)
  /-- MINU: Lanewise unsigned minimum. (R99) -/
  | minu (f : FmtA)
  /-- MAXU: Lanewise unsigned maximum. (R99) -/
  | maxu (f : FmtA)
  /-- ADDMIN: Adds a cost to each lane and bounds the sum from above by another lane value. (R100) -/
  | addmin (f : FmtA)
  /-- AND: Lanewise bitwise AND. (R99) -/
  | land (f : FmtA)
  /-- OR: Lanewise bitwise OR. (R99) -/
  | lor (f : FmtA)
  /-- XOR: Lanewise bitwise XOR. (R99) -/
  | lxor (f : FmtA)
  /-- ANDN: Lanewise a AND NOT b. (R99) -/
  | andn (f : FmtA)
  /-- NOT: Lanewise bitwise complement. (R99) -/
  | lnot (f : FmtA)
  /-- SHL: Lanewise shift left, wrapped or saturated. (R101) -/
  | shl (f : FmtA)
  /-- SHR: Lanewise logical shift right. (R101) -/
  | shr (f : FmtA)
  /-- SRA: Lanewise arithmetic shift right. (R101) -/
  | sra (f : FmtA)
  /-- ROTL: Lanewise rotate left. (R101) -/
  | rotl (f : FmtA)
  /-- CLZ: Counts the leading zero bits of each lane. (R102) -/
  | clz (f : FmtA)
  /-- CTZ: Counts the trailing zero bits of each lane. (R102) -/
  | ctz (f : FmtA)
  /-- POPC: Counts the one bits of each lane. (R102) -/
  | popc (f : FmtA)
  /-- SEXT: Sign-extends the low W bits of each lane. (R102) -/
  | sext (f : FmtA)
  /-- ZEXT: Zero-extends the low W bits of each lane. (R102) -/
  | zext (f : FmtA)
  /-- BSWAP: Reverses the byte order of each lane. (R102) -/
  | bswap (f : FmtA)
  /-- SEL: Passes L when P is true and R otherwise, bit for bit. (R103) -/
  | sel (f : FmtA)
  /-- CEQ: Emits a control token that is true when lane 0 of L equals lane 0 of R. (R104) -/
  | ceq (f : FmtA)
  /-- CNE: Emits a control token that is true when lane 0 of L differs from lane 0 of R. (R104) -/
  | cne (f : FmtA)
  /-- CLT: Signed less-than comparison on lane 0, emitted as a control token. (R104) -/
  | clt (f : FmtA)
  /-- CLTU: Unsigned less-than comparison on lane 0. (R104) -/
  | cltu (f : FmtA)
  /-- CLE: Signed less-or-equal comparison on lane 0. (R104) -/
  | cle (f : FmtA)
  /-- CLEU: Unsigned less-or-equal comparison on lane 0. (R104) -/
  | cleu (f : FmtA)
  /-- CTST: Control token that is true when lane 0 of L AND lane 0 of R is nonzero. (R104) -/
  | ctst (f : FmtA)
  /-- MOVI: Emits the sign-extended immediate as a 1-lane packet for each trigger token. (R105) -/
  | movi (f : FmtA)
  /-- MOVHI: Shifts each lane left by 21 bits and ORs in the immediate. (R105) -/
  | movhi (f : FmtA)
  /-- LEA: Forms address plus scaled index plus offset in each i64 lane. (R106) -/
  | lea (f : FmtA)
  /-- FADD: Lanewise floating-point addition, rounded once. (R107) -/
  | fadd (f : FmtA)
  /-- FSUB: Lanewise floating-point subtraction, rounded once. (R107) -/
  | fsub (f : FmtA)
  /-- FMUL: Lanewise floating-point multiplication, rounded once. (R107) -/
  | fmul (f : FmtA)
  /-- FMAC: Accumulates lanewise products, one rounding per step, and flushes the sum when P is true. (R108) -/
  | fmac (f : FmtA)
  /-- FMIN: Lanewise floating-point minimum, with NaN giving the canonical NaN. (R109) -/
  | fmin (f : FmtA)
  /-- FMAX: Lanewise floating-point maximum. (R109) -/
  | fmax (f : FmtA)
  /-- FABS: Clears the sign bit of each lane. (R107) -/
  | fabs (f : FmtA)
  /-- FNEG: Inverts the sign bit of each lane. (R107) -/
  | fneg (f : FmtA)
  /-- FEQ: Quiet floating-point equality on lane 0, emitted as a control token. (R110) -/
  | feq (f : FmtA)
  /-- FLT: Floating-point less-than on lane 0. (R110) -/
  | flt (f : FmtA)
  /-- FLE: Floating-point less-or-equal on lane 0. (R110) -/
  | fle (f : FmtA)
  /-- FUN: True when either lane-0 operand is a NaN. (R110) -/
  | funord (f : FmtA)
  /-- FCVT: Converts between floating-point formats. (R111) -/
  | fcvt (f : FmtA)
  /-- FCVTI: Converts floating-point lanes to integers under cvt_int. (R112) -/
  | fcvti (f : FmtA)
  /-- ICVTF: Converts integer lanes to a floating-point format. (R112) -/
  | icvtf (f : FmtA)
  /-- FRND: Rounds each lane to an integral value of the same format. (R113) -/
  | frnd (f : FmtA)
  /-- FRCP: Correctly rounded reciprocal. (R114) -/
  | frcp (f : FmtA)
  /-- FRSQ: Correctly rounded reciprocal square root. (R114) -/
  | frsq (f : FmtA)
  /-- FSQRT: Correctly rounded square root. (R114) -/
  | fsqrt (f : FmtA)
  /-- FEXP2: Correctly rounded 2 to the power x. (R114) -/
  | fexp2 (f : FmtA)
  /-- FLOG2: Correctly rounded base-2 logarithm. (R114) -/
  | flog2 (f : FmtA)
  /-- FTANH: Correctly rounded hyperbolic tangent. (R114) -/
  | ftanh (f : FmtA)
  /-- BQNT: Gathers 32 values and emits one E8M0 scale followed by the quantised element tokens. (R115) -/
  | bqnt (f : FmtA)
  /-- BDEQ: Dequantises element tokens by the held block scale. (R116) -/
  | bdeq (f : FmtA)
  /-- XSACC: Adds lanes exactly into an xs320 accumulator and flushes it when P is true. (R117) -/
  | xsacc (f : FmtA)
  /-- XSFIN: Rounds an xs320 exact sum once to a floating-point format. (R118) -/
  | xsfin (f : FmtA)
  /-- PSUM: Reduces the lanes of L to their sum, in a fixed tree for floating types. (R119) -/
  | psum (f : FmtA)
  /-- PMAX: Reduces the lanes of L to their maximum. (R119) -/
  | pmax (f : FmtA)
  /-- PMIN: Reduces the lanes of L to their minimum. (R119) -/
  | pmin (f : FmtA)
  /-- PLSH: Shifts lanes by BY places, filling from R. (R119) -/
  | plsh (f : FmtA)
  /-- PPERM: Permutes the lanes of L by the indices in R. (R120) -/
  | pperm (f : FmtA)
  /-- PBCAST: Broadcasts one lane of L to LENM+1 lanes. (R120) -/
  | pbcast (f : FmtA)
  /-- PEXT: Extracts one lane of L. (R120) -/
  | pext (f : FmtA)
  /-- PINS: Replaces one lane of L with lane 0 of R, growing the packet if needed. (R120) -/
  | pins (f : FmtA)
  /-- PJOIN: Concatenates the lanes of L and R, up to the lane limit. (R121) -/
  | pjoin (f : FmtA)
  /-- PSPLIT: Splits L at lane AT between T0 and T1. (R121) -/
  | psplit (f : FmtA)
  /-- PLEN: Emits the lane count of L as an i64. (R122) -/
  | plen (f : FmtA)
  /-- PMASK: Zeroes the lanes whose mask bit is clear. (R122) -/
  | pmask (f : FmtA)
  /-- LUTX: Evaluates the cell's LUT network and emits the selected LUT outputs. (R123) -/
  | lutx (f : FmtA)
  /-- FSMST: Evaluates the LUT network, then updates the flip-flops in Mealy order. (R124) -/
  | fsmst (f : FmtA)
  /-- BEXT: Bit extract under a mask. (R125) -/
  | bext (f : FmtA)
  /-- BDEP: Bit deposit under a mask. (R125) -/
  | bdep (f : FmtA)
  /-- HASHX: Keyed integer hash of each lane. (R126) -/
  | hashx (f : FmtA)
  /-- MMA: Starts a multiply of tile ATILE by the active plane into accumulator ACC. (R170) -/
  | mma (f : FmtA)
  /-- LDST: Starts loading the shadow plane from a tile, or arms it for the ring. (R172) -/
  | ldst (f : FmtA)
  /-- MSWAP: Makes the shadow plane active and empties the shadow. (R173) -/
  | mswap (f : FmtA)
  /-- MZERO: Clears an accumulator, its poison marks and its ROWS. (R174) -/
  | mzero (f : FmtA)
  /-- MDRAIN: Starts converting an accumulator into the destination tile of a drain route. (R175) -/
  | mdrain (f : FmtA)
  /-- TSTAT: Reads the state of a tile, an accumulator, the planes or a drain route. (R176) -/
  | tstat (f : FmtA)
  /-- TSET: Writes a tile STATE, a whole tile entry, or a drain route. (R177) -/
  | tset (f : FmtA)
  /-- MOV: Copies the L token to two targets. (R132) -/
  | mov (f : FmtC)
  /-- MOV4: Copies the L token to four targets. (R132) -/
  | mov4 (f : FmtC)
  /-- STEER: Delivers L to T0 or T1 according to P. (R133) -/
  | steer (f : FmtC)
  /-- GATE: Passes L on a true P, and drops or keeps it on a false P. (R134) -/
  | gate (f : FmtC)
  /-- MERGE: Takes the L or R head according to P. (R135) -/
  | merge (f : FmtC)
  /-- MRGA: Takes whichever of L and R arrived first, and flags its side. (R136) -/
  | mrga (f : FmtC)
  /-- CARRY: Loop-carried value: emits values under run-ahead, confirms conditions and purges at exit. (R137) -/
  | carry (f : FmtC)
  /-- INVAR: Holds a loop invariant and emits a copy for each trigger. (R139) -/
  | invar (f : FmtC)
  /-- LOOPGEN: Generates a counted index range with last flags. (R140) -/
  | loopgen (f : FmtC)
  /-- REPEAT: Emits the L token a counted number of times. (R141) -/
  | repeatN (f : FmtC)
  /-- CAND: AND of two control tokens. (R142) -/
  | cand (f : FmtC)
  /-- COR: OR of two control tokens. (R142) -/
  | cor (f : FmtC)
  /-- CNOT: Inverts a control token. (R142) -/
  | cnot (f : FmtC)
  /-- CXOR: XOR of two control tokens. (R142) -/
  | cxor (f : FmtC)
  /-- CDAT: Turns a control token into a packet holding TV or FV. (R143) -/
  | cdat (f : FmtC)
  /-- SPLIT: Deals the tokens of a stream round-robin over the replication group's members. (R145) -/
  | split (f : FmtC)
  /-- OMERGE: Reassembles the members' outputs in stream order. (R146) -/
  | omerge (f : FmtC)
  /-- SINK: Discards tokens, or traps on poison when PTRAP is set. (R148) -/
  | sink (f : FmtC)
  /-- LD: Issues a load of 1 to 8 bytes. (R157) -/
  | ld (f : FmtM)
  /-- ST: Issues a store of 1 to 8 bytes. (R158) -/
  | st (f : FmtM)
  /-- LDP: Issues a 32-byte packet load. (R157) -/
  | ldp (f : FmtM)
  /-- STP: Issues a packet store of the whole R payload. (R158) -/
  | stp (f : FmtM)
  /-- LDFE: Issues a load that waits for a full line, and may empty it. (R160) -/
  | ldfe (f : FmtM)
  /-- STFE: Issues a store that sets the line full, waiting for empty under OR = 3. (R160) -/
  | stfe (f : FmtM)
  /-- LNEMP: Sets a line's full/empty bit to empty. (R160) -/
  | lnemp (f : FmtM)
  /-- LNFUL: Sets a line's full/empty bit to full. (R160) -/
  | lnful (f : FmtM)
  /-- AMO: Issues an atomic read-modify-write of function FN at the home. (R161) -/
  | amo (f : FmtM)
  /-- CAS: Issues an atomic compare-and-swap. (R162) -/
  | cas (f : FmtM)
  /-- FENCE: Joins two tokens into clean ordering tokens. (R164) -/
  | fence (f : FmtM)
  /-- PREF: Looks up or walks a translation and reports whether reading is permitted. (R165) -/
  | pref (f : FmtM)
  /-- RMW: Issues a cluster-local interlocked read-modify-write with forwarding. (R163) -/
  | rmw (f : FmtM)
  /-- SBIND: Issues a command that binds a stream port to a pattern descriptor. (R186) -/
  | sbind (f : FmtE)
  /-- SFREE: Issues a command that closes a stream port, flushing or zero-filling as needed. (R186) -/
  | sfree (f : FmtE)
  /-- TCOPY: Issues a bulk byte-copy command. (R187) -/
  | tcopy (f : FmtE)
  /-- TGATH: Issues an indexed gather command. (R188) -/
  | tgath (f : FmtE)
  /-- TSCAT: Issues an indexed scatter command. (R188) -/
  | tscat (f : FmtE)
  /-- BOARD: Issues a command that registers a ring boarding window. (R189) -/
  | board (f : FmtE)
  /-- MIGR: Issues a command that migrates pages to a memory tier. (R190) -/
  | migr (f : FmtE)
  /-- MSEND: Issues a command that sends a message to an inbox. (R191) -/
  | msend (f : FmtE)
  /-- SWAIT: Issues a command that waits on a semaphore. (R192) -/
  | swait (f : FmtE)
  /-- SSIG: Issues a command that signals a semaphore. (R192) -/
  | ssig (f : FmtE)
  /-- SSET: Issues a command that sets a semaphore atomically, as a release. (R192) -/
  | sset (f : FmtE)
  /-- KICK: Issues a command that launches a task of the job or submits a job card. (R193) -/
  | kick (f : FmtE)
  /-- RSPEED: Records or withdraws the task's ring-speed vote. (R194) -/
  | rspeed (f : FmtE)
  /-- REPL: Issues a command that requests replicas for a replication group. (R195) -/
  | repl (f : FmtE)
  /-- EXIT: Selects the successor block at a frame offset. (R198) -/
  | exit (f : FmtB)
  /-- EXITI: Selects the successor block at the address on L; address 0 ends the task. (R198) -/
  | exiti (f : FmtB)
  /-- CALL: Selects a callee block at an offset, parking registers and writing lk. (R199) -/
  | call (f : FmtB)
  /-- CALLI: Selects a callee block at the address on L. (R199) -/
  | calli (f : FmtB)
  /-- RET: Selects the return address on L and unparks the registers. (R198) -/
  | ret (f : FmtB)
  /-- TRAP: Raises a software trap with a given code and freezes the region. (R201) -/
  | trap (f : FmtT)
  /-- YIELD: Selects a resume block and releases the region at the boundary. (R200) -/
  | yield (f : FmtB)
  /-- BRK: Raises T_BRK and freezes the region. (R201) -/
  | brk (f : FmtT)
  /-- SYSRD: Reads a system register. (R203) -/
  | sysrd (f : FmtS)
  /-- SYSWR: Writes a system register. (R203) -/
  | syswr (f : FmtS)
  /-- TSGET: Reads the package time stamp. (R204) -/
  | tsget (f : FmtS)
  /-- TRET: Ends trap handling with resume, kill or restart. (R205) -/
  | tret (f : FmtS)
  /-- TLBINV: Starts a TLB invalidation. (R206) -/
  | tlbinv (f : FmtS)
  /-- KEYREV: Starts revoking or reinstating a partition key at the drawer switch. (R207) -/
  | keyrev (f : FmtS)
  /-- CTXSV: Freezes a cluster's region and starts writing its snapshot to a CSA. (R208) -/
  | ctxsv (f : FmtS)
  /-- CTXLD: Starts restoring a CSA into a cluster. (R208) -/
  | ctxld (f : FmtS)
  /-- CFGLD: Starts loading a drawer slot table. (R209) -/
  | cfgld (f : FmtS)
  /-- LINKQ: Starts quiescing or resuming a UCIe module. (R210) -/
  | linkq (f : FmtS)
  /-- EVWAIT: Starts waiting for an event of a class or for a deadline. (R211) -/
  | evwait (f : FmtS)
  /-- OPERAND_DISCARD: A predicated node whose P head fails its mode removes one operand set. (R27) -/
  | operandDiscard (c : Nat) (i : Nat)
  /-- SHADOW_USABLE: A shadow load completes and its checked image becomes usable. (R212) -/
  | shadowUsable (c : Nat)
  /-- TEARDOWN_INJECTION: Once the selecting firing and SMASK stores are done, read entries stop and emit teardown markers. (R221) -/
  | teardownInjection (c : Nat)
  /-- NODE_RETIRE: A node whose forward queues all hold markers retires, discards and emits markers. (R224) -/
  | nodeRetire (c : Nat) (i : Nat)
  /-- NODE_FLIP: A retired node flips to its shadow configuration once its back queues have their markers. (R224) -/
  | nodeFlip (c : Nat) (i : Nat)
  /-- PURGE_MARKER: A node meets purge markers, drops run-ahead tokens and passes one purge marker on. (R231) -/
  | purgeMarker (c : Nat) (i : Nat)
  /-- BLOCK_BOUNDARY: After teardown and SMASK stores complete, the boundary runs steps 3 to 9. (R213) -/
  | blockBoundary (c : Nat)
  /-- BLOCK_START: In cycle S the successor's slots are armed and its read entries sample. (R213) -/
  | blockStart (c : Nat)
  /-- AWAIT_READ: An await read entry fires when its pending register write lands. (R217) -/
  | awaitRead (c : Nat) (e : Nat)
  /-- POP_DELIVERY: A pop read entry delivers one ready element and its last flag. (R215) -/
  | popDelivery (c : Nat) (e : Nat)
  /-- PEEK_DELIVERY: A peek read entry delivers the head element without popping it. (R215) -/
  | peekDelivery (c : Nat) (e : Nat)
  /-- GATE_DROP: A gate token pops one element and delivers it, or discards it on false. (R215) -/
  | gateDrop (c : Nat) (e : Nat)
  /-- GATE_HOLD: A gate token pops and delivers on true, and pops nothing on false. (R215) -/
  | gateHold (c : Nat) (e : Nat)
  /-- STREAM_FETCH: A pattern engine's read for the prefetch window completes. (R241) -/
  | streamFetch (c : Nat) (p : Nat)
  /-- PORT_PUSH: A port write entry pushes a token to the next positions of a dense or indexed binding. (R243) -/
  | portPush (c : Nat) (e : Nat)
  /-- SQUEEZE_PUSH: A port write entry pushes a value and ordinal to a squeeze binding, zero-filling the gap. (R244) -/
  | squeezePush (c : Nat) (e : Nat)
  /-- MEMORY_ACCESS_PERFORM: An issued access performs and delivers its data and completion token. (R150) -/
  | memoryAccessPerform (c : Nat) (k : Nat) (age : Nat)
  /-- FULL_EMPTY_WAKE: A line state change wakes the parked requests at the home ME in arrival order. (R160) -/
  | fullEmptyWake (line : Nat)
  /-- PARK_RETRY: A request that found no parking entry retries after 16 cycles. (R160) -/
  | parkRetry (c : Nat) (k : Nat)
  /-- TABLE_WALK: A TLB miss walks the page tables and fills the TLB or faults. (R341) -/
  | tableWalk (c : Nat) (k : Nat)
  /-- MMA_COMPLETE: The MAC array frees and the mma completion token is emitted. (R170) -/
  | mmaComplete (c : Nat) (cell : Nat)
  /-- SHADOW_LOADED: An ldst read finishes and the shadow plane goes LOADED. (R172) -/
  | shadowLoaded (c : Nat) (cell : Nat)
  /-- MDRAIN_COMPLETE: A drain has performed; the tile goes READY, the semaphore is signalled and completion is emitted. (R175) -/
  | mdrainComplete (c : Nat) (k : Nat)
  /-- ENGINE_WAIT: A command's semaphore wait is satisfied in arrival order and the threshold is subtracted. (R180) -/
  | engineWait (c : Nat) (k : Nat)
  /-- TILE_CLAIM: A command claims a tile once it reaches the needed state. (R256) -/
  | tileClaim (c : Nat) (k : Nat)
  /-- DESCRIPTOR_READ: A command reads its descriptor and begins execution. (R180) -/
  | descriptorRead (c : Nat) (k : Nat)
  /-- BYTE_MODE_SIGNAL: A byte-mode command signals the growth of its performed prefix. (R182) -/
  | byteModeSignal (c : Nat) (k : Nat)
  /-- ENGINE_COMPLETION: A command finishes its work, signals, and emits its completion token. (R180) -/
  | engineCompletion (c : Nat) (k : Nat)
  /-- INBOX_SEND: The home ME reserves inbox space for a message once it fits, and writes it. (R251) -/
  | inboxSend (c : Nat) (k : Nat)
  /-- INBOX_PUBLISH: COMMIT advances over a written message once earlier ones are published. (R251) -/
  | inboxPublish (c : Nat) (k : Nat)
  /-- MIGRATE_PAGE: The migration engine moves one page and switches its PTE. (R354) -/
  | migratePage (c : Nat) (k : Nat)
  /-- TRAP_RECORD: The hub writes a trap record into the ring once it has space. (R376) -/
  | trapRecord
  /-- HANDLER_DISPATCH: The hub creates and dispatches a handler task for a record. (R376) -/
  | handlerDispatch
  /-- TRAP_HKILL: A write of GO kills the task frozen in the named cluster. (R375) -/
  | trapHkill (value : Word)
  /-- BUDGET_EXPIRY: BUDGET reaches zero and T_BUDGET freezes the region. (R229) -/
  | budgetExpiry (c : Nat)
  /-- PROBE_SEND: A queue blocked for PROBE_DELAY cycles sends a deadlock probe. (R331) -/
  | probeSend (c : Nat) (i : Nat) (slot : Nat)
  /-- PROBE_HOP: A probe moves one queue along the waits. (R331) -/
  | probeHop (k : Nat)
  /-- FORCED_RECOVERY_POINT: A replay-buffer overflow forces a snapshot recovery point. (R386) -/
  | forcedRecoveryPoint (c : Nat)
  /-- SOFT_ERROR: An uncorrectable error in state rolls back automatically or traps. (R389) -/
  | softError (c : Nat) (unit : Nat) (cell : Nat) (slot : Nat)
  /-- UMPIRE_COMPARE: An umpire matches the twin items, performs once, or rolls back on a mismatch. (R391) -/
  | umpireCompare (c : Nat) (k : Nat)
  /-- UMPIRE_TIMEOUT: A twin item fails to arrive within UWAIT cycles. (R392) -/
  | umpireTimeout (c : Nat) (k : Nat)
  /-- JQ_DOOR: A doorbell write enqueues a card address, or is dropped. (R315) -/
  | jqDoor (value : Word)
  /-- JOB_LOAD: The hub loads the next card: checks it and creates its tasks. (R314) -/
  | jobLoad
  /-- TASK_END: A task ends once its stores and commands have completed. (R316) -/
  | taskEnd (t : Nat)
  /-- DISPATCH: A free region chooses a task from the bench, by steal, or from the pool, and restores it. (R322) -/
  | dispatch (c : Nat)
  /-- EPRIO_PROMOTION: A waiting task's EPRIO rises after STARVE cycles. (R323) -/
  | eprioPromotion (t : Nat)
  /-- PREEMPTION_REQUEST: The sequencer requests pre-emption of a running task for a waiting one. (R325) -/
  | preemptionRequest (c : Nat) (t : Nat)
  /-- PREEMPTION_SNAPSHOT: PWAIT expires, waiting windows are cancelled, and the region is snapshotted. (R326) -/
  | preemptionSnapshot (c : Nat)
  /-- LAP_START: A gap frame begins a lap: the lap list is taken and class-3 events are posted. (R282) -/
  | lapStart
  /-- TILE_INJECT: At a tile boundary the feeder injects the next tile, or pauses, or changes speed. (R283) -/
  | tileInject
  /-- BOARDING_REGISTRATION: A board registers its window once a window is free, or raises T_RINGMISS. (R285) -/
  | boardingRegistration (c : Nat) (k : Nat)
  /-- TILE_CAPTURE: A stop copies a targeted tile, checks its CRC and writes it. (R288) -/
  | tileCapture (c : Nat) (bad : Bool)
  /-- WINDOW_CLOSE: A window's last tile is written, so it closes, signals and completes. (R288) -/
  | windowClose (c : Nat) (k : Nat)
  /-- REGISTER_WRITE: A write to a register that has no behaviour of its own. (R8) -/
  | registerWrite (sysno : Nat) (value : Word) (link : Nat)
  /-- SEED_WRITE: A write of SEED re-initialises the stochastic generators. (R45) -/
  | seedWrite (t : Nat) (value : Word)
  /-- LINK_RETRAIN_GO: A write of GO starts a retrain, or sets FAIL. (R398) -/
  | linkRetrainGo (m : Nat)
  /-- LINK_RETRAIN_END: A retrain ends and sets CUR and FAIL. (R398) -/
  | linkRetrainEnd (m : Nat) (badLanes : BitVec 64) (badSpares : BitVec 4)
  /-- FLIT_RECEIVE: A module receives a flit, checks its CRC and sequence, and NACKs for replay. (R395) -/
  | flitReceive (m : Nat) (seqno : Nat) (good : Bool) (lane : Nat)
  /-- LINKQ_COMPLETE: A quiesce or resume of a module completes. (R210) -/
  | linkqComplete (c : Nat) (k : Nat)
  /-- IDE_ROLLOVER: A write of ROLL starts an IDE key rollover. (R401) -/
  | ideRollover (f : Nat)
  /-- IDE_AUTO_ROLLOVER: A rollover starts after 2^40 flits under one key. (R401) -/
  | ideAutoRollover (f : Nat)
  /-- IDE_SLOT_RETIRE: The old key slot retires once no flit under it is held. (R401) -/
  | ideSlotRetire (f : Nat)
  /-- MAC_FAILURE: A flit fails its MAC three times, stopping the link and setting KEYERR. (R401) -/
  | macFailure (f : Nat)
  /-- DRAWER_SLOT_PLACE: An eligible request takes the earliest permitted slot. (R349) -/
  | drawerSlotPlace (f : Nat) (k : Nat)
  /-- DRAWER_RESPONSE: A drawer or peer response arrives in its paired inbound slot. (R349) -/
  | drawerResponse (f : Nat) (k : Nat)
  /-- PEER_REQUEST: A peer package's request arrives and is answered seven positions later. (R349) -/
  | peerRequest (f : Nat) (ch : Nat) (addr : Nat) (key : Nat)
  /-- LINK_STALL: A request not placed in a slot within 2 ms raises T_LINKSTALL. (R393) -/
  | linkStall (f : Nat) (k : Nat)
  /-- SLOT_TABLE_SWITCH: A loaded slot table switches in at a frame boundary. (R209) -/
  | slotTableSwitch
  /-- CHANNEL_CALIBRATION: A channel is calibrated in one slot every 2^25 cycles. (R400) -/
  | channelCalibration (f : Nat) (ch : Nat)
  /-- CHANNEL_DOWN: A channel loses wavelength lock and its entries act as idle. (R400) -/
  | channelDown (f : Nat) (ch : Nat)
  /-- CHANNEL_RELOCK: A down channel relocks and returns to service. (R400) -/
  | channelRelock (f : Nat) (ch : Nat)
  /-- TLBINV_COMPLETE: An invalidation has drained from every TLB in scope. (R206) -/
  | tlbinvComplete (c : Nat) (k : Nat)
  /-- KEYREV_ACK: The switch acknowledges a key revocation or reinstatement. (R207) -/
  | keyrevAck (c : Nat) (k : Nat)
  /-- CTXSV_COMPLETE: A snapshot has been written to the CSA. (R208) -/
  | ctxsvComplete (c : Nat) (k : Nat)
  /-- CTXLD_COMPLETE: A CSA restore finishes and the task resumes. (R208) -/
  | ctxldComplete (c : Nat) (k : Nat)
  /-- EVWAIT_WAKE: An evwait wakes on a latched event or on its deadline. (R211) -/
  | evwaitWake (c : Nat) (k : Nat)
  /-- HOST_ACCESS: The host reads or writes HBM over CXL.mem. (R353) -/
  | hostAccess (op : HostOp)
  /-- PATROL_SCRUB: Scrub reads, corrects or marks a sector as one action. (R404) -/
  | patrolScrub (addr : Nat) (bad : Bool)
  /-- TELEMETRY_SAMPLE: Telemetry is sampled every 2^20 cycles. (R403) -/
  | telemetrySample
  /-- THROTTLE: A cluster island skips a whole cycle under thermal or power limits. (R405) -/
  | throttle (c : Nat)
  /-- COLD_RESET: A fundamental reset or a write of RESET runs the reset sequence. (R406) -/
  | coldReset (fail : Nat)
  /-- ATTESTATION_REQUEST: The controller answers a nonce with a signed attestation report. (R408) -/
  | attestationRequest (nonce : List Byte)
  /-- MODC_ADVANCE: In every cycle in which a region is not frozen, MODC advances by one and BUDGET counts down, and freed pool entries return. (R29) -/
  | modcAdvance (c : Nat)
  /-- CFGLD_COMPLETE: The slot table that cfgld reads finishes arriving, and the cfgld completion token is emitted with VAL 1, or with VAL 0 if the read faulted. (R209) -/
  | cfgldComplete (c : Nat) (k : Nat)
  /-- CLUSTER_POWER_GATE: The management controller power-gates a cluster that holds no task, so that a later dispatch there pays the wake time. (R405) -/
  | clusterPowerGate (c : Nat)
deriving DecidableEq, Repr

end Sys2Proof
end

