-- ==== Sys2Proof/WellFormed.lean ====
section
/-!
DEFINITION. Which instruction words are legal: the checks that R78 makes on one word after OP and PM, each under the
reason of R80. The fields of a format are read here once. An event is well formed when the units it names exist.
-/

namespace Sys2Proof

/-- Bits h down to l of a field, as a number (R3). -/
def bitsOf {n : Nat} (w : BitVec n) (h l : Nat) : Nat := (w.toNat / 2 ^ l) % 2 ^ (h + 1 - l)

namespace Ty

/-- The 4-bit code of R74. -/
def code : Ty → Nat
  | i64 => 0 | i32 => 1 | i16 => 2 | i8 => 3 | f64 => 4 | f32 => 5 | f16 => 6 | bf16 => 7 | e4m3 => 8 | e5m2 => 9
  | e2m1 => 10 | mx8 => 11 | mx4 => 12 | mxi8 => 13 | xs320 => 14

/-- The type of a code; none for 15. -/
def ofCode : Nat → Option Ty
  | 0 => some i64 | 1 => some i32 | 2 => some i16 | 3 => some i8 | 4 => some f64 | 5 => some f32 | 6 => some f16
  | 7 => some bf16 | 8 => some e4m3 | 9 => some e5m2 | 10 => some e2m1 | 11 => some mx8 | 12 => some mx4
  | 13 => some mxi8 | 14 => some xs320 | _ => none

/-- The lane width of a header type in bits (R13). -/
def laneWidth : Ty → Nat
  | i64 | f64 | xs320 => 64
  | _ => 32

/-- The greatest legal lane count of a header type (R13). -/
def maxLanes : Ty → Nat
  | i64 | f64 => 4
  | xs320 => 5
  | _ => 8

/-- The width of one element in bits (R35, R37). -/
def elemBits : Ty → Nat
  | i64 | f64 => 64
  | i32 | f32 => 32
  | i16 | f16 | bf16 => 16
  | i8 | e4m3 | e5m2 | mx8 | mxi8 => 8
  | e2m1 | mx4 => 4
  | xs320 => 320

def isInt : Ty → Bool
  | i64 | i32 | i16 | i8 => true
  | _ => false

/-- f64, f32, f16 and bf16: the types of the floating-point arithmetic (R107). -/
def isFloat : Ty → Bool
  | f64 | f32 | f16 | bf16 => true
  | _ => false

/-- The floating-point element types, codes 4 to 10 (R37). -/
def isFp : Ty → Bool
  | f64 | f32 | f16 | bf16 | e4m3 | e5m2 | e2m1 => true
  | _ => false

/-- The block formats, codes 11 to 13 (R40). -/
def isBlock : Ty → Bool
  | mx8 | mx4 | mxi8 => true
  | _ => false

end Ty

/-- What a format-A opcode accepts (R94): its types, the MD bits it uses, the IMM21 bits it defines when IR = 0,
whether it takes an immediate, whether PM must be 00, and the range faults of its fields. -/
structure ARule where
  ty : Ty → Bool
  md : BitVec 6 := 0
  imm : BitVec 21 := 0
  ir : Bool := false
  pm0 : Bool := false
  bad : FmtA → Bool := fun _ => false

/-- MD bits of R35 and R43: RND [5:3], SAT [2], FTZ [1], PX [0]. -/
def mdSat : BitVec 6 := 0b000100
def mdAll : BitVec 6 := 0b111111
def mdRsf : BitVec 6 := 0b111110

/-- HI of `fcvt`, `fcvti` and `icvtf` is legal only into 64-bit lanes from 32-bit lanes (R111, R112). -/
def hiBad (dst : Ty) (src : Option Ty) (hi : Bool) : Bool :=
  match src with
  | none => true
  | some a => hi && !(dst.laneWidth == 64 && a.laneWidth == 32)

/-- Fields of `bqnt` and `bdeq` (R115, R116) in range: VAR only with mx8; GRP = 3 not with f64. -/
def blockBad (f : FmtA) (lo : Nat) (group3 : Bool) : Bool :=
  let t := bitsOf f.imm 3 0
  (t < lo || 7 < t) || (f.imm.getLsbD 4 && f.ty != .mx8) || (bitsOf f.imm 6 5 == 3 && group3)

/-- Integer arithmetic on L and R or an immediate (R99). -/
def ruleInt : ARule := { ty := Ty.isInt, ir := true }
/-- Integer arithmetic with SAT (R99). -/
def ruleIntSat : ARule := { ty := Ty.isInt, ir := true, md := mdSat }
/-- Floating-point arithmetic with an immediate (R107). -/
def ruleFp (md : BitVec 6) : ARule := { ty := Ty.isFloat, ir := true, md := md }
/-- Special functions (R114). -/
def ruleSpecial : ARule := { ty := fun t => t == .f32 || t == .f16 || t == .bf16, md := mdAll }
/-- Types 0 to 10, for the packet instructions of R119 to R122. -/
def tyPacket (t : Ty) : Bool := t.isInt || t.isFp
/-- Types of `lutx`, `fsmst` and `hashx` (R123, R126). -/
def tyWide (t : Ty) : Bool := t == .i32 || t == .i64

/-- The LUT fields of R123: BASE + count at most 64 and the count at most the lane width. -/
def lutBad (f : FmtA) : Bool :=
  let b := bitsOf f.imm 5 0
  let c := bitsOf f.imm 11 6 + 1
  64 < b + c || f.ty.laneWidth < c

namespace Instr

/-- The format-A rule of an instruction; none for the other formats. CLR of `lutx` is outside the fields it defines, so that
CLR = 1 gives reason 0x0A, as every nonzero bit that an opcode does not define (R123, R78; log entry 13). -/
def aRule : Instr → Option (FmtA × ARule)
  | add f | sub f | adds f | addsu f | subs f | subsu f | mulh f | mulhu f | divu f | rem f | remu f | min f | max f
  | minu f | maxu f | land f | lor f | lxor f | andn f | shr f | sra f | rotl f | ceq f | cne f | clt f | cltu f | cle f
  | cleu f | ctst f | bext f | bdep f => some (f, ruleInt)
  | mul f | div f | shl f | addmin f => some (f, ruleIntSat)
  | neg f | abs f => some (f, { ruleIntSat with ir := false })
  | lnot f | clz f | ctz f | popc f => some (f, { ruleInt with ir := false })
  | sext f | zext f => some (f, { ruleInt with
      ir := false, imm := 0x7F
      bad := fun f => bitsOf f.imm 6 0 == 0 || f.ty.elemBits < bitsOf f.imm 6 0 })
  | bswap f => some (f, { ty := fun t => t.isInt && t != .i8 })
  | sel f => some (f, { ty := fun t => t.isInt || t.isFloat, ir := true, pm0 := true })
  | movi f => some (f, { ty := Ty.isInt, imm := 0x1FFFFF })
  | movhi f => some (f, { ty := tyWide, imm := 0x1FFFFF })
  | lea f => some (f, { ty := fun t => t == .i64, ir := true, imm := 0x1FFFFF })
  | fadd f | fsub f | fmul f => some (f, ruleFp mdAll)
  | fmac f => some (f, { ruleFp mdAll with pm0 := true })
  | fmin f | fmax f | feq f | flt f | fle f | funord f => some (f, ruleFp 0b000011)
  | fabs f | fneg f => some (f, { ty := Ty.isFp })
  | frnd f => some (f, { ruleFp 0b111011 with ir := false })
  | fcvt f => some (f, {
      ty := Ty.isFp, md := mdAll, imm := 0x1F
      bad := fun f => let s := bitsOf f.imm 3 0
        s < 4 || 10 < s || hiBad f.ty (Ty.ofCode s) (f.imm.getLsbD 4) })
  | fcvti f => some (f, {
      ty := Ty.isInt, md := mdRsf, imm := 0x3F
      bad := fun f => let s := bitsOf f.imm 3 0
        s < 4 || 10 < s || hiBad f.ty (Ty.ofCode s) (f.imm.getLsbD 4) })
  | icvtf f => some (f, {
      ty := Ty.isFp, md := mdRsf, imm := 0x3F
      bad := fun f => let s := bitsOf f.imm 3 0
        3 < s || hiBad f.ty (Ty.ofCode s) (f.imm.getLsbD 4) })
  | frcp f | frsq f | fexp2 f | flog2 f | ftanh f => some (f, ruleSpecial)
  | fsqrt f => some (f, { ruleSpecial with ty := Ty.isFloat })
  | bqnt f => some (f, { ty := Ty.isBlock, md := 0b111010, imm := 0x7F, pm0 := true
                         bad := fun f => blockBad f 4 (bitsOf f.imm 3 0 == 4) })
  | bdeq f => some (f, { ty := Ty.isBlock, md := mdRsf, imm := 0x7F, bad := fun f => blockBad f 5 false })
  | xsacc f => some (f, { ty := fun t => t.isInt || (t.isFp && t != .f64) || t == .xs320
                          md := if f.ty.isFp then 0b000010 else 0, pm0 := true })
  | xsfin f => some (f, { ty := Ty.isFp, md := mdRsf })
  | psum f => some (f, { ty := fun t => t.isInt || t.isFloat, md := if f.ty.isInt then mdSat else mdAll })
  | pmax f | pmin f => some (f, { ty := fun t => t.isInt || t.isFloat, md := if f.ty.isInt then 0 else 0b000011 })
  | plsh f => some (f, { ty := tyPacket, imm := 0xF, bad := fun f => bitsOf f.imm 3 0 == 8 })
  | pperm f | pjoin f => some (f, { ty := tyPacket })
  | plen f => some (f, { ty := tyPacket })
  | pbcast f => some (f, { ty := tyPacket, imm := 0x77
                           bad := fun f => f.ty.maxLanes < bitsOf f.imm 6 4 + 1 })
  | pext f => some (f, { ty := tyPacket, imm := 0x7 })
  | pins f => some (f, { ty := tyPacket, imm := 0x7, ir := true
                         bad := fun f => !f.ir && f.ty.maxLanes ≤ bitsOf f.imm 2 0 })
  | psplit f => some (f, { ty := tyPacket, imm := 0x7, bad := fun f => bitsOf f.imm 2 0 == 0 })
  | pmask f => some (f, { ty := tyPacket, ir := true })
  | lutx f => some (f, { ty := tyWide, imm := 0x1FFF, bad := lutBad })
  | fsmst f => some (f, { ty := tyWide, imm := 0x3FFF, bad := lutBad })
  | hashx f => some (f, { ty := tyWide, ir := true })
  | mma f => some (f, { ty := fun t => t == .bf16 || t.isBlock, imm := 0x1FF })
  | ldst f => some (f, { ty := fun t => t == .i64, imm := 0x7F
                         bad := fun f => f.imm.getLsbD 6 && bitsOf f.imm 5 0 != 0 })
  | mswap f => some (f, { ty := fun t => t == .i64 })
  | mzero f => some (f, { ty := fun t => t == .i64, imm := 0x3 })
  | mdrain f => some (f, { ty := fun t => t == .i64, imm := 0x3F
                           bad := fun f => f.imm.getLsbD 2 && bitsOf f.imm 5 3 != 0 })
  | tstat f => some (f, { ty := fun t => t == .i64, imm := 0x1FF })
  | tset f => some (f, { ty := fun t => t == .i64, imm := 0x7BF
                         bad := fun f => bitsOf f.imm 8 7 == 3 ||
                           (bitsOf f.imm 8 7 != 0 && bitsOf f.imm 10 9 != 0) })
  | _ => none

/-- Bits of an immediate that must be zero under IR = 1 (R95, R122). -/
def immBad (i : Instr) (f : FmtA) : Bool :=
  match i with
  | pmask f => bitsOf f.imm 20 8 != 0
  | _ => match f.ty with
    | .f16 | .bf16 => bitsOf f.imm 20 16 != 0
    | .e4m3 | .e5m2 => bitsOf f.imm 20 8 != 0
    | .e2m1 => bitsOf f.imm 20 4 != 0
    | _ => false

/-- What a router operator accepts (R128): CF and IMM24 bits, types, PM = 00, range faults. -/
structure CRule where
  cf : BitVec 6 := 0
  imm : BitVec 24 := 0
  ty : Ty → Bool := fun t => t == .i64
  pm0 : Bool := false
  bad : FmtC → Bool := fun _ => false

/-- The rule of R128 of a router operator; none for the other formats. -/
def cRule : Instr → Option (FmtC × CRule)
  | mov f | mrga f | cand f | cor f | cnot f | cxor f => some (f, {})
  | mov4 f => some (f, { imm := 0xFFFFF })
  | steer f | merge f => some (f, { pm0 := true })
  | gate f => some (f, { cf := 1, pm0 := true })
  | carry f => some (f, { cf := 3, pm0 := true })
  | invar f => some (f, { cf := 1, pm0 := !f.cf.getLsbD 0 })
  | loopgen f => some (f, { cf := 3, imm := 0xFFFFFF, ty := tyWide, bad := fun f => f.imm == 0 })
  | repeatN f => some (f, { cf := 1, imm := 0xFFFFFF, bad := fun f => f.cf.getLsbD 0 && f.imm == 0 })
  | cdat f => some (f, { imm := 0xFFFFFF, ty := Ty.isInt })
  | split f => some (f, { imm := 3, pm0 := true })
  | omerge f => some (f, { cf := 1, imm := 3 })
  | sink f => some (f, { cf := 1, pm0 := true })
  | _ => none

/-- The format-M fields of a memory instruction. -/
def mFmt : Instr → Option FmtM
  | ld f | st f | ldp f | stp f | ldfe f | stfe f | lnemp f | lnful f | amo f | cas f | fence f | pref f | rmw f => some f
  | _ => none

/-- A combination of SZ, SC and OR outside R151 (and R69, R163): reason 0x0B. -/
def mBad (i : Instr) : Bool :=
  let chk (f : FmtM) (sz : Nat → Bool) (sc : Nat) (ord : List Nat) : Bool :=
    !(sz f.sz.toNat && f.sc.toNat ≤ sc && ord.contains f.ord.toNat)
  match i with
  | ld f => chk f (· ≤ 3) 3 [0, 1]
  | st f => chk f (· ≤ 3) 3 [0, 2]
  | ldp f => chk f (· == 4) 3 [0, 1]
  | stp f => chk f (· == 4) 3 [0, 2]
  | ldfe f => chk f (· ≤ 4) 2 [1, 3]
  | stfe f => chk f (· ≤ 4) 2 [2, 3]
  | lnemp f | lnful f => chk f (· == 5) 2 [0, 2]
  | amo f | cas f => chk f (fun s => s == 2 || s == 3) 3 [0, 1, 2, 3]
  | fence f => chk f (· == 0) 0 [0] || f.lsid != 0 || f.off != 0
  | pref f => chk f (· == 5) 0 [0] || f.lsid != 0
  | rmw f => chk f (fun s => s == 2 || s == 3) 0 [0]
  | _ => false

/-- FN of `amo` and `rmw` (R69, R163). -/
def fnOf (f : FmtM) : Nat := bitsOf f.off 20 16

/-- A reserved SZ, SC or FN: reason 0x0A (R68, R69, R163). -/
def mField (i : Instr) (f : FmtM) : Bool :=
  5 < f.sz.toNat || 3 < f.sc.toNat ||
    (match i with
     | amo f => 11 < fnOf f
     | rmw f => 5 < fnOf f
     | _ => false)

/-- The format-E fields of an engine command. -/
def eFmt : Instr → Option FmtE
  | sbind f | sfree f | tcopy f | tgath f | tscat f | board f | migr f | msend f | swait f | ssig f | sset f | kick f
  | rspeed f | repl f => some f
  | _ => none

/-- The FLG bits a command defines (R185), beside WKEEP in bit 9 (R179). -/
def flgMask : Instr → BitVec 10
  | sbind _ => 0x1F
  | sfree _ => 0xF
  | tcopy _ => 7
  | tgath _ => 1
  | tscat _ => 5
  | board _ => 1
  | kick _ => 3
  | rspeed _ => 7
  | repl _ => 0x1F
  | _ => 0

/-- Field faults of a command: reason 0x0A (R71, R179). -/
def eField (i : Instr) (f : FmtE) : Bool :=
  (f.wsem == 0xFF && f.wthr != 0) || (f.ssem == 0xFF && f.sinc != 0) ||
    f.flg &&& ~~~(0x200 ||| i.flgMask) != 0 || (f.wsem == 0xFF && f.flg.getLsbD 9)

/-- Combinations of a command that R185, R192, R194 and R195 reject: reason 0x0B. -/
def eBad (i : Instr) : Bool :=
  let byteMode (f : FmtE) : Bool := f.ssem != 0xFF && f.sinc == 0
  match i with
  | sbind f | kick f => byteMode f
  | swait f => byteMode f || f.wsem == 0xFF
  | ssig f => byteMode f || f.ssem == 0xFF || f.sinc == 0
  | sset f => f.ssem == 0xFF || f.sinc != 0 || f.wthr == 0xFFF
  | rspeed f => byteMode f || (f.flg.getLsbD 2 && bitsOf f.flg 1 0 != 0)
  | repl f => byteMode f || 4 < bitsOf f.flg 4 2
  | _ => false

/-- The format-S fields of a system instruction. -/
def sFmt : Instr → Option FmtS
  | sysrd f | syswr f | tsget f | tret f | tlbinv f | keyrev f | ctxsv f | ctxld f | cfgld f | linkq f | evwait f => some f
  | _ => none

/-- A SYSNO outside the range of R202: reason 0x0B. -/
def sBad : Instr → Bool
  | sysrd _ | syswr _ => false
  | cfgld f => f.sysno.toNat < 0x600 || 0x603 < f.sysno.toNat
  | evwait f => 4 < f.sysno.toNat
  | tsget f | tret f | tlbinv f | keyrev f | ctxsv f | ctxld f | linkq f => f.sysno != 0
  | _ => false

/-- A reserved or undefined bit of the word: reason 0x0A (R78). -/
def fieldFault (i : Instr) : Bool :=
  match i.aRule, i.cRule, i.mFmt, i.eFmt with
  | some (f, r), _, _, _ => if f.ir then r.ir && i.immBad f else f.imm &&& ~~~r.imm != 0
  | _, some (f, r), _, _ => f.cf &&& ~~~r.cf != 0 || f.imm &&& ~~~r.imm != 0
  | _, _, some f, _ => i.mField f
  | _, _, _, some f => i.eField f
  | _, _, _, _ => false

/-- An illegal combination of TY, MD, IR, SZ, SC, OR, PM or a stated range: reason 0x0B (R78). -/
def comboFault (i : Instr) : Bool :=
  match i.aRule, i.cRule with
  | some (f, r), _ =>
    !r.ty f.ty || f.md &&& ~~~r.md != 0 || bitsOf f.md 5 3 == 7 || (f.ir && !r.ir) || (r.pm0 && f.pm != .always) || r.bad f
  | _, some (f, r) => !r.ty f.ty || (r.pm0 && f.pm != .always) || r.bad f
  | _, _ =>
    match i with
    | trap f => bitsOf f.code 7 0 == 0 || 0x12 < bitsOf f.code 7 0
    | i => i.mBad || i.eBad || i.sBad

/-- Whether the instruction drives T0 and T1 (R65); a field it does not drive holds 0x3FF. -/
def drives : Instr → Bool × Bool
  | split _ => (true, false)
  | sink _ => (false, false)
  | st _ | stp _ | stfe _ | lnemp _ | lnful _ | pref _ => (false, true)
  | _ => (true, true)

/-- The targets T0 and T1 of an instruction, in order; `mov4` has two more (R70). -/
def targets01 (i : Instr) : Target × Target :=
  match i.aRule, i.cRule, i.mFmt, i.eFmt, i.sFmt with
  | some (f, _), _, _, _, _ => (f.t0, f.t1)
  | _, some (f, _), _, _, _ => (f.t0, f.t1)
  | _, _, some f, _, _ => (f.t0, f.t1)
  | _, _, _, some f, _ => (f.t0, .none)
  | _, _, _, _, some f => (f.t0, f.t1)
  | _, _, _, _, _ => (.none, .none)

end Instr

namespace Target

/-- The 10-bit field of R64. -/
def code : Target → Nat
  | left n => n.toNat
  | right n => 256 + n.toNat
  | pred n => 512 + n.toNat
  | write n => 768 + n.toNat
  | gate n => 768 + 32 + n.toNat
  | none => 0x3FF

/-- The target of a 10-bit field; nothing for a reserved combination (R64). -/
def ofCode (v : Nat) : Option Target :=
  if v < 192 then some (.left (BitVec.ofNat 8 v))
  else if 256 ≤ v ∧ v < 448 then some (.right (BitVec.ofNat 8 (v - 256)))
  else if 512 ≤ v ∧ v < 704 then some (.pred (BitVec.ofNat 8 (v - 512)))
  else if 768 ≤ v ∧ v < 800 then some (.write (BitVec.ofNat 5 (v - 768)))
  else if 800 ≤ v ∧ v < 832 then some (.gate (BitVec.ofNat 5 (v - 800)))
  else if v = 0x3FF then some .none
  else Option.none

/-- An operand slot of instruction 0 to 191, an entry, or none (R64). -/
def ok : Target → Bool
  | left n | right n | pred n => n.toNat < 192
  | _ => true

end Target

/-- T2 and T3 of `mov4`: IMM24 [9:0] and [19:10] (R70). -/
def mov4Target (f : FmtC) (second : Bool) : Option Target :=
  Target.ofCode (if second then bitsOf f.imm 19 10 else bitsOf f.imm 9 0)

namespace Instr

/-- A reserved target combination (R64): reason 0x08. -/
def targetFault (i : Instr) : Bool :=
  !i.targets01.1.ok || !i.targets01.2.ok ||
    (match i with
     | mov4 f => (mov4Target f false).isNone || (mov4Target f true).isNone
     | _ => false)

/-- A target field the instruction does not drive holds another value than 0x3FF (R65): reason 0x09. -/
def undrivenFault (i : Instr) : Bool :=
  (!i.drives.1 && i.targets01.1 != .none) || (!i.drives.2 && i.targets01.2 != .none)

/-- The number of clusters, of cells of a cluster and of node slots (R1). -/
abbrev nClusters : Nat := 64
abbrev nCells : Nat := 48
abbrev nSlots : Nat := 192

/-- The units an event names exist (R1, R394, R347); every instruction passes. -/
def unitsOk : Instr → Bool
  | operandDiscard c i | nodeRetire c i | nodeFlip c i | purgeMarker c i => c < nClusters && i < nSlots
  | shadowUsable c | teardownInjection c | blockBoundary c | blockStart c | budgetExpiry c | forcedRecoveryPoint c
  | dispatch c | preemptionSnapshot c | throttle c | modcAdvance c | clusterPowerGate c => c < nClusters
  | awaitRead c e | popDelivery c e | peekDelivery c e | gateDrop c e | gateHold c e | portPush c e | squeezePush c e =>
    c < nClusters && e < 32
  | streamFetch c p => c < nClusters && p < 16
  | memoryAccessPerform c _ _ => c < nClusters
  | fullEmptyWake _ => true
  | parkRetry c _ | tableWalk c _ | mdrainComplete c _ | engineWait c _ | tileClaim c _ | descriptorRead c _
  | byteModeSignal c _ | engineCompletion c _ | inboxSend c _ | inboxPublish c _ | migratePage c _ | umpireCompare c _
  | umpireTimeout c _ | boardingRegistration c _ | windowClose c _ | linkqComplete c _ | tlbinvComplete c _
  | keyrevAck c _ | ctxsvComplete c _ | ctxldComplete c _ | evwaitWake c _ | cfgldComplete c _ => c < nClusters
  | mmaComplete c l | shadowLoaded c l => c < nClusters && l < nCells
  | probeSend c i s => c < nClusters && i < nSlots && s < 3
  | softError c u l s => c < nClusters && l < nCells && ((u ≤ 6 && s < nSlots) || (16 ≤ u && u ≤ 22))
  | preemptionRequest c _ => c < nClusters
  | tileCapture c _ => c < nClusters
  | linkRetrainGo m | linkRetrainEnd m _ _ => m < 416
  | flitReceive m _ _ l => m < 832 && l < 68
  | ideRollover f | ideAutoRollover f | ideSlotRetire f | macFailure f => f < 2
  | drawerSlotPlace f _ | drawerResponse f _ | linkStall f _ => f < 2
  | peerRequest f ch _ _ => f < 2 && ch < 192
  | channelCalibration f ch | channelDown f ch | channelRelock f ch => f < 2 && ch < 384
  | coldReset k => k ≤ 7
  | _ => true

/-- The word passes every check of R78 that needs nothing but the word, or the event names units that exist. -/
def wellFormed (i : Instr) : Bool :=
  !i.targetFault && !i.undrivenFault && !i.fieldFault && !i.comboFault && i.unitsOk

end Instr

end Sys2Proof
end

