-- ==== Sys2Proof/Decode.lean ====
section
/-!
DEFINITION. The decoder of instruction words, total on 64 bits and rejecting by name (R66 to R78), the parser of the
parts of a block image (R55 to R62), the CRC-32C of R82, and the encoder of the words of well-formed instructions.
-/

namespace Sys2Proof

/-- The REASON code of a rejection (R80). -/
def Reject.reason : Reject → Nat
  | .version => 0x01 | .counts => 0x02 | .headerReserved => 0x03 | .check => 0x04 | .misaligned => 0x05
  | .opcode => 0x06 | .predicate => 0x07 | .target => 0x08 | .consumer => 0x09 | .reserved => 0x0A
  | .combination => 0x0B | .phase => 0x0C | .exits => 0x0D | .readEntry => 0x0E | .writeEntry => 0x0F
  | .lutFrame => 0x10 | .privilege => 0x12

namespace Decode

/-- The format-A opcodes of R75. -/
def opA : Nat → Option (FmtA → Instr)
  | 0x01 => some .add  | 0x02 => some .sub  | 0x03 => some .adds  | 0x04 => some .addsu  | 0x05 => some .subs
  | 0x06 => some .subsu  | 0x07 => some .mul  | 0x08 => some .mulh  | 0x09 => some .mulhu  | 0x0A => some .div
  | 0x0B => some .divu  | 0x0C => some .rem  | 0x0D => some .remu  | 0x0E => some .neg  | 0x0F => some .abs
  | 0x10 => some .min  | 0x11 => some .max  | 0x12 => some .minu  | 0x13 => some .maxu  | 0x14 => some .addmin
  | 0x15 => some .land  | 0x16 => some .lor  | 0x17 => some .lxor  | 0x18 => some .andn  | 0x19 => some .lnot
  | 0x1A => some .shl  | 0x1B => some .shr  | 0x1C => some .sra  | 0x1D => some .rotl  | 0x1E => some .clz
  | 0x1F => some .ctz  | 0x20 => some .popc  | 0x21 => some .sext  | 0x22 => some .zext  | 0x23 => some .bswap
  | 0x24 => some .sel  | 0x25 => some .ceq  | 0x26 => some .cne  | 0x27 => some .clt  | 0x28 => some .cltu
  | 0x29 => some .cle  | 0x2A => some .cleu  | 0x2B => some .ctst  | 0x2C => some .movi  | 0x2D => some .movhi
  | 0x2E => some .lea  | 0x40 => some .fadd  | 0x41 => some .fsub  | 0x42 => some .fmul  | 0x43 => some .fmac
  | 0x44 => some .fmin  | 0x45 => some .fmax  | 0x46 => some .fabs  | 0x47 => some .fneg  | 0x48 => some .feq
  | 0x49 => some .flt  | 0x4A => some .fle  | 0x4B => some .funord  | 0x4C => some .fcvt
  | 0x4D => some .fcvti  | 0x4E => some .icvtf  | 0x4F => some .frnd  | 0x50 => some .frcp
  | 0x51 => some .frsq  | 0x52 => some .fsqrt  | 0x53 => some .fexp2  | 0x54 => some .flog2
  | 0x55 => some .ftanh  | 0x56 => some .bqnt  | 0x57 => some .bdeq  | 0x58 => some .xsacc
  | 0x59 => some .xsfin  | 0x5A => some .psum  | 0x5B => some .pmax  | 0x5C => some .pmin
  | 0x5D => some .plsh  | 0x5E => some .pperm  | 0x5F => some .pbcast  | 0x60 => some .pext
  | 0x61 => some .pins  | 0x62 => some .pjoin  | 0x63 => some .psplit  | 0x64 => some .plen
  | 0x65 => some .pmask  | 0x70 => some .lutx  | 0x71 => some .fsmst  | 0x72 => some .bext
  | 0x73 => some .bdep  | 0x74 => some .hashx  | 0x78 => some .mma  | 0x79 => some .ldst
  | 0x7A => some .mswap  | 0x7B => some .mzero  | 0x7C => some .mdrain  | 0x7D => some .tstat
  | 0x7E => some .tset
  | _ => none

/-- The format-C opcodes of R75. -/
def opC : Nat → Option (FmtC → Instr)
  | 0x80 => some .mov  | 0x81 => some .mov4  | 0x82 => some .steer  | 0x83 => some .gate
  | 0x84 => some .merge  | 0x85 => some .mrga  | 0x86 => some .carry  | 0x87 => some .invar
  | 0x88 => some .loopgen  | 0x89 => some .repeatN  | 0x8A => some .cand  | 0x8B => some .cor
  | 0x8C => some .cnot  | 0x8D => some .cxor  | 0x8E => some .cdat  | 0x8F => some .split
  | 0x90 => some .omerge  | 0x91 => some .sink
  | _ => none

/-- The format-M opcodes of R75. -/
def opM : Nat → Option (FmtM → Instr)
  | 0xA0 => some .ld  | 0xA1 => some .st  | 0xA2 => some .ldp  | 0xA3 => some .stp  | 0xA4 => some .ldfe
  | 0xA5 => some .stfe  | 0xA6 => some .lnemp  | 0xA7 => some .lnful  | 0xA8 => some .amo  | 0xA9 => some .cas
  | 0xAA => some .fence  | 0xAB => some .pref  | 0xAC => some .rmw
  | _ => none

/-- The format-E opcodes of R75. -/
def opE : Nat → Option (FmtE → Instr)
  | 0xC0 => some .sbind  | 0xC1 => some .sfree  | 0xC2 => some .tcopy  | 0xC3 => some .tgath
  | 0xC4 => some .tscat  | 0xC5 => some .board  | 0xC6 => some .migr  | 0xC7 => some .msend
  | 0xC8 => some .swait  | 0xC9 => some .ssig  | 0xCA => some .sset  | 0xCB => some .kick
  | 0xCC => some .rspeed  | 0xCD => some .repl
  | _ => none

/-- The format-B opcodes of R75. -/
def opB : Nat → Option (FmtB → Instr)
  | 0xE0 => some .exit  | 0xE1 => some .exiti  | 0xE2 => some .call  | 0xE3 => some .calli
  | 0xE4 => some .ret  | 0xE6 => some .yield
  | _ => none

/-- The format-T opcodes of R75. -/
def opT : Nat → Option (FmtT → Instr)
  | 0xE5 => some .trap  | 0xE7 => some .brk
  | _ => none

/-- The format-S opcodes of R75. -/
def opS : Nat → Option (FmtS → Instr)
  | 0xF0 => some .sysrd  | 0xF1 => some .syswr  | 0xF2 => some .tsget  | 0xF3 => some .tret
  | 0xF4 => some .tlbinv  | 0xF5 => some .keyrev  | 0xF6 => some .ctxsv  | 0xF7 => some .ctxld
  | 0xF8 => some .cfgld  | 0xF9 => some .linkq  | 0xFA => some .evwait
  | _ => none

/-- PM of R66; none for 11. -/
def pmOf (v : Nat) : Option Pm :=
  match v with
  | 0 => some .always
  | 1 => some .onTrue
  | 2 => some .onFalse
  | _ => none

/-- The field of `w` that starts at bit `l` and is `n` bits wide. -/
def field (w : Word) (l n : Nat) : BitVec n := w.extractLsb' l n

/-- The checks that follow the targets (R78): T2 and T3, fields the instruction does not drive, reserved bits, the
combination of the fields. -/
def judge (i : Instr) : Except Reject Instr :=
  if i.targetFault then .error .target
  else if i.undrivenFault then .error .consumer
  else if i.fieldFault then .error .reserved
  else if i.comboFault then .error .combination
  else .ok i

/-- TY in bits [33:30]: for TY 15 the reserved bits are judged first (R74, R78). -/
def withTy (w : Word) (mk : Ty → Instr) : Except Reject Instr :=
  match Ty.ofCode (bitsOf w 33 30) with
  | some t => judge (mk t)
  | none =>
    match judge (mk .i64) with
    | .error .target => .error .target
    | .error .consumer => .error .consumer
    | .error .reserved => .error .reserved
    | _ => .error .combination

/-- The opcodes that drive T0 and those that drive T1 (R65), of the formats with both fields. -/
def driven0 (op : Nat) : Bool := !([0x91, 0xA1, 0xA3, 0xA5, 0xA6, 0xA7, 0xAB].contains op)
def driven1 (op : Nat) : Bool := !([0x8F, 0x91].contains op)

/-- T0 or T1, a field that is not driven, must hold 0x3FF (R65, R72). -/
def mustBeNone (v : Nat) : Option Reject := if v = 0x3FF then none else some .consumer

/-- The word of an exit-class instruction (R72): OFF20 is zero in the indirect forms. -/
def exitWord (w : Word) (pm : Pm) (mk : FmtB → Instr) : Except Reject Instr :=
  let direct := match mk { pm := pm, exn := 0, off := 0 } with
    | .exit _ | .call _ | .yield _ => true
    | _ => false
  if bitsOf w 10 0 != 0 || (!direct && bitsOf w 30 11 != 0) then .error .reserved
  else .ok (mk { pm := pm, exn := field w 31 3, off := field w 11 20 })

/-- The word of `trap` or `brk` (R72): [33:16] is zero. -/
def trapWord (w : Word) (pm : Pm) (mk : FmtT → Instr) : Except Reject Instr :=
  if bitsOf w 33 16 != 0 then .error .reserved
  else judge (mk { pm := pm, code := field w 0 16 })

/-- A word after its opcode, PM, T0 and T1 have been read. -/
def body (w : Word) (op : Nat) (pm : Pm) (t0 t1 : Target) : Except Reject Instr :=
  match opA op, opC op, opM op, opS op with
  | some mk, _, _, _ =>
    withTy w fun t => mk { pm := pm, t0 := t0, t1 := t1, ty := t, md := field w 24 6, ph := field w 22 2,
                           ir := w.getLsbD 21, imm := field w 0 21 }
  | _, some mk, _, _ =>
    withTy w fun t => mk { pm := pm, t0 := t0, t1 := t1, ty := t, cf := field w 24 6, imm := field w 0 24 }
  | _, _, some mk, _ =>
    judge (mk { pm := pm, t0 := t0, t1 := t1, sz := field w 31 3, sc := field w 28 3, ord := field w 26 2,
                lsid := field w 21 5, off := field w 0 21 })
  | _, _, _, some mk =>
    if bitsOf w 21 0 != 0 then .error .reserved
    else judge (mk { pm := pm, t0 := t0, t1 := t1, sysno := field w 22 12 })
  | _, _, _, _ => .error .opcode

/-- Every opcode of R75 has a format. -/
def known (op : Nat) : Bool :=
  (opA op).isSome || (opC op).isSome || (opM op).isSome || (opE op).isSome || (opB op).isSome || (opT op).isSome ||
    (opS op).isSome

end Decode

open Decode in
/-- The instruction of a 64-bit word, or the reason of its rejection, judged in the order of R78: OP, PM, the targets,
the format fields, the combination. -/
def decode (w : Word) : Except Reject Instr :=
  let op := bitsOf w 63 56
  if !known op then .error .opcode
  else
    match pmOf (bitsOf w 55 54) with
    | none => .error .predicate
    | some pm =>
      match opE op with
      | some mk =>
        match Target.ofCode (bitsOf w 53 44) with
        | none => .error .target
        | some t0 => judge (mk { pm := pm, t0 := t0, flg := field w 34 10, wsem := field w 26 8, wthr := field w 14 12,
                                 ssem := field w 6 8, sinc := field w 0 6 })
      | none =>
        match opB op, opT op with
        | some mk, _ =>
          match mustBeNone (bitsOf w 53 44), mustBeNone (bitsOf w 43 34) with
          | some e, _ => .error e
          | _, some e => .error e
          | none, none => exitWord w pm mk
        | _, some mk =>
          match mustBeNone (bitsOf w 53 44), mustBeNone (bitsOf w 43 34) with
          | some e, _ => .error e
          | _, some e => .error e
          | none, none => trapWord w pm mk
        | none, none =>
          match Target.ofCode (bitsOf w 53 44), Target.ofCode (bitsOf w 43 34) with
          | some t0, some t1 => body w op pm t0 t1
          | none, _ => .error (if driven0 op then .target else .consumer)
          | _, none => .error (if driven1 op then .target else .consumer)

/-- The instruction the decoder reads from a table row's word: its 64 bits, numbered as the opcode table numbers them,
which is as R3 numbers the bits of a word; every instruction is one word. -/
def decodeTableWord (nbits w : Nat) : Option Instr :=
  if 64 < nbits then none
  else
    match decode (BitVec.ofNat 64 (w % 2 ^ nbits)) with
    | .ok i => some i
    | .error _ => none

namespace Instr

/-- The opcode of an instruction (R75); an event has none, and 0 is no opcode (R76). -/
def opcode : Instr → Nat
  | .add _ => 0x01  | .sub _ => 0x02  | .adds _ => 0x03  | .addsu _ => 0x04  | .subs _ => 0x05
  | .subsu _ => 0x06  | .mul _ => 0x07  | .mulh _ => 0x08  | .mulhu _ => 0x09  | .div _ => 0x0A
  | .divu _ => 0x0B  | .rem _ => 0x0C  | .remu _ => 0x0D  | .neg _ => 0x0E  | .abs _ => 0x0F  | .min _ => 0x10
  | .max _ => 0x11  | .minu _ => 0x12  | .maxu _ => 0x13  | .addmin _ => 0x14  | .land _ => 0x15
  | .lor _ => 0x16  | .lxor _ => 0x17  | .andn _ => 0x18  | .lnot _ => 0x19  | .shl _ => 0x1A
  | .shr _ => 0x1B  | .sra _ => 0x1C  | .rotl _ => 0x1D  | .clz _ => 0x1E  | .ctz _ => 0x1F  | .popc _ => 0x20
  | .sext _ => 0x21  | .zext _ => 0x22  | .bswap _ => 0x23  | .sel _ => 0x24  | .ceq _ => 0x25
  | .cne _ => 0x26  | .clt _ => 0x27  | .cltu _ => 0x28  | .cle _ => 0x29  | .cleu _ => 0x2A
  | .ctst _ => 0x2B  | .movi _ => 0x2C  | .movhi _ => 0x2D  | .lea _ => 0x2E  | .fadd _ => 0x40
  | .fsub _ => 0x41  | .fmul _ => 0x42  | .fmac _ => 0x43  | .fmin _ => 0x44  | .fmax _ => 0x45
  | .fabs _ => 0x46  | .fneg _ => 0x47  | .feq _ => 0x48  | .flt _ => 0x49  | .fle _ => 0x4A
  | .funord _ => 0x4B  | .fcvt _ => 0x4C  | .fcvti _ => 0x4D  | .icvtf _ => 0x4E  | .frnd _ => 0x4F
  | .frcp _ => 0x50  | .frsq _ => 0x51  | .fsqrt _ => 0x52  | .fexp2 _ => 0x53  | .flog2 _ => 0x54
  | .ftanh _ => 0x55  | .bqnt _ => 0x56  | .bdeq _ => 0x57  | .xsacc _ => 0x58  | .xsfin _ => 0x59
  | .psum _ => 0x5A  | .pmax _ => 0x5B  | .pmin _ => 0x5C  | .plsh _ => 0x5D  | .pperm _ => 0x5E
  | .pbcast _ => 0x5F  | .pext _ => 0x60  | .pins _ => 0x61  | .pjoin _ => 0x62  | .psplit _ => 0x63
  | .plen _ => 0x64  | .pmask _ => 0x65  | .lutx _ => 0x70  | .fsmst _ => 0x71  | .bext _ => 0x72
  | .bdep _ => 0x73  | .hashx _ => 0x74  | .mma _ => 0x78  | .ldst _ => 0x79  | .mswap _ => 0x7A
  | .mzero _ => 0x7B  | .mdrain _ => 0x7C  | .tstat _ => 0x7D  | .tset _ => 0x7E  | .mov _ => 0x80
  | .mov4 _ => 0x81  | .steer _ => 0x82  | .gate _ => 0x83  | .merge _ => 0x84  | .mrga _ => 0x85
  | .carry _ => 0x86  | .invar _ => 0x87  | .loopgen _ => 0x88  | .repeatN _ => 0x89  | .cand _ => 0x8A
  | .cor _ => 0x8B  | .cnot _ => 0x8C  | .cxor _ => 0x8D  | .cdat _ => 0x8E  | .split _ => 0x8F
  | .omerge _ => 0x90  | .sink _ => 0x91  | .ld _ => 0xA0  | .st _ => 0xA1  | .ldp _ => 0xA2  | .stp _ => 0xA3
  | .ldfe _ => 0xA4  | .stfe _ => 0xA5  | .lnemp _ => 0xA6  | .lnful _ => 0xA7  | .amo _ => 0xA8
  | .cas _ => 0xA9  | .fence _ => 0xAA  | .pref _ => 0xAB  | .rmw _ => 0xAC  | .sbind _ => 0xC0
  | .sfree _ => 0xC1  | .tcopy _ => 0xC2  | .tgath _ => 0xC3  | .tscat _ => 0xC4  | .board _ => 0xC5
  | .migr _ => 0xC6  | .msend _ => 0xC7  | .swait _ => 0xC8  | .ssig _ => 0xC9  | .sset _ => 0xCA
  | .kick _ => 0xCB  | .rspeed _ => 0xCC  | .repl _ => 0xCD  | .exit _ => 0xE0  | .exiti _ => 0xE1
  | .call _ => 0xE2  | .calli _ => 0xE3  | .ret _ => 0xE4  | .trap _ => 0xE5  | .yield _ => 0xE6
  | .brk _ => 0xE7  | .sysrd _ => 0xF0  | .syswr _ => 0xF1  | .tsget _ => 0xF2  | .tret _ => 0xF3
  | .tlbinv _ => 0xF4  | .keyrev _ => 0xF5  | .ctxsv _ => 0xF6  | .ctxld _ => 0xF7  | .cfgld _ => 0xF8
  | .linkq _ => 0xF9  | .evwait _ => 0xFA
  | _ => 0

end Instr

/-- The code of PM (R66). -/
def Pm.code : Pm → Nat
  | .always => 0
  | .onTrue => 1
  | .onFalse => 2

/-- The common fields OP, PM, T0 and T1 of R66 with the 34 format bits below them. -/
def headWord (op : Nat) (pm : Pm) (t0 t1 low : Nat) : Word :=
  BitVec.ofNat 64 (op * 2 ^ 56 + pm.code * 2 ^ 54 + t0 * 2 ^ 44 + t1 * 2 ^ 34 + low)

/-- The word of an instruction, from the formats of R66 to R73; an event has none and encodes as 0, no instruction. -/
def encode (i : Instr) : Word :=
  match i.aRule, i.cRule, i.mFmt, i.eFmt, i.sFmt with
  | some (f, _), _, _, _, _ =>
    headWord i.opcode f.pm f.t0.code f.t1.code
      (f.ty.code * 2 ^ 30 + f.md.toNat * 2 ^ 24 + f.ph.toNat * 2 ^ 22 + f.ir.toNat * 2 ^ 21 + f.imm.toNat)
  | _, some (f, _), _, _, _ =>
    headWord i.opcode f.pm f.t0.code f.t1.code (f.ty.code * 2 ^ 30 + f.cf.toNat * 2 ^ 24 + f.imm.toNat)
  | _, _, some f, _, _ =>
    headWord i.opcode f.pm f.t0.code f.t1.code
      (f.sz.toNat * 2 ^ 31 + f.sc.toNat * 2 ^ 28 + f.ord.toNat * 2 ^ 26 + f.lsid.toNat * 2 ^ 21 + f.off.toNat)
  | _, _, _, some f, _ =>
    headWord i.opcode f.pm f.t0.code f.flg.toNat
      (f.wsem.toNat * 2 ^ 26 + f.wthr.toNat * 2 ^ 14 + f.ssem.toNat * 2 ^ 6 + f.sinc.toNat)
  | _, _, _, _, some f => headWord i.opcode f.pm f.t0.code f.t1.code (f.sysno.toNat * 2 ^ 22)
  | _, _, _, _, _ =>
    match i with
    | .exit f | .exiti f | .call f | .calli f | .ret f | .yield f =>
      headWord i.opcode f.pm 0x3FF 0x3FF (f.exn.toNat * 2 ^ 31 + f.off.toNat * 2 ^ 11)
    | .trap f | .brk f => headWord i.opcode f.pm 0x3FF 0x3FF f.code.toNat
    | _ => 0

/-- OFF20 of the indirect exits is zero (R72): part of being well formed for the encoder. -/
def Instr.encodable (i : Instr) : Bool :=
  i.wellFormed &&
    (match i with
     | .exiti f | .calli f | .ret f => f.off == 0
     | i => i.opcode != 0)

/-! ## Block images -/

namespace Image

/-- Bits h down to l of a number. -/
def nbits (v h l : Nat) : Nat := (v / 2 ^ l) % 2 ^ (h + 1 - l)

/-- A little-endian number of bytes (R4). -/
def leNat (bs : List Byte) : Nat := bs.foldr (fun b acc => b.toNat + 256 * acc) 0

/-- The bytes from offset `o`, `n` of them; missing bytes read as zero. -/
def slice (bs : List Byte) (o n : Nat) : List Byte :=
  let t := (bs.drop o).take n
  t ++ List.replicate (n - t.length) 0

/-- Cut a list into pieces of `n` (with `fuel` pieces at most). -/
def chunks (n : Nat) : Nat → List Byte → List (List Byte)
  | 0, _ => []
  | fuel + 1, bs => if bs.isEmpty then [] else bs.take n :: chunks n fuel (bs.drop n)

/-- One bit of the reflected CRC-32C (R82). -/
def crcBit (c : Nat) : Nat := if c % 2 = 1 then Nat.xor (c / 2) 0x82F63B78 else c / 2

/-- One byte of the CRC-32C. -/
def crcByte (c : Nat) (b : Byte) : Nat :=
  crcBit (crcBit (crcBit (crcBit (crcBit (crcBit (crcBit (crcBit (Nat.xor c b.toNat))))))))

/-- The CRC-32C of R82. -/
def crc32c (bs : List Byte) : Nat := Nat.xor (bs.foldl crcByte 0xFFFFFFFF) 0xFFFFFFFF

/-- The image with its four CHECK bytes taken as zero (R82). -/
def withoutCheck (bs : List Byte) : List Byte := bs.take 16 ++ List.replicate 4 0 ++ bs.drop 20

/-- Frames of an image with the counts of its header (R55). -/
def frames (nins nrd nwr nlf : Nat) : Nat := 1 + (nrd + 7) / 8 + (nwr + 7) / 8 + nlf + (nins + 3) / 4

/-- The header fields of R57, before any check: NINS, NRD, NWR, NLF. -/
def counts (h : Nat) : Nat × Nat × Nat × Nat := (nbits h 15 8, nbits h 21 16, nbits h 27 22, nbits h 75 72)

/-- The reserved fields of the header are zero (R57). -/
def headerClean (h : Nat) : Bool := nbits h 127 76 == 0 && nbits h 255 160 == 0

def modeOf (v : Nat) : Option RdMode :=
  match v with
  | 0 => some .plain
  | 1 => some .pop
  | 2 => some .peek
  | 3 => some .gateDrop
  | 4 => some .gateHold
  | 5 => some .await
  | _ => none

/-- A read entry (R59, R60); a reserved MODE, a nonzero reserved bit or a mode that does not suit the register is
`readEntry`, a reserved target combination is `target`. -/
def readEntry (v : Nat) : Except Reject ReadEntry :=
  match modeOf (nbits v 9 7) with
  | none => .error .readEntry
  | some m =>
    let reg := nbits v 6 0
    let ok := match m with
      | .plain => reg < 112
      | .await => 1 ≤ reg && reg < 112
      | _ => 112 ≤ reg
    if nbits v 31 30 != 0 || !ok then .error .readEntry
    else
      match Target.ofCode (nbits v 19 10), Target.ofCode (nbits v 29 20) with
      | some t0, some t1 => .ok { reg := BitVec.ofNat 7 reg, mode := m, t0 := t0, t1 := t1 }
      | _, _ => .error .target

/-- A write entry (R61). -/
def writeEntry (v : Nat) : Except Reject WriteEntry :=
  if nbits v 31 8 != 0 then .error .writeEntry
  else .ok { reg := BitVec.ofNat 7 v, opt := v.testBit 7 }

/-- A SEL code that R62 does not reserve. -/
def selOk (s : Nat) : Bool := s < 0xC2

/-- A LUT descriptor: `none` when empty, an error when R62 forbids it. -/
def lutDesc (w0 w1 : Nat) : Except Reject (Option LutDesc) :=
  if !w0.testBit 61 then (if w0 = 0 ∧ w1 = 0 then .ok none else .error .lutFrame)
  else
    let sels := [nbits w0 19 12, nbits w0 27 20, nbits w0 35 28, nbits w0 43 36, nbits w0 51 44, nbits w0 59 52]
    let cell := nbits w0 5 0
    let lut := nbits w0 11 6
    if 48 ≤ cell || nbits w0 63 62 != 0 || !sels.all selOk || (w0.testBit 60 && lut < 32) then .error .lutFrame
    else .ok (some { cell := cell, lut := lut, sel := sels.map (BitVec.ofNat 8), ffen := w0.testBit 60,
                     truth := BitVec.ofNat 64 w1 })

/-- The two words of a LUT descriptor (R62), as a context image keeps them (R333). -/
def lutWords (d : LutDesc) : Nat × Nat :=
  let s := d.sel.foldr (fun b acc => b.toNat + 256 * acc) 0
  (d.cell + d.lut * 2 ^ 6 + s * 2 ^ 12 + d.ffen.toNat * 2 ^ 60 + 2 ^ 61, d.truth.toNat)

end Image

end Sys2Proof
end

