-- ==== Sys2Proof/Machine/Num.lean ====
section
/-!
DEFINITION. The number formats and their arithmetic (spec/02): integers, floating-point values as exact dyadic numbers,
round_to, cvt_int, the exact sum xs320, the stochastic generator, and the special functions of R114.
-/

namespace Sys2Proof.Num

/-! ## Integers (R35, R36) -/

/-- wrap(x, n): the low n bits (R36). -/
def wrap (x : Int) (n : Nat) : Nat := (x % (2 ^ n : Int)).toNat

/-- s(x): an n-bit pattern read as signed. -/
def sval (x n : Nat) : Int := if x % 2 ^ n < 2 ^ (n - 1) then ((x % 2 ^ n : Nat) : Int) else ((x % 2 ^ n : Nat) : Int) - 2 ^ n

/-- Clamp an integer between two bounds. -/
def clamp (x lo hi : Int) : Int := if x < lo then lo else if hi < x then hi else x

/-- sat(x, n, signed) as an n-bit pattern (R36). -/
def sat (x : Int) (n : Nat) (signed : Bool) : Nat :=
  if signed then wrap (clamp x (-(2 ^ (n - 1))) (2 ^ (n - 1) - 1)) n else wrap (clamp x 0 (2 ^ n - 1)) n

/-- fit(x): saturate under SAT, else wrap (R36). -/
def fit (s : Bool) (x : Int) (n : Nat) : Nat := if s then sat x n true else wrap x n

/-- sext(x, n) of an m-bit pattern, as an n-bit pattern (R7). -/
def sextTo (x m n : Nat) : Nat := wrap (sval x m) n

/-! ## Floating-point values (R37, R38) -/

/-- A value of a floating-point format: a NaN (signalling or quiet), an infinity, or (-1)^neg × m × 2^e. -/
inductive FVal where
  | nan (signalling : Bool)
  | inf (neg : Bool)
  | fin (neg : Bool) (m : Nat) (e : Int)
deriving DecidableEq, Repr

/-- Exponent and fraction bits of a format (R37). -/
def expBits : Ty → Nat
  | .f64 => 11 | .f32 => 8 | .f16 => 5 | .bf16 => 8 | .e4m3 => 4 | .e5m2 => 5 | .e2m1 => 2 | _ => 0
def fracBits : Ty → Nat
  | .f64 => 52 | .f32 => 23 | .f16 => 10 | .bf16 => 7 | .e4m3 => 3 | .e5m2 => 2 | .e2m1 => 1 | _ => 0
/-- The bias of a format (R37). -/
def bias (t : Ty) : Nat := 2 ^ (expBits t - 1) - 1
/-- Formats with infinities (R37). -/
def hasInf : Ty → Bool
  | .f64 | .f32 | .f16 | .bf16 | .e5m2 => true
  | _ => false

/-- The least exponent of a normal value. -/
def emin (t : Ty) : Int := 1 - (bias t : Int)

/-- The code of the largest finite magnitude (R37). -/
def maxCode (t : Ty) : Nat :=
  match t with
  | .e4m3 => 0x7E
  | .e2m1 => 0x7
  | t => (2 ^ expBits t - 1) * 2 ^ fracBits t - 1

/-- The code of +infinity. -/
def infCode (t : Ty) : Nat := (2 ^ expBits t - 1) * 2 ^ fracBits t

/-- The canonical NaN (R37); e2m1 has none and conversions into it give +0 (R49). -/
def nanCode : Ty → Nat
  | .f64 => 0x7FF8000000000000 | .f32 => 0x7FC00000 | .f16 => 0x7E00 | .bf16 => 0x7FC0 | .e4m3 => 0x7F | .e5m2 => 0x7E
  | _ => 0

/-- The sign bit of a format. -/
def signBit (t : Ty) : Nat := 2 ^ (expBits t + fracBits t)

def withSign (t : Ty) (neg : Bool) (code : Nat) : Nat := if neg then signBit t + code else code

/-- The value of a code (R37). -/
def decodeF (t : Ty) (bits : Nat) : FVal :=
  let neg := bits / signBit t % 2 == 1
  let ex := bits / 2 ^ fracBits t % 2 ^ expBits t
  let fr := bits % 2 ^ fracBits t
  if t == .e4m3 && ex == 15 && fr == 7 then .nan false
  else if hasInf t && ex == 2 ^ expBits t - 1 then
    if fr == 0 then .inf neg else .nan (t != .e5m2 && fr < 2 ^ (fracBits t - 1))
  else if ex == 0 then .fin neg fr (emin t - fracBits t)
  else .fin neg (2 ^ fracBits t + fr) ((ex : Int) - bias t - fracBits t)

/-- A subnormal operand is taken as a zero of its sign under FTZ (R47). -/
def flushIn (t : Ty) (ftz : Bool) (v : FVal) : FVal :=
  match v with
  | .fin neg m e => if ftz && m != 0 && m < 2 ^ fracBits t && e == emin t - fracBits t then .fin neg 0 0 else .fin neg m e
  | v => v

/-- Read an operand of format t, under FTZ. -/
def readF (t : Ty) (ftz : Bool) (bits : Nat) : FVal := flushIn t ftz (decodeF t bits)

/-- Whether a discarded fraction rem / 2^sh rounds the magnitude n up, by mode (R43, R45): 0 nearest even, 1 toward
zero, 2 toward +infinity, 3 toward -infinity, 4 nearest away, 5 stochastic with the draw z. -/
def roundsUp (mode : Nat) (neg : Bool) (z n rem sh : Nat) : Bool :=
  if rem == 0 then false
  else
    match mode with
    | 1 => false
    | 2 => !neg
    | 3 => neg
    | 4 => 2 ^ sh ≤ 2 * rem
    | 5 => z < rem * 2 ^ 24 / 2 ^ sh
    | _ => 2 ^ sh < 2 * rem || (2 * rem == 2 ^ sh && n % 2 == 1)

/-- Round the magnitude m × 2^e to a multiple of 2^q. -/
def roundAt (mode : Nat) (neg : Bool) (z m : Nat) (e q : Int) : Nat :=
  if q ≤ e then m * 2 ^ (e - q).toNat
  else
    let sh := (q - e).toNat
    let n := m / 2 ^ sh
    if roundsUp mode neg z n (m % 2 ^ sh) sh then n + 1 else n

/-- The magnitude code of n × 2^q on the grid of t, when it does not overflow. -/
def codeOf (t : Ty) (n : Nat) (q : Int) : Nat :=
  let fb := fracBits t
  let n' := if n < 2 ^ (fb + 1) then n else n / 2
  let q' := if n < 2 ^ (fb + 1) then q else q + 1
  if n' < 2 ^ fb then n' else ((q' + fb + bias t).toNat) * 2 ^ fb + (n' - 2 ^ fb)

/-- The result of an overflow (R46, the table). -/
def overflow (t : Ty) (mode : Nat) (sat neg : Bool) : Nat :=
  if sat || t == .e2m1 then withSign t neg (maxCode t)
  else
    let big := match mode with
      | 1 => false
      | 2 => !neg
      | 3 => neg
      | _ => true
    if !big then withSign t neg (maxCode t)
    else if t == .e4m3 then (if mode == 3 then 0xFF else 0x7F)
    else withSign t neg (infCode t)

/-- An infinite result (R46): kept where the format has infinities; e4m3 and e2m1 have none. -/
def infinite (t : Ty) (sat neg : Bool) : Nat :=
  if hasInf t then withSign t neg (infCode t)
  else if sat || t == .e2m1 then withSign t neg (maxCode t)
  else nanCode t

/-- round_to(v, F, md) of R46 with FTZ of R47: `mode` is the rounding mode in force, `z` the 24 bits drawn. -/
def roundTo (t : Ty) (mode : Nat) (sat ftz : Bool) (z : Nat) (v : FVal) : Nat :=
  match v with
  | .nan _ => nanCode t
  | .inf neg => infinite t sat neg
  | .fin neg m e =>
    if m == 0 then withSign t neg 0
    else
      let q := max (e + (Nat.log2 m : Int)) (emin t) - fracBits t
      let n := roundAt mode neg z m e q
      let code := codeOf t n q
      if maxCode t < code then overflow t mode sat neg
      else if ftz && code < 2 ^ fracBits t then withSign t neg 0
      else withSign t neg code

/-! ## Exact operations (R46 step 3, R48) -/

/-- A signalling NaN among the operands makes the operation invalid (R48). -/
def sig : FVal → Bool
  | .nan s => s
  | _ => false

def isNan : FVal → Bool
  | .nan _ => true
  | _ => false

def negF : FVal → FVal
  | .nan s => .nan s
  | .inf n => .inf (!n)
  | .fin n m e => .fin (!n) m e

/-- The signed integer of a finite value at the scale 2^e0. -/
def scaled (neg : Bool) (m : Nat) (e e0 : Int) : Int :=
  let v : Int := m * 2 ^ (e - e0).toNat
  if neg then -v else v

/-- a + b, exact, and whether it is invalid; an exact zero sum of opposite signs takes the sign of R46 step 3. -/
def addF (mode : Nat) (a b : FVal) : FVal × Bool :=
  match a, b with
  | .nan s, b => (.nan false, s || sig b)
  | a, .nan s => (.nan false, s || sig a)
  | .inf x, .inf y => if x == y then (.inf x, false) else (.nan false, true)
  | .inf x, _ => (.inf x, false)
  | _, .inf y => (.inf y, false)
  | .fin x m e, .fin y k d =>
    let e0 := min e d
    let s := scaled x m e e0 + scaled y k d e0
    if s == 0 then
      (.fin (if m == 0 && k == 0 && x == y then x else mode == 3) 0 0, false)
    else (.fin (s < 0) s.natAbs e0, false)

/-- a × b, exact, and whether it is invalid. -/
def mulF (a b : FVal) : FVal × Bool :=
  match a, b with
  | .nan s, b => (.nan false, s || sig b)
  | a, .nan s => (.nan false, s || sig a)
  | .inf x, .inf y => (.inf (x != y), false)
  | .inf x, .fin y k _ => if k == 0 then (.nan false, true) else (.inf (x != y), false)
  | .fin x m _, .inf y => if m == 0 then (.nan false, true) else (.inf (x != y), false)
  | .fin x m e, .fin y k d => (.fin (x != y) (m * k) (e + d), false)

/-- a < b with -0 = +0; false where either is a NaN (R110). -/
def ltF (a b : FVal) : Bool :=
  match a, b with
  | .nan _, _ => false
  | _, .nan _ => false
  | .inf x, .inf y => x && !y
  | .inf x, .fin _ _ _ => x
  | .fin _ _ _, .inf y => !y
  | .fin x m e, .fin y k d => let e0 := min e d; scaled x m e e0 < scaled y k d e0

/-- a = b for values that are no NaNs. -/
def eqF (a b : FVal) : Bool := !isNan a && !isNan b && !ltF a b && !ltF b a

def isNeg : FVal → Bool
  | .inf n => n
  | .fin n _ _ => n
  | _ => false

/-- a is the lesser operand of `fmin`: -0 counts as less than +0 (R109). -/
def lessEq (a b : FVal) : Bool := ltF a b || (!ltF b a && (isNeg a || !isNeg b))

/-- The exact integer value of an integer pattern. -/
def ofInt (x : Int) : FVal := .fin (x < 0) x.natAbs 0

/-! ## Conversions to integers and integral values (R50, R113) -/

/-- v rounded to an integer; none for a NaN or an infinity. -/
def toInt (mode z : Nat) (v : FVal) : Option Int :=
  match v with
  | .fin neg m e =>
    let n := roundAt mode neg z m e 0
    some (if neg then -(n : Int) else n)
  | _ => none

/-- cvt_int(v, n, signed, md) of R50: the pattern and whether the packet is poisoned with CAUSE 0x4. -/
def cvtInt (n : Nat) (signed sat : Bool) (mode z : Nat) (v : FVal) : Nat × Bool :=
  match v with
  | .nan _ => (0, true)
  | .inf neg =>
    if sat then (Num.sat (if neg then -(2 ^ 400) else 2 ^ 400) n signed, false) else (0, true)
  | .fin neg m e =>
    let k := roundAt mode neg z m e 0
    let x : Int := if neg then -(k : Int) else k
    let lo : Int := if signed then -(2 ^ (n - 1)) else 0
    let hi : Int := if signed then 2 ^ (n - 1) - 1 else 2 ^ n - 1
    if lo ≤ x && x ≤ hi then (wrap x n, false)
    else if sat then (Num.sat x n signed, false)
    else (0, true)

/-- `frnd` of a value: integral in the same format, the sign kept (R113). -/
def frndF (mode z : Nat) (v : FVal) : FVal :=
  match v with
  | .fin neg m e => if 0 ≤ e then .fin neg m e else .fin neg (roundAt mode neg z m e 0) 0
  | v => v

/-! ## The stochastic generator (R45) -/

def golden : Nat := 0x9E3779B97F4A7C15

/-- init(i) of R45. -/
def genInit (seed i : Nat) : Nat :=
  let g := Nat.xor seed ((i + 1) * golden % 2 ^ 64) % 2 ^ 64
  if g = 0 then golden else g

/-- The next state of a generator (R45). -/
def genNext (g : Nat) : Nat :=
  let g := Nat.xor g (g * 2 ^ 13 % 2 ^ 64)
  let g := Nat.xor g (g / 2 ^ 7)
  Nat.xor g (g * 2 ^ 17 % 2 ^ 64)

/-- The 24 bits drawn from a generator that has just stepped. -/
def genBits (g : Nat) : Nat := g / 2 ^ 40 % 2 ^ 24

/-- A rounding step draws under mode 5, and only then (R45): the bits and the generator after it. -/
def draw (mode g : Nat) : Nat × Nat := if mode = 5 then (genBits (genNext g), genNext g) else (0, g)

/-! ## xs320 (R41, R42) -/

def xsNan : Int := -(2 ^ 319)
def xsNegInf : Int := -(2 ^ 319) + 1
def xsPosInf : Int := 2 ^ 319 - 1

/-- xs_add of R42. -/
def xsAdd (a b : Int) : Int :=
  if a = xsNan ∨ b = xsNan then xsNan
  else if (a = xsPosInf ∧ b = xsNegInf) ∨ (a = xsNegInf ∧ b = xsPosInf) then xsNan
  else if a = xsPosInf ∨ b = xsPosInf then xsPosInf
  else if a = xsNegInf ∨ b = xsNegInf then xsNegInf
  else if 2 ^ 319 - 2 < a + b then xsPosInf
  else if a + b < -(2 ^ 319 - 2) then xsNegInf
  else a + b

/-- The exact xs320 code of a value of a format that converts (R41): units of 2^-149. -/
def xsOf (v : FVal) : Int :=
  match v with
  | .nan _ => xsNan
  | .inf neg => if neg then xsNegInf else xsPosInf
  | .fin neg m e => scaled neg m e (-149)

/-- The value of an xs320 code (R41). -/
def xsVal (m : Int) : FVal :=
  if m = xsNan then .nan false
  else if m = xsPosInf then .inf false
  else if m = xsNegInf then .inf true
  else .fin (m < 0) m.natAbs (-149)

/-! ## Special functions (R114): each exact value as a dyadic number with a sticky last bit -/

/-- Bits of the fixed-point work; far more than any rounding of R114 can see (log entry 9). -/
def prec : Nat := 320

/-- The greatest r with r * r ≤ n among numbers below 2^fuel, found bit by bit. -/
def isqrtAux (n : Nat) : Nat → Nat → Nat
  | 0, r => r
  | b + 1, r => isqrtAux n b (if (r + 2 ^ b) * (r + 2 ^ b) ≤ n then r + 2 ^ b else r)

def isqrt (n : Nat) : Nat := isqrtAux n (Nat.log2 n / 2 + 1) 0

/-- A positive value m × 2^e with a last bit that says whether something was cut off. -/
def sticky (neg : Bool) (m : Nat) (cut : Bool) (e : Int) : FVal := .fin neg (2 * m + cut.toNat) (e - 1)

/-- 1 / (m × 2^e), for m ≠ 0. -/
def recip (neg : Bool) (m : Nat) (e : Int) : FVal :=
  let s := Nat.log2 m + 200
  sticky neg (2 ^ s / m) (2 ^ s % m != 0) (-e - s)

/-- The square root of m × 2^e, for m ≠ 0. -/
def sqrtF (m : Nat) (e : Int) : FVal :=
  let s : Nat := if (e - 320) % 2 = 0 then 320 else 321
  let r := isqrt (m * 2 ^ s)
  sticky false r (r * r != m * 2 ^ s) ((e - s) / 2)

/-- 1 / sqrt(m × 2^e), for m ≠ 0. -/
def rsqrtF (m : Nat) (e : Int) : FVal :=
  let s0 := Nat.log2 m + 400
  let s : Nat := if (-e - s0) % 2 = 0 then s0 else s0 + 1
  let r := isqrt (2 ^ s / m)
  sticky false r (r * r * m != 2 ^ s) ((-e - s) / 2)

/-- 2 × sum of y^(2k+1) / (2k+1) for a fixed-point y: 2 artanh y. -/
def atanhAux (y2 : Nat) : Nat → Nat → Nat → Nat → Nat
  | 0, _, _, acc => acc
  | fuel + 1, k, p, acc => atanhAux y2 fuel (k + 1) (p * y2 / 2 ^ prec) (acc + p / (2 * k + 1))

def atanh2 (y : Nat) : Nat := 2 * atanhAux (y * y / 2 ^ prec) 110 0 y 0

/-- ln 2 in fixed point: 2 artanh(1/3). -/
def ln2 : Nat := atanh2 (2 ^ prec / 3)

/-- exp(x) for a fixed-point x below 2^prec, by its series. -/
def expAux (x : Nat) : Nat → Nat → Nat → Nat → Nat
  | 0, _, _, acc => acc
  | fuel + 1, k, t, acc => expAux x fuel (k + 1) (t * x / 2 ^ prec / (k + 1)) (acc + t)

def expFix (x : Nat) : Nat := expAux x 90 0 (2 ^ prec) 0

/-- The floor of ±m × 2^e and the rest in fixed point, with whether the rest is zero. -/
def splitInt (neg : Bool) (m : Nat) (e : Int) : Int × Nat × Bool :=
  if 0 ≤ e then ((if neg then -(m * 2 ^ e.toNat : Int) else m * 2 ^ e.toNat), 0, true)
  else
    let d : Nat := 2 ^ (-e).toNat
    let x : Int := if neg then -(m : Int) else m
    let n := x / (d : Int)
    let r := (x % (d : Int)).toNat
    (n, r * 2 ^ prec / d, r == 0)

/-- 2^(±m × 2^e); beyond ±5000 the exponent is cut, where every format over- or underflows. -/
def exp2F (neg : Bool) (m : Nat) (e : Int) : FVal :=
  if 14 < e + (Nat.log2 m : Int) then .fin false 1 (if neg then -20000 else 20000)
  else
    let (n, f, whole) := splitInt neg m e
    if whole then .fin false 1 n
    else sticky false (expFix (f * ln2 / 2 ^ prec)) true (n - prec)

/-- log2(m × 2^e), for m ≠ 0. -/
def log2F (m : Nat) (e : Int) : FVal :=
  let k := Nat.log2 m
  let ex : Int := e + k
  if m == 2 ^ k then ofInt ex
  else
    let y := (m - 2 ^ k) * 2 ^ prec / (m + 2 ^ k)
    let l : Int := ex * 2 ^ prec + ((atanh2 y * 2 ^ prec / ln2 : Nat) : Int)
    .fin (l < 0) (2 * l + 1).natAbs (-(prec : Int) - 1)

/-- tanh(±m × 2^e), for m ≠ 0: just below |x| when tiny, just below 1 when large, else (E - 1) / (E + 1). -/
def tanhF (neg : Bool) (m : Nat) (e : Int) : FVal :=
  let top := e + (Nat.log2 m : Int)
  if top < -30 then .fin neg (m * 2 ^ 200 - 1) (e - 200)
  else if 7 < top then .fin neg (2 ^ 200 - 1) (-200)
  else
    -- E = e^(2x) = 2^(2x / ln 2)
    let x2 := if 0 ≤ e + 1 then m * 2 ^ (e + 1 + prec).toNat else m * 2 ^ prec / 2 ^ (-(e + 1)).toNat
    let w := x2 * 2 ^ prec / ln2
    let n := w / 2 ^ prec
    let ee := expFix (w % 2 ^ prec * ln2 / 2 ^ prec) * 2 ^ n
    .fin neg (2 * ((ee - 2 ^ prec) * 2 ^ prec / (ee + 2 ^ prec)) + 1) (-(prec : Int) - 1)

/-! ## Block formats and the scale rule (R39, R40, R52) -/

/-- The element type of a block format: VAR selects the mx8 variant; none for mxi8, whose elements are integers. -/
def blockElem (t : Ty) (var : Bool) : Option Ty :=
  match t with
  | .mx8 => some (if var then .e5m2 else .e4m3)
  | .mx4 => some .e2m1
  | _ => none

/-- The value P_i of an element code (R40). -/
def elemVal (t : Ty) (var : Bool) (bits : Nat) : FVal :=
  match blockElem t var with
  | some e => decodeF e bits
  | none => let x := sval bits 8; .fin (x < 0) x.natAbs (-6)

/-- v × 2^k. -/
def scaleF (v : FVal) (k : Int) : FVal :=
  match v with
  | .fin n m e => .fin n m (e + k)
  | v => v

/-- An element times the E8M0 scale X: NaN when X = 0xFF (R40). -/
def blockVal (t : Ty) (var : Bool) (x bits : Nat) : FVal :=
  if x = 0xFF then .nan false else scaleF (elemVal t var bits) ((x : Int) - 127)

def finite : FVal → Bool
  | .fin _ _ _ => true
  | _ => false

/-- floor(log2 |v|), for a nonzero finite value. -/
def flog2 : FVal → Option Int
  | .fin _ m e => if m == 0 then none else some (e + (Nat.log2 m : Int))
  | _ => none

/-- emax of R52. -/
def emaxOf (t : Ty) (var : Bool) : Int :=
  match t with
  | .mx8 => if var then 15 else 8
  | .mx4 => 2
  | _ => 0

/-- The scale of a group (R52): 0xFF for a NaN or infinity, 0 for all zeros. -/
def bqScale (t : Ty) (var : Bool) (vs : List FVal) : Nat :=
  if vs.any fun v => !finite v then 0xFF
  else
    match (vs.filterMap flog2).foldl (fun a k => match a with | none => some k | some b => some (max b k)) none with
    | none => 0
    | some k => (clamp (k - emaxOf t var + 127) 0 254).toNat

/-- One element of a group (R52): always saturating. -/
def bqElem (t : Ty) (var : Bool) (x mode : Nat) (ftz : Bool) (z : Nat) (v : FVal) : Nat :=
  if x = 0xFF then 0
  else
    let w := scaleF v (127 - (x : Int))
    match blockElem t var with
    | some e => roundTo e mode true ftz z w
    | none => Num.sat ((toInt mode z (scaleF w 6)).getD 0) 8 true

/-- The lesser or greater of two values (R109): a NaN gives the canonical NaN. -/
def fmm (greater : Bool) (a b : FVal) : FVal × Bool :=
  if isNan a || isNan b then (.nan false, sig a || sig b)
  else (if lessEq a b == greater then b else a, false)

end Sys2Proof.Num
end

