-- ==== Sys2Proof/Config.lean ====
section
/-!
DEFINITION. What the manual leaves to the implementation or to the world outside the package: constants without a body,
so that no proof can rest on a value of theirs (log entries 5, 6, 20 and 48).
-/

namespace Sys2Proof.Config

/-- The bytes of a save area for which R333 gives a place and no form, by the number of the save (State.fresh) and the offset. -/
opaque saveByte : Nat → Nat → Byte

/-- The cycle at which the frames of the ring begin, at the feeder of N0 (R284). -/
opaque frameStart : Nat

/-- How far back the reads of a part of a cycle look whose order the manual leaves open (R262, R345), by the number of that
part: 64 bits for each byte of a 4096-byte window. -/
opaque lag : Nat → Nat

/-- The fused security version (R406). -/
opaque svn : BitVec 16

/-- Whether the drawer switch holds a partition key (R352), before any revocation. -/
opaque keyHeld : BitVec 16 → Bool

/-- Whether the drawer switch has assigned a peer package number (R336, R352). -/
opaque peerAssigned : BitVec 3 → Bool

/-- Whether a cluster's block cache keeps an image it has loaded (R369): cluster and physical address. -/
opaque cacheKeeps : Nat → Nat → Bool

/-- SHA3-256 (R407). -/
opaque sha3 : List Byte → List Byte

/-- The fused digest of the firmware's signing key (R407). -/
opaque keyDigest : List Byte

/-- ML-DSA-65 verification of a signature over a digest under a public key (R407). -/
opaque mlDsa : List Byte → List Byte → List Byte → Bool

/-- The security version that a firmware header states (R407). -/
opaque fwVersion : List Byte → Nat

/-- The device identity in an attestation report, and its signature with the certificate chain (R408). -/
opaque identity : List Byte
opaque attestation : List Byte → List Byte

/-- The spare map that a cold reset gives a module, from the fused record of bad lanes and the reset count (R406). -/
opaque spareMap : Nat → Nat → BitVec 32

/-- The lanes of a module that do not train at the cold reset of that count: data lanes 0 to 63, spares 64 to 67 (R396, R406). -/
opaque badLanes : Nat → Nat → BitVec 68

end Sys2Proof.Config
end

