-- ==== Sys2Proof/Machine/Table.lean ====
section
/-!
DEFINITION. A sparse table: what a numbered set of like things holds. A number that is not listed holds the default that
the reader of the table names, so that a table of 192 untouched slots is the empty list.
-/

namespace Sys2Proof.Machine

/-- A table by number. -/
abbrev Tbl (α : Type) := List (Nat × α)

/-- The entry of number k; `d` where none is listed. -/
def Tbl.get {α : Type} (d : α) : Tbl α → Nat → α
  | [], _ => d
  | (j, v) :: t, k => if j = k then v else Tbl.get d t k

/-- The entry of number k, if it is listed. -/
def Tbl.find {α : Type} : Tbl α → Nat → Option α
  | [], _ => none
  | (j, v) :: t, k => if j = k then some v else Tbl.find t k

/-- Writes the entry of number k. -/
def Tbl.set {α : Type} : Tbl α → Nat → α → Tbl α
  | [], k, v => [(k, v)]
  | (j, w) :: t, k, v => if j = k then (k, v) :: t else (j, w) :: Tbl.set t k v

/-- Unlists number k. -/
def Tbl.drop {α : Type} : Tbl α → Nat → Tbl α
  | [], _ => []
  | (j, w) :: t, k => if j = k then Tbl.drop t k else (j, w) :: Tbl.drop t k

/-- Changes the entry of number k, from `d` where none is listed. -/
def Tbl.modify {α : Type} (d : α) (t : Tbl α) (k : Nat) (f : α → α) : Tbl α := t.set k (f (t.get d k))

/-- Changes every listed entry. -/
def Tbl.mapV {α β : Type} (f : Nat → α → β) : Tbl α → Tbl β
  | [] => []
  | (j, v) :: t => (j, f j v) :: Tbl.mapV f t

end Sys2Proof.Machine
end

