-- ==== Sys2Proof/Machine/State.lean ====
section
/-!
DEFINITION. The state of the package as plain data: every piece of state the manual names (INVENTORY.md, State), and the
machine right after reset. A time is a number of main clock cycles (R6). A bound set (R263) is a list of write numbers.
-/

namespace Sys2Proof.Machine

open Sys2Proof

/-- The kinds of marker (R11). -/
inductive Mark where
  | teardown | purge | eos
deriving DecidableEq, Repr

/-- A token (R11 to R14): a packet with its header fields and payload, a control token, or a marker. -/
inductive Token where
  | pkt (ty : Ty) (len : Nat) (psn : Bool) (pay : Payload)
  | ctl (val psn : Bool) (orig : Origin)
  | mark (m : Mark)
deriving DecidableEq, Repr

/-- A token on its way to or in a queue. `pend` names the access or command whose result will fill this place; such a
place is never available. -/
structure QTok where
  tok : Token
  /-- The first cycle in which it may take part in a firing (R23). -/
  at_ : Nat := 0
  /-- It occupies a pool entry, else the reserved entry (R24). -/
  pooled : Bool := false
  /-- What its producer was bound to (R263). -/
  bound : List Nat := []
  pend : Option Nat := none
deriving DecidableEq, Repr

/-- An operand queue (R24). -/
structure Queue where
  toks : List QTok := []
  /-- A permit is held for it. -/
  permit : Bool := false
  /-- The first cycle in which its reserved entry accepts again. -/
  resAt : Nat := 0
  /-- Cycles, in which the region was not frozen, that its head has stood there (R331). -/
  stood : Nat := 0
  /-- Tokens removed so far, which names the head (R332), and the cycle of its last probe. -/
  pops : Nat := 0
  probedAt : Option Nat := none
deriving DecidableEq, Repr

/-- What a node holds between firings (R97, R131). -/
inductive NodeState where
  | idle
  /-- fmac (R108): lane count, lanes, and the origin of poison. -/
  | fmac (m : Nat) (lanes : List Word) (poison : Option Origin)
  /-- xsacc (R117): the 320-bit sum. -/
  | xsacc (acc : BitVec 320) (poison : Option Origin)
  /-- bqnt (R115): values gathered, tokens they came in, tokens still to emit. -/
  | bqnt (held : List Nat) (count : Nat) (poison : Option Origin) (emit : List Token)
  /-- bdeq (R116): the held scale, its poison, and elements left. -/
  | bdeq (scale : Nat) (poison : Option Origin) (left : Nat)
  /-- carry (R137): phase 1 RUN, 2 EXIT, 3 DRAIN, with the counters E and C. -/
  | carry (phase e c : Nat)
  /-- invar (R139): the held token. -/
  | invar (held : Token)
  /-- loopgen (R140): the next index, the bound, and the origin when a poisoned P started the range. -/
  | loopgen (i hi : Int) (poison : Option Origin)
  /-- repeat (R141): the token, copies left, and the origin of poisoned last flags. -/
  | rept (tok : Token) (left : Nat) (poison : Option Origin)
  /-- split (R145): member count latched, ordinal. -/
  | split (n j : Nat)
  /-- omerge (R146): ordinal, and whether the end-of-stream marker or message is still to be sent. -/
  | omerge (j : Nat) (eos : Bool)
deriving DecidableEq, Repr

/-- A node slot of a running region (R17). -/
structure Node where
  l : Queue := {}
  r : Queue := {}
  p : Queue := {}
  st : NodeState := .idle
  /-- The last cycle in which it fired (R22), and the first in which its next operand set can be complete (R18). -/
  firedAt : Option Nat := none
  setAt : Nat := 0
  retired : Bool := false
  flipped : Bool := false
  bound : List Nat := []
deriving DecidableEq, Repr

/-- A read entry of a running block (R215): its gate queue and whether it has fired or stopped. -/
structure ReadRun where
  gate : List QTok := []
  done : Bool := false
  /-- The pending write an await entry waits for (R217). -/
  waits : Option Nat := none
  lastAt : Option Nat := none
deriving DecidableEq, Repr

/-- A write entry of a running block (R219, R220): tokens on their way, the last data token, completion. -/
structure WriteRun where
  toks : List QTok := []
  last : Option Token := none
  complete : Bool := false
deriving DecidableEq, Repr

/-- A trap record (R372). -/
structure TrapRec where
  stamp : Nat := 0
  src : Nat := 0
  code : Nat := 0
  sub : Nat := 0
  sw : Bool := false
  held : Bool := false
  mirror : Bool := false
  step : Nat := 0
  pclus : Nat := 0
  task : Nat := 0
  block : Nat := 0
  a : Word := 0
  b : Word := 0
  c : Word := 0
  d : Word := 0
  /-- TPOS_A to TPOS_D of a stream fault (R247). -/
  pos : List Word := []
  /-- The command that raised it, if an engine command did (R183). -/
  cmd : Option Nat := none
  /-- The ring tile of its command's range that failed, if one did (R291). -/
  tile : Option Nat := none
  /-- It rewound a memory node, so it is never held (R371). -/
  rewinds : Bool := false
deriving DecidableEq, Repr

/-- Why a load failed, held until the exit selects the image (R80, R81): trap code, subcode, address, level and kind. -/
structure LoadFail where
  code : Nat
  sub : Nat
  addr : Word := 0
  info : Word := 0
deriving DecidableEq, Repr

/-- The shadow configuration (R212). -/
structure Shadow where
  blk : Nat
  usable : Nat
  /-- The load has ended and the image has been checked. -/
  ready : Bool := false
  img : Option Image := none
  fail : Option LoadFail := none
deriving DecidableEq, Repr

/-- The kinds of exit (R198 to R200). -/
inductive ExitKind where
  | exit | exiti | call | calli | ret | yield
deriving DecidableEq, Repr

/-- The selected exit (R197). -/
structure Sel where
  kind : ExitKind
  addr : Word
  exn : Nat
  node : Nat
  cycle : Nat
deriving DecidableEq, Repr

/-- An access that a memory node has issued (R150). -/
structure Access where
  id : Nat
  node : Nat
  ins : Instr
  fired : Nat
  /-- The earliest cycle in which it performs (R152). -/
  ready : Nat
  addr : Word
  /-- The address as it was resolved at its issue (R233). -/
  abs : Word := addr
  data : Option Token := none
  /-- The origin of a poisoned predicate, which poisons a load's results (R154). -/
  poison : Option Origin := none
  bound : List Nat := []
  /-- The operand set, for a rewind (R155). -/
  ops : List (Nat × QTok) := []
  /-- The origin of a poisoned address: no access is made (R154, R165). -/
  skip : Option Origin := none
  priv : Bool := false
  /-- Its block has ended: nothing waits for its tokens (R264); the cycle S that ended it. -/
  old : Bool := false
  left : Nat := 0
  /-- Its number in arrival order while it is parked at the home, or the cycle of its next try (R160). -/
  parked : Option Nat := none
  retry : Option Nat := none
deriving DecidableEq, Repr

/-- An engine command (R180). -/
structure Cmd where
  id : Nat
  task : Nat
  node : Nat
  ins : Instr
  fired : Nat
  priv : Bool := false
  root : Nat := 0
  asid : Nat := 0
  l : Word := 0
  r : Word := 0
  /-- The step of R180 it stands at, 2 to 7. -/
  step : Nat := 2
  /-- Its place among the waiters of its semaphore or tile (R180, R256). -/
  arrived : Nat := 0
  /-- Blocks of its task that have started since its firing: commands of one node have one age (R180). -/
  age : Nat := 0
  claims : List Nat := []
  desc : List Byte := []
  /-- Source bytes and marks read by a tcopy (R187). -/
  buf : List (Byte × Bool) := []
  /-- Bytes of work performed, and bytes signalled (R182). -/
  done : Nat := 0
  signalled : Nat := 0
  /-- The pending register, and the fault of the read that names it, which step 4 raises (R183). -/
  rreg : Option Nat := none
  early : Option TrapRec := none
  /-- What it returns in its register and the VAL of its token. -/
  result : Word := 0
  val : Bool := true
  bound : List Nat := []
  /-- What it was bound to at its firing, and what a kick has waited for besides (R272). -/
  start : List Nat := []
  waited : List Nat := []
  /-- The issuing task was killed: its token and faults are discarded (R379). -/
  dead : Bool := false
  /-- A fault has stopped it until the task resumes (R183). -/
  stopped : Bool := false
  /-- Values of the issuing task at the firing (R306, R314, R330): BUDGET, SEED, LIM, g3, g4 to g11, its cluster. -/
  carry : List Word := []
  /-- The twin's command that this one performs for, and their ordinal as an item (R391). -/
  mate : Option Nat := none
  item : Nat := 0
  /-- The control block and the buffer of the inbox in which an `msend` has reserved its space (R251). -/
  inbox : Option (Nat × Nat) := none
  /-- Sectors that its writes have covered in part from clean bytes, each with the number of such a write (R382). -/
  part : List (Nat × Nat) := []
deriving DecidableEq, Repr

/-- A system operation that completes later (R206 to R211). -/
structure SysOp where
  id : Nat
  node : Nat
  ins : Instr
  fired : Nat
  a : Word := 0
  b : Word := 0
  val : Bool := true
  /-- The address space it acts on (R206). -/
  asid : Nat := 0
  /-- What its node was bound to at the firing, which its tokens pass on (R263). -/
  bound : List Nat := []
deriving DecidableEq, Repr

/-- A context that is still to be restored into a region: its areas, whether they are a recovery point (R334, R388), the writes that
cleaned the region for it (R268), and whether a trap has been taken meanwhile, whose registers stay (R374). -/
structure Restoring where
  csa : Word
  bsa : Word
  point : Bool := false
  wrote : List Nat := []
  trapped : Bool := false
deriving DecidableEq, Repr

/-- What a region holds of the block it runs: the part of a snapshot that is not context (R33, R227). -/
structure Region where
  modc : Nat := 0
  blk : Nat := 0
  img : Option Image := none
  words : Tbl Word := []
  nodes : Tbl Node := []
  /-- Pool entries of each cell that return in the next cycle (R24). -/
  returning : Tbl Nat := []
  reads : Tbl ReadRun := []
  writes : Tbl WriteRun := []
  shadow : Option Shadow := none
  sel : Option Sel := none
  /-- The cycle I of the injection, and the last cycle in which a store that it waits for performed (R221). -/
  inject : Option Nat := none
  storeAt : Nat := 0
  /-- The step of R213 in progress: 0 in mid-block, 11 while the context of its task is still to be restored. -/
  step : Nat := 0
  restoring : Option Restoring := none
  /-- Where step 5 or 9 ends, and the stranding of this block with its first slot (R226). -/
  until_ : Nat := 0
  strandedHere : Nat := 0
  strandedAt : Option Nat := none
  emptyWrite : Bool := false
  /-- Registers and call depth as step 5 found them, and that step 5 runs again for register results that came in later (R184, R360). -/
  before5 : Option (Tbl Word × Nat) := none
  late : Bool := false
  accesses : List Access := []
  sysops : List SysOp := []
  /-- Busy CE units, by 4 x cell + unit: the first free cycle (R18). -/
  busy : Tbl Nat := []
  frozen : Option TrapRec := none
  held : List TrapRec := []
  /-- Stopped for a save, without a trap, and whether for a forced recovery point (R208, R326, R386). -/
  stoppedBy : Option Nat := none
  forced : Bool := false
  /-- The cycle at whose end it was frozen for a save, from which its cycle numbers are moved on (R34). -/
  frozeAt : Nat := 0
  /-- BUDGET has reached zero and its trap is due at the end of the cycle (R229). -/
  expired : Bool := false
  /-- Items that the running block has sent to the umpire, by node or entry (R391). -/
  ords : Tbl Nat := []
deriving DecidableEq, Repr

/-- A stationary plane (R166, R257): its bytes in the record layout and its poisoned elements, 8k + j. -/
structure Plane where
  fmt : Ty := .mx8
  var : Bool := false
  kb : Nat := 0
  bytes : List Byte := []
  poison : List Nat := []
deriving DecidableEq, Repr

/-- The states of a shadow plane (R166). -/
inductive PlaneState where
  | empty | armed | loading | loaded
deriving DecidableEq, Repr

/-- An accumulator (R166): f32 elements by 8i + j where not +0, marked elements, ROWS. -/
structure Acc where
  elems : Tbl (BitVec 32) := []
  poison : List Nat := []
  rows : Nat := 0
deriving DecidableEq, Repr

/-- A multiply, a shadow load or a drain in progress in a dot block. -/
structure DotOp where
  id : Nat
  node : Nat
  /-- 0 an mma, 1 an ldst of a tile, 2 an mdrain, 3 an ldst armed for the ring. -/
  kind : Nat
  acc : Nat := 0
  tile : Nat := 0
  /-- The targets of its completion token, and the origin if that token is poisoned. -/
  t0 : Target := .none
  t1 : Target := .none
  orig : Option Origin := none
  /-- The cycle in which it ends. -/
  done : Nat := 0
  /-- Of a drain: the route's number and word, the rows drained, and that its bytes have been written (R175). -/
  rno : Nat := 0
  route : Word := 0
  rows : Nat := 0
  wrote : Bool := false
  bound : List Nat := []
deriving DecidableEq, Repr

/-- A cell's dot block (R166). -/
structure Dot where
  active : Option Plane := none
  shadow : Plane := {}
  shState : PlaneState := .empty
  accs : Tbl Acc := []
  routes : Tbl Word := []
  /-- The first cycle in which the MAC array is free (R170). -/
  busy : Nat := 0
  ops : List DotOp := []
deriving DecidableEq, Repr

/-- The states of a tile (R253). -/
inductive TileState where
  | empty | filling | ready | draining
deriving DecidableEq, Repr

/-- A tile-table entry (R253). -/
structure Tile where
  base : Word := 0
  rows : Nat := 0
  cols : Nat := 0
  fmt : Nat := 0
  var : Bool := false
  state : TileState := .empty
  owner : Nat := 0
deriving DecidableEq, Repr

/-- A LUT (R62, R63). -/
structure Lut where
  sel : List (BitVec 8) := [0xC0, 0xC0, 0xC0, 0xC0, 0xC0, 0xC0]
  ffen : Bool := false
  truth : Word := 0
deriving DecidableEq, Repr

/-- A pattern descriptor (R236). -/
structure Desc where
  base : Word := 0
  cnt : List Nat := []
  str : List Int := []
  ibase : Word := 0
  ety : Nat := 0
  mode : Nat := 0
  isz : Bool := false
  lanes : Nat := 1
deriving DecidableEq, Repr

/-- A held stream fault (R246): trap code, subcode, ordinal, address, information word, index read. -/
structure StreamFault where
  code : Nat
  sub : Nat
  ord : Nat
  addr : Word
  info : Word
  index : Bool := false
deriving DecidableEq, Repr

/-- A prefetched or buffered element (R239): its token, its first ordinal, the ordinal after it, its last flag, and whether
a peek has delivered it (R386). -/
structure Elem where
  tok : Token
  from_ : Nat
  next : Nat
  peeked : Bool := false
  last : Bool
  bound : List Nat := []
deriving DecidableEq, Repr

/-- A stream binding (R240). -/
structure Port where
  desc : Desc := {}
  write : Bool := false
  /-- The `sbind` that made it. -/
  born : Nat := 0
  /-- ORD, the next ordinal the engine fetches or scans, and a squeeze value found but not yet known to be last. -/
  ord : Nat := 0
  scan : Nat := 0
  found : Option Elem := none
  fetched : List Elem := []
  /-- Delivered elements since the recovery point, those still to be delivered again, and the bytes used (R386). -/
  replay : List Elem := []
  again : List Elem := []
  fault : Option StreamFault := none
  ended : Bool := false
  ready : Nat := 0
  bound : List Nat := []
deriving DecidableEq, Repr

/-- A stream through a replication group: members latched, tokens dealt or emitted so far, whether it has ended (R145). -/
structure GroupRun where
  n : Nat
  seen : Nat := 0
  ended : Bool := false
deriving DecidableEq, Repr

/-- A replication group record (R144). -/
structure Group where
  /-- Members of the next stream. -/
  n : Nat := 1
  /-- 0: home; otherwise this region's member number. -/
  member : Nat := 0
  cap : Nat := 0
  /-- Clusters of the members 1 to 4, tasks of the replicas, and the home cluster. -/
  clusters : List Nat := []
  tasks : List Nat := []
  home : Nat := 0
  /-- Streams that the `omerge` has not finished, oldest first. -/
  streams : List GroupRun := []
deriving DecidableEq, Repr

/-- Where a task stands (R322, R324). -/
inductive Place where
  | waiting | bench (c : Nat) | pool (d : Nat) | region (c : Nat) | saved | ended
deriving DecidableEq, Repr

/-- A signal given when work ends (R193): physical semaphore, increment, issuing task and node. -/
structure OnEnd where
  sem : Nat
  inc : Nat
  task : Nat
  node : Nat
deriving DecidableEq, Repr

/-- A footprint (R309). -/
structure Footprint where
  base : Nat
  len : Nat
  mode : Nat
deriving DecidableEq, Repr

/-- A pending register write (R217): register, command, and the value once the command has completed. -/
structure PendReg where
  reg : Nat
  cmd : Nat
  val : Option Word := none
deriving DecidableEq, Repr

/-- A task: its context (R305), what the scheduler keeps with it, and its saved region. -/
structure Task where
  id : Nat := 0
  job : Nat := 0
  /-- g1 to g111 (R59, R357). -/
  regs : Tbl Word := []
  /-- TASK_STAT (R228). -/
  rmode : BitVec 3 := 0
  strd : Bool := false
  nowr : Bool := false
  eosOver : Bool := false
  supg : Bool := false
  supb : Bool := false
  lexn : Nat := 0
  /-- SEED, BUDGET and STRANDED (R307, R228). -/
  seed : Word := 0
  budget : Word := 0
  stranded : Nat := 0
  /-- RP_STAT (R387). -/
  rpHave : Bool := false
  rpKind : Bool := false
  rpElig : Bool := false
  irrev : Bool := false
  rolled : Bool := false
  rolls : Nat := 0
  /-- TCAUSE, TINFO_A to TINFO_D (R374) and TPOS_A to TPOS_D (R247). -/
  tcause : Word := 0
  tinfo : List Word := [0, 0, 0, 0]
  tpos : List Word := [0, 0, 0, 0]
  /-- RELOC_BASE, TASK_AGE, TASK_SCHED, SEMWIN (R307). -/
  reloc : Word := 0
  age : Nat := 0
  srcn : Nat := 0
  prio : Nat := 0
  eprio : Nat := 0
  repl : Bool := false
  vreg : Option Nat := none
  gang : Nat := 0
  semn : Nat := 0
  sbase : Nat := 0
  sclus : Nat := 0
  /-- CALL_DEPTH (R362) and LINK_SEL (R396). -/
  depth : Nat := 0
  linkMod : Nat := 0
  linkDie : Nat := 0
  ports : Tbl Port := []
  tiles : Tbl Tile := []
  dots : Tbl Dot := []
  /-- LUTs by 64 x cell + LUT, flip-flops by cell, generators by slot (R63, R45). -/
  luts : Tbl Lut := []
  ffs : Tbl (BitVec 32) := []
  gens : Tbl Word := []
  latches : List Nat := []
  pends : List PendReg := []
  groups : Tbl Group := []
  /-- Slice bytes of the context: LIM x 4 KiB (R309). -/
  lim : Nat := 0
  entry : Word := 0
  /-- The block at which it starts or resumes. -/
  resume : Nat := 0
  place : Place := .waiting
  wait : Nat := 0
  die : Nat := 0
  affin : Nat := 0
  feet : List Footprint := []
  deps : List Nat := []
  onend : List OnEnd := []
  vote : Option Nat := none
  /-- What its nodes start bound to, or its end has deposited (R264, R272), and every write it has made (R272). -/
  bound : List Nat := []
  wrote : List Nat := []
  /-- The region of a task frozen in mid-block, and its saved commands and held faults (R183, R227). -/
  snap : Option Region := none
  cmds : List Cmd := []
  /-- Its pending `evwait`s, while it stands at a boundary off a region (R305); a restore that a save has cut off (R208). -/
  evwaits : List SysOp := []
  redo : Option Restoring := none
  charged : List TrapRec := []
  /-- It has been dispatched before; its context stands in the CSA at this slot (R333). -/
  started : Bool := false
  slot : Nat := 0
  handler : Option Nat := none
  /-- It is ending (R316), killed or cancelled. -/
  ending : Bool := false
  killed : Bool := false
  /-- A mirrored task's twin (R390), and whether this is the twin. -/
  twin : Option Nat := none
  isTwin : Bool := false
  /-- A mismatch has been met since the recovery point (R392). -/
  mismatched : Bool := false
  /-- MODC while the task is off a region (R29). -/
  modc : Nat := 0
deriving DecidableEq, Repr

/-- A virtual region's entry of the live relocation table (R319). -/
structure VReg where
  die : Nat := 0
  valid : Bool := false
  bound : Option Nat := none
deriving DecidableEq, Repr

/-- A job (R308, R317). -/
structure Job where
  no : Nat := 0
  semn : Nat := 0
  sbase : Nat := 0
  sclus : Nat := 0
  csabase : Word := 0
  bsabase : Word := 0
  done : Word := 0
  reloc : Word := 0
  vec : Nat := 0
  root : Nat := 0
  asid : Nat := 0
  super : Bool := false
  vregs : Tbl VReg := []
  serial : Nat := 0
  live : Nat := 0
  nended : Nat := 0
  kill : Bool := false
  onend : List OnEnd := []
  mirror : Bool := false
  bound : List Nat := []
deriving DecidableEq, Repr

/-- A job-queue entry (R314, R346). -/
structure Card where
  addr : Word
  root : Nat
  asid : Nat
  /-- Submitted by kick, and from a supervisor block (R310). -/
  kicked : Bool := false
  priv : Bool := true
  onend : List OnEnd := []
  bound : List Nat := []
deriving DecidableEq, Repr

/-- A TLB entry (R344): ASID, virtual page base, log2 of the page size, the leaf's page and flags. -/
structure TlbEntry where
  asid : Nat
  va : Nat
  log : Nat
  pa : Nat
  r : Bool
  w : Bool
  x : Bool
  u : Bool
  moving : Bool := false
deriving DecidableEq, Repr

/-- A boarding window (R285). -/
structure Window where
  cmd : Nat
  task : Nat
  layer : Nat
  first : Nat
  count : Nat
  dkind : Nat
  dest : Word
  cells : BitVec 48
  /-- The occurrence it targets: the lap count and the position in that lap's order; none while it waits for a lap. -/
  lap : Option (Nat × Nat) := none
  regAt : Nat := 0
  open_ : Bool := false
  /-- Tiles of the range written; tiles to re-board; tiles that have failed once; tiles that wait for the task to resume
  (R291). -/
  written : List Nat := []
  again : List Nat := []
  failed : List Nat := []
  held : List Nat := []
  /-- The writes of its tiles, each with the tile's number (R270). -/
  wrote : List (Nat × Nat) := []
deriving DecidableEq, Repr

/-- A ring tile in flight (R279): its lap, its position in the lap, the cycle beat 0 leaves the feeder, how much later beat 7
leaves it, its payload, the sectors whose bits of the poison masks are set, and the CRC of header word 2 (R280). -/
structure RingTile where
  lap : Nat
  pos : Nat
  layer : Nat
  index : Nat
  src : Nat
  start : Nat
  tail : Nat
  pay : List Byte := []
  poison : List Nat := []
  crc : BitVec 64 := 0
  /-- Stops, as physical clusters, that have dealt with it. -/
  seen : List Nat := []
deriving DecidableEq, Repr

/-- A checked tile in a capture buffer (R288): the command it goes to, its number in the range, the lines that have performed,
and the cycles in which the next ones do, four in each; of a plane the cycle of its last line. -/
structure Copy where
  tile : RingTile
  cmd : Nat
  task : Nat
  n : Nat
  line : Nat := 0
  due : List Nat
deriving DecidableEq, Repr

/-- A request that a region be given up (R325): the waiting task it favours, its cycle, whether it rests on age, and whether the
region is asked as another member of the victim's unit (R313). -/
structure Ask where
  task : Nat
  at_ : Nat
  byAge : Bool := false
  member : Bool := false
deriving DecidableEq, Repr

/-- A cluster (R1): its region and the units of the cluster. -/
structure Cluster where
  task : Option Nat := none
  region : Region := {}
  /-- The 64-entry engine queue (R180). -/
  eq : List Cmd := []
  tlb : List TlbEntry := []
  /-- Images kept by the block cache, by physical address (R369). -/
  cache : Tbl Image := []
  bench : List Nat := []
  windows : List Window := []
  /-- The capture buffer (R288); by cell the first cycle in which its slice takes lines again; by cycle the fours of lines issued. -/
  copies : List Copy := []
  capFree : Tbl Nat := []
  capUsed : Tbl Nat := []
  gated : Bool := false
  wake : Nat := 0
  /-- The last job and task that ran here (R334), and the skipped cycle (R405). -/
  lastJob : Option Nat := none
  lastTask : Option Nat := none
  skip : Option Nat := none
  /-- The requests that this region be given up, in the order in which they were made (R325); the task for which a region has been
  freed (R322). -/
  asks : List Ask := []
  favour : Option Nat := none
  /-- The cycle from which the region may be given to a task. -/
  freeAt : Nat := 0
  /-- The last cycle that MODC_ADVANCE served. -/
  tick : Option Nat := none
deriving DecidableEq, Repr

/-- A semaphore (R181): its 40-bit value and what its operations deposited (R271). -/
structure Sem where
  val : Nat := 0
  dep : List Nat := []
deriving DecidableEq, Repr

/-- A release: the place of its agent, its scope, and what it carries (R265). An agent stands in a cluster 0 to 63, in the
package (64), or outside it (65) (R258). -/
structure Release where
  by_ : Nat
  scope : Nat
  bound : List Nat
deriving DecidableEq, Repr

/-- A write in home order (R261, R274): its number, the bytes it replaced, the marks it replaced, whether an atomic made it, the
cluster of the `rmw` that did (R276), whether it is single-copy atomic by bytes only (R260), and its release. -/
structure WriteRec where
  seq : Nat
  old : List Host.Cell
  oldMarks : List (Nat × Bool)
  atomic : Bool := false
  rmw : Option Nat := none
  bytewise : Bool := false
  rel : Option Release := none
deriving DecidableEq, Repr

/-- A lap-list entry (R281). -/
structure LapEntry where
  layer : Nat
  first : Nat
  count : Nat
  src : Nat
  last : Bool
deriving DecidableEq, Repr

/-- The ring master (R277 to R295). -/
structure Ring where
  lapBase : Nat := 0
  cap : Nat := 0
  en : Bool := false
  cur : Nat := 0
  blk : Nat := 0
  pause : Bool := false
  seamStop : Bool := false
  lap : Nat := 0
  /-- The number of the last write before the start of the lap, which every tile of the lap has in it (R282). -/
  lapCut : Nat := 0
  ent : Nat := 0
  crcf : Nat := 0
  badEnt : Bool := false
  reread : Bool := false
  srcErr : Bool := false
  /-- A lap runs; its list; tiles injected in it; when the next may go; no lap starts until a write (R282). -/
  running : Bool := false
  list : List LapEntry := []
  pos : Nat := 0
  /-- The list of the lap before, whose last tiles may still be on their way; the die whose feeder `next` is counted at. -/
  prev : List LapEntry := []
  die : Nat := 0
  next : Nat := 0
  idleBad : Bool := false
  tiles : List RingTile := []
  /-- Tiles since BLK last stepped, and laps started since the backlog cleared (R292). -/
  since : Nat := 32
  clearLaps : Option Nat := none
deriving DecidableEq, Repr

/-- One direction of a UCIe module (R395): flits sent for the first time, the sequence number its receiver expects, flits in the
sender's replay buffer, failed replays in a row, and that the receiver discards until the expected flit arrives. -/
structure Wire where
  sent : Nat := 0
  expect : Nat := 0
  held : Nat := 0
  fails : Nat := 0
  nack : Bool := false
deriving DecidableEq, Repr

/-- A UCIe module (R394 to R399). -/
structure Link where
  tw : Nat := 0
  go : Bool := false
  revt : Bool := true
  rthr : Nat := 0x40
  cnt : Nat := 0
  cur : Nat := 0
  trains : Nat := 0
  /-- MAP0 to MAP3 as LINK_SPARE holds them, those that the last training took with its width, and SPBAD. -/
  map : BitVec 32 := 0x7F7F7F7F
  mapUsed : BitVec 32 := 0x7F7F7F7F
  twUsed : Nat := 0
  spbad : BitVec 4 := 0
  up : Bool := true
  quiesced : Bool := false
  training : Bool := false
  trainEnd : Nat := 0
  evt : Bool := false
  fail : Bool := false
  badmap : Bool := false
  /-- CRC errors of each physical lane, 64 to 67 the spares, since CNT was last written 0. -/
  errs : Tbl Nat := []
  /-- Its directions: 0 toward the end that names it, 1 toward the other end. -/
  wires : Tbl Wire := []
  /-- The count event is armed; the retrain in progress is automatic. -/
  armed : Bool := true
  auto : Bool := false
deriving DecidableEq, Repr

/-- Who makes a request to far memory (R349): an access, an engine command or a stream port, a block fetch, a save or restore, a
system operation, or the hub. -/
inductive Requester where
  | access (id : Nat) | cmd (id : Nat) | port (n : Nat) | fetch | area | sysop (id : Nat) | hub
deriving DecidableEq, Repr

/-- A request of this package to drawer or peer memory (R349), for what lies in one 256-byte window (R248). -/
structure FarReq where
  id : Nat
  clus : Nat
  who : Requester
  addr : Nat
  peer : Bool
  key : BitVec 16
  prio : Nat
  eligible : Nat
  /-- Channel and start of its slot, whether it is reserved, and whether the inbound table of that time leaves the paired slot to
  best-effort responses (R350). -/
  slot : Option (Nat × Nat) := none
  reserved : Bool := false
  keeps : Bool := false
  due : Nat := 0
  answered : Bool := false
  nack : Bool := false
  /-- It was sent under the key slot that is being retired (R401), and it has found no slot for 2 ms (R393). -/
  old : Bool := false
  stalled : Bool := false
deriving DecidableEq, Repr

/-- A response that this package owes a peer (R349): its outbound channel and the start of the slot in which it is due. -/
structure PeerResp where
  ch : Nat
  due : Nat
deriving DecidableEq, Repr

/-- A flit, other than one of this package's requests, that a replay buffer at one end holds until a cycle, and whether it was
sent under the key slot that is being retired (R401). -/
structure HeldFlit where
  until_ : Nat
  old : Bool := false
deriving DecidableEq, Repr

/-- A far die (R347 to R352, R400, R401). -/
structure Far where
  /-- The tables in force, entries by number, and the cycle each switched in. -/
  out : Tbl (BitVec 32) := []
  inn : Tbl (BitVec 32) := []
  outAt : Nat := 0
  innAt : Nat := 0
  /-- Tables read and waiting for a frame boundary (R209). -/
  nextOut : Option (Tbl (BitVec 32)) := none
  nextInn : Option (Tbl (BitVec 32)) := none
  readyOut : Nat := 0
  readyInn : Nat := 0
  reqs : List FarReq := []
  /-- Slots taken, each a channel and a start: outbound and inbound. -/
  taken : List (Nat × Nat) := []
  takenIn : List (Nat × Nat) := []
  down : List Nat := []
  /-- The cycle of each channel's last calibration. -/
  calAt : Tbl Nat := []
  /-- IDE_CTL (R401). -/
  roll : Bool := false
  txslot : Bool := false
  retiring : Bool := false
  keyerr : Bool := false
  rcnt : Nat := 0
  oldfl : Nat := 0
  /-- Flits sent and received under the keys in use. -/
  flits : Nat := 0
  flitsIn : Nat := 0
  /-- Responses owed to peers, and flits in replay buffers besides the requests of `reqs`. -/
  owes : List PeerResp := []
  holds : List HeldFlit := []
deriving DecidableEq, Repr

/-- A page that the migration engine moves (R354): the command, the page, the old and new frames, the place of its entry. -/
structure Migr where
  cmd : Nat
  clus : Nat
  va : Nat
  oldPa : Nat
  newPa : Nat
  pte : Nat
deriving DecidableEq, Repr

/-- A deadlock probe (R331): the queue it left, with its head; where it is; queues passed; tasks passed. -/
structure Probe where
  from_ : Nat × Nat × Nat
  head : Nat
  here : Nat × Nat × Nat
  passed : Nat := 0
  tasks : List Nat := []
  last : List (Nat × (Nat × Nat × Nat)) := []
deriving DecidableEq, Repr

/-- An item that leaves a copy of a mirrored task (R391): node or entry, ordinal, content, the cycle it left, and the
access or command that waits for the umpire. -/
structure Item where
  task : Nat
  node : Nat
  ord : Nat
  body : List Word
  at_ : Nat
  what : Nat
  id : Nat
deriving DecidableEq, Repr

/-- A handler at work (R376): slot, task, the record's address and the frozen task. -/
structure Handler where
  slot : Nat
  task : Nat
  rec_ : TrapRec
  addr : Word
deriving DecidableEq, Repr

/-- A firmware image (R407): its header, body, signing public key and signature. -/
structure Firmware where
  header : List Byte
  body : List Byte
  key : List Byte
  sig : List Byte
deriving DecidableEq, Repr

/-- The hub (R314 to R317, R375 to R377, R390, R406). -/
structure Hub where
  queue : List Card := []
  /-- The header and entries of the card at the head of the queue, once they have been read (R308). -/
  card : Option (List Byte × List Byte) := none
  jobs : Tbl Job := []
  lastJob : Nat := 0
  starve : Nat := 0x100000
  probeDelay : Nat := 0x10000
  pwait : Nat := 0x1000
  ovf : Bool := false
  badAdr : Bool := false
  recErr : Bool := false
  recJob : Nat := 0
  pools : Tbl (List Nat) := []
  probes : List Probe := []
  xlRoot : Nat := 0
  xlAsid : Nat := 0
  hbmBase : Nat := 0
  hbmSize : Nat := 0
  migStack0 : Nat := 0
  migStack1 : Nat := 0
  migs : List Migr := []
  trapEn : Bool := false
  hcb : Nat := 0
  ringHead : Nat := 0
  ringTail : Nat := 0
  double : Bool := false
  lost : Bool := false
  full : Bool := false
  hkPclus : Nat := 0
  records : List TrapRec := []
  /-- Records written, with their writes, waiting for their handler, and records whose region awaits tret. -/
  written : List (TrapRec × Word × List Nat) := []
  awaiting : List (TrapRec × Word) := []
  handlers : List Handler := []
  mirEn : Bool := false
  uwait : Nat := 0x10000
  items : List Item := []
  partKey : BitVec 16 := 0
  keyValid : Bool := false
  revoked : List Nat := []
  best : Nat := 0
  stall : Bool := false
  ready : Bool := true
  fwok : Bool := true
  fstep : Nat := 0
  resets : Nat := 0
  /-- The firmware images, in load order (R407, R408). -/
  firmware : List Firmware := []
  /-- The times of telemetry samples (R403). -/
  telemetry : List Nat := []
  /-- MSI-X vectors sent to the host. -/
  msix : List Nat := []
  /-- What the host is bound to (R272, R273). -/
  hostBound : List Nat := []
  /-- The last attestation report (R408). -/
  doe : List Byte := []
deriving DecidableEq, Repr

/-- A move that the agenda holds: a firing of a node, or an event. -/
inductive Move where
  | node (c i : Nat)
  | event (e : Instr)
deriving DecidableEq, Repr

/-- The package. -/
structure State where
  now : Nat := 0
  /-- Memory in its canonical form, sectors marked poisoned, lines marked full (R235, R382). -/
  mem : List Host.Cell := []
  marks : List Nat := []
  full : List Nat := []
  /-- Sectors with an uncorrectable error that no read has found yet (R382, R389). -/
  ecc : List Nat := []
  /-- The last release that filled and that emptied a line: by 2 x line, and 2 x line + 1 (R269). -/
  lineRel : Tbl Release := []
  wseq : Nat := 0
  hist : List WriteRec := []
  /-- What an atomic of the PAE order binds its node to, and 2^16 x cycle + source number of the last of them (R275). -/
  paeBound : List Nat := []
  paeLast : Nat := 0
  /-- How far back reads look whose order is open: a free value (Config.lag; log entry 20). -/
  lag : Nat := 0
  /-- The last numbers given to an access, command or operation, and to an arrival. -/
  ids : Nat := 0
  arrivals : Nat := 0
  clusters : Tbl Cluster := []
  sems : Tbl Sem := []
  tasks : Tbl Task := []
  /-- Recovery points by TASK_ID (R385), and the contexts of saves by what their headers say (R333; log entry 8). -/
  points : Tbl Task := []
  images : Tbl Task := []
  hub : Hub := {}
  ring : Ring := {}
  links : Tbl Link := []
  fars : Tbl Far := []
  agenda : List Move := []
  /-- The part of the cycle to which the agenda belongs (log entry 1). -/
  stage : Nat := 0
  /-- Register fields that this cycle has set or written (R8): the register's number, its cluster, module or die, and the bit
  that hardware set, or 64 for a write. -/
  touched : List (Nat × Nat × Nat) := []
  sel : Nat × Nat := (0, 0)
  fresh : Nat := 0
deriving DecidableEq, Repr

/-- Why the model stops. -/
inductive Fault where
  /-- step: the slot holds a word that does not decode; no checked image holds one (R78). Safe. -/
  | undecodable
deriving DecidableEq, Repr

/-- Why the model refuses. -/
inductive Refusal where
  /-- exec: an instruction that has no meaning yet; the model says nothing about it. Safe. -/
  | notModelled (mnemonic : String)
deriving DecidableEq, Repr

/-- The machine right after reset (R406): memory and marks clear, lines empty, no task, every module trained, every
register at its Reset value; the values the manual does not give are those of log entries 1, 3, 4, 5 and 6. -/
def State.reset : State := {}

end Sys2Proof.Machine
end

