-- ==== Sys2Proof/Machine/Mem.lean ====
section
/-!
DEFINITION. Memory: bytes in their canonical form, poison marks of sectors (R382), and the consistency model of spec/09 as
one home order of all writes, kept with what each write replaced, so that a reader may be given an older write unless it
is bound to a later one (R262).
-/

namespace Sys2Proof.Machine

open Sys2Proof

/-! ## Bytes -/

/-- The byte at an address; an unlisted address reads 0 (R406; log entry 4). -/
def Memory.read : List Host.Cell → Nat → Byte
  | [], _ => 0
  | (b, v) :: t, a => if b = a then v else Memory.read t a

/-- Writes a byte, keeping addresses rising and listing no 0. -/
def Memory.write : List Host.Cell → Nat → Byte → List Host.Cell
  | [], a, v => if v = 0 then [] else [(a, v)]
  | (b, w) :: t, a, v =>
    if a < b then (if v = 0 then (b, w) :: t else (a, v) :: (b, w) :: t)
    else if a = b then (if v = 0 then t else (a, v) :: t)
    else (b, w) :: Memory.write t a v

/-- Every listed address is at least `lo`, addresses rise strictly, and no byte listed is 0. -/
def Memory.wfFrom : Nat → List Host.Cell → Bool
  | _, [] => true
  | lo, (a, v) :: t => decide (lo ≤ a) && (v != 0) && Memory.wfFrom (a + 1) t

/-- The canonical form of memory. -/
def Memory.wf (m : List Host.Cell) : Bool := Memory.wfFrom 0 m

/-! ## Sets of numbers and bound sets -/

/-- A number put into a rising list. -/
def NSet.insert : List Nat → Nat → List Nat
  | [], k => [k]
  | j :: t, k => if k < j then k :: j :: t else if k = j then j :: t else j :: NSet.insert t k

/-- A number taken out. -/
def NSet.erase (l : List Nat) (k : Nat) : List Nat := l.filter (· != k)

/-- The union of two bound sets (R263). -/
def union (a b : List Nat) : List Nat := a ++ b.filter (fun x => !a.contains x)

/-! ## Writes in home order -/

/-- A byte to be written, with the poison that comes with it. -/
structure PByte where
  addr : Nat
  val : Byte
  bad : Bool := false
deriving DecidableEq, Repr

/-- The sector of an address (R382). -/
def sectorOf (a : Nat) : Nat := a / 32

/-- A sector has an uncorrectable error that no read has found. -/
def State.damaged (s : State) (a : Nat) : Bool := s.ecc.contains (sectorOf a)

/-- Whether a read of a sector is poisoned: it is marked, or has an uncorrectable error. -/
def State.marked (s : State) (a : Nat) : Bool := s.marks.contains (sectorOf a) || s.damaged a

/-- The errors that a read of some bytes finds leave their sectors marked (R382). -/
def State.findErrors (s : State) (pas : List Nat) : State :=
  let hit := (pas.filter s.damaged).map sectorOf
  if hit.isEmpty then s else { s with marks := hit.foldl NSet.insert s.marks, ecc := s.ecc.filter (fun x => !hit.contains x) }

/-- The sectors that a write touches, each once. -/
def sectorsOf (bs : List PByte) : List Nat := bs.foldl (fun l b => NSet.insert l (sectorOf b.addr)) []

/-- The marks after a write (R382): a sector that receives a poisoned byte is marked, one written wholly from clean bytes
is cleared, one written in part keeps its mark. -/
def marksAfter (marks : List Nat) (bs : List PByte) : List Nat :=
  (sectorsOf bs).foldl (fun m sec =>
    let mine := bs.filter (fun b => sectorOf b.addr == sec)
    if mine.any (·.bad) then NSet.insert m sec
    else if (List.range 32).all (fun k => mine.any (fun b => b.addr == sec * 32 + k)) then NSet.erase m sec
    else m) marks

/-- Errors after a write: a sector written wholly has none. -/
def eccAfter (ecc : List Nat) (bs : List PByte) : List Nat :=
  ecc.filter (fun sec => !(List.range 32).all (fun k => bs.any (fun b => b.addr == sec * 32 + k)))

/-- One write as one action at its home (R274, R382). -/
def State.store (s : State) (bs : List PByte) (atomic : Bool) (rel : Option Release) (rmw : Option Nat := none)
    (bytewise : Bool := false) : State :=
  { s with
    mem := bs.foldl (fun m b => Memory.write m b.addr b.val) s.mem
    marks := marksAfter s.marks bs
    ecc := if s.ecc.isEmpty then [] else eccAfter s.ecc bs
    wseq := s.wseq + 1
    hist := { seq := s.wseq + 1, old := bs.map (fun b => (b.addr, Memory.read s.mem b.addr))
              oldMarks := (sectorsOf bs).map (fun x => (x, s.marked (32 * x))), atomic := atomic, rmw := rmw
              bytewise := bytewise, rel := rel } :: s.hist }

/-- The numbers of the writes made from one state to another. -/
def newWrites (before after : State) : List Nat := (List.range (after.wseq - before.wseq)).map (before.wseq + 1 + ·)

/-- Marks a sector and changes no byte (R154, R382). -/
def State.markSector (s : State) (a : Nat) : State := { s with marks := NSet.insert s.marks (sectorOf a) }

/-- The byte that the writes up to number `cut` left at an address. -/
def State.byteAt (s : State) (cut a : Nat) : Byte :=
  (s.hist.takeWhile (fun w => cut < w.seq)).foldl
    (fun v w => match w.old.find? (fun x => x.1 == a) with
      | some x => x.2
      | none => v)
    (Memory.read s.mem a)

/-- The mark that the writes up to number `cut` left on the sector of an address. -/
def State.markAt (s : State) (cut a : Nat) : Bool :=
  (s.hist.takeWhile (fun w => cut < w.seq)).foldl
    (fun v w => match w.oldMarks.find? (fun x => x.1 == sectorOf a) with
      | some x => x.2
      | none => v)
    (s.marked a)

/-- A write of an address. -/
def WriteRec.writes (w : WriteRec) (a : Nat) : Bool := w.old.any (fun x => x.1 == a)

/-- The writes of an address up to number `cut`, the newest first. -/
def State.writesOf (s : State) (cut a : Nat) : List WriteRec :=
  s.hist.filter (fun w => w.seq ≤ cut && w.writes a)

/-- The write that a read up to `cut` returns at an address, as a bound set (R262); the initial write has no number. -/
def State.readSet (s : State) (cut a : Nat) : List Nat := ((s.writesOf cut a).take 1).map (·.seq)

/-- A read that goes back to number `cut` would miss a write that the reader is bound to (R262). -/
def State.missed (s : State) (cut : Nat) (bound addrs : List Nat) : Bool :=
  s.hist.any (fun w => cut < w.seq && bound.contains w.seq && addrs.any w.writes)

/-- The first write up to which a read of one byte may go back `lag` writes: its own 64 bits of the choice, or the last write
where it would miss one that the reader is bound to (R262). -/
def State.cutAt (s : State) (lag : Nat) (bound : List Nat) (a : Nat) : Nat :=
  let cut := s.wseq - (lag >>> (64 * (a % 4096))) % 2 ^ 64
  if s.missed cut bound [a] then s.wseq else cut

/-- The write that a read up to `cut` returns at an address. -/
def State.chosen (s : State) (cut a : Nat) : Option WriteRec := (s.writesOf cut a).head?

/-- Choices that would take some bytes of an aligned piece from a write that covers it and others from elsewhere (R260). -/
def State.torn (s : State) (lag : Nat) (bound piece : List Nat) : Bool :=
  piece.any (fun p => match s.chosen (s.cutAt lag bound p) p with
    | some w => !w.bytewise && piece.all w.writes &&
        piece.any (fun q => (s.chosen (s.cutAt lag bound q) q).map (·.seq) != some w.seq)
    | none => false)

/-- The number up to which a read of some bytes goes at one of them: each byte has its choice, but for the pieces of 8 bytes
that are single-copy atomic if `whole` (R260, R262). -/
def State.cutOf (s : State) (lag : Nat) (bound : List Nat) (whole : Bool) (pas : List Nat) (a : Nat) : Nat :=
  if lag = 0 then s.wseq
  else if whole && s.torn lag bound (pas.filter (fun p => p / 8 == a / 8)) then s.wseq
  else s.cutAt lag bound a

/-- The places of a read, each with the number up to which it goes. -/
def State.cuts (s : State) (lag : Nat) (bound : List Nat) (whole : Bool) (pas : List Nat) : List (Nat × Nat) :=
  pas.map (fun a => (a, s.cutOf lag bound whole pas a))

/-- The bytes, the poison and the writes of a read. -/
def State.cutBytes (s : State) (cs : List (Nat × Nat)) : List Byte := cs.map (fun x => s.byteAt x.2 x.1)
def State.cutMarked (s : State) (cs : List (Nat × Nat)) : Bool := cs.any (fun x => s.markAt x.2 x.1)
def State.cutSet (s : State) (cs : List (Nat × Nat)) (bound : List Nat) : List Nat :=
  cs.foldl (fun b x => union b (s.readSet x.2 x.1)) bound

/-- Whether an agent in cluster c' lies in the scope of an agent in cluster c (R258, R259): 64 stands in the package and in no
cluster, 65 outside the package. -/
def inScope (scope c c' : Nat) : Bool :=
  match scope with
  | 0 => c == c'
  | 1 => c / 16 == c' / 16 && c < 64 && c' < 64
  | 2 => c' < 65
  | _ => true

/-- The releases that an acquire of the write at the head of a location's list synchronises with (R265), for an agent of cluster
c: that write's own, and those behind it while every write between is an atomic, an `rmw` counting in its cluster only (R276). -/
def releasesOf (c : Nat) : List WriteRec → List (Nat × Release)
  | [] => []
  | w :: t => (match w.rel with
      | some r => [(w.seq, r)]
      | none => []) ++ (if w.atomic || w.rmw == some c then releasesOf c t else [])

/-- What an acquire at scope `scope` by an agent of cluster c becomes bound to (R265). -/
def syncSet (rels : List (Nat × Release)) (scope c : Nat) : List Nat :=
  rels.foldl (fun acc x =>
    if inScope x.2.scope x.2.by_ c && inScope scope c x.2.by_ then union acc (x.1 :: x.2.bound) else acc) []

/-- The addresses of an access of n bytes. -/
def span (a n : Nat) : List Nat := (List.range n).map (a + ·)

/-- Bytes read at number `cut`. -/
def State.bytesAt (s : State) (cut a n : Nat) : List Byte := (span a n).map (s.byteAt cut)

/-- Bytes as they stand. -/
def State.bytesNow (s : State) (a n : Nat) : List Byte := (span a n).map (Memory.read s.mem)

/-- Bytes as they stand, each with its poison. -/
def State.markedNow (s : State) (pas : List Nat) : List (Byte × Bool) := pas.map (fun p => (Memory.read s.mem p, s.marked p))

/-- A little-endian number in memory as it stands (R4). -/
def State.leNow (s : State) (a n : Nat) : Nat := (s.bytesNow a n).foldr (fun b acc => b.toNat + 256 * acc) 0

/-- The n bytes of a number, least significant first (R4). -/
def leBytes (n v : Nat) : List Byte := (List.range n).map (fun k => BitVec.ofNat 8 (v / 256 ^ k))

/-- A number of bytes (R4). -/
def leVal (bs : List Byte) : Nat := bs.foldr (fun b acc => b.toNat + 256 * acc) 0

/-- Bytes to be written from an address on, all with one poison. -/
def pbytes (a : Nat) (bs : List Byte) (bad : Bool) : List PByte :=
  (List.range bs.length).zipWith (fun k b => { addr := a + k, val := b, bad := bad }) bs

/-! ## Full/empty lines -/

/-- A line is full (R160). -/
def State.lineFull (s : State) (a : Nat) : Bool := s.full.contains (a / 128)

/-- Sets a line full or empty, with the release that does so if it is one (R160, R268). What changes the state is what a waiter
synchronises with, if it is a release; what finds the line in that state already changes nothing of it (R269). -/
def State.setLine (s : State) (a : Nat) (f : Bool) (rel : Option Release) : State :=
  let ln := a / 128
  let k := 2 * ln + (if f then 0 else 1)
  { s with
    full := if f then NSet.insert s.full ln else NSet.erase s.full ln
    lineRel := if s.lineFull a == f then s.lineRel
      else match rel with
        | some r => s.lineRel.set k r
        | none => s.lineRel.drop k }

end Sys2Proof.Machine
end

