-- ==== Sys2Proof/Machine/Queues.lean ====
section
/-!
DEFINITION. The parts of the state and what holds tokens: accessors, operand queues with their reserved and pool entries
(R24), the delivery of a token to a target (R20 to R25, R214).
-/

namespace Sys2Proof.Machine

open Sys2Proof

/-! ## Parts of the state -/

def State.cluster (s : State) (c : Nat) : Cluster := s.clusters.get {} c
def State.setCluster (s : State) (c : Nat) (x : Cluster) : State := { s with clusters := s.clusters.set c x }
def State.modCluster (s : State) (c : Nat) (f : Cluster → Cluster) : State := s.setCluster c (f (s.cluster c))
def State.region (s : State) (c : Nat) : Region := (s.cluster c).region
def State.setRegion (s : State) (c : Nat) (r : Region) : State := s.modCluster c (fun x => { x with region := r })
def State.modRegion (s : State) (c : Nat) (f : Region → Region) : State := s.setRegion c (f (s.region c))
/-- A region stands still: frozen by a trap, or stopped for a save (R33). -/
def Region.halted (r : Region) : Bool := r.frozen.isSome || r.stoppedBy.isSome
def Region.node (r : Region) (i : Nat) : Node := r.nodes.get {} i
def Region.setNode (r : Region) (i : Nat) (n : Node) : Region := { r with nodes := r.nodes.set i n }
def State.node (s : State) (c i : Nat) : Node := (s.region c).node i
def State.setNode (s : State) (c i : Nat) (n : Node) : State := s.modRegion c (fun r => r.setNode i n)
def State.modNode (s : State) (c i : Nat) (f : Node → Node) : State := s.setNode c i (f (s.node c i))
def State.task (s : State) (t : Nat) : Task := s.tasks.get {} t
def State.setTask (s : State) (t : Nat) (x : Task) : State := { s with tasks := s.tasks.set t x }
def State.modTask (s : State) (t : Nat) (f : Task → Task) : State := s.setTask t (f (s.task t))
/-- The task that holds the region of a cluster; TASK_ID 0 where none does. -/
def State.taskIdOf (s : State) (c : Nat) : Nat := (s.cluster c).task.getD 0
def State.taskOf (s : State) (c : Nat) : Task := s.task (s.taskIdOf c)
/-- Changes the task that holds a region; nothing where none does. -/
def State.modTaskOf (s : State) (c : Nat) (f : Task → Task) : State :=
  match (s.cluster c).task with
  | some t => s.modTask t f
  | none => s
def State.job (s : State) (j : Nat) : Job := s.hub.jobs.get {} j
def State.modHub (s : State) (f : Hub → Hub) : State := { s with hub := f s.hub }
def State.modJob (s : State) (j : Nat) (f : Job → Job) : State := s.modHub (fun h => { h with jobs := h.jobs.set j (f (s.job j)) })
def State.link (s : State) (m : Nat) : Link := s.links.get {} m
def State.modLink (s : State) (m : Nat) (f : Link → Link) : State := { s with links := s.links.set m (f (s.link m)) }
def State.far (s : State) (f : Nat) : Far := s.fars.get {} f
def State.modFar (s : State) (k : Nat) (f : Far → Far) : State := { s with fars := s.fars.set k (f (s.far k)) }
def State.modRing (s : State) (f : Ring → Ring) : State := { s with ring := f s.ring }

/-- A general register (R59, R61): `g0` reads zero and discards writes. -/
def Task.reg (t : Task) (n : Nat) : Word := if n = 0 then 0 else t.regs.get 0 n
def Task.setReg (t : Task) (n : Nat) (v : Word) : Task := if n = 0 then t else { t with regs := t.regs.set n v }

/-- A tile of a task: never written, it is zero but for OWNER (R253). -/
def Task.tile (t : Task) (n : Nat) : Tile := t.tiles.get { owner := t.id } n
def Task.setTile (t : Task) (n : Nat) (x : Tile) : Task := { t with tiles := t.tiles.set n x }
def Task.dot (t : Task) (cell : Nat) : Dot := t.dots.get {} cell
def Task.setDot (t : Task) (cell : Nat) (d : Dot) : Task := { t with dots := t.dots.set cell d }
def Dot.acc (d : Dot) (a : Nat) : Acc := d.accs.get {} a
def Dot.setAcc (d : Dot) (a : Nat) (x : Acc) : Dot := { d with accs := d.accs.set a x }

/-- A new number for an access, command or operation. -/
def State.newId (s : State) : State × Nat := ({ s with ids := s.ids + 1 }, s.ids + 1)

/-! ## Queues -/

/-- Slots of a node: 0 L, 1 R, 2 P. -/
def Node.queue (n : Node) : Nat → Queue
  | 0 => n.l
  | 1 => n.r
  | _ => n.p

def Node.setQueue (n : Node) (k : Nat) (q : Queue) : Node :=
  match k with
  | 0 => { n with l := q }
  | 1 => { n with r := q }
  | _ => { n with p := q }

/-- The head that is available in this cycle, marker or not (R23). -/
def Queue.front (q : Queue) (now : Nat) : Option QTok :=
  match q.toks with
  | [] => none
  | t :: _ => if t.pend.isNone && t.at_ ≤ now then some t else none

/-- The available data packet or control token at the head (R26, R28). -/
def Queue.operand (q : Queue) (now : Nat) : Option QTok :=
  match q.front now with
  | some t => (match t.tok with
      | .mark _ => none
      | _ => some t)
  | none => none

/-- The marker that is available at the head. -/
def Queue.marker (q : Queue) (now : Nat) : Option Mark :=
  match q.front now with
  | some t => (match t.tok with
      | .mark m => some m
      | _ => none)
  | none => none

/-- The reserved entry is free (R24). -/
def Queue.reservedFree (q : Queue) (now : Nat) : Bool := q.toks.all (·.pooled) && q.resAt ≤ now

/-- One more token is accepted: by the free reserved entry, or under a permit (R25). -/
def Queue.accepts (q : Queue) (now : Nat) : Bool := q.permit || q.reservedFree now

/-- Puts a token behind the others, in the reserved entry if that is free and in a pool entry otherwise; the permit, used
or not, is given up (R24). -/
def Queue.put (q : Queue) (now : Nat) (t : QTok) : Queue :=
  { q with toks := q.toks ++ [{ t with pooled := !q.reservedFree now }], permit := false }

/-- Removes the head. -/
def Queue.take (q : Queue) (now : Nat) : Queue :=
  match q.toks with
  | [] => q
  | t :: rest => { q with toks := rest, resAt := if t.pooled then q.resAt else now + 1, stood := 0, pops := q.pops + 1 }

/-- Pool entries a queue has in use (R24). -/
def Queue.poolUse (q : Queue) : Nat := (q.toks.filter (·.pooled)).length + q.permit.toNat

def Node.poolUse (n : Node) : Nat := n.l.poolUse + n.r.poolUse + n.p.poolUse

/-- Pool entries of a cell that are free: 32, less those in use and those that return in the next cycle (R24). -/
def Region.poolFree (r : Region) (cell : Nat) : Nat :=
  32 - ((r.node (4 * cell)).poolUse + (r.node (4 * cell + 1)).poolUse + (r.node (4 * cell + 2)).poolUse +
    (r.node (4 * cell + 3)).poolUse + r.returning.get 0 cell)

/-- Removes the head of a slot of node i; a pool entry returns in the next cycle (R24). -/
def Region.pop (r : Region) (now i slot : Nat) : Region :=
  let n := r.node i
  let q := n.queue slot
  let pooled := match q.toks with
    | t :: _ => t.pooled
    | [] => false
  let r' := r.setNode i (n.setQueue slot (q.take now))
  if pooled then { r' with returning := r'.returning.set (i / 4) (r'.returning.get 0 (i / 4) + 1) } else r'

/-! ## Distances -/

/-- Hops between two cells of a cluster (R17, R23). -/
def hops (a b : Nat) : Nat :=
  (if a / 8 ≤ b / 8 then b / 8 - a / 8 else a / 8 - b / 8) + (if a % 8 ≤ b % 8 then b % 8 - a % 8 else a % 8 - b % 8)

/-- Row and column of a cluster in the 8 x 8 mesh (R152). -/
def meshRow (c : Nat) : Nat := (c % 16) / 4 + (if c / 16 = 2 ∨ c / 16 = 3 then 4 else 0)
def meshCol (c : Nat) : Nat := c % 4 + (if c / 16 = 1 ∨ c / 16 = 3 then 4 else 0)

/-- Hops between two clusters (R152). -/
def clusterHops (a b : Nat) : Nat :=
  (if meshRow a ≤ meshRow b then meshRow b - meshRow a else meshRow a - meshRow b) +
    (if meshCol a ≤ meshCol b then meshCol b - meshCol a else meshCol a - meshCol b)

/-! ## Targets -/

/-- The queue a target names: node and slot. -/
def slotOf : Target → Option (Nat × Nat)
  | .left n => some (n.toNat, 0)
  | .right n => some (n.toNat, 1)
  | .pred n => some (n.toNat, 2)
  | _ => none

/-- Entries of a write entry to a port, or of a gate, that hold tokens (log entry 7). -/
def entryRoom : Nat := 9

/-- The running block's write entry names a port (R61). -/
def Region.portWrite (r : Region) (e : Nat) : Option Nat :=
  match r.img with
  | none => none
  | some im => match im.writes[e]? with
    | some w => if 112 ≤ w.reg.toNat then some (w.reg.toNat - 112) else none
    | none => none

/-- A target accepts one more token (R25). A gate takes every token after the injection, which discards them (R223). -/
def Region.accepts (r : Region) (now : Nat) : Target → Bool
  | .none => true
  | .left n => (r.node n.toNat).l.accepts now
  | .right n => (r.node n.toNat).r.accepts now
  | .pred n => (r.node n.toNat).p.accepts now
  | .write e => (r.portWrite e.toNat).isNone || ((r.writes.get {} e.toNat).toks.length < entryRoom)
  | .gate e => r.inject.isSome || (r.reads.get {} e.toNat).gate.length < entryRoom

/-- Puts a token into an operand queue of node i. -/
def Region.putSlot (r : Region) (now i slot : Nat) (t : QTok) : Region :=
  r.setNode i ((r.node i).setQueue slot (((r.node i).queue slot).put now t))

/-- Puts a token behind those on their way to a write entry. -/
def Region.putWrite (r : Region) (e : Nat) (t : QTok) : Region :=
  { r with writes := r.writes.set e { r.writes.get {} e with toks := (r.writes.get {} e).toks ++ [t] } }

/-- Puts a token behind those at the gate of a read entry. -/
def Region.putGate (r : Region) (e : Nat) (t : QTok) : Region :=
  { r with reads := r.reads.set e { r.reads.get {} e with gate := (r.reads.get {} e).gate ++ [t] } }

/-- The cycle in which a token that leaves cell `cell` after `lat` cycles is available at a target (R23, R214). -/
def arrival (now cell lat : Nat) : Target → Nat
  | .left n | .right n | .pred n => now + lat + hops cell (n.toNat / 4)
  | _ => now + lat + 2

/-- Puts a token into a target, to be available in cycle `t.at_`. -/
def Region.put (r : Region) (now : Nat) (tgt : Target) (t : QTok) : Region :=
  match tgt with
  | .none => r
  | .left n => r.putSlot now n.toNat 0 t
  | .right n => r.putSlot now n.toNat 1 t
  | .pred n => r.putSlot now n.toNat 2 t
  | .write e => r.putWrite e.toNat t
  | .gate e => r.putGate e.toNat t

/-- Delivers a token of a firing in cell `cell` with latency `lat` (R23). -/
def Region.deliver (r : Region) (now cell lat : Nat) (tgt : Target) (tok : Token) (bound : List Nat) (pend : Option Nat) :
    Region :=
  r.put now tgt { tok := tok, at_ := arrival now cell lat tgt, bound := bound, pend := pend }

/-- Delivers a token of a read entry: on the entry bus it is available two cycles later at any cell (R214). -/
def Region.deliverEntry (r : Region) (now : Nat) (tgt : Target) (tok : Token) (bound : List Nat) : Region :=
  r.put now tgt { tok := tok, at_ := now + 2, bound := bound }

/-- Fills the place that waits for the result `id` in a list of tokens; a place that is gone drops the token (R183). -/
def fillToks : List QTok → Nat → Nat → Token → List Nat → List QTok
  | [], _, _, _, _ => []
  | t :: rest, id, at_, tok, bound =>
    if t.pend = some id then { t with tok := tok, at_ := at_, bound := bound, pend := none } :: rest
    else t :: fillToks rest id at_ tok bound

/-- Fills the place in an operand queue that waits for result `id`. -/
def Region.fillSlot (r : Region) (i slot id at_ : Nat) (tok : Token) (bound : List Nat) : Region :=
  let q := (r.node i).queue slot
  r.setNode i ((r.node i).setQueue slot { q with toks := fillToks q.toks id at_ tok bound })

/-- Fills the place at a target that waits for result `id`. -/
def Region.fill (r : Region) (now cell lat : Nat) (tgt : Target) (id : Nat) (tok : Token) (bound : List Nat) : Region :=
  let at_ := arrival now cell lat tgt
  match tgt with
  | .none => r
  | .left n => r.fillSlot n.toNat 0 id at_ tok bound
  | .right n => r.fillSlot n.toNat 1 id at_ tok bound
  | .pred n => r.fillSlot n.toNat 2 id at_ tok bound
  | .write e =>
    let w := r.writes.get {} e.toNat
    { r with writes := r.writes.set e.toNat { w with toks := fillToks w.toks id at_ tok bound } }
  | .gate e =>
    let g := r.reads.get {} e.toNat
    { r with reads := r.reads.set e.toNat { g with gate := fillToks g.gate id at_ tok bound } }

/-- Removes every place that waits for result `id` from a queue. -/
def Queue.unpend (q : Queue) (now : Nat) (id : Nat) : Queue :=
  { q with
    toks := q.toks.filter (fun t => t.pend != some id)
    resAt := if q.toks.any (fun t => t.pend == some id && !t.pooled) then now + 1 else q.resAt }

/-- Removes every place of a region that waits for result `id`; its pool entries return at once. -/
def Region.unpend (r : Region) (now : Nat) (id : Nat) : Region :=
  { r with
    nodes := r.nodes.mapV (fun _ n => { n with l := n.l.unpend now id, r := n.r.unpend now id, p := n.p.unpend now id })
    writes := r.writes.mapV (fun _ w => { w with toks := w.toks.filter (fun t => t.pend != some id) })
    reads := r.reads.mapV (fun _ g => { g with gate := g.gate.filter (fun t => t.pend != some id) }) }

end Sys2Proof.Machine
end

