-- ==== Sys2Proof/Machine/Xlate.lean ====
section
/-!
DEFINITION. Addresses: SRAM resolution (R233), page tables and their walk (R338 to R342), the TLB (R344), the tiers and
partition keys (R336, R352). A physical address of HBM, drawer, peer or host memory is the number the PTE gives; a byte of
scratchpad is keyed by its physical SRAM address (prefix 0xFE).
-/

namespace Sys2Proof.Machine

open Sys2Proof

/-- The kinds of access of R343, in the order of TINFO_C [5:3]. -/
inductive AccKind where
  | read | write | atomic | fetch | desc
deriving DecidableEq, Repr

def AccKind.code : AccKind → Nat
  | .read => 0 | .write => 1 | .atomic => 2 | .fetch => 3 | .desc => 4

/-- A fault of an access: trap code, subcode, TINFO_A and TINFO_C (R343, R370). -/
structure XFault where
  code : Nat
  sub : Nat
  addr : Word
  info : Word := 0
deriving DecidableEq, Repr

/-- Who translates: task, cluster of the agent (64 where it stands in none), address space, privilege (R342, R346), and how far
back its table reads may look beyond what it is bound to (R345). -/
structure Space where
  task : Nat
  clus : Nat
  root : Nat
  asid : Nat
  priv : Bool
  lag : Nat := 0
  bound : List Nat := []
deriving DecidableEq, Repr

/-- The address space of the task that holds region c, at the privilege of the running block. -/
def State.space (s : State) (c : Nat) : Space :=
  let t := s.taskOf c
  let j := s.job t.job
  { task := t.id, clus := c, root := j.root, asid := j.asid, priv := t.supb }

/-- A T_XLATE fault that stopped at level `lvl` (7: no walk) (R343). -/
def xlateFault (sub : Nat) (a : Word) (lvl : Nat) (k : AccKind) : XFault :=
  { code := 3, sub := sub, addr := a, info := BitVec.ofNat 64 (lvl + 8 * k.code) }

def alignFault (a : Word) (k : AccKind) : XFault := { code := 4, sub := 0, addr := a, info := BitVec.ofNat 64 (8 * k.code) }

/-- The first byte address of the SRAM space (R233). -/
def sramBase : Nat := 0xFE00000000000000

def isSram (pa : Nat) : Bool := sramBase ≤ pa

/-- The physical address of byte `off` of the slice of a cell (R7). -/
def sliceAddr (clus cell off : Nat) : Nat := sramBase + clus * 2 ^ 24 + cell * 2 ^ 18 + off

/-- Cluster, cell and offset of an SRAM byte (R7). -/
def sramClus (pa : Nat) : Nat := (pa - sramBase) / 2 ^ 24 % 64
def sramCell (pa : Nat) : Nat := (pa - sramBase) / 2 ^ 18 % 64
def sramOff (pa : Nat) : Nat := (pa - sramBase) % 2 ^ 18

/-- The cluster that virtual region v is bound to, for a task in cluster c (R233, R319, R390). -/
def State.vregCluster (s : State) (sp : Space) (v : Nat) : Option Nat :=
  let t := s.task sp.task
  if t.twin.isSome && t.vreg == some v then some sp.clus
  else
    match (s.job t.job).vregs.find v with
    | some x => x.bound
    | none => none

/-- SRAM resolution (R233). -/
def State.sram (s : State) (sp : Space) (a : Word) (k : AccKind) : Except XFault Nat :=
  let bad : Except XFault Nat := .error (xlateFault 8 a 7 k)
  if bitsOf a 55 30 != 0 then bad
  else
    let clus := if bitsOf a 63 56 = 0xFD then s.vregCluster sp (bitsOf a 29 24) else some (bitsOf a 29 24)
    match clus with
    | none => bad
    | some c => if 48 ≤ bitsOf a 23 18 ∨ 0x30000 ≤ bitsOf a 17 0 then bad
                else .ok (sliceAddr c (bitsOf a 23 18) (bitsOf a 17 0))

/-! ## Page tables -/

/-- A page-table entry's fields (R339). -/
def pteV (e : Nat) : Bool := e.testBit 0
def pteLF (e : Nat) : Bool := e.testBit 5
def pteC64 (e : Nat) : Bool := e.testBit 6
def pteTier (e : Nat) : Bool := e.testBit 7
def pteMig (e : Nat) : Nat := (e / 256) % 4
def ptePa (e : Nat) : Nat := (e / 4096) % 2 ^ 36 * 4096

/-- The ranges of R336: 0 HBM, 1 drawer, 2 peer, 3 host; none where reserved. -/
def rangeOf (pa : Nat) : Option Nat :=
  if pa < 2 ^ 40 then some 0
  else if 0x200000000000 ≤ pa ∧ pa < 0x400000000000 then some 1
  else if 0x400000000000 ≤ pa ∧ pa < 0x480000000000 then some 2
  else if 0x800000000000 ≤ pa ∧ pa < 0x1000000000000 then some 3
  else none

/-- log2 of the page size of a leaf at a level (R338). -/
def pageLog (lvl : Nat) : Nat := 12 + 9 * lvl

/-- A malformed entry (R340). -/
def malformed (e lvl : Nat) : Bool :=
  (e / 1024) % 4 != 0 || e / 2 ^ 48 != 0 || 2 ≤ pteMig e ||
  (pteLF e && 3 ≤ lvl) || (!pteLF e && lvl == 0) ||
  (if pteLF e then
    ptePa e % 2 ^ pageLog lvl != 0 || (pteC64 e && lvl != 0) ||
      (match rangeOf (ptePa e) with
       | some r => pteTier e != (r != 0)
       | none => false)
   else (e / 2) % 16 != 0 || pteC64 e || pteTier e || pteMig e != 0 || rangeOf (ptePa e) != some 0)

/-- A PTE read: 8 bytes at system scope, and whether a sector of it is marked (R341). An entry that a write has made valid may
still be found invalid by an agent that is not bound to the write (R345). -/
def State.pte (s : State) (sp : Space) (a : Nat) : Nat × Bool :=
  let old := (s.cutBytes (s.cuts sp.lag sp.bound true (span a 8))).foldr (fun b acc => b.toNat + 256 * acc) 0
  (if pteV old then s.leNow a 8 else old, s.marked a)

/-- The sixteen entries of a C64 group agree (R340): same flags, consecutive pages from a 64 KiB-aligned base. -/
def State.groupOk (s : State) (line : Nat) : Bool :=
  let e0 := s.leNow line 8
  ptePa e0 % 0x10000 == 0 && (List.range 16).all (fun k =>
    let e := s.leNow (line + 8 * k) 8
    pteV e && pteC64 e && e % 4096 == e0 % 4096 && e / 2 ^ 48 == 0 && ptePa e == ptePa e0 + 4096 * k)

def State.groupMarked (s : State) (line : Nat) : Bool := (List.range 4).any (fun k => s.marked (line + 32 * k))

/-- A leaf that a walk has reached: place of its entry, the entry, its level. -/
structure Leaf where
  at_ : Nat
  e : Nat
  lvl : Nat
deriving DecidableEq, Repr

/-- A walk from the table at `t` of level `lvl` to its leaf, or to a fault (R341). -/
def State.leafFrom (s : State) (sp : Space) (a : Word) (k : AccKind) : Nat → Nat → Except XFault Leaf
  | t, lvl =>
    let ea := t + 8 * (a.toNat / 2 ^ pageLog lvl % 512)
    let e := (s.pte sp ea).1
    if (s.pte sp ea).2 then .error (xlateFault 6 a lvl k)
    else if !pteV e then .error (xlateFault 2 a lvl k)
    else if malformed e lvl then .error (xlateFault 4 a lvl k)
    else if !pteLF e then
      match lvl with
      | 0 => .error (xlateFault 4 a 0 k)
      | l + 1 => s.leafFrom sp a k (ptePa e) l
    else if pteC64 e && s.groupMarked (ea / 128 * 128) then .error (xlateFault 6 a lvl k)
    else if pteC64 e && !s.groupOk (ea / 128 * 128) then .error { xlateFault 5 a lvl k with info := BitVec.ofNat 64 (lvl + 40) }
    else if (rangeOf (ptePa e)).isNone then .error (xlateFault 7 a lvl k)
    else .ok { at_ := ea, e := e, lvl := lvl }

/-- The leaf of an address in its space (R341, R346). -/
def State.leaf (s : State) (sp : Space) (a : Word) (k : AccKind) : Except XFault Leaf :=
  if rangeOf sp.root != some 0 then .error (xlateFault 4 a 4 k) else s.leafFrom sp a k sp.root 4

/-- The TLB entry of a leaf (R344): a 64 KiB group counts as one. -/
def Leaf.entry (l : Leaf) (asid : Nat) (a : Word) : TlbEntry :=
  let log := if pteC64 l.e then 16 else pageLog l.lvl
  { asid := asid, va := a.toNat / 2 ^ log * 2 ^ log, log := log, pa := ptePa l.e / 2 ^ log * 2 ^ log
    r := l.e.testBit 1, w := l.e.testBit 2, x := l.e.testBit 3, u := l.e.testBit 4, moving := pteMig l.e == 1 }

/-- A walk from the root of an address space (R341). -/
def State.walk (s : State) (sp : Space) (a : Word) (k : AccKind) : Except XFault TlbEntry := (s.leaf sp a k).map (·.entry sp.asid a)

/-- The places that a walk reads (R341): an entry of each level it visits, and the line of a C64 group. -/
def State.walkReads (s : State) (sp : Space) (a : Word) : Nat → Nat → List Nat
  | t, lvl =>
    let ea := t + 8 * (a.toNat / 2 ^ pageLog lvl % 512)
    let e := (s.pte sp ea).1
    if (s.pte sp ea).2 || !pteV e || malformed e lvl then [ea]
    else if pteLF e then (if pteC64 e then span (ea / 128 * 128) 128 else [ea])
    else match lvl with
      | 0 => [ea]
      | l + 1 => ea :: s.walkReads sp a (ptePa e) l

/-- The TLB entry of a cluster for an address (R344). -/
def State.tlbHit (s : State) (c asid : Nat) (a : Word) : Option TlbEntry :=
  (s.cluster c).tlb.find? (fun e => e.asid == asid && a.toNat / 2 ^ e.log == e.va / 2 ^ e.log)

/-- The TLB keeps at most 2,048 entries; a fill replaces the oldest (R344; which one is not visible). -/
def State.tlbFill (s : State) (c : Nat) (e : TlbEntry) : State :=
  s.modCluster c (fun x => { x with tlb := (e :: x.tlb).take 2048 })

/-- The level that a permission or range check reports (R343): the leaf's where a walk has reached it, else 7. -/
def fillLevel : Option TlbEntry → Nat
  | some e => if e.log = 16 then 0 else (e.log - 12) / 9
  | none => 7

/-- The leaf permissions an access needs (R342). -/
def permits (e : TlbEntry) (priv : Bool) : AccKind → Bool
  | .read | .desc => e.r && (priv || e.u)
  | .write => e.w && (priv || e.u)
  | .atomic => e.r && e.w && (priv || e.u)
  | .fetch => e.x && (priv || e.u)

/-- The key check of a far access (R352): VALID, revoked keys, keys the switch does not hold, unassigned peers. -/
def State.keyFault (s : State) (pa : Nat) (a : Word) : Option XFault :=
  let key := s.hub.partKey
  let fault (sub : Nat) : XFault := { code := 0xF, sub := sub, addr := a, info := BitVec.ofNat 64 key.toNat }
  match rangeOf pa with
  | some 1 => if !s.hub.keyValid then some (fault 2)
              else if s.hub.revoked.contains key.toNat || !Config.keyHeld key then some (fault 1) else none
  | some 2 => if !s.hub.keyValid then some (fault 2)
              else if s.hub.revoked.contains key.toNat || !Config.keyHeld key ||
                !Config.peerAssigned (BitVec.ofNat 3 (pa / 2 ^ 40)) then some (fault 1) else none
  | _ => none

/-- Translation of one address (R335, R341, R342): the physical address, and the TLB entry a walk would fill. -/
def State.xlateRaw (s : State) (sp : Space) (a : Word) (k : AccKind) : Except XFault (Nat × Option TlbEntry) :=
  let top := bitsOf a 63 56
  if top = 0xFD ∨ top = 0xFE then (s.sram sp a k).map (fun pa => (pa, none))
  else if 2 ≤ top then .error (xlateFault 1 a 7 k)
  else
    let finish (e : TlbEntry) (fill : Option TlbEntry) : Except XFault (Nat × Option TlbEntry) :=
      if !permits e sp.priv k then .error (xlateFault 3 a (fillLevel fill) k) else .ok (e.pa + a.toNat % 2 ^ e.log, fill)
    match s.tlbHit sp.clus sp.asid a with
    | some e => finish e none
    | none => (match s.walk sp a k with
        | .error f => .error f
        | .ok e => finish e (some e))

/-- Translation with the key check of a far address (R352), for the hub, whose accesses the model places in no slot (log entry
2). -/
def State.xlate (s : State) (sp : Space) (a : Word) (k : AccKind) : Except XFault (Nat × Option TlbEntry) :=
  match s.xlateRaw sp a k with
  | .error f => .error f
  | .ok (pa, fill) => (match s.keyFault pa a with
      | some f => .error f
      | none => .ok (pa, fill))

/-- Translation of every byte of an access of n bytes: the pieces of the pages it spans (R153). The result gives each byte its
physical address. -/
def State.xlateBytes (s : State) (sp : Space) (a : Word) (n : Nat) (k : AccKind) : Except XFault (List Nat) :=
  (List.range n).foldr (fun j acc =>
    match s.xlateRaw sp (a + BitVec.ofNat 64 j) k with
    | .error f => .error f
    | .ok (pa, _) => acc.map (pa :: ·)) (.ok [])

/-- The addresses at which the pages of a run of n bytes begin, the first byte standing for its page. -/
def pageStarts (a : Word) (n : Nat) : List Word :=
  if n = 0 then []
  else a :: (List.range ((a.toNat % 4096 + n - 1) / 4096)).map (fun j => BitVec.ofNat 64 ((a.toNat / 4096 + j + 1) * 4096))

/-- What the translation of one address leaves behind: errors that the walk has found, which leave their sectors marked (R382),
and the leaf in the TLB of the agent's cluster (R344). -/
def State.walked1 (s : State) (sp : Space) (a : Word) (k : AccKind) : State :=
  if 2 ≤ bitsOf a 63 56 || (s.tlbHit sp.clus sp.asid a).isSome || rangeOf sp.root != some 0 then s
  else
    let s1 := s.findErrors (s.walkReads sp a sp.root 4)
    match s.walk sp a k with
    | .ok e => if sp.clus < 64 then s1.tlbFill sp.clus e else s1
    | .error _ => s1

/-- What the translation of a run of n bytes leaves behind. -/
def State.walked (s : State) (sp : Space) (a : Word) (n : Nat) (k : AccKind) : State :=
  (pageStarts a n).foldl (fun st p => st.walked1 sp p k) s

/-- Translation of every byte for the hub, with the key check (R352). -/
def State.xlateSpan (s : State) (sp : Space) (a : Word) (n : Nat) (k : AccKind) : Except XFault (List Nat) :=
  (List.range n).foldr (fun j acc =>
    match s.xlate sp (a + BitVec.ofNat 64 j) k, acc with
    | .error f, _ => .error f
    | .ok (pa, _), .ok l => .ok (pa :: l)
    | .ok _, .error f => .error f) (.ok [])

/-- The page being moved by the migration engine that holds a physical byte: the byte of the other copy (R354). -/
def State.otherCopy (s : State) (pa : Nat) : Option Nat :=
  (s.hub.migs.find? (fun m => (pa / 4096 == m.oldPa / 4096 || pa / 4096 == m.newPa / 4096))).map
    (fun m => if pa / 4096 == m.oldPa / 4096 then m.newPa + pa % 4096 else m.oldPa + pa % 4096)

/-- The places of the other copies of a page that moves to which a write can go: the migration engine's write to far memory needs
a key that the switch accepts (R207, R352, R402). -/
def State.mirrorPlace (s : State) (pa : Nat) : Option Nat :=
  match s.otherCopy pa with
  | some q => if (s.keyFault q 0).isNone then some q else none
  | none => none

/-- A write performs at both copies of a page that moves (R354). -/
def State.storeAll (s : State) (bs : List PByte) (atomic : Bool) (rel : Option Release) (rmw : Option Nat := none)
    (bytewise : Bool := false) : State :=
  s.store (bs ++ bs.filterMap (fun b => (s.mirrorPlace b.addr).map (fun pa => { b with addr := pa }))) atomic rel rmw bytewise

end Sys2Proof.Machine
end

