-- ==== Sys2Proof/Machine/Regs.lean ====
section
/-!
DEFINITION. System registers as software reads them: the task registers 0x000 to 0x0FF (R228, R240, R247, R307, R362, R374,
R387, R396) and the package registers (R295, R315, R346, R350, R352, R356, R375, R390, R396, R400, R401, R406).
-/

namespace Sys2Proof.Machine

open Sys2Proof

/-- Fields of a register put together: value and lowest bit. -/
def fields (l : List (Nat × Nat)) : Word := BitVec.ofNat 64 (l.foldl (fun acc x => acc + x.1 * 2 ^ x.2) 0)

def TileState.code : TileState → Nat
  | .empty => 0 | .filling => 1 | .ready => 2 | .draining => 3

def TileState.ofCode (n : Nat) : TileState :=
  match n % 4 with
  | 0 => .empty
  | 1 => .filling
  | 2 => .ready
  | _ => .draining

def PlaneState.code : PlaneState → Nat
  | .empty => 0 | .armed => 1 | .loading => 2 | .loaded => 3

/-- N of a descriptor: the number of values of its stream (R237). -/
def Desc.total (d : Desc) : Nat := d.cnt.foldl (· * ·) 1

/-- NOPARK of CALL_DEPTH (R359, R362): with LIM = 48 every frame goes to the stack. -/
def Task.nopark (t : Task) : Bool := t.lim == 48

/-- SPOS of a port (R240); zero when unbound. -/
def Port.spos (p : Port) : Word :=
  fields [(p.ord, 0), (1, 48), (p.write.toNat, 49), (p.ended.toNat, 50), (p.fault.isSome.toNat, 51),
    ((p.desc.mode == 1).toNat, 52)]

/-- RP_STAT (R387). -/
def Task.rpStat (t : Task) : Word :=
  fields [(t.rpHave.toNat, 0), (t.rpKind.toNat, 1), (t.rpElig.toNat, 2), (t.irrev.toNat, 3), (t.rolled.toNat, 4), (t.rolls, 16)]

/-- TASK_STAT (R228). -/
def Task.stat (t : Task) : Word :=
  fields [(t.rmode.toNat, 0), (t.strd.toNat, 3), (t.nowr.toNat, 4), (t.eosOver.toNat, 5), (t.supg.toNat, 6), (t.supb.toNat, 7),
    (t.lexn, 8)]

/-- TASK_SCHED (R307). -/
def Task.sched (t : Task) : Word :=
  fields [(t.prio, 0), (t.eprio, 2), (t.repl.toNat, 5), (t.vreg.getD 0, 6), (t.gang, 12), (t.srcn, 28)]

/-- A task register (SYSNO 0x000 to 0x0FF); an unassigned number reads zero (R203). -/
def Task.sysreg (t : Task) (n : Nat) : Word :=
  if 0x20 ≤ n ∧ n < 0x30 then
    match t.ports.find (n - 0x20) with
    | some p => p.spos
    | none => 0
  else match n with
    | 0x000 => BitVec.ofNat 64 t.id
    | 0x001 => t.stat
    | 0x002 => t.seed
    | 0x003 => t.budget
    | 0x004 => BitVec.ofNat 64 t.stranded
    | 0x00E => t.rpStat
    | 0x00F => t.tcause
    | 0x010 => t.tinfo.getD 0 0
    | 0x011 => t.tinfo.getD 1 0
    | 0x012 => t.tinfo.getD 2 0
    | 0x013 => t.tinfo.getD 3 0
    | 0x014 => t.tpos.getD 0 0
    | 0x015 => t.tpos.getD 1 0
    | 0x016 => t.tpos.getD 2 0
    | 0x017 => t.tpos.getD 3 0
    | 0x030 => t.reloc
    | 0x031 => BitVec.ofNat 64 t.age
    | 0x032 => t.sched
    | 0x033 => fields [(t.semn, 0), (t.sbase, 8), (t.sclus, 16)]
    | 0x034 => fields [(t.depth, 0), (t.nopark.toNat, 32)]
    | 0x035 => fields [(t.linkMod, 0), (t.linkDie, 8)]
    | _ => 0

/-- Ring position q of a near die (R277: N0, N1, N3, N2) and the die at a position. -/
def ringPos (die : Nat) : Nat := match die with | 2 => 3 | 3 => 2 | d => d
def ringDie (q : Nat) : Nat := match q % 4 with | 2 => 3 | 3 => 2 | d => d

/-- The module that an end of a near die belongs to, named by its end at the earlier die (R394): 104 x die + number; none for a
reserved number. -/
def linkOf (die md : Nat) : Option Nat :=
  let prev := ringDie (ringPos die + 3)
  if 104 ≤ md ∨ 4 ≤ die then none
  else if 32 ≤ md ∧ md < 64 then some (104 * prev + md - 32)
  else if 80 ≤ md ∧ md < 96 then some (104 * prev + md - 16)
  else some (104 * die + md)

/-- The module of a module end numbered 104 x die + number. -/
def moduleOf (m : Nat) : Nat := (linkOf (m / 104) (m % 104)).getD m

/-- The direction in which a flit goes that a module end receives; ends from 416 on are the other ends, numbered or not, of the
modules of ends 0 to 415 (R394). -/
def wireOf (m : Nat) : Nat :=
  let k := if moduleOf (m % 416) = m % 416 then 0 else 1
  if m < 416 then k else 1 - k

/-- The physical data lane with the most CRC errors, the lowest on a tie, and whether any has one (R396 WLANE, WVALID). -/
def Link.worst (l : Link) : Nat × Bool :=
  (List.range 64).foldl (fun best k => if l.errs.get 0 best.1 < l.errs.get 0 k then (k, true) else best)
    (0, 0 < l.errs.get 0 0)

/-- One direction of a module. -/
def Link.wire (l : Link) (k : Nat) : Wire := l.wires.get {} k

/-- HELD, both directions together, as far as its field goes (R396; log entry 39). -/
def Link.held (l : Link) : Nat := Nat.min 0xFF ((l.wire 0).held + (l.wire 1).held)

/-- A link register 0x500 to 0x504 of a module end (R396). -/
def Link.reg (l : Link) (n : Nat) : Word :=
  match n with
  | 0x500 => fields [(l.tw, 0), (l.go.toNat, 2), (l.revt.toNat, 3), (l.rthr, 8)]
  | 0x501 => BitVec.ofNat 64 l.cnt
  | 0x502 => fields [(l.cur, 0), (l.trains, 16)]
  | 0x503 => fields [(l.map.toNat, 0), (l.spbad.toNat, 32)]
  | 0x504 => fields [(l.up.toNat, 0), (l.quiesced.toNat, 1), (l.training.toNat, 2), (l.evt.toNat, 3), (l.fail.toNat, 4),
      (l.badmap.toNat, 5), (l.worst.1, 6), (l.worst.2.toNat, 12), (l.held, 16)]
  | _ => 0

/-- OLDFL: flits under the retiring slot that a replay buffer of either end still holds (R401). -/
def Far.oldFlits (f : Far) (now : Nat) : Nat := f.oldfl + (f.holds.filter (fun x => x.old && decide (now < x.until_))).length

/-- An IDE control register (R401). -/
def Far.ide (f : Far) (now : Nat) : Word :=
  fields [(f.roll.toNat, 0), (f.txslot.toNat, 1), (f.retiring.toNat, 2), (f.keyerr.toNat, 3), (f.rcnt, 16),
    (f.oldFlits now % 2 ^ 16, 32)]

/-- The slowest vote among tasks that hold a region that is not frozen or stopped (R33, R292). -/
def State.vote (s : State) : Nat :=
  (List.range 64).foldl (fun v c =>
    match (s.cluster c).task with
    | none => v
    | some t => if (s.region c).frozen.isSome || (s.region c).stoppedBy.isSome then v else Nat.max v ((s.task t).vote.getD 0)) 0

/-- A module carries traffic (R396, R399). -/
def Link.carries (l : Link) : Bool := l.up && !l.quiesced && !l.training && l.cur != 3

/-- Twice the module equivalents of the crossing from die q in ring order (R293). -/
def State.seamUnits (s : State) (q : Nat) : Nat :=
  (List.range 32).foldl (fun n k =>
    let l := s.link (104 * ringDie q + k)
    if !l.carries then n else if l.cur = 0 then n + 2 else n + 1) 0

/-- The fastest speed every crossing carries: 0 to 3, and 4 where even a quarter does not (R293). -/
def State.seam (s : State) : Nat :=
  let m := (List.range 4).foldl (fun n q => Nat.min n (s.seamUnits q)) 64
  if 54 ≤ m then 0 else if 42 ≤ m then 1 else if 28 ≤ m then 2 else if 14 ≤ m then 3 else 4

/-- Some mesh module of the seam from die q in ring order to the next is up (R394, R399). -/
def State.seamOpen (s : State) (q : Nat) : Bool := (List.range 16).any (fun j => (s.link (104 * ringDie q + 64 + j)).carries)

/-- The mesh reaches one near die from another: over one seam, or over both seams of a way round (R399; log entry 46). -/
def State.meshOpen (s : State) (d d' : Nat) : Bool :=
  let p := ringPos d
  let q := ringPos d'
  p == q || (q == (p + 1) % 4 && s.seamOpen p) || (p == (q + 1) % 4 && s.seamOpen q) ||
    (q == (p + 2) % 4 && ((s.seamOpen p && s.seamOpen ((p + 1) % 4)) || (s.seamOpen q && s.seamOpen ((q + 1) % 4))))

/-- Some far-die module of a near die is up (R394, R399). -/
def State.farLink (s : State) (d : Nat) : Bool := (List.range 4).any (fun k => (s.link (104 * d + 100 + k)).carries)

/-- Some far-die module of a far die is up (R394). -/
def State.farOpen (s : State) (f : Nat) : Bool := s.farLink (2 * f) || s.farLink (2 * f + 1)

/-- The hub link of a near die carries traffic (R394, R399). -/
def State.hubLink (s : State) (d : Nat) : Bool := (List.range 4).any (fun k => (s.link (104 * d + 96 + k)).carries)

/-- A near die is reached from a cluster over the mesh, or from the hub, which stands as cluster 64, over a hub link and the mesh behind
it (R399; log entry 46). -/
def State.dieOpen (s : State) (c d : Nat) : Bool :=
  if c < 64 then s.meshOpen (c / 16) d else (List.range 4).any (fun k => s.hubLink k && s.meshOpen k d)

/-- The hub is reached from a cluster, and two clusters reach each other (R399). -/
def State.hubOpen (s : State) (c : Nat) : Bool := 64 ≤ c || s.hubLink (c / 16)
def State.clusOpen (s : State) (c c' : Nat) : Bool := s.dieOpen c (c' / 16)

/-- The far die of a far address (R347). -/
def farOf (pa : Nat) : Nat := if rangeOf pa = some 2 then pa / 4096 % 2 else pa / 256 % 2

/-- The near die at which the traffic of a near die leaves for a far die: itself, or its neighbour of the other row (R394; log
entry 46). -/
def farExit (d f : Nat) : Nat := 2 * f + d % 2

/-- The links on the way from a cluster to a physical address carry traffic, and the island at which scratchpad lies does not skip
the cycle (R405); else the access waits at its sender (R399). -/
def State.pathOpen (s : State) (c pa : Nat) : Bool :=
  if isSram pa then s.clusOpen c (sramClus pa) && (s.cluster (sramClus pa)).skip != some s.now
  else match rangeOf pa with
    | some 0 => s.dieOpen c (pa / 2 ^ 38 % 4)
    | some 3 => s.hubOpen c
    | some _ => s.dieOpen c (farExit (c / 16) (farOf pa)) && s.farLink (farExit (c / 16) (farOf pa))
    | none => true

/-- USE of a slot-table entry (R348); a nonzero reserved field makes it idle. -/
def slotUse (e : BitVec 32) : Nat := if e.toNat / 2 ^ 21 != 0 then 3 else (e.toNat / 2 ^ 18) % 4

/-- An outbound request entry that acts as best effort, its paired inbound position not being held for pairing (R350). -/
def Far.demoted (f : Far) (i : Nat) : Bool :=
  let e := f.out.get 0 i
  let t := i / 192 + f.outAt / 80 + 16 - f.innAt / 80 % 16
  let back := if e.getLsbD 20 then (t + 21) % 16 else (t + 14) % 16
  slotUse e == 1 && slotUse (f.inn.get 0 (back * 192 + i % 192)) != 2

/-- DEMOTE of one far die (R350). -/
def Far.demote (f : Far) : Nat := (f.out.filter (fun x => f.demoted x.1)).length

/-- A package register as a block of region c reads it (R203); an unassigned number reads zero. -/
def State.packageReg (s : State) (c n : Nat) : Word :=
  let h := s.hub
  let t := s.taskOf c
  match n with
  | 0x100 => BitVec.ofNat 64 h.starve
  | 0x101 => BitVec.ofNat 64 h.probeDelay
  | 0x102 => BitVec.ofNat 64 h.pwait
  | 0x105 => fields [(0x100 - h.queue.length, 0), (h.ovf.toNat, 9), (h.badAdr.toNat, 10), (h.recErr.toNat, 11), (h.recJob, 12)]
  | 0x200 => BitVec.ofNat 64 h.xlRoot
  | 0x201 => BitVec.ofNat 64 h.xlAsid
  | 0x202 => fields [((s.job t.job).asid, 0), ((s.job t.job).root / 4096 % 2 ^ 32, 16)]
  | 0x210 => fields [(h.hbmBase, 0), (h.hbmSize, 10)]
  | 0x220 => BitVec.ofNat 64 h.migStack0
  | 0x221 => BitVec.ofNat 64 h.migStack1
  | 0x300 => BitVec.ofNat 64 s.ring.lapBase
  | 0x301 => fields [(s.ring.cap, 0), (s.ring.en.toNat, 2), (s.ring.cur, 3), (s.ring.blk, 5), (s.vote, 7),
      (Nat.min 3 s.seam, 9), (s.ring.pause.toNat, 11), (s.ring.seamStop.toNat, 12)]
  | 0x302 => fields [(s.ring.lap, 0), (s.ring.ent, 32), (s.ring.crcf, 48), (s.ring.badEnt.toNat, 56), (s.ring.reread.toNat, 57),
      (s.ring.srcErr.toNat, 58)]
  | 0x400 => fields [(h.partKey.toNat, 0), (h.keyValid.toNat, 16)]
  | 0x410 => (s.far 0).ide s.now
  | 0x411 => (s.far 1).ide s.now
  | 0x500 | 0x501 | 0x502 | 0x503 | 0x504 =>
    match linkOf t.linkDie t.linkMod with
    | some m => (s.link m).reg n
    | none => 0
  | 0x604 => fields [(h.best, 0), ((s.far 0).demote + (s.far 1).demote, 32), (h.stall.toNat, 48)]
  | 0x605 => fields [((s.far 0).down.length, 0), ((s.far 1).down.length, 16)]
  | 0x700 => fields [(h.trapEn.toNat, 0), (h.hcb, 0)]
  | 0x701 => fields [(h.ringHead, 0), (h.ringTail, 32)]
  | 0x702 => fields [(h.double.toNat, 0), (h.lost.toNat, 1), (h.full.toNat, 2), (h.handlers.length, 8)]
  | 0x703 => BitVec.ofNat 64 h.hkPclus
  | 0x710 => fields [(h.mirEn.toNat, 0), (h.uwait, 8)]
  | 0x7F0 => fields [(h.ready.toNat, 0), (h.fwok.toNat, 1), (h.fstep, 2), (Config.svn.toNat, 16)]
  | _ => 0

/-- A register read of a block in region c (R203). -/
def State.readReg (s : State) (c n : Nat) : Word :=
  if n < 0x100 then (s.taskOf c).sysreg n else s.packageReg c n

end Sys2Proof.Machine
end

