-- ==== Sys2Proof/Machine/Reach.lean ====
section
/-!
DEFINITION. The way of an access to its places: the modules of the mesh and the host link (R399), and for drawer and peer memory
the slots of the far dies, one request for each 256-byte window (R248, R347 to R352, R393).
-/

namespace Sys2Proof.Machine

open Sys2Proof

/-- Drawer or peer memory, which is reached in slots. -/
def isFar (pa : Nat) : Bool := rangeOf pa == some 1 || rangeOf pa == some 2

/-- The request that a requester of cluster c has made for the window of a place. -/
def State.farReq (s : State) (c : Nat) (who : Requester) (pa : Nat) : Option FarReq :=
  (s.far (farOf pa)).reqs.find? (fun r => r.clus == c && r.who == who && r.addr / 256 == pa / 256)

/-- Makes the request for the window of a place (R349), with the priority of its task. It is eligible from the cycle after the
command step that makes it; an access comes here in the cycle after its firing at the earliest. -/
def State.askFar (s : State) (c : Nat) (who : Requester) (prio pa : Nat) : State :=
  let id := s.ids + 1
  ({ s with ids := id } : State).modFar (farOf pa) (fun d => { d with reqs := d.reqs ++ [
    ({ id := id, clus := c, who := who, addr := pa, peer := rangeOf pa == some 2, key := s.hub.partKey
       prio := Nat.min 3 prio
       eligible := match who with
         | .access _ => s.now
         | _ => s.now + 1 } : FarReq)] })

/-- What the requests of a requester come to: all its places are at hand, it waits, or the first place that faults. -/
inductive Reach where
  | go
  | wait (s : State)
  | fault (x : XFault)

/-- The fault of one far place, `a` the address that names it: no valid key before it takes a slot, a key that the switch refuses,
no slot for 2 ms (R352, R393). -/
def State.reachFault (s : State) (c : Nat) (who : Requester) (a : Word) (pa : Nat) : Option XFault :=
  let key (sub : Nat) (k : BitVec 16) : XFault := { code := 0xF, sub := sub, addr := a, info := BitVec.ofNat 64 k.toNat }
  match s.farReq c who pa with
  | none => if s.hub.keyValid then none else some (key 2 s.hub.partKey)
  | some r =>
    if r.slot.isNone then
      if !s.hub.keyValid then some (key 2 s.hub.partKey)
      else if r.stalled then some { code := 0xE, sub := 1, addr := a, info := BitVec.ofNat 64 (farOf pa) }
      else none
    else if r.answered && r.nack && r.due ≤ s.now then some (key 1 r.key) else none

/-- A place is at hand: its response has arrived, or it takes no slot. -/
def State.atHand (s : State) (c : Nat) (who : Requester) (pa : Nat) : Bool :=
  !isFar pa || (match s.farReq c who pa with
    | some r => r.answered && decide (r.due ≤ s.now)
    | none => false)

/-- The way of a requester to its places, each with the address that names it: it waits where a module on the way holds new flits
(R210, R399) or a response is still to come, and makes the requests that it lacks. -/
def State.reach (s : State) (c : Nat) (who : Requester) (prio : Nat) (places : List (Word × Nat)) : Reach :=
  let far := places.filter (fun x => isFar x.2)
  match far.findSome? (fun x => s.reachFault c who x.1 x.2) with
  | some x => .fault x
  | none =>
    if !places.all (fun x => s.pathOpen c x.2) then .wait s
    else if far.all (fun x => s.atHand c who x.2) then .go
    else .wait (far.foldl (fun st x => if (st.farReq c who x.2).isSome then st else st.askFar c who prio x.2) s)

/-- The modules on the way to the tables that the translation of a run of n bytes reads carry traffic; else the walk waits (R210,
R399). -/
def State.walkOpen (s : State) (sp : Space) (a : Word) (n : Nat) : Bool :=
  (pageStarts a n).all (fun p => 2 ≤ bitsOf p 63 56 || (s.tlbHit sp.clus sp.asid p).isSome || rangeOf sp.root != some 0 ||
    (s.walkReads sp p sp.root 4).all (s.pathOpen sp.clus))

/-- The same of several runs of bytes. -/
def State.runsOpen (s : State) (sp : Space) (runs : List (Word × Nat)) : Bool := runs.all (fun x => s.walkOpen sp x.1 x.2)

/-- The requests of a requester are done with; one that stands in a slot is never cancelled (R393). -/
def State.reached (s : State) (c : Nat) (who : Requester) : State :=
  if (s.far 0).reqs.isEmpty && (s.far 1).reqs.isEmpty then s
  else
    let keep (d : Far) : Far := { d with reqs := d.reqs.filter (fun r => r.clus != c || r.who != who || (r.slot.isSome && !r.answered)) }
    (s.modFar 0 keep).modFar 1 keep

/-- The hub's requests for the windows of some places (R349): they take their slots, with the highest priority, while the hub's access
performs at once (log entry 2). -/
def State.hubAsk (s : State) (pas : List Nat) : State :=
  let windows := (pas.filter isFar).foldl (fun l pa => if l.any (fun x => x / 256 == pa / 256) then l else l ++ [pa]) []
  let fresh (d : Far) : Far := { d with reqs := d.reqs.filter (fun r => !(r.who == .hub && r.answered)) }
  if windows.isEmpty then s else windows.foldl (fun st pa => st.askFar 64 .hub 3 pa) ((s.modFar 0 fresh).modFar 1 fresh)

/-- The modules on the way from the hub to what an access of n bytes reads and writes carry traffic (R399). -/
def State.hubReady (s : State) (sp : Space) (a : Word) (n : Nat) (k : AccKind) : Bool :=
  s.walkOpen sp a n && (match s.xlateSpan sp a n k with
    | .ok pas => pas.all (s.pathOpen 64)
    | .error _ => true)

/-- Addresses from a on, each with its place. -/
def placed (a : Word) (pas : List Nat) : List (Word × Nat) :=
  (List.range pas.length).zipWith (fun k pa => (a + BitVec.ofNat 64 k, pa)) pas

end Sys2Proof.Machine
end

