-- ==== Sys2Proof/Machine/Save.lean ====
section
/-!
DEFINITION. Save areas (R333): the bytes of a context in its CSA and BSA, and the context that those bytes give back. The
parts for which R333 gives a place but no bytes (queues, held stream faults, latches, wave state, engine entries) are written
as open values, and what they stand for stays in State.images (log entries 5 and 8).
-/

namespace Sys2Proof.Machine

open Sys2Proof

/-- A piece of a save area: offset and bytes. -/
abbrev Piece := Nat × List Byte

def le64 (w : Word) : List Byte := leBytes 8 w.toNat

/-- A tile-table entry's 32 bytes (R253). -/
def Tile.bytes (t : Tile) : List Byte :=
  le64 t.base ++ leBytes 8 (t.rows + t.cols * 2 ^ 16 + t.fmt * 2 ^ 32 + t.var.toNat * 2 ^ 36 + t.state.code * 2 ^ 40) ++
    leBytes 8 t.owner ++ leBytes 8 0

/-- The tile a four-word entry describes (R253). -/
def Tile.ofWords (w0 w1 w2 : Word) : Tile :=
  { base := w0, rows := bitsOf w1 15 0, cols := bitsOf w1 31 16, fmt := bitsOf w1 35 32, var := w1.getLsbD 36
    state := TileState.ofCode (bitsOf w1 41 40), owner := w2.toNat }

/-- A LUT's descriptor words as a save area keeps them (R62, R333). -/
def Lut.bytes (cell lut : Nat) (x : Lut) : List Byte :=
  let w := Image.lutWords { cell := cell, lut := lut, sel := x.sel, ffen := x.ffen, truth := x.truth }
  leBytes 8 w.1 ++ leBytes 8 w.2

/-- The numbers set in a list below `n`, as bits of bytes. -/
def bitBytes (n : Nat) (f : Nat → Bool) : List Byte :=
  (List.range (n / 8)).map (fun k =>
    BitVec.ofNat 8 ((List.range 8).foldl (fun acc j => acc + (f (8 * k + j)).toNat * 2 ^ j) 0))

/-- Generator of a node slot: set from SEED until it draws (R45). -/
def Task.gen (t : Task) (slot : Nat) : Word :=
  match t.gens.find slot with
  | some g => g
  | none => BitVec.ofNat 64 (Num.genInit t.seed.toNat slot)

/-- The 64 bytes of a trap record (R372). -/
def TrapRec.bytes (x : TrapRec) : List Byte :=
  leBytes 8 x.stamp ++ leBytes 2 x.src ++ leBytes 1 x.code ++ leBytes 1 (x.sw.toNat + 2 * x.held.toNat + 4 * x.mirror.toNat) ++
    leBytes 2 x.sub ++ leBytes 1 x.step ++ leBytes 1 (x.pclus % 64) ++ leBytes 8 x.task ++ leBytes 8 x.block ++
    le64 x.a ++ le64 x.b ++ le64 x.c ++ le64 x.d

/-- The 256 bytes of a CSA header, with the record of what stopped a snapshot (R333, R381). -/
def csaHeader (now : Nat) (t : Task) (clus kind : Nat) (why : Option TrapRec) : List Byte :=
  [1, BitVec.ofNat 8 kind] ++ List.replicate 6 0 ++ leBytes 8 t.id ++ leBytes 8 clus ++ leBytes 8 now ++ List.replicate 32 0 ++
    (match why with
     | some x => x.bytes
     | none => List.replicate 64 0) ++ List.replicate 128 0

/-- Bytes of a save for whose form the manual gives no rule (log entries 5 and 8). -/
def State.openBytes (s : State) (off n : Nat) : Piece := (off, (List.range n).map (fun k => Config.saveByte s.fresh (off + k)))

/-- A pattern descriptor's 64 bytes (R236). -/
def Desc.bytes (d : Desc) : List Byte :=
  le64 d.base ++ ((List.range 4).map (fun j => leBytes 4 (d.cnt.getD j 0))).flatten ++
    ((List.range 4).map (fun j => leBytes 4 (Num.wrap (d.str.getD j 0) 32))).flatten ++ le64 d.ibase ++
    leBytes 1 d.ety ++ leBytes 1 (d.mode + 4 * d.isz.toNat) ++ leBytes 1 (d.lanes - 1) ++ List.replicate 13 0

/-- The bytes of a stream binding that R333 lays out, the descriptor and the position of port k. -/
def portPiece (t : Task) (k : Nat) : Option Piece := (t.ports.find k).map (fun p => (0x900 + 128 * k, p.desc.bytes ++ le64 p.spos))

/-- The pieces of a CSA in the order of R333's table; those of an open form come first, and what is laid out within them
after. `clus` is the cluster left. -/
def State.csaPieces (s : State) (t : Task) (clus kind : Nat) (why : Option TrapRec) : List Piece :=
  [(0, csaHeader s.now t clus kind why),
   s.openBytes 0x100 1024, s.openBytes 0x900 2048, s.openBytes 0x1F00 512, s.openBytes 0x2100 2048, s.openBytes 0x12000 4096,
   (0x100, ((List.range 112).map (fun n => le64 (t.reg n))).flatten),
   (0x500, ((List.range 128).map (fun n => le64 (t.sysreg n))).flatten),
   (0x1100, ((List.range 64).map (fun n => (t.tile n).bytes)).flatten),
   (0x1900, ((List.range 192).map (fun n => le64 (t.gen n))).flatten),
   (0x2880, le64 (t.sysreg 0x34)),
   (0x2900, ((List.range 128).map (fun n => le64 (t.sysreg (128 + n)))).flatten),
   (0x3000, ((List.range 48).map (fun cell => bitBytes 1536 (fun ln => s.full.contains (sliceAddr clus cell 0 / 128 + ln)))).flatten),
   (0x5400, ((List.range 48).map (fun cell => ((List.range 8).map (fun k => le64 ((t.dot cell).routes.get 0 k))).flatten)).flatten),
   (0x6000, ((List.range 48).map (fun cell =>
      ((List.range 64).map (fun l => (t.luts.get {} (64 * cell + l)).bytes cell l)).flatten)).flatten),
   (0x12000, ((List.range 48).map (fun cell => leBytes 4 (t.ffs.get 0 cell).toNat)).flatten)] ++
  (List.range 16).filterMap (portPiece t) ++
  [if kind = 0 then (0x13000, List.replicate 184320 0) else s.openBytes 0x13000 184320]

/-- A plane word of the dot-block save layout (R333). -/
def Plane.word (p : Plane) : Nat := p.fmt.code + p.var.toNat * 16 + p.kb * 32

/-- Bytes with zeros behind them up to n. -/
def padded (n : Nat) (l : List Byte) : List Byte := l ++ List.replicate (n - l.length) 0

/-- The 32 KiB of a cell's dot block in a BSA (R333). -/
def Dot.pieces (d : Dot) : List Piece :=
  (List.range 4).flatMap (fun a =>
    [(0x1000 * a, ((List.range 1024).map (fun e => leBytes 4 (((d.acc a).elems.get 0 e).toNat))).flatten),
     (0x4000 + 0x80 * a, bitBytes 1024 (fun e => (d.acc a).poison.contains e))]) ++
  [(0x4200, padded 512 (((List.range 4).map (fun a => leBytes 2 (d.acc a).rows)).flatten ++
      leBytes 2 (match d.active with
        | some p => p.word + 512
        | none => 0) ++ leBytes 2 (d.shadow.word + (d.shState == .loaded).toNat * 512 + d.shState.code * 2 ^ 10))),
   (0x4400, padded 5120 (match d.active with
      | some p => p.bytes
      | none => [])),
   (0x5800, bitBytes 2048 (fun e => match d.active with
      | some p => p.poison.contains e
      | none => false)),
   (0x5A00, padded 5120 d.shadow.bytes),
   (0x6E00, bitBytes 2048 (fun e => d.shadow.poison.contains e)),
   (0x6F00, List.replicate 4352 0)]

/-- The pieces of a BSA: the dot blocks that the task has used (R333). -/
def bsaPieces (t : Task) : List Piece := t.dots.flatMap (fun x => x.2.pieces.map (fun p => (0x8000 * x.1 + p.1, p.2)))

/-- Bytes of the CSA slot and BSA slot of a task (R333). -/
def csaAt (j : Job) (slot : Nat) : Word := j.csabase + BitVec.ofNat 64 (slot * 0x40000)
def bsaAt (j : Job) (slot : Nat) : Word := j.bsabase + BitVec.ofNat 64 (slot * 0xA80000)

/-- The park lines of a cluster (R359), and the bytes of a cell's slice that belong to a context (R309). -/
def parkSpan (clus : Nat) : List Nat := span (sliceAddr clus 43 0x2F800) 1920
def sliceSpan (clus lim cell : Nat) : List Nat := span (sliceAddr clus cell 0) (lim * 4096)

/-- A piece at the address of its area, its bytes clean. -/
def Piece.clean (base : Word) (p : Piece) : Word × List (Byte × Bool) := (base + BitVec.ofNat 64 p.1, p.2.map (·, false))

/-- What a save writes and where (R333): the pieces of both areas, and the slice bytes with their poison. Of a context that its region
has not restored, the areas still hold the park, the dot blocks and the slices. -/
def State.savedParts (s : State) (t : Task) (clus kind : Nat) (why : Option TrapRec) (csa bsa : Word) : List (Word × List (Byte × Bool)) :=
  (s.csaPieces t clus kind why).map (Piece.clean csa) ++ (if t.redo.isSome then [] else
    [(csa + 0x2100, s.markedNow (parkSpan clus))] ++ (bsaPieces t).map (Piece.clean bsa) ++
    (List.range 48).map (fun cell => (bsa + BitVec.ofNat 64 (0x180000 + 0x30000 * cell), s.markedNow (sliceSpan clus t.lim cell))))

/-! ## The way to an area -/

/-- The place of a byte of a save area or block image, in HBM or drawer memory (R333, R343 subcode 0x0C). -/
def State.areaByte (s : State) (sp : Space) (a : Word) (k : AccKind) : Except XFault Nat :=
  match s.xlateRaw sp a k with
  | .error f => .error f
  | .ok (pa, fill) =>
    if rangeOf pa == some 0 || rangeOf pa == some 1 then .ok pa else .error (xlateFault 0xC a (fillLevel fill) k)

/-- The places of n bytes of an area, or the fault of the first that has none. -/
def State.areaRun (s : State) (sp : Space) (a : Word) (n : Nat) (k : AccKind) : Except XFault (List Nat) :=
  (List.range n).foldr (fun j acc =>
    match s.areaByte sp (a + BitVec.ofNat 64 j) k with
    | .error f => .error f
    | .ok pa => acc.map (pa :: ·)) (.ok [])

/-- The places of runs of bytes up to the first run that faults, and that fault. -/
def State.areaRuns (s : State) (sp : Space) (k : AccKind) : List (Word × Nat) → List (List Nat) × Option XFault
  | [] => ([], none)
  | (a, n) :: rest =>
    match s.areaRun sp a n k with
    | .error x => ([], some x)
    | .ok pas => let (l, x) := s.areaRuns sp k rest
                 (pas :: l, x)

/-- What the translation of runs of bytes leaves behind. -/
def State.walkRuns (s : State) (sp : Space) (k : AccKind) (runs : List (Word × Nat)) : State :=
  runs.foldl (fun st x => st.walked sp x.1 x.2 k) s

/-- The way of the sequencer of cluster c to runs of bytes (R210, R349). -/
def State.areaReach (s : State) (c : Nat) (runs : List (Word × Nat)) (pls : List (List Nat)) : Reach :=
  s.reach c .area (s.taskOf c).eprio (List.zipWith (fun (x : Word × Nat) pas => placed x.1 pas) runs pls).flatten

/-- What a save or a restore comes to: it is done, it waits, an access faults, or a restore finds an error (R389). -/
inductive Area (α : Type) where
  | done (s : State) (x : α)
  | wait (s : State)
  | fault (s : State) (x : XFault)
  | poison (s : State)

/-! ## Saving -/

/-- The key of a context that a save has left: what the header says of it (R333). -/
def imageKey (id clus stamp : Nat) : Nat := id + 2 ^ 64 * (stamp + 2 ^ 64 * clus)

/-- Saves a context of region `clus` into the areas at `csa` and `bsa` and keeps its image; the first fault stops it (R333, R334). -/
def State.saveAreas (s : State) (sp : Space) (t : Task) (clus kind : Nat) (why : Option TrapRec) (csa bsa : Word) : Area Unit :=
  let parts := s.savedParts t clus kind why csa bsa
  let runs := parts.map (fun p => (p.1, p.2.length))
  let (pls, bad) := s.areaRuns sp .write runs
  let s0 := s.walkRuns sp .write runs
  if !s.runsOpen sp runs then .wait s
  else match s0.areaReach clus runs pls with
  | .fault x => .fault (s0.reached clus .area) x
  | .wait s1 => .wait s1
  | .go =>
    let s1 := (s0.reached clus .area).findErrors (parkSpan clus ++ (List.range 48).flatMap (sliceSpan clus t.lim))
    let s2 := (List.zip pls parts).foldl (fun st x =>
      st.storeAll (x.1.zipWith (fun a (b : Byte × Bool) => { addr := a, val := b.1, bad := b.2 }) x.2.2) false none) s1
    match bad with
    | some x => .fault s2 x
    | none => .done { s2 with images := s2.images.set (imageKey t.id clus s.now) t, fresh := s2.fresh + 1 } ()

/-! ## Restoring -/

/-- A word of an area. -/
def wordAt (bs : List Byte) (o : Nat) : Word := BitVec.ofNat 64 (leVal (Image.slice bs o 8))

/-- The context that the bytes of a CSA give, over the parts kept in the image (R333). -/
def Task.fromCsa (t : Task) (bs : List Byte) : Task :=
  let reg (n : Nat) := wordAt bs (0x500 + 8 * n)
  let st := reg 1
  { t with
    regs := (List.range 112).filterMap (fun n => if n = 0 then none else some (n, wordAt bs (0x100 + 8 * n)))
    rmode := st.setWidth 3, strd := st.getLsbD 3, nowr := st.getLsbD 4, eosOver := st.getLsbD 5, lexn := bitsOf st 10 8
    seed := reg 2, budget := reg 3, stranded := bitsOf (reg 4) 31 0
    tcause := reg 0xF, tinfo := [reg 0x10, reg 0x11, reg 0x12, reg 0x13], tpos := [reg 0x14, reg 0x15, reg 0x16, reg 0x17]
    depth := bitsOf (reg 0x34) 31 0
    linkMod := bitsOf (reg 0x35) 6 0, linkDie := bitsOf (reg 0x35) 9 8
    tiles := (List.range 64).map (fun n =>
      (n, Tile.ofWords (wordAt bs (0x1100 + 32 * n)) (wordAt bs (0x1108 + 32 * n)) (wordAt bs (0x1110 + 32 * n))))
    gens := (List.range 192).map (fun n => (n, wordAt bs (0x1900 + 8 * n)))
    luts := (List.range 3072).map (fun n =>
      let w := (wordAt bs (0x6000 + 16 * n)).toNat
      (n, { sel := [12, 20, 28, 36, 44, 52].map (fun o => BitVec.ofNat 8 (w / 2 ^ o)), ffen := w.testBit 60
            truth := wordAt bs (0x6008 + 16 * n) }))
    ffs := (List.range 48).map (fun n => (n, BitVec.ofNat 32 (leVal (Image.slice bs (0x12000 + 4 * n) 4))))
    dots := t.dots.mapV (fun cell d => { d with
      routes := (List.range 8).map (fun k => (k, wordAt bs (0x5400 + 64 * cell + 8 * k))) }) }

/-- The dot block that its bytes in a BSA give (R333), over operations that the image keeps. -/
def Dot.fromBsa (d : Dot) (bs : List Byte) : Dot :=
  let bit (o e : Nat) : Bool := (Image.slice bs (o + e / 8) 1).any (fun b => b.getLsbD (e % 8))
  let plane (w o po : Nat) : Plane :=
    let fmt := (Ty.ofCode (w % 16)).getD .mx8
    let kb := w / 32 % 16
    { fmt := fmt, var := w.testBit 4, kb := kb
      bytes := Image.slice bs o (8 * kb * (if fmt == .bf16 then 65 else if fmt == .mx4 then 17 else 33))
      poison := (List.range (256 * kb)).filter (bit po) }
  let aw := leVal (Image.slice bs 0x4208 2)
  let sw := leVal (Image.slice bs 0x420A 2)
  { d with
    accs := (List.range 4).map (fun a => (a, {
      elems := (List.range 1024).filterMap (fun e =>
        let v := BitVec.ofNat 32 (leVal (Image.slice bs (0x1000 * a + 4 * e) 4))
        if v = 0 then none else some (e, v))
      poison := (List.range 1024).filter (bit (0x4000 + 0x80 * a))
      rows := leVal (Image.slice bs (0x4200 + 2 * a) 2) }))
    active := if aw.testBit 9 then some (plane aw 0x4400 0x5800) else none
    shadow := plane sw 0x5A00 0x6E00
    shState := match sw / 1024 % 4 with
      | 0 => .empty
      | 1 => .armed
      | 2 => .loading
      | _ => .loaded }

/-- Full/empty bits after a restore (R235): lines below LIM take their saved bits, every other line of the region is empty; no
release made a bit what it is now (R268). -/
def State.restoreLines (s : State) (clus lim : Nat) (bs : List Byte) : State :=
  let lo := sliceAddr clus 0 0 / 128
  let hi := sliceAddr (clus + 1) 0 0 / 128
  let mine := (List.range 48).flatMap (fun cell =>
    ((List.range (32 * lim)).filter (fun ln => (Image.slice bs (0x3000 + 192 * cell + ln / 8) 1).any (·.getLsbD (ln % 8)))).map
      (fun ln => sliceAddr clus cell 0 / 128 + ln))
  { s with
    full := mine.foldl NSet.insert (s.full.filter (fun ln => ln < lo || hi ≤ ln))
    lineRel := s.lineRel.filter (fun x => x.1 / 2 < lo || hi ≤ x.1 / 2) }

/-- Every line of a region set empty (R235). -/
def State.emptyLines (s : State) (clus : Nat) : State := s.restoreLines clus 0 []

/-- Slice bytes at or above LIM read zero after a dispatch onto a cluster last used by another job (R334). -/
def State.clearAbove (s : State) (clus lim : Nat) : State :=
  let clear (a : Nat) : Bool := isSram a && sramClus a == clus && lim * 4096 ≤ sramOff a
  let gone := s.mem.filter (fun x => clear x.1)
  if gone.isEmpty then s else s.store (gone.map (fun x => { addr := x.1, val := 0 })) false none

/-- Bytes at some places, with their poison, put at others. -/
def State.copyBack (s : State) (src dst : List Nat) : State :=
  if dst.isEmpty then s
  else s.store (dst.zipWith (fun a (b : Byte × Bool) => { addr := a, val := b.1, bad := b.2 }) (s.markedNow src)) false none

/-- Binds a task to some writes, with the nodes of its saved region: what a restore has written (R268). -/
def Task.bindTo (t : Task) (l : List Nat) : Task :=
  { t with bound := union t.bound l
           snap := t.snap.map (fun r => { r with nodes := r.nodes.mapV (fun _ n => { n with bound := union n.bound l }) }) }

/-- The runs of a context in its areas: the CSA, up to its end for a snapshot, the dot blocks that it has used, the slices (R333). -/
def areaParts (t : Task) (csa bsa : Word) : List (Word × Nat) :=
  (csa, if t.snap.isSome then 0x40000 else 0x13000) :: t.dots.map (fun x => (bsa + BitVec.ofNat 64 (0x8000 * x.1), 0x6F00)) ++
    (List.range 48).map (fun cell => (bsa + BitVec.ofNat 64 (0x180000 + 0x30000 * cell), t.lim * 4096))

/-- An error that forbids a restore (R389): an uncorrectable error anywhere, or a marked sector but where a context keeps the
poison of its park lines and slices. -/
def State.areaBad (s : State) (t : Task) (pls : List (List Nat)) : Bool :=
  let csa := pls.headD []
  pls.any (fun l => l.any s.damaged) || (csa.take 0x2100 ++ csa.drop 0x2880).any s.marked ||
    ((pls.drop 1).take t.dots.length).any (fun l => l.any s.marked)

/-- The context of a task from areas that read without error, with slices, park lines and lines of cluster `clus` put back (R334,
R362). -/
def State.unpack (s : State) (t : Task) (clus : Nat) (pls : List (List Nat)) : State × Task :=
  let at_ (k : Nat) : List Nat := pls.getD k []
  let bytes (k : Nat) : List Byte := (at_ k).map (Memory.read s.mem)
  let t1 := t.fromCsa (bytes 0)
  let t2 := { t1 with dots := (List.range t1.dots.length).zipWith (fun k (x : Nat × Dot) => (x.1, x.2.fromBsa (bytes (1 + k)))) t1.dots }
  let s1 := if t.nopark then s else s.copyBack (((at_ 0).drop 0x2100).take 1920) (parkSpan clus)
  let s2 := (List.range 48).foldl (fun st cell => st.copyBack (at_ (1 + t.dots.length + cell)) (sliceSpan clus t.lim cell)) s1
  (s2.restoreLines clus t.lim (bytes 0), t2.bindTo (newWrites s s2))

/-- Restores a context from its areas into cluster `clus` (R334, R388). -/
def State.loadAreas (s : State) (sp : Space) (t : Task) (clus : Nat) (csa bsa : Word) : Area Task :=
  let runs := areaParts t csa bsa
  let (pls, bad) := s.areaRuns sp .read runs
  let s0 := s.walkRuns sp .read runs
  if !s.runsOpen sp runs then .wait s
  else match bad with
  | some x => .fault s0 x
  | none => (match s0.areaReach clus runs pls with
      | .fault x => .fault (s0.reached clus .area) x
      | .wait s1 => .wait s1
      | .go =>
        let s1 := s0.reached clus .area
        if s.areaBad t pls then .poison (s1.findErrors pls.flatten)
        else
          let (s2, y) := s1.unpack t clus pls
          .done s2 y)

/-! ## Images (R34, R208) -/

/-- A token that R12 to R14 allow. -/
def Token.legal : Token → Bool
  | .pkt ty len _ _ => (match ty with
      | .i64 | .f64 => decide (1 ≤ len ∧ len ≤ 4)
      | .xs320 => len == 5
      | .mx8 | .mx4 | .mxi8 => false
      | _ => decide (1 ≤ len ∧ len ≤ 8))
  | .ctl _ psn o => psn || o == 0
  | .mark _ => true

/-- The tokens that a region holds. -/
def Region.tokens (r : Region) : List Token :=
  (r.nodes.flatMap (fun x => x.2.l.toks ++ x.2.r.toks ++ x.2.p.toks) ++ r.reads.flatMap (fun x => x.2.gate) ++
    r.writes.flatMap (fun x => x.2.toks)).map (·.tok)

/-- The saved tokens of a context keep R12 to R14 (R34). -/
def Task.tokensLegal (t : Task) : Bool :=
  match t.snap with
  | some r => r.tokens.all Token.legal
  | none => true

/-- Reads n bytes through translation, for the hub and for a table, and whether a sector of them is marked. -/
def State.readArea (s : State) (sp : Space) (a : Word) (n : Nat) : Except XFault (List Byte × Bool) :=
  (s.xlateSpan sp a n .read).map (fun pas => (pas.map (Memory.read s.mem), pas.any s.marked))

/-- What such a read leaves behind: the errors that it and the walks of its addresses find, marked (R382), and its requests (R349). -/
def State.foundAt (s : State) (sp : Space) (a : Word) (n : Nat) : State :=
  let s1 := s.walked sp a n .read
  match s.xlateSpan sp a n .read with
  | .ok pas => (s1.findErrors pas).hubAsk pas
  | .error _ => s1

end Sys2Proof.Machine
end

