-- ==== Sys2Proof/Machine/Ops.lean ====
section
/-!
DEFINITION. The operations that instructions share: a firing (R22 to R27), taking a trap (R371 to R374) and returning from
one by resume (R378), kill (R379) and rollback (R388).
-/

namespace Sys2Proof.Machine

open Sys2Proof

abbrev Out := Host.Outcome State Fault Refusal

/-! ## Register fields within one cycle (R8) -/

/-- A field that this cycle sets or writes: bit k of register n of a cluster, module or die, or all of it with k = 64. -/
def State.touch (s : State) (n o k : Nat) : State :=
  if s.touched.contains (n, o, k) then s else { s with touched := (n, o, k) :: s.touched }

/-- Software has written a register in this cycle: hardware does not change its RW fields. -/
def State.wrote (s : State) (n o : Nat) : Bool := s.touched.contains (n, o, 64)

/-- A W1C bit after a write: a 1 clears it, unless hardware has set it in this cycle. -/
def State.w1c (s : State) (n o : Nat) (old : Bool) (v : Word) (k : Nat) : Bool :=
  old && (s.touched.contains (n, o, k) || !v.getLsbD k)

/-! ## Stranding (R225) -/

/-- Adds to STRANDED, which saturates, and sets STRD; the block remembers its own count and first slot (R225, R226). -/
def State.strand (s : State) (c slot n : Nat) : State :=
  if n = 0 then s
  else
    ((s.modRegion c (fun r => { r with
      strandedHere := r.strandedHere + n
      strandedAt := match r.strandedAt with
        | some k => some k
        | none => some slot })).modTaskOf c
      (fun t => { t with strd := true, stranded := if s.wrote 4 c then t.stranded else Nat.min 0xFFFFFFFF (t.stranded + n) })).touch 1 c 3

/-! ## Traps -/

/-- SRC of a node or entry, and of a sequencer (R373). -/
def srcNode (c i : Nat) : Nat := c * 256 + i
def srcSeq (c : Nat) : Nat := 0x4000 + c * 256
def srcUnit (u : Nat) : Nat := 0xC000 + u

/-- TCAUSE of a record (R374). -/
def TrapRec.cause (x : TrapRec) : Word :=
  fields [(x.code, 0), (x.sub, 8), (x.sw.toNat, 24), (x.held.toNat, 25), (x.step, 26)]

/-- The context that region c has still to restore (R334, R388). -/
def State.restores (s : State) (c : Nat) : Option Task :=
  (s.region c).restoring.map (fun x => if x.point then s.points.get {} (s.taskOf c).id else s.taskOf c)

/-- STEP of a record (R372): of a region that restores its context, 0 if that goes on in mid-block, else 9, where it goes on. -/
def State.stepOf (s : State) (c : Nat) : Nat :=
  match s.restores c with
  | none => (s.region c).step
  | some t => if t.snap.isSome then 0 else 9

/-- BLOCK of a record (R372): of a region that restores its context, the block at which that goes on. -/
def State.blockOf (s : State) (c : Nat) : Nat :=
  match s.restores c with
  | none => (s.region c).blk
  | some t => match t.snap with
    | some r => r.blk
    | none => t.resume

/-- A record of a fault of region c now (R372). -/
def State.record (s : State) (c src code sub : Nat) (a b cc : Word) : TrapRec :=
  { stamp := s.now, src := src, code := code, sub := sub, a := a, b := b, c := cc, step := s.stepOf c
    pclus := c, task := s.taskIdOf c, block := s.blockOf c, mirror := (s.taskOf c).twin.isSome }

/-- A fault of an access as a record (R343, R370): a stream or memory fault of node or entry i. -/
def State.faultRecord (s : State) (c i : Nat) (f : XFault) (done : Nat) : TrapRec :=
  s.record c (srcNode c i) f.code f.sub f.addr
    (if f.code = 0xF || f.code = 0xE then f.info else BitVec.ofNat 64 done) (if f.code = 0xF || f.code = 0xE then 0 else f.info)

/-- The region of a trap freezes; a restore that it has still to make leaves the trap's registers (R374). -/
def Region.freeze (r : Region) (x : TrapRec) : Region :=
  { r with frozen := some x, restoring := r.restoring.map (fun y => { y with trapped := true }) }

/-- The trap registers take the values of a trap (R374). -/
def Task.trapped (t : Task) (x : TrapRec) : Task :=
  { t with tcause := x.cause, tinfo := [x.a, x.b, x.c, x.d], tpos := if x.pos.isEmpty then t.tpos else x.pos }

/-- Freezes region c with a record: the task's trap registers take its values (R374) and the hub receives it (R376); a twin likewise
(R390). -/
def State.freeze (s : State) (c : Nat) (x : TrapRec) : State :=
  let s2 := (s.modRegion c (fun r => r.freeze x)).modTaskOf c (fun t => t.trapped x)
  let s3 := match (s.taskOf c).twin with
    | some t => (match (s.task t).place with
        | .region c' => (s2.modRegion c' (fun r => r.freeze x)).modTask t (fun y => y.trapped x)
        | _ => s2)
    | none => s2
  s3.modHub (fun h => { h with records := h.records ++ [x] })

/-- The cluster of a task's twin (R390). -/
def State.twinCluster (s : State) (c : Nat) : Option Nat :=
  match (s.taskOf c).twin with
  | some t => (match (s.task t).place with
      | .region c' => some c'
      | _ => none)
  | none => none

/-- A record of a twin stands for the pair: it takes the place of the home copy (R390). -/
def State.homeRecord (s : State) (c : Nat) (x : TrapRec) : Nat × TrapRec :=
  match (s.taskOf c).isTwin, s.twinCluster c with
  | true, some c' => (c', { x with src := if x.src < 0x8000 then x.src / 0x4000 * 0x4000 + c' * 256 + x.src % 256 else x.src
                                   pclus := c', task := s.taskIdOf c' })
  | _, _ => (c, x)

/-- TAKING A TRAP (R371): an unfrozen region freezes; of faults of one cycle the lowest SRC is raised and the others are
held; a fault that meets a frozen region is held, but for one that rewinds. A region that holds no task takes none. -/
def State.raise (s : State) (c0 : Nat) (x0 : TrapRec) : State :=
  let (c, x) := s.homeRecord c0 x0
  match (s.cluster c).task with
  | none => s
  | some _ =>
    match (s.region c).frozen with
    | none => s.freeze c x
    | some y =>
      if y.stamp = s.now ∧ x.src < y.src then
        let s1 := s.modRegion c (fun r => { r with held := if y.rewinds then r.held else r.held ++ [y] })
        (s1.modHub (fun h => { h with records := h.records.filter (fun z => z != y) })).freeze c x
      else if x.rewinds then s
      else s.modRegion c (fun r => { r with held := r.held ++ [x] })

/-- Moves every cycle number of a region on by dt, which is all that a freeze changes (R34). -/
def Queue.shift (q : Queue) (dt : Nat) : Queue :=
  { q with toks := q.toks.map (fun t => { t with at_ := t.at_ + dt }), resAt := q.resAt + dt }

def Node.shift (n : Node) (dt : Nat) : Node :=
  { n with l := n.l.shift dt, r := n.r.shift dt, p := n.p.shift dt, firedAt := n.firedAt.map (· + dt), setAt := n.setAt + dt }

def Region.shift (r : Region) (dt : Nat) : Region :=
  { r with
    nodes := r.nodes.mapV (fun _ n => n.shift dt)
    reads := r.reads.mapV (fun _ g => { g with gate := g.gate.map (fun t => { t with at_ := t.at_ + dt }) })
    writes := r.writes.mapV (fun _ w => { w with toks := w.toks.map (fun t => { t with at_ := t.at_ + dt }) })
    busy := r.busy.mapV (fun _ b => b + dt)
    inject := r.inject.map (· + dt)
    until_ := if r.until_ = 0 then 0 else r.until_ + dt
    accesses := r.accesses.map (fun a => { a with ready := a.ready + dt }) }

/-- The earlier of two records (R373). -/
def TrapRec.before (x y : TrapRec) : Bool := x.stamp < y.stamp || (x.stamp == y.stamp && x.src ≤ y.src)

/-- The earliest record of a list. -/
def firstRec : List TrapRec → Option TrapRec
  | [] => none
  | x :: t => match firstRec t with
    | none => some x
    | some y => if x.before y then some x else some y

/-- Raises the first held fault again, marked HELD (R371, R378); commands whose faults are held stay stopped. -/
def State.raiseHeld (s : State) (c : Nat) : State :=
  match firstRec (s.region c).held with
  | none => s
  | some x =>
    let s1 := s.modCluster c (fun k => { k with
      eq := k.eq.map (fun q => if k.region.held.any (fun z => z.cmd == some q.id) then { q with stopped := true } else q) })
    (s1.modRegion c (fun r => { r with held := r.held.filter (fun z => z != x) })).raise c
      { x with held := true, stamp := s.now, step := s.stepOf c }

/-- A stream binding as a freeze leaves it (R242): what was fetched is dropped, and the scan starts again at ORD. -/
def Port.saved (p : Port) : Port := { p with fetched := [], found := none, scan := p.ord }

/-- What port k holds after a trap that froze its region: the stream fault that was raised is held no longer (R246). -/
def Port.afterTrap (p : Port) (k : Nat) (x : TrapRec) : Option StreamFault :=
  if x.pos.length = 4 && bitsOf x.d 51 48 == k then none else p.fault

/-- A window takes ring tile n at its next occurrence, with its failure count cleared (R291). -/
def Window.boardAgain (w : Window) (n : Nat) : Window :=
  { w with again := w.again ++ [n], failed := w.failed.filter (· != n), held := w.held.filter (· != n) }

/-- A frozen region goes on in the next cycle (R378), with its commands and streams, and with the ring tile that the trap was raised
for (R291). -/
def State.unfreeze (s : State) (c : Nat) : State :=
  match (s.region c).frozen with
  | none => s
  | some x =>
    let s1 := s.modRegion c (fun r => { r.shift (s.now - x.stamp) with frozen := none })
    let s2 := s1.modCluster c (fun k => { k with
      wake := Nat.max k.wake (s.now + 1)
      eq := k.eq.map (fun q => { q with stopped := false })
      windows := k.windows.map (fun w => match x.tile with
        | some n => if x.cmd == some w.cmd && w.held.contains n then w.boardAgain n else w
        | none => w) })
    s2.modTaskOf c (fun t => { t with ports := t.ports.mapV (fun k p => { p.saved with fault := p.afterTrap k x }) })

/-- RESUME (R378), of both copies of a mirrored task (R390): a held fault is raised first, and freezes both again. -/
def State.resume (s : State) (c : Nat) : State :=
  match s.twinCluster c with
  | some c' => (((s.unfreeze c).unfreeze c').raiseHeld c).raiseHeld c'
  | none => (s.unfreeze c).raiseHeld c

/-- Write-class memory instructions (R90). -/
def isWriteClass : Instr → Bool
  | .st _ | .stp _ | .stfe _ | .lnemp _ | .lnful _ | .amo _ | .cas _ | .rmw _ => true
  | _ => false

/-- The accesses of a block that has ended, or whose task has lost it: nothing waits for their tokens, and each has taken over what its
node was bound to (R263, R264). -/
def Region.leftBehind (r : Region) (now : Nat) : List Access :=
  r.accesses.map (fun a => if a.old then a else { a with old := true, left := now, bound := union a.bound (r.node a.node).bound })

/-- What a kill or rollback leaves of a region: nothing but stores already issued, and MODC (R379). -/
def Region.wreck (r : Region) (now : Nat) : Region :=
  { modc := r.modc, accesses := (r.leftBehind now).filter (fun a => isWriteClass a.ins && a.parked.isNone) }

/-- Commands of task t after a kill: those not past step 4 and boardings go, the others run to their end unseen (R379). -/
def killCmds (t : Nat) (eq : List Cmd) : List Cmd :=
  eq.filterMap (fun k =>
    if k.task != t then some k
    else match k.ins with
      | .board _ => none
      | _ => if k.step ≤ 4 then none else some { k with dead := true, stopped := false })

/-- A region emptied of its task's work: commands, windows and tokens (R379 steps 1 to 4, R388 steps 2 and 3). -/
def State.strip (s : State) (c : Nat) : State :=
  let t := s.taskIdOf c
  (s.modCluster c (fun x => { x with
    region := x.region.wreck s.now
    eq := killCmds t x.eq
    windows := x.windows.filter (fun w => w.task != t)
    copies := x.copies.filter (fun w => w.task != t) })).modHub
    (fun h => { h with records := h.records.filter (fun z => z.pclus != c || z.task != t)
                       awaiting := h.awaiting.filter (fun z => z.1.task != t)
                       items := h.items.filter (fun z => z.task != t) })

/-- KILL of the task of one region (R379); it ends by TASK_END once its stores and commands are done. -/
def State.kill1 (s : State) (c : Nat) : State :=
  match (s.cluster c).task with
  | none => s
  | some t =>
    let s1 := (s.strip c).modTask t (fun x => { x with ending := true, killed := true, ports := [] })
    s1.modJob (s.task t).job (fun j => { j with kill := true })

/-- KILL: of both copies of a mirrored task. -/
def State.kill (s : State) (c : Nat) : State :=
  match s.twinCluster c with
  | some c' => (s.kill1 c).kill1 c'
  | none => s.kill1 c

/-- The replay rule (R387). -/
def Task.mayRoll (t : Task) : Bool := t.rpHave && t.rpElig && !t.irrev

/-- What the replay buffer of a port holds (R386): what has been delivered since the recovery point, or peeked, and what is still to be
delivered again. -/
def Port.kept (p : Port) : List Elem := p.replay ++ p.again ++ p.fetched.filter (·.peeked)

/-- The context of a recovery point, but for what keeps its current value (R388 step 4), with each read port delivering
its buffered elements again (R388 step 5). -/
def Task.rolledBack (t p : Task) : Task :=
  { p with
    budget := t.budget, tcause := t.tcause, tinfo := t.tinfo
    rpHave := t.rpHave, rpKind := t.rpKind, rpElig := t.rpElig, irrev := t.irrev, rolled := t.rolled
    rolls := Nat.min 0xFFFF (t.rolls + 1)
    prio := t.prio, eprio := t.eprio, place := t.place, wait := t.wait, deps := t.deps, onend := t.onend, cmds := [], evwaits := []
    twin := t.twin, isTwin := t.isTwin, slot := t.slot, die := t.die, mismatched := t.mismatched
    wrote := union p.wrote t.wrote
    ports := p.ports.mapV (fun k q =>
      match t.ports.find k with
      | some now => { q.saved with
          replay := []
          again := if now.born == q.born then now.kept else [] }
      | none => q.saved) }

/-- Region c has still to restore the context of its task (R334, R388). -/
def State.toRestore (s : State) (c : Nat) (x : Restoring) : State :=
  s.modRegion c (fun r => { r with step := 11, restoring := some x })

/-- The record of an access of a sequencer that faults. -/
def State.seqFault (s : State) (c : Nat) (x : XFault) : TrapRec := { s.faultRecord c 0 x 0 with src := srcSeq c }

/-- The restore of a context still stands off: it waits, or a fault of it has been raised. -/
def State.restoreTrap (s : State) (c : Nat) (x : Restoring) (f : State → TrapRec) : State :=
  let s1 := s.toRestore c x
  s1.raise c (f s1)

/-- The restore of region c from its task's recovery point, a twin's being that of its pair (R390). -/
def State.pointRestoring (s : State) (c : Nat) : Restoring :=
  let t := s.taskOf c
  let slot := 128 + t.vreg.getD 0
  { csa := csaAt (s.job t.job) slot, bsa := bsaAt (s.job t.job) slot, point := true, trapped := (s.region c).restoring.any (·.trapped) }

/-- The recovery point of the task of region c put back (R388 steps 4 to 6), once the stores that the rollback has left have performed
(step 3). A point that does not read for an error gives T_MEMERR 0x03 (R389). -/
def State.rollPoint (s : State) (c : Nat) : State :=
  let t := s.taskOf c
  let x := s.pointRestoring c
  if !(s.region c).accesses.isEmpty then s.toRestore c x
  else match s.loadAreas { s.space c with priv := true } (s.points.get {} t.id) c x.csa x.bsa with
  | .wait s1 => s1.toRestore c x
  | .fault s1 f => s1.restoreTrap c x (fun st => st.seqFault c f)
  | .poison s1 => s1.restoreTrap c x (fun st => st.record c (srcSeq c) 6 3 (BitVec.ofNat 64 7) 0 0)
  | .done s1 q =>
    let y := t.rolledBack q
    ((s1.setTask (s.taskIdOf c) (if x.trapped then { y with tpos := t.tpos } else y)).modCluster c (fun k =>
      { k with wake := s.now + 1 })).modRegion c (fun r =>
        match (if t.rpKind then q.snap else none) with
        | some sn => { sn.shift (s.now - sn.frozeAt) with frozen := none, stoppedBy := none }
        | none => { r with
            step := 10, restoring := none, shadow := some { blk := q.resume, usable := s.now }, modc := q.modc, sysops := q.evwaits })

/-- ROLLBACK of one region to its recovery point (R388). -/
def State.rollback1 (s : State) (c : Nat) : State := (s.strip c).rollPoint c

/-- ROLLBACK: of both copies of a mirrored task (R390, R392). -/
def State.rollback (s : State) (c : Nat) : State :=
  match s.twinCluster c with
  | some c' => (s.rollback1 c).rollback1 c'
  | none => s.rollback1 c

/-! ## Firing -/

/-- A system operation that waits for what may never come (R211). -/
def SysOp.waits (o : SysOp) : Bool := match o.ins with
  | .evwait _ => true
  | _ => false

/-- What a firing does (R22): the slots whose heads it removes, the tokens it emits with one latency, the targets whose
results come later, targets that must accept though nothing goes to them (R26), targets it would also like to reach, the
node's new state and generator, the unit it keeps busy, what it becomes bound to beside its heads, that the node becomes bound
to it only when its access performs (R155, R263), and its effect beyond the cell, given the number of the operation it issues
and what the node is bound to. -/
structure Fire where
  pops : List Nat := []
  outs : List (Target × Token) := []
  lat : Nat := 1
  later : List Target := []
  needs : List Target := []
  asks : List Target := []
  st : Option NodeState := none
  gen : Option Word := none
  busy : Option (Nat × Nat) := none
  extra : List Nat := []
  defer : Bool := false
  post : State → Nat → List Nat → State := fun s _ _ => s

/-- What a node can do in this cycle: wait, wait for targets to accept, discard its operand set (R27), fire if its targets
accept, or, if the targets it names accept (R22), trap without consuming anything (R155, R169): targets, code, subcode,
TINFO_A to TINFO_C. -/
inductive Plan where
  | wait
  | stall (asks : List Target)
  | discard (pops : List Nat)
  | fire (f : Fire)
  | trap (needs : List Target) (code sub : Nat) (a b c : Word)

/-- A region goes on in cycle `now`: neither frozen nor stopped, or only from the end of this cycle on (R33). -/
def Region.goesOn (r : Region) (now : Nat) : Bool :=
  (match r.frozen with
   | none => true
   | some x => x.stamp == now) &&
  (match r.stoppedBy with
   | none => true
   | some n => n == now)

/-- The selected node can do anything in this cycle: its region holds a task and is not frozen (in the cycle of a freeze it
still fires, R33), its slot has not retired, and it has not fired in this cycle (R22). -/
def State.live (s : State) : Bool :=
  let k := s.cluster s.sel.1
  let n := k.region.node s.sel.2
  k.task.isSome && k.wake ≤ s.now && !n.retired && n.firedAt != some s.now && k.skip != some s.now && k.region.goesOn s.now

/-- The region, node, cell and task of the selected slot. -/
def State.selRegion (s : State) : Region := s.region s.sel.1
def State.selNode (s : State) : Node := s.selRegion.node s.sel.2
def State.selCell (s : State) : Nat := s.sel.2 / 4
def State.selTask (s : State) : Task := s.taskOf s.sel.1

/-- The head of a slot of the selected node. -/
def State.head (s : State) (slot : Nat) : Option Token := ((s.selNode.queue slot).operand s.now).map (·.tok)

/-- What the heads of some slots carry (R263). -/
def Node.boundOf (n : Node) (now : Nat) (slots : List Nat) : List Nat :=
  slots.foldl (fun acc k => match (n.queue k).front now with
    | some t => union acc t.bound
    | none => acc) []

/-- What a task is bound to, with the nodes of its region (R264, R272). -/
def State.finalBound (s : State) (t : Nat) : List Nat :=
  match (s.task t).place with
  | .region c => (s.region c).nodes.foldl (fun b x => union b x.2.bound) (s.task t).bound
  | _ => (s.task t).bound

/-- A node that holds state, or reaches memory, keeps what it was bound to. -/
def keepsBound (st : NodeState) (f : Fire) : Bool := st != .idle || f.st.isSome || !f.later.isEmpty

/-- The firing of the selected node, every target accepting: heads removed, tokens delivered, the rest applied. -/
def State.commit (s : State) (f : Fire) : State :=
  let c := s.sel.1
  let i := s.sel.2
  let r := s.region c
  let n := r.node i
  let base := if keepsBound n.st f then n.bound else []
  let bound := union (union base f.extra) (n.boundOf s.now f.pops)
  let id := s.ids + 1
  let r1 := f.pops.foldl (fun r k => r.pop s.now i k) r
  let n1 := r1.node i
  let r2 := r1.setNode i { n1 with
    st := f.st.getD n1.st
    firedAt := some s.now
    setAt := s.now + 1
    bound := if f.defer then n1.bound else if keepsBound n.st f && f.st != some .idle then bound else [] }
  let r3 := f.outs.foldl (fun r o => r.deliver s.now (i / 4) f.lat o.1 o.2 bound none) r2
  let r4 := f.later.foldl (fun r t => r.deliver s.now (i / 4) f.lat t (.ctl true false 0) [] (some id)) r3
  let r5 := match f.busy with
    | some (u, k) => { r4 with busy := r4.busy.set (4 * (i / 4) + u) (s.now + k) }
    | none => r4
  let s1 := { s with ids := id }.setRegion c r5
  let s2 := match f.gen with
    | some g => s1.modTaskOf c (fun t => { t with gens := t.gens.set i g })
    | none => s1
  f.post s2 id bound

/-- Every target of a firing accepts (R22). -/
def Region.acceptsAll (r : Region) (now : Nat) (f : Fire) : Bool :=
  f.outs.all (fun o => r.accepts now o.1) && f.later.all (r.accepts now) && f.needs.all (r.accepts now)

/-- Removes an operand set (R27). R27 does not say whether a node that has discarded a set may fire on, or discard, the next one in the
same cycle: in the model the next set stands at the heads from the next cycle on (log entry 59). -/
def State.discard (s : State) (pops : List Nat) : State :=
  s.modRegion s.sel.1 (fun r =>
    let r1 := pops.foldl (fun r k => r.pop s.now s.sel.2 k) r
    r1.setNode s.sel.2 { r1.node s.sel.2 with setAt := s.now + 1 })

/-- Carries out a plan of the selected node. -/
def State.carryOut (s : State) (p : Plan) : State :=
  match p with
  | .wait | .stall _ => s
  | .discard pops => s.discard pops
  | .fire f => if s.selRegion.acceptsAll s.now f then s.commit f else s
  | .trap needs code sub a b c =>
    if needs.all (s.selRegion.accepts s.now) then
      s.raise s.sel.1 { s.record s.sel.1 (srcNode s.sel.1 s.sel.2) code sub a b c with rewinds := true }
    else s

/-- A firing of the selected node under its plan. -/
def fireNode (plan : State → Plan) (s : State) : Out := .next (if s.live then s.carryOut (plan s) else s)

end Sys2Proof.Machine
end

