-- ==== Sys2Proof/Machine/Flags.lean ====
section
/-!
DEFINITION. The values that steer a graph: control tokens and their conversion to and from packets (R14, R15), predicates
(R26, R27, R32), poison and its origin (R30 to R32).
-/

namespace Sys2Proof.Machine

open Sys2Proof

/-- The origin record of a poisoned token (R30); none for a clean one. -/
def Token.origin : Token → Option Origin
  | .pkt _ _ psn pay => if psn then some (pay.setWidth 32) else none
  | .ctl _ psn o => if psn then some o else none
  | .mark _ => none

/-- A token as an L or R slot reads it: a control token becomes a 1-lane i64 packet (R15). -/
def Token.asData : Token → Token
  | .ctl val psn o => .pkt .i64 1 psn (if psn then o.setWidth 320 else BitVec.ofNat 320 val.toNat)
  | t => t

/-- A token as a P slot or control slot reads it: VAL of a packet says whether lane 0 is not all zero (R15). -/
def Token.asCtl : Token → Token
  | .pkt ty _ psn pay => .ctl (pay.toNat % 2 ^ ty.laneWidth != 0) psn (if psn then pay.setWidth 32 else 0)
  | t => t

/-- VAL of a token read as a control token. -/
def Token.val (t : Token) : Bool :=
  match t.asCtl with
  | .ctl v _ _ => v
  | _ => false

/-- Whether a P head matches a predicate mode; a poisoned one matches either (R26, R32). -/
def pmPass (pm : Pm) (t : Token) : Bool :=
  match pm with
  | .always => true
  | .onTrue => t.val || t.origin.isSome
  | .onFalse => !t.val || t.origin.isSome

/-- A clean control token. -/
def ctlTok (v : Bool) : Token := .ctl v false 0

/-- A poisoned control token. -/
def badCtl (v : Bool) (o : Origin) : Token := .ctl v true o

/-- A poisoned packet: the origin record in lane 0, zeros elsewhere (R30). -/
def badPkt (ty : Ty) (len : Nat) (o : Origin) : Token := .pkt ty len true (o.setWidth 320)

/-- The first origin in the order L, R, P (R32). -/
def firstOrigin : List (Option Token) → Option Origin
  | [] => none
  | some t :: rest => (match t.origin with
      | some o => some o
      | none => firstOrigin rest)
  | none :: rest => firstOrigin rest

/-- A fresh origin record (R30, R31): cluster, node, cause, time stamp. -/
def originOf (clus node cause now : Nat) : Origin :=
  BitVec.ofNat 32 (clus % 64 + node % 256 * 2 ^ 6 + cause % 16 * 2 ^ 14 + now % 2 ^ 14 * 2 ^ 18)

/-- A fresh origin of the selected node. -/
def State.freshOrigin (s : State) (cause : Nat) : Origin := originOf s.sel.1 s.sel.2 cause s.now

/-- A token poisoned by a firing whose P is poisoned: poison of its own is kept (R130). -/
def Token.poisonBy (t : Token) (o : Origin) : Token :=
  match t with
  | .pkt ty len psn pay => if psn then .pkt ty len psn pay else badPkt ty len o
  | .ctl v psn x => if psn then .ctl v psn x else badCtl v o
  | .mark m => .mark m

end Sys2Proof.Machine
end

