-- ==== Sys2Proof/Machine/Operands.lean ====
section
/-!
DEFINITION. Operands: how an instruction reads the heads of its slots (R16, R26), packets and their lanes (R13), the
immediates (R95), and the plan of a CE firing (R18, R26, R96).
-/

namespace Sys2Proof.Machine

open Sys2Proof

/-! ## Packets -/

/-- Lanes packed from the lowest bits up (R13). -/
def packLanes (w : Nat) : List Nat → Nat
  | [] => 0
  | x :: t => x % 2 ^ w + 2 ^ w * packLanes w t

/-- A clean packet of elements. -/
def mkPkt (ty : Ty) (es : List Nat) : Token := .pkt ty es.length false (BitVec.ofNat 320 (packLanes ty.laneWidth es))

/-- A clean xs320 packet. -/
def mkXs (v : BitVec 320) : Token := .pkt .xs320 5 false v

/-- The lanes of a payload, n of them of w bits. -/
def lanesAt (pay w : Nat) : Nat → List Nat
  | 0 => []
  | n + 1 => pay % 2 ^ w :: lanesAt (pay / 2 ^ w) w n

/-- A token read as a payload of another type (R16): its lanes. An xs320 reading has one element, the whole payload. -/
def lanesOf (ty : Ty) (t : Token) : List Nat :=
  match t.asData with
  | .pkt h len _ pay =>
    if ty == .xs320 then [pay.toNat]
    else
      let bits := if h == .xs320 then 256 else len * h.laneWidth
      lanesAt (pay.toNat % 2 ^ bits) ty.laneWidth ((bits + ty.laneWidth - 1) / ty.laneWidth)
  | _ => []

/-- The elements of the lanes: a consumer ignores what stands above an element (R13). -/
def elemsOf (ty : Ty) (t : Token) : List Nat := (lanesOf ty t).map (· % 2 ^ ty.elemBits)

/-- The lanes of a packet as its own header gives them (R95). -/
def ownLanes (t : Token) : List Nat :=
  match t.asData with
  | .pkt h len _ pay => lanesAt pay.toNat h.laneWidth len
  | _ => []

/-- Payload bits [63:0] (R149). -/
def low64 (t : Token) : Word :=
  match t.asData with
  | .pkt _ _ _ pay => pay.setWidth 64
  | _ => 0

/-- The payload, with missing bits zero, and its size in bytes (R158). -/
def payloadOf (t : Token) : Payload :=
  match t.asData with
  | .pkt _ _ _ pay => pay
  | _ => 0

def bytesOfTok (t : Token) : Nat :=
  match t.asData with
  | .pkt h len _ _ => len * h.laneWidth / 8
  | _ => 0

/-- Lanewise combination (R16): one lane goes with every lane of the other, else the shorter count. -/
def zipLanes {α : Type} (op : Nat → Nat → α) (a b : List Nat) : List α :=
  match a, b with
  | [x], b => b.map (op x)
  | a, [y] => a.map (fun x => op x y)
  | a, b => List.zipWith op a b

/-- The immediate in every lane (R67, R95); where the lane is narrower than 21 bits its low bits (log entry 55). -/
def immElem (ty : Ty) (imm : BitVec 21) : Nat :=
  match ty with
  | .f64 => imm.toNat * 2 ^ 43
  | .f32 => imm.toNat * 2 ^ 11
  | .f16 | .bf16 => imm.toNat % 2 ^ 16
  | .e4m3 | .e5m2 => imm.toNat % 2 ^ 8
  | .e2m1 => imm.toNat % 2 ^ 4
  | ty => Num.sextTo imm.toNat 21 ty.elemBits

/-- The right operand's elements: the immediate under IR = 1, else R (R67). -/
def rightElems (f : FmtA) (r : Option Token) : List Nat :=
  if f.ir then [immElem f.ty f.imm]
  else match r with
    | some t => elemsOf f.ty t
    | none => []

def leftElems (ty : Ty) (l : Option Token) : List Nat :=
  match l with
  | some t => elemsOf ty t
  | none => []

/-! ## The heads a firing uses (R26) -/

/-- The operand set of a firing: whether the predicate holds, the slots used, and the heads. -/
structure Heads where
  pass : Bool
  slots : List Nat
  l : Option Token := none
  r : Option Token := none
  p : Option Token := none

/-- A head where the slot is used; `none` where it is used and holds no operand. -/
def State.want (s : State) (use : Bool) (slot : Nat) : Option (Option Token) :=
  if use then (s.head slot).map some else some none

/-- Condition 1 of R26, with the predicate of condition 2. -/
def State.heads (s : State) (pm : Pm) (uL uR uP : Bool) : Option Heads :=
  let p2 := uP || pm != .always
  match s.want uL 0, s.want uR 1, s.want p2 2 with
  | some l, some r, some p =>
    some { pass := match p with
             | some t => pmPass pm t.asCtl
             | none => true
           slots := (if uL then [0] else []) ++ (if uR then [1] else []) ++ (if p2 then [2] else [])
           l := l, r := r, p := p }
  | _, _, _ => none

/-- The first origin among the operands (R32). -/
def Heads.origin (h : Heads) : Option Origin := Sys2Proof.Machine.firstOrigin [h.l, h.r, h.p]

/-- VAL of the P head, a poisoned one counting as 1. -/
def Heads.flush (h : Heads) : Bool :=
  match h.p with
  | some t => t.val || t.origin.isSome
  | none => false

/-! ## CE firings -/

/-- Units of a cell: 0 vector unit, 1 LUT patch, 2 dot block (R18). -/
def State.unitFree (s : State) (u : Nat) : Bool := s.selRegion.busy.get 0 (4 * s.selCell + u) ≤ s.now

/-- Condition 3 of R26: MODC mod II is the node's phase (R29). -/
def State.phase (s : State) (ph : BitVec 2) : Bool :=
  match s.selRegion.img with
  | some im => s.selRegion.modc % im.ii == ph.toNat
  | none => false

/-- A CE firing: unit, latency, cycles the unit is busy, slots used, and what it does with its operands. -/
def cePlan (u lat busy : Nat) (f : FmtA) (uL uR uP : Bool) (s : State) (body : Heads → Fire) : Plan :=
  if !s.unitFree u then .wait
  else match s.heads f.pm uL uR uP with
    | none => .wait
    | some h =>
      if !h.pass then .discard h.slots
      else if !s.phase f.ph then .wait
      else .fire { body h with pops := h.slots, lat := lat, busy := some (u, busy) }

/-- The rounding mode in force (R43, R44). -/
def State.mode (s : State) (md : BitVec 6) : Nat :=
  if bitsOf md 5 3 = 6 then (if 6 ≤ s.selTask.rmode.toNat then 0 else s.selTask.rmode.toNat) else bitsOf md 5 3

def satOf (md : BitVec 6) : Bool := md.getLsbD 2
def ftzOf (md : BitVec 6) : Bool := md.getLsbD 1
def pxOf (md : BitVec 6) : Bool := md.getLsbD 0

/-- The generator of the selected slot (R45). -/
def State.gen (s : State) : Nat := (s.selTask.gen s.sel.2).toNat

/-- Steps through lanes, each making one draw (R45): results and the generator after them. -/
def drawLanes {α β : Type} (mode : Nat) (step : Nat → α → β) : Nat → List α → List β × Nat
  | g, [] => ([], g)
  | g, x :: t =>
    let (z, g1) := Num.draw mode g
    let (ys, g2) := drawLanes mode step g1 t
    (step z x :: ys, g2)

/-- A result packet on both targets: poisoned by an operand, or freshly by `cause`, or clean (R32, R98). -/
def State.result (s : State) (f : FmtA) (ty : Ty) (es : List Nat) (po : Option Origin) (cause : Option Nat) : Fire :=
  let tok := match po, cause with
    | some o, _ => badPkt ty es.length o
    | none, some k => badPkt ty es.length (s.freshOrigin k)
    | none, none => mkPkt ty es
  { outs := [(f.t0, tok), (f.t1, tok)] }

/-- A control token on both targets; poison gives VAL = 0 (R104, R110). -/
def State.flag (s : State) (f : FmtA) (v : Bool) (po : Option Origin) (cause : Option Nat) : Fire :=
  let tok := match po, cause with
    | some o, _ => badCtl false o
    | none, some k => badCtl false (s.freshOrigin k)
    | none, none => ctlTok v
  { outs := [(f.t0, tok), (f.t1, tok)] }

end Sys2Proof.Machine
end

