-- ==== Sys2Proof/Machine/Sems.lean ====
section
/-!
DEFINITION. Semaphores (R181, R271, R321): a 40-bit count each, with what its signals deposited, and the events that a
signal posts (R211).
-/

namespace Sys2Proof.Machine

open Sys2Proof

/-- The greatest value of a semaphore (R181). -/
def semMax : Nat := 2 ^ 40 - 1

/-- The physical semaphore that window number n of a task names: 256 x cluster + number (R321). -/
def Task.semKey (t : Task) (n : Nat) : Option Nat := if n < t.semn then some (256 * t.sclus + t.sbase + n) else none

/-- Posts an event of a class to a task (R211). -/
def State.post (s : State) (t cls : Nat) : State := s.modTask t (fun x => { x with latches := NSet.insert x.latches cls })

/-- Posts an event of a class to every task of a job that has not ended. -/
def State.postJob (s : State) (job cls : Nat) : State :=
  (s.tasks.filter (fun x => x.2.job == job && x.2.place != .ended)).foldl (fun st x => st.post x.1 cls) s

/-- A T_SEMA fault: window number and value (R370). -/
def semFault (sub n v : Nat) : XFault := { code := 9, sub := sub, addr := BitVec.ofNat 64 n, info := BitVec.ofNat 64 v }

/-- Adds to a physical semaphore as a release at package scope, depositing a bound set (R181, R271). -/
def State.addSem (s : State) (key inc : Nat) (bound : List Nat) : State :=
  let x := s.sems.get {} key
  { s with sems := s.sems.set key { val := x.val + inc, dep := union x.dep bound } }

/-- Sets a physical semaphore as a release (R192, R271). -/
def State.putSem (s : State) (key v : Nat) (bound : List Nat) : State :=
  let x := s.sems.get {} key
  { s with sems := s.sems.set key { val := v, dep := union x.dep bound } }

/-- A signal of a task on window number n (R180 step 6, R181); a fault leaves the semaphore unchanged. -/
def State.signal (s : State) (t : Task) (n inc : Nat) (bound : List Nat) : Except XFault State :=
  match t.semKey n with
  | none => .error (semFault 1 n inc)
  | some key =>
    let v := (s.sems.get {} key).val + inc
    if semMax < v then .error (semFault 2 n v) else .ok ((s.addSem key inc bound).postJob t.job 1)

/-- A set of a task on window number n (R192). The manual names a signal and an `sset` apart (R181) and class 1 by a signal (R211); the
model posts class 1 at an `sset` as well (log entry 59). -/
def State.setSem (s : State) (t : Task) (n v : Nat) (bound : List Nat) : Except XFault State :=
  match t.semKey n with
  | none => .error (semFault 1 n v)
  | some key =>
    if semMax < v then .error (semFault 4 n v) else .ok ((s.putSem key v bound).postJob t.job 1)

/-- The way from a cluster to the cluster that holds a window semaphore of a task carries traffic (R210, R399); one outside the window
has no place. -/
def State.semOpen (s : State) (c : Nat) (t : Task) (n : Nat) : Bool :=
  match t.semKey n with
  | none => true
  | some key => s.clusOpen c (key / 256)

/-- The record of a semaphore fault of node i: TINFO_A is the number, TINFO_B the value (R370). -/
def State.semRecord (s : State) (c i : Nat) (x : XFault) : TrapRec :=
  s.record c (srcNode c i) x.code x.sub x.addr x.info 0

/-- An irrevocable action of the task that holds region c (R387). -/
def State.irrevoke (s : State) (c : Nat) : State := s.modTaskOf c (fun t => { t with irrev := true })

/-- Notes the writes made since another state as those of a task, which its end deposits (R272). -/
def State.noteWrites (s : State) (before : State) (t : Nat) : State :=
  if s.wseq = before.wseq then s
  else s.modTask t (fun x => { x with wrote := union x.wrote (newWrites before s) })

/-! ## Mirrored tasks (R391) -/

/-- The region of cluster c runs a copy of a mirrored task. -/
def State.mirrored (s : State) (c : Nat) : Bool := (s.taskOf c).twin.isSome

/-- Sends an item of node or entry `node` of region c to the umpire (R391): its kind, the number it goes with, its content. -/
def State.pushItem (s : State) (c node what id : Nat) (body : List Word) : State :=
  let t := s.taskIdOf c
  let n := (s.region c).ords.get 0 node
  (s.modRegion c (fun r => { r with ords := r.ords.set node (n + 1) })).modHub (fun h => { h with
    items := h.items ++ [{ task := t, node := node, ord := n, body := body, at_ := s.now, what := what, id := id }] })

/-! ## Firings that trap after consuming their operands (R378) -/

/-- Raises T_POISON of the selected node with a sink kind of R384: TINFO_A the origin, TINFO_B the node. -/
def State.raisePoison (s : State) (o : Origin) (kind : Nat) : State :=
  s.raise s.sel.1 (s.record s.sel.1 (srcNode s.sel.1 s.sel.2) 5 0 (o.setWidth 64) (BitVec.ofNat 64 s.sel.2) (BitVec.ofNat 64 kind))

/-- A firing that removes its operands and raises T_POISON (R378, R384). -/
def poisonFire (pops : List Nat) (o : Origin) (kind : Nat) : Fire :=
  { pops := pops, post := fun s _ _ => s.raisePoison o kind }

end Sys2Proof.Machine
end

