-- ==== Sys2Proof/Machine/Graph.lean ====
section
/-!
DEFINITION. The dataflow graph of a block image as the loader sees it: the slots a node uses, edges (R20), networks (R129),
ranks and back edges (R222), and the loops of carries with the queues that bear for them (R230).
-/

namespace Sys2Proof.Machine

open Sys2Proof

/-! ## Slots -/

/-- The R operand of a format-A instruction whose R is absent under IR = 1 (R26, R67). -/
def rightUnlessImm : Instr → Bool
  | .add _ | .sub _ | .adds _ | .addsu _ | .subs _ | .subsu _ | .mul _ | .mulh _ | .mulhu _ | .div _ | .divu _ | .rem _
  | .remu _ | .min _ | .max _ | .minu _ | .maxu _ | .land _ | .lor _ | .lxor _ | .andn _ | .shl _ | .shr _ | .sra _
  | .rotl _ | .sel _ | .ceq _ | .cne _ | .clt _ | .cltu _ | .cle _ | .cleu _ | .ctst _ | .lea _ | .fadd _ | .fsub _
  | .fmul _ | .fmac _ | .fmin _ | .fmax _ | .feq _ | .flt _ | .fle _ | .funord _ | .pins _ | .pmask _ | .bext _ | .bdep _
  | .hashx _ => true
  | _ => false

/-- A node uses its R slot. -/
def usesRight (i : Instr) : Bool :=
  match i.aRule, i.eFmt with
  | some (f, _), _ =>
    (match i with
     | .addmin _ | .plsh _ | .pperm _ | .pjoin _ | .bdeq _ => true
     | .lutx f | .fsmst f => f.imm.getLsbD 12
     | .mdrain f => f.imm.getLsbD 2
     | i => rightUnlessImm i && !f.ir)
  | none, some f =>
    (match i with
     | .sset _ => true
     | _ => f.wthr == 0xFFF)
  | none, none =>
    match i with
    | .merge _ | .mrga _ | .carry _ | .invar _ | .loopgen _ | .cand _ | .cor _ | .cxor _ => true
    | .repeatN f => !f.cf.getLsbD 0
    | .st _ | .stp _ | .stfe _ | .amo _ | .cas _ | .rmw _ | .fence _ => true
    | .tlbinv _ | .keyrev _ | .ctxsv _ | .ctxld _ => true
    | _ => false

/-- The predicate mode of an instruction (R66). -/
def pmOfInstr (i : Instr) : Pm :=
  match i.aRule, i.cRule, i.mFmt, i.eFmt, i.sFmt with
  | some (f, _), _, _, _, _ => f.pm
  | _, some (f, _), _, _, _ => f.pm
  | _, _, some f, _, _ => f.pm
  | _, _, _, some f, _ => f.pm
  | _, _, _, _, some f => f.pm
  | _, _, _, _, _ =>
    match i with
    | .exit f | .exiti f | .call f | .calli f | .ret f | .yield f => f.pm
    | .trap f | .brk f => f.pm
    | _ => .always

/-- A node uses its L slot: all do, but for a predicated direct exit, `trap` or `brk` (R196). -/
def usesLeft (i : Instr) : Bool :=
  match i with
  | .exit f | .call f | .yield f => f.pm == .always
  | .trap f | .brk f => f.pm == .always
  | _ => true

/-- A node uses its P slot: as an operand, or as the predicate (R26). -/
def usesPred (i : Instr) : Bool :=
  pmOfInstr i != .always ||
    (match i with
     | .sel _ | .fmac _ | .xsacc _ | .steer _ | .gate _ | .merge _ | .carry _ | .split _ => true
     | .invar f => !f.cf.getLsbD 0
     | _ => false)

/-- The slots a node uses: 0 L, 1 R, 2 P. -/
def usedSlots (i : Instr) : List Nat :=
  (if usesLeft i then [0] else []) ++ (if usesRight i then [1] else []) ++ (if usesPred i then [2] else [])

/-! ## Edges -/

/-- The targets of an instruction in order (R64, R70). -/
def targetsOf (i : Instr) : List Target :=
  let t := i.targets01
  match i with
  | .mov4 f => [t.1, t.2, (mov4Target f false).getD .none, (mov4Target f true).getD .none]
  | _ => [t.1, t.2]

/-- An edge: the rank of its producer (read entry e at e, node i at 32 + i), the position of the target field, and the
consumer (R20, R222). -/
structure Edge where
  src : Nat
  pos : Nat
  tgt : Target
deriving DecidableEq, Repr

/-- The instruction of node i of an image. -/
def instrAt (im : Image) (i : Nat) : Option Instr :=
  match im.words[i]? with
  | none => none
  | some w => match decode w with
    | .ok x => some x
    | .error _ => none

/-- The edges out of one producer. -/
def edgesFrom (src : Nat) (ts : List Target) : List Edge :=
  ((List.range ts.length).zipWith (fun k t => { src := src, pos := k, tgt := t }) ts).filter (fun e => e.tgt != .none)

/-- The edges of an image, read entries first. -/
def edgesOf (im : Image) : List Edge :=
  ((List.range im.reads.length).zipWith (fun k (r : ReadEntry) => edgesFrom k [r.t0, r.t1]) im.reads).flatten ++
  (List.range im.words.length).flatMap (fun i => match instrAt im i with
    | some x => edgesFrom (32 + i) (targetsOf x)
    | none => [])

/-- The edge into a consumer. -/
def producerOf (es : List Edge) (t : Target) : Option Edge := es.find? (fun e => e.tgt == t)

/-- A slot of a node as a consumer. -/
def slotTarget (i slot : Nat) : Target :=
  match slot with
  | 0 => .left (BitVec.ofNat 8 i)
  | 1 => .right (BitVec.ofNat 8 i)
  | _ => .pred (BitVec.ofNat 8 i)

/-- The rank of a consumer (R222). -/
def consumerRank : Target → Nat
  | .left n | .right n | .pred n => 32 + n.toNat
  | .write e => 224 + e.toNat
  | .gate e => e.toNat
  | .none => 0

/-- A back edge (R222). -/
def isBack (im : Image) (e : Edge) : Bool :=
  consumerRank e.tgt ≤ e.src ||
    (match e.tgt with
     | .gate _ => true
     | .right n | .pred n => (match instrAt im n.toNat with
         | some (.carry _) => true
         | _ => false)
     | _ => false)

/-- Forward and back queues of node i (R222): slots it uses, by the edge that feeds them. -/
def queuesOf (im : Image) (i : Nat) (back : Bool) : List Nat :=
  match instrAt im i with
  | none => []
  | some x =>
    let es := edgesOf im
    (usedSlots x).filter (fun k => match producerOf es (slotTarget i k) with
      | some e => isBack im e == back
      | none => false)

/-! ## Networks (R129) -/

/-- The network of a read entry's tokens: control only for a stream's last flag (R60). -/
def readCtl (r : ReadEntry) (pos : Nat) : Bool :=
  pos == 1 && (match r.mode with
    | .plain | .await => false
    | _ => true)

/-- The network that an instruction fixes for a target: `some true` control, `some false` data, none where it passes what
comes on L. -/
def outCtl (i : Instr) (pos : Nat) : Option Bool :=
  match i with
  | .ceq _ | .cne _ | .clt _ | .cltu _ | .cle _ | .cleu _ | .ctst _ | .feq _ | .flt _ | .fle _ | .funord _ => some true
  | .mma _ | .ldst _ | .mswap _ | .mzero _ | .mdrain _ | .tset _ => some true
  | .mov _ | .mov4 _ | .steer _ | .gate _ | .merge _ | .invar _ | .split _ => none
  | .mrga _ | .carry _ | .repeatN _ | .omerge _ => if pos = 0 then none else some true
  | .loopgen _ => some (pos == 1)
  | .cand _ | .cor _ | .cnot _ | .cxor _ | .fence _ => some true
  | .sysrd _ | .tsget _ | .evwait _ => some false
  | i => match i.mFmt, i.eFmt, i.sFmt with
    | some _, _, _ => some (pos == 1)
    | _, some _, _ => some true
    | _, _, some _ => some true
    | _, _, _ => some false

/-- The network of the token that reaches the L slot of a node, traced backward (R129). -/
def traceNet (im : Image) (es : List Edge) : Nat → Nat → Bool
  | 0, _ => false
  | fuel + 1, i =>
    match producerOf es (slotTarget i 0) with
    | none => false
    | some e =>
      if e.src < 32 then (match im.reads[e.src]? with
        | some r => readCtl r e.pos
        | none => false)
      else match instrAt im (e.src - 32) with
        | none => false
        | some x => (match outCtl x e.pos with
            | some b => b
            | none => traceNet im es fuel (e.src - 32))

/-- The network of L of a node is the control network. -/
def ctlNet (im : Image) (i : Nat) : Bool := traceNet im (edgesOf im) 193 i

/-! ## Loops (R230) -/

/-- Operators through which a confirmed condition passes (R230). -/
def condPass : Instr → Bool
  | .mov _ | .mov4 _ | .gate _ | .cnot _ | .cand _ | .cor _ | .cxor _ => true
  | _ => false

/-- A consumer is fed from T1 of carry c through those operators. -/
def fromCond (im : Image) (es : List Edge) (c : Nat) : Nat → Target → Bool
  | 0, _ => false
  | fuel + 1, t =>
    match producerOf es t with
    | none => false
    | some e =>
      if e.src = 32 + c then e.pos == 1
      else if e.src < 32 then false
      else match instrAt im (e.src - 32) with
        | none => false
        | some x => condPass x &&
            (fromCond im es c fuel (slotTarget (e.src - 32) 0) ||
              (usesRight x && fromCond im es c fuel (slotTarget (e.src - 32) 1)))

/-- An exit edge of carry c (R230). -/
def exitEdge (im : Image) (es : List Edge) (c : Nat) (e : Edge) : Bool :=
  e.pos == 1 && 32 ≤ e.src &&
    (match instrAt im (e.src - 32) with
     | some (.steer _) => fromCond im es c 193 (slotTarget (e.src - 32) 2)
     | _ => false)

/-- The node an edge draws into a loop: none for an exit edge, the L slot of a `carry` or `invar`, or c itself (R230). -/
def drawn (im : Image) (es : List Edge) (c : Nat) (e : Edge) : Option Nat :=
  match slotOf e.tgt with
  | none => none
  | some (i, slot) =>
    let shut := slot == 0 && (match instrAt im i with
      | some (.carry _) => true
      | some (.invar _) => true
      | _ => false)
    if i = c || shut || exitEdge im es c e then none else some i

/-- The nodes of a loop, found in rounds. -/
def loopGrow (im : Image) (es : List Edge) (c : Nat) : Nat → List Nat → List Nat
  | 0, l => l
  | fuel + 1, l =>
    let more := (es.filter (fun e => e.src = 32 + c || (32 ≤ e.src && l.contains (e.src - 32)))).filterMap (drawn im es c)
    let l1 := more.foldl NSet.insert l
    if l1.length = l.length then l else loopGrow im es c fuel l1

/-- The loop of carry c (R230). -/
def loopOf (im : Image) (c : Nat) : List Nat := loopGrow im (edgesOf im) c 192 []

/-- The carries of an image. -/
def carriesOf (im : Image) : List Nat :=
  (List.range im.words.length).filter (fun i => match instrAt im i with
    | some (.carry _) => true
    | _ => false)

/-- An edge bears for carry c whose loop is `l` (R230). -/
def bears (im : Image) (es : List Edge) (c : Nat) (l : List Nat) (e : Edge) : Bool :=
  (e.src = 32 + c || (32 ≤ e.src && l.contains (e.src - 32))) && !exitEdge im es c e

/-- The groups of purge-bearing queues of node i: one list of slots for each carry they bear for (R231). -/
def purgeGroups (im : Image) (i : Nat) : List (List Nat) :=
  let es := edgesOf im
  ((carriesOf im).map (fun c =>
    let l := loopOf im c
    [0, 1, 2].filter (fun k => match producerOf es (slotTarget i k) with
      | some e => bears im es c l e
      | none => false))).filter (fun g => !g.isEmpty)

end Sys2Proof.Machine
end

