-- ==== Sys2Proof/Machine/Inbox.lean ====
section
/-!
DEFINITION. Inboxes (R249 to R252): the control block, the reservation, writing and publication of a message, its reading,
and the messages that carry the tokens of a replication group (R147, R329).
-/

namespace Sys2Proof.Machine

open Sys2Proof

/-- An inbox control block (R249), with the physical addresses of itself and of its buffer. -/
structure Icb where
  pa : Nat
  buf : Nat
  cap : Nat
  sem : Nat
  tail : Nat
  commit : Nat
  head : Nat
  owner : Nat
deriving DecidableEq, Repr

/-- A difference of byte counts, modulo 2^64 (R249). -/
def since (a b : Nat) : Nat := (a + 2 ^ 64 - b % 2 ^ 64) % 2 ^ 64

/-- An inbox control block at a physical SRAM address whose buffer lies at physical address `buf`. -/
def State.icbAt (s : State) (pa buf : Nat) : Icb :=
  { pa := pa, buf := buf, cap := s.leNow (pa + 8) 4, sem := s.leNow (pa + 12) 1, tail := s.leNow (pa + 16) 8
    commit := s.leNow (pa + 24) 8, head := s.leNow (pa + 32) 8, owner := s.leNow (pa + 40) 8 }

/-- The fields of R249 hold: place, capacity, and the order of the counters. -/
def Icb.ok (i : Icb) : Bool :=
  i.pa % 64 == 0 && isSram i.pa && isSram i.buf && sramClus i.pa == sramClus i.buf && i.buf % 16 == 0 && i.cap % 16 == 0 &&
  64 ≤ i.cap && i.cap ≤ 196608 && sramOff i.buf + i.cap ≤ 0x30000 &&
  since i.tail i.head ≤ i.cap && since i.commit i.head ≤ since i.tail i.head

/-- The inbox at a virtual address of a space; none where R249 forbids it. -/
def State.icb (s : State) (sp : Space) (a : Word) : Option Icb :=
  match s.xlate sp a .atomic with
  | .error _ => none
  | .ok (pa, _) =>
    if !isSram pa then none
    else match s.xlate sp (BitVec.ofNat 64 (s.leNow pa 8)) .write with
      | .error _ => none
      | .ok (buf, _) => if (s.icbAt pa buf).ok then some (s.icbAt pa buf) else none

/-- Bytes that a message of LEN body bytes occupies (R250). -/
def msgSize (len : Nat) : Nat := 16 + 16 * ((len + 15) / 16)

/-- A message of LEN body bytes fits (R251). -/
def Icb.fits (i : Icb) (size : Nat) : Bool := size ≤ i.cap - since i.tail i.head

/-- The header of a message (R250). -/
def msgHeader (len src kind ts : Nat) : List Byte :=
  leBytes 4 len ++ leBytes 2 src ++ leBytes 2 kind ++ leBytes 8 (ts % 2 ^ 48)

/-- SRC of a message: cluster and node (R250). -/
def msgSrc (c i : Nat) : Nat := c % 64 + i % 256 * 64

/-- Reserves space for a message and writes its header, body and padding, as one action (R251): the reservation's start. -/
def State.inboxWrite (s : State) (i : Icb) (src kind : Nat) (body : List (Byte × Bool)) : State × Nat :=
  let m := msgSize body.length
  let bytes := (msgHeader body.length src kind s.now).map (fun b => (b, false)) ++ body ++
    List.replicate (m - 16 - body.length) (0, false)
  let place (k : Nat) : Nat := i.buf + (i.tail + k) % i.cap
  (s.store (pbytes (i.pa + 16) (leBytes 8 (i.tail + m)) false ++
      (List.range m).zipWith (fun k (b : Byte × Bool) => { addr := place k, val := b.1, bad := b.2 }) bytes) true none, i.tail)

/-- The tasks that a TASK_ID names, a handler or a twin among them, which stand under keys of the model's own (log entry 40). -/
def State.named (s : State) (id : Nat) : List Nat :=
  if id = 0 then [] else (s.tasks.filter (fun x => (x.1 == id || x.2.id == id) && x.2.place != .ended)).map (·.1)

/-- COMMIT advances over a published message as a release at package scope, and the class-2 latch of the owner is set
(R211, R251). -/
def State.inboxCommit (s : State) (i : Icb) (upto : Nat) (bound : List Nat) : State :=
  let s1 := s.store (pbytes (i.pa + 24) (leBytes 8 upto) false) true (some { by_ := sramClus i.pa, scope := 2, bound := bound })
  (s.named i.owner).foldl (fun st t => st.post t 2) s1

/-- The task in whose window the semaphore of an inbox lies (R251): the owner, or `sender` where the inbox names none (log entry
14). -/
def State.inboxOwner (s : State) (i : Icb) (sender : Nat) : Nat := if i.owner = 0 then sender else (s.named i.owner).headD i.owner

/-- The signal that follows COMMIT (R251). -/
def State.inboxSignal (s : State) (i : Icb) (sender : Nat) (bound : List Nat) : Except XFault State :=
  if i.sem = 0xFF then .ok s
  else s.signal (s.task (s.inboxOwner i sender)) i.sem 1 (union bound [s.wseq])

/-- The published message at HEAD: LEN, KIND and body bytes. -/
def State.inboxHead (s : State) (i : Icb) : Option (Nat × Nat × List Byte) :=
  if since i.commit i.head < 16 then none
  else
    let rd (o n : Nat) : List Byte := (List.range n).map (fun k => Memory.read s.mem (i.buf + (i.head + o + k) % i.cap))
    let len := leVal (rd 0 4)
    some (len, leVal (rd 6 2), rd 16 len)

/-- Releases the message at HEAD. -/
def State.inboxTake (s : State) (i : Icb) (len : Nat) : State :=
  s.store (pbytes (i.pa + 32) (leBytes 8 (i.head + msgSize len)) false) true none

/-! ## Messages of a replication group -/

/-- A replica's inbox and the home return inbox of member m (R329). -/
def replicaIcb (clus : Nat) : Nat := sliceAddr clus 47 0x20000
def returnIcb (clus grp m : Nat) : Nat := sliceAddr clus (44 + grp) (0x20000 + 0x4000 * (m - 1))

/-- The header of a token on the data network (R12). -/
def Token.header : Token → Nat
  | .pkt ty len psn _ => ty.code * 4 + (len - 1) * 64 + psn.toNat * 512
  | .ctl val psn _ => val.toNat * 4 + psn.toNat * 8
  | .mark .teardown => 1
  | .mark .purge => 2
  | .mark .eos => 3

/-- The body of a message that carries a token (R147). -/
def Token.body (t : Token) : List Byte :=
  leBytes 2 t.header ++ leBytes 6 0 ++
    (match t with
     | .pkt ty len _ pay => leBytes (len * ty.laneWidth / 8) pay.toNat
     | .ctl _ psn o => if psn then leBytes 4 o.toNat else []
     | .mark _ => [])

/-- The token that a body re-forms on a network (R147). -/
def tokenOfBody (ctl : Bool) (bs : List Byte) : Token :=
  let h := leVal (bs.take 2)
  if ctl then .ctl (h.testBit 2) (h.testBit 3) (BitVec.ofNat 32 (leVal ((bs.drop 8).take 4)))
  else .pkt ((Ty.ofCode (h / 4 % 16)).getD .i64) (h / 64 % 8 + 1) (h.testBit 9) (BitVec.ofNat 320 (leVal (bs.drop 8)))

/-- The address space of a command, at the privilege of the block that issued it (R342, R346). -/
def Cmd.space (q : Cmd) (c : Nat) : Space := { task := q.task, clus := c, root := q.root, asid := q.asid, priv := q.priv }

/-- A command of cluster c is a send that stands in the queue of the inbox at `pa` (R251). -/
def State.queuedAt (s : State) (c : Nat) (q : Cmd) (pa : Nat) : Bool :=
  q.step == 5 && q.done == 0 && !q.stopped && (match q.ins with
    | .msend _ => (match s.xlateRaw (q.space c) (wordAt q.desc 0) .atomic with
        | .ok (p, _) => p == pa
        | .error _ => false)
    | _ => false)

/-- A send at once would overtake others at an inbox (R251): one stands in its queue, or has reserved space and is still to be
published. -/
def State.inboxBusy (s : State) (i : Icb) : Bool :=
  i.commit != i.tail || s.clusters.any (fun x => x.2.eq.any (fun y => s.queuedAt x.1 y i.pa))

/-- Sends a token of node i of cluster c through an inbox of its group, reserved, written and published at once (R145). -/
def State.sendToken (s : State) (c i pa kind : Nat) (t : Token) (bound : List Nat) : State :=
  let b := s.icbAt pa (pa + 64)
  let (s1, p) := s.inboxWrite b (msgSrc c i) kind (t.body.map (fun x => (x, false)))
  let s2 := s1.inboxCommit (s1.icbAt pa (pa + 64)) (p + msgSize t.body.length) (union bound [s1.wseq])
  match s2.inboxSignal b (s.taskIdOf c) bound with
  | .ok s3 => s3
  | .error x => s2.raise c (s2.semRecord c i x)

/-- A fresh inbox of a group (R329): empty, no semaphore, owned by the reading task. -/
def State.initIcb (s : State) (pa cap owner : Nat) : State :=
  s.store (pbytes pa (leBytes 8 (pa + 64) ++ leBytes 4 cap ++ [0xFF, 0, 0, 0] ++ leBytes 8 0 ++ leBytes 8 0 ++ leBytes 8 0 ++
    leBytes 8 owner ++ leBytes 16 0) false) false none

end Sys2Proof.Machine
end

