-- ==== Sys2Proof/Machine/Router.lean ====
section
/-!
DEFINITION. The router control operators, 0x80 to 0x91 (R127 to R148).
-/

namespace Sys2Proof.Machine

open Sys2Proof

/-- A firing that consumes every head of its operand set (R26, R27, R127). -/
def routePlan (pm : Pm) (uL uR uP : Bool) (s : State) (body : Heads → Fire) : Plan :=
  match s.heads pm uL uR uP with
  | none => .wait
  | some h => if !h.pass then .discard h.slots else .fire { body h with pops := h.slots }

/-- A token passed by a firing: a poisoned P poisons it (R130), a packet with the first origin in the order of R32, a control
token with that of P. -/
def Heads.passed (h : Heads) (t : Token) : Token :=
  match h.p.bind Token.origin with
  | none => t
  | some op => match t with
    | .ctl .. => t.poisonBy op
    | _ => t.poisonBy (h.origin.getD op)

/-- What poisons a token that an operator makes beside a token `t` that it takes (R130): under a poisoned P the first origin in the order
of R32, and nothing under a clean one. -/
def Heads.madeOrigin (h : Heads) (t : Token) : Option Origin :=
  if (h.p.bind Token.origin).isSome then firstOrigin [some t, h.p] else none

/-- A token on both targets. -/
def bothTargets (f : FmtC) (t : Token) : List (Target × Token) := [(f.t0, t), (f.t1, t)]

/-- A control token made by an operator, poisoned by an origin. -/
def madeCtl (v : Bool) (o : Option Origin) : Token :=
  match o with
  | some x => badCtl v x
  | none => ctlTok v

/-! ## Copy, steer, gate and merge -/

/-- A copy of L to two targets (R132). -/
def planMov (f : FmtC) (s : State) : Plan :=
  routePlan f.pm true false false s (fun h => match h.l with
    | some t => { outs := bothTargets f (h.passed t) }
    | none => {})

/-- MOV (R132). -/
def execMov (f : FmtC) (s : State) : Out := fireNode (planMov f) s

/-- A copy of L to four targets (R132). -/
def planMov4 (f : FmtC) (s : State) : Plan :=
  routePlan f.pm true false false s (fun h => match h.l with
    | some t => { outs := (targetsOf (.mov4 f)).map (fun g => (g, h.passed t)) }
    | none => {})

/-- MOV4 (R132). -/
def execMov4 (f : FmtC) (s : State) : Out := fireNode (planMov4 f) s

/-- L to the side that P selects; to both under a poisoned P (R133). -/
def planSteer (f : FmtC) (s : State) : Plan :=
  routePlan .always true false true s (fun h => match h.l, h.p with
    | some t, some p =>
      if p.origin.isSome then { outs := bothTargets f (h.passed t) }
      else { outs := [(if p.val then f.t0 else f.t1, t)] }
    | _, _ => {})

/-- STEER (R133). -/
def execSteer (f : FmtC) (s : State) : Out := fireNode (planSteer f) s

/-- L passed on a true P; on a false P dropped, or kept under KEEP (R134). Its targets must accept even so (R22). -/
def planGate (f : FmtC) (s : State) : Plan :=
  match s.heads .always true false true with
  | none => .wait
  | some h => match h.l with
    | none => .wait
    | some t =>
      if h.flush then .fire { pops := [0, 2], outs := bothTargets f (h.passed t) }
      else .fire { pops := if f.cf.getLsbD 0 then [2] else [0, 2], needs := [f.t0, f.t1] }

/-- GATE (R134). -/
def execGate (f : FmtC) (s : State) : Out := fireNode (planGate f) s

/-- The network of the L slot of the selected node is the control network (R129). -/
def State.onCtl (s : State) : Bool := match s.selRegion.img with
  | some im => ctlNet im s.sel.2
  | none => false

/-- An R token of `merge` or `mrga`, converted to the network of L (R129). -/
def State.toNet (s : State) (t : Token) : Token := if s.onCtl then t.asCtl else t.asData

/-- The head that P selects (R135). -/
def planMerge (f : FmtC) (s : State) : Plan :=
  match s.head 2 with
  | none => .wait
  | some p =>
    let left := p.val || p.origin.isSome
    match s.head (if left then 0 else 1) with
    | none => .wait
    | some x =>
      let t := if left then x else s.toNet x
      let h : Heads := { pass := true, slots := [], l := some t, p := some p }
      .fire { pops := [if left then 0 else 1, 2], outs := bothTargets f (h.passed t) }

/-- MERGE (R135). -/
def execMerge (f : FmtC) (s : State) : Out := fireNode (planMerge f) s

/-- The cycle in which the head of a slot became available. -/
def State.headAt (s : State) (slot : Nat) : Option Nat := ((s.selNode.queue slot).operand s.now).map (·.at_)

/-- Whichever head came first, L on a tie, and its side (R136), which the poison of the token does not touch (R130). -/
def planMrga (f : FmtC) (s : State) : Plan :=
  let go (left : Bool) : Plan :=
    routePlan f.pm left (!left) false s (fun h =>
      let t := if left then h.l.getD (ctlTok false) else s.toNet (h.r.getD (ctlTok false))
      { outs := [(f.t0, h.passed t), (f.t1, madeCtl left (h.madeOrigin t))] })
  match s.headAt 0, s.headAt 1 with
  | none, none => .wait
  | some _, none => go true
  | none, some _ => go false
  | some a, some b => go (a ≤ b)

/-- MRGA (R136). -/
def execMrga (f : FmtC) (s : State) : Out := fireNode (planMrga f) s

/-! ## Loops -/

/-- RUN of a `carry` (R137): the condition to T1 and the value to T0, each if its target accepts. A poisoned condition poisons
the value that passes in the same firing (R32, R130). -/
def carryRun (f : FmtC) (s : State) (e c : Nat) : Plan :=
  let acc (t : Target) : Bool := s.selRegion.accepts s.now t
  let p := s.head 2
  let canP := p.isSome && acc f.t1
  let c1 := if canP then c + 1 else c
  let ended := canP && (match p with
    | some t => !t.val && t.origin.isNone
    | none => false)
  let r := s.head 1
  let wantR := r.isSome && !ended && e ≤ c1 + bitsOf f.cf 1 0
  let canR := wantR && acc f.t0
  let asks := (if wantR && !canR then [f.t0] else []) ++ (if p.isSome && !canP then [f.t1] else [])
  if !canP && !canR then .stall asks
  else
    let h : Heads := { pass := true, slots := [], r := r, p := if canP then p else none }
    let outR := match r with
      | some t => if canR then [(f.t0, h.passed t)] else []
      | none => []
    let outP := match p with
      | some t => if canP then [(f.t1, match t.origin with
          | some o => badCtl true o
          | none => t.asCtl)] else []
      | none => []
    .fire { pops := (if canR then [1] else []) ++ (if canP then [2] else []), outs := outR ++ outP, asks := asks
            st := some (.carry (if ended then 2 else 1) (if canR then e + 1 else e) c1) }

/-- A loop-carried value (R137). -/
def planCarry (f : FmtC) (s : State) : Plan :=
  match s.selNode.st with
  | .carry 1 e c => carryRun f s e c
  | .carry 2 _ _ => .fire { outs := bothTargets f (.mark .purge), st := some (.carry 3 0 0) }
  | .carry _ _ _ =>
    let pops := (if (s.head 1).isSome then [1] else []) ++ (if (s.head 2).isSome then [2] else [])
    if !pops.isEmpty then .fire { pops := pops, st := some (.carry 3 0 0) }
    else if s.selNode.r.marker s.now = some .purge ∧ s.selNode.p.marker s.now = some .purge then
      .fire { pops := [1, 2], st := some .idle }
    else .wait
  | _ => match s.head 0 with
    | none => .wait
    | some l => .fire { pops := [0], outs := [(f.t0, l)], st := some (.carry 1 1 0) }

/-- CARRY (R137). -/
def execCarry (f : FmtC) (s : State) : Out := fireNode (planCarry f) s

/-- A purge marker at the head of R of an `invar` with PMODE = 1 (R139), with that of a predicate of the same loop (R231). -/
def invarPurge (f : FmtC) (s : State) : Plan :=
  let alone : Bool := match s.selRegion.img with
    | some im => f.pm == Pm.always || !(purgeGroups im s.sel.2).any (fun g => g.contains 1 && g.contains 2)
    | none => true
  let go (pops : List Nat) : Plan := .fire { pops := pops, outs := bothTargets f (.mark .purge), st := some .idle }
  if alone then go [1]
  else if s.selNode.p.marker s.now = some .purge then go [1, 2]
  else if (s.head 2).isSome then .discard [2]
  else .wait

/-- A loop invariant: one copy for each trigger (R139). R139 does not say whether the firing that takes L in IDLE needs a predicate: the
model pairs P with the triggers at R alone (log entry 59). -/
def planInvar (f : FmtC) (s : State) : Plan :=
  let purge := f.cf.getLsbD 0
  if purge ∧ s.selNode.r.marker s.now = some .purge then invarPurge f s
  else match s.selNode.st with
    | .invar held =>
      routePlan f.pm false true (!purge) s (fun h =>
        { outs := bothTargets f (h.passed held)
          st := some (if !purge && h.flush then .idle else .invar held) })
    | _ => match s.head 0 with
      | none => .wait
      | some l => .fire { pops := [0], needs := [f.t0, f.t1], st := some (.invar l) }

/-- INVAR (R139). -/
def execInvar (f : FmtC) (s : State) : Out := fireNode (planInvar f) s

/-- inside(i) of R140. -/
def inRange (step : Int) (incl : Bool) (i hi : Int) : Bool :=
  if 0 < step then decide (i < hi) || (incl && i == hi) else decide (hi < i) || (incl && i == hi)

/-- STEP and one index of a range (R140). -/
def loopStep (f : FmtC) : Int := Num.sval f.imm.toNat 24
def loopEmit (f : FmtC) (i hi : Int) (po : Option Origin) : Fire :=
  let n := f.ty.elemBits
  let last := !inRange (loopStep f) (f.cf.getLsbD 1) (i + loopStep f) hi
  let tok := match po with
    | some o => badPkt f.ty 1 o
    | none => mkPkt f.ty [Num.wrap i n]
  { outs := [(f.t0, tok), (f.t1, madeCtl last po)]
    st := some (if last then .idle else .loopgen (i + loopStep f) hi po) }

/-- A counted range, its first index in the firing that takes the bounds (R140). -/
def planLoopgen (f : FmtC) (s : State) : Plan :=
  match s.selNode.st with
  | .loopgen i hi po => .fire (loopEmit f i hi po)
  | _ =>
    routePlan f.pm true true false s (fun h =>
      match firstOrigin [h.l, h.r] with
      | some o => { outs := [(f.t0, badPkt f.ty 1 o), (f.t1, badCtl true o)] }
      | none =>
        let n := f.ty.elemBits
        let rd (t : Option Token) : Int :=
          let x := (leftElems f.ty t).headD 0
          if f.cf.getLsbD 0 then (x : Int) else Num.sval x n
        if inRange (loopStep f) (f.cf.getLsbD 1) (rd h.l) (rd h.r) then
          loopEmit f (rd h.l) (rd h.r) (h.p.bind Token.origin)
        else { needs := [f.t0, f.t1] })

/-- LOOPGEN (R140). -/
def execLoopgen (f : FmtC) (s : State) : Out := fireNode (planLoopgen f) s

/-- One copy of a `repeat`, `c` of them still to come with it (R141). -/
def repeatEmit (f : FmtC) (t : Token) (c : Nat) (po : Option Origin) : Fire :=
  { outs := [(f.t0, t), (f.t1, madeCtl (c == 1) po)], st := some (if c = 1 then .idle else .rept t (c - 1) po) }

/-- Counted copies of L, the first in the firing that takes the operands (R141). -/
def planRepeat (f : FmtC) (s : State) : Plan :=
  match s.selNode.st with
  | .rept t c po => .fire (repeatEmit f t c po)
  | _ =>
    let imm := f.cf.getLsbD 0
    routePlan f.pm true (!imm) false s (fun h =>
      let t := h.passed (h.l.getD (ctlTok false))
      let po := if h.p.any (fun x => x.origin.isSome) then h.origin else none
      match h.r.bind Token.origin, h.origin with
      | some _, some o => repeatEmit f (t.poisonBy o) 1 (some o)
      | _, _ =>
        let c := if imm then f.imm.toNat else match h.r with
          | some x => (low64 x).toNat
          | none => 0
        if c = 0 then { needs := [f.t0, f.t1] } else repeatEmit f t c po)

/-- REPEAT (R141). -/
def execRepeat (f : FmtC) (s : State) : Out := fireNode (planRepeat f) s

/-! ## Control logic and conversion -/

/-- A control operator on L and R (R142). -/
def logicPlan (uR : Bool) (op : Bool → Bool → Bool) (f : FmtC) (s : State) : Plan :=
  routePlan f.pm true uR false s (fun h =>
    let v (t : Option Token) : Bool := (t.getD (ctlTok false)).val
    { outs := bothTargets f (madeCtl (op (v h.l) (v h.r)) h.origin) })

/-- AND of two control tokens (R142). -/
def planCand (f : FmtC) (s : State) : Plan := logicPlan true (fun a b => a && b) f s

/-- CAND (R142). -/
def execCand (f : FmtC) (s : State) : Out := fireNode (planCand f) s

/-- OR of two control tokens (R142). -/
def planCor (f : FmtC) (s : State) : Plan := logicPlan true (fun a b => a || b) f s

/-- COR (R142). -/
def execCor (f : FmtC) (s : State) : Out := fireNode (planCor f) s

/-- A control token inverted (R142). -/
def planCnot (f : FmtC) (s : State) : Plan := logicPlan false (fun a _ => !a) f s

/-- CNOT (R142). -/
def execCnot (f : FmtC) (s : State) : Out := fireNode (planCnot f) s

/-- XOR of two control tokens (R142). -/
def planCxor (f : FmtC) (s : State) : Plan := logicPlan true (fun a b => a != b) f s

/-- CXOR (R142). -/
def execCxor (f : FmtC) (s : State) : Out := fireNode (planCxor f) s

/-- A control token as a packet of TV or FV (R143). -/
def planCdat (f : FmtC) (s : State) : Plan :=
  routePlan f.pm true false false s (fun h =>
    let v := (h.l.getD (ctlTok false)).val
    let tok := match h.origin with
      | some o => badPkt f.ty 1 o
      | none => mkPkt f.ty [Num.sextTo (if v then bitsOf f.imm 11 0 else bitsOf f.imm 23 12) 12 f.ty.elemBits]
    { outs := bothTargets f tok })

/-- CDAT (R143). -/
def execCdat (f : FmtC) (s : State) : Out := fireNode (planCdat f) s

/-! ## Elastic replicas -/

/-- The group of the selected node (R144). -/
def State.selGroup (s : State) (f : FmtC) : Group := s.selTask.groups.get {} (bitsOf f.imm 1 0)

/-- Changes a group record of the task of region c. -/
def State.modGroup (s : State) (c k : Nat) (g : Group → Group) : State :=
  s.modTaskOf c (fun t => { t with groups := t.groups.set k (g (t.groups.get {} k)) })

/-- Ends a replica (R328): its region drops its work, and the task ends by TASK_END. -/
def State.endReplica (s : State) (t : Nat) : State :=
  let s1 := match (s.task t).place with
    | .region c => s.strip c
    | _ => s
  s1.modTask t (fun x => { x with ending := true })

/-- Members that no unfinished stream and no later stream has end (R328). -/
def State.dropMembers (s : State) (c k : Nat) : State :=
  let g := (s.taskOf c).groups.get {} k
  let most := g.streams.foldl (fun m r => Nat.max m r.n) g.n
  ((g.tasks.drop (most - 1)).foldl State.endReplica s).modGroup c k
    (fun g => { g with tasks := g.tasks.take (most - 1), clusters := g.clusters.take (most - 1) })

/-- Changes the newest stream of a group. -/
def newestRun (f : GroupRun → GroupRun) : List GroupRun → List GroupRun
  | [] => []
  | [r] => [f r]
  | r :: t => r :: newestRun f t

/-- A stream gains a token; it starts with its first one (R145). -/
def Group.deal (g : Group) (n j : Nat) (last : Bool) : Group :=
  let l := if j = 0 then g.streams ++ [{ n := n }] else g.streams
  { g with streams := newestRun (fun r => { r with seen := r.seen + 1, ended := last }) l }

/-- What reading COMMIT of an inbox binds its reader to (R252, R271). -/
def State.inboxBound (s : State) (c pa : Nat) : List Nat :=
  let ws := s.writesOf s.wseq (pa + 24)
  union ((ws.take 1).map (·.seq)) (syncSet (releasesOf c ws) 2 c)

/-- Raises T_INBOX of the selected node in place of a firing (R147, R370): the inbox, the body length. -/
def inboxTrap (f : Fire) (sub pa len : Nat) : Fire :=
  { pops := f.pops, needs := f.outs.map (·.1) ++ f.needs
    post := fun s _ _ => s.raise s.sel.1 (s.record s.sel.1 (srcNode s.sel.1 s.sel.2) 0x12 sub (BitVec.ofNat 64 pa) (BitVec.ofNat 64 len) 0) }

/-- Messages to send, to inboxes of the group: address, KIND, token. -/
abbrev Sends := List (Nat × Nat × Token)

/-- Space for all of them; a broken inbox or a body that is too long; or some inbox is full, has sends before these, or is not
reached (R145, R251, R399). -/
inductive SendCheck where
  | ok | full
  | trap (sub pa len : Nat)
deriving DecidableEq, Repr

/-- The semaphore of an inbox of the selected node's group is reached from the inbox. -/
def State.inboxOpen (s : State) (i : Icb) : Bool :=
  i.sem = 0xFF || s.semOpen (sramClus i.pa) (s.task (s.inboxOwner i (s.taskIdOf s.sel.1))) i.sem

def State.checkSends (s : State) (l : Sends) : SendCheck :=
  l.foldl (fun acc x =>
    match acc with
    | .ok =>
      let b := s.icbAt x.1 (x.1 + 64)
      let len := x.2.2.body.length
      let total := ((l.filter (fun y => y.1 == x.1)).map (fun y => msgSize y.2.2.body.length)).foldl (· + ·) 0
      if !b.ok then .trap 2 x.1 len
      else if b.cap < 16 + len then .trap 1 x.1 len
      else if b.fits total && !s.inboxBusy b && s.clusOpen s.sel.1 (sramClus x.1) && s.inboxOpen b then .ok else .full
    | a => a) .ok

/-- The first inbox that takes no message of those to send (R145, R331). -/
def State.fullInbox (s : State) (l : Sends) : Option Nat := (l.find? (fun x => s.checkSends (l.filter (fun y => y.1 == x.1)) == .full)).map (·.1)

/-- Sends them all: writes of the task, which no rollback takes back (R272, R387). -/
def State.sendAll (s : State) (l : Sends) (bound : List Nat) : State :=
  let s1 := l.foldl (fun st x => st.sendToken st.sel.1 st.sel.2 x.1 x.2.1 x.2.2 bound) s
  if l.isEmpty then s1
  else (s1.irrevoke s.sel.1).modTaskOf s.sel.1 (fun t => { t with wrote := union t.wrote (newWrites s s1) })

/-- A firing that sends messages: it waits, whole, while an inbox is full. -/
def sendPlan (s : State) (l : Sends) (f : Fire) : Plan :=
  match s.checkSends l with
  | .full => .wait
  | .trap sub pa len => .fire (inboxTrap f sub pa len)
  | .ok => .fire { f with post := fun st id b => (f.post (st.sendAll l b) id b) }

/-- The number of members and the ordinal of the next token of a home `split`. -/
def State.splitAt (s : State) (f : FmtC) : Nat × Nat :=
  match s.selNode.st with
  | .split n j => (n, j)
  | _ => ((s.selGroup f).n, 0)

/-- What a home `split` sends on its operand set (R145): the token of member m, and at the end of the stream a message to every member. -/
def State.splitSends (s : State) (f : FmtC) (h : Heads) : Sends :=
  let g := s.selGroup f
  let (n, j) := s.splitAt f
  let m := j % n
  (if m = 0 then [] else [(replicaIcb (g.clusters.getD (m - 1) 0), 1, h.passed (h.l.getD (ctlTok false)))]) ++
    (if (h.p.getD (ctlTok false)).val then (List.range (n - 1)).map (fun i => (replicaIcb (g.clusters.getD i 0), 2, .mark .eos)) else [])

/-- A home `split` (R145). -/
def splitHome (f : FmtC) (s : State) : Plan :=
  match s.heads .always true false true with
  | none => .wait
  | some h =>
    let k := bitsOf f.imm 1 0
    let (n, j) := s.splitAt f
    let t := h.passed (h.l.getD (ctlTok false))
    let last := (h.p.getD (ctlTok false)).val
    sendPlan s (s.splitSends f h)
      { pops := h.slots, outs := if j % n = 0 then [(f.t0, t)] else [], needs := [f.t0]
        st := some (if last then .idle else .split n (j + 1))
        post := fun st _ _ =>
          let s1 := if j = 0 then st.dropMembers s.sel.1 k else st
          s1.modGroup s.sel.1 k (fun g => g.deal n j last) }

/-- A replica's `split` (R145): the next message of its inbox. -/
def splitReplica (f : FmtC) (s : State) : Plan :=
  let c := s.sel.1
  let k := bitsOf f.imm 1 0
  let pa := replicaIcb c
  let b := s.icbAt pa (pa + 64)
  let j := match s.selNode.st with
    | .split _ j => j
    | _ => 0
  match s.inboxHead b with
  | none => .wait
  | some (len, 1, bs) =>
    .fire { outs := [(f.t0, tokenOfBody s.onCtl bs)], extra := s.inboxBound c pa, st := some (.split 1 (j + 1))
            post := fun st _ _ => (st.inboxTake b len).modGroup c k (fun g => g.deal 1 j false) }
  | some (len, _, _) =>
    .fire { needs := [f.t0], st := some .idle
            post := fun st _ _ => (st.inboxTake b len).modGroup c k (fun g =>
              { g with streams := newestRun (fun r => { r with ended := true })
                         (if j = 0 then g.streams ++ [{ n := 1 }] else g.streams) }) }

/-- Deals a stream over the members of a group (R145). -/
def planSplit (f : FmtC) (s : State) : Plan := if (s.selGroup f).member = 0 then splitHome f s else splitReplica f s

/-- SPLIT (R145). -/
def execSplit (f : FmtC) (s : State) : Out := fireNode (planSplit f) s

/-- An end-of-stream marker at the head of L of an `omerge` (R146): removed, or counted as stranded while its share of the
current stream is not complete, or left while that cannot be told yet. Before the first output of a stream it still belongs to
the stream before, and is removed uncounted (log entry 51). -/
def omergeMarker (s : State) (c j n : Nat) (run : Option GroupRun) : Plan :=
  match run with
  | none => .discard [0]
  | some r =>
    let open_ := (List.range (r.seen - j)).any (fun d => (j + d) % n == 0)
    if j = 0 ∨ (r.ended ∧ !open_) then .discard [0]
    else if open_ then .fire { pops := [0], post := fun st _ _ => st.strand c s.sel.2 1 }
    else .wait

/-- A home `omerge` after output j (R146). -/
def omergeNext (f : FmtC) (s : State) (j : Nat) (last : Bool) (x : Fire) : Fire :=
  let k := bitsOf f.imm 1 0
  { x with
    st := some (if last then (if f.cf.getLsbD 0 then .omerge 0 true else .idle) else .omerge (j + 1) false)
    post := fun st id b =>
      let s1 := x.post st id b
      if last then (s1.modGroup s.sel.1 k (fun g => { g with streams := g.streams.drop 1 })).dropMembers s.sel.1 k else s1 }

/-- A home `omerge` (R146). An output whose predicate fails is dropped and keeps its ordinal (log entry 51). -/
def omergeHome (f : FmtC) (s : State) (j : Nat) : Plan :=
  let c := s.sel.1
  match (s.selGroup f).streams with
  | [] => .wait
  | r :: _ =>
    if r.seen ≤ j ∨ (!r.ended ∧ r.seen ≤ j + 1) then .wait
    else
      let last := r.ended && r.seen == j + 1
      let out (h : Heads) (t : Token) : List (Target × Token) :=
        [(f.t0, h.passed t), (f.t1, madeCtl last (h.madeOrigin t))]
      if j % r.n = 0 then
        match s.heads f.pm true false false with
        | none => .wait
        | some h =>
          let x : Fire := { pops := h.slots, outs := if h.pass then out h (h.l.getD (ctlTok false)) else [] }
          .fire (omergeNext f s j last x)
      else
        let pa := returnIcb c (bitsOf f.imm 1 0) (j % r.n)
        let b := s.icbAt pa (pa + 64)
        match s.inboxHead b, s.heads f.pm false false false with
        | some (len, 1, bs), some h =>
          let x : Fire := { pops := h.slots, outs := if h.pass then out h (tokenOfBody s.onCtl bs) else []
                            extra := s.inboxBound c pa, post := fun st _ _ => st.inboxTake b len }
          .fire (omergeNext f s j last x)
        | some (len, 2, _), _ => .fire { post := fun st _ _ => st.inboxTake b len }
        | _, _ => .wait

/-- A replica's `omerge` (R146): each L token to the home return inbox, then an end-of-stream message. A token whose predicate
fails counts as taken and sends nothing (log entry 51). -/
def omergeReplica (f : FmtC) (s : State) (j : Nat) : Plan :=
  let c := s.sel.1
  let k := bitsOf f.imm 1 0
  let g := s.selGroup f
  let pa := returnIcb g.home k g.member
  match g.streams with
  | [] => .wait
  | r :: _ =>
    if r.ended ∧ r.seen ≤ j then
      sendPlan s [(pa, 2, .mark .eos)] { st := some .idle
                                         post := fun st _ _ => st.modGroup c k (fun g => { g with streams := g.streams.drop 1 }) }
    else match s.heads f.pm true false false with
      | none => .wait
      | some h =>
        sendPlan s (if h.pass then [(pa, 1, h.passed (h.l.getD (ctlTok false)))] else [])
          { pops := h.slots, st := some (.omerge (j + 1) false) }

/-- Reassembles a stream (R146). -/
def planOmerge (f : FmtC) (s : State) : Plan :=
  let g := s.selGroup f
  let (j, eos) := match s.selNode.st with
    | .omerge j e => (j, e)
    | _ => (0, false)
  if eos then .fire { outs := [(f.t0, .mark .eos)], st := some .idle }
  else if s.selNode.l.marker s.now = some .eos then
    omergeMarker s s.sel.1 j (match g.streams with
      | r :: _ => r.n
      | [] => 1) g.streams.head?
  else if g.member = 0 then omergeHome f s j else omergeReplica f s j

/-- OMERGE (R146). -/
def execOmerge (f : FmtC) (s : State) : Out := fireNode (planOmerge f) s

/-- Discards what reaches L; traps on poison under PTRAP (R148). -/
def planSink (f : FmtC) (s : State) : Plan :=
  if s.selNode.l.marker s.now = some .eos then .fire { pops := [0] }
  else match s.head 0 with
    | none => .wait
    | some t => match t.origin with
      | some o => .fire (if f.cf.getLsbD 0 then poisonFire [0] o 3 else { pops := [0] })
      | none => .fire { pops := [0] }

/-- SINK (R148). -/
def execSink (f : FmtC) (s : State) : Out := fireNode (planSink f) s

end Sys2Proof.Machine
end

