-- ==== Sys2Proof/Machine/BlockCtl.lean ====
section
/-!
DEFINITION. The block-control instructions, 0xE0 to 0xE7 (R196 to R201): the selection of an exit, and software traps.
-/

namespace Sys2Proof.Machine

open Sys2Proof

/-- The agent that fetches images: at the privilege of the running block, and unrestricted where the region has none, as before the
first block and after a dispatch (R56, R342; log entry 36); bound to what the ending block is bound to (R367). -/
def State.fetchSpace (s : State) (c : Nat) : Space :=
  { s.space c with
    priv := (s.taskOf c).supb || (s.region c).img.isNone, lag := s.lag, bound := s.finalBound (s.taskIdOf c) }

/-- Whether a block address hits the block cache of its cluster (R369). -/
def State.cached (s : State) (c : Nat) (blk : Word) : Option (Nat × Image) :=
  match s.xlateRaw (s.fetchSpace c) blk .fetch with
  | .error _ => none
  | .ok (pa, _) => ((s.cluster c).cache.find pa).map (fun im => (pa, im))

/-- Starts a load of the shadow (R212): from the cache the image is there eight cycles and its frames later; a miss adds the
fetch, which is not fixed (log entry 2). `usable` counts the cycles before the frames are added. -/
def State.startLoad (s : State) (c : Nat) (blk : Word) : State :=
  let lat := match s.cached c blk with
    | some _ => 0
    | none => 300
  (s.reached c .fetch).modRegion c (fun r => { r with shadow := some { blk := blk.toNat, usable := s.now + lat } })

/-- The address that a selected exit names (R198 to R200); none where it ends the task. -/
def Sel.successor (x : Sel) : Option Word :=
  match x.kind with
  | .exiti | .ret => if x.addr = 0 then none else some x.addr
  | _ => some x.addr

/-- Selects an exit (R197): the first firing, or the lower index of two in one cycle; a shadow that holds another block is
discarded and loaded again, as it always is for an indirect exit (R212). -/
def State.select (s : State) (c : Nat) (x : Sel) : State :=
  let r := s.region c
  let wins : Bool := match r.sel with
    | none => true
    | some y => y.cycle == x.cycle && decide (x.node < y.node)
  if !wins then s
  else
    let s1 := (s.modRegion c (fun r => { r with sel := some x })).modTaskOf c (fun t => { t with lexn := x.exn })
    let direct : Bool := match x.kind with
      | .exit | .call | .yield => true
      | _ => false
    let kept : Bool := direct && (match r.shadow with
      | some sh => sh.blk == x.addr.toNat
      | none => false)
    if kept then s1
    else match x.successor with
      | none => s1.modRegion c (fun r => { r with shadow := none })
      | some a => s1.startLoad c a

/-- The code of an exit kind, for an umpire's comparison (R391). -/
def ExitKind.code : ExitKind → Nat
  | .exit => 0 | .exiti => 1 | .call => 2 | .calli => 3 | .ret => 4 | .yield => 5

def ExitKind.ofCode : Nat → ExitKind
  | 0 => .exit | 1 => .exiti | 2 => .call | 3 => .calli | 4 => .ret | _ => .yield

/-- An exit-class firing (R197): of a mirrored task it goes to the umpire first (R391). -/
def State.exitFired (s : State) (c : Nat) (x : Sel) : State :=
  if !s.mirrored c then s.select c x
  else s.pushItem c x.node 3 s.now [BitVec.ofNat 64 x.kind.code, x.addr, BitVec.ofNat 64 x.exn]

/-- L is used by the indirect forms, and by a direct form that is not predicated (R196). -/
def exitLeft (kind : ExitKind) (pm : Pm) : Bool :=
  match kind with
  | .exiti | .calli | .ret => true
  | _ => pm == .always

/-- The operands of a block-control word (R196): L unless the form is direct and predicated. -/
def exitPlan (kind : ExitKind) (f : FmtB) (addr : State → Heads → Word) (s : State) : Plan :=
  routePlan f.pm (exitLeft kind f.pm) false false s (fun h => match h.origin with
    | some o => poisonFire h.slots o 1
    | none =>
      { pops := h.slots
        post := fun s' _ b =>
          (s'.modTaskOf s.sel.1 (fun t => { t with bound := union t.bound b })).exitFired s.sel.1
            { kind := kind, addr := addr s h, exn := f.exn.toNat, node := s.sel.2, cycle := s.now } })
/-- A block at a frame offset from the running block (R72). -/
def directAddr (f : FmtB) (s : State) (_ : Heads) : Word :=
  BitVec.ofNat 64 s.selRegion.blk + (f.off.signExtend 64) * 32

/-- The address on L, lane 0 (R196). -/
def indirectAddr (_ : State) (h : Heads) : Word :=
  match h.l with
  | some t => BitVec.ofNat 64 ((lanesOf .i64 t).headD 0)
  | none => 0

/-- Selects a successor at an offset (R198). -/
def planExit (f : FmtB) (s : State) : Plan := exitPlan .exit f (directAddr f) s

/-- EXIT (R198). -/
def execExit (f : FmtB) (s : State) : Out := fireNode (planExit f) s

/-- Selects the block on L, or the end of the task (R198). -/
def planExiti (f : FmtB) (s : State) : Plan := exitPlan .exiti f indirectAddr s

/-- EXITI (R198). -/
def execExiti (f : FmtB) (s : State) : Out := fireNode (planExiti f) s

/-- Selects a callee at an offset (R199). -/
def planCall (f : FmtB) (s : State) : Plan := exitPlan .call f (directAddr f) s

/-- CALL (R199). -/
def execCall (f : FmtB) (s : State) : Out := fireNode (planCall f) s

/-- Selects the callee on L (R199). -/
def planCalli (f : FmtB) (s : State) : Plan := exitPlan .calli f indirectAddr s

/-- CALLI (R199). -/
def execCalli (f : FmtB) (s : State) : Out := fireNode (planCalli f) s

/-- Selects the return address on L (R198). -/
def planRet (f : FmtB) (s : State) : Plan := exitPlan .ret f indirectAddr s

/-- RET (R198). -/
def execRet (f : FmtB) (s : State) : Out := fireNode (planRet f) s

/-- Selects the block at which the task resumes, and the release of the region (R200). -/
def planYield (f : FmtB) (s : State) : Plan := exitPlan .yield f (directAddr f) s

/-- YIELD (R200). -/
def execYield (f : FmtB) (s : State) : Out := fireNode (planYield f) s

/-- A software trap (R201): the record says so. -/
def softTrap (f : FmtT) (code sub : Nat) (s : State) : Plan :=
  routePlan f.pm (f.pm == .always) false false s (fun h => match h.origin with
    | some o => poisonFire h.slots o 1
    | none =>
      { pops := h.slots
        post := fun s' _ _ =>
          s'.raise s.sel.1 { s'.record s.sel.1 (srcNode s.sel.1 s.sel.2) code sub 0 0 0 with sw := true } })

/-- The trap of CODE[7:0] with subcode CODE[15:8] (R201). -/
def planTrap (f : FmtT) (s : State) : Plan := softTrap f (bitsOf f.code 7 0) (bitsOf f.code 15 8) s

/-- TRAP (R201). -/
def execTrap (f : FmtT) (s : State) : Out := fireNode (planTrap f) s

/-- T_BRK with the 16-bit code as its subcode (R201). -/
def planBrk (f : FmtT) (s : State) : Plan := softTrap f 0x11 f.code.toNat s

/-- BRK (R201). -/
def execBrk (f : FmtT) (s : State) : Out := fireNode (planBrk f) s

end Sys2Proof.Machine
end

