-- ==== Sys2Proof/Machine/Loader.lean ====
section
/-!
DEFINITION. The block loader: the fetch of an image (R56, R83) and its checks in the order of R78.
-/

namespace Sys2Proof.Machine

open Sys2Proof

/-! ## Failures -/

/-- The REASON code of a rejection (R80). -/
def reasonCode : Reject → Nat
  | .version => 1 | .counts => 2 | .headerReserved => 3 | .check => 4 | .misaligned => 5 | .opcode => 6 | .predicate => 7
  | .target => 8 | .consumer => 9 | .reserved => 0xA | .combination => 0xB | .phase => 0xC | .exits => 0xD | .readEntry => 0xE
  | .writeEntry => 0xF | .lutFrame => 0x10 | .privilege => 0x12

/-- A rejection: T_BADBLK, or T_PRIV for a privilege fault, with REASON and INDEX (R58, R79, R80). -/
def reject (r : Reject) (index : Nat) : LoadFail :=
  { code := if r == .privilege then 2 else 1, sub := reasonCode r * 256 + index }

/-- A fault of the fetch of a frame (R56). -/
def fetchFail (x : XFault) : LoadFail := { code := x.code, sub := x.sub, addr := x.addr, info := x.info }

/-- Fails unless a condition holds. -/
def must (ok : Bool) (r : Reject) (index : Nat) : Except LoadFail Unit := if ok then .ok () else .error (reject r index)

/-- Runs a check on every item of a list, with its number; the first failure stops it. -/
def eachOf {α : Type} (f : Nat → α → Except LoadFail Unit) : Nat → List α → Except LoadFail Unit
  | _, [] => .ok ()
  | k, x :: t => match f k x with
    | .error e => .error e
    | .ok _ => eachOf f (k + 1) t

/-- Takes every item of a list apart, with its number. -/
def mapOf {α β : Type} (f : Nat → α → Except LoadFail β) : Nat → List α → Except LoadFail (List β)
  | _, [] => .ok []
  | k, x :: t => match f k x with
    | .error e => .error e
    | .ok y => (mapOf f (k + 1) t).map (y :: ·)

/-- The least of two numbers that may be absent. -/
def leastOf (l : List Nat) : Option Nat :=
  l.foldl (fun m x => match m with
    | none => some x
    | some y => some (Nat.min x y)) none

/-! ## The fetch -/

/-- A frame read once, with execute permission, as the fetch is bound; a block image lies in HBM or drawer memory (R56, R83, R343,
R367). -/
def State.fetchFrame (s : State) (sp : Space) (a : Word) : Except LoadFail (List Byte) :=
  match s.areaRun sp a 32 .fetch with
  | .error x => .error (fetchFail x)
  | .ok pas => .ok (s.cutBytes (s.cuts sp.lag sp.bound true pas))

/-- Frames k to k + n - 1 of an image. -/
def State.fetchFrames (s : State) (sp : Space) (a : Word) : Nat → Nat → Except LoadFail (List Byte)
  | _, 0 => .ok []
  | k, n + 1 => match s.fetchFrame sp (a + BitVec.ofNat 64 (32 * k)) with
    | .error e => .error e
    | .ok bs => (s.fetchFrames sp a (k + 1) n).map (bs ++ ·)

/-! ## Targets -/

/-- The target fields of a word in order, each with whether the instruction drives it (R65). -/
def rawTargets (w : Word) : List (Bool × Nat) :=
  let op := bitsOf w 63 56
  let t0 := bitsOf w 53 44
  let t1 := bitsOf w 43 34
  if (Decode.opE op).isSome then [(true, t0)]
  else if (Decode.opB op).isSome || (Decode.opT op).isSome then [(false, t0), (false, t1)]
  else
    [(Decode.driven0 op, t0), (Decode.driven1 op, t1)] ++
      (if op = 0x81 then [(true, bitsOf w 9 0), (true, bitsOf w 19 10)] else [])

/-- The fields of a block that targets are held against. -/
structure Counts where
  nins : Nat
  nrd : Nat
  nwr : Nat
deriving DecidableEq, Repr

/-- A target code that is reserved or out of range (R64). -/
def targetBad (n : Counts) (v : Nat) : Bool :=
  match Target.ofCode v with
  | none => true
  | some (.left i) | some (.right i) | some (.pred i) => decide (n.nins ≤ i.toNat)
  | some (.write e) => decide (n.nwr ≤ e.toNat)
  | some (.gate e) => decide (n.nrd ≤ e.toNat)
  | some .none => false

/-- The gates that the driven targets of a word name. -/
def gatesOf (l : List (Bool × Nat)) : List Nat :=
  l.filterMap (fun x => if x.1 && 800 ≤ x.2 && x.2 < 832 then some (x.2 - 800) else none)

/-! ## Read and write entries -/

/-- The gate edges an entry of a mode must have (R60). -/
def gateNeed : RdMode → Nat
  | .gateDrop | .gateHold => 1
  | _ => 0

/-- The read entries, in order (R59, R60, R64): `gates` lists the entry of every gate edge. Within one entry MODE, register and
reserved bits come first, then the targets, then the gate edges and a repeated port, of which the later entry is named (log
entry 13). -/
def checkReads (n : Counts) (gates : List Nat) (raw : List Nat) : Except LoadFail (List ReadEntry) :=
  mapOf (fun e v =>
    let ts := [Image.nbits v 19 10, Image.nbits v 29 20]
    match Image.modeOf (Image.nbits v 9 7), Image.readEntry v with
    | none, _ => .error (reject .readEntry (192 + e))
    | _, .error .readEntry => .error (reject .readEntry (192 + e))
    | some m, x =>
      if ts.any (targetBad n) then .error (reject .target (192 + e))
      else if (gates.filter (· == e)).length != gateNeed m ||
          (112 ≤ Image.nbits v 6 0 && (raw.take e).any (fun u => Image.nbits u 6 0 == Image.nbits v 6 0)) then
        .error (reject .readEntry (192 + e))
      else match x with
        | .ok r => .ok r
        | .error k => .error (reject k (192 + e))) 0 raw

/-- The write entries, in order (R61); of two that name one register the later is named (log entry 13). -/
def checkWrites (reads : List ReadEntry) (raw : List Nat) : Except LoadFail (List WriteEntry) :=
  mapOf (fun e v =>
    let reg := Image.nbits v 6 0
    match Image.writeEntry v with
    | .error k => .error (reject k (224 + e))
    | .ok w =>
      if (reg != 0 && (raw.take e).any (fun u => Image.nbits u 6 0 == reg)) ||
          (112 ≤ reg && reads.any (fun r => r.reg.toNat == reg)) then .error (reject .writeEntry (224 + e))
      else .ok w) 0 raw

/-- Unused positions hold zero (R55, R80). -/
def checkPad (base : Nat) (used : Nat) (raw : List Nat) : Except LoadFail Unit :=
  eachOf (fun k v => must (v == 0) .writeEntry (base + used + k)) 0 (raw.drop used)

/-! ## LUT frames -/

/-- A descriptor as a LUT configuration. -/
def lutOfDesc (d : LutDesc) : Lut := { sel := d.sel, ffen := d.ffen, truth := d.truth }

/-- The valid descriptors of frame k (R62); none where a field of the frame is at fault. -/
def lutFrameOf (words : List Nat) (k : Nat) : Option (List LutDesc) :=
  let at_ (j : Nat) : Nat := words.getD (4 * k + j) 0
  match Image.lutDesc (at_ 0) (at_ 1), Image.lutDesc (at_ 2) (at_ 3) with
  | .ok (some a), .ok (some b) => some [a, b]
  | .ok (some a), .ok none => some [a]
  | _, _ => none

/-- The descriptors of the frames whose fields are in order, with their frames. -/
def lutsOf (words : List Nat) : List (Nat × LutDesc) :=
  (List.range (words.length / 4)).flatMap (fun k => ((lutFrameOf words k).getD []).map (fun d => (k, d)))

/-- LUTs that a LUT selects (R62). -/
def Lut.inputs (x : Lut) : List Nat :=
  x.sel.filterMap (fun c => if 0x40 ≤ c.toNat ∧ c.toNat < 0x80 then some (c.toNat - 0x40) else none)

/-- LUTs of a patch reached from a set of them through selections. -/
def lutReach (patch : Nat → Lut) : Nat → List Nat → List Nat
  | 0, l => l
  | fuel + 1, l => lutReach patch fuel ((l.flatMap (fun n => (patch n).inputs)).foldl NSet.insert l)

/-- A descriptor lies on a loop of its patch as it will stand, that passes no flip-flop (R62). -/
def onLutLoop (kept : Tbl Lut) (ds : List (Nat × LutDesc)) (d : LutDesc) : Bool :=
  let patch (n : Nat) : Lut :=
    match ds.find? (fun x => x.2.cell == d.cell && x.2.lut == n) with
    | some x => lutOfDesc x.2
    | none => kept.get {} (64 * d.cell + n)
  (lutReach patch 64 (patch d.lut).inputs).contains d.lut

/-- Two descriptors name one LUT. -/
def sameLut (x y : LutDesc) : Bool := x.cell == y.cell && x.lut == y.lut

/-- Frame k is in order (R62): its fields, a LUT that no descriptor before it names (of two that name one LUT the later is the
one at fault: log entry 13), no descriptor on a loop of the patch as it will stand. -/
def lutFrameOk (kept : Tbl Lut) (words : List Nat) (ds : List (Nat × LutDesc)) (k : Nat) : Bool :=
  match lutFrameOf words k with
  | none => false
  | some own =>
    !own.any (fun d => ds.any (fun y => y.1 < k && sameLut y.2 d)) &&
      (match own with
       | [a, b] => !sameLut a b
       | _ => true) && !own.any (onLutLoop kept ds)

/-- The LUT frames in frame order (R62, R78), merged with the configuration that the task keeps; of two that name one cell and LUT
the later frame is named (log entry 13). -/
def checkLuts (kept : Tbl Lut) (words : List Nat) : Except LoadFail (List (Nat × LutDesc)) := do
  let ds := lutsOf words
  eachOf (fun k (_ : Unit) => must (lutFrameOk kept words ds k) .lutFrame k) 0 (List.replicate (words.length / 4) ())
  return ds

/-! ## Instruction words -/

/-- A privileged instruction (R77). -/
def isPrivileged : Instr → Bool
  | .syswr _ | .tret _ | .tlbinv _ | .keyrev _ | .ctxsv _ | .ctxld _ | .cfgld _ | .linkq _ => true
  | .sysrd f => 0x100 ≤ f.sysno.toNat
  | _ => false

/-- A port that a command binds or frees (R185). -/
def portOfCmd : Instr → Option Nat
  | .sbind f | .sfree f => some (bitsOf f.flg 3 0)
  | _ => none

/-- One word, its fields in the order of R78; `ports` are those that the entries of the block name (R186). -/
def checkWord (n : Counts) (ports : List Nat) (priv : Bool) (i : Nat) (w : Word) : Except LoadFail Instr :=
  let op := bitsOf w 63 56
  if !Decode.known op then .error (reject .opcode i)
  else if bitsOf w 55 54 = 3 then .error (reject .predicate i)
  else match (rawTargets w).find? (fun x => if x.1 then targetBad n x.2 else x.2 != 0x3FF) with
    | some x => .error (reject (if x.1 then .target else .consumer) i)
    | none => match decode w with
      | .error k => .error (reject k i)
      | .ok ins =>
        if (portOfCmd ins).any ports.contains then .error (reject .combination i)
        else if !priv && isPrivileged ins then .error (reject .privilege i)
        else .ok ins

/-! ## Whole-block checks -/

/-- EXN of an exit-class instruction (R58). -/
def exnOf : Instr → Option Nat
  | .exit f | .exiti f | .call f | .calli f | .ret f | .yield f => some f.exn.toNat
  | _ => none

/-- The exit numbering (R58). -/
def checkExits (nex : Nat) (ins : List Instr) : Except LoadFail Unit :=
  let ex := ins.map exnOf
  match (List.range ex.length).find? (fun i => match ex.getD i none with
      | none => false
      | some k => decide (nex ≤ k) || (ex.take i).contains (some k)) with
  | some i => .error (reject .exits i)
  | none => must ((ex.filterMap id).length == nex) .exits 0

/-- The CE unit of an instruction and its phase (R18): 0 vector unit, 1 LUT patch, 2 dot block. -/
def unitOf (i : Instr) : Option (Nat × Nat) :=
  (i.aRule).map (fun x => (if i.opcode < 0x70 then 0 else if i.opcode < 0x78 then 1 else 2, x.1.ph.toNat))

/-- The phases (R19). -/
def checkPhases (ii : Nat) (ins : List Instr) : Except LoadFail Unit :=
  let us := ins.map unitOf
  match (List.range us.length).find? (fun i => match us.getD i none with
      | none => false
      | some u => decide (ii ≤ u.2) || (List.range us.length).any (fun j => j != i && j / 4 == i / 4 && us.getD j none == some u)) with
  | some i => .error (reject .phase i)
  | none => .ok ()

/-- INDEX of the producer of an edge (R79). -/
def Edge.index (e : Edge) : Nat := if e.src < 32 then 192 + e.src else e.src - 32

/-- An edge breaks a rule of R20 or R218: it shares its consumer, or its consumer does not use the slot. -/
def edgeBad (ins : List Instr) (es : List Edge) (e : Edge) : Bool :=
  decide (1 < (es.filter (fun x => x.tgt == e.tgt)).length) ||
    (match slotOf e.tgt with
     | none => false
     | some (i, slot) => match ins[i]? with
       | some x => !(usedSlots x).contains slot
       | none => true)

/-- A node that the loop of a `carry` with RA > 0 may hold (R232). -/
def runAheadOk (i : Instr) : Bool :=
  match i with
  | .fmac _ | .bqnt _ | .bdeq _ | .xsacc _ | .fsmst _ => false
  | .mov _ | .mov4 _ | .steer _ | .gate _ | .merge _ | .cand _ | .cor _ | .cnot _ | .cxor _ | .cdat _ | .sink _ => true
  | .invar f => f.cf.getLsbD 0
  | i => (i.mFmt).isSome || (match unitOf i with
    | some u => u.1 != 2
    | none => false)

/-- Operators through which a confirmed condition passes to a predicate (R138). -/
def predPass : Instr → Bool
  | .steer _ => true
  | i => condPass i

/-- A consumer is fed from T1 of carry c through those operators (R138, R232). -/
def confirmed (im : Image) (es : List Edge) (c : Nat) : Nat → Target → Bool
  | 0, _ => false
  | fuel + 1, t =>
    match producerOf es t with
    | none => false
    | some e =>
      if e.src = 32 + c then e.pos == 1
      else if e.src < 32 then false
      else match instrAt im (e.src - 32) with
        | none => false
        | some x => predPass x &&
            (confirmed im es c fuel (slotTarget (e.src - 32) 0) ||
              (usesRight x && confirmed im es c fuel (slotTarget (e.src - 32) 1)))

/-- A memory instruction that a run-ahead iteration must not perform (R232). -/
def needsCondition : Instr → Bool
  | .st _ | .stp _ | .stfe _ | .lnemp _ | .lnful _ | .amo _ | .cas _ | .rmw _ => true
  | .ldfe f => f.ord == 3
  | _ => false

/-- The nodes that break R232. -/
def loopFaults (im : Image) : List Nat :=
  let es := edgesOf im
  let loops := (carriesOf im).map (fun c => (c, loopOf im c))
  loops.flatMap (fun x =>
    let ra := match instrAt im x.1 with
      | some (.carry f) => bitsOf f.cf 1 0
      | _ => 0
    x.2.filter (fun n => match instrAt im n with
      | none => true
      | some i =>
        (match i with
         | .carry _ => true
         | _ => false) || loops.any (fun y => y.1 != x.1 && y.2.contains n) ||
        (decide (0 < ra) && (!runAheadOk i ||
          (needsCondition i && !(pmOfInstr i != .always && confirmed im es x.1 193 (slotTarget n 2)))))))

/-- The consumer rules (R20, R218, R232): the lowest index that offends any of them, then write entries that no edge reaches. -/
def checkConsumers (im : Image) (ins : List Instr) : Except LoadFail Unit := do
  let es := edgesOf im
  match leastOf ((es.filter (edgeBad ins es)).map Edge.index ++ loopFaults im) with
  | some k => throw (reject .consumer k)
  | none => pure ()
  eachOf (fun e (_ : WriteEntry) => must (es.any (fun x => x.tgt == .write (BitVec.ofNat 5 e))) .writeEntry (224 + e)) 0 im.writes

/-! ## An image -/

/-- Little-endian numbers of n bytes each. -/
def pieces (n : Nat) (bs : List Byte) : List Nat := (Image.chunks n (bs.length / n) bs).map leVal

/-- Every check after the fetch (R78): of image bytes, for a task granted supervisor level or not, that keeps LUTs. R78 leaves open which
words give gate edges before the words have been checked, and where unused positions are checked: the model's choices are those of log
entry 13. -/
def checkImage (bs : List Byte) (grant : Bool) (kept : Tbl Lut) : Except LoadFail Image := do
  let h := leVal (bs.take 32)
  let (nins, nrd, nwr, nlf) := Image.counts h
  let n : Counts := { nins := nins, nrd := nrd, nwr := nwr }
  let priv := h.testBit 65
  must (Image.crc32c (Image.withoutCheck bs) == Image.nbits h 159 128) .check 0
  must (Image.headerClean h) .headerReserved 0
  must (!priv || grant) .privilege 0
  let fr := (nrd + 7) / 8
  let fw := (nwr + 7) / 8
  let part (f k : Nat) : List Byte := (bs.drop (32 * f)).take (32 * k)
  let rraw := pieces 4 (part 1 fr)
  let wraw := pieces 4 (part (1 + fr) fw)
  let words := pieces 8 (part (1 + fr + fw + nlf) ((nins + 3) / 4))
  let code : List Word := (words.take nins).map (BitVec.ofNat 64)
  let gates := gatesOf ((rraw.take nrd).flatMap (fun v => [(true, Image.nbits v 19 10), (true, Image.nbits v 29 20)]) ++
    code.flatMap rawTargets)
  let reads ← checkReads n gates (rraw.take nrd)
  checkPad 192 nrd rraw
  let writes ← checkWrites reads (wraw.take nwr)
  checkPad 224 nwr wraw
  let luts ← checkLuts kept (pieces 8 (part (1 + fr + fw) nlf))
  let ports := (reads.map (·.reg.toNat) ++ writes.map (·.reg.toNat)).filterMap (fun r => if 112 ≤ r then some (r - 112) else none)
  let ins ← mapOf (checkWord n ports priv) 0 code
  checkPad 0 nins words
  let im : Image :=
    { nins := nins, nrd := nrd, nwr := nwr, ii := Image.nbits h 29 28 + 1, nex := Image.nbits h 32 30 + 1
      smask := BitVec.ofNat 32 (Image.nbits h 64 33), priv := priv, rpt := h.testBit 66, strict := h.testBit 67
      save := Image.nbits h 71 68, nlf := nlf, reads := reads, writes := writes, luts := luts, words := code }
  checkExits im.nex ins
  checkPhases im.ii ins
  checkConsumers im ins
  return im

/-- Frames of an image (R55). -/
def Image.size (im : Image) : Nat := Image.frames im.nins im.nrd im.nwr im.nlf

/-- The runs of an image that its header frame tells of: all its frames, or the header alone (R55, R83). -/
def State.imageRuns (s : State) (sp : Space) (a : Word) : List (Word × Nat) :=
  match s.fetchFrame sp a with
  | .error _ => [(a, 32)]
  | .ok h0 =>
    let h := leVal h0
    let (nins, nrd, nwr, nlf) := Image.counts h
    if Image.nbits h 7 0 = 1 ∧ 1 ≤ nins ∧ nins ≤ 192 ∧ nrd ≤ 32 ∧ nwr ≤ 32 then
      (List.range (Image.frames nins nrd nwr nlf)).map (fun k => (a + BitVec.ofNat 64 (32 * k), 32))
    else [(a, 32)]

/-- A load (R56, R78, R83): fetched frame by frame, then checked. -/
def State.load (s : State) (sp : Space) (blk : Nat) (grant : Bool) (kept : Tbl Lut) : Except LoadFail Image := do
  must (blk % 32 == 0) .misaligned 0
  let a : Word := BitVec.ofNat 64 blk
  let h0 ← s.fetchFrame sp a
  let h := leVal h0
  must (Image.nbits h 7 0 == 1) .version 0
  let (nins, nrd, nwr, nlf) := Image.counts h
  must (1 ≤ nins && nins ≤ 192 && nrd ≤ 32 && nwr ≤ 32) .counts 0
  let rest ← s.fetchFrames sp a 1 (Image.frames nins nrd nwr nlf - 1)
  checkImage (h0 ++ rest) grant kept

end Sys2Proof.Machine
end

