-- ==== Sys2Proof/Machine/Sched.lean ====
section
/-!
DEFINITION. Tasks and what the scheduler does with them: age (R306), benches and pools (R322 to R324), virtual regions (R319),
creation (R309, R314, R330), the departure of a task from a region and its save (R333, R334), and its end (R316, R317).
-/

namespace Sys2Proof.Machine

open Sys2Proof

/-! ## Order and places -/

/-- Task x is older than task y (R306). -/
def Task.older (x y : Task) : Bool := x.age < y.age || (x.age == y.age && x.srcn < y.srcn)

/-- The clusters of a near die. -/
def dieClusters (d : Nat) : List Nat := (List.range 16).map (16 * d + ·)

/-- The place of a cluster among the stops of its die (R277). -/
def stopOf (c : Nat) : Nat :=
  let r := c % 16 / 4
  4 * r + (if r % 2 = 0 then c % 4 else 3 - c % 4)

/-- The other clusters of a die in order of ring distance, the downstream stop first on a tie (R322). -/
def ringOrder (c : Nat) : List Nat :=
  let m := stopOf c
  (List.range 15).flatMap (fun k =>
    (dieClusters (c / 16)).filter (fun x => stopOf x == m + k + 1) ++
    (dieClusters (c / 16)).filter (fun x => stopOf x + k + 1 == m))

/-- A cluster whose region holds no task and waits for none (R322). -/
def State.idle (s : State) (c : Nat) : Bool :=
  (s.cluster c).task.isNone && (s.cluster c).favour.isNone && (s.cluster c).freeAt ≤ s.now

/-- Idle clusters of a die. -/
def State.idleOn (s : State) (d : Nat) : Nat := ((dieClusters d).filter s.idle).length

/-- The die with the most idle clusters among those that a mask allows, the lowest on a tie; a mask of 0 allows any (R319). -/
def State.chooseDie (s : State) (mask : Nat) : Nat :=
  let ok := (List.range 4).filter (fun d => mask = 0 || mask.testBit d)
  ok.foldl (fun best d => if s.idleOn best < s.idleOn d then d else best) (ok.headD 0)

/-- The agent of the hub in a job's address space: it has no TLB (log entry 22). -/
def Job.space (j : Job) : Space := { task := 0, clus := 64, root := j.root, asid := j.asid, priv := true }

/-! ## The relocation table -/

/-- An entry of the relocation table (R319). -/
def VReg.word (v : VReg) : Nat :=
  v.die + 4 * v.valid.toNat + 8 * v.bound.isSome.toNat + 16 * ((v.bound.getD 0) % 16)

/-- A write by the hub or a sequencer that is dropped when it faults, which JQ_STAT shows (R315, R317, R319). -/
def State.hubWrite (s : State) (sp : Space) (a : Word) (bs : List Byte) (rel : Option Release) (jobno : Nat) : State :=
  let s1 := s.walked sp a bs.length .write
  match s.xlateSpan sp a bs.length .write with
  | .error _ => (s1.modHub (fun h => { h with recErr := true, recJob := jobno })).touch 0x105 0 11
  | .ok pas => (s1.storeAll (pas.zipWith (fun pa b => { addr := pa, val := b }) bs) false rel).hubAsk pas

/-- Changes a virtual region of a job, in the live table and its copy in memory (R319). -/
def State.setVreg (s : State) (j v : Nat) (x : VReg) : State :=
  let s1 := s.modJob j (fun y => { y with vregs := y.vregs.set v x })
  let y := s1.job j
  s1.hubWrite y.space (y.reloc + BitVec.ofNat 64 (8 * v)) (leBytes 8 x.word) none y.no

/-- The task of a virtual region takes or leaves a region (R319, R316). -/
def State.bindVreg (s : State) (t : Nat) (c : Option Nat) : State :=
  let x := s.task t
  match x.vreg with
  | none => s
  | some v => if x.isTwin then s else s.setVreg x.job v { (s.job x.job).vregs.get {} v with bound := c }

/-! ## Benches and pools -/

def benchSize : Nat := 64
def poolSize : Nat := 4096

/-- The pool of a die. -/
def State.pool (s : State) (d : Nat) : List Nat := s.hub.pools.get [] d

def State.setPool (s : State) (d : Nat) (l : List Nat) : State := s.modHub (fun h => { h with pools := h.pools.set d l })

/-- Puts a ready task into its die's pool (R314). -/
def State.toPool (s : State) (t : Nat) : State :=
  let d := (s.task t).die
  (s.setPool d (s.pool d ++ [t])).modTask t (fun x => { x with place := .pool d, wait := s.now })

/-- Puts a task on a bench, at its head or tail, or into the pool if the bench is full or the task is one of a gang (R313,
R324). -/
def State.toBench (s : State) (t c : Nat) (head : Bool) : State :=
  if benchSize ≤ (s.cluster c).bench.length ∨ (s.task t).gang ≠ 0 ∨ (s.task t).twin.isSome ∨ (s.task t).repl then s.toPool t
  else
    (s.modCluster c (fun k => { k with bench := if head then t :: k.bench else k.bench ++ [t] })).modTask t
      (fun x => { x with place := .bench c, wait := s.now })

/-- Takes a task off its bench or out of its pool. -/
def State.unqueue (s : State) (t : Nat) : State :=
  match (s.task t).place with
  | .bench c => s.modCluster c (fun k => { k with bench := k.bench.filter (· != t) })
  | .pool d => s.setPool d ((s.pool d).filter (· != t))
  | _ => s

/-- A task waits on a bench or in a pool. -/
def Task.queued (t : Task) : Bool :=
  match t.place with
  | .bench _ | .pool _ => true
  | _ => false

/-! ## Creation -/

/-- A task that is not of a card, kicked or granted at `age` (R314, R330): its job gains a live task. -/
def State.addTask (s : State) (key : Nat) (x : Task) : State :=
  (s.setTask key x).modJob x.job (fun j => { j with live := j.live + 1, serial := j.serial + 1 })

/-- The TASK_ID of a job's next task (R307). -/
def Job.nextId (j : Job) : Nat := j.serial + j.no * 2 ^ 32

/-- What a task takes from its job (R307, R321). -/
def Task.ofJob (t : Task) (j : Job) : Task :=
  { t with job := j.no, semn := j.semn, sbase := j.sbase, sclus := j.sclus, reloc := j.reloc }

/-! ## Leaving a region -/

/-- The CSA and BSA of a task (R333, R390). -/
def State.csaOf (s : State) (t : Nat) : Word := csaAt (s.job (s.task t).job) (s.task t).slot
def State.bsaOf (s : State) (t : Nat) : Word := bsaAt (s.job (s.task t).job) (s.task t).slot

/-- A boarding at work on its window: its tile claims and its wait are behind it, its signal is not due. -/
def Cmd.boards (k : Cmd) : Bool := k.step == 5 && (match k.ins with
  | .board _ => true
  | _ => false)

/-- Commands that are saved with a task: those up to step 4, and boardings whose window is not open, which go back to step 4
(R183, R184, R294); a command that a trap holds is saved at its step. -/
def State.savedCmds (s : State) (c t : Nat) : List Cmd :=
  (s.cluster c).eq.filterMap (fun k =>
    if k.task != t || k.dead then none
    else if k.boards then some { k with step := 4 }
    else if k.step ≤ 4 || k.stopped then some k
    else none)

/-- No command past step 4 is at work, but for those that a trap holds and for boardings whose window is not open, and no window
is open (R183, R184, R294). -/
def State.enginesQuiet (s : State) (c t : Nat) : Bool :=
  (s.cluster c).eq.all (fun k => k.task != t || k.step ≤ 4 || k.stopped || k.boards) &&
    (s.cluster c).windows.all (fun w => w.task != t || !w.open_)

/-- Cancels the windows of the task of region c that are not open, as a pre-emption or departure begins to wait (R184, R294); each
command registers afresh on resume. -/
def State.cancelWaiting (s : State) (c : Nat) : State :=
  let t := s.taskIdOf c
  s.modCluster c (fun k => { k with windows := k.windows.filter (fun w => w.task != t || w.open_) })

/-- The cycle at whose end a region froze; now, where it is not frozen. -/
def Region.frozeTime (r : Region) (now : Nat) : Nat :=
  match r.frozen, r.stoppedBy with
  | some x, _ => x.stamp
  | none, some t => t
  | none, none => now

/-- The context of the task that holds region c as it is saved (R305): at a boundary it goes on at `resume`, bound to what its
nodes were bound to (R264, R272); in mid-block the region goes with it. One that the region has still to restore stays as it was saved
before (R208). -/
def State.context (s : State) (c : Nat) (mid : Bool) (resume : Nat) : Task :=
  let r := s.region c
  let t := s.taskOf c
  if r.restoring.isSome then { t with charged := t.charged ++ r.held, redo := r.restoring }
  else { t with
    ports := t.ports.mapV (fun k p => { p.saved with fault := match r.frozen with
      | some x => p.afterTrap k x
      | none => p.fault })
    bound := if mid then t.bound else s.finalBound (s.taskIdOf c)
    cmds := s.savedCmds c (s.taskIdOf c), modc := r.modc, resume := resume
    evwaits := if mid then [] else r.sysops.filter SysOp.waits
    snap := if mid then some { r with frozen := none, stoppedBy := none, frozeAt := r.frozeTime s.now } else none
    charged := t.charged ++ r.held, started := true }

/-- The region of a cluster given up by its task: the engine queue keeps only what goes on without it. -/
def State.vacate (s : State) (c : Nat) : State :=
  let t := s.taskIdOf c
  (s.modCluster c (fun k => { k with
    task := none, region := {}, freeAt := s.now, asks := [], wake := 0
    eq := k.eq.filter (fun q => q.task != t || q.dead)
    windows := k.windows.filter (fun w => w.task != t)
    copies := k.copies.filter (fun w => w.task != t)
    lastJob := some (s.task t).job, lastTask := some t })).bindVreg t none

/-- Saves the task of region c into its areas and gives the region up (R326, R333, R334), once the areas are at hand; a fault
raises T_XLATE 0x0C or the fault of the walk, and the task stays (R333). -/
def State.depart (s : State) (c kind : Nat) (why : Option TrapRec) (x : Task) (csa : Word) (place : Task → State → State) : State :=
  let t := s.taskIdOf c
  match s.saveAreas { s.space c with priv := true } x c kind why csa (s.bsaOf t) with
  | .wait s1 => s1
  | .fault s1 f => (s1.modRegion c (fun r => { r with stoppedBy := none })).raise c (s1.seqFault c f)
  | .done s1 _ => place x ((s1.setTask t x).vacate c)
  | .poison s1 => s1

/-! ## The end of a task -/

/-- Adds a set to what every task that waits for t starts bound to, and makes ready those that wait for nothing else (R272,
R312, R316). -/
def State.release (s : State) (t : Nat) (bound : List Nat) : State :=
  let waiting := s.tasks.filter (fun x => x.2.place == .waiting && x.2.deps.contains t)
  waiting.foldl (fun st x =>
    let st1 := st.modTask x.1 (fun y => { y with deps := y.deps.filter (· != t), bound := union y.bound bound })
    if (st1.task x.1).deps.isEmpty then st1.toPool x.1 else st1) s

/-- Tasks that depend on t, directly or in turn (R312). -/
def State.dependents (s : State) (t : Nat) : Nat → List Nat → List Nat
  | 0, l => l
  | n + 1, l =>
    let more := (s.tasks.filter (fun x => x.2.place == .waiting && !l.contains x.1 &&
      x.2.deps.any (fun d => d == t || l.contains d))).map (·.1)
    if more.isEmpty then l else s.dependents t n (l ++ more)

/-- A signal given when launched work ends (R193): a failure is charged to the issuing task, live or ended. -/
def State.onEndSignal (s : State) (e : OnEnd) (bound : List Nat) : State :=
  let x := s.sems.get {} e.sem
  let t := s.task e.task
  if x.val + e.inc ≤ semMax then (s.addSem e.sem e.inc bound).postJob t.job 1
  else
    let rec0 (c : Nat) : TrapRec :=
      { s.record c (srcNode c e.node) 9 2 (BitVec.ofNat 64 ((e.sem + 256 - t.sbase) % 256)) (BitVec.ofNat 64 (x.val + e.inc)) 0 with
        task := e.task, held := true }
    match t.place with
    | .region c => s.raise c { rec0 c with held := (s.region c).frozen.isSome }
    | .ended => s.modHub (fun h => { h with records := h.records ++ [
        { rec0 0 with src := srcUnit 0, step := 0, pclus := 0, block := 0, held := false }] })
    | _ => s.modTask e.task (fun y => { y with charged := y.charged ++ [rec0 0] })

/-- The completion record of a job (R317). -/
def recordBytes (kill bad : Bool) (reason nended no tend : Nat) : List Byte :=
  leBytes 8 (1 + 2 * kill.toNat + 4 * bad.toNat + 256 * reason + 65536 * nended + no * 2 ^ 48) ++ leBytes 8 tend

/-- Sends an MSI-X vector to the host; vector 0 is none. -/
def State.msiX (s : State) (v : Nat) : State := if v = 0 then s else s.modHub (fun h => { h with msix := h.msix ++ [v] })

/-- The end of a job whose tasks have all ended (R317). -/
def State.jobEnd (s : State) (n : Nat) : State :=
  let j := s.job n
  let s1 := if j.done = 0 then s
    else s.hubWrite j.space j.done (recordBytes j.kill false 0 j.nended j.no s.now)
      (some { by_ := 64, scope := 3, bound := j.bound }) j.no
  let s2 := j.onend.foldl (fun st e => st.onEndSignal e j.bound) (s1.msiX j.vec)
  s2.modHub (fun h => { h with jobs := h.jobs.drop n })

/-- One task counts as ended (R316, R317). -/
def State.countEnd (s : State) (t : Nat) (bound : List Nat) : State :=
  let x := s.task t
  let s1 := x.onend.foldl (fun st e => st.onEndSignal e bound) (s.modTask t (fun y => { y with place := .ended, ports := [], snap := none }))
  if x.isTwin then s1
  else
    let s2 := s1.modJob x.job (fun j => { j with live := j.live - 1, nended := j.nended + 1, bound := union j.bound bound })
    if (s2.job x.job).live = 0 then s2.jobEnd x.job else s2

/-- A cancelled task (R312): it never runs. -/
def State.cancel (s : State) (t : Nat) : State :=
  (s.modJob (s.task t).job (fun j => { j with kill := true })).countEnd t []

/-- What the end of a task deposits: its final bound set and all of its writes (R272). -/
def State.deposit (s : State) (t : Nat) : List Nat := union (s.finalBound t) (s.task t).wrote

/-- The stores of a task have performed and its commands and windows are done (R272, R316). -/
def State.quiet (s : State) (t : Nat) : Bool :=
  (match (s.task t).place with
   | .region c => (s.region c).accesses.isEmpty && (s.region c).sysops.all SysOp.waits
   | _ => true) &&
  s.clusters.all (fun k => k.2.eq.all (fun q => q.task != t) && k.2.windows.all (fun w => w.task != t))

/-- The end of a task (R316): its region, virtual region and context are given up, its replicas end, and the tasks that wait
for it are looked at again; those that depend on a killed task are cancelled (R312, R330). -/
def State.endTask (s : State) (t : Nat) : State :=
  let x := s.task t
  let b := s.deposit t
  let s1 := (match x.place with
    | .region c => s.vacate c
    | _ => s.unqueue t).modTask t (fun y => { y with bound := b })
  let reps := x.groups.flatMap (fun g => if g.2.member = 0 then g.2.tasks else [])
  let s2 := reps.foldl State.endReplica s1
  let s3 := s2.modHub (fun h => { h with handlers := h.handlers.filter (fun y => y.task != t) })
  let gone := s3.dependents t 64 []
  let s4 := if x.handler.isSome then s3.modTask t (fun y => { y with place := .ended })
    else s3.countEnd t b
  if x.killed then gone.foldl State.cancel s4 else s4.release t b

/-- The hub reaches what it has to write at the end of a task: the semaphores of the signals for it, and those and the completion
record of its job, if it is the last of it (R193, R317, R399). -/
def State.endOpen (s : State) (t : Nat) : Bool :=
  let x := s.task t
  let j := s.job x.job
  let last : Bool := x.handler.isNone && !x.isTwin && j.live ≤ 1
  (x.onend ++ (if last then j.onend else [])).all (fun e => s.clusOpen 64 (e.sem / 256)) &&
    (!last || j.done == 0 || s.hubReady j.space j.done 16 .write)

/-- TASK_END (R316). -/
def execTaskEnd (t : Nat) (s : State) : Out :=
  .next (if (s.task t).ending && (s.task t).place != .ended && s.quiet t && s.endOpen t then s.endTask t else s)

end Sys2Proof.Machine
end

