-- ==== Sys2Proof/Machine/Place.lean ====
section
/-!
DEFINITION. A task placed into a region (R322, R334): at its first dispatch, and with its context restored.
-/

namespace Sys2Proof.Machine

open Sys2Proof

/-- A region that waits to start a block: the boundary goes on from step 9 (R213; at a first dispatch, log entry 30). -/
def freshRegion (modc now : Nat) (held : List TrapRec) : Region := { modc := modc, step := 9, until_ := now, held := held }

/-- A region at a block boundary, its successor loading; the waits of its task go on (R211, R305). -/
def State.startAt (s : State) (c modc blk : Nat) (held : List TrapRec) : State :=
  ((s.modRegion c (fun _ => { freshRegion modc s.now held with sysops := (s.taskOf c).evwaits })).modTaskOf c (fun t =>
    { t with evwaits := [] })).startLoad c (BitVec.ofNat 64 blk)

/-- The commands of a context re-enter the engine queue, each with a new place among the waiters (R183, R184). -/
def State.requeue (s : State) (c : Nat) : List Cmd → State
  | [] => s
  | k :: rest =>
    (({ s with arrivals := s.arrivals + 1 }).modCluster c (fun x => { x with eq := x.eq ++ [{ k with arrived := s.arrivals + 1, stopped := false }] })).requeue c rest

/-- Requests in favour of a task lapse as it is dispatched elsewhere than to the region that was freed for it (R325). -/
def State.lapse (s : State) (t c : Nat) : State :=
  if (s.cluster c).favour == some t then s
  else { s with clusters := s.clusters.mapV (fun _ k => { k with asks := k.asks.filter (fun a => a.task != t) }) }

/-- The cluster takes a task; it acts from `delay` cycles on, and a power-gated one 2,000 cycles later (R322, R405). -/
def State.seize (s : State) (t c delay : Nat) : State :=
  let wait := delay + (if (s.cluster c).gated then 2000 else 0)
  ((((s.lapse t c).unqueue t).modTask t (fun y => { y with place := .region c, eprio := if y.handler.isSome then 4 else y.prio })).modCluster c (fun k =>
    { k with task := some t, favour := none, asks := [], gated := false, wake := s.now + wait })).bindVreg t (some c)

/-- Another job than the task's used the cluster last (R334). -/
def State.foreignTo (s : State) (t c : Nat) : Bool :=
  match (s.cluster c).lastJob with
  | none => false
  | some j => j != (s.task t).job

/-- The first dispatch of a task (R29, R63, R235, R268, R334): its lines empty, slices that another job used cleared; MODC reads
0 in its first cycle. -/
def State.firstRun (s : State) (t c : Nat) : State :=
  let s1 := s.emptyLines c
  let s2 := if s.foreignTo t c then s1.clearAbove c 0 else s1
  (s2.modTask t (fun x => { x.bindTo (newWrites s s2) with started := true })).startAt c 11 (s.task t).entry.toNat []

/-- Slices at or above LIM after a dispatch onto a cluster that another job used last (R334). -/
def State.cleanSlices (s : State) (t c : Nat) : State :=
  if s.foreignTo t c then s.clearAbove c (s.task t).lim else s

/-- A restored task goes on (R34, R334): in mid-block from its snapshot, whose cycle numbers move on; else at its block. -/
def State.resumeAt (s : State) (t c : Nat) (y : Task) : State :=
  let s1 := (s.setTask t { y with snap := none, cmds := [], charged := [], place := .region c
                                  eprio := (s.task t).eprio }).requeue c y.cmds
  let s2 := match y.snap with
    | some sn => s1.setRegion c { sn.shift (Nat.max (s.cluster c).wake s.now - 1 - sn.frozeAt) with
        frozen := none, stoppedBy := none, held := y.charged, modc := y.modc }
    | none => s1.startAt c y.modc y.resume y.charged
  if y.charged.isEmpty then s2 else s2.raiseHeld c

/-- The context of a task restored into region c (R334), bound to what its cluster was cleaned with (R268), its trap registers those of
a trap of the restore (R374); an image in which an error stands raises T_MEMERR 0x02 (R389), an access that faults its own trap, after
which resume tries again. -/
def State.restoreFrom (s : State) (t c : Nat) (x : Restoring) : State :=
  match s.loadAreas { s.space c with priv := true } (s.task t) c x.csa x.bsa with
  | .wait s1 => s1.toRestore c x
  | .fault s1 f => s1.restoreTrap c x (fun st => st.seqFault c f)
  | .poison s1 => s1.restoreTrap c x (fun st => st.record c (srcSeq c) 6 2 8 0 0)
  | .done s1 y =>
    let z := y.bindTo x.wrote
    s1.resumeAt t c (if x.trapped then { z with tcause := (s.task t).tcause, tinfo := (s.task t).tinfo, tpos := (s.task t).tpos } else z)

/-- A restore begins: its cluster is cleaned first (R334). -/
def State.restore (s : State) (t c : Nat) (csa bsa : Word) : State :=
  let s0 := s.cleanSlices t c
  s0.restoreFrom t c { csa := csa, bsa := bsa, wrote := newWrites s s0 }

/-- A restore that region c has still to make goes on (R334, R388). -/
def State.restoreOn (s : State) (c : Nat) : State :=
  match (s.region c).restoring with
  | none => s
  | some x => if x.point then s.rollPoint c else s.restoreFrom (s.taskIdOf c) c x

/-- A task takes a region (R322): at its first dispatch or restored from its save areas. -/
def State.install (s : State) (t c delay : Nat) : State :=
  let s1 := s.seize t c delay
  if (s.task t).started then s1.restore t c (s.csaOf t) (s.bsaOf t) else s1.firstRun t c

end Sys2Proof.Machine
end

