-- ==== Sys2Proof/Machine/Mirror.lean ====
section
/-!
DEFINITION. Mirrored tasks (R390 to R392): the twin of a task, and what a mismatch does.
-/

namespace Sys2Proof.Machine

open Sys2Proof

/-- What a mismatch of an item of node or entry `item` of home region c does (R392): the first since the recovery point rolls both
copies back if a rollback is allowed; any other raises T_MIRROR. A fetch of port k, whose items count under 256 + k, has no node. -/
def State.mismatch (s : State) (c item ord : Nat) : State :=
  let t := s.taskOf c
  let node := Nat.min item 255
  let trap (sub : Nat) : State :=
    s.raise c (s.record c (srcNode c node) 0xD sub (BitVec.ofNat 64 node) (BitVec.ofNat 64 ord) 0)
  if t.mismatched then trap 1
  else if !t.mayRoll then trap 2
  else (s.rollback c).modTaskOf c (fun x => { x with mismatched := true })

/-- Changes the task of a command, and its twin where the command performs for both (R391). -/
def State.modBoth (s : State) (q : Cmd) (f : Task → Task) : State :=
  let s1 := s.modTask q.task f
  match q.mate, (s.task q.task).twin with
  | some _, some t => s1.modTask t f
  | _, _ => s1

/-- A command performs what no rollback takes back (R387). -/
def State.cmdIrrevoke (s : State) (q : Cmd) : State := s.modBoth q (fun t => { t with irrev := true })

/-- Bytes that a command of region c writes: those to slices of its own cluster go to the twin's cluster as well (R391). -/
def State.bothCopies (s : State) (c : Nat) (q : Cmd) (bs : List PByte) : List PByte :=
  match q.mate, s.twinCluster c with
  | some _, some c' => bs ++ (bs.filter (fun b => isSram b.addr && sramClus b.addr == c)).map
      (fun b => { b with addr := sliceAddr c' (sramCell b.addr) (sramOff b.addr) })
  | _, _ => bs

end Sys2Proof.Machine
end

