-- ==== Sys2Proof/Machine/Engine.lean ====
section
/-!
DEFINITION. The engine commands, 0xC0 to 0xCD (R179 to R195): the firing that puts a command into the engine queue of its
cluster. What the command then does stands in EngineOps.lean and EngineEvents.lean.
-/

namespace Sys2Proof.Machine

open Sys2Proof

/-- The fields of an engine command. -/
def cmdFmt (i : Instr) : FmtE :=
  (i.eFmt).getD { pm := .always, t0 := .none, flg := 0, wsem := 0xFF, wthr := 0, ssem := 0xFF, sinc := 0 }

/-- A command moves a tile that its descriptor names, so it passes step 3 (R178, R185). -/
def usesTile (i : Instr) : Bool :=
  match i with
  | .tcopy f => f.flg.getLsbD 0 || f.flg.getLsbD 1
  | .tgath f | .tscat f => f.flg.getLsbD 0
  | _ => false

/-- The first step that a command waits at (R180): 2 the semaphore, 3 its tiles, 4 its descriptor. -/
def firstStep (i : Instr) : Nat := if (cmdFmt i).wsem != 0xFF then 2 else if usesTile i then 3 else 4

/-- A command whose descriptor names a result register (R183). -/
def namesRreg (i : Instr) : Bool :=
  match i with
  | .kick f => !f.flg.getLsbD 0
  | .repl _ => true
  | _ => false

/-- The record of a descriptor read from a poisoned sector (R180, R384), with the cause of its poison, which an engine has met (R30,
R31). -/
def State.descRecord (s : State) (c node : Nat) (pas : List Nat) : TrapRec :=
  s.record c (srcNode c node) 5 0 ((originOf c 255 (if pas.any s.damaged then 1 else 2) s.now).setWidth 64) (BitVec.ofNat 64 node) 2

/-- The place of the RREG byte that a firing reads (R183), bound as the command is, or the fault of its translation; none where it
reads none, a misaligned descriptor being found at step 4. -/
def State.rregPlace (s : State) (c : Nat) (i : Instr) (l : Word) (bound : List Nat) : Option (Except XFault Nat) :=
  if !namesRreg i || l.toNat % 32 != 0 then none
  else some ((s.xlate { s.space c with lag := s.lag, bound := bound } (l + 12) .desc).map (·.1))

/-- The RREG byte read in the firing cycle (R183): a register 1 to 111, or none; or the fault that step 4 raises. A byte of 112 to
255, for which the manual gives no register, is taken for none (log entry 59). -/
def State.earlyRreg (s : State) (c node : Nat) (i : Instr) (l : Word) (bound : List Nat) : Except TrapRec (Option Nat) :=
  match s.rregPlace c i l bound with
  | none => .ok none
  | some (.error x) => .error (s.faultRecord c node x 0)
  | some (.ok pa) =>
    let cut := s.cutOf s.lag bound true [pa] pa
    let r := (s.byteAt cut pa).toNat
    if s.markAt cut pa then .error (s.descRecord c node [pa]) else .ok (if r = 0 || 112 ≤ r then none else some r)

/-- What the early read binds the command to (R262, R270). -/
def State.rregBound (s : State) (c : Nat) (i : Instr) (l : Word) (bound : List Nat) : List Nat :=
  match s.rregPlace c i l bound with
  | some (.ok pa) => union bound (s.readSet (s.cutOf s.lag bound true [pa] pa) pa)
  | _ => bound

/-- The modules on the way to the RREG byte, and to the tables that translate its address, carry traffic; else the firing waits (R210,
R399). -/
def State.rregOpen (s : State) (c : Nat) (i : Instr) (l : Word) (bound : List Nat) : Bool :=
  match s.rregPlace c i l bound with
  | none => true
  | some x => s.walkOpen { s.space c with lag := s.lag, bound := bound } (l + 12) 1 && (match x with
      | .ok pa => s.pathOpen c pa
      | .error _ => true)

/-- What the early read leaves behind: its translation, and marks of the errors that it has found (R344, R382). -/
def State.rregRead (s : State) (c : Nat) (i : Instr) (l : Word) (bound : List Nat) : State :=
  match s.rregPlace c i l bound with
  | none => s
  | some x =>
    let s1 := s.walked1 { s.space c with lag := s.lag, bound := bound } (l + 12) .desc
    match x with
    | .ok pa => s1.findErrors [pa]
    | .error _ => s1

/-- What a command takes from its task at the firing (R306, R314, R330): BUDGET, SEED, LIM, `g3`, `g4` to `g11`, its cluster. -/
def Task.carried (t : Task) (c : Nat) : List Word :=
  [t.budget, t.seed, BitVec.ofNat 64 t.lim] ++ (List.range 9).map (fun k => t.reg (3 + k)) ++ [BitVec.ofNat 64 c]

/-- The command that a firing issues. -/
def State.newCmd (s : State) (i : Instr) (l r : Word) (id arrived : Nat) (bound : List Nat) : Cmd :=
  let t := s.selTask
  let sp := s.space s.sel.1
  let rr := s.earlyRreg s.sel.1 s.sel.2 i l bound
  { id := id, task := s.taskIdOf s.sel.1, node := s.sel.2, ins := i, fired := s.now, priv := t.supb, root := sp.root, asid := sp.asid
    l := l, r := r, arrived := arrived, bound := s.rregBound s.sel.1 i l bound, start := bound, carry := t.carried s.sel.1, rreg := rr.toOption.join
    early := match rr with
      | .error x => some x
      | .ok _ => none
    step := if t.twin.isSome then 1 else firstStep i }

/-- The queue of 64 entries has no free one; a discard does not wait for one (R27). -/
def State.queueFull (s : State) (p : Plan) : Bool :=
  decide (64 ≤ (s.cluster s.sel.1).eq.length) && (match p with
    | .fire _ => true
    | _ => false)

/-- Lane 0 of an operand, 0 where there is none. -/
def wordOf (t : Option Token) : Word := (t.map low64).getD 0

/-- What an engine node does but for the room in the queue (R180): the command port of its cell, its operands, its effect. -/
def cmdFire (i : Instr) (s : State) : Plan :=
  let f := cmdFmt i
  if !s.unitFree 192 then .wait
  else routePlan f.pm true (usesRight i) false s (fun h => match h.origin with
    | some o => { poisonFire h.slots o 2 with needs := [f.t0] }
    | none =>
      { later := [f.t0], busy := some (192, 1)
        post := fun s' id b =>
          let k := s'.newCmd i (wordOf h.l) (wordOf h.r) id (s'.arrivals + 1) b
          let s0 := ({ s'.rregRead s.sel.1 i k.l b with arrivals := s'.arrivals + 1 }).modCluster s.sel.1 (fun x => { x with eq := x.eq ++ [k] })
          let s1 := if k.step = 1 then s0.pushItem s.sel.1 s.sel.2 1 id [encode i, k.l, k.r] else s0
          match k.rreg with
          | some g => s1.modTaskOf s.sel.1 (fun t => { t with pends := t.pends ++ [{ reg := g, cmd := id }] })
          | none => s1 })

/-- The firing reads an RREG byte that no module on the way lets through (R183, R399). -/
def State.rregShut (s : State) (i : Instr) (p : Plan) : Bool :=
  namesRreg i && (match p with
    | .fire x => !s.rregOpen s.sel.1 i (wordOf (s.head 0)) (s.selNode.boundOf s.now x.pops)
    | _ => false)

/-- A firing that issues a command (R180): it waits for an entry of the 64-entry queue, for the command port of the cell, and for the
way to its RREG byte. -/
def cmdPlan (i : Instr) (s : State) : Plan :=
  let p := cmdFire i s
  if s.queueFull p || s.rregShut i p then .wait else p

/-- Binds a port (R186). -/
def planSbind (f : FmtE) (s : State) : Plan := cmdPlan (.sbind f) s

/-- SBIND (R186). -/
def execSbind (f : FmtE) (s : State) : Out := fireNode (planSbind f) s

/-- Closes a port (R186). -/
def planSfree (f : FmtE) (s : State) : Plan := cmdPlan (.sfree f) s

/-- SFREE (R186). -/
def execSfree (f : FmtE) (s : State) : Out := fireNode (planSfree f) s

/-- A copy of bytes (R187). -/
def planTcopy (f : FmtE) (s : State) : Plan := cmdPlan (.tcopy f) s

/-- TCOPY (R187). -/
def execTcopy (f : FmtE) (s : State) : Out := fireNode (planTcopy f) s

/-- A gather (R188). -/
def planTgath (f : FmtE) (s : State) : Plan := cmdPlan (.tgath f) s

/-- TGATH (R188). -/
def execTgath (f : FmtE) (s : State) : Out := fireNode (planTgath f) s

/-- A scatter (R188). -/
def planTscat (f : FmtE) (s : State) : Plan := cmdPlan (.tscat f) s

/-- TSCAT (R188). -/
def execTscat (f : FmtE) (s : State) : Out := fireNode (planTscat f) s

/-- A boarding window (R189). -/
def planBoard (f : FmtE) (s : State) : Plan := cmdPlan (.board f) s

/-- BOARD (R189). -/
def execBoard (f : FmtE) (s : State) : Out := fireNode (planBoard f) s

/-- A migration of pages (R190). -/
def planMigr (f : FmtE) (s : State) : Plan := cmdPlan (.migr f) s

/-- MIGR (R190). -/
def execMigr (f : FmtE) (s : State) : Out := fireNode (planMigr f) s

/-- A message (R191). -/
def planMsend (f : FmtE) (s : State) : Plan := cmdPlan (.msend f) s

/-- MSEND (R191). -/
def execMsend (f : FmtE) (s : State) : Out := fireNode (planMsend f) s

/-- A wait on a semaphore (R192). -/
def planSwait (f : FmtE) (s : State) : Plan := cmdPlan (.swait f) s

/-- SWAIT (R192). -/
def execSwait (f : FmtE) (s : State) : Out := fireNode (planSwait f) s

/-- A signal (R192). -/
def planSsig (f : FmtE) (s : State) : Plan := cmdPlan (.ssig f) s

/-- SSIG (R192). -/
def execSsig (f : FmtE) (s : State) : Out := fireNode (planSsig f) s

/-- A semaphore set (R192). -/
def planSset (f : FmtE) (s : State) : Plan := cmdPlan (.sset f) s

/-- SSET (R192). -/
def execSset (f : FmtE) (s : State) : Out := fireNode (planSset f) s

/-- A task or job launched (R193). -/
def planKick (f : FmtE) (s : State) : Plan := cmdPlan (.kick f) s

/-- KICK (R193). -/
def execKick (f : FmtE) (s : State) : Out := fireNode (planKick f) s

/-- A ring-speed vote (R194). -/
def planRspeed (f : FmtE) (s : State) : Plan := cmdPlan (.rspeed f) s

/-- RSPEED (R194). -/
def execRspeed (f : FmtE) (s : State) : Out := fireNode (planRspeed f) s

/-- Replicas of a pipeline (R195). -/
def planRepl (f : FmtE) (s : State) : Plan := cmdPlan (.repl f) s

/-- REPL (R195). -/
def execRepl (f : FmtE) (s : State) : Out := fireNode (planRepl f) s

end Sys2Proof.Machine
end

