-- ==== Sys2Proof/Machine/FloatOps.lean ====
section
/-!
DEFINITION. Floating point, block quantisation and exact sums: instructions 0x40 to 0x59 (R107 to R118). A lane is computed
exactly and rounded once; each rounding step draws under R45.
-/

namespace Sys2Proof.Machine

open Sys2Proof Sys2Proof.Num

/-- The generator after a firing that made draws (R45); unchanged where the mode draws nothing. -/
def newGen (mode g : Nat) : Option Word := if mode = 5 then some (BitVec.ofNat 64 g) else none

/-- CAUSE 0x5 under PX where some lane was invalid (R48). -/
def pxCause (f : FmtA) (bad : List Bool) : Option Nat := if pxOf f.md && bad.any id then some 5 else none

/-- Lanes of values rounded to TY, with their invalid flags (R46, R48). -/
def roundLanes (s : State) (f : FmtA) (ty : Ty) (vs : List (FVal × Bool)) (po : Option Origin) : Fire :=
  let mode := s.mode f.md
  let (es, g) := drawLanes mode (fun z (v : FVal × Bool) => roundTo ty mode (satOf f.md) (ftzOf f.md) z v.1) s.gen vs
  { s.result f ty es po (pxCause f (vs.map (·.2))) with gen := newGen mode g }

/-- Operands as values, subnormals flushed under FTZ (R47). -/
def valuesOf (f : FmtA) (es : List Nat) : List FVal := es.map (readF f.ty (ftzOf f.md))

/-- A lanewise operation of two values (R107). -/
def fbinPlan (op : Nat → FVal → FVal → FVal × Bool) (f : FmtA) (s : State) : Plan :=
  cePlan 0 4 1 f true (!f.ir) false s (fun h =>
    roundLanes s f f.ty (zipLanes (fun a b =>
      op (s.mode f.md) (readF f.ty (ftzOf f.md) a) (readF f.ty (ftzOf f.md) b)) (leftElems f.ty h.l) (rightElems f h.r)) h.origin)

/-- A function of one value (R113, R114). -/
def fun1Plan (lat busy : Nat) (op : FVal → FVal × Bool) (f : FmtA) (s : State) : Plan :=
  cePlan 0 lat busy f true false false s (fun h =>
    roundLanes s f f.ty ((valuesOf f (leftElems f.ty h.l)).map op) h.origin)

/-- The lesser or greater lane by lane, exact (R109). -/
def fmmPlan (greater : Bool) (f : FmtA) (s : State) : Plan :=
  cePlan 0 4 1 f true (!f.ir) false s (fun h =>
    let vs := zipLanes (fun a b => fmm greater (readF f.ty (ftzOf f.md) a) (readF f.ty (ftzOf f.md) b))
      (leftElems f.ty h.l) (rightElems f h.r)
    s.result f f.ty (vs.map (fun v => roundTo f.ty 0 false false 0 v.1)) h.origin (pxCause f (vs.map (·.2))))

/-- A quiet comparison of lane 0 (R110). -/
def fcmpPlan (op : FVal → FVal → Bool) (f : FmtA) (s : State) : Plan :=
  cePlan 0 1 1 f true (!f.ir) false s (fun h =>
    let a := readF f.ty (ftzOf f.md) ((leftElems f.ty h.l).headD 0)
    let b := readF f.ty (ftzOf f.md) ((rightElems f h.r).headD 0)
    s.flag f (op a b) h.origin (pxCause f [sig a || sig b]))

/-- A change of the sign bit (R107). -/
def signPlan (op : Nat → Nat → Nat) (f : FmtA) (s : State) : Plan :=
  cePlan 0 1 1 f true false false s (fun h =>
    s.result f f.ty ((leftElems f.ty h.l).map (op (signBit f.ty))) h.origin none)

/-- A special function: 12 cycles, 24 for f64 (R96, R114). -/
def specialPlan (op : FVal → FVal × Bool) (f : FmtA) (s : State) : Plan :=
  fun1Plan (if f.ty == .f64 then 24 else 12) (if f.ty == .f64 then 12 else 2) op f s

/-- The source lanes that a conversion takes (R111): from lane 4 x HI on for 64-bit results, at least one. -/
def convLanes (dst : Ty) (hi : Bool) (es : List Nat) : List Nat :=
  if dst.laneWidth == 64 then
    let l := (es.drop (if hi then 4 else 0)).take 4
    if l.isEmpty then [0] else l
  else es.take 8

/-- FROM of a conversion (R111, R112). -/
def fromTy (f : FmtA) : Ty := (Ty.ofCode (bitsOf f.imm 3 0)).getD .f32

/-- The step of fmac on one lane (R108): the exact product added, and whether the step is invalid. -/
def macStep (mode : Nat) (acc a b : FVal) : FVal × Bool :=
  let p := mulF a b
  let q := addF mode acc p.1
  (q.1, p.2 || q.2)

/-- The accumulator that a node's state gives (R108). -/
def fmacOf : NodeState → Nat × List Word × Option Origin
  | .fmac m lanes po => (m, lanes, po)
  | _ => (0, [], none)

def xsOf' : NodeState → BitVec 320 × Option Origin
  | .xsacc a po => (a, po)
  | _ => (0, none)

/-- The first origin, kept until the flush (R108). -/
def keepOrigin (old new : Option Origin) : Option Origin :=
  match old with
  | some o => some o
  | none => new

/-- The value of one element as an xs320 code (R117, R41). -/
def xsElem (f : FmtA) (e : Nat) : Int :=
  if f.ty == .xs320 then sval e 320
  else if f.ty.isInt then (sval e f.ty.elemBits) * 2 ^ 149
  else xsOf (readF f.ty (ftzOf f.md) e)

/-- Fields of bqnt and bdeq: VAR and the lanes per token g (R115). -/
def blockVar (f : FmtA) : Bool := f.imm.getLsbD 4
def blockG (f : FmtA) : Nat := 2 ^ bitsOf f.imm 6 5

/-- The element type of a block format as tokens carry it (R115). -/
def blockTok (f : FmtA) : Ty := (blockElem f.ty (blockVar f)).getD .i8

/-- The g lanes of a token of `bqnt` or `bdeq`. R115 speaks of tokens of g lanes alone: of a longer one the model drops the lanes beyond
g, and of a shorter one it reads the missing lanes as zero (log entry 59). -/
def takeLanes (g : Nat) (es : List Nat) : List Nat := (List.range g).map (fun k => es.getD k 0)

/-- Cuts elements into tokens of g lanes. -/
def blockToks (ty : Ty) (g : Nat) : Nat → List Nat → List Token
  | 0, _ => []
  | n + 1, es => mkPkt ty (es.take g) :: blockToks ty g n (es.drop g)

/-- A full gather buffer quantised (R52, R115): the scale token, the element tokens, the generator. -/
def quantise (s : State) (f : FmtA) (held : List Nat) (po : Option Origin) (g0 : Nat) : List Token × Nat :=
  let mode := s.mode f.md
  let vs := held.map (readF (fromTy f) (ftzOf f.md))
  let x := bqScale f.ty (blockVar f) vs
  let (es, g1) := drawLanes mode (fun z v => bqElem f.ty (blockVar f) x mode (ftzOf f.md) z v) g0 vs
  let toks := mkPkt .i8 [x] :: blockToks (blockTok f) (blockG f) (32 / blockG f) es
  (match po with
   | some o => toks.map (fun t => t.poisonBy o)
   | none => toks, g1)

def bqntOf : NodeState → List Nat × Nat × Option Origin × List Token
  | .bqnt h n po e => (h, n, po, e)
  | _ => ([], 0, none, [])

/-- The state of bqnt after a firing, idle when nothing is held. -/
def bqntState (h : List Nat) (n : Nat) (po : Option Origin) (e : List Token) : NodeState :=
  if h.isEmpty && e.isEmpty then .idle else .bqnt h n po e

/-- The scale that a node's state gives, its poison and the uses left (R116). -/
def bdeqOf : NodeState → Nat × Option Origin × Nat
  | .bdeq x po n => (x, po, n)
  | _ => (0, none, 0)

/-- TO of bdeq (R116). -/
def bdeqTo (f : FmtA) : Ty := (Ty.ofCode (bitsOf f.imm 3 0)).getD .f32

/-- Addition rounded once (R107). -/
def planFadd (f : FmtA) (s : State) : Plan := fbinPlan addF f s

/-- FADD (R107). -/
def execFadd (f : FmtA) (s : State) : Out := fireNode (planFadd f) s

/-- Subtraction rounded once (R107). -/
def planFsub (f : FmtA) (s : State) : Plan := fbinPlan (fun m a b => addF m a (negF b)) f s

/-- FSUB (R107). -/
def execFsub (f : FmtA) (s : State) : Out := fireNode (planFsub f) s

/-- Multiplication rounded once (R107). -/
def planFmul (f : FmtA) (s : State) : Plan := fbinPlan (fun _ a b => mulF a b) f s

/-- FMUL (R107). -/
def execFmul (f : FmtA) (s : State) : Out := fireNode (planFmul f) s

/-- Accumulates products, one rounding per step, and flushes on a true P (R108). -/
def planFmac (f : FmtA) (s : State) : Plan := cePlan 0 4 1 f true (!f.ir) true s (fun h =>
    let mode := s.mode f.md
    let (m0, acc, po) := fmacOf s.selNode.st
    let ps := zipLanes (fun a b => (readF f.ty (ftzOf f.md) a, readF f.ty (ftzOf f.md) b))
      (leftElems f.ty h.l) (rightElems f h.r)
    let steps := (List.range ps.length).zipWith (fun i x =>
      macStep mode (decodeF f.ty (acc.getD i 0).toNat) x.1 x.2) ps
    let (new, g) := drawLanes mode (fun z (v : FVal × Bool) => roundTo f.ty mode (satOf f.md) (ftzOf f.md) z v.1) s.gen steps
    let m := Nat.max m0 ps.length
    let lanes := new.map (BitVec.ofNat 64) ++ acc.drop ps.length
    let fresh := (pxCause f (steps.map (·.2))).map s.freshOrigin
    let po1 := keepOrigin (keepOrigin po h.origin) fresh
    if h.flush then
      let tok := match po1 with
        | some o => badPkt f.ty m o
        | none => mkPkt f.ty ((List.range m).map (fun i => (lanes.getD i 0).toNat))
      { outs := [(f.t0, tok), (f.t1, tok)], st := some .idle, gen := newGen mode g }
    else { needs := [f.t0, f.t1], st := some (.fmac m lanes po1), gen := newGen mode g })

/-- FMAC (R108). -/
def execFmac (f : FmtA) (s : State) : Out := fireNode (planFmac f) s

/-- The lesser operand (R109). -/
def planFmin (f : FmtA) (s : State) : Plan := fmmPlan false f s

/-- FMIN (R109). -/
def execFmin (f : FmtA) (s : State) : Out := fireNode (planFmin f) s

/-- The greater operand (R109). -/
def planFmax (f : FmtA) (s : State) : Plan := fmmPlan true f s

/-- FMAX (R109). -/
def execFmax (f : FmtA) (s : State) : Out := fireNode (planFmax f) s

/-- The sign bit cleared (R107). -/
def planFabs (f : FmtA) (s : State) : Plan := signPlan (fun sb a => a % sb) f s

/-- FABS (R107). -/
def execFabs (f : FmtA) (s : State) : Out := fireNode (planFabs f) s

/-- The sign bit inverted (R107). -/
def planFneg (f : FmtA) (s : State) : Plan := signPlan (fun sb a => (a + sb) % (2 * sb)) f s

/-- FNEG (R107). -/
def execFneg (f : FmtA) (s : State) : Out := fireNode (planFneg f) s

/-- Equality (R110). -/
def planFeq (f : FmtA) (s : State) : Plan := fcmpPlan eqF f s

/-- FEQ (R110). -/
def execFeq (f : FmtA) (s : State) : Out := fireNode (planFeq f) s

/-- Less than (R110). -/
def planFlt (f : FmtA) (s : State) : Plan := fcmpPlan ltF f s

/-- FLT (R110). -/
def execFlt (f : FmtA) (s : State) : Out := fireNode (planFlt f) s

/-- Less than or equal (R110). -/
def planFle (f : FmtA) (s : State) : Plan := fcmpPlan (fun a b => ltF a b || eqF a b) f s

/-- FLE (R110). -/
def execFle (f : FmtA) (s : State) : Out := fireNode (planFle f) s

/-- Unordered (R110). -/
def planFun (f : FmtA) (s : State) : Plan := fcmpPlan (fun a b => isNan a || isNan b) f s

/-- FUN (R110). -/
def execFun (f : FmtA) (s : State) : Out := fireNode (planFun f) s

/-- Conversion between formats; a NaN into e2m1 is invalid with CAUSE 0x4 (R111, R49). -/
def planFcvt (f : FmtA) (s : State) : Plan := cePlan 0 4 1 f true false false s (fun h =>
    let es := convLanes f.ty (f.imm.getLsbD 4) (leftElems (fromTy f) h.l)
    let vs := es.map (fun e => readF (fromTy f) (ftzOf f.md) e)
    let fire := roundLanes s f f.ty (vs.map (fun v => (v, sig v))) h.origin
    if f.ty == .e2m1 && vs.any isNan then
      { s.result f f.ty (List.replicate es.length 0) h.origin (some 4) with gen := fire.gen }
    else fire)

/-- FCVT (R111, R49). -/
def execFcvt (f : FmtA) (s : State) : Out := fireNode (planFcvt f) s

/-- Conversion to integers, invalid with CAUSE 0x4 (R112, R50). -/
def planFcvti (f : FmtA) (s : State) : Plan := cePlan 0 4 1 f true false false s (fun h =>
    let mode := s.mode f.md
    let vs := (convLanes f.ty (f.imm.getLsbD 4) (leftElems (fromTy f) h.l)).map (fun e => readF (fromTy f) (ftzOf f.md) e)
    let (rs, g) := drawLanes mode (fun z v => cvtInt f.ty.elemBits (!f.imm.getLsbD 5) (satOf f.md) mode z v) s.gen vs
    { s.result f f.ty (rs.map (·.1)) h.origin (if rs.any (·.2) then some 4 else none) with gen := newGen mode g })

/-- FCVTI (R112, R50). -/
def execFcvti (f : FmtA) (s : State) : Out := fireNode (planFcvti f) s

/-- Conversion from integers (R112, R51). -/
def planIcvtf (f : FmtA) (s : State) : Plan := cePlan 0 4 1 f true false false s (fun h =>
    let src := fromTy f
    let es := convLanes f.ty (f.imm.getLsbD 4) (leftElems src h.l)
    roundLanes s f f.ty (es.map (fun (e : Nat) => (ofInt (if f.imm.getLsbD 5 then (e : Int) else sval e src.elemBits), false))) h.origin)

/-- ICVTF (R112, R51). -/
def execIcvtf (f : FmtA) (s : State) : Out := fireNode (planIcvtf f) s

/-- A lane of frnd (R113): a quiet NaN passes with its bits, where R38 would give the canonical NaN (log entry 55). -/
def frndLane (f : FmtA) (mode z e : Nat) : Nat :=
  let v := readF f.ty (ftzOf f.md) e
  if isNan v && !sig v then e else roundTo f.ty mode false (ftzOf f.md) 0 (frndF mode z v)

/-- Rounding to an integral value (R113). -/
def planFrnd (f : FmtA) (s : State) : Plan := cePlan 0 4 1 f true false false s (fun h =>
    let mode := s.mode f.md
    let xs := leftElems f.ty h.l
    let (es, g) := drawLanes mode (frndLane f mode) s.gen xs
    { s.result f f.ty es h.origin (pxCause f ((valuesOf f xs).map sig)) with gen := newGen mode g })

/-- FRND (R113). -/
def execFrnd (f : FmtA) (s : State) : Out := fireNode (planFrnd f) s

/-- Reciprocal, correctly rounded (R114). -/
def planFrcp (f : FmtA) (s : State) : Plan := specialPlan (fun v => match v with
    | .nan x => (.nan false, x)
    | .inf n => (.fin n 0 0, false)
    | .fin n 0 _ => (.inf n, false)
    | .fin n m e => (recip n m e, false)) f s

/-- FRCP (R114). -/
def execFrcp (f : FmtA) (s : State) : Out := fireNode (planFrcp f) s

/-- Reciprocal square root, correctly rounded (R114). -/
def planFrsq (f : FmtA) (s : State) : Plan := specialPlan (fun v => match v with
    | .nan x => (.nan false, x)
    | .inf n => if n then (.nan false, true) else (.fin false 0 0, false)
    | .fin n 0 _ => (.inf n, false)
    | .fin n m e => if n then (.nan false, true) else (rsqrtF m e, false)) f s

/-- FRSQ (R114). -/
def execFrsq (f : FmtA) (s : State) : Out := fireNode (planFrsq f) s

/-- Square root, correctly rounded (R114). -/
def planFsqrt (f : FmtA) (s : State) : Plan := specialPlan (fun v => match v with
    | .nan x => (.nan false, x)
    | .inf n => if n then (.nan false, true) else (.inf false, false)
    | .fin n 0 e => (.fin n 0 e, false)
    | .fin n m e => if n then (.nan false, true) else (sqrtF m e, false)) f s

/-- FSQRT (R114). -/
def execFsqrt (f : FmtA) (s : State) : Out := fireNode (planFsqrt f) s

/-- 2 to the power x, correctly rounded (R114). -/
def planFexp2 (f : FmtA) (s : State) : Plan := specialPlan (fun v => match v with
    | .nan x => (.nan false, x)
    | .inf n => (if n then .fin false 0 0 else .inf false, false)
    | .fin _ 0 _ => (ofInt 1, false)
    | .fin n m e => (exp2F n m e, false)) f s

/-- FEXP2 (R114). -/
def execFexp2 (f : FmtA) (s : State) : Out := fireNode (planFexp2 f) s

/-- Base-2 logarithm, correctly rounded (R114). -/
def planFlog2 (f : FmtA) (s : State) : Plan := specialPlan (fun v => match v with
    | .nan x => (.nan false, x)
    | .inf n => if n then (.nan false, true) else (.inf false, false)
    | .fin _ 0 _ => (.inf true, false)
    | .fin n m e => if n then (.nan false, true) else (log2F m e, false)) f s

/-- FLOG2 (R114). -/
def execFlog2 (f : FmtA) (s : State) : Out := fireNode (planFlog2 f) s

/-- Hyperbolic tangent, correctly rounded (R114). -/
def planFtanh (f : FmtA) (s : State) : Plan := specialPlan (fun v => match v with
    | .nan x => (.nan false, x)
    | .inf n => (.fin n 1 0, false)
    | .fin n 0 e => (.fin n 0 e, false)
    | .fin n m e => (tanhF n m e, false)) f s

/-- FTANH (R114). -/
def execFtanh (f : FmtA) (s : State) : Out := fireNode (planFtanh f) s

/-- Gathers 32 values, emits the scale and the elements (R115). -/
def planBqnt (f : FmtA) (s : State) : Plan := if !s.unitFree 0 || !s.phase f.ph then .wait
  else
    let (held, count, po, emit) := bqntOf s.selNode.st
    let g := blockG f
    let ready := !emit.isEmpty && s.selRegion.accepts s.now f.t0 && s.selRegion.accepts s.now f.t1
    let asks := if emit.isEmpty then [] else [f.t0, f.t1]
    let tok := if held.length + g ≤ 32 then s.head 0 else none
    if !ready && tok.isNone then .stall asks
    else
      let outs := match emit with
        | [] => []
        | t :: _ => if !ready then [] else if emit.length = 1 + 32 / g then [(f.t0, t), (f.t1, t)] else [(f.t0, t)]
      let emit1 := if ready then emit.drop 1 else emit
      let held1 := match tok with
        | some t => held ++ takeLanes g (elemsOf (fromTy f) t)
        | none => held
      let count1 := if tok.isSome then count + 1 else count
      let po1 := keepOrigin po (tok.bind (·.origin))
      if held1.length = 32 && emit1.isEmpty then
        let (toks, gen) := quantise s f held1 po1 s.gen
        .fire { pops := if tok.isSome then [0] else [], outs := outs, lat := 3, asks := asks, busy := some (0, 1)
                st := some (.bqnt [] 0 none toks), gen := newGen (s.mode f.md) gen }
      else .fire { pops := if tok.isSome then [0] else [], outs := outs, lat := 3, asks := asks, busy := some (0, 1)
                   st := some (bqntState held1 count1 po1 emit1) }

/-- BQNT (R115). -/
def execBqnt (f : FmtA) (s : State) : Out := fireNode (planBqnt f) s

/-- An element under the scale X (R116, R40): under FTZ a subnormal element of a floating-point format is a zero (R47). -/
def bdeqVal (f : FmtA) (x e : Nat) : FVal :=
  match blockElem f.ty (blockVar f) with
  | some ty => if x = 0xFF then .nan false else scaleF (readF ty (ftzOf f.md) e) ((x : Int) - 127)
  | none => blockVal f.ty (blockVar f) x e

/-- Dequantises elements by the held scale (R116). -/
def planBdeq (f : FmtA) (s : State) : Plan := let (x0, po0, left) := bdeqOf s.selNode.st
  cePlan 0 4 1 f true (left == 0) false s (fun h =>
    let mode := s.mode f.md
    let g := blockG f
    let x := match h.r with
      | some t => (ownLanes t).headD 0 % 256
      | none => x0
    let pox := match h.r with
      | some t => t.origin
      | none => po0
    let n := (if left = 0 then 32 / g else left) - 1
    let vs := (takeLanes g (leftElems (blockTok f) h.l)).map (bdeqVal f x)
    let (es, gen) := drawLanes mode (fun z v => roundTo (bdeqTo f) mode (satOf f.md) (ftzOf f.md) z v) s.gen vs
    let po := keepOrigin (keepOrigin (firstOrigin [h.l]) pox) (firstOrigin [h.p])
    { s.result f (bdeqTo f) es po none with
      st := some (if n = 0 then .idle else .bdeq x pox n), gen := newGen mode gen })

/-- BDEQ (R116). -/
def execBdeq (f : FmtA) (s : State) : Out := fireNode (planBdeq f) s

/-- Adds lanes exactly and flushes on a true P (R117). -/
def planXsacc (f : FmtA) (s : State) : Plan := cePlan 0 3 1 f true false true s (fun h =>
    let (acc, po) := xsOf' s.selNode.st
    let sum := (leftElems f.ty h.l).foldl (fun a e => xsAdd a (xsElem f e)) (sval acc.toNat 320)
    let v := BitVec.ofNat 320 (wrap sum 320)
    let po1 := keepOrigin po h.origin
    if h.flush then
      let tok := match po1 with
        | some o => badPkt .xs320 5 o
        | none => mkXs v
      { outs := [(f.t0, tok), (f.t1, tok)], st := some .idle }
    else { needs := [f.t0, f.t1], st := some (.xsacc v po1) })

/-- XSACC (R117). -/
def execXsacc (f : FmtA) (s : State) : Out := fireNode (planXsacc f) s

/-- Rounds an exact sum once (R118). -/
def planXsfin (f : FmtA) (s : State) : Plan := cePlan 0 4 1 f true false false s (fun h =>
    let v := xsVal (sval ((leftElems .xs320 h.l).headD 0) 320)
    let fire := roundLanes s f f.ty [(v, false)] h.origin
    if f.ty == .e2m1 && isNan v then { s.result f f.ty [0] h.origin (some 4) with gen := fire.gen } else fire)

/-- XSFIN (R118). -/
def execXsfin (f : FmtA) (s : State) : Out := fireNode (planXsfin f) s

end Sys2Proof.Machine
end

