-- ==== Sys2Proof/Machine/IntOps.lean ====
section
/-!
DEFINITION. Integer and logic instructions 0x01 to 0x2E (R99 to R106). n is the width of the element, a and b are the n-bit
patterns of a lane.
-/

namespace Sys2Proof.Machine

open Sys2Proof

/-- A lanewise operation on L and R or the immediate (R99). -/
def intPlan (lat : Nat) (op : Nat → Nat → Nat → Nat) (f : FmtA) (s : State) : Plan :=
  cePlan 0 lat 1 f true (!f.ir) false s (fun h =>
    s.result f f.ty (zipLanes (op f.ty.elemBits) (leftElems f.ty h.l) (rightElems f h.r)) h.origin none)

/-- A lanewise operation on L alone (R99, R102). -/
def int1Plan (op : Nat → Nat → Nat) (f : FmtA) (s : State) : Plan :=
  cePlan 0 1 1 f true false false s (fun h =>
    s.result f f.ty ((leftElems f.ty h.l).map (op f.ty.elemBits)) h.origin none)

/-- Division and remainder: a zero divisor gives 0 in its lane and poisons the packet with CAUSE 0x3 (R36, R96). -/
def divPlan (op : Nat → Nat → Nat → Nat) (f : FmtA) (s : State) : Plan :=
  let wide := f.ty == .i64
  cePlan 0 (if wide then 20 else 12) (if wide then 16 else 8) f true (!f.ir) false s (fun h =>
    let a := leftElems f.ty h.l
    let b := rightElems f h.r
    s.result f f.ty (zipLanes (fun x y => if y = 0 then 0 else op f.ty.elemBits x y) a b) h.origin
      (if (zipLanes (fun _ y => y == 0) a b).any id then some 3 else none))

/-- A comparison of lane 0 (R104). -/
def cmpPlan (op : Nat → Nat → Nat → Bool) (f : FmtA) (s : State) : Plan :=
  cePlan 0 1 1 f true (!f.ir) false s (fun h =>
    s.flag f (op f.ty.elemBits ((leftElems f.ty h.l).headD 0) ((rightElems f h.r).headD 0)) h.origin none)

/-- fit(x) of R99 under MD[2]. -/
def fitTo (f : FmtA) (x : Int) (n : Nat) : Nat := Num.fit (satOf f.md) x n

/-- Bits of a pattern, lowest first. -/
def patBits (n a : Nat) : List Bool := (List.range n).map a.testBit

/-- The number of bits before the first one bit of a list. -/
def leading : List Bool → Nat
  | [] => 0
  | b :: t => if b then 0 else leading t + 1

/-- shl under SAT or not (R101), without forming 2^c beyond the width. -/
def shlOp (f : FmtA) (n a b : Nat) : Nat :=
  if b < n then fitTo f (Num.sval a n * 2 ^ b) n
  else if !satOf f.md || a = 0 then 0
  else Num.sat (if Num.sval a n < 0 then -(2 ^ (2 * n)) else 2 ^ (2 * n)) n true

/-- Bytes of a pattern in reverse order (R102). -/
def bswapOp (n a : Nat) : Nat := (List.range (n / 8)).foldl (fun acc k => acc * 256 + a / 256 ^ k % 256) 0

/-- addmin: the sum bounded by c (R100). -/
def addminOp (f : FmtA) (n a k c : Nat) : Nat :=
  let x := Num.sval (fitTo f (Num.sval a n + Num.sval k n) n) n
  Num.wrap (min x (Num.sval c n)) n

/-- The lanes of addmin with costs and bounds on R (R100, IR = 0). -/
def addminLanes (f : FmtA) (n : Nat) (a r : List Nat) : List Nat :=
  let m := if r.length < 2 then a.length else Nat.min a.length (r.length / 2)
  (List.range m).map (fun i => addminOp f n (a.getD i 0) (r.getD i 0) (r.getD (m + i) 0))

/-- The lanes of addmin with the immediate as cost and the bound on R (R100, IR = 1). -/
def addminImm (f : FmtA) (n : Nat) (a r : List Nat) : List Nat :=
  zipLanes (fun x c => addminOp f n x (immElem f.ty f.imm) c) a r

/-- Wrapped sum (R99). -/
def planAdd (f : FmtA) (s : State) : Plan := intPlan 1 (fun n a b => Num.wrap (Num.sval a n + Num.sval b n) n) f s

/-- ADD (R99). -/
def execAdd (f : FmtA) (s : State) : Out := fireNode (planAdd f) s

/-- Wrapped difference (R99). -/
def planSub (f : FmtA) (s : State) : Plan := intPlan 1 (fun n a b => Num.wrap (Num.sval a n - Num.sval b n) n) f s

/-- SUB (R99). -/
def execSub (f : FmtA) (s : State) : Out := fireNode (planSub f) s

/-- Signed saturating sum (R99). -/
def planAdds (f : FmtA) (s : State) : Plan := intPlan 1 (fun n a b => Num.sat (Num.sval a n + Num.sval b n) n true) f s

/-- ADDS (R99). -/
def execAdds (f : FmtA) (s : State) : Out := fireNode (planAdds f) s

/-- Unsigned saturating sum (R99). -/
def planAddsu (f : FmtA) (s : State) : Plan := intPlan 1 (fun n a b => Num.sat ((a : Int) + b) n false) f s

/-- ADDSU (R99). -/
def execAddsu (f : FmtA) (s : State) : Out := fireNode (planAddsu f) s

/-- Signed saturating difference (R99). -/
def planSubs (f : FmtA) (s : State) : Plan := intPlan 1 (fun n a b => Num.sat (Num.sval a n - Num.sval b n) n true) f s

/-- SUBS (R99). -/
def execSubs (f : FmtA) (s : State) : Out := fireNode (planSubs f) s

/-- Unsigned saturating difference (R99). -/
def planSubsu (f : FmtA) (s : State) : Plan := intPlan 1 (fun n a b => Num.sat ((a : Int) - b) n false) f s

/-- SUBSU (R99). -/
def execSubsu (f : FmtA) (s : State) : Out := fireNode (planSubsu f) s

/-- Product under SAT or wrapped (R99). -/
def planMul (f : FmtA) (s : State) : Plan := intPlan 3 (fun n a b => fitTo f (Num.sval a n * Num.sval b n) n) f s

/-- MUL (R99). -/
def execMul (f : FmtA) (s : State) : Out := fireNode (planMul f) s

/-- High half of the signed product (R99). -/
def planMulh (f : FmtA) (s : State) : Plan := intPlan 3 (fun n a b => Num.wrap (Num.sval a n * Num.sval b n / (2 ^ n : Int)) n) f s

/-- MULH (R99). -/
def execMulh (f : FmtA) (s : State) : Out := fireNode (planMulh f) s

/-- High half of the unsigned product (R99). -/
def planMulhu (f : FmtA) (s : State) : Plan := intPlan 3 (fun n a b => a * b / 2 ^ n) f s

/-- MULHU (R99). -/
def execMulhu (f : FmtA) (s : State) : Out := fireNode (planMulhu f) s

/-- Signed quotient toward zero (R99). -/
def planDiv (f : FmtA) (s : State) : Plan := divPlan (fun n a b => fitTo f (Int.tdiv (Num.sval a n) (Num.sval b n)) n) f s

/-- DIV (R99). -/
def execDiv (f : FmtA) (s : State) : Out := fireNode (planDiv f) s

/-- Unsigned quotient (R99). -/
def planDivu (f : FmtA) (s : State) : Plan := divPlan (fun _ a b => a / b) f s

/-- DIVU (R99). -/
def execDivu (f : FmtA) (s : State) : Out := fireNode (planDivu f) s

/-- Signed remainder (R99). -/
def planRem (f : FmtA) (s : State) : Plan := divPlan (fun n a b => Num.wrap (Int.tmod (Num.sval a n) (Num.sval b n)) n) f s

/-- REM (R99). -/
def execRem (f : FmtA) (s : State) : Out := fireNode (planRem f) s

/-- Unsigned remainder (R99). -/
def planRemu (f : FmtA) (s : State) : Plan := divPlan (fun _ a b => a % b) f s

/-- REMU (R99). -/
def execRemu (f : FmtA) (s : State) : Out := fireNode (planRemu f) s

/-- Negation (R99). -/
def planNeg (f : FmtA) (s : State) : Plan := int1Plan (fun n a => fitTo f (-(Num.sval a n)) n) f s

/-- NEG (R99). -/
def execNeg (f : FmtA) (s : State) : Out := fireNode (planNeg f) s

/-- Absolute value (R99). -/
def planAbs (f : FmtA) (s : State) : Plan := int1Plan (fun n a => fitTo f ((Num.sval a n).natAbs : Int) n) f s

/-- ABS (R99). -/
def execAbs (f : FmtA) (s : State) : Out := fireNode (planAbs f) s

/-- Signed minimum (R99). -/
def planMin (f : FmtA) (s : State) : Plan := intPlan 1 (fun n a b => if Num.sval a n ≤ Num.sval b n then a else b) f s

/-- MIN (R99). -/
def execMin (f : FmtA) (s : State) : Out := fireNode (planMin f) s

/-- Signed maximum (R99). -/
def planMax (f : FmtA) (s : State) : Plan := intPlan 1 (fun n a b => if Num.sval a n ≤ Num.sval b n then b else a) f s

/-- MAX (R99). -/
def execMax (f : FmtA) (s : State) : Out := fireNode (planMax f) s

/-- Unsigned minimum (R99). -/
def planMinu (f : FmtA) (s : State) : Plan := intPlan 1 (fun _ a b => if a ≤ b then a else b) f s

/-- MINU (R99). -/
def execMinu (f : FmtA) (s : State) : Out := fireNode (planMinu f) s

/-- Unsigned maximum (R99). -/
def planMaxu (f : FmtA) (s : State) : Plan := intPlan 1 (fun _ a b => if a ≤ b then b else a) f s

/-- MAXU (R99). -/
def execMaxu (f : FmtA) (s : State) : Out := fireNode (planMaxu f) s

/-- Bounded sum; R is used in both forms (R100). -/
def planAddmin (f : FmtA) (s : State) : Plan := cePlan 0 1 1 f true true false s (fun h =>
    let n := f.ty.elemBits
    let a := leftElems f.ty h.l
    let r := leftElems f.ty h.r
    s.result f f.ty (if f.ir then addminImm f n a r else addminLanes f n a r) h.origin none)

/-- ADDMIN (R100). -/
def execAddmin (f : FmtA) (s : State) : Out := fireNode (planAddmin f) s

/-- Bitwise AND (R99). -/
def planAnd (f : FmtA) (s : State) : Plan := intPlan 1 (fun _ a b => Nat.land a b) f s

/-- AND (R99). -/
def execAnd (f : FmtA) (s : State) : Out := fireNode (planAnd f) s

/-- Bitwise OR (R99). -/
def planOr (f : FmtA) (s : State) : Plan := intPlan 1 (fun _ a b => Nat.lor a b) f s

/-- OR (R99). -/
def execOr (f : FmtA) (s : State) : Out := fireNode (planOr f) s

/-- Bitwise XOR (R99). -/
def planXor (f : FmtA) (s : State) : Plan := intPlan 1 (fun _ a b => Nat.xor a b) f s

/-- XOR (R99). -/
def execXor (f : FmtA) (s : State) : Out := fireNode (planXor f) s

/-- a AND NOT b (R99). -/
def planAndn (f : FmtA) (s : State) : Plan := intPlan 1 (fun n a b => Nat.land a (2 ^ n - 1 - b)) f s

/-- ANDN (R99). -/
def execAndn (f : FmtA) (s : State) : Out := fireNode (planAndn f) s

/-- Bitwise complement (R99). -/
def planNot (f : FmtA) (s : State) : Plan := int1Plan (fun n a => 2 ^ n - 1 - a) f s

/-- NOT (R99). -/
def execNot (f : FmtA) (s : State) : Out := fireNode (planNot f) s

/-- Shift left (R101). -/
def planShl (f : FmtA) (s : State) : Plan := intPlan 1 (shlOp f) f s

/-- SHL (R101). -/
def execShl (f : FmtA) (s : State) : Out := fireNode (planShl f) s

/-- Logical shift right (R101). -/
def planShr (f : FmtA) (s : State) : Plan := intPlan 1 (fun n a b => if n ≤ b then 0 else a / 2 ^ b) f s

/-- SHR (R101). -/
def execShr (f : FmtA) (s : State) : Out := fireNode (planShr f) s

/-- Arithmetic shift right (R101). -/
def planSra (f : FmtA) (s : State) : Plan := intPlan 1 (fun n a b => Num.wrap (Num.sval a n / (2 ^ (if n ≤ b then n else b) : Int)) n) f s

/-- SRA (R101). -/
def execSra (f : FmtA) (s : State) : Out := fireNode (planSra f) s

/-- Rotate left (R101). -/
def planRotl (f : FmtA) (s : State) : Plan := intPlan 1 (fun n a b => a * 2 ^ (b % n) % 2 ^ n + a / 2 ^ (n - b % n)) f s

/-- ROTL (R101). -/
def execRotl (f : FmtA) (s : State) : Out := fireNode (planRotl f) s

/-- Leading zeros (R102). -/
def planClz (f : FmtA) (s : State) : Plan := int1Plan (fun n a => leading (patBits n a).reverse) f s

/-- CLZ (R102). -/
def execClz (f : FmtA) (s : State) : Out := fireNode (planClz f) s

/-- Trailing zeros (R102). -/
def planCtz (f : FmtA) (s : State) : Plan := int1Plan (fun n a => leading (patBits n a)) f s

/-- CTZ (R102). -/
def execCtz (f : FmtA) (s : State) : Out := fireNode (planCtz f) s

/-- One bits (R102). -/
def planPopc (f : FmtA) (s : State) : Plan := int1Plan (fun n a => ((patBits n a).filter id).length) f s

/-- POPC (R102). -/
def execPopc (f : FmtA) (s : State) : Out := fireNode (planPopc f) s

/-- Sign extension of the low W bits (R102). -/
def planSext (f : FmtA) (s : State) : Plan := int1Plan (fun n a => Num.sextTo a (bitsOf f.imm 6 0) n) f s

/-- SEXT (R102). -/
def execSext (f : FmtA) (s : State) : Out := fireNode (planSext f) s

/-- Zero extension of the low W bits (R102). -/
def planZext (f : FmtA) (s : State) : Plan := int1Plan (fun _ a => a % 2 ^ bitsOf f.imm 6 0) f s

/-- ZEXT (R102). -/
def execZext (f : FmtA) (s : State) : Out := fireNode (planZext f) s

/-- Byte reversal (R102). -/
def planBswap (f : FmtA) (s : State) : Plan := int1Plan bswapOp f s

/-- BSWAP (R102). -/
def execBswap (f : FmtA) (s : State) : Out := fireNode (planBswap f) s

/-- L when P is true or poisoned, else R (R103), bit for bit with its own LEN_eff (log entry 55); an immediate stands in
every lane of L (R67). -/
def planSel (f : FmtA) (s : State) : Plan := cePlan 0 1 1 f true (!f.ir) true s (fun h =>
    let l := leftElems f.ty h.l
    let r := if f.ir then l.map (fun _ => immElem f.ty f.imm) else rightElems f h.r
    s.result f f.ty (if h.flush then l else r) h.origin none)

/-- SEL (R103). -/
def execSel (f : FmtA) (s : State) : Out := fireNode (planSel f) s

/-- a = b (R104). -/
def planCeq (f : FmtA) (s : State) : Plan := cmpPlan (fun _ a b => a == b) f s

/-- CEQ (R104). -/
def execCeq (f : FmtA) (s : State) : Out := fireNode (planCeq f) s

/-- a ≠ b (R104). -/
def planCne (f : FmtA) (s : State) : Plan := cmpPlan (fun _ a b => a != b) f s

/-- CNE (R104). -/
def execCne (f : FmtA) (s : State) : Out := fireNode (planCne f) s

/-- Signed a < b (R104). -/
def planClt (f : FmtA) (s : State) : Plan := cmpPlan (fun n a b => decide (Num.sval a n < Num.sval b n)) f s

/-- CLT (R104). -/
def execClt (f : FmtA) (s : State) : Out := fireNode (planClt f) s

/-- Unsigned a < b (R104). -/
def planCltu (f : FmtA) (s : State) : Plan := cmpPlan (fun _ a b => decide (a < b)) f s

/-- CLTU (R104). -/
def execCltu (f : FmtA) (s : State) : Out := fireNode (planCltu f) s

/-- Signed a ≤ b (R104). -/
def planCle (f : FmtA) (s : State) : Plan := cmpPlan (fun n a b => decide (Num.sval a n ≤ Num.sval b n)) f s

/-- CLE (R104). -/
def execCle (f : FmtA) (s : State) : Out := fireNode (planCle f) s

/-- Unsigned a ≤ b (R104). -/
def planCleu (f : FmtA) (s : State) : Plan := cmpPlan (fun _ a b => decide (a ≤ b)) f s

/-- CLEU (R104). -/
def execCleu (f : FmtA) (s : State) : Out := fireNode (planCleu f) s

/-- a AND b is nonzero (R104). -/
def planCtst (f : FmtA) (s : State) : Plan := cmpPlan (fun _ a b => Nat.land a b != 0) f s

/-- CTST (R104). -/
def execCtst (f : FmtA) (s : State) : Out := fireNode (planCtst f) s

/-- The immediate for each trigger (R105). -/
def planMovi (f : FmtA) (s : State) : Plan := cePlan 0 1 1 f true false false s (fun h =>
    s.result f f.ty [Num.sextTo f.imm.toNat 21 f.ty.elemBits] h.origin none)

/-- MOVI (R105). -/
def execMovi (f : FmtA) (s : State) : Out := fireNode (planMovi f) s

/-- 21 more bits of a constant (R105). -/
def planMovhi (f : FmtA) (s : State) : Plan := int1Plan (fun n a => (a * 2 ^ 21 + f.imm.toNat) % 2 ^ n) f s

/-- MOVHI (R105). -/
def execMovhi (f : FmtA) (s : State) : Out := fireNode (planMovhi f) s

/-- Address formation (R106). -/
def planLea (f : FmtA) (s : State) : Plan := if f.ir then int1Plan (fun n a => Num.wrap (Num.sval a n + Num.sval f.imm.toNat 21) n) f s
  else intPlan 1 (fun n a b =>
    Num.wrap (Num.sval a n + Num.sval b n * 2 ^ bitsOf f.imm 2 0 + Num.sval (bitsOf f.imm 20 3) 18) n) f s

/-- LEA (R106). -/
def execLea (f : FmtA) (s : State) : Out := fireNode (planLea f) s

end Sys2Proof.Machine
end

