-- ==== Sys2Proof/Machine/LutOps.lean ====
section
/-!
DEFINITION. The LUT patch, 0x70 to 0x74 (R123 to R126).
-/

namespace Sys2Proof.Machine

open Sys2Proof

/-- A LUT of the patch of a cell, as configured for the running block (R63). -/
def Task.lut (t : Task) (cell n : Nat) : Lut := t.luts.get {} (64 * cell + n)

/-- The value a SEL code selects (R62), given LUT outputs, operands and flip-flops. An operand bit that a 32-bit lane does not have (L
codes 0x20 to 0x3F under i32) reads 0, for which the manual gives no value (log entry 59). -/
def selVal (outs : List Bool) (l r ff : Nat) (sel : Nat) : Bool :=
  if sel < 0x40 then l.testBit sel
  else if sel < 0x80 then outs.getD (sel - 0x40) false
  else if sel < 0xA0 then ff.testBit (sel - 0x80)
  else if sel < 0xC0 then r.testBit (sel - 0xA0)
  else sel == 0xC1

/-- The output of a LUT: the TRUTH bit at cat(x5, …, x0) (R62). -/
def lutOut (x : Lut) (outs : List Bool) (l r ff : Nat) : Bool :=
  x.truth.toNat.testBit (x.sel.foldr (fun sel acc => (selVal outs l r ff sel.toNat).toNat + 2 * acc) 0)

/-- The network evaluated combinationally (R123): the patch has no loop without a flip-flop, so 64 rounds settle it. -/
def lutNet (luts : List Lut) (l r ff : Nat) : Nat → List Bool → List Bool
  | 0, outs => outs
  | fuel + 1, outs => lutNet luts l r ff fuel (luts.map (fun x => lutOut x outs l r ff))

/-- The outputs of a cell's 64 LUTs for the operands of a firing (R123). -/
def State.lutOuts (s : State) (f : FmtA) (h : Heads) (ff : Nat) : List Bool :=
  let luts := (List.range 64).map (s.selTask.lut s.selCell)
  let r := if f.imm.getLsbD 12 then (leftElems f.ty h.r).headD 0 else 0
  lutNet luts ((leftElems f.ty h.l).headD 0) r ff 64 (List.replicate 64 false)

/-- Bits from the lowest up as a number. -/
def ofBits : List Bool → Nat
  | [] => 0
  | b :: t => b.toNat + 2 * ofBits t

/-- The result of a LUT read: CNTM + 1 outputs from LUT BASE on (R123). -/
def lutWord (f : FmtA) (outs : List Bool) : Nat := ofBits ((outs.drop (bitsOf f.imm 5 0)).take (bitsOf f.imm 11 6 + 1))

/-- The LUT network read (R123). -/
def planLutx (f : FmtA) (s : State) : Plan := cePlan 1 2 1 f true (f.imm.getLsbD 12) false s (fun h =>
    s.result f f.ty [lutWord f (s.lutOuts f h (s.selTask.ffs.get 0 s.selCell).toNat)] h.origin none)

/-- LUTX (R123). -/
def execLutx (f : FmtA) (s : State) : Out := fireNode (planLutx f) s

/-- The LUT network read, then the flip-flops captured (R124). -/
def planFsmst (f : FmtA) (s : State) : Plan := cePlan 1 2 1 f true (f.imm.getLsbD 12) false s (fun h =>
    let ff := if f.imm.getLsbD 13 then 0 else (s.selTask.ffs.get 0 s.selCell).toNat
    let outs := s.lutOuts f h ff
    let next := ofBits ((List.range 32).map (fun k =>
      if (s.selTask.lut s.selCell (32 + k)).ffen then outs.getD (32 + k) false else ff.testBit k))
    { s.result f f.ty [lutWord f outs] h.origin none with
      post := fun s' _ _ =>
        if h.origin.isSome then s'
        else s'.modTaskOf s.sel.1 (fun t => { t with ffs := t.ffs.set s.selCell (BitVec.ofNat 32 next) }) })

/-- FSMST (R124). -/
def execFsmst (f : FmtA) (s : State) : Out := fireNode (planFsmst f) s

/-- Bit extract under a mask (R125). -/
def bextOp (n a b : Nat) : Nat := ofBits (((List.range n).filter b.testBit).map a.testBit)

/-- Bit deposit under a mask (R125). -/
def bdepAux (a b : Nat) : List Nat → Nat → Nat → Nat
  | [], _, acc => acc
  | k :: t, j, acc => if b.testBit k then bdepAux a b t (j + 1) (acc + (a.testBit j).toNat * 2 ^ k) else bdepAux a b t j acc

def bdepOp (n a b : Nat) : Nat := bdepAux a b (List.range n) 0 0

/-- A lanewise operation of the LUT patch (R125, R126). -/
def patchPlan (lat : Nat) (op : Nat → Nat → Nat → Nat) (f : FmtA) (s : State) : Plan :=
  cePlan 1 lat 1 f true (!f.ir) false s (fun h =>
    s.result f f.ty (zipLanes (op f.ty.elemBits) (leftElems f.ty h.l) (rightElems f h.r)) h.origin none)

/-- Bit extract (R125). -/
def planBext (f : FmtA) (s : State) : Plan := patchPlan 2 bextOp f s

/-- BEXT (R125). -/
def execBext (f : FmtA) (s : State) : Out := fireNode (planBext f) s

/-- Bit deposit (R125). -/
def planBdep (f : FmtA) (s : State) : Plan := patchPlan 2 bdepOp f s

/-- BDEP (R125). -/
def execBdep (f : FmtA) (s : State) : Out := fireNode (planBdep f) s

/-- The keyed hash of one lane (R126). -/
def hashOp (n a k : Nat) : Nat :=
  let c := if n = 64 then 0xD6E8FEB86659FD93 else 0x8C4F2A6B
  let h := n / 2
  let x := (a + k) % 2 ^ n
  let x := Nat.xor x (x / 2 ^ h)
  let x := x * c % 2 ^ n
  let x := Nat.xor x (x / 2 ^ (h - 3))
  let x := x * c % 2 ^ n
  Nat.xor x (x / 2 ^ h)

/-- Keyed hash of each lane (R126). -/
def planHashx (f : FmtA) (s : State) : Plan := patchPlan 3 hashOp f s

/-- HASHX (R126). -/
def execHashx (f : FmtA) (s : State) : Out := fireNode (planHashx f) s

end Sys2Proof.Machine
end

