-- ==== Sys2Proof/Machine/Tiles.lean ====
section
/-!
DEFINITION. Tiles: their layouts and extent (R254), the checks of their use (R169, R255), stationary planes (R166, R257), and
the arithmetic of the dot block (R53).
-/

namespace Sys2Proof.Machine

open Sys2Proof

/-! ## Layout -/

/-- The FMT codes stored in records: bf16, mx8, mx4, mxi8 (R254). -/
def recFmt (fmt : Nat) : Bool := fmt == 7 || fmt == 11 || fmt == 12 || fmt == 13

/-- The bytes of a record (R254). -/
def recSize (fmt : Nat) : Nat := if fmt = 7 then 65 else if fmt = 12 then 17 else 33

/-- Bits of an element of a FMT code. -/
def fmtBits (fmt : Nat) : Nat := match Ty.ofCode fmt with
  | some t => t.elemBits
  | none => 0

/-- The records of a tile (R254). -/
def Tile.records (t : Tile) : Nat :=
  if t.cols % 32 = 0 then t.rows * (t.cols / 32) else t.cols * ((t.rows + 31) / 32)

/-- The extent of a tile in bytes (R254). -/
def Tile.extent (t : Tile) : Nat :=
  if t.rows = 0 ∨ t.cols = 0 then 0
  else if recFmt t.fmt then t.records * recSize t.fmt
  else (t.rows * t.cols * fmtBits t.fmt + 7) / 8

/-- The SRAM bytes of a tile in the region's own cluster (R255): the physical address of its base. -/
def State.tileBase (s : State) (c : Nat) (t : Tile) (k : AccKind) : Except XFault Nat :=
  let bad : Except XFault Nat := .error (xlateFault 0x46 t.base 7 k)
  let top := bitsOf t.base 63 56
  if 14 ≤ t.fmt then bad
  else if top != 0xFD && top != 0xFE then bad
  else match s.sram (s.space c) t.base k with
    | .error _ => bad
    | .ok pa => if sramClus pa != c || 0x30000 < sramOff pa + t.extent then bad else .ok pa

/-- A tile as a matrix instruction or command of region c may use it: its owner, then its place (R169, R255). -/
def State.useTile (s : State) (c n : Nat) (k : AccKind) : Except XFault (Tile × Nat) :=
  let t := (s.taskOf c).tile n
  if t.owner != (s.taskOf c).id then .error (xlateFault 0x45 t.base 7 k)
  else (s.tileBase c t k).map (fun pa => (t, pa))

/-- A trap of a format-A firing that rewinds (R169). -/
def trapOf (f : FmtA) (x : XFault) : Plan := .trap [f.t0, f.t1] x.code x.sub x.addr 0 x.info

/-! ## Records -/

/-- The elements and the scale of a record (R40, R254); a bf16 record's scale is 2^0 (R53). -/
def recordOf (ty : Ty) (var : Bool) (bs : List Byte) : List Num.FVal × Nat :=
  let byte (k : Nat) : Nat := (bs.getD k 0).toNat
  match ty with
  | .bf16 => ((List.range 32).map (fun k => Num.decodeF .bf16 (byte (2 * k) + 256 * byte (2 * k + 1))), 127)
  | .mx4 => ((List.range 32).map (fun k => Num.elemVal .mx4 false (byte (k / 2) / 16 ^ (k % 2) % 16)), byte 16)
  | t => ((List.range 32).map (fun k => Num.elemVal t var (byte k)), byte 32)

/-- One K-block of R53 added to an accumulator element. Its exact sum starts at +0: R53 gives no sign for a sum of zeros (DESIGN
CHOICE, log entry 17). -/
def kBlock (acc : BitVec 32) (a b : List Num.FVal × Nat) : BitVec 32 :=
  let p := (List.zipWith (fun x y => (Num.mulF x y).1) a.1 b.1).foldl (fun v w => (Num.addF 0 v w).1) (.fin false 0 0)
  let sum := if a.2 = 0xFF ∨ b.2 = 0xFF then .nan false else Num.scaleF p ((a.2 : Int) + (b.2 : Int) - 254)
  BitVec.ofNat 32 (Num.roundTo .f32 0 false false 0 (Num.addF 0 (Num.decodeF .f32 acc.toNat) sum).1)

/-- The bytes of record r of a plane or tile image. -/
def recBytes (fmt : Nat) (bs : List Byte) (r : Nat) : List Byte := (bs.drop (r * recSize fmt)).take (recSize fmt)

/-- Column j of a plane: its K-blocks (R257). -/
def Plane.column (p : Plane) (j : Nat) : List (List Num.FVal × Nat) :=
  (List.range p.kb).map (fun k => recordOf p.fmt p.var (recBytes p.fmt.code p.bytes (j * p.kb + k)))

/-- Row i of an A tile: its K-blocks (R254, R257). -/
def tileRow (ty : Ty) (var : Bool) (kb : Nat) (bs : List Byte) (i : Nat) : List (List Num.FVal × Nat) :=
  (List.range kb).map (fun k => recordOf ty var (recBytes ty.code bs (i * kb + k)))

/-- The accumulator after an mma (R170): rows below M take their K-blocks in order; other rows are kept. -/
def Acc.multiply (x : Acc) (m kb : Nat) (ty : Ty) (var : Bool) (bs : List Byte) (p : Plane) : Tbl (BitVec 32) :=
  let cols := (List.range 8).map p.column
  ((List.range m).flatMap (fun i =>
    let row := tileRow ty var kb bs i
    ((List.range 8).zipWith (fun j col => (8 * i + j, (List.zip row col).foldl (fun a ab => kBlock a ab.1 ab.2) (x.elems.get 0 (8 * i + j)))) cols))).filter
      (fun e => e.2 != 0) ++ x.elems.filter (fun e => 8 * m ≤ e.1)

/-- Byte k of a tile, read at `cs` (R262), lies in a marked sector; a record of the tile has such a byte. -/
def State.tileMarked (s : State) (cs : List (Nat × Nat)) (k : Nat) : Bool := s.cutMarked ((cs.drop k).take 1)
def State.recMarked (s : State) (cs : List (Nat × Nat)) (fmt r : Nat) : Bool :=
  s.cutMarked ((cs.drop (r * recSize fmt)).take (recSize fmt))

/-- The plane that a B tile holds, read at `cs` (R172): elements 8k + j of marked sectors are poisoned; a marked scale poisons its
record. -/
def State.planeOf (s : State) (t : Tile) (cs : List (Nat × Nat)) : Plane :=
  let ty := (Ty.ofCode t.fmt).getD .mx8
  let kb := t.rows / 32
  let size := recSize t.fmt
  { fmt := ty, var := t.var && ty == .mx8, kb := kb
    bytes := s.cutBytes (cs.take (8 * kb * size))
    poison := (List.range (256 * kb)).filter (fun e =>
      let k := e / 8
      let rec0 := ((e % 8) * kb + k / 32) * size
      let w := fmtBits t.fmt
      s.tileMarked cs (rec0 + size - 1) || s.tileMarked cs (rec0 + k % 32 * w / 8) || s.tileMarked cs (rec0 + (k % 32 * w + w - 1) / 8)) }

/-- The formats of a plane and of an A tile go together (R170). -/
def pairOk (a b : Ty) : Bool :=
  match a with
  | .bf16 => b == .bf16
  | .mx4 => b == .mx4
  | .mx8 | .mxi8 => b == .mx8 || b == .mxi8
  | _ => false

/-- Cycles the MAC array is busy (R170). -/
def mmaCycles (a : Ty) (m kb : Nat) : Nat :=
  let c := m / 8 * kb
  match a with
  | .mx4 => (c + 1) / 2
  | .bf16 => 4 * c
  | _ => c

end Sys2Proof.Machine
end

