-- ==== Sys2Proof/Machine/Matrix.lean ====
section
/-!
DEFINITION. The matrix instructions, 0x78 to 0x7E (R166 to R178).
-/

namespace Sys2Proof.Machine

open Sys2Proof

/-- The dot block of the selected cell. -/
def State.selDot (s : State) : Dot := s.selTask.dot s.selCell

/-- Changes the dot block of a cell of region c. -/
def State.modDot (s : State) (c cell : Nat) (f : Dot → Dot) : State := s.modTaskOf c (fun t => t.setDot cell (f (t.dot cell)))

/-- An mma is in flight on an accumulator; a drain of it is in progress (R168). -/
def Dot.multiplying (d : Dot) (a : Nat) : Bool := d.ops.any (fun o => o.kind == 0 && o.acc == a)
def Dot.draining (d : Dot) (a : Nat) : Bool := d.ops.any (fun o => o.kind == 2 && o.acc == a)

/-- A dot-block firing (R167, R168): the unit, the operands, the phase, then the instruction's own condition. -/
def dotPlan (f : FmtA) (uR : Bool) (s : State) (ready : Heads → Bool) (body : Heads → Plan) : Plan :=
  if !s.unitFree 2 then .wait
  else match s.heads f.pm true uR false with
    | none => .wait
    | some h =>
      if !h.pass then .discard h.slots
      else if !s.phase f.ph || !ready h then .wait
      else match body h with
        | .fire x => .fire { x with pops := h.slots, busy := some (2, 1) }
        | p => p

/-- A completion token on both targets, poisoned by a trigger (R32, R167). -/
def completion (f : FmtA) (po : Option Origin) : List (Target × Token) :=
  let tok := match po with
    | some o => badCtl true o
    | none => ctlTok true
  [(f.t0, tok), (f.t1, tok)]

/-- The places of n bytes of a tile that a firing of the selected node reads, each with the number up to which it goes (R262). -/
def State.tileCuts (s : State) (h : Heads) (pa n : Nat) : List (Nat × Nat) :=
  s.cuts s.lag (union s.selNode.bound (s.selNode.boundOf s.now h.slots)) true (span pa n)

/-- An operation in progress of the selected node, which has read `cs`: its completion comes later. -/
def dotLater (s : State) (f : FmtA) (cs : List (Nat × Nat)) (op : DotOp) (g : Dot → Dot) (more : State → State) : Plan :=
  .fire { later := [f.t0, f.t1], extra := s.cutSet cs []
          post := fun s' id b =>
            more (s'.modDot s.sel.1 s.selCell (fun d =>
              let d1 := g d
              { d1 with ops := d1.ops ++ [{ op with id := id, node := s.sel.2, t0 := f.t0, t1 := f.t1, bound := b }] })) }

/-! ## mma -/

/-- The checks of R169 and R255 on the A tile. -/
def State.mmaFault (s : State) (f : FmtA) (p : Plane) (acc : Acc) : Except XFault (Tile × Nat) :=
  match s.useTile s.sel.1 (bitsOf f.imm 5 0) .read with
  | .error x => .error x
  | .ok (t, pa) =>
    let bad (sub : Nat) : Except XFault (Tile × Nat) := .error (xlateFault sub t.base 7 .read)
    if t.fmt != f.ty.code || !pairOk f.ty p.fmt then bad 0x40
    else if t.rows < 8 || 128 < t.rows || t.rows % 8 != 0 || t.cols != 32 * p.kb then bad 0x41
    else if !f.imm.getLsbD 8 && acc.rows != 0 && acc.rows != t.rows then bad 0x42
    else .ok (t, pa)

/-- The accumulator after an mma of tile t, read at `cs`, by plane p (R170, R383). -/
def State.multiply (s : State) (f : FmtA) (t : Tile) (cs : List (Nat × Nat)) (p : Plane) (x : Acc) : Acc :=
  let x0 : Acc := if f.imm.getLsbD 8 || x.rows == 0 then { rows := t.rows } else x
  let cols := (List.range 8).filter (fun j => p.poison.any (fun e => e % 8 == j))
  let rows := (List.range t.rows).filter (fun i => (List.range p.kb).any (fun k => s.recMarked cs t.fmt (i * p.kb + k)))
  { elems := x0.multiply t.rows p.kb f.ty (t.var && f.ty == .mx8) (s.cutBytes cs) p
    rows := x0.rows
    poison := x0.poison ++ ((List.range (8 * t.rows)).filter (fun e =>
      (rows.contains (e / 8) || cols.contains (e % 8)) && !x0.poison.contains e)) }

/-- A multiply (R170), or under a poisoned trigger the poisoning of the whole accumulator (R171). -/
def planMma (f : FmtA) (s : State) : Plan :=
  let a := bitsOf f.imm 7 6
  let d := s.selDot
  dotPlan f false s
    (fun _ => (s.selTask.tile (bitsOf f.imm 5 0)).state == .ready && d.active.isSome && d.busy ≤ s.now && !d.draining a)
    (fun h => match h.origin, d.active with
      | some o, _ =>
        dotLater s f [] { id := 0, node := 0, kind := 0, acc := a, orig := some o, done := s.now }
          (fun d => d.setAcc a { d.acc a with poison := List.range 1024 }) id
      | none, none => .wait
      | none, some p => match s.mmaFault f p (d.acc a) with
        | .error x => trapOf f x
        | .ok (t, pa) =>
          let done := s.now + mmaCycles f.ty t.rows p.kb
          let cs := s.tileCuts h pa t.extent
          dotLater s f cs { id := 0, node := 0, kind := 0, acc := a, done := done }
            (fun d => { d.setAcc a (s.multiply f t cs p (d.acc a)) with busy := done }) (·.findErrors (span pa t.extent)))

/-- MMA (R170). -/
def execMma (f : FmtA) (s : State) : Out := fireNode (planMma f) s

/-! ## ldst, mswap, mzero -/

/-- The load of the shadow plane from a tile, or its arming for the ring (R172). -/
def planLdst (f : FmtA) (s : State) : Plan :=
  let n := bitsOf f.imm 5 0
  let ring := f.imm.getLsbD 6
  dotPlan f false s (fun _ => s.selDot.shState == .empty && (ring || (s.selTask.tile n).state == .ready)) (fun h =>
    if ring then dotLater s f [] { id := 0, node := 0, kind := 3, orig := h.origin } (fun d => { d with shState := .armed }) id
    else match s.useTile s.sel.1 n .read with
      | .error x => trapOf f x
      | .ok (t, pa) =>
        if t.cols != 8 || t.rows < 32 || 256 < t.rows || t.rows % 32 != 0 || !recFmt t.fmt then
          trapOf f (xlateFault 0x43 t.base 7 .read)
        else
          let cs := s.tileCuts h pa t.extent
          let p := s.planeOf t cs
          let done := s.now + (p.bytes.length + 255) / 256 + 4 + 2 * hops s.selCell (sramCell pa)
          dotLater s f cs { id := 0, node := 0, kind := 1, tile := n, orig := h.origin, done := done }
            (fun d => { d with shadow := p, shState := .loading }) (·.findErrors (span pa t.extent)))

/-- LDST (R172). -/
def execLdst (f : FmtA) (s : State) : Out := fireNode (planLdst f) s

/-- The shadow plane becomes active (R173). -/
def planMswap (f : FmtA) (s : State) : Plan :=
  dotPlan f false s (fun _ => s.selDot.shState == .loaded && s.selDot.busy ≤ s.now) (fun h =>
    .fire { outs := completion f h.origin
            post := fun s' _ _ => s'.modDot s.sel.1 s.selCell (fun d =>
              { d with active := some d.shadow, shadow := {}, shState := .empty }) })

/-- MSWAP (R173). -/
def execMswap (f : FmtA) (s : State) : Out := fireNode (planMswap f) s

/-- An accumulator cleared (R174). -/
def planMzero (f : FmtA) (s : State) : Plan :=
  let a := bitsOf f.imm 1 0
  dotPlan f false s (fun _ => !s.selDot.multiplying a && !s.selDot.draining a) (fun h =>
    .fire { outs := completion f h.origin
            post := fun s' _ _ => s'.modDot s.sel.1 s.selCell (fun d => d.setAcc a {}) })

/-- MZERO (R174). -/
def execMzero (f : FmtA) (s : State) : Out := fireNode (planMzero f) s

/-! ## mdrain -/

/-- Fields of a drain route (R175). -/
def routeTile (w : Word) : Nat := bitsOf w 5 0
def routeTy (w : Word) : Option Ty :=
  match bitsOf w 11 8 with
  | 5 => some .f32
  | 6 => some .f16
  | 7 => some .bf16
  | _ => none
def routeValid (w : Word) : Bool := w.getLsbD 6 && (routeTy w).isSome && bitsOf w 14 12 ≤ 5

/-- The bytes of a drain of `rows` rows into a tile of FMT code (R175, R257): elements, and the scale byte of each record. -/
def drainBytes (fmt rows : Nat) : Nat := rows * fmtBits fmt + (if fmt = 7 then 8 * ((rows + 31) / 32) else 0)

/-- The checks of R175 on a route and its destination. -/
def State.drainFault (s : State) (w : Word) (rows : Nat) : Except XFault (Tile × Nat) :=
  if !routeValid w then .error (xlateFault 0x44 0 7 .write)
  else match s.useTile s.sel.1 (routeTile w) .write with
    | .error x => .error x
    | .ok (t, pa) =>
      if t.fmt != bitsOf w 11 8 || t.cols != 8 || t.rows < rows then .error (xlateFault 0x44 t.base 7 .write) else .ok (t, pa)

/-- The route number of a firing (R175). -/
def routeNo (f : FmtA) (h : Heads) : Nat :=
  if f.imm.getLsbD 2 then (leftElems .i64 h.r).headD 0 % 8 else bitsOf f.imm 5 3

/-- A poisoned route token (R175). -/
def routePoison (f : FmtA) (h : Heads) : Option Origin :=
  if f.imm.getLsbD 2 then h.r.bind Token.origin else none

/-- A drain of an accumulator through a route (R175); its bytes are written when it ends. -/
def planMdrain (f : FmtA) (s : State) : Plan :=
  let a := bitsOf f.imm 1 0
  let d := s.selDot
  let rows := (d.acc a).rows
  dotPlan f (f.imm.getLsbD 2) s
    (fun h =>
      let w := d.routes.get 0 (routeNo f h)
      !d.multiplying a && !d.draining a &&
        ((routePoison f h).isSome || !routeValid w || (s.selTask.tile (routeTile w)).state == .empty))
    (fun h => match routePoison f h with
      | some o => .fire { poisonFire [] o 7 with needs := [f.t0, f.t1] }
      | none =>
        let k := routeNo f h
        let w := d.routes.get 0 k
        match s.drainFault w rows with
        | .error x => trapOf f x
        | .ok (t, pa) =>
          let done := s.now + (drainBytes t.fmt rows + 127) / 128 + 4 + 2 * hops s.selCell (sramCell pa)
          dotLater s f [] { id := 0, node := 0, kind := 2, acc := a, tile := routeTile w, orig := h.origin, done := done
                            rno := k, route := w, rows := rows } id
            (fun s' => if rows = 0 then s'
              else s'.modTaskOf s.sel.1 (fun x => x.setTile (routeTile w) { x.tile (routeTile w) with state := .filling })))

/-- MDRAIN (R175). -/
def execMdrain (f : FmtA) (s : State) : Out := fireNode (planMdrain f) s

/-! ## tstat and tset -/

/-- What `tstat` reads (R176). -/
def State.tileStat (s : State) (kind n : Nat) : Word :=
  let t := s.selTask
  let d := s.selDot
  match kind with
  | 0 => fields [((t.tile n).state.code, 0), (((t.tile n).owner == t.id).toNat, 2)]
  | 1 =>
    let a := n % 4
    fields [((d.multiplying a).toNat, 0), ((!(d.acc a).poison.isEmpty).toNat, 1), ((d.draining a).toNat, 2), ((d.acc a).rows, 8)]
  | 2 =>
    fields [(d.active.isSome.toNat, 0), (d.shState.code, 1), ((match d.active with
      | some p => p.kb
      | none => 0), 4)]
  | _ => d.routes.get 0 (n % 8)

/-- A status packet (R176). -/
def planTstat (f : FmtA) (s : State) : Plan :=
  dotPlan f false s (fun _ => true) (fun h =>
    let n := if f.imm.getLsbD 8 then (leftElems .i64 h.l).headD 0 % 64 else bitsOf f.imm 5 0
    .fire { s.result f .i64 [(s.tileStat (bitsOf f.imm 7 6) n).toNat] h.origin none with lat := 2 })

/-- TSTAT (R176). -/
def execTstat (f : FmtA) (s : State) : Out := fireNode (planTstat f) s

/-- A command or drain of region c is moving a tile (R168). -/
def State.tileMoving (s : State) (c n : Nat) : Bool :=
  let t := s.taskOf c
  (s.cluster c).eq.any (fun k => k.task == t.id && !k.dead && k.claims.contains n) ||
    t.dots.any (fun x => x.2.ops.any (fun o => o.kind == 2 && o.tile == n && o.rows != 0))

/-- The block that region c runs has PRIV = 1. -/
def Region.priv (r : Region) : Bool := match r.img with
  | some im => im.priv
  | none => false

/-- The tile entry that a `tset` MODE 1 writes (R253): in a user block its owner is the issuing task. -/
def entryOf (l : List Nat) (priv : Bool) (task : Nat) : Tile :=
  let w (k : Nat) : Word := BitVec.ofNat 64 (l.getD k 0)
  let t := Tile.ofWords (w 0) (w 1) (w 2)
  if priv then t else { t with owner := task }

/-- Writes of the tile table and of drain routes (R177). -/
def planTset (f : FmtA) (s : State) : Plan :=
  let n := bitsOf f.imm 5 0
  let mode := bitsOf f.imm 8 7
  let c := s.sel.1
  dotPlan f false s
    (fun _ => if mode = 2 then !s.selDot.ops.any (fun o => o.kind == 2 && o.rno == n % 8) else !s.tileMoving c n)
    (fun h => match h.origin with
      | some o => .fire { poisonFire [] o 7 with needs := [f.t0, f.t1] }
      | none =>
        let t := s.selTask
        let priv := s.selRegion.priv
        if mode != 2 && (t.tile n).owner != t.id && !priv then trapOf f (xlateFault 0x45 (t.tile n).base 7 .write)
        else
          let l := leftElems .i64 h.l
          .fire { outs := completion f none
                  post := fun s' _ _ =>
                    match mode with
                    | 0 => s'.modTaskOf c (fun x => x.setTile n { x.tile n with state := TileState.ofCode (bitsOf f.imm 10 9) })
                    | 1 => s'.modTaskOf c (fun x => x.setTile n (entryOf l priv t.id))
                    | _ => s'.modDot c s.selCell (fun d =>
                        { d with routes := d.routes.set (n % 8) (BitVec.ofNat 64 (l.headD 0)) }) })

/-- TSET (R177). -/
def execTset (f : FmtA) (s : State) : Out := fireNode (planTset f) s

/-! ## Events of the dot block -/

/-- Delivers the completion token of an operation of a cell at its end, `lat` cycles on. -/
def State.dotDone (s : State) (c cell : Nat) (o : DotOp) (lat : Nat) : State :=
  let tok := match o.orig with
    | some x => badCtl true x
    | none => ctlTok true
  (s.modRegion c (fun r =>
    (r.fill (Nat.max o.done s.now) cell lat o.t0 o.id tok o.bound).fill (Nat.max o.done s.now) cell lat o.t1 o.id tok o.bound)).modDot c cell
      (fun d => { d with ops := d.ops.filter (fun x => x.id != o.id) })

/-- The first operation of a kind in a cell that has ended. -/
def State.dotEnded (s : State) (c cell kind : Nat) : Option DotOp :=
  if (s.cluster c).skip == some s.now then none
  else ((s.taskOf c).dot cell).ops.find? (fun o => o.kind == kind && o.done ≤ s.now)

/-- MMA_COMPLETE (R170): the array frees, and the token is available six cycles later. -/
def execMmaComplete (c cell : Nat) (s : State) : Out :=
  match s.dotEnded c cell 0 with
  | some o => .next (s.dotDone c cell o 6)
  | none => .next s

/-- SHADOW_LOADED (R172). -/
def execShadowLoaded (c cell : Nat) (s : State) : Out :=
  match s.dotEnded c cell 1 with
  | some o => .next ((s.dotDone c cell o 0).modDot c cell (fun d => { d with shState := .loaded }))
  | none => .next s

/-- The bytes of a drain (R175, R257): element (i, j) rounded in the route's mode, each making its draw (R45). -/
def drainWrites (ty : Ty) (mode : Nat) (sat : Bool) (pa tileRows rows : Nat) (acc : Acc) (g : Nat) : List PByte × Nat :=
  let elems := (List.range (8 * rows)).map (fun e => (e, (acc.elems.get 0 e).toNat))
  let (codes, g1) := drawLanes mode (fun z (x : Nat × Nat) =>
    (x.1, Num.roundTo ty mode sat false z (Num.decodeF .f32 x.2))) g elems
  let z := ty.elemBits / 8
  let nb := (tileRows + 31) / 32
  let place (e : Nat) : Nat :=
    if ty = .bf16 then pa + ((e % 8) * nb + e / 8 / 32) * 65 + 2 * (e / 8 % 32) else pa + e * z
  let scales := if ty = .bf16 then (List.range 8).flatMap (fun j => (List.range ((rows + 31) / 32)).map (fun k =>
      ({ addr := pa + (j * nb + k) * 65 + 64, val := 0x7F } : PByte))) else []
  (codes.flatMap (fun x => pbytes (place x.1) (leBytes z x.2) (acc.poison.contains x.1)) ++ scales, g1)

/-- The writes of a drain that has ended; the tile goes READY, and under CLR the accumulator is cleared (R175). The draws of a
stochastic mode are made here, when the drain ends, from the generator as it then stands: R45 does not say when (DESIGN CHOICE,
log entry 17). -/
def State.drainStore (s : State) (c cell : Nat) (o : DotOp) : State :=
  let t := s.taskOf c
  let tile := t.tile o.tile
  let clr (st : State) : State := st.modDot c cell (fun d =>
    let d1 := if o.route.getLsbD 7 then d.setAcc o.acc {} else d
    { d1 with ops := d1.ops.map (fun x => if x.id = o.id then { x with wrote := true, bound := union x.bound (newWrites s st) } else x) })
  match s.tileBase c tile .write, routeTy o.route with
  | .ok pa, some ty =>
    if o.rows = 0 then clr s
    else
      let w := drainWrites ty (bitsOf o.route 14 12) (o.route.getLsbD 15) pa tile.rows o.rows ((t.dot cell).acc o.acc)
        (t.gen o.node).toNat
      clr (((s.store w.1 false none).noteWrites s (s.taskIdOf c)).modTaskOf c (fun x =>
        { x.setTile o.tile { tile with state := .ready } with
          gens := if bitsOf o.route 14 12 = 5 then x.gens.set o.node (BitVec.ofNat 64 w.2) else x.gens }))
  | _, _ => clr s

/-- The signal of a drain (R175, R181): none, or a fixed increment, or the bytes written. -/
def State.drainSignal (s : State) (c : Nat) (o : DotOp) : Except XFault State :=
  let n := bitsOf o.route 23 16
  let inc := bitsOf o.route 29 24
  if n = 0xFF then .ok s
  else s.signal (s.taskOf c) n (if inc = 0 then drainBytes (bitsOf o.route 11 8) o.rows else inc) o.bound

/-- MDRAIN_COMPLETE (R175): the writes, the signal, then the completion token, for cell k, whose drain has
ended; a fault of the signal freezes the region and is retried on resume. -/
def execMdrainComplete (c k : Nat) (s : State) : Out :=
  match s.dotEnded c k 2 with
  | none => .next s
  | some o =>
    let s1 := if o.wrote then s else s.drainStore c k o
    match s1.dotEnded c k 2 with
    | none => .next s1
    | some o1 =>
      if (s1.region c).frozen.isSome then .next s1
      else match s1.drainSignal c o1 with
        | .error x => .next (s1.raise c (s1.semRecord c o1.node x))
        | .ok s2 => .next (s2.dotDone c k o1 0)

end Sys2Proof.Machine
end

