-- ==== Sys2Proof/Machine/Access.lean ====
section
/-!
DEFINITION. Memory accesses (R149 to R163): their issue, the latency of their home, and what performing one does, under the
consistency model of spec/09.
-/

namespace Sys2Proof.Machine

open Sys2Proof

/-! ## Fields -/

/-- Bytes of a size field (R68). -/
def sizeBytes (sz : Nat) : Nat := if sz = 4 then 32 else if sz = 5 then 128 else 2 ^ sz

/-- The fields of a memory instruction; those of a `fence` for any other. -/
def memFmt (i : Instr) : FmtM :=
  (i.mFmt).getD { pm := .always, t0 := .none, t1 := .none, sz := 0, sc := 0, ord := 0, lsid := 0, off := 0 }

/-- Bytes that an access reads or writes (R157, R158, R160). -/
def accessBytes (i : Instr) (data : Option Token) : Nat :=
  match i with
  | .stp _ => (data.map bytesOfTok).getD 0
  | .lnemp _ | .lnful _ => 1
  | i => sizeBytes (memFmt i).sz.toNat

/-- The alignment an access needs (R153). -/
def accessAlign (i : Instr) : Nat :=
  let f := memFmt i
  match i with
  | .ld _ | .st _ => if f.ord = 0 then 1 else sizeBytes f.sz.toNat
  | .ldp _ | .stp _ => if f.ord = 0 then 4 else 32
  | .ldfe _ | .stfe _ | .amo _ | .cas _ | .rmw _ => sizeBytes f.sz.toNat
  | _ => 1

/-- The kind of access (R343). -/
def accessKind : Instr → AccKind
  | .ld _ | .ldp _ | .ldfe _ | .pref _ => .read
  | .amo _ | .cas _ | .rmw _ => .atomic
  | _ => .write

/-- The effective address (R149). -/
def effAddr (i : Instr) (l : Option Token) : Word :=
  let f := memFmt i
  let off : Word := match i with
    | .amo _ | .rmw _ => (f.off.setWidth 16).signExtend 64
    | _ => f.off.signExtend 64
  (match l with
   | some t => low64 t
   | none => 0) + off

/-- The accesses of R153 that must lie in SRAM. -/
def sramOnly : Instr → Bool
  | .ldfe _ | .stfe _ | .lnemp _ | .lnful _ | .rmw _ => true
  | _ => false

/-! ## Latency (R152) -/

/-- The latency of SRAM at `pa` for cell `cell` of cluster c. -/
def sramLatency (c cell pa : Nat) : Nat :=
  let c' := sramClus pa
  if c' = c then 4 + 2 * hops cell (sramCell pa)
  else (if c' / 16 = c / 16 then 40 else 80) + 8 * clusterHops c c'

/-- A system-scope store to HBM that the host sees (R152, R353). -/
def State.hostVisible (s : State) (pa : Nat) : Bool :=
  s.hub.hbmBase * 2 ^ 30 ≤ pa && pa < (s.hub.hbmBase + s.hub.hbmSize) * 2 ^ 30

/-- The unloaded latency of an access of cell `cell` of cluster c; 300 where it is not fixed (log entry 2). -/
def State.latency (s : State) (sp : Space) (cell : Nat) (i : Instr) (a : Word) : Nat :=
  match s.xlateRaw sp a (accessKind i) with
  | .error _ => 1
  | .ok (pa, fill) =>
    let f := memFmt i
    match i with
    | .pref _ => if isSram pa then 4 else if fill.isNone then 1 else 300
    | _ =>
      if isSram pa then sramLatency sp.clus cell pa + (if f.sz = 5 then 3 else 0)
      else match rangeOf pa with
        | some 1 | some 2 => 1
        | _ => 300 + (if isWriteClass i && f.sc = 3 && s.hostVisible pa then 160 else 0)

/-! ## Results -/

/-- The packet a load delivers (R149). -/
def loadTok (sz : Nat) (bs : List Byte) (o : Option Origin) : Token :=
  let (ty, n) : Ty × Nat := match sz with
    | 0 => (.i8, 1)
    | 1 => (.i16, 1)
    | 2 => (.i32, 1)
    | 3 => (.i64, 1)
    | _ => (.i32, 8)
  match o with
  | some x => badPkt ty n x
  | none => .pkt ty n false (BitVec.ofNat 320 (leVal bs))

/-- The header type of an atomic's value (R161, R162). -/
def atomTy (sz fn : Nat) : Ty := if 9 ≤ fn then (if sz = 2 then .f32 else .f64) else (if sz = 2 then .i32 else .i64)

/-- The packet an atomic delivers. -/
def atomTok (ty : Ty) (v : Nat) (o : Option Origin) : Token :=
  match o with
  | some x => badPkt ty 1 x
  | none => mkPkt ty [v]

/-- y of `amo` (R161). -/
def amoValue (fn w x v : Nat) : Nat :=
  let ty : Ty := if w = 32 then .f32 else .f64
  match fn with
  | 0 => (x + v) % 2 ^ w
  | 1 => if Num.sval x w ≤ Num.sval v w then x else v
  | 2 => if Num.sval x w ≤ Num.sval v w then v else x
  | 3 => if x ≤ v then x else v
  | 4 => if x ≤ v then v else x
  | 5 => Nat.land x v
  | 6 => Nat.lor x v
  | 7 => Nat.xor x v
  | 8 => v
  | 9 => Num.roundTo ty 0 false false 0 (Num.addF 0 (Num.decodeF ty x) (Num.decodeF ty v)).1
  | 10 => Num.roundTo ty 0 false false 0 (Num.fmm false (Num.decodeF ty x) (Num.decodeF ty v)).1
  | _ => Num.roundTo ty 0 false false 0 (Num.fmm true (Num.decodeF ty x) (Num.decodeF ty v)).1

/-- y of `rmw` (R163). -/
def rmwValue (fn w x v : Nat) : Nat :=
  match fn with
  | 0 => amoValue 0 w x v
  | 1 => Num.sat (Num.sval x w + Num.sval v w) w true
  | 2 => Num.sat ((x : Int) + v) w false
  | 3 => amoValue 1 w x v
  | 4 => amoValue 2 w x v
  | _ => amoValue 9 w x v

/-! ## Performing -/

/-- What performing an access comes to: a fault, a wait, a wait at the home, or its result and what its node is bound to. -/
inductive Perf where
  | fault (s : State) (x : XFault)
  | wait (s : State)
  | park
  | done (s : State) (t0 : Option Token) (t1 : Token) (bound : List Nat)

/-- A completion token: poisoned by a poisoned predicate (R154). -/
def accessDone (a : Access) : Token :=
  match a.poison with
  | some o => badCtl true o
  | none => ctlTok true

/-- Poison of data read: an uncorrectable error gives a fresh origin with CAUSE 0x1, a marked sector 0x2, before a poisoned predicate (R31, R154). -/
def State.readOrigin (s : State) (c : Nat) (a : Access) (pas : List Nat) (marked : Bool) : Option Origin :=
  if marked then some (originOf c a.node (if pas.any s.damaged then 1 else 2) s.now) else a.poison

/-- The scope of an access: system for drawer and host memory (R152, R353). -/
def scopeOf (f : FmtM) (pa : Nat) : Nat := if rangeOf pa = some 1 ∨ rangeOf pa = some 3 then 3 else f.sc.toNat

/-- The set a read is bound to, each place with the number up to which it goes (R262, R265). -/
def State.readBound (s : State) (c : Nat) (cs : List (Nat × Nat)) (bound : List Nat) (acq : Bool) (scope : Nat) : List Nat :=
  cs.foldl (fun b x =>
    let b1 := union b (s.readSet x.2 x.1)
    if acq then union b1 (syncSet (releasesOf c (s.writesOf x.2 x.1)) scope c) else b1) bound

/-- Places read as the last write left them, which is how an atomic reads (R274). -/
def State.lastCuts (s : State) (pas : List Nat) : List (Nat × Nat) := pas.map (fun a => (a, s.wseq))

/-- Places that begin at a multiple of their number: an access that is naturally aligned (R260). -/
def aligned (pas : List Nat) : Bool := pas.headD 0 % pas.length == 0

/-- An access that is single-copy atomic in its aligned pieces of 8 bytes: all but a plain `ld` or `st` that is not aligned, which is
so by bytes only (R260). -/
def pieced (i : Instr) (pas : List Nat) : Bool :=
  match i with
  | .ld _ | .st _ => aligned pas
  | _ => true

/-- A release of an agent of cluster c. -/
def releaseBy (c scope : Nat) (bound : List Nat) : Option Release := some { by_ := c, scope := scope, bound := bound }

/-- Bytes of a token to be written at given addresses. -/
def tokBytes (pas : List Nat) (t : Option Token) : List PByte :=
  let pay := (t.map payloadOf).getD 0
  let bad := (t.bind Token.origin).isSome
  (List.range pas.length).zipWith (fun k pa => { addr := pa, val := BitVec.ofNat 8 (pay.toNat / 256 ^ k), bad := bad }) pas

/-- `ld` and `ldp` (R157). -/
def State.performLoad (s : State) (c : Nat) (a : Access) (pas : List Nat) (bound : List Nat) (age : Nat) : Perf :=
  let f := memFmt a.ins
  let cs := s.cuts age bound (pieced a.ins pas) pas
  let o := s.readOrigin c a pas (s.cutMarked cs)
  .done (s.findErrors pas) (some (loadTok f.sz.toNat (s.cutBytes cs) o)) (accessDone a)
    (s.readBound c cs bound (f.ord = 1) (scopeOf f (pas.headD 0)))

/-- `st` and `stp` (R158, R159). -/
def State.performStore (s : State) (c : Nat) (a : Access) (pas : List Nat) (bound : List Nat) : Perf :=
  let f := memFmt a.ins
  let s1 := s.storeAll (tokBytes pas a.data) false (if f.ord = 2 then releaseBy c (scopeOf f (pas.headD 0)) bound else none)
    none (!pieced a.ins pas)
  .done s1 none (accessDone a) (union bound [s1.wseq])

/-- The releases that filled (`true`) or emptied a line, as an acquire of its state sees them (R269). -/
def State.lineSync (s : State) (pa : Nat) (filled : Bool) (scope c : Nat) : List Nat :=
  match s.lineRel.find (2 * (pa / 128) + (if filled then 0 else 1)) with
  | some r => syncSet [(0, r)] scope c
  | none => []

/-- `ldfe`, `stfe`, `lnemp` and `lnful` at the home ME (R160, R268, R269): an `ldfe` reads its bytes from its bound set after
synchronising. -/
def State.performLine (s : State) (c : Nat) (a : Access) (pas : List Nat) (bound : List Nat) (age : Nat) : Perf :=
  let f := memFmt a.ins
  let pa := pas.headD 0
  let scope := f.sc.toNat
  match a.ins with
  | .ldfe _ =>
    if !s.lineFull pa then .park
    else
      let b0 := union bound (s.lineSync pa true scope c)
      let cs := s.cuts age b0 true pas
      let o := s.readOrigin c a pas (s.cutMarked cs)
      let b := s.cutSet cs b0
      let s1 := if f.ord = 3 then s.setLine pa false (releaseBy c scope b) else s
      .done (s1.findErrors pas) (some (loadTok f.sz.toNat (s.cutBytes cs) o)) (accessDone a) b
  | .stfe _ =>
    if f.ord = 3 ∧ s.lineFull pa then .park
    else
      let b := if f.ord = 3 then union bound (s.lineSync pa false scope c) else bound
      let s1 := s.storeAll (tokBytes pas a.data) false (releaseBy c scope b)
      let b1 := union b [s1.wseq]
      .done (s1.setLine pa true (releaseBy c scope b1)) none (accessDone a) b1
  | .lnful _ => .done (s.setLine pa true (if f.ord = 2 then releaseBy c scope bound else none)) none (accessDone a) bound
  | _ => .done (s.setLine pa false (if f.ord = 2 then releaseBy c scope bound else none)) none (accessDone a) bound

/-- An atomic of the PAE order (R275): at package or system scope, to SRAM or HBM. -/
def inPae (i : Instr) (pa : Nat) : Bool :=
  2 ≤ (memFmt i).sc.toNat && (isSram pa || rangeOf pa == some 0) && (match i with
    | .amo _ | .cas _ => true
    | _ => false)

/-- The 16-bit source number of an atomic of a node (R275). -/
def paeSource (c node : Nat) : Nat := c * 256 + node / 4 * 4

/-- The stamp of an atomic that the PAE serialises now: 2^16 x cycle + source number, from 1 on (R275). -/
def State.paeStamp (s : State) (src : Nat) : Nat := s.now * 2 ^ 16 + src + 1

/-- `amo`, `cas` and `rmw` at the home (R154, R161 to R163, R274, R275). -/
def State.performAtomic (s : State) (c : Nat) (a : Access) (pas : List Nat) (bound : List Nat) : Perf :=
  let f := memFmt a.ins
  let pa := pas.headD 0
  let sz := f.sz.toNat
  let w := 8 * sizeBytes sz
  let fn := Instr.fnOf f
  let pay := ((a.data.map payloadOf).getD 0).toNat
  let x := leVal (pas.map (Memory.read s.mem))
  let v := pay % 2 ^ w
  let (ty, y, writes, shown) : Ty × Nat × Bool × Nat := match a.ins with
    | .cas _ => (atomTy sz 0, pay / 2 ^ w % 2 ^ w, x == v, x)
    | .rmw _ => let y := rmwValue fn w x v
                (atomTy sz (if fn = 5 then 9 else 0), y, true, y)
    | _ => (atomTy sz fn, amoValue fn w x v, true, x)
  let scope := scopeOf f pa
  let pae := inPae a.ins pa
  let b0 := s.readBound c (s.lastCuts pas) bound (f.ord = 1 ∨ f.ord = 3) scope
  let b := if pae then union b0 s.paeBound else b0
  let s0 := if pae then { s with paeLast := s.paeStamp (paeSource c a.node) } else s
  if pas.any s.marked then
    .done (s0.findErrors pas) (some (badPkt ty 1 (originOf c a.node (if pas.any s.damaged then 1 else 2) s.now))) (accessDone a) b
  else match a.data.bind Token.origin with
    | some o => .done (s0.markSector pa) (some (badPkt ty 1 o)) (accessDone a) b
    | none =>
      if !writes then .done s0 (some (atomTok ty shown none)) (accessDone a) b
      else
        let mine : Bool := match a.ins with
          | .rmw _ => true
          | _ => false
        let s1 := s0.storeAll (pas.zipWith (fun p z => { addr := p, val := z }) (leBytes (w / 8) y)) (!mine)
          (if f.ord = 2 ∨ f.ord = 3 then releaseBy c scope b else none) (if mine then some c else none)
        let s2 := if pae then { s1 with paeBound := union s1.paeBound [s1.wseq] } else s1
        .done s2 (some (atomTok ty shown none)) (accessDone a) (union b [s1.wseq])

/-! ## The places of an access -/

/-- What an access is bound to as it performs (R263). One whose block has ended has taken over what its node was bound to then, and
takes what older stores of that node make. -/
def State.accessBound (s : State) (c : Nat) (a : Access) : List Nat :=
  if a.old then a.bound else union a.bound ((s.region c).node a.node).bound

/-- The address space of an access that looks `age` writes back. -/
def State.accessSpace (s : State) (c : Nat) (a : Access) (age : Nat) : Space :=
  { s.space c with priv := a.priv, lag := age, bound := s.accessBound c a }

/-- A fault at an address as it was resolved names the address before resolution (R343). -/
def Access.unresolved (a : Access) (x : XFault) : XFault := { x with addr := x.addr - a.abs + a.addr }

/-- The place of the first byte of an access, and what a walk would fill. -/
def State.accessHome (s : State) (c : Nat) (a : Access) (age : Nat) : Except XFault (Nat × Option TlbEntry) :=
  (s.xlateRaw (s.accessSpace c a age) a.abs (accessKind a.ins)).mapError a.unresolved

/-- The level at which the walk of an access ended, 7 where it took none (R343). -/
def State.accessLevel (s : State) (c : Nat) (a : Access) (age : Nat) : Nat :=
  match s.accessHome c a age with
  | .ok (_, fill) => fillLevel fill
  | .error _ => 7

/-- The places of the bytes of an access. -/
def State.accessPlaces (s : State) (c : Nat) (a : Access) (age : Nat) : Except XFault (List Nat) :=
  (s.xlateBytes (s.accessSpace c a age) a.abs (accessBytes a.ins a.data) (accessKind a.ins)).mapError a.unresolved

/-- What the translation of an access leaves behind. -/
def State.accessWalked (s : State) (c : Nat) (a : Access) (age : Nat) : State :=
  s.walked (s.accessSpace c a age) a.abs (accessBytes a.ins a.data) (accessKind a.ins)

/-- An access of the PAE order that its region has issued before another, of the same source, stands before it (R275). -/
def State.paeBefore (s : State) (c : Nat) (a : Access) : Bool :=
  (s.region c).accesses.any (fun y => y.id < a.id && y.node / 4 == a.node / 4 && (match s.accessHome c y 0 with
    | .ok (pa, _) => inPae y.ins pa
    | .error _ => false))

/-- An access may take its place in the PAE order now: the hub is reached (R399), a later stamp than the last, and its turn among
those of its source. -/
def State.paeTurn (s : State) (c : Nat) (a : Access) (pa : Nat) : Bool :=
  !inPae a.ins pa || (s.hubOpen c && s.paeLast < s.paeStamp (paeSource c a.node) && !s.paeBefore c a)

/-- An access to SRAM only, outside it, or an `rmw` outside the cluster (R153). -/
def misplaced (c : Nat) (i : Instr) (pa : Nat) : Bool :=
  sramOnly i && (!isSram pa || (match i with
    | .rmw _ => sramClus pa != c
    | _ => false))

/-- The effect of an access at its places. -/
def State.performAt (s : State) (c : Nat) (a : Access) (pas bound : List Nat) (age : Nat) : Perf :=
  match a.ins with
  | .ld _ | .ldp _ => s.performLoad c a pas bound age
  | .st _ | .stp _ => s.performStore c a pas bound
  | .ldfe _ | .stfe _ | .lnemp _ | .lnful _ => s.performLine c a pas bound age
  | _ => s.performAtomic c a pas bound

/-- Performs an access of region c (R150 to R163); `age` says how far back its reads may look (R262, R345). -/
def State.perform (s : State) (c : Nat) (a : Access) (age : Nat) : Perf :=
  let bound := s.accessBound c a
  match a.skip, a.ins with
  | some o, .pref _ => .done s none (badCtl false o) bound
  | some o, .ldp _ => .done s (some (badPkt .i32 8 o)) (badCtl true o) bound
  | some o, _ => .done s (some (loadTok (memFmt a.ins).sz.toNat [] (some o))) (badCtl true o) bound
  | none, .pref _ =>
    if !s.walkOpen (s.accessSpace c a age) a.abs 1 then .wait s
    else .done (s.walked1 (s.accessSpace c a age) a.abs .read) none (ctlTok (match s.accessHome c a age with
      | .ok _ => true
      | .error _ => false)) bound
  | none, _ =>
    let s1 := s.accessWalked c a age
    if !s.walkOpen (s.accessSpace c a age) a.abs (accessBytes a.ins a.data) then .wait s
    else match s.accessPlaces c a age with
    | .error x => .fault s1 x
    | .ok pas =>
      let pa := pas.headD 0
      if misplaced c a.ins pa then .fault s1 (xlateFault 9 a.addr (s.accessLevel c a age) (accessKind a.ins))
      else if (accessKind a.ins = .atomic ∧ (s.otherCopy pa).isSome) ∨ s.paeTurn c a pa = false then .wait s1
      else match s1.reach c (.access a.id) (s.taskOf c).eprio (placed a.addr pas) with
        | .fault x => .fault (s1.reached c (.access a.id)) x
        | .wait s2 => .wait s2
        | .go => (s1.reached c (.access a.id)).performAt c a pas bound age

/-! ## Results and rewinding -/

/-- Removes an access from region c. -/
def State.dropAccess (s : State) (c id : Nat) : State :=
  s.modRegion c (fun r => { r with accesses := r.accesses.filter (fun x => x.id != id) })

/-- Accesses that no rollback takes back (R387). -/
def irrevocable : Instr → Bool
  | .amo _ | .cas _ | .rmw _ | .stfe _ | .lnful _ | .lnemp _ => true
  | .ldfe f => f.ord == 3
  | _ => false

/-- Delivers the tokens of an access that has performed (R150): nothing of a block that has ended waits for them. -/
def State.finishAccess (s : State) (c : Nat) (a : Access) (t0 : Option Token) (t1 : Token) (bound : List Nat) : State :=
  let f := memFmt a.ins
  let s1 := (if irrevocable a.ins && a.skip.isNone then s.irrevoke c else s).dropAccess c a.id
  if a.old then
    s1.modRegion c (fun r => { r with accesses := r.accesses.map (fun (x : Access) =>
      if x.old && x.node == a.node && x.left == a.left then { x with bound := union x.bound bound } else x) })
  else
    s1.modRegion c (fun r =>
      let r1 := match t0 with
        | some t => r.fill s.now (a.node / 4) 0 f.t0 a.id t bound
        | none => r
      let r2 := r1.fill s.now (a.node / 4) 0 f.t1 a.id t1 bound
      let held : Bool := isWriteClass a.ins && (match r.img, r.sel with
        | some im, some x => a.fired < x.cycle && im.smask.getLsbD f.lsid.toNat
        | some im, none => im.smask.getLsbD f.lsid.toNat
        | none, _ => false)
      { r2.setNode a.node { r2.node a.node with bound := union (r2.node a.node).bound bound } with
        storeAt := if held then s.now else r2.storeAt })

/-- Puts a rewound operand back at the head of a queue. -/
def Queue.unpop (q : Queue) (t : QTok) : Queue := { q with toks := { t with pooled := !q.toks.all (·.pooled) } :: q.toks }

/-- Rewinds a firing and every later firing of its node (R155): their places go, their operands return in order. -/
def State.rewind (s : State) (c : Nat) (a : Access) : State :=
  let mine := (s.region c).accesses.filter (fun x => x.node == a.node && a.id ≤ x.id && !x.old)
  s.modRegion c (fun r =>
    let r1 := mine.foldl (fun r x => r.unpend s.now x.id) r
    let n := mine.reverse.foldl (fun n x => x.ops.foldl (fun n o => n.setQueue o.1 ((n.queue o.1).unpop o.2)) n) (r1.node a.node)
    { r1.setNode a.node n with accesses := r1.accesses.filter (fun x => !(mine.any (fun y => y.id == x.id))) })

/-- A fault of an access: rewound and raised (R155); of a node that has retired it is raised as it stands, and the access is
tried again after a resume; of a task that ends it is dropped. -/
def State.accessFault (s : State) (c : Nat) (a : Access) (x : XFault) : State :=
  if (s.taskOf c).ending then s.dropAccess c a.id
  else if a.old || ((s.region c).node a.node).retired then
    if (s.region c).frozen.isSome then s else s.raise c (s.faultRecord c a.node x 0)
  else (s.rewind c a).raise c { s.faultRecord c a.node x 0 with rewinds := true }

/-- Parked requests at the home ME of a line (R160). -/
def State.parkedAt (s : State) (pa : Nat) : Nat :=
  (s.clusters.map (fun x => (x.2.region.accesses.filter (fun a =>
    a.parked.isSome && (match s.accessHome x.1 a 0 with
      | .ok (q, _) => q / 2 ^ 18 == pa / 2 ^ 18
      | .error _ => false))).length)).foldl (· + ·) 0

/-- A request that must wait: it is parked if its home has room among 32, else it tries again in 16 cycles (R160). -/
def State.park (s : State) (c : Nat) (a : Access) : State :=
  let room : Bool := match s.accessHome c a 0 with
    | .ok (pa, _) => decide (s.parkedAt pa < 32)
    | .error _ => true
  let a1 := if room then { a with parked := some (s.arrivals + 1), retry := none } else { a with parked := none, retry := some (s.now + 16) }
  ({ s with arrivals := s.arrivals + 1 }).modRegion c (fun r =>
    { r with accesses := r.accesses.map (fun (x : Access) => if x.id = a.id then a1 else x) })

/-- An access whose turn it is: it performs, or faults, or parks. -/
def State.runAccess (s : State) (c : Nat) (a : Access) (age : Nat) : State :=
  match s.perform c a age with
  | .fault s' x => s'.accessFault c a x
  | .wait s' => s'
  | .park => if a.parked.isSome then s else s.park c a
  | .done s' t0 t1 bound => (s'.noteWrites s (s.taskIdOf c)).finishAccess c a t0 t1 bound

/-- The access performs in the order of its node's firings (R150). -/
def Region.accessTurn (r : Region) (a : Access) : Bool :=
  r.accesses.all (fun x => x.node != a.node || x.old != a.old || a.id ≤ x.id)

end Sys2Proof.Machine
end

