-- ==== Sys2Proof/Machine/MemOps.lean ====
section
/-!
DEFINITION. The memory instructions, 0xA0 to 0xAC (R149 to R165), and the events by which their accesses perform.
-/

namespace Sys2Proof.Machine

open Sys2Proof

/-! ## Issue -/

/-- Accesses that the selected node has in flight (R150). -/
def State.inFlight (s : State) : Nat := (s.selRegion.accesses.filter (fun a => a.node == s.sel.2 && !a.old)).length

/-- The heads of some slots of the selected node, kept for a rewind (R155). -/
def State.capture (s : State) (slots : List Nat) : List (Nat × QTok) :=
  slots.filterMap (fun k => ((s.selNode.queue k).operand s.now).map (fun t => (k, t)))

/-- The T_POISON record of a write-class node (R154, R384): TINFO_A the origin, TINFO_B the node, TINFO_C the kind of sink. -/
def poisonTrap (s : State) (pads : List Target) (o : Origin) (kind : Nat) : Plan :=
  .trap pads 5 0 (o.setWidth 64) (BitVec.ofNat 64 s.sel.2) (BitVec.ofNat 64 kind)

/-- An address as the ME resolves it at the issue of an access (R233): a region-relative one names its cluster from then on. -/
def State.resolved (s : State) (sp : Space) (a : Word) : Word :=
  if bitsOf a 63 56 = 0xFD then (match s.sram sp a .read with
    | .ok pa => BitVec.ofNat 64 pa
    | .error _ => a) else a

/-- The firing that issues an access (R150): `pads` are the targets whose tokens come when it has performed. -/
def issueFire (i : Instr) (pads : List Target) (h : Heads) (skip : Option Origin) (s : State) : Fire :=
  let a := effAddr i h.l
  let sp := s.space s.sel.1
  let ready := s.now + (if skip.isSome then 1 else s.latency sp s.selCell i a)
  { pops := h.slots, later := pads, busy := some (3, 1), defer := true
    post := fun s' id b =>
      s'.modRegion s.sel.1 (fun r => { r with accesses := r.accesses ++ [
        { id := id, node := s.sel.2, ins := i, fired := s.now, ready := ready, addr := a, abs := s.resolved sp a, data := h.r
          poison := h.p.bind Token.origin, skip := skip, bound := b, ops := s.capture h.slots, priv := s.selTask.supb }] }) }

/-- A memory firing (R26, R150): at most eight in flight, one issue of the cell in a cycle; a misaligned access traps (R153).
A discard waits for neither the accesses in flight nor the targets (R27). -/
def memPlan (i : Instr) (f : FmtM) (uR : Bool) (pads : List Target) (s : State) : Plan :=
  if !s.unitFree 3 then .wait
  else match s.heads f.pm true uR false with
    | none => .wait
    | some h =>
      if !h.pass then .discard h.slots
      else if 8 ≤ s.inFlight then .wait
      else
        let a := effAddr i h.l
        let bad := h.l.bind Token.origin
        let badP := firstOrigin [h.l, h.p]
        if isWriteClass i && badP.isSome then poisonTrap s pads (badP.getD 0) 4
        else
          let skip := match i with
            | .pref _ => badP
            | _ => bad
          if skip.isNone && a.toNat % accessAlign i != 0 then
            .trap pads 4 0 a 0 (BitVec.ofNat 64 (8 * (accessKind i).code))
          else .fire (issueFire i pads h skip s)

/-! ## The instructions -/

/-- A load of 1 to 8 bytes (R157). -/
def planLd (f : FmtM) (s : State) : Plan := memPlan (.ld f) f false [f.t0, f.t1] s

/-- LD (R157). -/
def execLd (f : FmtM) (s : State) : Out := fireNode (planLd f) s

/-- A store of 1 to 8 bytes (R158). -/
def planSt (f : FmtM) (s : State) : Plan := memPlan (.st f) f true [f.t1] s

/-- ST (R158). -/
def execSt (f : FmtM) (s : State) : Out := fireNode (planSt f) s

/-- A load of 32 bytes (R157). -/
def planLdp (f : FmtM) (s : State) : Plan := memPlan (.ldp f) f false [f.t0, f.t1] s

/-- LDP (R157). -/
def execLdp (f : FmtM) (s : State) : Out := fireNode (planLdp f) s

/-- A store of a whole payload (R158). -/
def planStp (f : FmtM) (s : State) : Plan := memPlan (.stp f) f true [f.t1] s

/-- STP (R158). -/
def execStp (f : FmtM) (s : State) : Out := fireNode (planStp f) s

/-- A load that waits for a full line (R160). -/
def planLdfe (f : FmtM) (s : State) : Plan := memPlan (.ldfe f) f false [f.t0, f.t1] s

/-- LDFE (R160). -/
def execLdfe (f : FmtM) (s : State) : Out := fireNode (planLdfe f) s

/-- A store that fills its line (R160). -/
def planStfe (f : FmtM) (s : State) : Plan := memPlan (.stfe f) f true [f.t1] s

/-- STFE (R160). -/
def execStfe (f : FmtM) (s : State) : Out := fireNode (planStfe f) s

/-- Sets a line empty (R160). -/
def planLnemp (f : FmtM) (s : State) : Plan := memPlan (.lnemp f) f false [f.t1] s

/-- LNEMP (R160). -/
def execLnemp (f : FmtM) (s : State) : Out := fireNode (planLnemp f) s

/-- Sets a line full (R160). -/
def planLnful (f : FmtM) (s : State) : Plan := memPlan (.lnful f) f false [f.t1] s

/-- LNFUL (R160). -/
def execLnful (f : FmtM) (s : State) : Out := fireNode (planLnful f) s

/-- An atomic at the home (R161). -/
def planAmo (f : FmtM) (s : State) : Plan := memPlan (.amo f) f true [f.t0, f.t1] s

/-- AMO (R161). -/
def execAmo (f : FmtM) (s : State) : Out := fireNode (planAmo f) s

/-- A compare and swap (R162). -/
def planCas (f : FmtM) (s : State) : Plan := memPlan (.cas f) f true [f.t0, f.t1] s

/-- CAS (R162). -/
def execCas (f : FmtM) (s : State) : Out := fireNode (planCas f) s

/-- A read-modify-write of the cluster (R163). -/
def planRmw (f : FmtM) (s : State) : Plan := memPlan (.rmw f) f true [f.t0, f.t1] s

/-- RMW (R163). -/
def execRmw (f : FmtM) (s : State) : Out := fireNode (planRmw f) s

/-- A lookup of a translation (R165). -/
def planPref (f : FmtM) (s : State) : Plan := memPlan (.pref f) f false [f.t1] s

/-- PREF (R165). -/
def execPref (f : FmtM) (s : State) : Out := fireNode (planPref f) s

/-- A join: a clean ordering token, whatever comes in (R164). -/
def planFence (f : FmtM) (s : State) : Plan :=
  if !s.unitFree 3 then .wait
  else match s.heads f.pm true true false with
    | none => .wait
    | some h =>
      if !h.pass then .discard h.slots
      else .fire { pops := h.slots, outs := [(f.t0, ctlTok true), (f.t1, ctlTok true)], busy := some (3, 1) }

/-- FENCE (R164). -/
def execFence (f : FmtM) (s : State) : Out := fireNode (planFence f) s

/-! ## Performing -/

/-- The words of an item of an access for an umpire (R391): address, the access with its scope and ordering, the poison of its data
and of its predicate, bytes, data. -/
def Access.item (a : Access) : List Word :=
  [a.addr, encode a.ins, BitVec.ofNat 64 ((a.data.bind Token.origin).isSome.toNat + 2 * a.poison.isSome.toNat),
    BitVec.ofNat 64 (accessBytes a.ins a.data)] ++
    (List.range 5).map (fun k => (((a.data.map payloadOf).getD 0) >>> (64 * k)).setWidth 64)

/-- The access numbered k of region c may perform now: its time has come, the accesses of its node before it have performed, and
it is not parked; at a freeze issued accesses still perform, but for those that wait at a line (R150, R152, R156, R160). -/
def State.mayPerform (s : State) (c k : Nat) : Option Access :=
  match (s.region c).accesses.find? (fun a => a.id == k) with
  | none => none
  | some a =>
    if a.ready ≤ s.now && (s.region c).accessTurn a && a.parked.isNone && a.retry.isNone && (s.cluster c).skip != some s.now then some a
    else none

/-- Sends an access of a mirrored task to its umpire (R391), once. -/
def State.sendItem (s : State) (c : Nat) (a : Access) : State :=
  if s.hub.items.any (fun x => x.task == s.taskIdOf c && x.what == 0 && x.id == a.id) then s
  else s.pushItem c a.node 0 a.id a.item

/-- An access to the slices of the region's own cluster, which each copy of a mirrored task makes alone (R391). -/
def State.ownSlice (s : State) (c : Nat) (a : Access) : Bool :=
  match s.accessHome c a 0 with
  | .ok (pa, _) => isSram pa && sramClus pa == c
  | .error _ => true

/-- An access that is held up because the region is frozen and it may wait at its home (R156): it is rewound. -/
def State.frozenPark (s : State) (c : Nat) (a : Access) : Bool :=
  (s.region c).halted && (match a.ins with
    | .ldfe _ | .stfe _ => (match s.perform c a 0 with
        | .park => true
        | _ => false)
    | _ => false)

/-- An access to far memory whose turn has not come asks for its slots all the same (R349). -/
def State.askEarly (s : State) (c : Nat) (a : Access) : State :=
  if s.mirrored c || a.skip.isSome || a.parked.isSome || a.retry.isSome || s.now < a.ready || (s.cluster c).skip == some s.now ||
    !s.walkOpen (s.accessSpace c a 0) a.abs (accessBytes a.ins a.data) then s
  else match s.accessPlaces c a 0 with
    | .error _ => s
    | .ok pas => (match s.reach c (.access a.id) (s.taskOf c).eprio (placed a.addr pas) with
      | .wait s1 => s1
      | _ => s)

/-- MEMORY_ACCESS_PERFORM (R150): the access numbered k of region c performs; a plain load may look `age` writes back (R262). An
access of a mirrored task goes to its umpire first (R391). -/
def execMemoryAccessPerform (c k age : Nat) (s : State) : Out :=
  match s.mayPerform c k with
  | none => .next (match (s.region c).accesses.find? (fun a => a.id == k) with
    | some a =>
      if (s.region c).halted && !a.old && (a.parked.isSome || a.retry.isSome) then s.rewind c a else s.askEarly c a
    | none => s)
  | some a =>
    if s.mirrored c && a.skip.isNone && !s.ownSlice c a then .next (s.sendItem c a)
    else if s.frozenPark c a then .next (s.rewind c a)
    else .next (s.runAccess c a age)

/-- Requests parked at a line, with their regions, in arrival order (R160). -/
def State.waiters (s : State) (line : Nat) : List (Nat × Access) :=
  let here := s.clusters.flatMap (fun x =>
    (x.2.region.accesses.filter (fun a => a.parked.isSome && (match s.accessHome x.1 a 0 with
      | .ok (pa, _) => pa / 128 == line
      | .error _ => false))).map (fun a => (x.1, a)))
  let times := here.foldl (fun l x => NSet.insert l (x.2.parked.getD 0)) []
  times.filterMap (fun t => here.find? (fun x => x.2.parked == some t))

/-- FULL_EMPTY_WAKE (R160): the parked requests of a line are served in arrival order, each whose condition then holds. -/
def execFullEmptyWake (line : Nat) (s : State) : Out :=
  .next ((s.waiters line).foldl (fun st x => if (st.region x.1).halted then st else st.runAccess x.1 x.2 st.lag) s)

/-- PARK_RETRY (R160): a request that found no room tries again after 16 cycles. -/
def execParkRetry (c k : Nat) (s : State) : Out :=
  match (s.region c).accesses.find? (fun a => a.id == k) with
  | none => .next s
  | some a => match a.retry with
    | none => .next s
    | some t =>
      if s.now < t then .next s
      else if (s.region c).halted then .next (s.rewind c a)
      else .next (s.runAccess c a s.lag)

/-- TABLE_WALK (R341): the misses of the access numbered k walk the tables and fill the TLB of its cluster; a walk that ends in a
fault fills nothing, and the access meets it as it performs. It waits while the way to the tables is closed (R399). -/
def execTableWalk (c k : Nat) (s : State) : Out :=
  match s.mayPerform c k with
  | none => .next s
  | some a => .next (if a.skip.isSome || !s.walkOpen (s.accessSpace c a s.lag) a.abs (accessBytes a.ins a.data) then s
      else s.accessWalked c a s.lag)

end Sys2Proof.Machine
end

