-- ==== Sys2Proof/Machine/Packet.lean ====
section
/-!
DEFINITION. Packet reduction and reshaping, 0x5A to 0x65 (R119 to R122).
-/

namespace Sys2Proof.Machine

open Sys2Proof Sys2Proof.Num

/-- A result made of the lanes of L and R (R119 to R122). -/
def lanePlan (uR : Bool) (op : List Nat → List Nat → List Nat) (f : FmtA) (s : State) : Plan :=
  cePlan 0 1 1 f true uR false s (fun h =>
    s.result f f.ty (op (leftElems f.ty h.l) (leftElems f.ty h.r)) h.origin none)

/-- One level of the fixed tree of psum (R119): neighbours added, an odd last value kept; results, invalid flags, generator. -/
def treeLevel (f : FmtA) (mode : Nat) : Nat → List Nat → List Nat × List Bool × Nat
  | g, a :: b :: t =>
    let q := addF mode (readF f.ty (ftzOf f.md) a) (readF f.ty (ftzOf f.md) b)
    let (z, g1) := draw mode g
    let (es, bad, g2) := treeLevel f mode g1 t
    (roundTo f.ty mode (satOf f.md) (ftzOf f.md) z q.1 :: es, q.2 :: bad, g2)
  | g, l => (l, [], g)

/-- The tree of psum: at most four levels for eight lanes (R119). -/
def treeSum (f : FmtA) (mode : Nat) : Nat → Nat → List Nat → List Bool → List Nat × List Bool × Nat
  | 0, g, l, bad => (l, bad, g)
  | fuel + 1, g, l, bad =>
    if l.length ≤ 1 then (l, bad, g)
    else
      let (l1, bad1, g1) := treeLevel f mode g l
      treeSum f mode fuel g1 l1 (bad ++ bad1)

/-- The greatest or least lane (R119): signed for integers, R109 for floating point. -/
def extremePlan (greater : Bool) (f : FmtA) (s : State) : Plan :=
  cePlan 0 (if f.ty.isInt then 3 else 12) 1 f true false false s (fun h =>
    let es := leftElems f.ty h.l
    if f.ty.isInt then
      s.result f f.ty [(es.drop 1).foldl (fun a b =>
        if (sval a f.ty.elemBits ≤ sval b f.ty.elemBits) == greater then b else a) (es.headD 0)] h.origin none
    else
      let vs := valuesOf f es
      let v := (vs.drop 1).foldl (fun a b => (fmm greater a b).1) (vs.headD (.nan false))
      s.result f f.ty [roundTo f.ty 0 false false 0 v] h.origin (pxCause f (vs.map sig)))

/-- The sum of the lanes, in a fixed tree for floating types (R119). A single lane meets no addition: it is read under FTZ
(R47), a NaN gives the canonical NaN (R38), and a signalling one is invalid (R48). -/
def planPsum (f : FmtA) (s : State) : Plan := cePlan 0 (if f.ty.isInt then 3 else 12) 1 f true false false s (fun h =>
    let es := leftElems f.ty h.l
    if f.ty.isInt then
      s.result f f.ty [fit (satOf f.md) ((es.map (sval · f.ty.elemBits)).foldl (· + ·) 0) f.ty.elemBits] h.origin none
    else
      let mode := s.mode f.md
      let (l, bad, g) := treeSum f mode 4 s.gen es []
      let v := readF f.ty (ftzOf f.md) (l.headD 0)
      let es1 := if es.length = 1 then [roundTo f.ty 0 false false 0 v] else l.take 1
      { s.result f f.ty es1 h.origin (pxCause f (if es.length = 1 then [sig v] else bad)) with gen := newGen mode g })

/-- PSUM (R119). -/
def execPsum (f : FmtA) (s : State) : Out := fireNode (planPsum f) s

/-- The greatest lane (R119). -/
def planPmax (f : FmtA) (s : State) : Plan := extremePlan true f s

/-- PMAX (R119). -/
def execPmax (f : FmtA) (s : State) : Out := fireNode (planPmax f) s

/-- The least lane (R119). -/
def planPmin (f : FmtA) (s : State) : Plan := extremePlan false f s

/-- PMIN (R119). -/
def execPmin (f : FmtA) (s : State) : Out := fireNode (planPmin f) s

/-- Lanes shifted by BY places, filled from R (R119). -/
def shiftLanes (by_ : Int) (l r : List Nat) : List Nat :=
  let m := l.length
  (List.range m).map (fun (i : Nat) =>
    let j : Int := (i : Int) - by_
    if 0 ≤ j ∧ j < m then l.getD j.toNat 0
    else if r.length = 1 then r.getD 0 0
    else if 0 < by_ then (if (m : Int) - by_ + i < 0 then 0 else r.getD ((m : Int) - by_ + i).toNat 0)
    else r.getD (i - (m + by_)).toNat 0)

/-- Lanes shifted by BY (R119). -/
def planPlsh (f : FmtA) (s : State) : Plan := lanePlan true (shiftLanes (sval (bitsOf f.imm 3 0) 4)) f s

/-- PLSH (R119). -/
def execPlsh (f : FmtA) (s : State) : Out := fireNode (planPlsh f) s

/-- Lanes permuted by indices (R120). -/
def planPperm (f : FmtA) (s : State) : Plan := lanePlan true (fun l r =>
    (List.range l.length).map (fun i => l.getD ((if r.length = 1 then r.getD 0 0 else r.getD i 0) % 16) 0)) f s

/-- PPERM (R120). -/
def execPperm (f : FmtA) (s : State) : Out := fireNode (planPperm f) s

/-- Copies of one lane (R120). -/
def planPbcast (f : FmtA) (s : State) : Plan := lanePlan false (fun l _ => List.replicate (bitsOf f.imm 6 4 + 1) (l.getD (bitsOf f.imm 2 0) 0)) f s

/-- PBCAST (R120). -/
def execPbcast (f : FmtA) (s : State) : Out := fireNode (planPbcast f) s

/-- One lane (R120). -/
def planPext (f : FmtA) (s : State) : Plan := lanePlan false (fun l _ => [l.getD (bitsOf f.imm 2 0) 0]) f s

/-- PEXT (R120). -/
def execPext (f : FmtA) (s : State) : Out := fireNode (planPext f) s

/-- One lane replaced, the packet growing if needed (R120). -/
def planPins (f : FmtA) (s : State) : Plan := cePlan 0 1 1 f true (!f.ir) false s (fun h =>
    let l := leftElems f.ty h.l
    let k := if f.ir then 0 else bitsOf f.imm 2 0
    let v := (rightElems f h.r).headD 0
    s.result f f.ty ((List.range (Nat.max l.length (k + 1))).map (fun i => if i = k then v else l.getD i 0)) h.origin none)

/-- PINS (R120). -/
def execPins (f : FmtA) (s : State) : Out := fireNode (planPins f) s

/-- Lanes of L then of R (R121). -/
def planPjoin (f : FmtA) (s : State) : Plan := lanePlan true (fun l r => (l ++ r).take f.ty.maxLanes) f s

/-- PJOIN (R121). -/
def execPjoin (f : FmtA) (s : State) : Out := fireNode (planPjoin f) s

/-- Lanes below AT to T0, the others to T1 (R121). -/
def planPsplit (f : FmtA) (s : State) : Plan := cePlan 0 1 1 f true false false s (fun h =>
    let l := leftElems f.ty h.l
    let k := bitsOf f.imm 2 0
    let b := if l.length ≤ k then [0] else l.drop k
    let tok (es : List Nat) : Token := match h.origin with
      | some o => badPkt f.ty es.length o
      | none => mkPkt f.ty es
    { outs := [(f.t0, tok (l.take k)), (f.t1, tok b)] })

/-- PSPLIT (R121). -/
def execPsplit (f : FmtA) (s : State) : Out := fireNode (planPsplit f) s

/-- The lane count as an i64 (R122). -/
def planPlen (f : FmtA) (s : State) : Plan := cePlan 0 1 1 f true false false s (fun h =>
    s.result f .i64 [(leftElems f.ty h.l).length] h.origin none)

/-- PLEN (R122). -/
def execPlen (f : FmtA) (s : State) : Out := fireNode (planPlen f) s

/-- Lanes whose mask bit is clear become zero (R122). -/
def planPmask (f : FmtA) (s : State) : Plan := cePlan 0 1 1 f true (!f.ir) false s (fun h =>
    let l := leftElems f.ty h.l
    let k := if f.ir then f.imm.toNat % 256 else (match h.r with
      | some t => (lanesOf f.ty t).headD 0
      | none => 0) % 256
    s.result f f.ty ((List.range l.length).map (fun i => if k.testBit i then l.getD i 0 else 0)) h.origin none)

/-- PMASK (R122). -/
def execPmask (f : FmtA) (s : State) : Out := fireNode (planPmask f) s

end Sys2Proof.Machine
end

