-- ==== Sys2Proof/Machine/SysRegs.lean ====
section
/-!
DEFINITION. Writes of system registers (R203, R295, R315, R346, R350, R352, R356, R375, R390, R396 to R398, R400, R401, R406)
and what some of them start: a doorbell, a kill, a retrain, a rollover, a cold reset.
-/

namespace Sys2Proof.Machine

open Sys2Proof


/-! ## What register writes start -/

/-- A doorbell write (R314, R315, R346): enqueued with the address space latched, or dropped. -/
def State.doorbell (s : State) (v : Word) : State :=
  let addr : Word := BitVec.ofNat 64 (bitsOf v 63 5 * 32)
  if addr = 0 then (s.modHub (fun h => { h with badAdr := true })).touch 0x105 0 10
  else if 256 ≤ s.hub.queue.length then (s.modHub (fun h => { h with ovf := true })).touch 0x105 0 9
  else s.modHub (fun h => { h with queue := h.queue ++ [
    { addr := addr, root := h.xlRoot, asid := h.xlAsid, bound := h.hostBound }] })

/-- A write of TRAP_HKILL (R375, R379): GO kills the task frozen in PCLUS, and clears at once. -/
def State.hkill (s : State) (v : Word) : State :=
  let c := bitsOf v 5 0
  let s1 := s.modHub (fun h => { h with hkPclus := c })
  if v.getLsbD 8 && (s.region c).frozen.isSome then s1.kill c else s1

/-- Spare map fields of LINK_SPARE (R396). -/
def mapField (m : BitVec 32) (k : Nat) : Nat := (m.toNat / 2 ^ (8 * k)) % 128

/-- An invalid spare map (R397). -/
def Link.mapBad (l : Link) : Bool :=
  (List.range 4).any (fun k =>
    let x := mapField l.map k
    (64 ≤ x && x != 0x7F) || (x < 64 && (l.spbad.getLsbD k || (List.range k).any (fun j => mapField l.map j == x))))

/-- GO on a module (R397, R398): an invalid map first, whatever the module's state; a valid GO in a retrain does nothing (log
entry 39). -/
def State.linkGo (s : State) (m : Nat) : State :=
  let l := s.link m
  let failed (bad : Bool) : State :=
    (s.modLink m (fun l => { l with badmap := l.badmap || bad, fail := true })).touch 0x504 m 4
  if l.mapBad then (failed true).touch 0x504 m 5
  else if !l.quiesced then failed false
  else if l.training then s
  else s.modLink m (fun l => { l with go := true, training := true, trainEnd := s.now + 12500, mapUsed := l.map, twUsed := l.tw })

/-- Flits of a far die that are held for replay: requests sent and not answered (R401). -/
def Far.inFlight (f : Far) : Nat := (f.reqs.filter (fun r => r.slot.isSome && !r.answered)).length

/-- The start of a key rollover (R401), steps 1 to 3; none while one is in progress. -/
def State.rollover (s : State) (f : Nat) : State :=
  s.modFar f (fun d =>
    if d.roll then d
    else
      { d with
        roll := true
        txslot := !d.txslot
        retiring := true
        oldfl := d.inFlight
        flits := 0
        flitsIn := 0
        holds := (d.holds.filter (fun x => s.now < x.until_)).map (fun x => { x with old := true })
        reqs := d.reqs.map (fun r => { r with old := r.slot.isSome && !r.answered }) })

/-- A logical lane is carried by a lane that trains (R398). -/
def Link.laneTrains (l : Link) (badLanes : BitVec 64) (badSpares : BitVec 4) (lane : Nat) : Bool :=
  match (List.range 4).find? (fun k => mapField l.mapUsed k == lane) with
  | some k => !badSpares.getLsbD k
  | none => !badLanes.getLsbD lane

/-- The lanes that a width needs (R398). -/
def neededLanes (tw : Nat) : List Nat :=
  match tw with
  | 0 => List.range 64
  | 1 => List.range 32
  | 2 => (List.range 32).map (32 + ·)
  | _ => []

/-- A module after the cold reset of that count (R406): trained at x64 with the spare map of the reset; one whose lanes do not
train is down. -/
def Link.booted (m resets : Nat) : Link :=
  let map := Config.spareMap m resets &&& 0x7F7F7F7F
  let bad := Config.badLanes m resets
  let l : Link := { map := map, mapUsed := map, spbad := bad.extractLsb' 64 4 }
  if (neededLanes 0).all (l.laneTrains (bad.setWidth 64) l.spbad) then l else { l with cur := 3, up := false }

/-- The modules of the package, each by the end that names it (R394). -/
def modules : List Nat := (List.range 416).filter (fun m => linkOf (m / 104) (m % 104) == some m)

/-- The controller accepts a firmware image (R407). -/
def Firmware.accepted (x : Firmware) : Bool :=
  x.header.length == 64 && x.key.length == 1952 && x.sig.length == 3309 && Config.sha3 x.key == Config.keyDigest &&
    Config.mlDsa x.key (Config.sha3 (x.header ++ x.body)) x.sig && decide (Config.svn.toNat ≤ Config.fwVersion x.header)

/-- The step at which a cold reset fails: step `k`, or step 2 before it where a firmware image is rejected (R407); 0 where none
does. -/
def State.resetStep (s : State) (k : Nat) : Nat := if k = 1 ∨ s.hub.firmware.all (·.accepted) then k else 2

/-- A cold reset (R406): modules trained, memory cleared, channels calibrated, every register at its reset value. A step that
fails leaves READY = 0 and FSTEP, modules that have not trained, and memory that the steps not reached would have cleared. The
firmware, the reset count, and what the drawer switch has revoked (R402) stay. -/
def State.coldReset (s : State) (k : Nat) : State :=
  let r := State.reset
  let n := s.resetStep k
  let past (step : Nat) : Bool := n == 0 || decide (step < n)
  let kept (a : Nat) : Bool := if isSram a then !past 5 else !past 4
  let far (a : Nat) : Bool := !isSram a && rangeOf a != some 0
  let dark : Far := { calAt := (List.range 384).map (fun ch => (ch, s.now)) }
  { r with
    now := s.now, wseq := s.wseq
    mem := s.mem.filter (fun x => kept x.1 || far x.1)
    marks := s.marks.filter (fun x => kept (32 * x) || far (32 * x))
    hub := { r.hub with resets := s.hub.resets + 1, firmware := s.hub.firmware, revoked := s.hub.revoked
                        ready := n == 0, fstep := n, fwok := past 2 }
    links := modules.map (fun m => (m, if past 3 then Link.booted m s.hub.resets else { cur := 3, up := false }))
    fars := [(0, dark), (1, dark)]
    fresh := s.fresh, ids := s.ids, arrivals := s.arrivals, stage := s.stage }

/-! ## Task registers -/

/-- A write of SEED re-initialises the generators (R45, R307). -/
def Task.writeSeed (t : Task) (v : Word) : Task := { t with seed := v, gens := [] }

/-- A write of a task register (R203); fields marked RO do not change, and W1C bits become as `clear` says. -/
def Task.writeReg (t : Task) (n : Nat) (v : Word) (clear : Bool → Nat → Bool) : Task :=
  match n with
  | 0x001 => { t with rmode := v.setWidth 3, strd := clear t.strd 3, nowr := clear t.nowr 4, eosOver := clear t.eosOver 5 }
  | 0x002 => t.writeSeed v
  | 0x003 => { t with budget := v }
  | 0x004 => { t with stranded := bitsOf v 31 0 }
  | 0x035 => { t with linkMod := bitsOf v 6 0, linkDie := bitsOf v 9 8 }
  | _ => t

/-! ## Package registers -/

/-- A write of a link register of module m (R396). -/
def State.writeLink (s0 : State) (m n : Nat) (v : Word) : State :=
  let s := s0.touch n m 64
  match n with
  | 0x500 =>
    let s1 := s.modLink m (fun l => { l with tw := bitsOf v 1 0, revt := v.getLsbD 3, rthr := bitsOf v 15 8 })
    if v.getLsbD 2 then s1.linkGo m else s1
  | 0x501 => s.modLink m (fun l => { l with cnt := bitsOf v 31 0, armed := true, errs := if bitsOf v 31 0 = 0 then [] else l.errs })
  | 0x503 => s.modLink m (fun l => { l with map := BitVec.ofNat 32 (v.toNat % 2 ^ 32 &&& 0x7F7F7F7F) })
  | 0x504 => s.modLink m (fun l => { l with
      evt := s.w1c n m l.evt v 3, fail := s.w1c n m l.fail v 4, badmap := s.w1c n m l.badmap v 5 })
  | _ => s

/-- A write of a package register, of module m where it is a link register (R203). -/
def State.writePackage (s0 : State) (m : Option Nat) (n : Nat) (v : Word) : State :=
  let s := if 0x500 ≤ n ∧ n < 0x600 then s0 else s0.touch n (if n = 0x411 then 1 else 0) 64
  let hub (f : Hub → Hub) : State := s.modHub f
  match n with
  | 0x100 => hub (fun h => { h with starve := bitsOf v 39 0 })
  | 0x101 => hub (fun h => { h with probeDelay := bitsOf v 31 0 })
  | 0x102 => hub (fun h => { h with pwait := bitsOf v 31 0 })
  | 0x104 => s.doorbell v
  | 0x105 => hub (fun h => { h with
      ovf := s.w1c n 0 h.ovf v 9, badAdr := s.w1c n 0 h.badAdr v 10, recErr := s.w1c n 0 h.recErr v 11 })
  | 0x200 => hub (fun h => { h with xlRoot := bitsOf v 47 12 * 4096 })
  | 0x201 => hub (fun h => { h with xlAsid := bitsOf v 15 0 })
  | 0x210 => hub (fun h => { h with hbmBase := bitsOf v 9 0, hbmSize := Nat.min (bitsOf v 20 10) (1024 - bitsOf v 9 0) })
  | 0x220 => hub (fun h => { h with migStack0 := bitsOf v 47 3 * 8 })
  | 0x221 => hub (fun h => { h with migStack1 := bitsOf v 47 3 * 8 })
  | 0x300 => s.modRing (fun r => { r with lapBase := bitsOf v 63 5 * 32, idleBad := false })
  | 0x301 => s.modRing (fun r => { r with cap := bitsOf v 1 0, en := v.getLsbD 2, idleBad := false })
  | 0x302 => s.modRing (fun r => { r with
      crcf := bitsOf v 55 48
      badEnt := s.w1c n 0 r.badEnt v 56, reread := s.w1c n 0 r.reread v 57, srcErr := s.w1c n 0 r.srcErr v 58 })
  | 0x400 => hub (fun h => { h with partKey := v.setWidth 16, keyValid := v.getLsbD 16 })
  | 0x410 | 0x411 =>
    let f := n - 0x410
    let s1 := s.modFar f (fun d => { d with keyerr := s.w1c n f d.keyerr v 3 })
    if v.getLsbD 0 then s1.rollover f else s1
  | 0x500 | 0x501 | 0x503 | 0x504 => (match m with
      | some k => s.writeLink k n v
      | none => s)
  | 0x604 => hub (fun h => { h with best := bitsOf v 31 0, stall := s.w1c n 0 h.stall v 48 })
  | 0x700 => hub (fun h => { h with trapEn := v.getLsbD 0, hcb := bitsOf v 47 6 * 64 })
  | 0x701 => hub (fun h => { h with ringHead := bitsOf v 31 0 })
  | 0x702 => hub (fun h => { h with
      double := s.w1c n 0 h.double v 0, lost := s.w1c n 0 h.lost v 1, full := s.w1c n 0 h.full v 2 })
  | 0x703 => s.hkill v
  | 0x710 => hub (fun h => { h with mirEn := v.getLsbD 0, uwait := bitsOf v 31 8 })
  | 0x7F0 => if v.getLsbD 63 then s.coldReset 0 else s
  | _ => s

/-- A write by a block of region c (R203): task registers of its own task, package registers for the module it selects. -/
def State.writeReg (s : State) (c n : Nat) (v : Word) : State :=
  if n < 0x100 then
    let s1 := (s.modTaskOf c (fun t => t.writeReg n v (fun old k => s.w1c n c old v k))).touch n c 64
    if n = 3 then s1.modRegion c (fun r => { r with expired := false }) else s1
  else s.writePackage (linkOf (s.taskOf c).linkDie (s.taskOf c).linkMod) n v

/-- SEED_WRITE (R45). -/
def execSeedWrite (t : Nat) (value : Word) (s : State) : Out := .next (s.modTask t (fun x => x.writeSeed value))

/-- REGISTER_WRITE (R8): a write through the hub, whose BAR reaches the package registers (R315, R353); `link` names the
module end of a link register. -/
def execRegisterWrite (sysno : Nat) (value : Word) (link : Nat) (s : State) : Out :=
  .next (if sysno < 0x100 then s else s.writePackage (linkOf (link / 104) (link % 104)) sysno value)

/-- TRAP_HKILL (R375). -/
def execTrapHkill (value : Word) (s : State) : Out := .next (s.hkill value)

/-- JQ_DOOR (R315). -/
def execJqDoor (value : Word) (s : State) : Out := .next (s.doorbell value)

/-- LINK_RETRAIN_GO (R398). -/
def execLinkRetrainGo (m : Nat) (s : State) : Out := .next (s.linkGo (moduleOf m))

/-- IDE_ROLLOVER (R401). -/
def execIdeRollover (f : Nat) (s : State) : Out := .next (s.rollover f)

/-- COLD_RESET (R406): step `fail` fails; 0 where none does. -/
def execColdReset (fail : Nat) (s : State) : Out := .next (s.coldReset fail)

end Sys2Proof.Machine
end

