-- ==== Sys2Proof/Machine/System.lean ====
section
/-!
DEFINITION. The system instructions, 0xF0 to 0xFA (R202 to R211). Those whose completion comes later leave an operation in
the region (Region.sysops); their events stand in SysEvents.lean.
-/

namespace Sys2Proof.Machine

open Sys2Proof

/-- A token on both targets of a system word. -/
def sysOuts (f : FmtS) (t : Token) : List (Target × Token) := [(f.t0, t), (f.t1, t)]

/-- A system firing whose operands, if poisoned, raise T_POISON (R202). -/
def sysPlan (f : FmtS) (uR : Bool) (s : State) (body : Heads → Fire) : Plan :=
  routePlan f.pm true uR false s (fun h => match h.origin with
    | some o => { poisonFire h.slots o 7 with needs := [f.t0, f.t1] }
    | none => body h)

/-- Lane 0 of an operand as 64 bits (R202). -/
def laneZero (t : Option Token) : Word :=
  match t with
  | some x => BitVec.ofNat 64 ((lanesOf .i64 x).headD 0)
  | none => 0

/-- A privileged instruction is irrevocable (R387); then its effect. -/
def privileged (g : State → State) : State → Nat → List Nat → State := fun s _ _ => g (s.irrevoke s.sel.1)

/-- An operation that completes later: its tokens wait for it. -/
def sysLater (f : FmtS) (op : SysOp) (g : State → State) : Fire :=
  { later := [f.t0, f.t1]
    post := fun s id b =>
      (g s).modRegion s.sel.1 (fun r => { r with sysops := r.sysops ++ [{ op with id := id, node := s.sel.2, fired := s.now, bound := b }] }) }

/-- Register n is reached from region c (R399): the region's own always; a module's, if the mesh reaches its die; any other, which stands
at the hub, over the hub link (log entry 46). -/
def State.regOpen (s : State) (c n : Nat) : Bool :=
  if n < 0x100 then true
  else if n / 16 = 0x50 then s.dieOpen c (s.taskOf c).linkDie
  else s.hubOpen c

/-- A firing waits while what it acts on is not reached (R399); a discard does not. -/
def Plan.heldBack (p : Plan) (isOpen : Bool) : Plan :=
  match p with
  | .fire f => if isOpen then .fire f else .wait
  | p => p

/-- A register read (R203); a poisoned trigger poisons it (R202). R202 does not say what a poisoned predicate beside a clean trigger does:
it poisons the value as well (log entry 59). -/
def planSysrd (f : FmtS) (s : State) : Plan :=
  Plan.heldBack (isOpen := s.regOpen s.sel.1 f.sysno.toNat) <| routePlan f.pm true false false s (fun h =>
    let n := f.sysno.toNat
    let tok := match h.origin with
      | some o => badPkt .i64 1 o
      | none => mkPkt .i64 [(s.readReg s.sel.1 n).toNat]
    { outs := sysOuts f tok, lat := if n < 0x100 then 2 else 20
      post := fun s' _ _ => if n < 0x100 then s' else s'.irrevoke s.sel.1 })

/-- SYSRD (R203). -/
def execSysrd (f : FmtS) (s : State) : Out := fireNode (planSysrd f) s

/-- A register write (R203). -/
def planSyswr (f : FmtS) (s : State) : Plan :=
  Plan.heldBack (isOpen := s.regOpen s.sel.1 f.sysno.toNat) <| sysPlan f false s (fun h =>
    { outs := sysOuts f (ctlTok true), lat := if f.sysno.toNat < 0x100 then 2 else 20
      post := privileged (fun s' => s'.writeReg s.sel.1 f.sysno.toNat (laneZero h.l)) })

/-- SYSWR (R203). -/
def execSyswr (f : FmtS) (s : State) : Out := fireNode (planSyswr f) s

/-- The time stamp of the firing cycle (R204), poisoned as a register read is (log entry 59). -/
def planTsget (f : FmtS) (s : State) : Plan :=
  routePlan f.pm true false false s (fun h =>
    { outs := sysOuts f (match h.origin with
        | some o => badPkt .i64 1 o
        | none => mkPkt .i64 [s.now]) })

/-- TSGET (R204). -/
def execTsget (f : FmtS) (s : State) : Out := fireNode (planTsget f) s

/-- The actions that a trap code accepts (R370): 0 resume, 1 kill, 2 restart. -/
def actionOk (code act : Nat) : Bool :=
  match act with
  | 0 => code != 6 && code != 0xD && code != 0x10
  | 1 => true
  | 2 => code != 6
  | _ => false

/-- The frozen region that awaits the record at an address (R205). -/
def State.awaited (s : State) (a : Word) : Option TrapRec :=
  (s.hub.awaiting.find? (fun x => x.2 == a && (s.region x.1.pclus).frozen.isSome && s.taskIdOf x.1.pclus == x.1.task)).map (·.1)

/-- The end of trap handling (R205, R378 to R380): whether it took effect, and the state after it. -/
def State.endTrap (s : State) (v : Word) : Bool × State :=
  let act := bitsOf v 1 0
  let a : Word := BitVec.ofNat 64 (bitsOf v 63 6 * 64)
  if bitsOf v 5 2 != 0 then (false, s)
  else match s.awaited a with
    | none => (false, s)
    | some x =>
      if !actionOk x.code act || (act == 2 && !(s.taskOf x.pclus).mayRoll) then (false, s)
      else
        let s1 := s.modHub (fun h => { h with awaiting := h.awaiting.filter (fun y => y.2 != a) })
        (true, match act with
          | 0 => s1.resume x.pclus
          | 1 => s1.kill x.pclus
          | _ => s1.rollback x.pclus)

/-- Resume, kill or restart of a frozen region (R205). -/
def planTret (f : FmtS) (s : State) : Plan :=
  Plan.heldBack (isOpen := s.hubOpen s.sel.1) <| sysPlan f false s (fun h =>
    { outs := sysOuts f (ctlTok (s.endTrap (laneZero h.l)).1), lat := 20
      post := privileged (fun s' => (s'.endTrap (laneZero h.l)).2) })

/-- TRET (R205). -/
def execTret (f : FmtS) (s : State) : Out := fireNode (planTret f) s

/-- An invalidation of translations starts (R206). -/
def planTlbinv (f : FmtS) (s : State) : Plan :=
  sysPlan f true s (fun h =>
    sysLater f { id := 0, node := 0, ins := .tlbinv f, fired := 0, a := laneZero h.l, b := laneZero h.r
                 asid := (s.space s.sel.1).asid } (fun s' => s'.irrevoke s.sel.1))

/-- TLBINV (R206). -/
def execTlbinv (f : FmtS) (s : State) : Out := fireNode (planTlbinv f) s

/-- A revocation or reinstatement of a partition key starts (R207); with PART_KEY invalid it has no effect (R402). -/
def planKeyrev (f : FmtS) (s : State) : Plan :=
  sysPlan f true s (fun h =>
    sysLater f { id := 0, node := 0, ins := .keyrev f, fired := 0, a := laneZero h.l, b := laneZero h.r, val := s.hub.keyValid }
      (fun s' => s'.irrevoke s.sel.1))

/-- KEYREV (R207). -/
def execKeyrev (f : FmtS) (s : State) : Out := fireNode (planKeyrev f) s

/-- A cluster runs a trap handler (R376). -/
def State.handles (s : State) (c : Nat) : Bool := (s.taskOf c).handler.isSome

/-- A `ctxsv` takes the snapshot of cluster c. -/
def State.ctxsvOn (s : State) (c : Nat) : Bool :=
  s.clusters.any (fun x => x.2.region.sysops.any (fun op => op.a.toNat == c && (match op.ins with
    | .ctxsv _ => true
    | _ => false)))

/-- A forced recovery point or a `ctxsv` has stopped region c, so no pre-emption takes its snapshot (R208, R326, R386). -/
def State.otherSave (s : State) (c : Nat) : Bool := (s.region c).stoppedBy.isSome && ((s.region c).forced || s.ctxsvOn c)

/-- `ctxsv` may act on a cluster (R208); one that a forced recovery point has stopped waits for that (R386). -/
def State.mayCtxsv (s : State) (c : Nat) (csa : Word) : Bool :=
  csa.toNat % 0x40000 == 0 && c != s.sel.1 && (s.cluster c).task.isSome && !s.handles c && !s.ctxsvOn c &&
    ((s.region c).stoppedBy.isNone || (s.region c).forced)

/-- The freeze of a region and the start of its snapshot (R208). -/
def planCtxsv (f : FmtS) (s : State) : Plan :=
  sysPlan f true s (fun h =>
    let c := bitsOf (laneZero h.l) 5 0
    if !s.mayCtxsv c (laneZero h.r) then
      { outs := sysOuts f (ctlTok false), post := privileged id }
    else
      sysLater f { id := 0, node := 0, ins := .ctxsv f, fired := 0, a := BitVec.ofNat 64 c, b := laneZero h.r } (fun s' =>
        (s'.irrevoke s.sel.1).modRegion c (fun r => { r with stoppedBy := some (r.stoppedBy.getD s.now) })))

/-- CTXSV (R208). -/
def execCtxsv (f : FmtS) (s : State) : Out := fireNode (planCtxsv f) s

/-- The start of a restore (R208). -/
def planCtxld (f : FmtS) (s : State) : Plan :=
  sysPlan f true s (fun h =>
    let c := bitsOf (laneZero h.l) 5 0
    if (laneZero h.r).toNat % 0x40000 != 0 || (s.cluster c).task.isSome then
      { outs := sysOuts f (ctlTok false), post := privileged id }
    else
      sysLater f { id := 0, node := 0, ins := .ctxld f, fired := 0, a := BitVec.ofNat 64 c, b := laneZero h.r }
        (fun s' => s'.irrevoke s.sel.1))

/-- CTXLD (R208). -/
def execCtxld (f : FmtS) (s : State) : Out := fireNode (planCtxld f) s

/-- The start of a slot-table load (R209). -/
def planCfgld (f : FmtS) (s : State) : Plan :=
  sysPlan f false s (fun h =>
    sysLater f { id := 0, node := 0, ins := .cfgld f, fired := 0, a := laneZero h.l } (fun s' => s'.irrevoke s.sel.1))

/-- CFGLD (R209). -/
def execCfgld (f : FmtS) (s : State) : Out := fireNode (planCfgld f) s

/-- The start of a quiesce or resume of a module on the die of the region (R210, R394). -/
def planLinkq (f : FmtS) (s : State) : Plan :=
  sysPlan f false s (fun h =>
    let v := laneZero h.l
    match linkOf (s.sel.1 / 16) (bitsOf v 6 0) with
    | none => { outs := sysOuts f (ctlTok false), post := privileged id }
    | some m =>
      if (s.link m).quiesced != v.getLsbD 8 then { outs := sysOuts f (ctlTok true), post := privileged id }
      else sysLater f { id := 0, node := 0, ins := .linkq f, fired := 0, a := BitVec.ofNat 64 m, b := v }
        (fun s' => s'.irrevoke s.sel.1))

/-- LINKQ (R210). -/
def execLinkq (f : FmtS) (s : State) : Out := fireNode (planLinkq f) s

/-- The start of a wait for an event or a deadline (R211). -/
def planEvwait (f : FmtS) (s : State) : Plan :=
  sysPlan f false s (fun h =>
    sysLater f { id := 0, node := 0, ins := .evwait f, fired := 0, a := laneZero h.l } id)

/-- EVWAIT (R211). -/
def execEvwait (f : FmtS) (s : State) : Out := fireNode (planEvwait f) s

end Sys2Proof.Machine
end

