-- ==== Sys2Proof/Machine/Plans.lean ====
section
/-!
DEFINITION. The plan of any instruction at the selected node, by which the pool grants permits (R24, R25).
-/

namespace Sys2Proof.Machine

open Sys2Proof

/-- What the selected node can do with an instruction in this cycle; an event is no plan of a node. -/
def planOf (i : Instr) (s : State) : Plan :=
  match i with
  | .add f => planAdd f s
  | .sub f => planSub f s
  | .adds f => planAdds f s
  | .addsu f => planAddsu f s
  | .subs f => planSubs f s
  | .subsu f => planSubsu f s
  | .mul f => planMul f s
  | .mulh f => planMulh f s
  | .mulhu f => planMulhu f s
  | .div f => planDiv f s
  | .divu f => planDivu f s
  | .rem f => planRem f s
  | .remu f => planRemu f s
  | .neg f => planNeg f s
  | .abs f => planAbs f s
  | .min f => planMin f s
  | .max f => planMax f s
  | .minu f => planMinu f s
  | .maxu f => planMaxu f s
  | .addmin f => planAddmin f s
  | .land f => planAnd f s
  | .lor f => planOr f s
  | .lxor f => planXor f s
  | .andn f => planAndn f s
  | .lnot f => planNot f s
  | .shl f => planShl f s
  | .shr f => planShr f s
  | .sra f => planSra f s
  | .rotl f => planRotl f s
  | .clz f => planClz f s
  | .ctz f => planCtz f s
  | .popc f => planPopc f s
  | .sext f => planSext f s
  | .zext f => planZext f s
  | .bswap f => planBswap f s
  | .sel f => planSel f s
  | .ceq f => planCeq f s
  | .cne f => planCne f s
  | .clt f => planClt f s
  | .cltu f => planCltu f s
  | .cle f => planCle f s
  | .cleu f => planCleu f s
  | .ctst f => planCtst f s
  | .movi f => planMovi f s
  | .movhi f => planMovhi f s
  | .lea f => planLea f s
  | .fadd f => planFadd f s
  | .fsub f => planFsub f s
  | .fmul f => planFmul f s
  | .fmac f => planFmac f s
  | .fmin f => planFmin f s
  | .fmax f => planFmax f s
  | .fabs f => planFabs f s
  | .fneg f => planFneg f s
  | .feq f => planFeq f s
  | .flt f => planFlt f s
  | .fle f => planFle f s
  | .funord f => planFun f s
  | .fcvt f => planFcvt f s
  | .fcvti f => planFcvti f s
  | .icvtf f => planIcvtf f s
  | .frnd f => planFrnd f s
  | .frcp f => planFrcp f s
  | .frsq f => planFrsq f s
  | .fsqrt f => planFsqrt f s
  | .fexp2 f => planFexp2 f s
  | .flog2 f => planFlog2 f s
  | .ftanh f => planFtanh f s
  | .bqnt f => planBqnt f s
  | .bdeq f => planBdeq f s
  | .xsacc f => planXsacc f s
  | .xsfin f => planXsfin f s
  | .psum f => planPsum f s
  | .pmax f => planPmax f s
  | .pmin f => planPmin f s
  | .plsh f => planPlsh f s
  | .pperm f => planPperm f s
  | .pbcast f => planPbcast f s
  | .pext f => planPext f s
  | .pins f => planPins f s
  | .pjoin f => planPjoin f s
  | .psplit f => planPsplit f s
  | .plen f => planPlen f s
  | .pmask f => planPmask f s
  | .lutx f => planLutx f s
  | .fsmst f => planFsmst f s
  | .bext f => planBext f s
  | .bdep f => planBdep f s
  | .hashx f => planHashx f s
  | .mma f => planMma f s
  | .ldst f => planLdst f s
  | .mswap f => planMswap f s
  | .mzero f => planMzero f s
  | .mdrain f => planMdrain f s
  | .tstat f => planTstat f s
  | .tset f => planTset f s
  | .mov f => planMov f s
  | .mov4 f => planMov4 f s
  | .steer f => planSteer f s
  | .gate f => planGate f s
  | .merge f => planMerge f s
  | .mrga f => planMrga f s
  | .carry f => planCarry f s
  | .invar f => planInvar f s
  | .loopgen f => planLoopgen f s
  | .repeatN f => planRepeat f s
  | .cand f => planCand f s
  | .cor f => planCor f s
  | .cnot f => planCnot f s
  | .cxor f => planCxor f s
  | .cdat f => planCdat f s
  | .split f => planSplit f s
  | .omerge f => planOmerge f s
  | .sink f => planSink f s
  | .ld f => planLd f s
  | .st f => planSt f s
  | .ldp f => planLdp f s
  | .stp f => planStp f s
  | .ldfe f => planLdfe f s
  | .stfe f => planStfe f s
  | .lnemp f => planLnemp f s
  | .lnful f => planLnful f s
  | .amo f => planAmo f s
  | .cas f => planCas f s
  | .fence f => planFence f s
  | .pref f => planPref f s
  | .rmw f => planRmw f s
  | .sbind f => planSbind f s
  | .sfree f => planSfree f s
  | .tcopy f => planTcopy f s
  | .tgath f => planTgath f s
  | .tscat f => planTscat f s
  | .board f => planBoard f s
  | .migr f => planMigr f s
  | .msend f => planMsend f s
  | .swait f => planSwait f s
  | .ssig f => planSsig f s
  | .sset f => planSset f s
  | .kick f => planKick f s
  | .rspeed f => planRspeed f s
  | .repl f => planRepl f s
  | .exit f => planExit f s
  | .exiti f => planExiti f s
  | .call f => planCall f s
  | .calli f => planCalli f s
  | .ret f => planRet f s
  | .trap f => planTrap f s
  | .yield f => planYield f s
  | .brk f => planBrk f s
  | .sysrd f => planSysrd f s
  | .syswr f => planSyswr f s
  | .tsget f => planTsget f s
  | .tret f => planTret f s
  | .tlbinv f => planTlbinv f s
  | .keyrev f => planKeyrev f s
  | .ctxsv f => planCtxsv f s
  | .ctxld f => planCtxld f s
  | .cfgld f => planCfgld f s
  | .linkq f => planLinkq f s
  | .evwait f => planEvwait f s
  | _ => .wait

end Sys2Proof.Machine
end

