-- ==== Sys2Proof/Machine/Wave.lean ====
section
/-!
DEFINITION. The teardown wave (R221 to R225) and the purge of run-ahead tokens (R231): the events by which a running block
comes to its end.
-/

namespace Sys2Proof.Machine

open Sys2Proof

/-! ## The running block -/

/-- The word in a node slot of the running block (R66). -/
def State.fetch (s : State) (c i : Nat) : Option Word := (s.region c).words.find i

/-- The instruction in a node slot. -/
def State.instrOf (s : State) (c i : Nat) : Option Instr :=
  match s.fetch c i with
  | none => none
  | some w => match decode w with
    | .ok x => some x
    | .error _ => none

/-- Region c works in this cycle: it holds a task that has its context, is not frozen, and its cluster does not skip. -/
def State.running (s : State) (c : Nat) : Bool :=
  let k := s.cluster c
  k.task.isSome && k.wake ≤ s.now && k.skip != some s.now && k.region.frozen.isNone && k.region.stoppedBy.isNone

/-- As `running`, the cycle of a freeze included, in which firings still complete (R33). -/
def State.working (s : State) (c : Nat) : Bool :=
  let k := s.cluster c
  k.task.isSome && k.wake ≤ s.now && k.skip != some s.now && k.region.goesOn s.now

/-- The same state with node i of cluster c selected. -/
def State.at (s : State) (c i : Nat) : State := { s with sel := (c, i) }

/-- What a node can do now. -/
def State.planAt (s : State) (c i : Nat) : Plan :=
  match s.instrOf c i with
  | some x => planOf x (s.at c i)
  | none => .wait

/-- OPERAND_DISCARD (R27): the node removes an operand set that its predicate refuses. -/
def execOperandDiscard (c i : Nat) (s : State) : Out :=
  .next (if (s.at c i).live then (match s.planAt c i with
      | .discard pops => (s.at c i).discard pops
      | _ => s)
    else s)

/-! ## Injection (R221, R223) -/

/-- A store under an LSID of SMASK that was issued before the selecting firing and has not performed (R221). -/
def Region.storesBefore (r : Region) (t : Nat) : Bool :=
  match r.img with
  | none => false
  | some im => r.accesses.any (fun a => !a.old && isWriteClass a.ins && a.fired < t && im.smask.getLsbD (memFmt a.ins).lsid.toNat)

/-- The tokens at a gate that count as stranded (R223, R225). -/
def strandable (t : QTok) : Bool :=
  t.pend.isNone && (match t.tok with
    | .mark .teardown | .mark .purge => false
    | _ => true)

/-- Gate tokens of every read entry are discarded and counted, those that have arrived, or all but the places of results that
are still to come (R223, R225). -/
def State.dropGates (s : State) (c : Nat) (all : Bool) : State :=
  (List.range 32).foldl (fun st e =>
    let g := (st.region c).reads.get {} e
    let go (t : QTok) : Bool := t.pend.isNone && (all || t.at_ ≤ s.now)
    if !g.gate.any go then st
    else (st.modRegion c (fun r => { r with reads := r.reads.set e { g with gate := g.gate.filter (fun t => !go t) } })).strand c (192 + e)
      (g.gate.filter (fun t => go t && strandable t)).length) s

/-- Every read entry emits a teardown marker on both targets and stops (R223). -/
def Region.stopReads (r : Region) (now : Nat) : Region :=
  match r.img with
  | none => r
  | some im =>
    let r1 := im.reads.foldl (fun r x =>
      (r.deliverEntry now x.t0 (.mark .teardown) []).deliverEntry now x.t1 (.mark .teardown) []) r
    { r1 with reads := r1.reads.mapV (fun _ g => { g with done := true }) }

/-- TEARDOWN_INJECTION (R221, R223). -/
def execTeardownInjection (c : Nat) (s : State) : Out :=
  let r := s.region c
  match r.sel with
  | none => .next s
  | some x =>
    if !s.running c || r.step != 0 || r.inject.isSome || s.now ≤ Nat.max x.cycle r.storeAt || r.storesBefore x.cycle then .next s
    else .next ((s.modRegion c (fun r => { r.stopReads s.now with inject := some s.now, step := 1 })).dropGates c false)

/-! ## Markers in a queue -/

/-- A teardown marker has arrived in a queue: every token ahead of it is there, the results that are still to come among them (R21,
R23, R224). -/
def holdsTeardown (now : Nat) : List QTok → Bool
  | [] => false
  | t :: rest => t.pend.isNone && t.at_ ≤ now && (t.tok == .mark .teardown || holdsTeardown now rest)

/-- Removes what stands before the teardown marker of a slot and the marker itself if `whole`: how many tokens count as
stranded (R225). -/
def Region.clearTo (r : Region) (now i slot : Nat) (whole : Bool) : Nat → Region × Nat
  | 0 => (r, 0)
  | n + 1 =>
    match ((r.node i).queue slot).toks with
    | [] => (r, 0)
    | t :: _ =>
      if t.tok == .mark .teardown && t.pend.isNone then (if whole then r.pop now i slot else r, 0)
      else if !whole && (t.pend.isSome || now < t.at_) then (r, 0)
      else
        let (r1, k) := (r.pop now i slot).clearTo now i slot whole n
        (r1, k + (strandable t).toNat)

/-- Clears some slots of node i. -/
def Region.clearSlots (r : Region) (now i : Nat) (whole : Bool) (slots : List Nat) : Region × Nat :=
  slots.foldl (fun x k =>
    let (r1, n) := x.1.clearTo now i k whole (((x.1.node i).queue k).toks.length + 1)
    (r1, x.2 + n)) (r, 0)

/-! ## What a node can still do (R224) -/

/-- A node at another phase with its units free, to see what it could do in some cycle. -/
def State.dryAt (s : State) (c i m : Nat) : State :=
  (s.modRegion c (fun r => ({ r with busy := [], modc := m } : Region).setNode i { r.node i with firedAt := none })).at c i

/-- The plans of a node over the phases. -/
def State.dryPlans (s : State) (c i : Nat) : List (State × Plan) :=
  match s.instrOf c i with
  | none => []
  | some x => (List.range 12).map (fun m => (s.dryAt c i m, planOf x (s.dryAt c i m)))

/-- A node can act in some cycle on what it holds. -/
def State.canAct (s : State) (c i : Nat) : Bool :=
  (s.dryPlans c i).any (fun x => match x.2 with
    | .fire f => x.1.selRegion.acceptsAll s.now f
    | .trap ts .. => ts.all (x.1.selRegion.accepts s.now)
    | .discard _ => true
    | .wait | .stall _ => false)

/-- Every operand slot that a node uses has an operand. -/
def State.fullSet (s : State) (c i : Nat) (x : Instr) : Bool :=
  !(usedSlots x).isEmpty && (usedSlots x).all (fun k => (((s.node c i).queue k).operand s.now).isSome)

/-- The running block has a `carry` that has met its false condition and whose purge bears on node i (R137, R231). -/
def State.purging (s : State) (c i : Nat) : Bool :=
  let r := s.region c
  match r.img with
  | none => false
  | some im =>
    (carriesOf im).any (fun k => (match (r.node k).st with
      | .carry 2 _ _ | .carry 3 _ _ => !(r.node k).retired
      | _ => false) && (k == i || (loopOf im k).contains i))

/-- A node holds an operand set, or tokens still to emit, that only a phase, a unit, a target or the end of a purge holds
back: it does not retire while anything else in the region can move. -/
def State.holdsWork (s : State) (c i : Nat) : Bool :=
  match s.instrOf c i with
  | none => false
  | some x => s.fullSet c i x || s.purging c i || (s.dryPlans c i).any (fun y => match y.2 with
      | .wait => false
      | _ => true)

/-- The forward queues of node i hold their teardown markers. -/
def State.markersIn (s : State) (c i : Nat) : Bool :=
  match (s.region c).img with
  | none => true
  | some im => (queuesOf im i false).all (fun k => holdsTeardown s.now ((s.node c i).queue k).toks)

/-- A memory node waits for data that it has still to deliver (R156). -/
def State.loadsOut (s : State) (c i : Nat) : Bool :=
  (s.region c).accesses.any (fun a => a.node == i && !a.old && (match a.ins with
    | .ld _ | .ldp _ | .ldfe _ | .amo _ | .cas _ | .rmw _ => true
    | _ => false))

/-- Something of region c besides the nodes that hold work can still move: a token on its way, a result to come, a node that
can act, or one that can retire. -/
def State.stirs (s : State) (c : Nat) : Bool :=
  let r := s.region c
  let coming (l : List QTok) : Bool := l.any (fun t => t.pend.isSome || (s.now < t.at_ && t.tok != .mark .teardown))
  r.accesses.any (fun a => !a.old) ||
  r.writes.any (fun w => coming w.2.toks || (r.portWrite w.1).isSome && w.2.toks.any (fun t => t.tok != .mark .teardown)) ||
  r.nodes.any (fun x => !x.2.flipped &&
    (coming x.2.l.toks || coming x.2.r.toks || coming x.2.p.toks ||
      (!x.2.retired && (s.canAct c x.1 || s.markersIn c x.1 && !s.holdsWork c x.1))))

/-! ## Retiring and flipping -/

/-- What discarding a node's state adds to STRANDED (R97, R131). -/
def NodeState.stranded : NodeState → Nat
  | .idle => 0
  | .bqnt _ count _ _ => count
  | .bdeq _ _ left => if left = 0 then 0 else 1
  | _ => 1

/-- Numbers of the operations of node i whose tokens are lost if they come after it has retired: stores (R156), commands (R183), and,
as the wave always completes, an armed `ldst` and an `evwait`, which emit theirs only then (log entry 60). The results of its other
operations precede its teardown markers (R21, R23). -/
def State.orphans (s : State) (c i : Nat) : List Nat :=
  let k := s.cluster c
  (k.region.accesses.filter (fun a => a.node == i && !a.old)).map (·.id) ++ (k.eq.filter (fun q => q.node == i)).map (·.id) ++
    (k.region.sysops.filter (fun o => o.node == i && o.waits)).map (·.id) ++
    (((s.taskOf c).dot (i / 4)).ops.filter (fun o => o.node == i && o.kind == 3)).map (·.id)

/-- Targets that an instruction drives (R65). -/
def drivenTargets (x : Instr) : List Target :=
  (List.zip (targetsOf x) [x.drives.1, x.drives.2, true, true]).filterMap (fun p => if p.2 then some p.1 else none)

/-- Node i retires (R224). -/
def State.retire (s : State) (c i : Nat) : State :=
  let r := s.region c
  let fwd := match r.img with
    | some im => queuesOf im i false
    | none => []
  let r1 := (s.orphans c i).foldl (fun r id => r.unpend s.now id) r
  let (r2, n) := r1.clearSlots s.now i true fwd
  let r3 := r2.setNode i { r2.node i with retired := true, st := .idle, setAt := s.now + 1 }
  let r4 := match s.instrOf c i with
    | some x => (drivenTargets x).foldl (fun (r : Region) t => r.deliver s.now (i / 4) 1 t (.mark .teardown) [] none) r3
    | none => r3
  (s.setRegion c r4).strand c i (n + (r.node i).st.stranded)

/-- Node i uses no forward queue (R223). -/
def State.noForward (s : State) (c i : Nat) : Bool :=
  match (s.region c).img with
  | some im => (queuesOf im i false).isEmpty
  | none => true

/-- NODE_RETIRE (R224): once every forward queue holds its marker and the node cannot fire; a node without forward queues in I
(R223). -/
def execNodeRetire (c i : Nat) (s : State) : Out :=
  let r := s.region c
  .next (if !s.working c || r.inject.isNone || (r.node i).retired || (s.fetch c i).isNone then s
    else if s.loadsOut c i then s
    else if s.noForward c i then s.retire c i
    else if (r.node i).firedAt == some s.now || !s.markersIn c i then s
    else if s.holdsWork c i && (s.canAct c i || s.stirs c) then s
    else s.retire c i)

/-- The shadow can be taken: no successor is selected, or its load has ended (R81, R224). -/
def Region.shadowIn (r : Region) (now : Nat) : Bool :=
  match r.sel with
  | none => false
  | some x => match x.successor, r.shadow with
    | none, _ => true
    | some _, some sh => sh.ready && sh.usable ≤ now
    | some _, none => false

/-- The successor's image, if it has been loaded. -/
def Region.nextImage (r : Region) : Option Image := match r.shadow with
  | some sh => sh.img
  | none => none

/-- The LUTs of a cell as an image's descriptors give them (R63). -/
def Task.patch (t : Task) (im : Image) (cell : Nat) : Task :=
  { t with luts := (im.luts.filter (fun d => d.2.cell == cell)).foldl (fun l d => l.set (64 * cell + d.2.lut) (lutOfDesc d.2)) t.luts }

/-- A retired node discards what has reached its back queues; it flips once each has its marker and the shadow is usable. -/
def State.flip (s : State) (c i : Nat) : State :=
  let back := match (s.region c).img with
    | some im => queuesOf im i true
    | none => []
  let (r1, n) := (s.region c).clearSlots s.now i false back
  let s1 := (s.setRegion c r1).strand c i n
  let ready := back.all (fun k => ((r1.node i).queue k).marker s.now == some .teardown)
  if !ready || !r1.shadowIn s.now then s1
  else
    let x := r1.node i
    let r2 := { r1.setNode i { retired := true, flipped := true, bound := x.bound } with
      words := match r1.nextImage.bind (fun im => im.words[i]?) with
        | some w => r1.words.set i w
        | none => r1.words.drop i }
    let s2 := s1.setRegion c r2
    let cell := i / 4
    let last := r2.nodes.all (fun y => y.1 / 4 != cell || y.2.flipped)
    match r2.nextImage with
    | some im => if last then s2.modTaskOf c (fun t => t.patch im cell) else s2
    | none => s2

/-- NODE_FLIP (R224), in a cycle after the one in which the node retired. -/
def execNodeFlip (c i : Nat) (s : State) : Out :=
  let x := s.node c i
  .next (if s.working c && x.retired && x.setAt ≤ s.now && !x.flipped && (s.region c).inject.isSome then s.flip c i else s)

/-! ## Purge markers (R231) -/

/-- The slots of node i at whose head a purge marker waits. -/
def State.purgeHeads (s : State) (c i : Nat) : List Nat :=
  [0, 1, 2].filter (fun k => ((s.node c i).queue k).marker s.now == some .purge)

/-- Slots whose purge markers the node's own description deals with (R137, R139). -/
def ownPurge (x : Instr) : List Nat :=
  match x with
  | .carry _ => [1, 2]
  | .invar f => if f.cf.getLsbD 0 then [1, 2] else []
  | _ => []

/-- A node acts on a marker only after the range it runs has been emitted, or when it is idle (R231). -/
def purgeWaits (x : Instr) (st : NodeState) (slot : Nat) : Bool :=
  match x with
  | .loopgen _ | .repeatN _ => st != .idle
  | .carry _ | .invar _ => slot == 0 && st != .idle
  | _ => false

/-- A marker at the L head of a `carry` or `invar` is removed alone, with nothing emitted (R231). -/
def purgeAlone (x : Instr) (slot : Nat) : Bool :=
  slot == 0 && (match x with
    | .carry _ | .invar _ => true
    | _ => false)

/-- The groups of node i on which purge markers act now (R231). -/
def purgeSets (im : Image) (i : Nat) (x : Instr) (st : NodeState) : List (List Nat) :=
  ((purgeGroups im i).map (fun g =>
    g.filter (fun k => !(ownPurge x).contains k && !purgeAlone x k && !purgeWaits x st k))).filter (fun g => !g.isEmpty)

/-- One group of purge-bearing queues: run-ahead tokens go, or the markers go and one is passed on. -/
def State.purgeGroup (s : State) (c i : Nat) (x : Instr) (g : List Nat) : State :=
  let heads := s.purgeHeads c i
  let here := g.filter heads.contains
  if here.isEmpty then s
  else if here.length = g.length then
    let ts := drivenTargets x
    if !ts.all ((s.region c).accepts s.now) then s
    else s.modRegion c (fun r =>
      ts.foldl (fun (r : Region) t => r.deliver s.now (i / 4) 1 t (.mark .purge) [] none) (g.foldl (fun r k => r.pop s.now i k) r))
  else s.modRegion c (fun r => (g.filter (fun k => (((s.node c i).queue k).operand s.now).isSome)).foldl (fun r k => r.pop s.now i k) r)

/-- PURGE_MARKER (R231). -/
def execPurgeMarker (c i : Nat) (s : State) : Out :=
  .next (match s.instrOf c i, (s.region c).img with
    | some x, some im =>
      let n := s.node c i
      if !s.working c || n.retired then s
      else
        let groups := purgeSets im i x n.st
        let bearing := groups.flatten ++ ownPurge x
        let loose := (s.purgeHeads c i).filter (fun k => !bearing.contains k && !purgeWaits x n.st k)
        let s1 := s.modRegion c (fun r => loose.foldl (fun r k => r.pop s.now i k) r)
        groups.foldl (fun st g => st.purgeGroup c i x g) s1
    | _, _ => s)

end Sys2Proof.Machine
end

