-- ==== Sys2Proof/Machine/Boundary.lean ====
section
/-!
DEFINITION. The block boundary (R212 to R220, R226, R360, R385): loads of the shadow, the steps of R213, and the start of the
next block.
-/

namespace Sys2Proof.Machine

open Sys2Proof

/-! ## Loads of the shadow (R78, R81, R212) -/

/-- The cycles' worth of an image that a block cache holds: 32 KiB (R369). -/
def cacheFrames : Nat := 1024

/-- The images of a block cache that still fit into `room` frames, the first first. -/
def cacheFit (room : Nat) : Tbl Image → Tbl Image
  | [] => []
  | (pa, im) :: rest => if Image.size im ≤ room then (pa, im) :: cacheFit (room - Image.size im) rest else []

/-- What a load of a block gives (R212): a cached copy is checked again for what depends on the task. -/
def State.loadBlock (s : State) (c blk : Nat) : Except LoadFail Image :=
  let t := s.taskOf c
  match s.cached c (BitVec.ofNat 64 blk) with
  | some (_, im) =>
    if im.priv && !t.supg then .error (reject .privilege 0)
    else match eachOf (fun _ x => must (!onLutLoop t.luts im.luts x.2) .lutFrame x.1) 0 im.luts with
      | .error e => .error e
      | .ok _ => .ok im
  | none => s.load (s.fetchSpace c) blk t.supg t.luts

/-- The selected exit is a `calli` to address 0, which R199 gives T_BADBLK 0x05. R199 says nothing of a direct `call` whose target comes
to 0: the model loads the block that stands there (log entry 59). -/
def Region.callsZero (r : Region) (blk : Nat) : Bool :=
  blk == 0 && (match r.sel with
    | some x => x.kind == .calli
    | none => false)

/-- The image that a cluster's block cache keeps after a load, by its physical address; the oldest give way (R369). -/
def State.keepImage (s : State) (c blk : Nat) (im : Image) : State :=
  match s.xlateRaw (s.fetchSpace c) (BitVec.ofNat 64 blk) .fetch with
  | .ok (pa, _) =>
    if Config.cacheKeeps c pa then s.modCluster c (fun k => { k with cache := cacheFit cacheFrames ((pa, im) :: k.cache.drop pa) })
    else s
  | .error _ => s

/-- A load of the shadow as far as it goes now: it waits for its frames, or it ends with an image or a failure. A hit of the block
cache reads no memory (R369). -/
inductive Loaded where
  | wait (s : State)
  | ends (s : State) (got : Except LoadFail Image)

/-- The fetch of a block, once its frames are at hand (R56, R212, R349): the errors that it finds leave their sectors marked
(R382), and the leaves are kept in the TLB (R344). -/
def State.fetchBlock (s : State) (c blk : Nat) : Loaded :=
  let a : Word := BitVec.ofNat 64 blk
  let sp := s.fetchSpace c
  if (s.cached c a).isSome || blk % 32 != 0 then .ends s (s.loadBlock c blk)
  else
    let runs := s.imageRuns sp a
    let (pls, _) := s.areaRuns sp .fetch runs
    let s0 := s.walkRuns sp .fetch runs
    if !s.runsOpen sp runs then .wait s
    else match s0.reach c .fetch (s.taskOf c).eprio (List.zipWith (fun (x : Word × Nat) pas => placed x.1 pas) runs pls).flatten with
    | .fault x => .ends (s0.reached c .fetch) (.error (fetchFail x))
    | .wait s1 => .wait s1
    | .go => .ends ((s0.reached c .fetch).findErrors pls.flatten) (s.loadBlock c blk)

/-- SHADOW_USABLE (R212): the load of the shadow ends, with a checked image or with a failure that is held. -/
def execShadowUsable (c : Nat) (s : State) : Out :=
  match (s.region c).shadow with
  | none => .next s
  | some sh =>
    if !s.running c || sh.ready || s.now < sh.usable then .next s
    else
      match (if (s.region c).callsZero sh.blk then .ends s (.error (reject .misaligned 0)) else s.fetchBlock c sh.blk) with
      | .wait s1 => .next s1
      | .ends s1 (.error f) => .next (s1.modRegion c (fun r => { r with shadow := some { sh with ready := true, img := none, fail := some f } }))
      | .ends s1 (.ok im) => .next ((s1.modRegion c (fun r => { r with
          shadow := some { sh with ready := true, img := some im, usable := sh.usable + 8 + Image.size im } })).keepImage c sh.blk im)

/-! ## Write entries (R219, R220) -/

/-- Takes in what has reached a write entry. A register entry keeps its last token; a port entry only gives up markers. The
count is of end-of-stream markers, which strand (R28, R219). -/
def WriteRun.absorb (now : Nat) (port : Bool) (w : WriteRun) : List QTok → WriteRun × Nat
  | [] => ({ w with toks := [] }, 0)
  | t :: rest =>
    if t.pend.isSome || now < t.at_ then ({ w with toks := t :: rest }, 0)
    else match t.tok with
      | .mark .teardown => ({ w with toks := rest, complete := true }, 0)
      | .mark .purge => w.absorb now port rest
      | .mark .eos => let (w1, n) := w.absorb now port rest
                      (w1, n + 1)
      | x => if port then ({ w with toks := t :: rest }, 0) else { w with last := some x }.absorb now port rest

/-- Takes in what has reached the write entries of region c. -/
def State.absorbWrites (s : State) (c : Nat) : State :=
  (s.region c).writes.foldl (fun st x =>
    let (w, n) := x.2.absorb s.now ((s.region c).portWrite x.1).isSome x.2.toks
    (st.modRegion c (fun r => { r with writes := r.writes.set x.1 w })).strand c (224 + x.1) n) s

/-- A value that lands in a register (R15, R219): bits [63:0] of a packet, or 0 or 1. -/
def landed (t : Token) : Word := low64 t.asData

/-- The register write entries of the running block, with their numbers. -/
def Region.regWrites (r : Region) : List (Nat × WriteEntry) :=
  match r.img with
  | none => []
  | some im => ((List.range im.writes.length).zip im.writes).filter (fun x => x.2.reg.toNat < 112)

/-- One register write entry lands (R219): its clean value; or NOWR where an expected write is empty. An entry for `g0` only
discards. -/
def State.landWrite (s : State) (c : Nat) (x : Nat × WriteEntry) : State :=
  if x.2.reg = 0 then s
  else match ((s.region c).writes.get {} x.1).last with
  | some t => if t.origin.isSome then s else s.modTaskOf c (fun k => k.setReg x.2.reg.toNat (landed t))
  | none => if x.2.opt then s
            else ((s.modTaskOf c (fun t => { t with nowr := true })).modRegion c (fun r => { r with emptyWrite := true })).touch 1 c 4

/-- The T_POISON record of a write entry that holds poison (R219, R384). -/
def State.writePoison (s : State) (c : Nat) (x : Nat × WriteEntry) : Option TrapRec :=
  match ((s.region c).writes.get {} x.1).last.bind Token.origin with
  | some o => if x.2.reg = 0 then none
              else some (s.record c (srcNode c (224 + x.1)) 5 0 (o.setWidth 64) (BitVec.ofNat 64 (224 + x.1)) 0)
  | none => none

/-- Step 3 of R213: every clean entry lands, then poisoned ones trap; the boundary goes on at step 4. -/
def State.landAll (s : State) (c : Nat) : State :=
  let es := (s.region c).regWrites
  let bad := es.filterMap (s.writePoison c)
  let s1 := (es.foldl (fun st x => st.landWrite c x) s).modRegion c (fun r => { r with step := 4 })
  bad.foldl (fun st x => st.raise c x) s1

/-- What the write entries of a mirrored task send to the umpire at step 3 (R391). -/
def Region.landItem (r : Region) : List Word :=
  r.regWrites.flatMap (fun x => match (r.writes.get {} x.1).last with
    | none => [0, 0]
    | some t => [if t.origin.isSome then 2 else 1, landed t])

/-! ## Parking (R359 to R361) -/

/-- The 128 bytes of a park frame (R359). -/
def parkFrame (t : Task) (save dep : Nat) : List Byte :=
  leBytes 8 (dep * 256 + save) ++ ((List.range 15).map (fun n => if n < save then le64 (t.reg (16 + n)) else leBytes 8 0)).flatten

/-- A park line of a cluster (R359). -/
def parkLine (c j : Nat) : Nat := sliceAddr c 43 (0x2F800 + 128 * j)

/-- A trap of step 5, which resume repeats (R360). -/
def State.stepTrap (s : State) (c code sub : Nat) (a b cc : Word) : State := s.raise c (s.record c (srcSeq c) code sub a b cc)

/-- The sequencer of region c as it reads and writes the stack, bound to what the ending block is bound to (R264, R367). -/
def State.seqSpace (s : State) (c : Nat) : Space := { s.space c with lag := s.lag, bound := s.finalBound (s.taskIdOf c) }

/-- A frame on the stack, once its places are at hand, or the trap of its access (R360). -/
def State.stackFrame (s : State) (c : Nat) (a : Word) (k : AccKind) (go : State → List Nat → State) : State :=
  let s0 := s.walked (s.seqSpace c) a 128 k
  if !s.walkOpen (s.seqSpace c) a 128 then s
  else match s.xlateBytes (s.seqSpace c) a 128 k with
  | .error f => s0.raise c (s0.seqFault c f)
  | .ok pas => (match s0.reach c .area (s.taskOf c).eprio (placed a pas) with
      | .fault f => (s0.reached c .area).raise c (s0.seqFault c f)
      | .wait s1 => s1
      | .go => go (s0.reached c .area) pas)

/-- `call` and `calli` at step 5 (R199, R360). -/
def State.parkRegs (s : State) (c : Nat) (im : Image) : State :=
  let t := s.taskOf c
  let d := t.depth + 1
  let frame := parkFrame t im.save d
  let lk : Word := BitVec.ofNat 64 ((s.region c).blk + 32 * Image.size im)
  let go (st : State) (sp : Word) : State :=
    (st.modTaskOf c (fun x => { (x.setReg 1 sp).setReg 2 lk with depth := d, bound := union x.bound [st.wseq] })).modRegion c
      (fun r => { r with step := 6, until_ := 0 })
  if t.depth = 0xFFFFFFFF then s.stepTrap c 6 0x21 0 0 0
  else if d ≤ 15 && !t.nopark then go (s.store (pbytes (parkLine c (d - 1)) frame false) false none) (t.reg 1)
  else if (t.reg 1).toNat % 16 != 0 then s.stepTrap c 4 0 (t.reg 1) 0 (BitVec.ofNat 64 (8 * AccKind.write.code))
  else s.stackFrame c (t.reg 1 - 128) .write (fun s1 pas =>
    go (s1.storeAll (pas.zipWith (fun pa b => { addr := pa, val := b }) frame) false none) (t.reg 1 - 128))

/-- The registers of a park frame taken back (R360), from bytes that were read: a frame of another depth or with a header field
that is not zero raises T_MEMERR 0x20, a poisoned one T_POISON. -/
def State.unparkFrom (s : State) (c : Nat) (inPark : Bool) (bs : List Byte) (bad : Bool) (b : List Nat) : State :=
  let t := s.taskOf c
  let h := leVal (bs.take 8)
  let n := h % 16
  if h / 256 % 2 ^ 32 != t.depth || h / 16 % 16 != 0 || h / 2 ^ 40 != 0 then s.stepTrap c 6 0x20 0 0 0
  else if bad then s.stepTrap c 5 0 0 0 5
  else
    let t1 := (List.range n).foldl (fun x k => x.setReg (16 + k) (wordAt bs (8 * (1 + k)))) t
    (s.modTaskOf c (fun _ => { (if inPark then t1 else t1.setReg 1 (t.reg 1 + 128)) with
      depth := t.depth - 1, bound := union t.bound b })).modRegion c (fun r => { r with step := 6, until_ := 0 })

/-- `ret` at step 5 (R360), from the park as it stands or from the stack. -/
def State.unparkRegs (s : State) (c : Nat) : State :=
  let t := s.taskOf c
  if t.depth = 0 then s.modRegion c (fun r => { r with step := 6, until_ := 0 })
  else if t.depth ≤ 15 && !t.nopark then
    let pas := span (parkLine c (t.depth - 1)) 128
    (s.findErrors pas).unparkFrom c true (pas.map (Memory.read s.mem)) (pas.any s.marked) []
  else s.stackFrame c (t.reg 1) .read (fun s1 pas =>
    let cs := s.cuts s.lag (s.finalBound (s.taskIdOf c)) true pas
    (s1.findErrors pas).unparkFrom c false (s.cutBytes cs) (s.cutMarked cs) (s.cutSet cs []))

/-- Cycles that step 5 takes (R152, R360; log entry 2). -/
def State.parkTime (s : State) (c : Nat) (im : Image) (kind : ExitKind) : Nat :=
  let t := s.taskOf c
  match kind with
  | .call | .calli => if t.depth + 1 ≤ 15 && !t.nopark then 4 + im.save else 300
  | .ret => if t.depth = 0 then 0 else if t.depth ≤ 15 && !t.nopark then 19 else 300
  | _ => 0

/-! ## Recovery points (R385, R387) -/

/-- A port whose elements a recovery point has emptied from its replay buffer (R386), but for those from ordinal `from_` on, which the
point's own context has still to deliver. -/
def Port.emptied (p : Port) (from_ : Option Nat) : Port :=
  { p with
    replay := match from_ with
      | none => []
      | some k => p.replay.filter (fun e => k ≤ e.from_)
    fetched := p.fetched.map (fun e => { e with peeked := false }) }

/-- The clean standing of a task after a recovery point (R386, R387, R389, R392). -/
def Task.pointTaken (t : Task) (kind : Bool) : Task :=
  { t with rpHave := true, rpKind := kind, irrev := false, rolled := false, mismatched := false
           ports := t.ports.mapV (fun _ p => p.emptied none) }

/-- The standing of a twin after the recovery point of its pair, whose context is the home copy's (R390; log entry 58). -/
def Task.twinTaken (t home : Task) (kind : Bool) : Task :=
  { t with rpHave := true, rpKind := kind, irrev := false, rolled := false, mismatched := false
           ports := t.ports.mapV (fun k p => p.emptied ((home.ports.find k).map (·.ord))) }

/-- Writes a recovery point of the task of region c (R385): its context `x` into slot 128 + v, which then replaces the one
before. -/
def State.takePoint (s : State) (c : Nat) (x : Task) (snap : Bool) : Area Unit :=
  let j := s.job x.job
  let slot := 128 + x.vreg.getD 0
  match s.saveAreas { s.space c with priv := true } x c snap.toNat none (csaAt j slot) (bsaAt j slot) with
  | .done s1 _ =>
    let s2 := ({ s1 with points := s1.points.set x.id x }).modTaskOf c (fun t => t.pointTaken snap)
    .done (match s2.twinCluster c with
      | some c' => s2.modTaskOf c' (fun t => t.twinTaken x snap)
      | none => s2) ()
  | a => a

/-- The record of a recovery point that could not be written (R385). -/
def State.pointRecord (s : State) (c : Nat) (f : XFault) : TrapRec :=
  s.record c (srcSeq c) 3 0xC f.addr 0 f.info

/-! ## The steps of R213 -/

/-- The block at which the boundary goes on, and the kind of the exit: the selected exit's, or what a dispatch gives. -/
def Region.target (r : Region) : Option Nat :=
  match r.sel with
  | some x => x.successor.map BitVec.toNat
  | none => r.shadow.map (·.blk)

/-- Sets the step of a boundary. -/
def State.toStep (s : State) (c n : Nat) : State := s.modRegion c (fun r => { r with step := n })

/-- Raises the held failure of the shadow (R81) and loads it afresh, with no copy of the block cache (R378). -/
def State.raiseLoad (s : State) (c : Nat) (sh : Shadow) (f : LoadFail) : State :=
  let s1 := (s.modCluster c (fun k => { k with cache := [] })).modRegion c (fun r => { r with
    shadow := some { blk := sh.blk, usable := s.now + 300 } })
  s1.raise c { s1.seqFault c { code := f.code, sub := f.sub, addr := f.addr, info := f.info } with block := sh.blk }

/-- Steps 1 and 2: every node has flipped, every write entry is complete, stores under SMASK have performed. -/
def Region.tornDown (r : Region) : Bool :=
  r.nodes.all (fun x => x.2.flipped) && (match r.img with
    | some im => (List.range im.nwr).all (fun e => (r.writes.get {} e).complete)
    | none => true)

/-- A store of the old block under SMASK is still to perform. -/
def Region.storesOut (r : Region) : Bool :=
  match r.img with
  | none => false
  | some im => r.accesses.any (fun a => !a.old && isWriteClass a.ins && im.smask.getLsbD (memFmt a.ins).lsid.toNat)

/-- Step 3. A mirrored task's entries go to the umpire first, which lands them on both copies (R391). -/
def State.step3 (s : State) (c : Nat) : State :=
  if !s.mirrored c then s.landAll c
  else if s.hub.items.any (fun x => x.task == s.taskIdOf c && x.what == 2) then s
  else s.pushItem c 224 2 0 (s.region c).landItem

/-- Engine register writes that are due land in the order of completion (R217, R184). -/
def State.landDue (s : State) (c : Nat) : State :=
  let due := (s.taskOf c).pends.filter (fun p => p.val.isSome)
  s.modTaskOf c (fun t => { due.foldl (fun x p => x.setReg p.reg (p.val.getD 0)) t with
    pends := t.pends.filter (fun p => p.val.isNone) })

/-- Step 4: engine register writes land (R217). -/
def State.step4 (s : State) (c : Nat) : State :=
  let s1 := s.landDue c
  s1.modRegion c (fun r => { r with step := 5, until_ := 0, before5 := some ((s1.taskOf c).regs, (s1.taskOf c).depth) })

/-- Register results that have come in before a context is saved land as if at step 4 (R184): over the registers that step 5 found,
and step 5 runs once more (R360; log entry 60). -/
def State.landLate (s : State) (c : Nat) : State :=
  match (s.region c).before5 with
  | some (g, d) => ((s.modTaskOf c (fun t => { t with regs := g, depth := d })).landDue c).modRegion c (fun r =>
      { r with step := 5, until_ := s.now, late := true })
  | none => s.landDue c

/-- Step 5: parking and unparking, once their time has passed. -/
def State.step5 (s : State) (c : Nat) : State :=
  let r := s.region c
  match r.img, r.sel with
  | some im, some x =>
    if r.until_ = 0 then s.modRegion c (fun r => { r with until_ := s.now + s.parkTime c im x.kind })
    else if s.now < r.until_ then s
    else (match x.kind with
      | .call | .calli => s.parkRegs c im
      | .ret => s.unparkRegs c
      | _ => s.toStep c 6)
  | _, _ => s.toStep c 6

/-- Step 6: the stranded-operand check of a STRICT block (R226), once, of two faults the second held (R371); resume goes on at
step 7. -/
def State.step6 (s : State) (c : Nat) : State :=
  let r := s.region c
  let strict : Bool := !r.late && (match r.img with
    | some im => im.strict
    | none => false)
  let fault (sub : Nat) : TrapRec :=
    s.record c (srcSeq c) 7 sub (BitVec.ofNat 64 r.strandedHere) (BitVec.ofNat 64 (r.strandedAt.getD 0)) 0
  let faults := (if strict && r.strandedHere != 0 then [fault 2] else []) ++ (if strict && r.emptyWrite then [fault 3] else [])
  faults.foldl (fun st x => st.raise c x) (s.toStep c 7)

/-- Step 7: the end of the task (R198), or a held failure (R81). -/
def State.step7 (s : State) (c : Nat) : State :=
  let r := s.region c
  match r.target with
  | none => s.modTaskOf c (fun t => { t with ending := true })
  | some _ => (match r.shadow with
      | none => s
      | some sh =>
        if !sh.ready then s
        else match sh.fail with
          | some f => s.raiseLoad c sh f
          | none => s.toStep c 8)

/-- A task that has left its region waits at the tail of its cluster's bench after a yield (R324). -/
def yielded (t c : Nat) (_ : Task) (s : State) : State := s.toBench t c false

/-- A pre-empted task waits at the head of the bench, and the region is free for the task that gains it (R313, R322, R324). -/
def preempted (t c : Nat) (gainer : Option Nat) (_ : Task) (s : State) : State :=
  (s.toBench t c true).modCluster c (fun k => { k with favour := gainer })

/-- A request has not lapsed (R325): the task it favours still waits. One made of another member of a unit stands until that unit's
request lapses (R313). -/
def State.stands (s : State) (a : Ask) : Bool :=
  let x := s.task a.task
  a.member || x.queued || (x.handler.isSome && x.place == .waiting)

/-- The first pending request for region c: the task it favours, and its cycle. -/
def State.wanted (s : State) (c : Nat) : Option (Nat × Nat) := ((s.cluster c).asks.find? s.stands).map (fun a => (a.task, a.at_))

/-- The task that gains region c when it is given up (R325, R376, R410): a handler before others; of the age requests the oldest task,
if the first request rests on age; else the task of the first (log entry 57). -/
def State.gainer (s : State) (c : Nat) : Option Nat :=
  let l := (s.cluster c).asks.filter (fun a => s.stands a && !a.member)
  match l.filter (fun a => (s.task a.task).handler.isSome) ++ l with
  | [] => none
  | a :: rest => some (if a.byAge then
      (rest.filter (·.byAge)).foldl (fun t b => if (s.task b.task).older (s.task t) then b.task else t) a.task else a.task)

/-- A request made in a cycle, for a region that had already selected its exit: it waits for step 8 (R227, R326). -/
def Region.afterExit (r : Region) (at_ : Nat) : Bool := r.step ≤ 8 && r.sel.any (fun x => x.cycle ≤ at_)

/-- A command of the task of region c has left a register result that has not landed (R217). -/
def State.resultsDue (s : State) (c : Nat) : Bool := (s.taskOf c).pends.any (fun p => p.val.isSome)

/-- Nothing of the task of region c is at work that would be lost with the region (R184, R272, R305). -/
def State.mayLeave (s : State) (c : Nat) : Bool :=
  let r := s.region c
  s.enginesQuiet c (s.taskIdOf c) && r.accesses.isEmpty && r.sysops.all SysOp.waits && !(r.expired && (s.taskOf c).budget == 0)

/-- Step 8: a yield or a pending pre-emption releases the region (R184, R200, R326), once register results that have come in
have landed (R184); not in the cycle in which BUDGET expires, at whose end the region freezes (R229). -/
def State.step8 (s : State) (c : Nat) : State :=
  let r := s.region c
  let t := s.taskIdOf c
  let yields : Bool := match r.sel with
    | some x => x.kind == .yield && (s.taskOf c).handler.isNone
    | none => false
  let at_ := r.target.getD 0
  let s1 := s.cancelWaiting c
  if !yields && (s.wanted c).isNone then s.toStep c 9
  else if s.resultsDue c then s1.landLate c
  else if !s.mayLeave c then s1
  else s1.depart c 0 none (s1.context c false at_) (s1.csaOf t) (if yields then yielded t c else preempted t c (s.gainer c))

/-- The read bindings of a task keep what they deliver (R386), as recovery points are taken of it or of its pair: of neither replicas
nor handlers (R385). -/
def Task.keepsReplay (t : Task) : Bool := !t.repl && t.handler.isNone && t.vreg.isSome

/-- The task of region c takes recovery points (R385): a twin stands in those of its home copy (R390). -/
def State.takesPoints (s : State) (c : Nat) : Bool := (s.taskOf c).keepsReplay && !(s.taskOf c).isTwin

/-- Step 9: a recovery point where the successor has RPT = 1 (R385); a fault repeats the step. After a dispatch it waits for
the load of the successor, whose failure is raised at step 10. -/
def State.step9 (s : State) (c : Nat) : State :=
  let r := s.region c
  let rpt : Bool := match r.nextImage with
    | some im => im.rpt
    | none => false
  let on (st : State) : State := st.modRegion c (fun r => { r with step := 10, until_ := s.now })
  if !(r.shadow.any (·.ready)) then s
  else if !(rpt && s.takesPoints c) then on s
  else match s.takePoint c (s.context c false (r.target.getD 0)) false with
    | .fault s1 f => s1.raise c (s1.pointRecord c f)
    | .wait s1 | .poison s1 => s1
    | .done s1 _ => on s1

/-- One step of the boundary, as far as it can go now. -/
def State.boundaryStep (s : State) (c : Nat) : State :=
  match (s.region c).step with
  | 1 => let s1 := s.absorbWrites c
         if (s1.region c).tornDown then (s1.dropGates c true).toStep c 2 else s1
  | 2 => if (s.region c).storesOut then s else s.toStep c 3
  | 3 => s.step3 c
  | 4 => s.step4 c
  | 5 => s.step5 c
  | 6 => s.step6 c
  | 7 => s.step7 c
  | 8 => s.step8 c
  | 9 => s.step9 c
  | 11 => s.restoreOn c
  | _ => s

/-- Steps follow one another in one cycle while they take no time. -/
def State.boundary (c : Nat) : Nat → State → State
  | 0, s => s
  | n + 1, s => if s.running c && !(s.taskOf c).ending then State.boundary c n (s.boundaryStep c) else s

/-- BLOCK_BOUNDARY (R213). -/
def execBlockBoundary (c : Nat) (s : State) : Out := .next (if (s.region c).step = 0 then s else State.boundary c 12 s)

/-! ## The start of a block (R213 to R217) -/

/-- An `sbind` of a port by the task of region c has not completed (R186, R216). -/
def State.bindInFlight (s : State) (c p : Nat) : Bool :=
  (s.cluster c).eq.any (fun q => q.task == s.taskIdOf c && !q.dead && (match q.ins with
    | .sbind f => bitsOf f.flg 3 0 == p
    | _ => false))

/-- The fault of a port that an entry names: entry index, port, direction (R216, R245). -/
def State.portFault (s : State) (c index reg : Nat) (write : Bool) : Option (Nat × Nat × Nat) :=
  if reg < 112 || s.bindInFlight c (reg - 112) then none
  else match (s.taskOf c).ports.find (reg - 112) with
    | some p => if p.write == write then none else some (index, 3, reg - 112)
    | none => some (index, 2, reg - 112)

/-- The first port fault of a block that is to start (R216). -/
def State.portFaults (s : State) (c : Nat) (im : Image) : Option (Nat × Nat × Nat) :=
  let rd := (List.range im.reads.length).zipWith (fun e (x : ReadEntry) => s.portFault c (192 + e) x.reg.toNat false) im.reads
  let wr := (List.range im.writes.length).zipWith (fun e (x : WriteEntry) => s.portFault c (224 + e) x.reg.toNat true) im.writes
  (rd ++ wr).findSome? id

/-- The number of the command fired last among those that hold a register pending (R217). -/
def Task.pendingBy (t : Task) (reg : Nat) : Option Nat :=
  (t.pends.filter (fun p => p.reg == reg)).foldl (fun m p => match m with
    | none => some p.cmd
    | some k => some (Nat.max k p.cmd)) none

/-- A read entry delivers a register's value (R215). -/
def Region.readReg (r : Region) (now e : Nat) (x : ReadEntry) (v : Word) : Region :=
  let tok : Token := mkPkt .i64 [v.toNat]
  let r1 := (r.deliverEntry now x.t0 tok []).deliverEntry now x.t1 tok []
  { r1 with reads := r1.reads.set e { r1.reads.get {} e with done := true, waits := none } }

/-- What a read entry does in S (R215, R217): a plain entry delivers; an await entry delivers unless its register is pending. -/
def State.startRead (s : State) (c e : Nat) (x : ReadEntry) : State :=
  let t := s.taskOf c
  let reg := x.reg.toNat
  match x.mode with
  | .plain => s.modRegion c (fun r => r.readReg s.now e x (t.reg reg))
  | .await => (match t.pendingBy reg with
      | none => s.modRegion c (fun r => r.readReg s.now e x (t.reg reg))
      | some q => s.modRegion c (fun r => { r with reads := r.reads.set e { r.reads.get {} e with waits := some q } }))
  | _ => s

/-- The direct successor that the exit with EXN 0 names (R212). -/
def imagePreload (im : Image) (blk : Nat) : Option Word :=
  im.words.findSome? (fun w => match decode w with
    | .ok (.exit f) | .ok (.call f) | .ok (.yield f) =>
      if f.exn = 0 then some (BitVec.ofNat 64 blk + (f.off.signExtend 64) * 32) else none
    | _ => none)

/-- The region that runs an image from now on (R213, R264): slots armed, entries empty, what was issued before it still at
work. -/
def Region.armed (r : Region) (now blk : Nat) (im : Image) (bound : List Nat) : Region :=
  { modc := r.modc, blk := blk, img := some im
    words := (List.range im.nins).zip im.words
    nodes := (List.range im.nins).map (fun i => (i, { bound := bound }))
    reads := (List.range im.nrd).map (fun e => (e, {}))
    writes := (List.range im.nwr).map (fun e => (e, {}))
    accesses := r.leftBehind now
    sysops := r.sysops, busy := r.busy, held := r.held, expired := r.expired }

/-- The block in the shadow starts (R213): S is now. No stream of a `split` or `omerge` goes on from a block before (R131). -/
def State.startBlock (s : State) (c : Nat) (sh : Shadow) (im : Image) : State :=
  let t := s.taskIdOf c
  let bound := s.finalBound t
  let aged (q : Cmd) : Cmd := if q.task = t then { q with age := q.age + 1 } else q
  let s1 := ((s.modRegion c (fun r => r.armed s.now sh.blk im bound)).modCluster c (fun k => { k with eq := k.eq.map aged })).modTaskOf c (fun x =>
    let y := (List.range Instr.nCells).foldl (fun x cell => x.patch im cell) x
    { y with supb := im.priv, bound := bound, groups := y.groups.mapV (fun _ g => { g with streams := [] }) })
  let s3 := (((List.range im.reads.length).zip im.reads)).foldl (fun st x => st.startRead c x.1 x.2) s1
  match imagePreload im sh.blk with
  | some a => s3.startLoad c a
  | none => s3

/-- BLOCK_START (R213): in the cycle after the last step has finished, once the shadow is usable. -/
def execBlockStart (c : Nat) (s : State) : Out :=
  let r := s.region c
  match r.shadow with
  | none => .next s
  | some sh =>
    if !s.running c || r.step != 10 || s.now ≤ r.until_ || !sh.ready || s.now < sh.usable then .next s
    else match sh.fail, sh.img with
      | some f, _ => .next (s.raiseLoad c sh f)
      | none, none => .next s
      | none, some im => (match s.portFaults c im with
          | some (i, sub, p) => .next (s.raise c (s.record c (srcNode c i) 0xA sub (BitVec.ofNat 64 p) 0 0))
          | none => .next (s.startBlock c sh im))

/-- AWAIT_READ (R217): the entry fires once the write it waits for has landed. -/
def execAwaitRead (c e : Nat) (s : State) : Out :=
  let r := s.region c
  match r.img.bind (fun im => im.reads[e]?), (r.reads.get {} e).waits with
  | some x, some q =>
    if s.working c && r.inject.isNone && r.step = 0 && !(r.reads.get {} e).done &&
        (s.taskOf c).pends.all (fun p => p.cmd != q) then
      .next (s.modRegion c (fun r => r.readReg s.now e x ((s.taskOf c).reg x.reg.toNat)))
    else .next s
  | _, _ => .next s

end Sys2Proof.Machine
end

