-- ==== Sys2Proof/Machine/Pattern.lean ====
section
/-!
DEFINITION. Pattern descriptors (R236 to R238): their fields, which are valid, and where value k of a stream lies.
-/

namespace Sys2Proof.Machine

open Sys2Proof

/-- A field of a descriptor: n bytes at offset o. -/
def fieldAt (bs : List Byte) (o n : Nat) : Nat := leVal (Image.slice bs o n)

/-- The fields of a descriptor (R236). -/
def Desc.ofBytes (bs : List Byte) : Desc :=
  { base := wordAt bs 0
    cnt := [fieldAt bs 8 4, fieldAt bs 12 4, fieldAt bs 16 4, fieldAt bs 20 4]
    str := [Num.sval (fieldAt bs 24 4) 32, Num.sval (fieldAt bs 28 4) 32, Num.sval (fieldAt bs 32 4) 32, Num.sval (fieldAt bs 36 4) 32]
    ibase := wordAt bs 40
    ety := fieldAt bs 48 1 % 16
    mode := fieldAt bs 49 1 % 4
    isz := (fieldAt bs 49 1).testBit 2
    lanes := fieldAt bs 50 1 % 8 + 1 }

/-- The value type, for ETY 0 to 9. -/
def Desc.ty (d : Desc) : Ty := (Ty.ofCode d.ety).getD .i64

/-- The value size in bytes (R237). -/
def Desc.size (d : Desc) : Nat := d.ty.elemBits / 8

/-- The descriptor is valid (R237). -/
def Desc.valid (d : Desc) : Bool :=
  d.mode != 3 && d.ety ≤ 9 && d.lanes ≤ d.ty.maxLanes && !(d.mode == 1 && d.lanes != 1) && d.total < 2 ^ 48 &&
    !(d.mode == 1 && d.ty.laneWidth == 32 && 2 ^ 32 < d.total)

/-- The counters of value k, innermost first (R238). -/
def Desc.counters (d : Desc) (k : Nat) : Nat × Nat × Nat × Nat :=
  let c (j : Nat) : Nat := d.cnt.getD j 1
  (k % c 0, k / c 0 % c 1, k / (c 0 * c 1) % c 2, k / (c 0 * c 1 * c 2))

/-- The stride of a level. -/
def Desc.stride (d : Desc) (j : Nat) : Int := d.str.getD j 0

/-- `off` of value k, with i0 times STR0 where the mode adds it (R238). -/
def Desc.offset (d : Desc) (k : Nat) : Int :=
  let (i0, i1, i2, i3) := d.counters k
  (if d.mode = 2 then 0 else (i0 : Int) * d.stride 0) + i1 * d.stride 1 + i2 * d.stride 2 + i3 * d.stride 3

/-- The bytes of an index (R236). -/
def Desc.indexSize (d : Desc) : Nat := if d.isz then 8 else 4

/-- The address of index k, indexed mode (R238). -/
def Desc.indexAddr (d : Desc) (k : Nat) : Word := d.ibase + BitVec.ofNat 64 (k * d.indexSize)

/-- The address of value k, given its index in indexed mode (R238). -/
def Desc.valueAddr (d : Desc) (k : Nat) (x : Int) : Word :=
  BitVec.ofInt 64 (d.base.toNat + (if d.mode = 2 then x * d.stride 0 else 0) + d.offset k)

/-! ## Reads of an engine (R241, R262, R270) -/

/-- The places of a read of an agent, each with the number up to which it goes: single-copy atomic in its aligned pieces of 8 bytes
(R260). -/
def State.readCuts (s : State) (sp : Space) (pas : List Nat) : List (Nat × Nat) := s.cuts sp.lag sp.bound true pas

/-- What such a read finds: bytes, each with the poison of its sector. -/
def State.peek (s : State) (cs : List (Nat × Nat)) : List (Byte × Bool) := cs.map (fun x => (s.byteAt x.2 x.1, s.markAt x.2 x.1))

/-- What such a read binds its agent to (R262). -/
def State.readBy (s : State) (sp : Space) (pas bound : List Nat) : List Nat := s.cutSet (s.readCuts sp pas) bound

/-- An index of n bytes read at an address (R188, R238): its places, its signed value, and whether it is poisoned. -/
def State.readIndex (s : State) (sp : Space) (a : Word) (n : Nat) : Except XFault (List Nat × Int × Bool) :=
  (s.xlateBytes sp a n .read).map (fun pas =>
    (pas, Num.sval (leVal (s.cutBytes (s.readCuts sp pas))) (8 * n), s.cutMarked (s.readCuts sp pas)))

/-- Where a value of a stream lies: the address and places of its index, whether that is poisoned, and, if it is not, the address
and places of the value. -/
structure Spot where
  idxAt : Word := 0
  idx : List Nat := []
  bad : Bool := false
  at_ : Word := 0
  pas : List Nat := []
deriving DecidableEq, Repr

/-- The places of a value, of its index and of its own bytes, with the addresses that name them. -/
def Spot.places (x : Spot) : List (Word × Nat) := placed x.idxAt x.idx ++ placed x.at_ x.pas

/-- The place of value k for reading or writing (R237, R238, R415), or an index fault (`true`) or value fault. -/
def State.locate (s : State) (sp : Space) (d : Desc) (k : Nat) (kind : AccKind) : Except (XFault × Bool) Spot :=
  let value (spot : Spot) (x : Int) : Except (XFault × Bool) Spot :=
    let a := d.valueAddr k x
    if a.toNat % d.size != 0 then .error (alignFault a kind, false)
    else match s.xlateBytes sp a d.size kind with
      | .error f => .error (f, false)
      | .ok pas => .ok { spot with at_ := a, pas := pas }
  if d.mode != 2 then value {} 0
  else
    let ia := d.indexAddr k
    if ia.toNat % d.indexSize != 0 then .error (alignFault ia .read, true)
    else match s.readIndex sp ia d.indexSize with
      | .error f => .error (f, true)
      | .ok (idx, x, bad) => if bad then .ok { idxAt := ia, idx := idx, bad := true } else value { idxAt := ia, idx := idx } x

/-- The places of the index of value k, before it is read: none in the modes that have none. -/
def State.indexPlaces (s : State) (sp : Space) (d : Desc) (k : Nat) : List (Word × Nat) :=
  if d.mode != 2 then []
  else match s.xlateBytes sp (d.indexAddr k) d.indexSize .read with
    | .ok pas => placed (d.indexAddr k) pas
    | .error _ => []

/-- The modules on the way to the tables that the translations of value k read carry traffic (R210, R399). -/
def State.valueOpen (s : State) (sp : Space) (d : Desc) (k : Nat) (kind : AccKind) : Bool :=
  (d.mode != 2 || s.walkOpen sp (d.indexAddr k) d.indexSize) && (match s.locate sp d k kind with
    | .ok x => x.bad || s.walkOpen sp x.at_ d.size
    | .error (x, idx) => idx || s.walkOpen sp x.addr 1)

/-- What the translations of value k leave behind (R344, R382). -/
def State.walkedValue (s : State) (sp : Space) (d : Desc) (k : Nat) (kind : AccKind) : State :=
  let s1 := if d.mode = 2 then s.walked sp (d.indexAddr k) d.indexSize .read else s
  match s.locate sp d k kind with
  | .ok x => if x.bad then s1 else s1.walked sp x.at_ d.size kind
  | .error (x, idx) => if idx then s1 else s1.walked sp x.addr 1 kind

end Sys2Proof.Machine
end

