-- ==== Sys2Proof/Machine/EngineOps.lean ====
section
/-!
DEFINITION. Engine commands in the queue (R180 to R195): their order, their traps, their descriptors and tiles, the work of
each, and their completion.
-/

namespace Sys2Proof.Machine

open Sys2Proof

/-! ## The queue -/

/-- The command numbered k in the queue of cluster c. -/
def State.cmdAt (s : State) (c k : Nat) : Option Cmd := (s.cluster c).eq.find? (fun q => q.id == k)

/-- Replaces a command by its number. -/
def State.putCmd (s : State) (c : Nat) (q : Cmd) : State :=
  s.modCluster c (fun x => { x with eq := x.eq.map (fun (y : Cmd) => if y.id = q.id then q else y) })

/-- Takes a command out of the queue. -/
def State.dropCmd (s : State) (c id : Nat) : State :=
  s.modCluster c (fun x => { x with eq := x.eq.filter (fun y => y.id != id) })

/-- The address space of a command, with what its reads may see (R262, R270). -/
def State.cmdSpace (s : State) (c : Nat) (q : Cmd) : Space := { q.space c with lag := s.lag, bound := q.bound }

/-- The way of a command to some places (R210, R248, R349), and its end. -/
def State.cmdReach (s : State) (c : Nat) (q : Cmd) (places : List (Word × Nat)) : Reach :=
  s.reach c (.cmd q.id) (s.task q.task).eprio places

def State.cmdReached (s : State) (c : Nat) (q : Cmd) : State := s.reached c (.cmd q.id)

/-- The commands of one node pass each step in firing order (R180): those before q have reached step `n`. -/
def Cluster.mayPass (k : Cluster) (q : Cmd) (n : Nat) : Bool :=
  k.eq.all (fun y => y.task != q.task || y.node != q.node || y.age != q.age || q.id ≤ y.id || y.dead || n ≤ y.step)

/-- A command acts in this cycle: no fault has stopped it, its cluster does not skip the cycle, and up to step 4 its region
is not frozen (R183, R371, R405). -/
def State.cmdLive (s : State) (c : Nat) (q : Cmd) : Bool :=
  let k := s.cluster c
  !q.stopped && k.skip != some s.now && k.wake ≤ s.now &&
    (4 < q.step || (!q.dead && k.region.frozen.isNone && k.region.stoppedBy.isNone))

/-- The command numbered k of cluster c, if it stands at a step and acts. -/
def State.cmdReady (s : State) (c k step : Nat) : Option Cmd :=
  match s.cmdAt c k with
  | some q => if q.step = step && s.cmdLive c q then some q else none
  | none => none

/-- A command goes on to a step, with a new place among those that wait there. -/
def State.cmdGo (s : State) (c : Nat) (q : Cmd) (n : Nat) : State :=
  ({ s with arrivals := s.arrivals + 1 }).putCmd c { q with step := n, arrived := s.arrivals + 1 }

/-! ## Traps -/

/-- Commands with a descriptor or card at step 4 (R185, R193). -/
def descSize (i : Instr) : Nat :=
  match i with
  | .sbind _ => 64
  | .tcopy _ | .tgath _ | .tscat _ | .board _ | .msend _ | .repl _ => 32
  | .migr _ => 16
  | .kick f => if f.flg.getLsbD 0 then 0 else 96
  | _ => 0

/-- The command reads something at step 4. -/
def readsDesc (i : Instr) : Bool := descSize i != 0 || (match i with
  | .kick _ => true
  | _ => false)

/-- A trap of a command stops it in its place (R183): a trap of step 5 before any work goes back to step 4. One of a killed
task's command is discarded with the command (R379). -/
def State.cmdTrap (s : State) (c : Nat) (q : Cmd) (x : TrapRec) : State :=
  if q.dead then s.dropCmd c q.id
  else
    let back := q.step = 5 && q.done = 0 && readsDesc q.ins
    let q1 := if back then { q with step := 4, buf := [], result := 0 } else q
    (s.putCmd c { q1 with stopped := true, early := none }).raise c { x with cmd := some q.id }

/-- The record of an access fault of a command: TINFO_B is its performed prefix (R343). -/
def State.cmdFault (s : State) (c : Nat) (q : Cmd) (x : XFault) : TrapRec := s.faultRecord c q.node x q.done

/-- The record of a semaphore fault of a command. -/
def State.cmdSema (s : State) (c : Nat) (q : Cmd) (x : XFault) : TrapRec := s.semRecord c q.node x

/-! ## Descriptors -/

/-- The places of a command's descriptor, or the trap of its read (R180). -/
def State.descPlaces (s : State) (c : Nat) (q : Cmd) : Except TrapRec (List Nat) :=
  let n := descSize q.ins
  if !readsDesc q.ins then .ok []
  else if q.l.toNat % 32 != 0 || (n = 0 && q.l = 0) then .error (s.cmdFault c q (alignFault q.l .desc))
  else (s.xlateBytes (s.cmdSpace c q) q.l n .desc).mapError (s.cmdFault c q)

/-- The bytes of a command's descriptor, or the trap of its read (R180, R270). -/
def State.descBytes (s : State) (c : Nat) (q : Cmd) : Except TrapRec (List Byte) :=
  match s.descPlaces c q with
  | .error x => .error x
  | .ok pas =>
    let cs := s.readCuts (s.cmdSpace c q) pas
    if s.cutMarked cs then .error (s.descRecord c q.node pas) else .ok (s.cutBytes cs)

/-- A command that has read its descriptor goes on with its places and bytes: once they are at hand, and unless the read traps.
Errors that it finds leave their sectors marked (R382). -/
def State.withDesc (s : State) (c : Nat) (q : Cmd) (go : State → List Nat → List Byte → State) : State :=
  let s0 := s.walked (s.cmdSpace c q) q.l (descSize q.ins) .desc
  if !s.walkOpen (s.cmdSpace c q) q.l (descSize q.ins) then s
  else match s.descPlaces c q with
  | .error x => s0.cmdTrap c q x
  | .ok pas => (match s0.cmdReach c q (placed q.l pas) with
      | .fault x => (s0.cmdReached c q).cmdTrap c q (s0.cmdFault c q x)
      | .wait s1 => s1
      | .go =>
        let s1 := (s0.cmdReached c q).findErrors pas
        match s.descBytes c q with
        | .error x => s1.cmdTrap c q x
        | .ok d => go s1 pas d)

/-! ## Semaphores -/

/-- The threshold of a wait (R180). -/
def Cmd.threshold (q : Cmd) : Nat :=
  let f := cmdFmt q.ins
  if f.wthr = 0xFFF then q.r.toNat else f.wthr.toNat

/-- The physical semaphore that a command waits on. -/
def State.waitKey (s : State) (q : Cmd) : Option Nat := (s.task q.task).semKey (cmdFmt q.ins).wsem.toNat

/-- A command that waits on a semaphore, whether or not its region goes on; one that a trap has stopped does not wait. -/
def State.waitsOn (s : State) (y : Cmd) (key : Nat) : Bool :=
  y.step == 2 && !y.dead && !y.stopped && s.waitKey y == some key

/-- An earlier waiter of a semaphore stands before q: waiters are served strictly in arrival order (R180). -/
def State.waiterBefore (s : State) (q : Cmd) (key : Nat) : Bool :=
  s.clusters.any (fun x => x.2.eq.any (fun y => y.arrived < q.arrived && s.waitsOn y key))

/-- The step after a satisfied wait. -/
def Cmd.afterWait (q : Cmd) : Nat := if usesTile q.ins then 3 else 4

/-- The wait of a command (R180 step 2): satisfied in arrival order, as an acquire of every deposit (R271). -/
def State.waitStep (s : State) (c : Nat) (q : Cmd) : State :=
  let f := cmdFmt q.ins
  let n := f.wsem.toNat
  let x := q.threshold
  if !(s.cluster c).mayPass q q.afterWait then s
  else if !s.semOpen c (s.task q.task) n then s
  else match s.waitKey q with
    | none => s.cmdTrap c q (s.cmdSema c q (semFault 1 n x))
    | some key =>
      if semMax < x then s.cmdTrap c q (s.cmdSema c q (semFault 3 n x))
      else
        let m := s.sems.get {} key
        if m.val < x || s.waiterBefore q key then s
        else
          let s1 := if f.flg.getLsbD 9 then s else { s with sems := s.sems.set key { m with val := m.val - x } }
          (s1.cmdIrrevoke q).cmdGo c { q with bound := union q.bound m.dep } q.afterWait

/-! ## Tiles -/

/-- The tiles of a command and whether it moves data into each (R178, R187, R188), named by the descriptor as it stands. -/
def cmdTiles (i : Instr) (desc : List Byte) : List (Nat × Bool) :=
  match i with
  | .tcopy f => (if f.flg.getLsbD 1 then [(fieldAt desc 0 1 % 64, false)] else []) ++
      (if f.flg.getLsbD 0 then [(fieldAt desc 8 1 % 64, true)] else [])
  | .tgath f => if f.flg.getLsbD 0 then [(fieldAt desc 16 1 % 64, true)] else []
  | .tscat f => if f.flg.getLsbD 0 then [(fieldAt desc 16 1 % 64, false)] else []
  | _ => []

/-- The command leaves its source tile READY (R178). -/
def keepsTile (i : Instr) : Bool := (cmdFmt i).flg.getLsbD 2 && (match i with
  | .tcopy _ | .tscat _ => true
  | _ => false)

/-- The state a side needs (R178). -/
def needsState (into : Bool) : TileState := if into then .empty else .ready

/-- Every tile of a command stands in the state it needs. -/
def State.tilesReady (s : State) (q : Cmd) (tiles : List (Nat × Bool)) : Bool :=
  tiles.all (fun x => ((s.task q.task).tile x.1).state == needsState x.2)

/-- The tiles that a command waits for: at step 3 those of its descriptor, and those of a boarding that has still to register. -/
def State.waitsTiles (s : State) (c : Nat) (y : Cmd) : List (Nat × Bool) :=
  if y.step = 3 then (match s.descBytes c y with
    | .ok d => cmdTiles y.ins d
    | .error _ => [])
  else match y.ins with
    | .board _ =>
      if y.step == 5 && fieldAt y.desc 8 1 == 1 && y.claims.isEmpty && decide ((s.cluster c).windows.length < 16) &&
        (s.cluster c).windows.all (fun w => w.cmd != y.id)
      then (List.range (fieldAt y.desc 6 2)).map (fun n => (bitsOf (wordAt y.desc 16) 5 0 + n, true)) else []
    | _ => []

/-- An earlier command of the task waits for one of these tiles and could claim what it needs now (R256). -/
def State.claimBefore (s : State) (c : Nat) (q : Cmd) (tiles : List (Nat × Bool)) : Bool :=
  (s.cluster c).eq.any (fun y => y.task == q.task && decide (y.arrived < q.arrived) && s.cmdLive c y &&
    (s.waitsTiles c y).any (fun m => tiles.any (fun x => x.1 == m.1)) && s.tilesReady y (s.waitsTiles c y))

/-- Sets the state of a tile of a command's task. -/
def State.setTileState (s : State) (q : Cmd) (n : Nat) (st : TileState) : State :=
  s.modBoth q (fun t => t.setTile n { t.tile n with state := st })

/-- Claims the tiles of a command at step 3 (R178, R180, R255). -/
def State.claimStep (s : State) (c : Nat) (q : Cmd) : State :=
  if !(s.cluster c).mayPass q 4 then s
  else s.withDesc c q (fun s0 pas d =>
    let q := { q with bound := s.readBy (s.cmdSpace c q) pas q.bound }
    let tiles := cmdTiles q.ins d
    match tiles.findSome? (fun x => match s.useTile c x.1 (if x.2 then .write else .read) with
        | .error f => some f
        | .ok _ => none) with
    | some f => s0.cmdTrap c q (s.cmdFault c q f)
    | none =>
      if !s.tilesReady q tiles || s.claimBefore c q tiles then s0.putCmd c q
      else
        let s1 := tiles.foldl (fun st x =>
          if x.2 then st.setTileState q x.1 .filling
          else if keepsTile q.ins then st else st.setTileState q x.1 .draining) s0
        s1.cmdGo c { q with claims := tiles.map (·.1) } 4)

/-- The tiles of a command after its work (R178). -/
def State.freeTiles (s : State) (q : Cmd) : State :=
  let dirs := (cmdTiles q.ins (List.replicate 32 0)).map (·.2)
  (List.zip q.claims dirs).foldl (fun st x =>
    if x.2 then st.setTileState q x.1 .ready
    else if keepsTile q.ins then st else st.setTileState q x.1 .empty) s

/-! ## Work -/

/-- What the work of a command comes to: it must wait; a trap stops it in its place; a trap ends it without effect; or it is
done. The command is given back as the work leaves it. -/
inductive Work where
  | wait (s : State) (q : Cmd)
  | trap (s : State) (q : Cmd) (x : TrapRec)
  | ends (s : State) (q : Cmd) (x : TrapRec)
  | done (s : State) (q : Cmd)

/-- A sector that a command has come to write wholly from clean bytes, in the writes that `part` names: no mark and no error stands on
it any longer (R382). -/
def State.clearSector (s : State) (part : List (Nat × Nat)) (sec : Nat) : State :=
  let mine (a : Nat) : Bool := (s.readSet s.wseq a).any (fun n => part.contains (sec, n))
  if (span (32 * sec) 32).all mine then { s with marks := NSet.erase s.marks sec, ecc := s.ecc.filter (· != sec) } else s

/-- A write of a command of region c, as one store, to which the command is bound (R270); what it has moved into a sector counts as one
write of that sector (R382). -/
def State.cmdStore (s : State) (c : Nat) (q : Cmd) (bs : List PByte) : State × Cmd :=
  if bs.isEmpty then (s, q)
  else
    let all := s.bothCopies c q bs
    let s1 := s.storeAll all false none
    let clean := (sectorsOf all).filter (fun sec =>
      let mine := all.filter (fun b => sectorOf b.addr == sec)
      mine.all (!·.bad) && mine.length < 32)
    let part := clean.map (fun sec => (sec, s1.wseq)) ++ q.part
    (clean.foldl (fun st sec => st.clearSector part sec) s1, { q with bound := union q.bound [s1.wseq], part := part })

/-- Bytes read by a command, with their places and poison (R270), or the fault of the first that does not read (R183). -/
def State.cmdRead (s : State) (sp : Space) (a : Word) (n : Nat) : Except XFault (List Nat × List (Byte × Bool)) :=
  (s.xlateBytes sp a n .read).map (fun pas => (pas, s.peek (s.readCuts sp pas)))

/-- What a read of a command comes to: its places and bytes, a wait, or a fault. -/
inductive Got where
  | got (s : State) (pas : List Nat) (bs : List (Byte × Bool))
  | wait (s : State)
  | fault (s : State) (x : XFault)

/-- A read of a command, once its places are at hand. -/
def State.cmdGet (s : State) (c : Nat) (q : Cmd) (a : Word) (n : Nat) : Got :=
  let sp := s.cmdSpace c q
  let s0 := s.walked sp a n .read
  if !s.walkOpen sp a n then .wait s
  else match s.cmdRead sp a n with
  | .error x => .fault s0 x
  | .ok (pas, bs) => (match s0.cmdReach c q (placed a pas) with
      | .fault x => .fault (s0.cmdReached c q) x
      | .wait s1 => .wait s1
      | .go => .got s0 pas bs)

/-- The places of bytes to be written up to the first that faults, and that fault. -/
def State.placesTo (s : State) (sp : Space) (a : Word) : Nat → List Nat × Option XFault
  | 0 => ([], none)
  | n + 1 =>
    match s.placesTo sp a n with
    | (l, some x) => (l, some x)
    | (l, none) => (match s.xlateRaw sp (a + BitVec.ofNat 64 n) .write with
        | .error x => (l, some x)
        | .ok (pa, _) => (l ++ [pa], none))

/-! ### tcopy (R187) -/

/-- Source, destination and length of a `tcopy`; a tile's size is its extent, and with two tiles the source's (R187). -/
def State.copySides (s : State) (q : Cmd) : Word × Word × Nat :=
  let f := cmdFmt q.ins
  let t := s.task q.task
  let tile (n : Nat) : Tile := t.tile n
  let from_ := f.flg.getLsbD 1
  let to_ := f.flg.getLsbD 0
  let src := tile (q.claims.getD 0 0)
  let dst := tile (q.claims.getD (if from_ then 1 else 0) 0)
  (if from_ then src.base else wordAt q.desc 0, if to_ then dst.base else wordAt q.desc 8,
   if from_ then src.extent else if to_ then dst.extent else fieldAt q.desc 16 4)

/-- The leading bytes of a run of places that one write serves: those that take no slot, or those of one 256-byte window. -/
def oneWrite (pas : List Nat) : Nat :=
  let near := (pas.takeWhile (fun p => !isFar p)).length
  if near != 0 then near else (pas.takeWhile (fun p => isFar p && p / 256 == pas.headD 0 / 256)).length

/-- Bytes with their poison, at places. -/
def marryBytes (pas : List Nat) (bs : List (Byte × Bool)) : List PByte :=
  pas.zipWith (fun pa (b : Byte × Bool) => ({ addr := pa, val := b.1, bad := b.2 } : PByte)) bs

/-- A `tcopy` writes its buffer from byte `q.done` on to some places, run by run, each once it is at hand. -/
def State.copyOut (s : State) (c : Nat) (q : Cmd) (dst : Word) : Nat → List Nat → Work
  | 0, _ => .done s q
  | fuel + 1, pas =>
    if pas.isEmpty then .done s q
    else
      let k := oneWrite pas
      match s.cmdReach c q (placed (dst + BitVec.ofNat 64 q.done) (pas.take k)) with
      | .wait s1 => .wait s1 q
      | .fault x => .trap (s.cmdReached c q) q (s.cmdFault c q x)
      | .go =>
        let (s1, q1) := (s.cmdReached c q).cmdStore c q (marryBytes (pas.take k) (q.buf.drop q.done))
        s1.copyOut c { q1 with done := q.done + k } dst fuel (pas.drop k)

/-- A `tcopy` has its whole source in its buffer, or waits for it, or traps: the whole source is read before any byte is
written. -/
def State.copyIn (s : State) (c : Nat) (q : Cmd) (src : Word) (len : Nat) : Work :=
  if q.buf.length = len then .done s q
  else match s.cmdGet c q src len with
    | .fault s1 x => .trap s1 q (s1.cmdFault c q x)
    | .wait s1 => .wait s1 q
    | .got s1 pas bs => .done ((s1.cmdReached c q).findErrors pas) { q with buf := bs, bound := s.readBy (s.cmdSpace c q) pas q.bound }

/-- The bytes that a `tcopy` has still to write, up to `limit` of them. -/
def State.workCopy (s : State) (c : Nat) (q : Cmd) (limit : Option Nat) : Work :=
  let (src, dst, len) := s.copySides q
  match s.copyIn c q src len with
  | .done s0 q1 =>
    let n := match limit with
      | some m => Nat.min m (len - q.done)
      | none => len - q.done
    let at_ := dst + BitVec.ofNat 64 q.done
    let (pas, bad) := s0.placesTo (s0.cmdSpace c q1) at_ n
    let s1 := s0.walked (s0.cmdSpace c q1) at_ n .write
    if !s0.walkOpen (s0.cmdSpace c q1) at_ n then .wait s0 q1
    else match s1.copyOut c q1 dst n pas, bad with
    | .done s2 q2, some x => .trap s2 q2 (s2.cmdFault c q2 x)
    | w, _ => w
  | w => w

/-! ### tgath and tscat (R188, R415) -/

/-- Element size, count, index size, table, index list and contiguous side. -/
structure Moves where
  e : Nat
  count : Nat
  isz : Nat
  base : Word
  idx : Word
  buf : Word

def State.moves (s : State) (q : Cmd) : Moves :=
  let esz := fieldAt q.desc 28 1
  { e := 2 ^ (esz % 8), count := fieldAt q.desc 24 4, isz := if esz.testBit 3 then 8 else 4
    base := wordAt q.desc 0, idx := wordAt q.desc 8
    buf := if (cmdFmt q.ins).flg.getLsbD 0 then ((s.task q.task).tile (q.claims.getD 0 0)).base else wordAt q.desc 16 }

/-- The address of the table element that an index names. -/
def Moves.elem (m : Moves) (x : Int) : Word := m.base + BitVec.ofInt 64 (x * m.e)

/-- Element k of the contiguous side. -/
def Moves.slot (m : Moves) (k : Nat) : Word := m.buf + BitVec.ofNat 64 (k * m.e)

/-- One element is written at `a`: from bytes read, or zeros marked poisoned. -/
def State.putElem (s : State) (c : Nat) (q : Cmd) (a : Word) (from_ : List (List Nat)) (bs : List (Byte × Bool)) : Work :=
  let sp := s.cmdSpace c q
  let s0 := s.walked sp a bs.length .write
  if !s.walkOpen sp a bs.length then .wait s q
  else match s.xlateBytes sp a bs.length .write with
  | .error x => .trap s0 q (s.cmdFault c q x)
  | .ok pas => (match s0.cmdReach c q (placed a pas) with
      | .fault x => .trap (s0.cmdReached c q) q (s.cmdFault c q x)
      | .wait s1 => .wait s1 q
      | .go =>
        let (s1, q1) := ((s0.cmdReached c q).findErrors from_.flatten).cmdStore c
          { q with bound := from_.foldl (fun b l => s.readBy sp l b) q.bound } (marryBytes pas bs)
        .done s1 { q1 with done := q.done + bs.length })

/-- The index of element k: its places, its signed value and whether it is poisoned; or a wait, or a trap. -/
def State.getIndex (s : State) (c : Nat) (q : Cmd) (m : Moves) (k : Nat) (go : State → List Nat → Int → Bool → Work) : Work :=
  match s.cmdGet c q (m.idx + BitVec.ofNat 64 (k * m.isz)) m.isz with
  | .fault s1 x => .trap s1 q (s1.cmdFault c q x)
  | .wait s1 => .wait s1 q
  | .got s1 ip bs => go s1 ip (Num.sval (leVal (bs.map (·.1))) (8 * m.isz)) (bs.any (·.2))

/-- One element moves from `src` to `dst`, after its index. -/
def State.moveElem (s : State) (c : Nat) (q : Cmd) (ip : List Nat) (src dst : Word) (n : Nat) : Work :=
  match s.cmdGet c q src n with
  | .fault s1 x => .trap s1 q (s1.cmdFault c q x)
  | .wait s1 => .wait s1 q
  | .got s1 pas bs => s1.putElem c q dst [ip, pas] bs

/-- Element k of a `tgath`: a poisoned index writes zeros marked poisoned (R415). -/
def State.gatherOne (s : State) (c : Nat) (q : Cmd) (m : Moves) (k : Nat) : Work :=
  s.getIndex c q m k (fun s1 ip x bad =>
    if bad then s1.putElem c q (m.slot k) [ip] (List.replicate m.e (0, true)) else s1.moveElem c q ip (m.elem x) (m.slot k) m.e)

/-- The record of a poisoned index of `tscat` (R30, R415): TINFO_B is the prefix. -/
def State.indexPoison (s : State) (c : Nat) (q : Cmd) (ip : List Nat) : TrapRec :=
  s.record c (srcNode c q.node) 5 0 ((originOf c 255 (if ip.any s.damaged then 1 else 2) s.now).setWidth 64) (BitVec.ofNat 64 q.done) 8

/-- Element k of a `tscat`: a poisoned index traps (R415). -/
def State.scatterOne (s : State) (c : Nat) (q : Cmd) (m : Moves) (k : Nat) : Work :=
  s.getIndex c q m k (fun s1 ip x bad =>
    if bad then .trap ((s1.cmdReached c q).findErrors ip) q (s.indexPoison c q ip) else s1.moveElem c q ip (m.slot k) (m.elem x) m.e)

/-- `n` elements of a `tgath` (`into`) or `tscat`, from element k on, in order. -/
def State.moveAll (s : State) (c : Nat) (q : Cmd) (m : Moves) (into : Bool) (k : Nat) : Nat → Work
  | 0 => .done s q
  | n + 1 => match (if into then s.gatherOne c q m k else s.scatterOne c q m k) with
    | .done s1 q1 => s1.moveAll c q1 m into (k + 1) n
    | w => w

/-- The elements that a `tgath` or `tscat` has still to move, up to `limit` bytes of them. -/
def State.workMoves (s : State) (c : Nat) (q : Cmd) (into : Bool) (limit : Option Nat) : Work :=
  let m := s.moves q
  let k := q.done / m.e
  let n := match limit with
    | some b => Nat.min ((b + m.e - 1) / m.e) (m.count - k)
    | none => m.count - k
  s.moveAll c q m into k n

/-! ### sbind and sfree (R186, R244) -/

/-- The port that a command names. -/
def Cmd.port (q : Cmd) : Nat := bitsOf (cmdFmt q.ins).flg 3 0

/-- The record of T_STREAM: TINFO_A the port (R245, R370). -/
def State.streamTrap (s : State) (c src sub port : Nat) : TrapRec := s.record c src 0xA sub (BitVec.ofNat 64 port) 0 0

/-- Cycles to the first element of a fresh binding (R152, R241): the unloaded latency of its base from the port's cell. -/
def State.bindLatency (s : State) (c : Nat) (q : Cmd) (d : Desc) : Nat :=
  match s.xlateRaw (s.cmdSpace c q) d.base .read with
  | .ok (pa, _) =>
    if isSram pa then sramLatency c (q.port / 4) pa
    else match rangeOf pa with
      | some 1 => 1200
      | some 2 => 1800
      | _ => 300
  | .error _ => 1

/-- `sbind` (R186). -/
def State.workBind (s : State) (c : Nat) (q : Cmd) : Work :=
  let p := q.port
  let d := Desc.ofBytes q.desc
  if ((s.task q.task).ports.find p).isSome then .trap s q (s.streamTrap c (srcNode c q.node) 1 p)
  else if !d.valid then .trap s q (s.streamTrap c (srcNode c q.node) 4 p)
  else
    let x : Port := { desc := d, born := q.id, write := (cmdFmt q.ins).flg.getLsbD 4, ended := d.total = 0
                      ready := s.now + (if (cmdFmt q.ins).flg.getLsbD 4 then 0 else s.bindLatency c q d), bound := q.bound }
    .done (s.modBoth q (fun t => { t with ports := t.ports.set p x })) q

/-- `n` zero values of a squeeze write binding, from position k on (R244). -/
def State.zeroFill (s : State) (c : Nat) (q : Cmd) (d : Desc) (k : Nat) : Nat → Work
  | 0 => .done s q
  | n + 1 =>
    let s0 := s.walkedValue (s.cmdSpace c q) d k .write
    if !s.valueOpen (s.cmdSpace c q) d k .write then .wait s q
    else match s.locate (s.cmdSpace c q) d k .write with
    | .error (x, _) => .trap s0 q (s.cmdFault c q x)
    | .ok x => (match s0.cmdReach c q x.places with
        | .fault f => .trap (s0.cmdReached c q) q (s.cmdFault c q f)
        | .wait s1 => .wait s1 q
        | .go =>
          let (s1, q1) := (s0.cmdReached c q).cmdStore c q (x.pas.map (fun pa => { addr := pa, val := 0 }))
          s1.zeroFill c { q1 with done := q.done + x.pas.length } d (k + 1) n)

/-- Bytes of the zero fill of an `sfree` (R186, R244). -/
def State.fillBytes (s : State) (q : Cmd) : Nat :=
  match (s.task q.task).ports.find q.port with
  | some p => if p.write && p.desc.mode == 1 then (p.desc.total - p.ord) * p.desc.size else 0
  | none => 0

/-- `sfree` (R186): pushes have performed as they were made; a squeeze write binding is filled with zeros. -/
def State.workFree (s : State) (c : Nat) (q : Cmd) (limit : Option Nat) : Work :=
  match (s.task q.task).ports.find q.port with
  | none => .done s q
  | some p =>
    let left := (s.fillBytes q - q.done) / p.desc.size
    let n := match limit with
      | some b => Nat.min ((b + p.desc.size - 1) / p.desc.size) left
      | none => left
    match s.zeroFill c q p.desc (p.ord + q.done / p.desc.size) n with
    | .done s1 q1 => .done (if limit.isSome then s1 else s1.modBoth q (fun t => { t with ports := t.ports.drop q.port }))
        { q1 with bound := union q1.bound p.bound }
    | w => w

/-! ### kick (R193, R314) -/

/-- The signal that a `kick` gives when its work ends (R193). -/
def State.onEndOf (s : State) (q : Cmd) : Option (Except XFault OnEnd) :=
  let f := cmdFmt q.ins
  if !f.flg.getLsbD 1 || f.ssem == 0xFF then none
  else match (s.task q.task).semKey f.ssem.toNat with
    | none => some (.error (semFault 1 f.ssem.toNat f.sinc.toNat))
    | some k => some (.ok { sem := k, inc := f.sinc.toNat, task := q.task, node := q.node })

/-- A live task of a job holds a virtual region (R320). -/
def State.vregBusy (s : State) (job v : Nat) : Bool :=
  s.tasks.any (fun x => x.2.job == job && x.2.vreg == some v && x.2.place != .ended && !x.2.isTwin)

/-- The members of a gang of a job that have not ended. -/
def State.gangLive (s : State) (job g : Nat) : List Nat :=
  if g = 0 then [] else (s.tasks.filter (fun x => x.2.job == job && x.2.gang == g && x.2.place != .ended)).map (·.1)

/-- A gang of a job has been dispatched and has a member that has not ended (R313). -/
def State.gangBusy (s : State) (job g : Nat) : Bool :=
  !(s.gangLive job g).isEmpty && s.tasks.any (fun x => x.2.job == job && x.2.gang == g && x.2.place != .ended && x.2.started)

/-- What a command has waited for has deposited (R272). -/
def State.deposits (s : State) (q : Cmd) : List Nat := q.waited.foldl (fun b t => union b (s.task t).bound) q.start

/-- The die of a virtual region, bound at the first kick that names it (R319). -/
def State.dieOfVreg (s : State) (job v : Nat) : State × Nat :=
  let x := (s.job job).vregs.get {} v
  if x.valid then (s, x.die)
  else
    let d := s.chooseDie 0
    (s.setVreg job v { x with die := d, valid := true }, d)

/-- Puts a new task where it waits (R314): on the kicking cluster's bench if that lies on its die, else in the pool; none where
that is full. -/
def State.queueNew (s : State) (t c : Nat) : Option State :=
  let x := s.task t
  if x.die = c / 16 && x.gang = 0 then
    (if benchSize ≤ (s.cluster c).bench.length then none else some (s.toBench t c false))
  else if poolSize ≤ (s.pool x.die).length then none
  else some (s.toPool t)

/-- The task that a `kick` describes (R193, R306, R314). -/
def State.kickedTask (s : State) (q : Cmd) (die : Nat) (onend : List OnEnd) : Task :=
  let y := s.task q.task
  let j := s.job y.job
  let id := j.nextId
  let v := fieldAt q.desc 9 1 % 64
  let carry (k : Nat) : Word := q.carry.getD k 0
  ({ id := id, budget := carry 0, seed := carry 1 ^^^ BitVec.ofNat 64 id, lim := (carry 2).toNat
     regs := (3, carry 3) :: (List.range 8).map (fun k => (4 + k, wordAt q.desc (16 + 8 * k)))
     supg := q.priv && y.supg, age := q.fired, srcn := (carry 12).toNat * 256 + q.node
     prio := fieldAt q.desc 8 1 % 4, eprio := fieldAt q.desc 8 1 % 4, vreg := some v, slot := v, gang := fieldAt q.desc 10 2
     entry := wordAt q.desc 0, die := die, onend := onend, bound := s.deposits q } : Task).ofJob j

/-- `kick` of a task (R193, R314): it waits while the virtual region holds a live task, while its gang runs, and while the
bench or pool is full. -/
def State.kickTask (s : State) (c : Nat) (q : Cmd) (onend : List OnEnd) : Work :=
  let job := (s.task q.task).job
  let v := fieldAt q.desc 9 1 % 64
  let g := fieldAt q.desc 10 2
  if s.gangBusy job g then .wait s { q with waited := union q.waited (s.gangLive job g) }
  else if s.vregBusy job v then .wait s q
  else
    let (s1, die) := s.dieOfVreg job v
    let t := s1.kickedTask q die onend
    match (s1.addTask t.id t).queueNew t.id c with
    | none => .wait s q
    | some s2 => .done s2 { q with result := BitVec.ofNat 64 t.id }

/-- `kick` of a job (R193, R314): it waits while the job queue is full, and while the hub is not reached (R399). -/
def State.kickJob (s : State) (c : Nat) (q : Cmd) (onend : List OnEnd) : Work :=
  if 256 ≤ s.hub.queue.length || !s.hubOpen c then .wait s q
  else .done (s.modHub (fun h => { h with queue := h.queue ++
    [{ addr := q.l, root := q.root, asid := q.asid, kicked := true, priv := q.priv, onend := onend, bound := q.start }] })) q

/-- `kick` (R193). -/
def State.workKick (s : State) (c : Nat) (q : Cmd) : Work :=
  let go (l : List OnEnd) : Work := if (cmdFmt q.ins).flg.getLsbD 0 then s.kickJob c q l else s.kickTask c q l
  match s.onEndOf q with
  | some (.error x) => .trap s q (s.cmdSema c q x)
  | some (.ok e) => go [e]
  | none => go []

/-! ### repl (R195, R328 to R330) -/

/-- Clusters of a die that may take a replica, nearest first (R328); a handler is never replicated, so `repl` grants it none (R376). -/
def State.replicaSpots (s : State) (c : Nat) : List Nat :=
  if (s.taskOf c).handler.isSome then [] else (ringOrder c).filter (fun x => s.idle x && (s.cluster x).bench.isEmpty)

/-- Replica m of a group (R330). -/
def State.replicaTask (s : State) (c : Nat) (q : Cmd) (grp m n cap : Nat) (clusters : List Nat) : Task :=
  let y := s.task q.task
  let j := s.job y.job
  ({ id := j.nextId, age := s.now, srcn := 0x4000 + (m - 1) * 4096 + grp * 1024 + c % 64, prio := y.prio, eprio := y.prio
     repl := true, regs := (List.range 9).map (fun k => (3 + k, q.carry.getD (3 + k) 0)), entry := wordAt q.desc 0
     slot := 64 + 4 * grp + m - 1, die := c / 16, bound := q.start
     groups := [(grp, { n := n, member := m, cap := cap, clusters := clusters, home := c })] } : Task).ofJob j

/-- Grants replica m on cluster x: the task, its region at once, and its inboxes (R328, R329). -/
def State.grant (s : State) (c : Nat) (q : Cmd) (grp m n cap : Nat) (clusters : List Nat) (x : Nat) : State × Nat :=
  let t := s.replicaTask c q grp m n cap clusters
  let s1 := (s.addTask t.id t).install t.id x 0
  let s2 := (s1.initIcb (replicaIcb x) cap t.id).initIcb (returnIcb c grp m) cap q.task
  (s2.modTask t.id (fun y => y.bindTo (newWrites s1 s2)), t.id)

/-- Grants replicas on clusters, the first of them member m; their tasks. -/
def State.grantAll (s : State) (c : Nat) (q : Cmd) (grp n cap : Nat) (clusters : List Nat) : Nat → List Nat → State × List Nat
  | _, [] => (s, [])
  | m, x :: rest =>
    let (s1, t) := s.grant c q grp m n cap clusters x
    let (s2, l) := s1.grantAll c q grp n cap clusters (m + 1) rest
    (s2, t :: l)

/-- `repl` (R328): existing members that still belong to the group stay in it. -/
def State.workRepl (s : State) (c : Nat) (q : Cmd) : Work :=
  let f := cmdFmt q.ins
  let grp := bitsOf f.flg 1 0
  let want := bitsOf f.flg 4 2
  let cap := fieldAt q.desc 8 4
  if cap % 16 != 0 || cap < 64 || 16320 < cap then
    .ends s { q with val := false } (s.record c (srcNode c q.node) 0x12 2 (BitVec.ofNat 64 (returnIcb c grp 1)) 0 0)
  else
    let g := (s.task q.task).groups.get {} grp
    let keep := Nat.min g.tasks.length want
    let spots := (s.replicaSpots c).take (want - keep)
    let n := 1 + keep + spots.length
    let clusters := g.clusters.take keep ++ spots
    let (s1, ts) := s.grantAll c q grp n cap clusters (keep + 1) spots
    let g1 : Group := { g with
      n := n, cap := cap, home := c
      clusters := if spots.isEmpty then g.clusters else clusters
      tasks := if spots.isEmpty then g.tasks else g.tasks.take keep ++ ts }
    let s2 := s1.modTask q.task (fun t => { t with groups := t.groups.set grp g1 })
    .done s2 { q with result := BitVec.ofNat 64 (keep + spots.length), val := keep + spots.length != 0
                      bound := union q.bound (newWrites s s2) }

/-! ### The rest -/

/-- `rspeed` (R194). -/
def State.workVote (s : State) (q : Cmd) : Work :=
  let f := cmdFmt q.ins
  .done (s.modBoth q (fun t => { t with vote := if f.flg.getLsbD 2 then none else some (bitsOf f.flg 1 0) })) q

/-- `sset` (R192). -/
def State.workSet (s : State) (c : Nat) (q : Cmd) : Work :=
  if !s.semOpen c (s.task q.task) (cmdFmt q.ins).ssem.toNat then .wait s q
  else match s.setSem (s.task q.task) (cmdFmt q.ins).ssem.toNat q.r.toNat q.bound with
  | .error x => .trap s q (s.cmdSema c q x)
  | .ok s1 => .done s1 q

/-- Step 5 of a command that does its work in one step, up to `limit` bytes of it (R180). Boardings, migrations and messages
have events of their own. -/
def State.work (s : State) (c : Nat) (q : Cmd) (limit : Option Nat) : Work :=
  match q.ins with
  | .sbind _ => s.workBind c q
  | .sfree _ => s.workFree c q limit
  | .tcopy _ => s.workCopy c q limit
  | .tgath _ => s.workMoves c q true limit
  | .tscat _ => s.workMoves c q false limit
  | .kick _ => s.workKick c q
  | .repl _ => s.workRepl c q
  | .rspeed _ => s.workVote q
  | .sset _ => s.workSet c q
  | .swait _ | .ssig _ => .done s q
  | _ => .wait s q

/-- The bytes of work of a command that can signal by its prefix (R182, R185). -/
def State.workBytes (s : State) (q : Cmd) : Nat :=
  match q.ins with
  | .tcopy _ => (s.copySides q).2.2
  | .tgath _ | .tscat _ => (s.moves q).count * (s.moves q).e
  | .sfree _ => s.fillBytes q
  | _ => 0

/-! ## Signal and completion -/

/-- The command signals by the growth of its prefix (R182). -/
def byteMode (i : Instr) : Bool := (cmdFmt i).ssem != 0xFF && (cmdFmt i).sinc == 0 && (match i with
  | .sset _ => false
  | _ => true)

/-- A command whose signal is one of 0: a boarding of no tiles and a copy of no bytes (R187, R285). -/
def Cmd.empty (q : Cmd) : Bool :=
  match q.ins with
  | .board _ => fieldAt q.desc 6 2 == 0
  | .tcopy f => !f.flg.getLsbD 0 && !f.flg.getLsbD 1 && fieldAt q.desc 16 4 == 0
  | _ => false

/-- What step 6 adds to its semaphore (R180, R182, R185, R193); none where nothing is signalled. -/
def Cmd.increment (q : Cmd) : Option Nat :=
  let f := cmdFmt q.ins
  match q.ins with
  | .sset _ => none
  | .kick _ => if f.flg.getLsbD 1 || f.ssem == 0xFF then none else some f.sinc.toNat
  | .msend _ => if f.ssem == 0xFF then none else some (if f.sinc = 0 then fieldAt q.desc 16 4 else f.sinc.toNat)
  | _ =>
    if f.ssem == 0xFF then none
    else some (if q.empty then 0 else if f.sinc = 0 then q.done - q.signalled else f.sinc.toNat)

/-- A signal of a command by `inc`. -/
def State.cmdSignal (s : State) (q : Cmd) (inc : Nat) : Except XFault State :=
  s.signal (s.task q.task) (cmdFmt q.ins).ssem.toNat inc q.bound

/-- Commands that no rollback takes back (R387). -/
def irrevocableCmd (i : Instr) : Bool := (cmdFmt i).ssem != 0xFF || (match i with
  | .msend _ | .kick _ | .repl _ | .migr _ => true
  | _ => false)

/-- An await entry of the running block waits for a register (R217). -/
def Region.awaits (r : Region) (reg : Nat) : Bool :=
  r.inject.isNone && r.step == 0 &&
    (match r.img with
     | none => false
     | some im => (List.range im.reads.length).any (fun e => match im.reads[e]? with
         | some x => x.mode == .await && x.reg.toNat == reg && !(r.reads.get {} e).done
         | none => false))

/-- The register result of a command of region c (R183, R217): it lands at once for an await entry that waits for it, else at
a boundary, in the order of completion; without effect where the command ended without result. -/
def State.landResult (s : State) (c id : Nat) (v : Option Word) : State :=
  let t := s.taskOf c
  match t.pends.find? (fun p => p.cmd == id) with
  | none => s
  | some p =>
    let rest := t.pends.filter (fun p => p.cmd != id)
    match v with
    | none => s.modTaskOf c (fun x => { x with pends := rest })
    | some w =>
      if (s.region c).awaits p.reg then s.modTaskOf c (fun x => { x.setReg p.reg w with pends := rest })
      else s.modTaskOf c (fun x => { x with pends := rest ++ [{ p with val := some w }] })

/-- The completion token and the register of command `id` in region c; the task's end deposits what the command is bound to
(R272). -/
def State.deliverCmd (s : State) (c id : Nat) (q : Cmd) (ok : Bool) : State :=
  (((s.dropCmd c id).modTaskOf c (fun t => { t with wrote := union t.wrote q.bound })).modRegion c (fun r => r.fill s.now (q.node / 4) 0 (cmdFmt q.ins).t0 id (ctlTok q.val) q.bound)).landResult c id
    (if ok then some q.result else none)

/-- Completion (R180 step 7), for both copies of a mirrored task (R391). Of a killed task's command nothing is left but its writes, which
the task's end deposits (R272, R379). -/
def State.finishCmd (s : State) (c : Nat) (q : Cmd) (ok : Bool) : State :=
  if q.dead then (s.dropCmd c q.id).modTask q.task (fun t => { t with wrote := union t.wrote q.bound })
  else
    let s1 := s.deliverCmd c q.id q ok
    match q.mate, s.twinCluster c with
    | some m, some c' => s1.deliverCmd c' m q ok
    | _, _ => s1

/-- Steps 6 and 7 of a command; a signal waits while the cluster of its semaphore is not reached (R399). -/
def State.signalStep (s : State) (c : Nat) (q : Cmd) : State :=
  if !(s.cluster c).mayPass q 7 then s.putCmd c q
  else match q.increment with
    | none => s.finishCmd c q true
    | some inc => if !s.semOpen c (s.task q.task) (cmdFmt q.ins).ssem.toNat then s.putCmd c q else (match s.cmdSignal q inc with
        | .error x => s.cmdTrap c q (s.cmdSema c q x)
        | .ok s1 => s1.finishCmd c q true)

/-- The end of step 5: tiles are given up, and the signal follows. -/
def State.worked (s : State) (c : Nat) (q : Cmd) : State :=
  let q1 := { q with step := 6, claims := [] }
  let s1 := if irrevocableCmd q.ins then s.cmdIrrevoke q else s
  ((s1.freeTiles q).putCmd c q1).signalStep c q1

/-- A trap that ends a command (R183): it completes without effect and its token has VAL = 0. -/
def State.endCmd (s : State) (c : Nat) (q : Cmd) (x : TrapRec) : State :=
  let s1 := s.finishCmd c { q with val := false } false
  if q.dead then s1 else s1.raise c x

end Sys2Proof.Machine
end

