-- ==== Sys2Proof/Machine/EngineEvents.lean ====
section
/-!
DEFINITION. The events of engine commands (R180 to R195, R251, R256, R354).
-/

namespace Sys2Proof.Machine

open Sys2Proof

/-- ENGINE_WAIT (R180): the wait of command k of cluster c. -/
def execEngineWait (c k : Nat) (s : State) : Out :=
  .next (match s.cmdReady c k 2 with
    | some q => s.waitStep c q
    | none => s)

/-- TILE_CLAIM (R256). -/
def execTileClaim (c k : Nat) (s : State) : Out :=
  .next (match s.cmdReady c k 3 with
    | some q => s.claimStep c q
    | none => s)

/-- The descriptor of the twin's command differs from the home's (R391). -/
def State.descDiffers (s : State) (c : Nat) (q : Cmd) (d : List Byte) : Bool :=
  match q.mate, s.twinCluster c with
  | some m, some c' => (match (s.cluster c').eq.find? (fun y => y.id == m) with
      | some y => (match s.descBytes c' y with
          | .ok e => e != d
          | .error _ => true)
      | none => true)
  | _, _ => false

/-- Step 4 of a command (R180): the fault of its early read first (R183), then its descriptor. -/
def State.descStep (s : State) (c : Nat) (q : Cmd) : State :=
  match q.early with
  | some x => s.cmdTrap c q { x with stamp := s.now, step := s.stepOf c, block := s.blockOf c }
  | none => s.withDesc c q (fun s0 pas d =>
      if s.descDiffers c q d then s0.mismatch c q.node q.item
      else s0.cmdGo c { q with desc := d, bound := s.readBy (s.cmdSpace c q) pas q.bound } 5)

/-- DESCRIPTOR_READ (R180 step 4). -/
def execDescriptorRead (c k : Nat) (s : State) : Out :=
  .next (match s.cmdReady c k 4 with
    | none => s
    | some q => if (s.cluster c).mayPass q 5 then s.descStep c q else s)

/-- What comes of the work of a command. -/
def settle (c : Nat) (w : Work) : State :=
  match w with
  | .wait s1 q => s1.putCmd c q
  | .trap s1 q x => s1.cmdTrap c q x
  | .ends s1 q x => s1.endCmd c q x
  | .done s1 q => s1.worked c q

/-- ENGINE_COMPLETION (R180 steps 5 to 7): the rest of the work, the signal, the completion token. -/
def execEngineCompletion (c k : Nat) (s : State) : Out :=
  .next (match s.cmdAt c k with
    | none => s
    | some q =>
      if !s.cmdLive c q then s
      else if q.step = 6 then s.signalStep c q
      else if q.step = 5 && (s.cluster c).mayPass q 6 then settle c (s.work c q none)
      else s)

/-- The signal of a prefix of which `q.done` bytes have performed (R182): the first that no rollback takes back (R387). It waits while
the cluster of its semaphore is not reached (R399). -/
def State.prefixSignal (s : State) (c : Nat) (q : Cmd) : State :=
  if !s.semOpen c (s.task q.task) (cmdFmt q.ins).ssem.toNat then s
  else match s.cmdSignal q (q.done - q.signalled) with
    | .error x => s.cmdTrap c q (s.cmdSema c q x)
    | .ok s1 => (s1.cmdIrrevoke q).putCmd c { q with signalled := q.done }

/-- BYTE_MODE_SIGNAL (R182): 2 KiB more of the work, and their signal; the last step belongs to the completion. -/
def execByteModeSignal (c k : Nat) (s : State) : Out :=
  .next (match s.cmdReady c k 5 with
    | none => s
    | some q =>
      if !byteMode q.ins then s
      else if 2048 ≤ q.done - q.signalled then s.prefixSignal c q
      else if s.workBytes q ≤ q.done + 2048 then s
      else match s.work c q (some 2048) with
        | .done s1 q1 => (s1.putCmd c q1).prefixSignal c q1
        | w => settle c w)

/-! ## Messages (R191, R251) -/

/-- An earlier send stands in the queue of the same inbox (R251). -/
def State.sendBefore (s : State) (q : Cmd) (pa : Nat) : Bool :=
  s.clusters.any (fun x => x.2.eq.any (fun y => y.arrived < q.arrived && s.queuedAt x.1 y pa))

/-- The record of T_INBOX: TINFO_A the inbox, TINFO_B the body length (R370). -/
def State.inboxRecord (s : State) (c : Nat) (q : Cmd) (sub : Nat) : TrapRec :=
  s.record c (srcNode c q.node) 0x12 sub (wordAt q.desc 0) (BitVec.ofNat 64 (fieldAt q.desc 16 4)) 0

/-- INBOX_SEND (R251): the message reserves its space, in the order of arrival, and is written. -/
def State.sendStep (s : State) (c : Nat) (q : Cmd) : State :=
  let sp := q.space c
  let len := fieldAt q.desc 16 4
  if !s.walkOpen sp (wordAt q.desc 0) 1 then s
  else match s.xlateRaw sp (wordAt q.desc 0) .atomic with
  | .error x => s.cmdTrap c q (s.cmdFault c q x)
  | .ok (home, _) => (match s.icb sp (wordAt q.desc 0) with
      | none => s.endCmd c q (s.inboxRecord c q 2)
      | some b =>
        if !s.pathOpen c home then s
        else if b.cap < 16 + len then s.endCmd c q (s.inboxRecord c q 1)
        else if !b.fits (msgSize len) || s.sendBefore q b.pa then s
        else match s.cmdGet c q (wordAt q.desc 8) len with
          | .fault s0 x => s0.cmdTrap c q (s0.cmdFault c q x)
          | .wait s0 => s0
          | .got s0 pas body =>
            let (s1, p) := ((s0.cmdReached c q).findErrors pas).inboxWrite b (msgSrc c q.node) 0 body
            (s1.cmdIrrevoke q).putCmd c { q with done := 1, result := BitVec.ofNat 64 p, inbox := some (b.pa, b.buf)
                                                 bound := union (s.readBy (s.cmdSpace c q) pas q.bound) [s1.wseq] })

/-- INBOX_SEND (R251). -/
def execInboxSend (c k : Nat) (s : State) : Out :=
  .next (match s.cmdReady c k 5 with
    | none => s
    | some q => match q.ins with
      | .msend _ => if q.done = 0 && (s.cluster c).mayPass q 6 then s.sendStep c q else s
      | _ => s)

/-- The publication of a message that has been written, in the inbox that has reserved its space, once those before it are (R251):
COMMIT, then the inbox's signal, then the end of the command. It waits while the inbox, or the semaphore, is not reached (R399). -/
def State.publishStep (s : State) (c : Nat) (q : Cmd) : State :=
  match q.inbox with
  | none => s
  | some (pa, buf) =>
    let b := s.icbAt pa buf
    let upto := q.result.toNat + msgSize (fieldAt q.desc 16 4)
    let s1 := if q.done = 1 then (s.inboxCommit b upto q.bound).putCmd c { q with done := 2 } else s
    if q.done = 1 && (b.commit != q.result.toNat || !s.pathOpen c pa) then s
    else if b.sem != 0xFF && !s.semOpen (sramClus pa) (s.task (s.inboxOwner b q.task)) b.sem then s1
    else match s1.inboxSignal b q.task q.bound with
      | .error x => s1.cmdTrap c { q with done := 2 } (s1.cmdSema c q x)
      | .ok s2 => s2.worked c { q with done := 2, bound := union q.bound [s1.wseq] }

/-- INBOX_PUBLISH (R251). -/
def execInboxPublish (c k : Nat) (s : State) : Out :=
  .next (match s.cmdReady c k 5 with
    | none => s
    | some q => match q.ins with
      | .msend _ => if q.done = 0 then s else s.publishStep c q
      | _ => s)

/-! ## Migration (R190, R354 to R356) -/

/-- Every TLB in some clusters gives up the entries of an address space that hold an address, or all of them; their block
caches give up their images (R206, R369). -/
def State.invalidate (s : State) (inScope : Nat → Bool) (asid : Nat) (a : Option Word) : State :=
  { s with clusters := s.clusters.mapV (fun c k =>
      if !inScope c then k
      else { k with
        tlb := k.tlb.filter (fun e => e.asid != asid || (match a with
          | some x => x.toNat / 2 ^ e.log != e.va / 2 ^ e.log
          | none => false))
        cache := [] }) }

/-- Page i of a `migr`. An address that is not aligned to a page names the page in which it lies, for which the manual gives no rule
(log entry 59). -/
def Cmd.page (q : Cmd) (i : Nat) : Word := BitVec.ofNat 64 (fieldAt q.desc 0 8 / 4096 * 4096 + i * 4096)

/-- The tier a `migr` moves to: 0 near, 1 far. -/
def Cmd.tier (q : Cmd) : Nat := fieldAt q.desc 12 1 % 2

/-- The leaf of a page of a `migr` (R341); an address that no page table translates is not canonical (R335). -/
def State.pageLeaf (s : State) (sp : Space) (a : Word) : Except XFault Leaf :=
  if 2 ≤ bitsOf a 63 56 then .error (xlateFault 1 a 7 .write) else s.leaf sp a .write

/-- The first page of `n` that the task may not write (R190). -/
def State.pagesFault (s : State) (c : Nat) (q : Cmd) : Nat → Option XFault
  | 0 => none
  | n + 1 =>
    match s.pagesFault c q n with
    | some x => some x
    | none => (match s.pageLeaf (s.cmdSpace c q) (q.page n) with
        | .error x => some x
        | .ok l => if l.e.testBit 2 && (q.priv || l.e.testBit 4) then none else some (xlateFault 3 (q.page n) l.lvl .write))

/-- The places that the walk to page i of a `migr` reads (R341). -/
def State.pageReads (s : State) (c : Nat) (q : Cmd) (i : Nat) : List Nat :=
  if 2 ≤ bitsOf (q.page i) 63 56 || rangeOf q.root != some 0 then [] else s.walkReads (s.cmdSpace c q) (q.page i) q.root 4

/-- Errors that the walk to page i of a `migr`, and those to its first n pages, find (R382). -/
def State.pageWalked (s : State) (c : Nat) (q : Cmd) (i : Nat) : State := s.findErrors (s.pageReads c q i)
def State.pagesWalked (s : State) (c : Nat) (q : Cmd) (n : Nat) : State := (List.range n).foldl (fun st i => st.pageWalked c q i) s

/-- Writes a page-table entry as a release of a package unit at system scope, and invalidates the page in the package (R354). -/
def State.putPte (s : State) (q : Cmd) (m : Migr) (e : Nat) : State :=
  (s.store (pbytes m.pte (leBytes 8 e) false) false (releaseBy 64 3 q.bound)).invalidate (fun _ => true) q.asid (some (BitVec.ofNat 64 m.va))

/-- The free-frame stack of a tier (R356). -/
def State.stackOf (s : State) (tier : Nat) : Nat := if tier = 0 then s.hub.migStack0 else s.hub.migStack1

/-- COUNT of a tier's free-frame stack, and the frame that it makes the top (R356). -/
def State.stackWords (s : State) (tier : Nat) : List Nat := [s.stackOf tier, s.stackOf tier + 8 * s.leNow (s.stackOf tier) 8]

/-- The stamp of an atomic of the migration engine, a unit of far die F0 (R275, R373). -/
def State.migStamp (s : State) : Nat := s.paeStamp 0xC002

/-- Changes COUNT of a tier's stack, and a word besides, in one atomic of the PAE order (R275, R356); what the command is bound
to then. -/
def State.stackAtomic (s : State) (q : Cmd) (tier n : Nat) (more : List PByte) : State × Cmd :=
  let s1 := s.store (pbytes (s.stackOf tier) (leBytes 8 n) false ++ more) true none
  ({ s1 with paeLast := s.migStamp, paeBound := union s.paeBound [s1.wseq] },
   { q with bound := union (union q.bound s.paeBound) [s1.wseq] })

/-- A frame of a tier (R336, R356). -/
def inTier (tier pa : Nat) : Bool :=
  match rangeOf pa with
  | some 0 => tier == 0
  | some 1 | some 2 => tier == 1
  | _ => false

/-- The frame on top of a tier's stack and the COUNT it leaves (R356): subcode 0x0B where the stack is empty, 0x04 for a frame
outside the tier, both at level 0, where the walk of the page has found its leaf (R343); a poisoned word traps as a descriptor's does
(log entry 56). -/
def State.topFrame (s : State) (c : Nat) (q : Cmd) (a : Word) : Except TrapRec (Nat × Nat) :=
  let b := s.stackOf q.tier
  let n := s.leNow b 8
  let top := b + 8 * n
  if s.marked b then .error (s.descRecord c q.node [b])
  else if n = 0 then .error (s.cmdFault c q (xlateFault 0xB a 0 .write))
  else if s.marked top then .error (s.descRecord c q.node [top])
  else
    let pa := s.leNow top 8
    if pa % 4096 != 0 || !inTier q.tier pa then .error (s.cmdFault c q (xlateFault 4 a 0 .write)) else .ok (pa, n - 1)

/-- Gives what lies in the page at `src` to the page at `dst`: bytes, marks and the order of their writes, so that the move of a
page changes nothing that a reader may see of it (R262, R276, R354). -/
def State.copyPage (s : State) (src dst : Nat) : State :=
  let moved (k : Nat) : Nat := k - src + dst
  let here (base a : Nat) : Bool := decide (base ≤ a ∧ a < base + 4096)
  let sec (base x : Nat) : Bool := here base (32 * x)
  { s with
    mem := (span src 4096).foldl (fun m a => Memory.write m (moved a) (Memory.read s.mem a)) s.mem
    marks := ((s.marks.filter (sec src)).map (fun x => moved (32 * x) / 32)).foldl NSet.insert (s.marks.filter (fun x => !sec dst x))
    ecc := s.ecc.filter (fun x => !sec dst x)
    hist := s.hist.map (fun w => { w with
      old := w.old.filter (fun x => !here dst x.1) ++ (w.old.filter (fun x => here src x.1)).map (fun x => (moved x.1, x.2))
      oldMarks := w.oldMarks.filter (fun x => !sec dst x.1) ++
        (w.oldMarks.filter (fun x => sec src x.1)).map (fun x => (moved (32 * x.1) / 32, x.2)) }) }

/-- The 256-byte windows of a page and its two frames. -/
def pageWindows (a : Word) (src dst : Nat) : List (Word × Nat) :=
  (List.range 16).flatMap (fun k => [(a + BitVec.ofNat 64 (256 * k), src + 256 * k), (a + BitVec.ofNat 64 (256 * k), dst + 256 * k)])

/-- Steps 1 to 3 of a page's move (R354), once both frames are at hand: the frame, the entry with MIG = 1, and the copy, which carries
the last write of each byte, so that both copies hold the same value; it binds the command as its other reads do (R270). No rollback
takes the move back (R387). -/
def State.movePage (s : State) (c : Nat) (q : Cmd) (a : Word) (l : Leaf) (pa n : Nat) : State :=
  let m : Migr := { cmd := q.id, clus := c, va := a.toNat, oldPa := ptePa l.e, newPa := pa, pte := l.at_ }
  let (s1, q1) := s.stackAtomic q q.tier n []
  let s2 := s1.putPte q1 m (l.e / 1024 * 1024 + 256 + l.e % 256)
  let s3 := (s2.findErrors (span m.oldPa 4096)).copyPage m.oldPa m.newPa
  let q2 := { q1 with bound := union (s3.cutSet (s3.lastCuts (span m.oldPa 4096)) q1.bound) [s2.wseq] }
  ((s3.cmdIrrevoke q).modHub (fun h => { h with migs := h.migs ++ [m] })).putCmd c q2

/-- A page of a `migr`: it is skipped, it waits, it traps, or its move begins (R190, R354). One leaf moves at a time. -/
def State.startPage (s : State) (c : Nat) (q : Cmd) : State :=
  let a := q.page q.result.toNat
  match s.pageLeaf (q.space c) a with
  | .error x => (s.pageWalked c q q.result.toNat).cmdTrap c q (s.cmdFault c q x)
  | .ok l =>
    if (pteTier l.e).toNat = q.tier then s.putCmd c { q with result := q.result + 1 }
    else if l.lvl != 0 || pteC64 l.e || rangeOf (ptePa l.e) == some 3 then
      s.cmdTrap c q (s.cmdFault c q (xlateFault 0xA a l.lvl .write))
    else if !s.hub.migs.isEmpty || s.migStamp ≤ s.paeLast || !(s.stackWords q.tier).all (s.pathOpen c) then s
    else match s.topFrame c q a with
      | .error x => (s.findErrors (s.stackWords q.tier)).cmdTrap c q x
      | .ok (pa, n) => (match s.cmdReach c q (pageWindows a (ptePa l.e) pa) with
          | .fault x => (s.cmdReached c q).cmdTrap c q (s.cmdFault c q x)
          | .wait s1 => s1
          | .go => (s.cmdReached c q).movePage c q a l pa n)

/-- Steps 4 and 5 of a page's move (R354). -/
def State.endPage (s : State) (c : Nat) (q : Cmd) (m : Migr) : State :=
  if s.migStamp ≤ s.paeLast || !(m.pte :: s.stackWords (1 - q.tier)).all (s.pathOpen c) then s
  else
    let tier := 1 - q.tier
    let n := s.leNow (s.stackOf tier) 8 + 1
    let s1 := (s.findErrors (span m.pte 8 ++ span (s.stackOf tier) 8)).putPte q m (s.leNow m.pte 8 % 128 + 128 * q.tier + m.newPa)
    let (s2, q1) := s1.stackAtomic { q with bound := union q.bound [s1.wseq] } tier n (pbytes (s.stackOf tier + 8 * n) (leBytes 8 m.oldPa) false)
    (s2.modHub (fun h => { h with migs := h.migs.filter (fun x => !(x.cmd == m.cmd && x.clus == m.clus)) })).putCmd c
      { q1 with result := q1.result + 1, done := q1.done + 4096 }

/-- The modules on the way to the tables that the next part of a `migr` walks carry traffic; else it waits (R210, R399). -/
def State.migrOpen (s : State) (c : Nat) (q : Cmd) : Bool :=
  s.hub.migs.any (fun m => m.cmd == q.id && m.clus == c) || (List.range (fieldAt q.desc 8 4)).all (fun i =>
    (q.result != 0 && i != q.result.toNat) || (s.pageReads c q i).all (s.pathOpen c))

/-- The migration of command q of cluster c goes on (R354). -/
def State.migrate (s : State) (c : Nat) (q : Cmd) : State :=
  let n := fieldAt q.desc 8 4
  match s.hub.migs.find? (fun m => m.cmd == q.id && m.clus == c) with
  | some m => s.endPage c q m
  | none =>
    match (if q.result = 0 then s.pagesFault c q n else none) with
    | some x => (s.pagesWalked c q n).cmdTrap c q (s.cmdFault c q x)
    | none => if n ≤ q.result.toNat then s.worked c q else s.startPage c q

/-- MIGRATE_PAGE (R354): the migration of command k of cluster c goes on by one part of one page. -/
def execMigratePage (c k : Nat) (s : State) : Out :=
  .next (match s.cmdReady c k 5 with
    | none => s
    | some q => match q.ins with
      | .migr _ => if (s.cluster c).mayPass q 6 && s.migrOpen c q then s.migrate c q else s
      | _ => s)

end Sys2Proof.Machine
end

