-- ==== Sys2Proof/Machine/FarEvents.lean ====
section
/-!
DEFINITION. Events of the far dies (R347 to R352, R393, R400, R401): slots, responses, stalls, tables, channels, keys.
-/

namespace Sys2Proof.Machine

open Sys2Proof

/-- Cycles of a slot and of a frame (R347). -/
def slotCycles : Nat := 80
def frameCycles : Nat := 640

/-- The position of a time in the table that switched in at `at_` (R348). -/
def slotPos (at_ t : Nat) : Nat := (t - at_) / slotCycles % 16

/-- The numbers of the entries that govern a channel at a time, outbound and inbound. -/
def Far.outIndex (f : Far) (t ch : Nat) : Nat := slotPos f.outAt t * 192 + ch
def Far.innIndex (f : Far) (t ch : Nat) : Nat := slotPos f.innAt t * 192 + ch

/-- The USE of an outbound entry as it acts: a request entry that is not paired acts as best effort, a channel that is down
as idle (R350, R400). -/
def Far.outUse (f : Far) (t ch : Nat) : Nat :=
  let i := f.outIndex t ch
  if f.down.contains ch then 3 else if f.demoted i then 0 else slotUse (f.out.get 0 i)

/-- The USE of an inbound entry as it acts. -/
def Far.innUse (f : Far) (t ch : Nat) : Nat :=
  if f.down.contains (192 + ch) then 3 else slotUse (f.inn.get 0 (f.innIndex t ch))

/-- The link of a far die works: no MAC failure has stopped it, and a module reaches it (R399, R401). -/
def State.farLive (s : State) (k : Nat) : Bool := !(s.far k).keyerr && s.farOpen k

/-- Changes request k of a far die. -/
def Far.setReq (f : Far) (k : Nat) (r : FarReq) : Far :=
  { f with reqs := f.reqs.map (fun (y : FarReq) => if y.id = k then r else y) }

/-! ## Requests (R349) -/

/-- A response to a peer is due on an outbound channel (R349): it goes before any request. -/
def Far.owesOn (f : Far) (now ch : Nat) : Bool := f.owes.any (fun x => x.ch == ch && decide (x.due ≤ now))

/-- Whether a request may take the slot of channel ch that starts now: as a reserved request, or as best effort. -/
def Far.takes (f : Far) (now : Nat) (key : BitVec 16) (r : FarReq) (ch : Nat) : Option Bool :=
  let e := f.out.get 0 (f.outIndex now ch)
  if f.taken.contains (ch, now) || f.owesOn now ch then none
  else match f.outUse now ch with
    | 0 => some false
    | 1 => if e.setWidth 16 == key && e.getLsbD 20 == r.peer && e.toNat / 2 ^ 16 % 4 ≤ r.prio then some true else none
    | _ => none

/-- The lowest channel that a request may take now. -/
def Far.pick (f : Far) (now : Nat) (key : BitVec 16) (r : FarReq) : Option (Nat × Bool) :=
  (List.range 192).findSome? (fun ch => (f.takes now key r ch).map (fun b => (ch, b)))

/-- What made a request still waits for it. -/
def State.reqWanted (s : State) (r : FarReq) : Bool :=
  match r.who with
  | .access id => (s.region r.clus).accesses.any (fun a => a.id == id)
  | .cmd id => (s.cluster r.clus).eq.any (fun q => q.id == id)
  | .port n => ((s.taskOf r.clus).ports.find n).isSome
  | .fetch => (match (s.region r.clus).shadow with
      | some x => !x.ready
      | none => false)
  | .sysop id => (s.region r.clus).sysops.any (fun x => x.id == id)
  | .area | .hub => true

/-- Slots from a request's to its response's (R349). -/
def FarReq.back (r : FarReq) : Nat := if r.peer then 21 else 14

/-- Inbound channel ch owes the slot that starts now: to a reserved request's response, in its slot or delayed by a stall, or to one
sent under an earlier table in its paired slot (R350). -/
def Far.owed (f : Far) (now ch : Nat) : Bool :=
  f.reqs.any (fun r => !r.answered && (match r.slot with
    | some (k, start) => k == ch && (if r.reserved then decide (start + slotCycles * r.back ≤ now)
        else start + slotCycles * r.back == now && decide (start < f.innAt) && r.keeps)
    | none => false))

/-- A response that was owed on the same channel before this one's, by a request of the same kind, has still to come (R350). -/
def Far.earlier (f : Far) (ch start : Nat) (reserved : Bool) : Bool :=
  f.reqs.any (fun r => !r.answered && r.reserved == reserved && (match r.slot with
    | some (k, at_) => k == ch && decide (at_ < start)
    | none => false))

/-- The address generator that a request waits in: that of its port, or of its command (R248). -/
def Requester.eag : Requester → Option Nat
  | .port n => some (n % 8)
  | .cmd id => some (8 + id)
  | _ => none

/-- A request that its address generator holds before this one has taken no slot yet (R349). -/
def State.reqBefore (s : State) (f : Nat) (r : FarReq) : Bool :=
  r.who.eag.isSome && (s.far f).reqs.any (fun x => x.clus == r.clus && x.who.eag == r.who.eag && decide (x.id < r.id) &&
    x.slot.isNone && !x.stalled && s.reqWanted x)

/-- DRAWER_SLOT_PLACE (R349): request k of far die f takes a slot that starts now. -/
def execDrawerSlotPlace (f k : Nat) (s : State) : Out :=
  .next (match (s.far f).reqs.find? (fun r => r.id == k) with
    | none => s
    | some r =>
      if !s.reqWanted r && (r.slot.isNone || r.answered) then s.modFar f (fun d => { d with reqs := d.reqs.filter (fun y => y.id != k) })
      else if r.slot.isSome || r.stalled || !s.hub.keyValid || s.now < r.eligible || s.now % slotCycles != 0 || !s.farLive f ||
        !s.pathOpen r.clus r.addr || s.reqBefore f r then s
      else
        let key := s.hub.partKey
        match (s.far f).pick s.now key r with
        | none => s
        | some (ch, reserved) =>
          let keeps := reserved || (s.far f).innUse (s.now + slotCycles * r.back) ch == 0
          let s1 := s.modFar f (fun d => { d.setReq k { r with slot := some (ch, s.now), reserved := reserved, keeps := keeps, key := key } with
            taken := (ch, s.now) :: d.taken.filter (fun x => s.now ≤ x.2), flits := d.flits + 1 })
          if reserved || s1.wrote 0x604 0 then s1 else s1.modHub (fun h => { h with best := (h.best + 1) % 2 ^ 32 }))

/-- The switch refuses a request (R207, R352). -/
def State.switchNacks (s : State) (r : FarReq) : Bool :=
  s.hub.revoked.contains r.key.toNat || !Config.keyHeld r.key || (r.peer && !Config.peerAssigned (BitVec.ofNat 3 (r.addr / 2 ^ 40)))

/-- The inbound channel on which the response to a request that was sent on channel ch at `start` comes in the slot that starts
now (R349, R350): a reserved request's on that channel; else in the paired slot if that was best effort and is free, or in the
next free best-effort slot. Responses of one channel keep their order. -/
def Far.answerOn (f : Far) (now ch start : Nat) (r : FarReq) : Option Nat :=
  let free (c : Nat) : Bool := f.innUse now c == 0 && !f.takenIn.contains (c, now) && !f.owed now c
  if f.earlier ch start r.reserved then none
  else if r.reserved then (if f.down.contains (192 + ch) || f.takenIn.contains (ch, now) then none else some ch)
  else if start < f.innAt && r.keeps && now == start + slotCycles * r.back && !f.takenIn.contains (ch, now) &&
    !f.down.contains (192 + ch) then some ch
  else if free ch then some ch
  else (List.range 192).find? free

/-- DRAWER_RESPONSE (R349): the response to request k of far die f. -/
def execDrawerResponse (f k : Nat) (s : State) : Out :=
  .next (match (s.far f).reqs.find? (fun r => r.id == k) with
    | none => s
    | some r =>
      match r.slot with
      | none => s
      | some (ch, start) =>
        if r.answered || s.now < start + slotCycles * r.back || s.now % slotCycles != 0 || !s.farLive f then s
        else match (s.far f).answerOn s.now ch start r with
          | none => s
          | some c =>
            let r1 := { r with answered := true, due := s.now + (if r.peer then 120 else 80), nack := s.switchNacks r }
            s.modFar f (fun d => { d.setReq k r1 with
              takenIn := (c, s.now) :: d.takenIn.filter (fun x => s.now ≤ x.2)
              oldfl := if r.old then d.oldfl - 1 else d.oldfl, flitsIn := d.flitsIn + 1
              holds := { until_ := s.now + slotCycles } :: d.holds.filter (fun x => s.now < x.until_) }))

/-- The response due to a peer on channel ch takes the slot that starts now, unless the channel is down or the slot is taken: then
it is delayed whole (R350, R400). -/
def Far.sendOwed (f : Far) (now ch : Nat) : Far :=
  match f.owes.find? (fun x => x.ch == ch && decide (x.due ≤ now)) with
  | none => f
  | some x =>
    if now % slotCycles != 0 || f.down.contains ch || f.taken.contains (ch, now) then f
    else { f with
      owes := f.owes.erase x, taken := (ch, now) :: f.taken.filter (fun y => now ≤ y.2), flits := f.flits + 1
      holds := { until_ := now + 14 * slotCycles } :: f.holds.filter (fun y => now < y.until_) }

/-- PEER_REQUEST (R349): the response due to a peer on channel ch is sent; then a request of a peer package arrives in an inbound
slot of its class, unless the switch has revoked its key (R402), and its response is owed an outbound slot of the channel. The
model lists a response that is due under key 0x10000, which is no key. -/
def execPeerRequest (f ch _addr key : Nat) (s : State) : Out :=
  .next (let s1 := if s.farLive f then s.modFar f (fun d => d.sendOwed s.now ch) else s
    let d := s1.far f
    let e := d.inn.get 0 (d.innIndex s.now ch)
    if 192 ≤ ch || s.now % slotCycles != 0 || !s.farLive f || d.innUse s.now ch != 1 || (e.setWidth 16).toNat != key ||
      s.hub.revoked.contains key || d.owed s.now ch || d.takenIn.contains (ch, s.now) then s1
    else
      let p := (slotPos d.innAt s.now + 7) % 16
      match ((List.range 16).map (fun j => s.now + slotCycles * (j + 1))).find? (fun t => slotPos d.outAt t == p) with
      | some t => s1.modFar f (fun d => { d with
          owes := d.owes ++ [{ ch := ch, due := t }], takenIn := (ch, s.now) :: d.takenIn.filter (fun x => s.now ≤ x.2)
          flitsIn := d.flitsIn + 1, holds := { until_ := s.now + slotCycles } :: d.holds.filter (fun x => s.now < x.until_) })
      | none => s1)

/-- A request that has found no slot for a frame, or a response that is a frame late (R393). -/
def FarReq.late (r : FarReq) (now : Nat) : Bool :=
  match r.slot with
  | none => decide (r.eligible + frameCycles ≤ now)
  | some (_, start) => !r.answered && decide (start + slotCycles * r.back + frameCycles ≤ now)

/-- LINK_STALL (R350, R393): a stall of a frame shows STALL; a request that has found no slot for 2 ms faults at its source. -/
def execLinkStall (f k : Nat) (s : State) : Out :=
  .next (match (s.far f).reqs.find? (fun r => r.id == k) with
    | none => s
    | some r =>
      if !r.late s.now then s
      else
        let s1 := (s.modHub (fun h => { h with stall := true })).touch 0x604 0 48
        if r.slot.isNone && r.eligible + 5000000 ≤ s.now then s1.modFar f (fun d => d.setReq k { r with stalled := true }) else s1)

/-! ## Tables and channels (R209, R348, R400) -/

/-- A far die at a frame boundary: tables that have been read switch in. -/
def Far.switched (f : Far) (now : Nat) : Far :=
  let f1 := match f.nextOut with
    | some t => if f.readyOut < now then { f with out := t, outAt := now, nextOut := none } else f
    | none => f
  match f1.nextInn with
  | some t => if f1.readyInn < now then { f1 with inn := t, innAt := now, nextInn := none } else f1
  | none => f1

/-- SLOT_TABLE_SWITCH (R209): at a frame boundary. -/
def execSlotTableSwitch (s : State) : Out :=
  .next (if s.now % frameCycles = 0 then (s.modFar 0 (fun d => d.switched s.now)).modFar 1 (fun d => d.switched s.now) else s)

/-- The slot that a calibration of a channel uses (R400): idle, else best effort and free, else a request's; channels from 192
on are inbound. -/
def Far.calSlot (f : Far) (now ch : Nat) : Option Nat :=
  let starts := (List.range 16).map (fun j => (now / slotCycles + 1 + j) * slotCycles)
  let use (t : Nat) : Nat := if ch < 192 then f.outUse t ch else f.innUse t (ch - 192)
  let free (t : Nat) : Bool := if ch < 192 then !f.taken.contains (ch, t) && !f.owesOn t ch else !f.takenIn.contains (ch - 192, t)
  match starts.find? (fun t => use t == 3) with
  | some t => some t
  | none => match starts.find? (fun t => use t == 0 && free t) with
    | some t => some t
    | none => starts.find? (fun t => use t == 1)

/-- CHANNEL_CALIBRATION (R400): once in every 2^25 cycles. -/
def execChannelCalibration (f ch : Nat) (s : State) : Out :=
  .next (if 384 ≤ ch || s.now < (s.far f).calAt.get 0 ch + 2 ^ 25 then s
    else s.modFar f (fun d =>
      let d1 := { d with calAt := d.calAt.set ch s.now }
      match d.calSlot s.now ch with
      | none => d1
      | some t => if ch < 192 then { d1 with taken := (ch, t) :: d1.taken } else { d1 with takenIn := (ch - 192, t) :: d1.takenIn }))

/-- CHANNEL_DOWN (R400). -/
def execChannelDown (f ch : Nat) (s : State) : Out :=
  .next (if 384 ≤ ch then s else s.modFar f (fun d => { d with down := NSet.insert d.down ch }))

/-- CHANNEL_RELOCK (R400). -/
def execChannelRelock (f ch : Nat) (s : State) : Out := .next (s.modFar f (fun d => { d with down := NSet.erase d.down ch }))

/-! ## Keys of the link (R401) -/

/-- IDE_AUTO_ROLLOVER (R401): after 2^40 flits under one key, sent or received. -/
def execIdeAutoRollover (f : Nat) (s : State) : Out :=
  .next (if 2 ^ 40 ≤ (s.far f).flits ∨ 2 ^ 40 ≤ (s.far f).flitsIn then s.rollover f else s)

/-- IDE_SLOT_RETIRE (R401): no flit under the old slot is held any longer. A write of IDE_CTL in the same cycle wins (R8). -/
def execIdeSlotRetire (f : Nat) (s : State) : Out :=
  .next (if s.wrote (0x410 + f) f then s
    else s.modFar f (fun d =>
      if d.retiring && d.oldFlits s.now = 0 then { d with retiring := false, roll := false, rcnt := (d.rcnt + 1) % 2 ^ 16 } else d))

/-- MAC_FAILURE (R401): the link stops until software clears KEYERR. -/
def execMacFailure (f : Nat) (s : State) : Out := .next ((s.modFar f (fun d => { d with keyerr := true })).touch (0x410 + f) f 3)

end Sys2Proof.Machine
end

