-- ==== Sys2Proof/Machine/LinkEvents.lean ====
section
/-!
DEFINITION. Events of UCIe modules (R395 to R399).
-/

namespace Sys2Proof.Machine

open Sys2Proof

/-- Posts an event of a class to every live task that `p` admits (R211). -/
def State.postAll (s : State) (cls : Nat) (p : Task → Bool) : State :=
  (s.tasks.filter (fun x => x.2.place != .ended && p x.2)).foldl (fun st x => st.post x.1 cls) s

/-- A link event of module m (R399). -/
def State.linkEvent (s : State) (m : Nat) : State :=
  ((s.modLink m (fun l => { l with evt := true })).touch 0x504 m 3).postAll 4 (·.supg)

/-- One replayed flit (R395); the count raises an event when it reaches RTHR (R399). -/
def State.countRetry (s : State) (m : Nat) : State :=
  let l := s.link m
  let n := Nat.min 0xFFFFFFFF (l.cnt + 1)
  let hit : Bool := l.revt && l.armed && l.rthr != 0 && decide (l.rthr ≤ n)
  let s1 := s.modLink m (fun l => { l with cnt := n, armed := l.armed && !hit })
  if s.wrote 0x501 m then s else if hit then s1.linkEvent m else s1

/-- A retrain of a module by itself, at its width and spare map (R395). -/
def State.autoRetrain (s : State) (m : Nat) : State :=
  (s.modLink m (fun l => { l with
    quiesced := true, up := false, training := true, auto := true, trainEnd := s.now + 12500, twUsed := l.cur
    wires := l.wires.mapV (fun _ w => { w with fails := 0 }) })).linkEvent m

/-- The receiver of one direction after a flit (R395): accepted in sequence, discarded otherwise; a bad CRC makes it wait for a
replay. -/
def Wire.receive (w : Wire) (seqno : Nat) (good : Bool) : Wire :=
  let sent := Nat.max w.sent (seqno + 1)
  let w1 := if !good then { w with nack := true, fails := if seqno < w.sent && seqno == w.expect then w.fails + 1 else w.fails }
    else if seqno = w.expect then { w with expect := w.expect + 1, nack := false, fails := 0 }
    else w
  { w1 with sent := sent, held := Nat.min 128 (sent - w1.expect) }

/-- Direction k of a module after a flit; a CRC error is charged to a physical lane (R396). -/
def Link.receive (l : Link) (k seqno : Nat) (good : Bool) (lane : Nat) : Link :=
  { l with wires := l.wires.set k ((l.wire k).receive seqno good)
           errs := if good then l.errs else l.errs.set lane (l.errs.get 0 lane + 1) }

/-- FLIT_RECEIVE (R395): module end m receives the flit numbered `seqno` of its direction; a CRC error is charged to a lane. -/
def execFlitReceive (m seqno : Nat) (good : Bool) (lane : Nat) (s : State) : Out :=
  .next (let k := moduleOf (m % 416)
    let l := s.link k
    if !l.carries then s
    else
      let s1 := (if seqno < (l.wire (wireOf m)).sent then s.countRetry k else s).modLink k
        (fun l => l.receive (wireOf m) seqno good lane)
      if 16 ≤ ((s1.link k).wire (wireOf m)).fails then s1.autoRetrain k else s1)

/-- A module after its retrain, at the width that it took when the retrain began (R395, R398). -/
def Link.trained (l : Link) (badLanes : BitVec 64) (badSpares : BitVec 4) : Link :=
  let ok := (neededLanes l.twUsed).all (l.laneTrains badLanes badSpares)
  let bad : BitVec 4 := BitVec.ofNat 4 ((List.range 4).foldl (fun n k =>
    if mapField l.mapUsed k < 64 && badSpares.getLsbD k then n + 2 ^ k else n) 0)
  let cur := if ok then l.twUsed else 3
  let back := l.auto && cur != 3
  { l with
    cur := cur, fail := l.fail || !ok, spbad := l.spbad ||| bad, training := false, go := false, auto := false
    trains := Nat.min 0xFFFF (l.trains + 1), quiesced := !back, up := back }

/-- LINK_RETRAIN_END (R398): the lanes and spares that do not train. -/
def execLinkRetrainEnd (m : Nat) (badLanes : BitVec 64) (badSpares : BitVec 4) (s : State) : Out :=
  .next (let k := moduleOf m
    let ended := s.modLink k (fun l => l.trained badLanes badSpares)
    if !(s.link k).training then s
    else if (neededLanes (s.link k).twUsed).all ((s.link k).laneTrains badLanes badSpares) then ended
    else ended.touch 0x504 k 4)

end Sys2Proof.Machine
end

