-- ==== Sys2Proof/Machine/Mgmt.lean ====
section
/-!
DEFINITION. The host, and the management and security controller (R353, R403 to R405, R408).
-/

namespace Sys2Proof.Machine

open Sys2Proof

/-- A byte of HBM that the host sees (R353). -/
def State.hostByte (s : State) (a : Nat) : Bool := s.hostVisible a && decide (a < 2 ^ 40)

/-- A host write of bytes (R273, R353): plain, at system scope, to what the host sees. -/
def State.hostWrite (s : State) (addr : Nat) (data : List Byte) : State :=
  let bs := (pbytes addr data false).filter (fun b => s.hostByte b.addr)
  if bs.isEmpty then s
  else
    let s1 := s.store bs false none
    s1.modHub (fun h => { h with hostBound := union h.hostBound [s1.wseq] })

/-- A host read (R272, R273): the host becomes bound to what it reads, and by a release to what that carries; errors that it finds
leave their sectors marked (R382). -/
def State.hostRead (s : State) (addr len : Nat) : State :=
  let pas := (span addr len).filter s.hostByte
  (s.findErrors pas).modHub (fun h => { h with hostBound := pas.foldl (fun b pa =>
    union (union b (s.readSet s.wseq pa)) (syncSet (releasesOf 65 (s.writesOf s.wseq pa)) 3 65)) h.hostBound })

/-- HOST_ACCESS (R353). -/
def execHostAccess (op : HostOp) (s : State) : Out :=
  .next (match op with
    | .read addr len => s.hostRead addr len
    | .write addr data => s.hostWrite addr data)

/-- PATROL_SCRUB (R382, R404): the sector of an address, in which an uncorrectable error is found if `bad`; a correction
changes nothing that can be read. -/
def execPatrolScrub (addr : Nat) (bad : Bool) (s : State) : Out :=
  .next (if bad then s.markSector addr else s.findErrors [addr])

/-- TELEMETRY_SAMPLE (R403): every 2^20 cycles; the manual does not say what is sampled, so the model keeps the time. -/
def execTelemetrySample (s : State) : Out :=
  .next (if s.now % 2 ^ 20 = 0 then
      s.modHub (fun h => { h with telemetry := h.telemetry ++ [s.now] })
    else s)

/-- A dot block whose cycle numbers are moved on by one. -/
def Dot.later (d : Dot) : Dot := { d with busy := d.busy + 1, ops := d.ops.map (fun o => { o with done := o.done + 1 }) }

/-- THROTTLE (R405): the island of cluster c skips this cycle, so that all it has in progress is a cycle later. -/
def execThrottle (c : Nat) (s : State) : Out :=
  .next (if (s.cluster c).tick == some s.now || (s.cluster c).skip == some s.now then s
    else (s.modCluster c (fun k => { k with skip := some s.now, region := k.region.shift 1 })).modTaskOf c
      (fun t => { t with dots := t.dots.mapV (fun _ d => d.later) }))

/-- CLUSTER_POWER_GATE (R405): a cluster without a task. -/
def execClusterPowerGate (c : Nat) (s : State) : Out :=
  .next (if (s.cluster c).task.isSome then s else s.modCluster c (fun k => { k with gated := true }))

/-- What a report says of the IDE key slots: TXSLOT and RETIRING of each far die (R408). -/
def State.keySlots (s : State) : List Byte :=
  [0, 1].map (fun f => BitVec.ofNat 8 ((s.far f).txslot.toNat + 2 * (s.far f).retiring.toNat))

/-- ATTESTATION_REQUEST (R408): a report of a 32-byte nonce: the nonce, the device identity, SVN, the digest of every firmware
image in load order, the key slots, and the signature. -/
def execAttestationRequest (nonce : List Byte) (s : State) : Out :=
  .next (if nonce.length != 32 then s
    else
      let body := nonce ++ Config.identity ++ leBytes 2 Config.svn.toNat ++
        s.hub.firmware.flatMap (fun x => Config.sha3 (x.header ++ x.body)) ++ s.keySlots
      s.modHub (fun h => { h with doe := body ++ Config.attestation body }))

end Sys2Proof.Machine
end

