-- ==== Sys2Proof/Machine/Streams.lean ====
section
/-!
DEFINITION. Stream ports (R215, R220, R239 to R247, R386, R415): what a pattern engine fetches, how read entries deliver it,
and the pushes of write entries.
-/

namespace Sys2Proof.Machine

open Sys2Proof

/-! ## Elements (R239) -/

/-- Values of the element that begins at value k of a dense or indexed binding. -/
def Desc.run (d : Desc) (k : Nat) : Nat := Nat.min d.lanes (d.cnt.getD 0 1 - k % d.cnt.getD 0 1)

/-- A squeeze binding (R236). -/
def Desc.squeeze (d : Desc) : Bool := d.mode == 1

/-- A zero, which squeeze mode skips. -/
def Desc.isZero (d : Desc) (v : Nat) : Bool := if d.ty.isInt then v == 0 else v % 2 ^ (d.ty.elemBits - 1) == 0

/-- A value as a read finds it: its bits, whether it is poisoned, and by an uncorrectable error, and the places read. -/
structure Value where
  bits : Nat
  bad : Bool
  worst : Bool := false
  idx : List Nat := []
  pas : List Nat

/-- The places of a value and its index. -/
def Value.places (v : Value) : List Nat := v.idx ++ v.pas

/-- A fault of value k of a stream. -/
def XFault.stream (x : XFault) (k : Nat) (idx : Bool) : StreamFault :=
  { code := x.code, sub := x.sub, ord := k, addr := x.addr, info := x.info, index := idx }

/-- Reads value k (R238, R415): a poisoned index poisons it, and it is not read. -/
def State.readValue (s : State) (sp : Space) (d : Desc) (k : Nat) : Except StreamFault Value :=
  match s.locate sp d k .read with
  | .error (x, idx) => .error (x.stream k idx)
  | .ok x =>
    if x.bad then .ok { bits := 0, bad := true, worst := x.idx.any s.damaged, idx := x.idx, pas := [] }
    else
      let cs := s.readCuts sp x.pas
      .ok { bits := leVal (s.cutBytes cs), bad := s.cutMarked cs, worst := x.pas.any s.damaged, idx := x.idx, pas := x.pas }

/-- Reads `n` values from value k on, up to the first that faults. -/
def State.readValues (s : State) (sp : Space) (d : Desc) (k : Nat) : Nat → Except StreamFault (List Value)
  | 0 => .ok []
  | n + 1 =>
    match s.readValue sp d k with
    | .error f => .error f
    | .ok v => (s.readValues sp d (k + 1) n).map (v :: ·)

/-- The token of values read by a port of cluster c; the entry that delivers it puts its number into the origin (R246). -/
def valuesTok (c now : Nat) (ty : Ty) (n : Nat) (bad worst : Bool) (es : List Nat) : Token :=
  if bad then badPkt ty n (originOf c 255 (if worst then 1 else 2) now) else mkPkt ty es

/-- All values lie in one 128-byte line. -/
def oneLine (pas : List Nat) : Bool :=
  match pas with
  | [] => true
  | a :: rest => rest.all (fun b => b / 128 == a / 128)

/-- The address space of a port of region c, and how far back its reads look (R262, R271). -/
def State.portSpace (s : State) (c : Nat) (p : Port) : Space := { s.space c with lag := s.lag, bound := p.bound }

/-- The accesses that n values take, which lie at some places (R241): one if in one line, else one for each and its index. -/
def Desc.accesses (d : Desc) (n : Nat) (pas : List Nat) : Nat := if oneLine pas then 1 else if d.mode = 2 then 2 * n else n

/-- The element at value k of a dense or indexed binding, and the accesses it takes (R241). -/
def State.readElem (s : State) (c : Nat) (p : Port) (k : Nat) : Except StreamFault (Elem × Nat) :=
  let d := p.desc
  let n := d.run k
  let sp := s.portSpace c p
  (s.readValues sp d k n).map (fun vs =>
    ({ tok := valuesTok c s.now d.ty n (vs.any (·.bad)) (vs.any (·.worst)) (vs.map (·.bits)), from_ := k, next := k + n, last := k + n == d.total
       bound := vs.foldl (fun b v => s.readBy sp v.pas (s.readBy sp v.idx b)) p.bound },
     d.accesses n (vs.flatMap (·.pas))))

/-! ## Fetching (R241, R242, R246) -/

/-- Elements that stand ahead of ORD (R241). -/
def Port.window (p : Port) : Nat := p.fetched.length + p.found.isSome.toNat

/-- The value that the engine reads next: past what has been buffered for a replay (R388). -/
def Port.nextScan (p : Port) : Nat :=
  let k := Nat.max p.scan p.ord
  if p.desc.squeeze then p.again.foldl (fun m e => Nat.max m e.next) k
  else p.again.foldl (fun m e => if e.from_ = m then e.next else m) k

/-- The engine stops at a fault that it holds among `n` values from value k on (R246). -/
def Port.stopped (p : Port) (k n : Nat) : Bool :=
  match p.fault with
  | none => false
  | some f => f.ord < k + n

/-- The end of a scan (R239, R240): the pending element is the last; with none, and nothing before it, the stream is empty. -/
def Port.scanEnd (p : Port) : Port :=
  match p.found with
  | some e => { p with found := none, fetched := p.fetched ++ [{ e with last := true, next := p.desc.total }] }
  | none => if p.fetched.isEmpty && p.again.isEmpty && !p.ended then { p with ended := true, ord := p.desc.total } else p

/-- A value found by a scan is pending until the next is found (R239). -/
def Port.foundNext (p : Port) (e : Elem) : Port :=
  { p with
    scan := p.scan + 1
    found := some e
    fetched := match p.found with
      | some x => p.fetched ++ [x]
      | none => p.fetched }

/-- One access of a scan: a run of values in one line, of at most `n` (R241). -/
def State.scanRun (s : State) (c : Nat) (line : Option Nat) : Nat → Port → Port
  | 0, p => p
  | n + 1, p =>
    if p.desc.total ≤ p.scan then p.scanEnd
    else if 16 ≤ p.window || p.stopped p.scan 1 then p
    else match s.readValue (s.portSpace c p) p.desc p.scan with
      | .error f => { p with fault := some f }
      | .ok v =>
        let here := (v.places.headD 0) / 128
        if line.isSome && line != some here then p
        else if !v.bad && p.desc.isZero v.bits then s.scanRun c (some here) n { p with scan := p.scan + 1 }
        else
          let ty := p.desc.ty
          s.scanRun c (some here) n (p.foundNext
            { tok := valuesTok c s.now ty 2 v.bad v.worst [v.bits, p.scan % 2 ^ ty.laneWidth], from_ := p.scan, next := p.scan + 1, last := false
              bound := s.readBy (s.portSpace c p) v.pas p.bound })

/-- One access of the engine of a read binding, or one element's accesses (R241). -/
def State.fetchPort (s : State) (c : Nat) (p : Port) : Port :=
  let k := p.nextScan
  let d := p.desc
  if d.squeeze then { s.scanRun c none (d.total - k + 1) { p with scan := k } with ready := s.now + 1 }
  else if d.total ≤ k || 16 ≤ p.window || p.stopped k (d.run k) then p
  else match s.readElem c p k with
    | .error f => { p with fault := some f }
    | .ok (e, n) => { p with fetched := p.fetched ++ [e], scan := e.next, ready := s.now + n }

/-- The next value of a port lies in a slice of the port's own cluster, or nowhere. -/
def State.ownFetch (s : State) (c : Nat) (p : Port) : Bool :=
  match s.locate (s.portSpace c p) p.desc p.nextScan .read with
  | .ok x => (x.idx ++ x.pas).all (fun a => isSram a && sramClus a == c)
  | .error _ => true

/-- Changes a port of the task of region c. -/
def State.setPort (s : State) (c p : Nat) (x : Port) : State := s.modTaskOf c (fun t => { t with ports := t.ports.set p x })

/-- The first address that a run of values from value k on names, of the value or of its index, and the base of the values. -/
def Desc.runAt (d : Desc) (k : Nat) : List Word :=
  [if d.mode = 2 then d.indexAddr k else d.valueAddr k 0, d.base]

/-- What a fetch of a mirrored task's port sends to the umpire (R391), once: the port, the value it reads, its address and the bytes
that the fetch takes. -/
def State.sendFetch (s : State) (c p : Nat) (x : Port) : State :=
  let k := x.nextScan
  if s.hub.items.any (fun y => y.task == s.taskIdOf c && y.what == 5 && y.id == p) then s
  else s.pushItem c (256 + p) 5 p ([BitVec.ofNat 64 p, BitVec.ofNat 64 k] ++ x.desc.runAt k ++
    [BitVec.ofNat 64 ((if x.desc.squeeze then 1 else Nat.min (x.desc.run k) (x.desc.total - k)) * x.desc.size)])

/-- What a fetch that took port x to y has read. -/
def State.fetchPlaces (s : State) (c : Nat) (x y : Port) : List Nat :=
  (List.range (y.scan - x.nextScan)).flatMap (fun j => match s.readValue (s.portSpace c x) x.desc (x.nextScan + j) with
    | .ok v => v.places
    | .error _ => [])

/-- The way of port n to value k, to the tables that translate it and to its index first, which names the place of the value (R210,
R248, R349), or the fault that stops it there (R246). The flag tells a fault of the index. -/
def State.valueReach (s : State) (c n : Nat) (p : Port) (k : Nat) (kind : AccKind) : Reach × Bool :=
  let sp := s.portSpace c p
  if !s.valueOpen sp p.desc k kind then (.wait s, false)
  else match s.reach c (.port n) (s.taskOf c).eprio (s.indexPlaces sp p.desc k) with
  | .go => (match s.locate sp p.desc k kind with
      | .ok x => (s.reach c (.port n) (s.taskOf c).eprio x.places, false)
      | .error (x, idx) => (.fault x, idx))
  | r => (r, true)

/-- The way of port n to m values from k on: whether all are at hand, with the requests it makes, or the first fault, which none
before it has still to wait for (R246). -/
def State.runReach (s : State) (c n : Nat) (p : Port) (k : Nat) (kind : AccKind) : Nat → Except StreamFault (Bool × State)
  | 0 => .ok (true, s)
  | m + 1 =>
    match s.runReach c n p k kind m with
    | .error f => .error f
    | .ok (all, st) => (match st.valueReach c n p (k + m) kind with
        | (.go, _) => .ok (all, st)
        | (.wait st1, _) => .ok (false, st1)
        | (.fault x, idx) => if all then .error (x.stream (k + m) idx) else .ok (false, st))

/-- What the translations of m values from k on leave behind. -/
def State.walkedRun (s : State) (sp : Space) (d : Desc) (k m : Nat) (kind : AccKind) : State :=
  (List.range m).foldl (fun st j => if s.valueOpen sp d (k + j) kind then st.walkedValue sp d (k + j) kind else st) s

/-- The values that the next fetch of a port needs at hand: an element's, or the first of a scan, whose run lies in its line. -/
def Port.needs (p : Port) : Nat :=
  if p.desc.squeeze then (if p.nextScan < p.desc.total then 1 else 0) else Nat.min (p.desc.run p.nextScan) (p.desc.total - p.nextScan)

/-- A fetch: the port goes on once its places are at hand, or holds a fault of the way to them (R241, R246); the errors it has read
leave their sectors marked (R382). -/
def State.fetched (s : State) (c p : Nat) (x : Port) : State :=
  let k := x.nextScan
  let s0 := s.walkedRun (s.portSpace c x) x.desc k x.needs .read
  match s0.runReach c p x k .read x.needs with
  | .error f => (s0.reached c (.port p)).setPort c p { x with fault := some f }
  | .ok (false, s1) => s1
  | .ok (true, _) => (((s0.reached c (.port p)).setPort c p (s.fetchPort c x)).findErrors (s.fetchPlaces c x (s.fetchPort c x)))

/-- STREAM_FETCH (R241): the engine of read port p fetches ahead. -/
def execStreamFetch (c p : Nat) (s : State) : Out :=
  .next (match (s.taskOf c).ports.find p with
    | none => s
    | some x =>
      if !s.running c || x.write || x.ended || s.now < x.ready || 16 ≤ x.window || x.stopped x.nextScan x.needs then s
      else if s.mirrored c && !s.ownFetch c x then s.sendFetch c p x
      else s.fetched c p x)

/-! ## Delivery (R215, R242) -/

/-- The element that a port delivers next, if it is ready. -/
def Port.head (p : Port) : Option Elem :=
  if p.desc.squeeze then (p.again ++ p.fetched).head? else (p.again ++ p.fetched).find? (fun e => e.from_ == p.ord)

/-- The port after element e has been delivered or skipped (R240, R386). -/
def Port.popped (p : Port) (e : Elem) (keep : Bool) : Port :=
  { p with
    ord := e.next
    ended := e.next == p.desc.total
    again := p.again.filter (fun x => x.from_ != e.from_)
    fetched := p.fetched.filter (fun x => x.from_ != e.from_)
    replay := if keep then p.replay ++ [e] else p.replay
    fault := match p.fault with
      | some f => if f.ord < e.next then none else some f
      | none => none }

/-- A false gate-drop on a port (R215, R246): the port after the skip, or none while a squeeze scan has still to find the
value. -/
def Port.skipped (p : Port) (keep : Bool) : Option Port :=
  if !p.desc.squeeze then
    some (p.popped { tok := .mark .purge, from_ := p.ord, next := p.ord + p.desc.run p.ord, last := false } false)
  else match p.head, p.found with
    | some e, _ => some (p.popped e keep)
    | none, some e => some { p with found := none, ord := e.next, ended := e.next == p.desc.total
                                    replay := if keep then p.replay ++ [e] else p.replay }
    | none, none => none

/-- The held fault that the next element needs (R246). -/
def Port.faulted (p : Port) : Option StreamFault :=
  match p.head, p.fault with
  | none, some f =>
    let k := p.nextScan
    if p.desc.squeeze then (if f.ord = k then some f else none)
    else if k = p.ord && f.ord < k + p.desc.run k then some f else none
  | _, _ => none

/-- Bytes of an element in the replay buffer (R386). -/
def Elem.size (e : Elem) : Nat := 8 + (bytesOfTok e.tok + 7) / 8 * 8

/-- A delivery that the replay buffer has no room for (R386); an element that a peek has delivered, or that is delivered again, stands
in it already. -/
def State.overflows (s : State) (c : Nat) (p : Port) (e : Elem) : Bool :=
  (s.taskOf c).keepsReplay && (p.again ++ p.fetched.filter (·.peeked)).all (fun x => x.from_ != e.from_) &&
    16384 < (p.kept.map Elem.size).foldl (· + ·) 0 + e.size

/-- The origin of a poisoned element names the read entry that delivers it (R31, R246). -/
def renode (o : Origin) (node : Nat) : Origin :=
  BitVec.ofNat 32 (o.toNat % 64 + node % 256 * 64 + o.toNat / 2 ^ 14 * 2 ^ 14)

/-- An element as entry e delivers it, poisoned by a poisoned gate unless it is already. -/
def elemTok (e : Nat) (t : Token) (gate : Option Origin) : Token :=
  match t, t.origin, gate with
  | .pkt ty n _ _, some o, _ => badPkt ty n (renode o (192 + e))
  | .pkt ty n _ _, none, some o => badPkt ty n o
  | t, _, _ => t

/-- Both targets of a read entry accept. -/
def Region.entryAccepts (r : Region) (now : Nat) (x : ReadEntry) : Bool := r.accepts now x.t0 && r.accepts now x.t1

/-- Entry e delivers an element and its last flag. -/
def State.deliverElem (s : State) (c e : Nat) (x : ReadEntry) (el : Elem) (gate : Option Origin) (bound : List Nat) : State :=
  s.modRegion c (fun r =>
    (r.deliverEntry s.now x.t0 (elemTok e el.tok gate) (union el.bound bound)).deliverEntry s.now x.t1 (ctlTok el.last) (union el.bound bound))

/-- The record of an access fault of a port, by entry `node`, with the TPOS registers (R246, R247). -/
def State.portRecord (s : State) (c node port : Nat) (p : Port) (f : StreamFault) : TrapRec :=
  let (i0, i1, i2, i3) := p.desc.counters f.ord
  let d := fields [(if p.write then p.ord else f.ord, 0), (port, 48), (p.write.toNat, 52), (f.index.toNat, 53)]
  { s.faultRecord c node { code := f.code, sub := f.sub, addr := f.addr, info := f.info } 0 with
    d := d, pos := [fields [(i0, 0), (i1, 32)], fields [(i2, 0), (i3, 32)], d, f.addr] }

/-- A read entry of the running block at work: the entry, its port's number and binding (R215, R223). -/
def State.entryAt (s : State) (c e : Nat) : Option (ReadEntry × Nat × Port) :=
  let r := s.region c
  let g := r.reads.get {} e
  match r.img.bind (fun im => im.reads[e]?) with
  | none => none
  | some x =>
    if !s.working c || r.step != 0 || g.done || g.lastAt == some s.now || s.bindInFlight c (x.reg.toNat - 112) then none
    else match (s.taskOf c).ports.find (x.reg.toNat - 112) with
      | some p => if p.write then none else some (x, x.reg.toNat - 112, p)
      | none => none

/-- Notes that entry e has acted in this cycle, and whether it has stopped. -/
def State.entryActed (s : State) (c e : Nat) (done : Bool) : State :=
  s.modRegion c (fun r => { r with reads := r.reads.set e { r.reads.get {} e with lastAt := some s.now, done := done } })

/-- EOS_OVER is set (R215). -/
def State.eosPast (s : State) (c : Nat) : State := (s.modTaskOf c (fun t => { t with eosOver := true })).touch 1 c 5

/-- POP_DELIVERY (R215): entry e of region c delivers one element. -/
def execPopDelivery (c e : Nat) (s : State) : Out :=
  .next (match s.entryAt c e with
    | none => s
    | some (x, n, p) =>
      if x.mode != .pop then s
      else if p.ended then s.entryActed c e true
      else if !(s.region c).entryAccepts s.now x then s
      else match p.head, p.faulted with
        | some el, _ =>
          if s.overflows c p el then s
          else ((s.deliverElem c e x el none []).setPort c n (p.popped el (s.taskOf c).keepsReplay)).entryActed c e false
        | none, some f => s.raise c (s.portRecord c (192 + e) n p f)
        | none, none => s)

/-- PEEK_DELIVERY (R215). -/
def execPeekDelivery (c e : Nat) (s : State) : Out :=
  .next (match s.entryAt c e with
    | none => s
    | some (x, n, p) =>
      if x.mode != .peek then s
      else if p.ended then (s.eosPast c).entryActed c e true
      else if !(s.region c).entryAccepts s.now x then s
      else match p.head, p.faulted with
        | some el, _ =>
          if s.overflows c p el then s
          else ((s.deliverElem c e x el none []).setPort c n
            { p with fetched := p.fetched.map (fun y => if y.from_ = el.from_ then { y with peeked := true } else y) }).entryActed c e true
        | none, some f => s.raise c (s.portRecord c (192 + e) n p f)
        | none, none => s)

/-- The gate token that entry e is to serve (R215): in the cycle after it became available. -/
def State.gateHead (s : State) (c e : Nat) : Option QTok :=
  match ((s.region c).reads.get {} e).gate with
  | [] => none
  | t :: _ => if t.pend.isNone && t.at_ < s.now then some t else none

/-- The gate token of entry e has been served. -/
def State.gateTake (s : State) (c e : Nat) : State :=
  (s.modRegion c (fun r => { r with reads := r.reads.set e { r.reads.get {} e with gate := (r.reads.get {} e).gate.drop 1 } })).entryActed c e false

/-- A gated entry serves its gate token (R215, R246). -/
def State.gateStep (s : State) (c e : Nat) (x : ReadEntry) (n : Nat) (p : Port) (drop : Bool) : State :=
  match s.gateHead c e with
  | none => s
  | some t =>
    match t.tok.asCtl with
    | .mark .eos => (s.gateTake c e).strand c (192 + e) 1
    | .mark _ => s.gateTake c e
    | .pkt .. => s
    | .ctl v psn o =>
      let fails (f : StreamFault) : State := s.raise c (s.portRecord c (192 + e) n p f)
      if p.ended then (s.gateTake c e).eosPast c
      else if v || psn then
        (if !(s.region c).entryAccepts s.now x then s
         else match p.head, p.faulted with
           | some el, _ =>
             if s.overflows c p el then s
             else ((s.deliverElem c e x el (if psn then some o else none) t.bound).setPort c n
               (p.popped el (s.taskOf c).keepsReplay)).gateTake c e
           | none, some f => fails f
           | none, none => s)
      else if !drop then s.gateTake c e
      else match p.skipped (s.taskOf c).keepsReplay, p.faulted with
        | some y, _ => (s.setPort c n y).gateTake c e
        | none, some f => fails f
        | none, none => s

/-- GATE_DROP (R215). -/
def execGateDrop (c e : Nat) (s : State) : Out :=
  .next (match s.entryAt c e with
    | none => s
    | some (x, n, p) => if x.mode == .gateDrop then s.gateStep c e x n p true else s)

/-- GATE_HOLD (R215). -/
def execGateHold (c e : Nat) (s : State) : Out :=
  .next (match s.entryAt c e with
    | none => s
    | some (x, n, p) => if x.mode == .gateHold then s.gateStep c e x n p false else s)

/-- Targets that a read entry is ready to reach in this cycle but for their queues (R24). -/
def State.entryAsks (s : State) (c e : Nat) : List Target :=
  match s.entryAt c e with
  | none => []
  | some (x, _, p) =>
    let ready : Bool := !p.ended && (p.head.isSome || p.faulted.isSome)
    let truth : Bool := match x.mode with
      | .pop | .peek => true
      | .gateDrop | .gateHold => (match s.gateHead c e with
          | some t => (match t.tok.asCtl with
              | .ctl v psn _ => v || psn
              | _ => false)
          | none => false)
      | _ => false
    if ready && truth then [x.t0, x.t1] else []

/-! ## Pushes (R220, R243, R244) -/

/-- A write entry of the running block and the binding it pushes to, with the token at its head. -/
def State.pushAt (s : State) (c e : Nat) : Option (Nat × Port × QTok) :=
  let r := s.region c
  match r.portWrite e, (r.writes.get {} e).toks with
  | some n, t :: _ =>
    (match (s.taskOf c).ports.find n with
     | some p =>
       if s.working c && r.step ≤ 2 && p.write && t.pend.isNone && t.at_ ≤ s.now && p.ready ≤ s.now && !s.bindInFlight c n then (match t.tok with
         | .mark _ => none
         | _ => some (n, p, t))
       else none
     | none => none)
  | _, _ => none

/-- What stops a push: a fault, or a poisoned index at some places (R415). -/
inductive PushStop where
  | fault (f : StreamFault)
  | index (pas : List Nat)
deriving DecidableEq, Repr

/-- The places of positions k to k + n - 1 of a write binding, or what stops them. -/
def State.pushPlaces (s : State) (sp : Space) (d : Desc) (k : Nat) : Nat → Except PushStop (List (List Nat))
  | 0 => .ok []
  | n + 1 =>
    match s.locate sp d k .write with
    | .error (x, idx) => .error (.fault (x.stream k idx))
    | .ok x => if x.bad then .error (.index x.idx) else (s.pushPlaces sp d (k + 1) n).map (x.pas :: ·)

/-- A trap of a push, whose token stays at the head of its entry (R220, R245). -/
def State.pushTrap (s : State) (c e : Nat) (code sub : Nat) (a cc : Word) : State :=
  s.raise c { s.record c (srcNode c (224 + e)) code sub a (if code = 5 then BitVec.ofNat 64 (224 + e) else 0) cc with rewinds := true }

/-- The positions from k on that a push comes to: up to the first whose index is poisoned, at which it stops (R415). -/
def State.pushRun (s : State) (sp : Space) (d : Desc) (k : Nat) : Nat → Nat
  | 0 => 0
  | n + 1 => match s.locate sp d k .write with
    | .ok x => if x.bad then 1 else 1 + s.pushRun sp d (k + 1) n
    | .error _ => 1

/-- Writes values at places as one store, to both copies of a mirrored task (R243, R391). -/
def State.pushStore (s : State) (c : Nat) (both : Option Nat) (places : List (List Nat)) (vals : List Nat) (bad : Bool) : State :=
  let bs := (List.zipWith (fun pas v => (List.range pas.length).zipWith
    (fun k pa => ({ addr := pa, val := BitVec.ofNat 8 (v / 256 ^ k), bad := bad } : PByte)) pas) places vals).flatten
  let more := match both with
    | some c' => (bs.filter (fun b => isSram b.addr && sramClus b.addr == c)).map
        (fun b => { b with addr := sliceAddr c' (sramCell b.addr) (sramOff b.addr) })
    | none => []
  if bs.isEmpty then s else s.storeAll (bs ++ more) false none

/-- Runs of places in one line each, in order: the accesses that a squeeze push takes (R241). -/
def lineRuns : List (List Nat) → Nat
  | [] => 0
  | [_] => 1
  | a :: b :: t => (if a.headD 0 / 128 = b.headD 0 / 128 then 0 else 1) + lineRuns (b :: t)

/-- The accesses of a push, one a cycle (R243). -/
def Desc.pushAccesses (d : Desc) (places : List (List Nat)) : Nat :=
  if d.squeeze then lineRuns places else d.accesses places.length places.flatten

/-- The token of a push leaves the entry, and the port moves on to its next access (R243, R244). -/
def State.pushDone (s : State) (c e n : Nat) (p : Port) (to_ cycles : Nat) (bound : List Nat) : State :=
  (s.modRegion c (fun r => { r with
    writes := r.writes.set e { r.writes.get {} e with toks := (r.writes.get {} e).toks.drop 1 } })).setPort c n
    { p with ord := to_, ended := to_ == p.desc.total, ready := s.now + cycles, bound := union p.bound bound }

/-- What a push of a token writes: first position, values, and the position after it; or the trap it raises (R243, R244). -/
def Port.pushWrites (p : Port) (t : Token) : Except (Nat × Nat × Word × Word) (List Nat) :=
  let d := p.desc
  let es := elemsOf d.ty t
  if !d.squeeze then (if d.total < p.ord + es.length then .error (0xA, 6, 0, 0) else .ok es)
  else match t.origin with
    | some o => .error (5, 0, o.setWidth 64, 6)
    | none =>
      let q := (lanesOf d.ty t).getD 1 0
      if (lanesOf d.ty t).length < 2 || q < p.ord || d.total ≤ q then .error (0xA, 5, 0, 0)
      else .ok (List.replicate (q - p.ord) 0 ++ [es.headD 0])

/-- A push of the token at the head of entry e of region c, performed for both copies if `both` (R220, R391). -/
def State.push (s : State) (c e n : Nat) (p : Port) (t : QTok) (both : Option Nat) : State :=
  match p.pushWrites t.tok with
  | .error (code, sub, a, cc) => s.pushTrap c e code sub (if code = 5 then a else BitVec.ofNat 64 n) cc
  | .ok vals =>
    let sp := s.portSpace c p
    let s0 := s.walkedRun sp p.desc p.ord vals.length .write
    let fails (f : StreamFault) : State := (s0.reached c (.port n)).raise c { s.portRecord c (224 + e) n p f with rewinds := true }
    match s0.runReach c n p p.ord .write (s.pushRun sp p.desc p.ord vals.length) with
    | .error f => fails f
    | .ok (false, s1) => s1
    | .ok (true, _) =>
      match s.pushPlaces sp p.desc p.ord vals.length with
      | .error (.index pas) => (s0.findErrors pas).pushTrap c e 5 0 ((originOf c 255 (if pas.any s.damaged then 1 else 2) s.now).setWidth 64) 8
      | .error (.fault f) => fails f
      | .ok places =>
        let s1 := (s0.reached c (.port n)).pushStore c both places vals t.tok.origin.isSome
        let bound := union t.bound [s1.wseq]
        let n1 := p.desc.pushAccesses places
        let s2 := (s1.noteWrites s (s.taskIdOf c)).pushDone c e n p (p.ord + vals.length) n1 bound
        match both with
        | none => s2
        | some c' => s2.pushDone c' e n ((s2.taskOf c').ports.get p n) (p.ord + vals.length) n1 bound

/-- The next write of a push lies in slices of the port's own cluster. -/
def State.ownPush (s : State) (c : Nat) (p : Port) : Bool :=
  match s.locate (s.portSpace c p) p.desc p.ord .write with
  | .ok x => x.pas.all (fun a => isSram a && sramClus a == c)
  | .error _ => true

/-- What a push of a mirrored task sends to the umpire (R391), once. -/
def State.sendPush (s : State) (c e : Nat) (p : Port) (t : QTok) : State :=
  if s.hub.items.any (fun y => y.task == s.taskIdOf c && y.what == 4 && y.id == e) then s
  else s.pushItem c (224 + e) 4 e (p.desc.runAt p.ord ++ [BitVec.ofNat 64 p.ord, BitVec.ofNat 64 t.tok.header, (payloadOf t.tok).setWidth 64,
    ((payloadOf t.tok) >>> 64).setWidth 64, ((payloadOf t.tok) >>> 128).setWidth 64, ((payloadOf t.tok) >>> 192).setWidth 64,
    ((payloadOf t.tok) >>> 256).setWidth 64])

/-- A push by the copy in region c: to the umpire first where it leaves the cluster of a mirrored task. -/
def State.pushStep (s : State) (c e n : Nat) (p : Port) (t : QTok) : State :=
  if s.mirrored c && !s.ownPush c p then s.sendPush c e p t else s.push c e n p t none

/-- PORT_PUSH (R220, R243): entry e of region c pushes a token to a dense or indexed binding. -/
def execPortPush (c e : Nat) (s : State) : Out :=
  .next (match s.pushAt c e with
    | some (n, p, t) => if p.desc.squeeze then s else s.pushStep c e n p t
    | none => s)

/-- SQUEEZE_PUSH (R244). -/
def execSqueezePush (c e : Nat) (s : State) : Out :=
  .next (match s.pushAt c e with
    | some (n, p, t) => if p.desc.squeeze then s.pushStep c e n p t else s
    | none => s)

end Sys2Proof.Machine
end

