-- ==== Sys2Proof/Machine/Tick.lean ====
section
/-!
DEFINITION. What a cycle brings to a region whatever its nodes do (R24, R28, R29, R229): MODC, the permits of its pools, the
removal of end-of-stream markers, BUDGET.
-/

namespace Sys2Proof.Machine

open Sys2Proof

/-! ## Permits (R24) -/

/-- The targets that a node with this plan must reach. -/
def Plan.targets : Plan → List Target
  | .fire f => f.outs.map (·.1) ++ f.later ++ f.needs ++ f.asks
  | .stall ts => ts
  | .trap ts .. => ts
  | _ => []

/-- The targets of a purge marker that node i is ready to pass on (R231). -/
def State.purgeAsks (s : State) (c i : Nat) : List Target :=
  match s.instrOf c i, (s.region c).img with
  | some x, some im =>
    let heads := s.purgeHeads c i
    if (purgeSets im i x (s.node c i).st).any (fun g => g.all heads.contains) then drivenTargets x else []
  | _, _ => []

/-- The targets that node i asks to reach in this cycle: those of its firing, and of a purge marker. -/
def State.nodeAsks (s : State) (c i : Nat) : List Target :=
  if (s.at c i).live then (s.planAt c i).targets ++ (if (s.purgeHeads c i).isEmpty then [] else s.purgeAsks c i) else []

/-- Every request of the cycle, as queues. -/
def State.requests (s : State) (c : Nat) : List (Nat × Nat) :=
  let r := s.region c
  match r.img with
  | none => []
  | some im =>
    (r.nodes.flatMap (fun x => s.nodeAsks c x.1) ++ (List.range im.reads.length).flatMap (s.entryAsks c)).filterMap slotOf

/-- Grants a permit for a queue if its reserved entry is not free, it holds fewer than 8 pool entries, and its cell's pool has
one left. -/
def Region.grantOne (r : Region) (now : Nat) (x : Nat × Nat) : Region :=
  let q := (r.node x.1).queue x.2
  if q.reservedFree now || q.permit || 8 ≤ q.poolUse || r.poolFree (x.1 / 4) = 0 then r
  else r.setNode x.1 ((r.node x.1).setQueue x.2 { q with permit := true })

/-- Grants the requests of the cycle: by lower consumer slot, then L before R before P. -/
def State.grantPermits (s : State) (c : Nat) : State :=
  let asks := s.requests c
  let order := (s.region c).nodes.flatMap (fun x => [(x.1, 0), (x.1, 1), (x.1, 2)])
  s.modRegion c (fun r => (order.filter asks.contains).foldl (fun r x => r.grantOne s.now x) r)

/-! ## End-of-stream markers (R28) -/

/-- The slots at which a node of this instruction takes end-of-stream markers. -/
def takesEos (x : Instr) (slot : Nat) : Bool :=
  slot == 0 && (match x with
    | .omerge _ | .sink _ => true
    | _ => false)

/-- The end-of-stream marker at the head of one queue, if the node does not take it, is removed and counted. -/
def State.dropEosAt (s : State) (c i slot : Nat) : State :=
  let n := s.node c i
  let kept : Bool := match s.instrOf c i with
    | some x => takesEos x slot
    | none => true
  if !n.retired && !kept && (n.queue slot).marker s.now == some .eos then
    (s.modRegion c (fun r => r.pop s.now i slot)).strand c i 1
  else s

/-- End-of-stream markers that nodes do not take are removed. -/
def State.dropEos (s : State) (c : Nat) : State :=
  (s.region c).nodes.foldl (fun st x => ((st.dropEosAt c x.1 0).dropEosAt c x.1 1).dropEosAt c x.1 2) s

/-! ## The cycle -/

/-- A queue's head has stood for one more cycle (R331). -/
def Queue.age (q : Queue) (now : Nat) : Queue := if (q.front now).isSome then { q with stood := q.stood + 1 } else q

def Node.age (n : Node) (now : Nat) : Node := { n with l := n.l.age now, r := n.r.age now, p := n.p.age now }

/-- MODC advances, pool entries freed in the cycle before return, heads age. -/
def Region.cycle (r : Region) (now : Nat) : Region :=
  { r with modc := (r.modc + 1) % 12, returning := [], nodes := r.nodes.mapV (fun _ n => n.age now) }

/-- BUDGET falls by 1 while CYC ≠ 0; reaching 0 is an expiry (R229). -/
def State.spend (s : State) (c : Nat) : State :=
  let b := (s.taskOf c).budget
  if b = 0 then s
  else
    let s1 := s.modTaskOf c (fun t => { t with budget := b - 1 })
    if b = 1 then s1.modRegion c (fun r => { r with expired := true }) else s1

/-- Gate tokens that have arrived since the injection are discarded (R223). -/
def State.dropLateGates (s : State) (c : Nat) : State := if (s.region c).inject.isSome then s.dropGates c false else s

/-- MODC_ADVANCE (R29): one cycle of region c, after the results of the cycle have come in and before its firings (R24). -/
def execModcAdvance (c : Nat) (s : State) : Out :=
  .next (if !s.working c || (s.cluster c).tick == some s.now then s
    else
      let s1 := (s.modCluster c (fun k => { k with tick := some s.now })).modRegion c (fun r => r.cycle s.now)
      ((((s1.spend c).dropEos c).absorbWrites c).dropLateGates c).grantPermits c)

/-- BUDGET_EXPIRY (R229): at the end of the cycle, unless a write has changed CYC. -/
def execBudgetExpiry (c : Nat) (s : State) : Out :=
  .next (if !(s.region c).expired || !s.working c then s
    else
      let s1 := s.modRegion c (fun r => { r with expired := false })
      if (s.taskOf c).budget = 0 then s1.raise c (s1.record c (srcSeq c) 8 0 0 0 0) else s1)

end Sys2Proof.Machine
end

