-- ==== Sys2Proof/Machine/Probes.lean ====
section
/-!
DEFINITION. Deadlock probes (R331, R332).
-/

namespace Sys2Proof.Machine

open Sys2Proof

/-- A queue of the package: cluster, node, slot. -/
abbrev QueueName := Nat × Nat × Nat

def State.queueAt (s : State) (q : QueueName) : Queue := (s.node q.1 q.2.1).queue q.2.2

/-- A queue holds no token (R331): the place kept for a result that is still to come is none. -/
def State.noToken (s : State) (q : QueueName) : Bool := ((s.queueAt q).front s.now).isNone

/-- The queue at which a probe stands at a node (R331): its lowest empty one, or else its lowest (log entry 44). -/
def State.probeSlot (s : State) (c i : Nat) : Nat :=
  match s.instrOf c i with
  | none => 0
  | some x =>
    match (usedSlots x).find? (fun k => s.noToken (c, i, k)) with
    | some k => k
    | none => (usedSlots x).headD 0

/-- The node of a region that runs the `split` or `omerge` of a group. -/
def State.groupNode (s : State) (c k : Nat) (split : Bool) : Option Nat :=
  ((s.region c).nodes.find? (fun n => match s.instrOf c n.1 with
    | some (.split f) => split && bitsOf f.imm 1 0 == k
    | some (.omerge f) => !split && bitsOf f.imm 1 0 == k
    | _ => false)).map (·.1)

/-- A queue of a `split` or `omerge` of a group in another region. -/
def State.groupQueue (s : State) (c k : Nat) (split : Bool) : Option QueueName :=
  (s.groupNode c k split).map (fun i => (c, i, if split then s.probeSlot c i else 0))

/-- Where a node that waits for another member of its group sends a probe (R331 step 3). -/
def State.probeGroup (s : State) (c i : Nat) : Option QueueName :=
  let waits : Bool := match s.planAt c i with
    | .wait => true
    | _ => false
  let t := s.taskOf c
  match s.instrOf c i with
  | some (.split f) =>
    let k := bitsOf f.imm 1 0
    let g := t.groups.get {} k
    if !waits then none
    else if g.member != 0 then s.groupQueue g.home k true
    else match (s.at c i).heads .always true false true with
      | none => none
      | some h => ((s.at c i).fullInbox ((s.at c i).splitSends f h)).bind (fun pa => s.groupQueue (sramClus pa) k true)
  | some (.omerge f) =>
    let k := bitsOf f.imm 1 0
    let g := t.groups.get {} k
    let j := match (s.node c i).st with
      | .omerge j _ => j
      | _ => 0
    if !waits || g.member != 0 then none
    else match g.streams, (s.at c i).heads f.pm false false false with
      | r :: _, some _ =>
        let m := j % r.n
        let pa := returnIcb c k m
        if m = 0 || r.seen ≤ j || (!r.ended && r.seen ≤ j + 1) || (s.inboxHead (s.icbAt pa (pa + 64))).isSome then none
        else s.groupQueue (g.clusters.getD (m - 1) 0) k false
      | _, _ => none
  | _ => none

/-- A node whose waits end a probe (R331 step 4). -/
def endsProbe (x : Instr) : Bool := x.mFmt.isSome || x.eFmt.isSome

/-- The queue to which a probe at node i of cluster c moves (R331 steps 1 to 4); none where it ends. -/
def State.probeNext (s : State) (c i : Nat) : Option QueueName :=
  match s.instrOf c i, (s.region c).img with
  | some x, some im =>
    (match s.probeGroup c i with
     | some q => some q
     | none =>
       match (usedSlots x).find? (fun k => s.noToken (c, i, k)) with
       | some k => (match producerOf (edgesOf im) (slotTarget i k) with
           | none => none
           | some e =>
             if e.src < 32 then none
             else match s.instrOf c (e.src - 32) with
               | some y => if endsProbe y then none else some (c, e.src - 32, s.probeSlot c (e.src - 32))
               | none => none)
       | none => ((targetsOf x).find? (fun t => !(s.region c).accepts s.now t)).bind (fun t => (slotOf t).map (fun q => (c, q.1, q.2))))
  | _, _ => none

/-- PROBE_SEND (R331): a queue whose head has stood for PROBE_DELAY cycles sends a probe, at most one in as many cycles. -/
def execProbeSend (c i slot : Nat) (s : State) : Out :=
  .next (let q := s.queueAt (c, i, slot)
    let d := s.hub.probeDelay
    let due : Bool := match q.probedAt with
      | none => true
      | some t => decide (t + d ≤ s.now)
    if d = 0 || q.stood < d || !due || (q.front s.now).isNone || !s.running c || (s.node c i).retired then s
    else
      (s.modNode c i (fun n => n.setQueue slot { q with probedAt := some s.now })).modHub (fun h => { h with
        probes := h.probes ++ [{ from_ := (c, i, slot), head := q.pops, here := (c, i, slot), tasks := [s.taskIdOf c]
                                 last := [(s.taskIdOf c, (c, i, slot))] }] }))

/-- The youngest of some tasks. -/
def State.youngestOf (s : State) (l : List Nat) : Nat :=
  l.foldl (fun b t => if (s.task b).older (s.task t) then t else b) (l.headD 0)

/-- A deadlock found by a probe (R332): the youngest task on its path. -/
def State.deadlock (s : State) (p : Probe) : State :=
  let t := s.youngestOf p.tasks
  match (s.task t).place, p.last.find? (fun x => x.1 == t) with
  | .region c, some (_, q) =>
    s.raise c (s.record c (srcSeq c) 7 1 (fields [(q.1, 0), (q.2.1, 6), (q.2.2, 14)]) (BitVec.ofNat 64 p.tasks.length) 0)
  | _, _ => s

/-- The probe after it has come to queue q of task t. -/
def Probe.moved (p : Probe) (q : QueueName) (t : Nat) (holds : Bool) : Probe :=
  { p with
    here := q
    passed := p.passed + 1
    tasks := NSet.insert p.tasks t
    last := if holds || !(p.last.any (fun x => x.1 == t)) then (t, q) :: p.last.filter (fun x => x.1 != t) else p.last }

/-- A probe is discarded: its head has changed, it has passed 1,024 queues, or a region on its path has frozen (R332). -/
def State.probeStale (s : State) (p : Probe) : Bool :=
  let q := s.queueAt p.from_
  q.pops != p.head || q.toks.isEmpty || 1024 ≤ p.passed ||
    p.tasks.any (fun t => match (s.task t).place with
      | .region c => (s.region c).halted
      | _ => true)

/-- Puts a probe back in its place, or takes it out. -/
def State.setProbe (s : State) (k : Nat) (p : Option Probe) : State :=
  s.modHub (fun h => { h with probes := match p with
    | some x => h.probes.set k x
    | none => h.probes.eraseIdx k })

/-- PROBE_HOP (R331, R332): the k-th probe moves one queue. -/
def execProbeHop (k : Nat) (s : State) : Out :=
  .next (match s.hub.probes[k]? with
    | none => s
    | some p =>
      if s.probeStale p then s.setProbe k none
      else match s.probeNext p.here.1 p.here.2.1 with
        | none => s.setProbe k none
        | some q =>
          if q = p.from_ then (s.setProbe k none).deadlock p
          else s.setProbe k (some (p.moved q (s.taskIdOf q.1) (!s.noToken q))))

end Sys2Proof.Machine
end

