-- ==== Sys2Proof/Machine/SchedEvents.lean ====
section
/-!
DEFINITION. The events of the scheduler (R308 to R327, R333, R334, R390): loading of jobs, dispatch, promotion, pre-emption.
-/

namespace Sys2Proof.Machine

open Sys2Proof

/-! ## Job cards (R308 to R310) -/

/-- A task entry of a card as its bytes give it (R309). -/
structure Entry where
  entry : Word
  prio : Nat
  vreg : Nat
  affin : Nat
  super : Bool
  gang : Nat
  lim : Nat
  nfp : Nat
  budget : Word
  seed : Word
  regs : List (Nat × Word)
  feet : List Footprint
deriving DecidableEq, Repr

/-- A task entry from its 256 bytes. -/
def Entry.ofBytes (bs : List Byte) : Entry :=
  { entry := wordAt bs 0, prio := fieldAt bs 8 1 % 4, vreg := fieldAt bs 9 1, affin := fieldAt bs 10 1 % 16
    super := (fieldAt bs 11 1).testBit 0, gang := fieldAt bs 12 2, lim := fieldAt bs 14 1, nfp := fieldAt bs 15 1
    budget := wordAt bs 16, seed := wordAt bs 24
    regs := [(1, wordAt bs 32), (3, wordAt bs 40)] ++ (List.range 8).map (fun k => (4 + k, wordAt bs (48 + 8 * k)))
    feet := (List.range (Nat.min 8 (fieldAt bs 15 1))).map (fun f =>
      { base := fieldAt bs (128 + 16 * f) 8, len := fieldAt bs (136 + 16 * f) 6, mode := fieldAt bs (142 + 16 * f) 1 % 4 }) }

/-- A card's address space; the hub reads it unrestricted (R342, R346). -/
def Card.space (k : Card) : Space := { task := 0, clus := 64, root := k.root, asid := k.asid, priv := true }

/-- Bytes of a card, unless they fault or are poisoned. -/
def State.cardBytes (s : State) (k : Card) (o n : Nat) : Option (List Byte) :=
  match s.readArea k.space (k.addr + BitVec.ofNat 64 o) n with
  | .ok (bs, false) => some bs
  | _ => none

/-- The errors that the read of a card finds leave their sectors marked (R382). -/
def State.cardFound (s : State) (k : Card) : State :=
  match s.cardBytes k 0 64 with
  | none => s.foundAt k.space k.addr 64
  | some h => (s.foundAt k.space k.addr 64).foundAt k.space (k.addr + 64) (256 * Nat.min 64 (fieldAt h 0 2))

/-- A card that has been read: the bytes of the header and of the entries, or the REASON for which it could not be (R310). -/
def State.readCard (s : State) (k : Card) : Except (Nat × List Byte) (List Byte × List Byte) :=
  match s.cardBytes k 0 64 with
  | none => .error (8, [])
  | some h =>
    let n := fieldAt h 0 2
    if n = 0 || 64 < n then .error (1, h)
    else match s.cardBytes k 64 (256 * n) with
      | none => .error (8, h)
      | some bs => .ok (h, bs)

/-- The entries of a card. -/
def entriesOf (bs : List Byte) : List Entry := (List.range (bs.length / 256)).map (fun t => Entry.ofBytes (Image.slice bs (256 * t) 256))

/-- Two ranges share an address (R312). -/
def Footprint.meets (a b : Footprint) : Bool :=
  0 < a.len && 0 < b.len && a.base < b.base + b.len && b.base < a.base + a.len

/-- A footprint that is written. -/
def Footprint.writes (a : Footprint) : Bool := a.mode == 2 || a.mode == 3

/-- Footprints by which a later task depends on an earlier one (R312). -/
def dependsOn (a b : List Footprint) : Bool := a.any (fun x => b.any (fun y => x.meets y && (x.writes || y.writes)))

/-- ELIG (R387). -/
def eligible (l : List Footprint) : Bool :=
  !l.isEmpty && l.all (fun x => x.mode != 3) &&
    l.all (fun x => l.all (fun y => !(x.mode == 1 && y.mode == 2 && x.meets y)))

/-- The first check that a readable card fails, with the dies its entries would be bound to (R310). -/
def cardReason (h : List Byte) (es : List Entry) (dies : List Nat) (kickedUser mirror : Bool) : Option Nat :=
  let a (o : Nat) : Nat := fieldAt h o 8
  let super := (fieldAt h 3 1).testBit 0
  let members (g d : Nat) : Nat :=
    ((List.zip es dies).filter (fun x => x.1.gang == g && x.2 == d)).length * (if mirror then 2 else 1)
  if a 8 % 0x40000 != 0 || a 16 % 0x100000 != 0 || a 24 % 16 != 0 || a 32 % 512 != 0 || a 8 == 0 || a 16 == 0 || a 32 == 0 then some 5
  else if (!super && es.any (·.super)) || (super && kickedUser) then some 7
  else if es.any (fun e => e.entry.toNat % 32 != 0) then some 3
  else if es.any (fun e => 64 ≤ e.vreg) || !(es.map (·.vreg)).Nodup then some 2
  else if es.any (fun e => 48 < e.lim || 8 < e.nfp || e.feet.any (fun f => f.mode == 0)) then some 4
  else if es.any (fun e => e.gang != 0 && (List.range 4).any (fun d => 16 < members e.gang d)) then some 6
  else none

/-- A bad card (R310, R317): its completion record, its vector, and the signals of the `kick` that submitted it. -/
def State.badCard (s : State) (k : Card) (reason : Nat) (h : List Byte) : State :=
  let done := wordAt h 24
  let s1 := if done = 0 then s
    else s.hubWrite k.space done (recordBytes false true reason 0 0 s.now) (some { by_ := 64, scope := 3, bound := k.bound }) 0
  k.onend.foldl (fun st e => st.onEndSignal e k.bound) (s1.msiX (fieldAt h 4 2))

/-! ## Loading (R314) -/

/-- Semaphore `n` of cluster c belongs to a job's window. -/
def State.semTaken (s : State) (c n : Nat) : Bool :=
  s.hub.jobs.any (fun j => j.2.sclus == c && j.2.sbase ≤ n && n < j.2.sbase + j.2.semn)

/-- The lowest run of `n` free semaphores in a cluster. -/
def State.semRun (s : State) (c n : Nat) : Option Nat :=
  (List.range (257 - n)).find? (fun b => (List.range n).all (fun k => !s.semTaken c (b + k)))

/-- The window of a new job (R321): on the preferred die first, then the lowest cluster. -/
def State.window (s : State) (die n : Nat) : Option (Nat × Nat) :=
  (dieClusters die ++ List.range 64).findSome? (fun c => (s.semRun c n).map (fun b => (c, b)))

/-- The key of the twin of a task (R390). -/
def twinKey (id : Nat) : Nat := id + 2 ^ 48

/-- The task of entry i of a card (R306, R309, R314). -/
def cardTask (j : Job) (now i : Nat) (e : Entry) (die : Nat) (deps : List Nat) (bound : List Nat) : Task :=
  let id := i + j.no * 2 ^ 32
  ({ id := id, budget := e.budget, seed := e.seed, regs := e.regs, age := now, srcn := 0xC000 + i, prio := e.prio, eprio := e.prio
     vreg := some e.vreg, gang := e.gang, lim := e.lim, entry := e.entry, die := die, affin := e.affin, feet := e.feet
     deps := deps, supg := e.super, slot := e.vreg, rpElig := eligible e.feet, bound := bound
     twin := if j.mirror then some (twinKey id) else none } : Task).ofJob j

/-- Creates the tasks of a card, each with its twin in a mirrored job. -/
def State.createAll (s : State) (j : Job) (es : List (Nat × Entry × Nat)) (bound : List Nat) : State :=
  es.foldl (fun st x =>
    let deps := (es.filter (fun y => y.1 < x.1 && dependsOn y.2.1.feet x.2.1.feet)).map (fun y => y.1 + j.no * 2 ^ 32)
    let t := cardTask j s.now x.1 x.2.1 x.2.2 deps bound
    let st1 := st.addTask t.id t
    if j.mirror then st1.setTask (twinKey t.id) { t with twin := some t.id, isTwin := true, slot := 192 + x.2.1.vreg } else st1) s

/-- The relocation table of a job as it is written at its load (R319). -/
def Job.tableBytes (j : Job) : List Byte := ((List.range 64).map (fun v => leBytes 8 (j.vregs.get {} v).word)).flatten

/-- A job of a good card, its window allocated (R314 steps 2 to 7). -/
def State.startJob (s : State) (k : Card) (h : List Byte) (es : List Entry) (dies : List Nat) (clus base : Nat) : State :=
  let no := if s.hub.lastJob = 0xFFFF then 1 else s.hub.lastJob + 1
  let semn := fieldAt h 2 1
  let j : Job := {
    no := no, semn := semn, sbase := base, sclus := clus, csabase := wordAt h 8, bsabase := wordAt h 16, done := wordAt h 24
    reloc := wordAt h 32, vec := fieldAt h 4 2, root := k.root, asid := k.asid, super := (fieldAt h 3 1).testBit 0
    vregs := List.zipWith (fun (e : Entry) d => (e.vreg, ({ die := d, valid := true } : VReg))) es dies
    onend := k.onend, mirror := s.hub.mirEn, bound := k.bound }
  let s1 := s.modHub (fun x => { x with lastJob := no, jobs := x.jobs.set no j })
  let s2 := { s1 with sems := (List.range semn).foldl (fun m n => m.set (256 * clus + base + n) {}) s1.sems }
  let s3 := s2.hubWrite j.space j.reloc j.tableBytes none no
  let all := (List.range es.length).zip (es.zip dies)
  let s4 := s3.createAll j all k.bound
  all.foldl (fun st x => let t := x.1 + no * 2 ^ 32
                         if (st.task t).deps.isEmpty then st.toPool t else st) s4

/-- The card at the head of the job queue, from the one read of it (R308). -/
def State.headCard (s : State) (k : Card) : Except (Nat × List Byte) (List Byte × List Byte) :=
  match s.hub.card with
  | some x => .ok x
  | none => s.readCard k

/-- The hub reaches the card at the head of its queue and what a bad one is answered by (R399). -/
def State.cardOpen (s : State) (k : Card) : Bool :=
  s.hubReady k.space k.addr 64 .read && (match s.cardBytes k 0 64 with
    | none => true
    | some h => s.hubReady k.space (k.addr + 64) (256 * Nat.min 64 (fieldAt h 0 2)) .read &&
        (wordAt h 24 == 0 || s.hubReady k.space (wordAt h 24) 16 .write)) &&
    k.onend.all (fun e => s.clusOpen 64 (e.sem / 256))

/-- JOB_LOAD (R314): the card at the head of the job queue is read and checked; a good one waits there for its semaphore window. -/
def execJobLoad (s : State) : Out :=
  .next (match s.hub.queue with
    | [] => s
    | k :: rest =>
      if s.hub.card.isNone && !s.cardOpen k then s
      else
      let s0 := if s.hub.card.isSome then s else s.cardFound k
      let s1 := s0.modHub (fun h => { h with queue := rest, card := none })
      match s.headCard k with
      | .error (r, h) => s1.badCard k r h
      | .ok (h, bs) =>
        let es := entriesOf bs
        let dies := es.map (fun e => s.chooseDie e.affin)
        match (if s.hub.card.isSome then none else cardReason h es dies (k.kicked && !k.priv) s.hub.mirEn) with
        | some r => s1.badCard k r h
        | none =>
          let die := ((List.zip es dies).find? (fun x => x.1.vreg == 0)).map (·.2)
          match s.window (die.getD 0) (fieldAt h 2 1) with
          | none => s0.modHub (fun x => { x with card := some (h, bs) })
          | some (c, b) => s1.startJob k h es dies c b)

/-! ## Gangs (R313, R330, R390) -/

/-- The home task of a replica. -/
def State.homeTask (s : State) (t : Nat) : Nat :=
  if (s.task t).repl then ((s.tasks.find? (fun x => x.2.groups.any (fun g => g.2.member == 0 && g.2.tasks.contains t))).map (·.1)).getD t
  else t

/-- The tasks that are scheduled as one unit with a task, itself among them: its gang, the twins, and the replicas. -/
def State.unit (s : State) (t : Nat) : List Nat :=
  let h := s.homeTask t
  let home := if (s.task h).isTwin then ((s.task h).twin.getD h) else h
  let x := s.task home
  let gang := if x.gang = 0 then [home]
    else (s.tasks.filter (fun y => y.2.job == x.job && y.2.gang == x.gang && !y.2.isTwin && y.2.place != .ended)).map (·.1)
  (gang ++ gang.filterMap (fun k => (s.task k).twin) ++
    gang.flatMap (fun k => (s.task k).groups.flatMap (fun g => if g.2.member = 0 then g.2.tasks else []))).filter
      (fun k => (s.task k).place != .ended)

/-- A member of a unit that is ready to be dispatched; a twin goes with its home task. -/
def State.ready (s : State) (t : Nat) : Bool :=
  let x := s.task t
  x.queued || (x.isTwin && (s.task (x.twin.getD t)).queued && x.place == .waiting)

/-- The clusters that a member may take: a replica goes where its inbox lies (R329). -/
def State.spotsFor (s : State) (t : Nat) : List Nat :=
  let x := s.task t
  if x.repl then (x.groups.headD (0, {})).2.clusters.drop ((x.groups.headD (0, {})).2.member - 1) |>.take 1
  else dieClusters x.die

/-- A free cluster for each of some members, the first of them on `c`; none where one has none. -/
def State.spread (s : State) (used : List Nat) : List Nat → Option (List (Nat × Nat))
  | [] => some []
  | t :: rest =>
    match (s.spotsFor t).find? (fun x => s.idle x && !used.contains x) with
    | none => none
    | some x => (s.spread (x :: used) rest).map ((t, x) :: ·)

/-- Where the members of a unit go if task t is dispatched to cluster c now; none where the unit must wait: every member of a gang
must be ready (R313), while a replica and its home need not wait for one another (R330). -/
def State.unitSpots (s : State) (t c : Nat) : Option (List (Nat × Nat)) :=
  let others := (s.unit t).filter (fun k => k != t && !(((s.task t).repl || (s.task k).repl) && (match (s.task k).place with
    | .region _ => true
    | _ => false)))
  if (s.spotsFor t).contains c && others.all s.ready then (s.spread [c] others).map ((t, c) :: ·) else none

/-! ## Dispatch (R322) -/

/-- The task of highest EPRIO in a list, the first of them on a tie by `first`. -/
def State.highest (s : State) (first : Nat → Nat → Bool) (l : List Nat) : Option Nat :=
  l.foldl (fun b t => match b with
    | none => some t
    | some u =>
      if (s.task u).eprio < (s.task t).eprio || ((s.task u).eprio == (s.task t).eprio && first t u) then some t else some u) none

/-- What the sequencer of cluster c chooses, with the cycles the choice takes (R322). -/
def State.choose (s : State) (c : Nat) : Option (Nat × Nat) :=
  match s.highest (fun _ _ => false) (s.cluster c).bench with
  | some t => some (t, 16)
  | none =>
    match (ringOrder c).find? (fun x => !(s.cluster x).bench.isEmpty) with
    | some x => (s.highest (fun _ _ => true) (s.cluster x).bench).map (fun t => (t, 24))
    | none =>
      (s.highest (fun t u => (s.task t).older (s.task u))
        ((s.pool (c / 16)).filter (fun t => (s.unitSpots t c).isSome))).map (fun t => (t, 16))

/-- Dispatches a task and the members of its unit. -/
def State.dispatchUnit (s : State) (t c delay : Nat) : State :=
  match s.unitSpots t c with
  | none => s
  | some l => l.foldl (fun st x => st.install x.1 x.2 delay) s

/-- DISPATCH (R322): the region of cluster c, if it is free, takes a task. -/
def execDispatch (c : Nat) (s : State) : Out :=
  .next (let k := s.cluster c
    if k.task.isSome || s.now < k.freeAt then s
    else match k.favour with
      | some w =>
        if (s.task w).handler.isSome && (s.task w).place == .waiting then s
        else
        let s1 := s.modCluster c (fun k => { k with favour := none })
        if (s.task w).handler.isNone && (s.task w).queued then s1.dispatchUnit w c 0 else s1
      | none => (match s.choose c with
          | some (t, n) => s.dispatchUnit t c n
          | none => s))

/-! ## Promotion and pre-emption (R323, R325, R326) -/

/-- EPRIO_PROMOTION (R323): another STARVE cycles of waiting have passed. -/
def execEprioPromotion (t : Nat) (s : State) : Out :=
  .next (let x := s.task t
    if x.queued && s.hub.starve != 0 && x.eprio < 3 && x.wait + s.hub.starve * (x.eprio - x.prio + 1) ≤ s.now then
      s.modTask t (fun y => { y with eprio := y.eprio + 1 })
    else s)

/-- The task that holds the region of a cluster and may be pre-empted: not frozen, and no handler (R325, R326, R376). -/
def State.victimAt (s : State) (c : Nat) : Option Nat :=
  match (s.cluster c).task with
  | none => none
  | some u => if (s.region c).frozen.isSome || (s.task u).handler.isSome || (s.task u).ending then none else some u

/-- The clusters at which a waiting task may gain a region by a request, with their tasks (R325): those of its die, and for a replica the
one that holds its inbox (log entry 26). -/
def State.victimsOf (s : State) (w : Nat) : List (Nat × Nat) := (s.spotsFor w).filterMap (fun c => (s.victimAt c).map (fun u => (c, u)))

/-- Clusters of a die whose tasks may be pre-empted, with the tasks. -/
def State.victims (s : State) (d : Nat) : List (Nat × Nat) := (dieClusters d).filterMap (fun c => (s.victimAt c).map (fun u => (c, u)))

/-- The victim of lowest EPRIO, the youngest among those. -/
def State.lowest (s : State) (l : List (Nat × Nat)) : Option (Nat × Nat) :=
  l.foldl (fun b x => match b with
    | none => some x
    | some y =>
      let t := s.task x.2
      let u := s.task y.2
      if t.eprio < u.eprio || (t.eprio == u.eprio && u.older t) then some x else some y) none

/-- The youngest of some victims. -/
def State.youngest (s : State) (l : List (Nat × Nat)) : Option (Nat × Nat) :=
  l.foldl (fun b x => match b with
    | none => some x
    | some y => if (s.task y.2).older (s.task x.2) then some x else some y) none

/-- A request in favour of a task is in flight (R325). -/
def State.asked (s : State) (w : Nat) : Bool :=
  s.clusters.any (fun k => k.2.favour == some w || k.2.asks.any (fun a => a.task == w && !a.member))

/-- The cluster whose task w pre-empts by its priority (R325). -/
def State.prioVictim (s : State) (w : Nat) : Option (Nat × Nat) :=
  let x := s.task w
  match s.lowest (s.victimsOf w) with
  | some (c, u) => if (s.task u).eprio < x.eprio && !((s.task u).job == x.job && (s.task u).older x) then some (c, u) else none
  | none => none

/-- The cluster whose task w pre-empts by its age (R325). -/
def State.ageVictim (s : State) (w : Nat) : Option (Nat × Nat) :=
  let x := s.task w
  if s.hub.starve = 0 || s.now < x.wait + s.hub.starve then none
  else match s.youngest ((s.victimsOf w).filter (fun y => (s.task y.2).job == x.job)) with
    | some (c, u) => if x.older (s.task u) then some (c, u) else none
    | none => none

/-- The cluster whose task is pre-empted in favour of w (R325), for a waiting ready task of the die. -/
def State.victimFor (s : State) (w : Nat) : Option (Nat × Nat) := (s.prioVictim w).or (s.ageVictim w)

/-- Asks for the region of cluster c in favour of w; every member of the victim's unit is asked as well (R313). -/
def State.ask (s : State) (c w : Nat) (byAge : Bool) : State :=
  let u := s.taskIdOf c
  let put (st : State) (c' : Nat) (a : Ask) : State := st.modCluster c' (fun k => { k with asks := k.asks ++ [a] })
  (s.unit u).foldl (fun st k => match (st.task k).place with
    | .region c' => if c' = c then st else put st c' { task := w, at_ := s.now, member := true }
    | _ => st) (put s c { task := w, at_ := s.now, byAge := byAge })

/-- PREEMPTION_REQUEST (R325): cluster c is asked to give up its task for the waiting task t. The request is one by age where the age
case names that cluster, whether or not the priority case does (R410). -/
def execPreemptionRequest (c t : Nat) (s : State) : Out :=
  .next (if !(s.task t).queued || (s.spotsFor t).any s.idle || s.asked t then s
    else match s.victimFor t with
      | some (c', _) => if c' = c then s.ask c t ((s.ageVictim t).any (fun x => x.1 == c)) else s
      | none => s)

/-- A dot block holds nothing but what a save can keep: armed loads, and drains whose rows are done (R326, R333). -/
def State.dotsQuiet (s : State) (c : Nat) : Bool :=
  (s.taskOf c).dots.all (fun d => d.2.ops.all (fun o => o.kind == 3 || (o.kind == 2 && o.done ≤ s.now)))

/-- A stopped region has nothing under way that a snapshot could not hold (R33, R183, R326). -/
def State.still (s : State) (c : Nat) : Bool :=
  s.enginesQuiet c (s.taskIdOf c) && (s.region c).accesses.isEmpty && s.dotsQuiet c

/-- A region that is to be saved in mid-block stops once its commands and windows allow it (R326); its accesses then come to
their end. -/
def State.halt (s : State) (c : Nat) : State :=
  if s.enginesQuiet c (s.taskIdOf c) then s.modRegion c (fun r => { r with stoppedBy := some s.now }) else s

/-- The record that a pre-emption leaves in its image (R381). -/
def State.preemptRecord (s : State) (c : Nat) : TrapRec :=
  { s.record c (srcSeq c) 0x13 0 0 0 0 with task := (s.taskOf c).id }

/-- PREEMPTION_SNAPSHOT (R326): PWAIT cycles after the request, if no exit had been selected by then, and no other save has
stopped the region. -/
def execPreemptionSnapshot (c : Nat) (s : State) : Out :=
  .next (let r := s.region c
    match s.wanted c with
    | none => s
    | some (_, at_) =>
      if s.now < at_ + s.hub.pwait || r.afterExit at_ || r.restoring.isSome || r.frozen.isSome || s.otherSave c then s
      else if r.stoppedBy.isNone then (s.cancelWaiting c).halt c
      else if !s.still c then s
      else s.depart c 1 (some (s.preemptRecord c)) (s.context c true 0) (s.csaOf (s.taskIdOf c)) (preempted (s.taskIdOf c) c (s.gainer c)))

end Sys2Proof.Machine
end

