-- ==== Sys2Proof/Machine/Recovery.lean ====
section
/-!
DEFINITION. Forced recovery points (R386), soft errors (R389), and the umpire of mirrored tasks (R391, R392).
-/

namespace Sys2Proof.Machine

open Sys2Proof

/-! ## Forced recovery points (R386) -/

/-- A read entry of the running block is to deliver an element that its replay buffer has no room for. -/
def State.bufferFull (s : State) (c : Nat) : Bool :=
  match (s.region c).img with
  | none => false
  | some im => (List.range im.reads.length).any (fun e => !(s.entryAsks c e).isEmpty && (match s.entryAt c e with
      | some (_, _, p) => (match p.head with
          | some el => s.overflows c p el
          | none => false)
      | none => false))

/-- A recovery point is forced in region c (R386): a port of either copy of its task withholds an element. -/
def State.forcesPoint (s : State) (c : Nat) : Bool :=
  s.takesPoints c && (s.bufferFull c || (match s.twinCluster c with
    | some c' => s.bufferFull c'
    | none => false))

/-- A region that was stopped for a save goes on in the next cycle (R34). -/
def State.goOn (s : State) (c : Nat) : State :=
  match (s.region c).stoppedBy with
  | none => s
  | some t => (s.modRegion c (fun r => { r.shift (s.now - t) with stoppedBy := none, forced := false })).modCluster c
      (fun k => { k with wake := s.now + 1 })

/-- FORCED_RECOVERY_POINT (R386): the region stops, and once it is still its snapshot becomes the recovery point. -/
def execForcedRecoveryPoint (c : Nat) (s : State) : Out :=
  .next (let r := s.region c
    if r.forced && r.stoppedBy.isSome then
      (if !s.still c then s
       else match s.takePoint c (s.context c true 0) true with
         | .fault s1 f => (s1.goOn c).raise c (s1.pointRecord c f)
         | .wait s1 => s1
         | .poison s1 => s1
         | .done s1 _ => s1.goOn c)
    else if s.running c && s.forcesPoint c then
      let s1 := s.halt c
      (if (s1.region c).stoppedBy.isSome then s1.modRegion c (fun r => { r with forced := true }) else s1)
    else s)

/-! ## Soft errors (R389) -/

/-- A token poisoned by a soft error in node i (R31). -/
def Token.damage (c i now : Nat) (t : Token) : Token :=
  match t.origin, t with
  | some _, _ => t
  | none, .pkt ty n _ _ => badPkt ty n (originOf c i 6 now)
  | none, .ctl v _ _ => badCtl v (originOf c i 6 now)
  | none, .mark _ => t

/-- The node or read entry whose outbound link leads to a target (R31); 255 where there is none. -/
def State.senderTo (s : State) (c : Nat) (t : Target) : Nat :=
  match (s.region c).img.bind (fun im => producerOf (edgesOf im) t) with
  | some e => if e.src < 32 then 192 + e.src else e.src - 32
  | none => 255

/-- Token k of those at a target is damaged (R31): NODE is `home`, whose queue holds it, or its producer while it is on the link to
it, and where a write entry holds it, which has no NODE of its own. -/
def State.damageToks (s : State) (c : Nat) (tgt : Target) (home : Option Nat) (k : Nat) (l : List QTok) : List QTok :=
  l.modify k (fun t =>
    let node := match home with
      | some i => if t.at_ ≤ s.now then i else s.senderTo c tgt
      | none => s.senderTo c tgt
    { t with tok := t.tok.damage c node s.now })

/-- Token `k` of an operand queue is damaged, in an entry or on the link to it. -/
def State.damageQueue (s : State) (c i slot k : Nat) : State :=
  s.modNode c i (fun n =>
    let q := n.queue slot
    n.setQueue slot { q with toks := s.damageToks c (slotTarget i slot) (some i) k q.toks })

/-- Token `k` at the gate of read entry e is damaged, or on the link to it. -/
def State.damageGate (s : State) (c e k : Nat) : State :=
  let t := Target.gate (BitVec.ofNat 5 e)
  s.modRegion c (fun r =>
    let g := r.reads.get {} e
    { r with reads := r.reads.set e { g with gate := s.damageToks c t (some (192 + e)) k g.gate } })

/-- Token `k` on its way to write entry e is damaged, or the one that the entry keeps where no such token is. -/
def State.damageWrite (s : State) (c e k : Nat) : State :=
  let t := Target.write (BitVec.ofNat 5 e)
  s.modRegion c (fun r =>
    let w := r.writes.get {} e
    { r with writes := r.writes.set e (if k < w.toks.length then { w with toks := s.damageToks c t none k w.toks }
        else { w with last := w.last.map (fun x => x.damage c (s.senderTo c t) s.now) }) })

/-- Marks an element of an accumulator, or of the active plane of a cell (R389). -/
def State.damageDot (s : State) (c cell : Nat) (f : Dot → Dot) : State := s.modTaskOf c (fun t => t.setDot cell (f (t.dot cell)))

/-- An uncorrectable error in configuration or control state (R389): an automatic rollback, T_SOFT, or T_MEMERR. -/
def State.controlError (s : State) (c unit cell slot : Nat) : State :=
  let t := s.taskOf c
  let code := fields [(unit, 0), (cell, 8), (slot, 16)]
  if !t.mayRoll then s.raise c (s.record c (srcSeq c) 6 1 code 0 0)
  else if t.rolled then s.raise c (s.record c (srcSeq c) 0x10 1 code 0 0)
  else
    let s1 := s.rollback c
    (match s.twinCluster c with
     | some c' => s1.modTaskOf c' (fun x => { x with rolled := true })
     | none => s1).modTaskOf c (fun x => { x with rolled := true })

/-- SOFT_ERROR (R389): an uncorrectable error strikes. Units 0 to 6 are those of R389. The model numbers what only poisons: 16
token slot div 16 of queue slot mod 4 of node 4 x cell + slot div 4 mod 4; 17 element slot div 4 of accumulator slot mod 4; 18 element
`slot` of the active plane; 19 the memory sector `slot`; 20 token slot div 32 at the gate of read entry slot mod 32; 21 token
slot div 32 of write entry slot mod 32; 22 element `slot` of the shadow plane (log entry 45). -/
def execSoftError (c unit cell slot : Nat) (s : State) : Out :=
  .next (if unit = 19 then { s with ecc := NSet.insert s.ecc slot }
    else if (s.cluster c).task.isNone then s
    else if unit ≤ 6 then s.controlError c unit cell slot
    else if unit = 16 then s.damageQueue c (4 * cell + slot / 4 % 4) (slot % 4) (slot / 16)
    else if unit = 17 then s.damageDot c cell (fun d =>
      d.setAcc (slot % 4) { d.acc (slot % 4) with poison := NSet.insert (d.acc (slot % 4)).poison (slot / 4) })
    else if unit = 18 then s.damageDot c cell (fun d => { d with active := d.active.map (fun p => { p with poison := NSet.insert p.poison slot }) })
    else if unit = 20 then s.damageGate c (slot % 32) (slot / 32)
    else if unit = 21 then s.damageWrite c (slot % 32) (slot / 32)
    else if unit = 22 then s.damageDot c cell (fun d => { d with shadow := { d.shadow with poison := NSet.insert d.shadow.poison slot } })
    else s)

/-! ## The umpire (R391, R392) -/

/-- The twin's item that matches one of the home copy (R391). -/
def State.matchOf (s : State) (c : Nat) (x : Item) : Option Item :=
  match (s.taskOf c).twin with
  | none => none
  | some t => s.hub.items.find? (fun y => y.task == t && y.what == x.what && y.node == x.node && y.ord == x.ord)

/-- Takes two items out. -/
def State.dropItems (s : State) (x y : Item) : State :=
  s.modHub (fun h => { h with items := h.items.filter (fun z => z != x && z != y) })

/-- The access of region c with a number. -/
def State.accessOf (s : State) (c id : Nat) : Option Access := (s.region c).accesses.find? (fun a => a.id == id)

/-- A matched access (R391): performed once, its results delivered to both copies. -/
def State.matchAccess (s : State) (c c' : Nat) (x y : Item) : State :=
  match s.accessOf c x.id, s.accessOf c' y.id with
  | some a, some b =>
    (match s.perform c a s.lag with
     | .wait s1 => s1
     | .park => s
     | .fault s1 f => ((s1.dropItems x y).rewind c' b).accessFault c a f
     | .done s1 t0 t1 bound =>
       (((s1.noteWrites s (s.taskIdOf c)).dropItems x y).finishAccess c a t0 t1 bound).finishAccess c' b t0 t1 bound)
  | _, _ => s.dropItems x y

/-- A matched command (R391): the home copy's goes on for both. -/
def State.matchCommand (s : State) (c : Nat) (x y : Item) : State :=
  match (s.cluster c).eq.find? (fun q => q.id == x.id) with
  | some q => (s.dropItems x y).putCmd c { q with step := firstStep q.ins, mate := some y.id, item := x.ord }
  | none => s.dropItems x y

/-- A matched exit (R391). -/
def Item.sel (x : Item) : Sel :=
  { kind := ExitKind.ofCode (x.body.getD 0 0).toNat, addr := x.body.getD 1 0, exn := (x.body.getD 2 0).toNat, node := x.node
    cycle := x.id }

/-- What a fetch that took the home copy's port from q to q1 makes of the twin's: what was read, or the fault, behind what the twin has
still to deliver. -/
def State.twinFetch (s : State) (c : Nat) (q q1 y : Port) : Port :=
  if q1 = { q with fault := q1.fault } then { y with fault := q1.fault }
  else { s.fetchPort c { y with bound := q.bound } with bound := y.bound }

/-- A matched fetch of a port (R391): performed once, for both copies, when its places are at hand. -/
def State.matchFetch (s : State) (c c' p : Nat) (x y : Item) : State :=
  match (s.taskOf c).ports.find p with
  | none => s.dropItems x y
  | some q =>
    let s1 := s.fetched c p q
    let q1 := (s1.taskOf c).ports.get q p
    if q1 = q then s1
    else (s1.dropItems x y).modTaskOf c' (fun t => { t with ports := t.ports.set p (s.twinFetch c q q1 (t.ports.get {} p)) })

/-- What a pair of items that agree comes to. -/
def State.matched (s : State) (c c' : Nat) (x y : Item) : State :=
  match x.what with
  | 0 => s.matchAccess c c' x y
  | 1 => s.matchCommand c x y
  | 2 => ((s.dropItems x y).landAll c).landAll c'
  | 3 => ((s.dropItems x y).select c x.sel).select c' y.sel
  | 4 => (match s.pushAt c x.id with
      | some (n, p, t) =>
        let s1 := s.push c x.id n p t (some c')
        if s1.wseq = s.wseq && (s1.region c).frozen.isNone && (s1.taskOf c).ports.find n == (s.taskOf c).ports.find n then s1
        else s1.dropItems x y
      | none => s.dropItems x y)
  | _ => s.matchFetch c c' x.id x y

/-- UMPIRE_COMPARE (R391): the k-th item, of the home copy in region c, 12 cycles after the later of the pair. -/
def execUmpireCompare (c k : Nat) (s : State) : Out :=
  .next (match s.hub.items[k]? with
    | none => s
    | some x =>
      if x.task != s.taskIdOf c || (s.taskOf c).isTwin || (s.region c).halted then s
      else match s.matchOf c x, s.twinCluster c with
        | some y, some c' =>
          if s.now < Nat.max x.at_ y.at_ + 12 then s
          else if x.body = y.body then s.matched c c' x y
          else (s.dropItems x y).mismatch c x.node x.ord
        | _, _ => s)

/-- UMPIRE_TIMEOUT (R392): the k-th item, of either copy of the task of home region c, has waited UWAIT cycles for its twin. -/
def execUmpireTimeout (c k : Nat) (s : State) : Out :=
  .next (match s.hub.items[k]? with
    | none => s
    | some x =>
      let t := s.taskOf c
      if t.isTwin || t.twin.isNone || (s.region c).halted || !(x.task == s.taskIdOf c || t.twin == some x.task) then s
      else
        let alone := s.hub.items.all (fun y => y.task == x.task || y.what != x.what || y.node != x.node || y.ord != x.ord ||
          !(y.task == s.taskIdOf c || t.twin == some y.task))
        if alone && x.at_ + s.hub.uwait ≤ s.now then (s.dropItems x x).mismatch c x.node x.ord else s)

end Sys2Proof.Machine
end

