-- ==== Sys2Proof/Machine/Ring.lean ====
section
/-!
DEFINITION. The weight ring (R277 to R295): laps, the injection of tiles, boarding windows, capture.
-/

namespace Sys2Proof.Machine

open Sys2Proof

/-! ## Places and times (R277, R283, R284, R292) -/

/-- The position of the stop of cluster c, and of the feeder of a near die (R277). -/
def stopPos (c : Nat) : Nat := 17 * ringPos (c / 16) + 1 + stopOf c
def feederPos (die : Nat) : Nat := 17 * ringPos die

/-- Cycles that a beat takes from one position to another: one for each hop, nine over a seam (R277). -/
def ringDelay (p p' : Nat) : Nat := ((p' + 8 * (p' / 17)) + 100 - (p + 8 * (p / 17))) % 100

/-- The cycle in which beat 0 of a tile reaches a stop (R283). -/
def RingTile.reaches (x : RingTile) (c : Nat) : Nat := x.start + ringDelay (feederPos (x.src / 2 ^ 38)) (stopPos c)

/-- The place of a cycle in its frame at the feeder of a die: frames go round with the beats, and the manual leaves open the cycle at
which they begin (R284; log entry 48). -/
def framePhase (die now : Nat) : Nat := (now + 8 - ringPos die % 4 - Config.frameStart % 4) % 4

/-- The beat slots from a cycle on: the frame begun goes on at the old speed, the later ones run at the new (R292). -/
def beatSlots (die now old new : Nat) : List Nat :=
  let ph := framePhase die now
  (List.range 48).filter (fun j => (ph + j) % 4 + (if ph + j < 4 && ph != 0 then old else new) < 4)

/-- The speed that the four inputs ask for (R292). -/
def State.ringSpeed (s : State) : Nat := Nat.max (Nat.max s.ring.cap s.ring.blk) (Nat.max s.vote (Nat.min 3 s.seam))

/-! ## The lap list (R281) -/

/-- A lap-list entry as it stands in memory. -/
def State.lapEntry (s : State) (a : Nat) : LapEntry :=
  { layer := s.leNow a 4, first := s.leNow (a + 4) 2, count := s.leNow (a + 6) 2, src := s.leNow (a + 8) 8
    last := (Memory.read s.mem (a + 16)).getLsbD 0 }

/-- A bad entry (R281). -/
def LapEntry.bad (e : LapEntry) : Bool :=
  e.count == 0 || e.src % 4096 != 0 || 2 ^ 40 ≤ e.src || (e.src + 32768 * e.count - 1) / 2 ^ 38 != e.src / 2 ^ 38

/-- The entries of a lap from an address on, and whether a bad one ended them; the last that `n` allows counts as LAST. -/
def State.readLap (s : State) (a : Nat) : Nat → List LapEntry × Bool
  | 0 => ([], false)
  | n + 1 =>
    let e := s.lapEntry a
    if e.bad then ([], true)
    else if e.last then ([e], false)
    else
      let r := s.readLap (a + 32) n
      (e :: r.1, r.2)

/-- Tiles of a list. -/
def lapTiles (l : List LapEntry) : Nat := l.foldl (fun n e => n + e.count) 0

/-- The entry number, entry and place in it of the tile at a position of a lap. -/
def tileAt : List LapEntry → Nat → Nat → Option (Nat × LapEntry × Nat)
  | [], _, _ => none
  | e :: t, ent, pos => if pos < e.count then some (ent, e, pos) else tileAt t (ent + 1) (pos - e.count)

/-! ## Occurrences (R285) -/

/-- The tiles from the front of a list carry n more tiles of a layer from index i on. -/
def runsOn (layer : Nat) : List LapEntry → Nat → Nat → Bool
  | _, _, 0 => true
  | [], _, _ => false
  | e :: t, i, n + 1 => e.layer == layer && e.first == i && runsOn layer t (i + e.count) (n + 1 - e.count)

/-- The positions in a lap at which an occurrence of a range begins. -/
def occurrences (layer first count : Nat) : List LapEntry → Nat → List Nat
  | [], _ => []
  | e :: t, base =>
    let rest := occurrences layer first count t (base + e.count)
    let left := e.first + e.count - first
    if e.layer = layer ∧ e.first ≤ first ∧ first < e.first + e.count ∧ runsOn layer t (first + left) (count - left) = true then
      (base + (first - e.first)) :: rest
    else rest

/-! ## Windows -/

/-- The number in its range of a ring tile that a window targets (R285, R291). -/
def Window.takes (w : Window) (lap pos layer index : Nat) : Option Nat :=
  let main : Option Nat := match w.lap with
    | some (l, p) => if l = lap ∧ p ≤ pos ∧ pos < p + w.count then some (pos - p) else none
    | none => none
  match main with
  | some n => if w.again.contains n || w.written.contains n || w.held.contains n then none else some n
  | none => w.again.find? (fun n => layer == w.layer && index == w.first + n)

/-- The tile is targeted by some window of a stop. -/
def Cluster.wants (k : Cluster) (lap pos layer index : Nat) : Bool := k.windows.any (fun w => (w.takes lap pos layer index).isSome)

/-- Tiles in a stop's capture buffer (R288). -/
def Cluster.buffered (k : Cluster) : Nat :=
  (k.copies.foldl (fun (l : List (Nat × Nat)) y => if l.contains (y.tile.lap, y.tile.pos) then l else (y.tile.lap, y.tile.pos) :: l) []).length

/-- Tiles that a stop is to copy and whose first beat has reached it (R288). -/
def State.arriving (s : State) (c : Nat) : Nat :=
  (s.ring.tiles.filter (fun x => !x.seen.contains c && x.reaches c ≤ s.now && (s.cluster c).wants x.lap x.pos x.layer x.index)).length

/-- Tiles on their way that a stop is to copy. -/
def State.coming (s : State) (c : Nat) : Nat :=
  (s.ring.tiles.filter (fun x => !x.seen.contains c && (s.cluster c).wants x.lap x.pos x.layer x.index)).length

/-- Changes a window of a stop by its command. -/
def State.modWindow (s : State) (c cmd : Nat) (f : Window → Window) : State :=
  s.modCluster c (fun k => { k with windows := k.windows.map (fun (w : Window) => if w.cmd = cmd then f w else w) })

def State.dropWindow (s : State) (c cmd : Nat) : State :=
  s.modCluster c (fun k => { k with windows := k.windows.filter (fun w => w.cmd != cmd) })

/-- The command of a window. -/
def State.windowCmd (s : State) (c cmd : Nat) : Option Cmd := (s.cluster c).eq.find? (fun q => q.id == cmd)

/-- The record of T_RINGMISS (R370): cat(FIRST, LAYER), LAP. -/
def State.missRecord (s : State) (c : Nat) (q : Cmd) (sub : Nat) : TrapRec :=
  s.record c (srcNode c q.node) 0xC sub (fields [(fieldAt q.desc 0 4, 0), (fieldAt q.desc 4 2, 32)]) (BitVec.ofNat 64 s.ring.lap) 0

/-- The record of T_RINGCHK for ring tile n of a window (R291): cat(INDEX, LAYER), LAP. -/
def State.checkRecord (s : State) (c : Nat) (q : Cmd) (x : RingTile) (n : Nat) : TrapRec :=
  { s.record c (srcNode c q.node) 0xB 1 (fields [(x.layer, 0), (x.index, 32)]) (BitVec.ofNat 64 x.lap) 0 with
    cmd := some q.id, tile := some n }

/-! ## Laps (R282) -/

/-- A waiting window of stop c takes the first occurrence of a new lap, or misses (R285, R289). -/
def State.retarget (s : State) (c : Nat) (w : Window) : State :=
  if w.lap.isSome then s
  else match occurrences w.layer w.first w.count s.ring.list 0, s.windowCmd c w.cmd with
    | p :: _, _ => s.modWindow c w.cmd (fun w => { w with lap := some (s.ring.lap, p) })
    | [], some q => (s.dropWindow c w.cmd).cmdTrap c q (s.missRecord c q 3)
    | [], none => s.dropWindow c w.cmd

/-- Every waiting window looks at the lap that starts, or at none. -/
def State.retargetAll (s : State) : State :=
  s.clusters.foldl (fun st x => x.2.windows.foldl (fun st w => st.retarget x.1 w) st) s

/-- The count of lap starts since the backlog cleared; at the second BLK returns to full (R292). -/
def Ring.countLap (r : Ring) : Ring :=
  match r.clearLaps with
  | none => r
  | some n => if 1 ≤ n then { r with blk := 0, clearLaps := none } else { r with clearLaps := some (n + 1) }

/-- BADENT is set where a bad entry has ended a lap's list (R281). -/
def State.markBadEnt (s : State) (bad : Bool) : State := if bad then (s.modRing (fun r => { r with badEnt := true })).touch 0x302 0 56 else s

/-- The most bytes that any stop's buffer holds, a tile counted from its first beat on (log entry 49). -/
def State.backlog (s : State) : Nat := s.clusters.foldl (fun n x => Nat.max n (32768 * (x.2.buffered + s.arriving x.1))) 0

/-- The backlog crosses 75 %, or clears while BLK is slow, at any time (R292). -/
def Ring.noteBacklog (r : Ring) (hi : Nat) : Ring :=
  if 786432 < hi then { r with clearLaps := none }
  else if r.blk != 0 && r.clearLaps.isNone && hi ≤ 262144 then { r with clearLaps := some 0 }
  else r

/-- The stops' buffers are looked at. -/
def State.noted (s : State) : State := s.modRing (·.noteBacklog s.backlog)

/-- The reads of a lap's list, the bad entry that ends it among them, leave what errors they find marked (R281, R382). -/
def State.listRead (s : State) (list : List LapEntry) (bad : Bool) : State :=
  s.findErrors (span s.ring.lapBase (32 * (list.length + bad.toNat)))

/-- A lap begins with these entries (R282). -/
def State.beginLap (s : State) (list : List LapEntry) (bad : Bool) (die : Nat) : State :=
  let s1 := (s.markBadEnt bad).modRing (fun r => { r.countLap with
    lap := (r.lap + 1) % 2 ^ 32, lapCut := s.wseq, list := list, prev := r.list, running := true, pos := 0, ent := 0, next := s.now + 4, die := die })
  ((s1.modRing (fun r => { r with cur := s1.ringSpeed })).postAll 3 (fun _ => true)).retargetAll

/-- No lap begins. -/
def State.endLaps (s : State) (bad : Bool) : State :=
  ((s.markBadEnt bad).modRing (fun r => { r with
    running := false, prev := r.list, list := [], pos := 0, idleBad := bad })).retargetAll

/-- The die that the frames of a lap start are counted at: that of the last tile, or of the first tile of the first lap. -/
def Ring.refDie (r : Ring) (list : List LapEntry) : Nat :=
  match r.running, list with
  | false, e :: _ => e.src / 2 ^ 38
  | _, _ => r.die

/-- Now is a lap start (R282): a frame boundary behind the last tile of the lap, or any while no lap runs. -/
def Ring.atStart (r : Ring) (die now : Nat) : Bool :=
  framePhase die now == 0 && (if r.running then r.pos == lapTiles r.list && r.next ≤ now else r.en && !r.idleBad)

/-- LAP_START (R282). -/
def execLapStart (s0 : State) : Out :=
  .next (let s := s0.noted
    let r := s.ring
    if r.running && r.pos != lapTiles r.list then s
    else
      let (list, bad) := if r.en then s.readLap r.lapBase 65536 else ([], false)
      let die := r.refDie list
      if !r.atStart die s.now then s
      else if !r.en then s.endLaps false
      else if list.isEmpty then (s.listRead [] true).endLaps true
      else (s.listRead list bad).beginLap list bad die)

/-! ## Injection (R283, R290, R292, R293) -/

/-- The backlog speed at a tile boundary (R292). -/
def Ring.backlogStep (r : Ring) (hi : Nat) : Ring :=
  if 786432 < hi ∧ 32 ≤ r.since ∧ r.blk < 3 then { r with blk := r.blk + 1, since := 0 } else r

/-- Header words 0 and 1 of a ring tile (R279); words 3 to 7 are zero. -/
def RingTile.word0 (x : RingTile) : Word := fields [(x.layer, 0), (x.index, 32)]
def RingTile.word1 (x : RingTile) : Word := fields [(x.lap, 0), (x.src / 2 ^ 38, 32)]

/-- Header word k of the sideband of a ring tile, beat by beat (R279). -/
def RingTile.word (x : RingTile) (k : Nat) : Word := [x.word0, x.word1, x.crc].getD k 0

/-- The poison masks of the eight beats as bytes (R279): one bit for each 32-byte sector of the payload. -/
def RingTile.masks (x : RingTile) : List Byte :=
  (List.range 128).map (fun j => BitVec.ofNat 8 ((List.range 8).foldl (fun v b => if x.poison.contains (8 * j + b) then v + 2 ^ b else v) 0))

/-- CRC-64 over one bit more, and over one byte, its most significant bit first (R280). -/
def crcBit (c : BitVec 64) (b : Bool) : BitVec 64 := if c.msb != b then (c <<< 1) ^^^ 0x42F0E1EBA9EA3693 else c <<< 1
def crcByte (c : BitVec 64) (b : Byte) : BitVec 64 := (List.range 8).foldl (fun c k => crcBit c (b.getLsbD (7 - k))) c

/-- The CRC-64 of bytes (R280): initial value 0, no final exclusive-or. -/
def crc64 (bs : List Byte) : BitVec 64 := bs.foldl crcByte 0

/-- The CRC of a ring tile (R280): header words 0 and 1, the payload, the poison masks. -/
def RingTile.check (x : RingTile) (payload : List Byte) : BitVec 64 :=
  crc64 (leBytes 8 x.word0.toNat ++ leBytes 8 x.word1.toNat ++ payload ++ x.masks)

/-- Some stop that is to copy a tile lacks the room for it, room for the tiles on their way to it set aside (R290; log entry 49). -/
def State.mustPause (s : State) (pos layer index : Nat) : Bool :=
  s.clusters.any (fun x => x.2.wants s.ring.lap pos layer index && 1048576 < 32768 * (x.2.buffered + s.coming x.1 + 1))

/-- The places of some bytes that a feeder reads, each with the number up to which it goes: the writes before the lap's start are in
every tile, of the later ones each may be or not, whole in its pieces of 8 bytes (R260, R282). -/
def State.feedCuts (s : State) (a n : Nat) : List (Nat × Nat) :=
  s.cuts s.lag ((s.hist.filter (fun w => w.seq ≤ s.ring.lapCut)).map (·.seq)) true (span a n)

/-- What a feeder reads into a ring tile (R280): its payload, and the sectors that are poisoned or uncorrectable. -/
def State.readTile (s : State) (x : RingTile) : RingTile :=
  { x with pay := s.cutBytes (s.feedCuts x.src 32768)
           poison := (List.range 1024).filter (fun k => s.cutMarked (s.feedCuts (x.src + 32 * k) 32)) }

/-- The feeder reads a tile and sends it with the CRC over what it has read (R280); what the read finds is left marked (R382). -/
def State.feed (s : State) (x : RingTile) : State :=
  let y := s.readTile x
  (s.findErrors (span x.src 32768)).modRing (fun r => { r with tiles := r.tiles ++ [{ y with crc := y.check y.pay }] })

/-- The tile goes, if the cycle is a beat slot. -/
def State.injectAt (s : State) (ent die src layer index : Nat) : State :=
  let r := s.ring
  let want := Nat.max r.cur s.ringSpeed
  match beatSlots die s.now r.cur want with
  | 0 :: rest =>
    let tile : RingTile := { lap := r.lap, pos := r.pos, layer := layer, index := index % 65536, src := src, start := s.now
                             tail := rest.getD 6 0 }
    (s.feed tile).modRing (fun r => { r with
      cur := want, pause := false, seamStop := false, pos := r.pos + 1, ent := ent, die := die, next := s.now + rest.getD 7 0
      since := r.since + 1 })
  | _ => s

/-- The next tile at its tile boundary. -/
def State.injectNext (s : State) : State :=
  let r := s.ring
  match tileAt r.list 0 r.pos with
  | none => s
  | some (ent, e, k) =>
    let src := e.src + 32768 * k
    let die := src / 2 ^ 38
    if s.now < r.next + ringDelay (feederPos r.die) (feederPos die) then s
    else
      let s1 := s.noted.modRing (·.backlogStep s.backlog)
      if 4 ≤ s.seam then s1.modRing (fun r => { r with seamStop := true })
      else if s1.mustPause r.pos e.layer ((e.first + k) % 65536) then s1.modRing (fun r => { r with pause := true, seamStop := false })
      else s1.injectAt ent die src e.layer (e.first + k)

/-- TILE_INJECT (R283): tiles that have come round are removed, and the next goes at its boundary. -/
def execTileInject (s : State) : Out :=
  .next (let s1 := s.modRing (fun r => { r with tiles := r.tiles.filter (fun x => s.now ≤ x.start + x.tail + 101) })
    if s.ring.running then s1.injectNext else s1)

/-! ## Boarding (R285, R286) -/

/-- The fields of a `board` descriptor (R189). -/
def boardWindow (now : Nat) (q : Cmd) : Window :=
  { cmd := q.id, task := q.task, layer := fieldAt q.desc 0 4, first := fieldAt q.desc 4 2, count := fieldAt q.desc 6 2
    dkind := fieldAt q.desc 8 1, dest := wordAt q.desc 16, cells := BitVec.ofNat 48 (fieldAt q.desc 24 6), regAt := now }

/-- The tiles of a window (DKIND 1). -/
def Window.tileNos (w : Window) : List Nat := (List.range w.count).map (bitsOf w.dest 5 0 + ·)

/-- The cells of a window (DKIND 2), upward. -/
def Window.cellNos (w : Window) : List Nat := (List.range 48).filter w.cells.getLsbD

/-- The cells whose shadow ring tile n loads (R287). -/
def Window.cellsOf (w : Window) (n : Nat) : List Nat := if w.count = 1 then w.cellNos else (w.cellNos.drop n).take 1

/-- The check of DEST for SRAM addresses (R286). -/
def State.boardRange (s : State) (c : Nat) (q : Cmd) (w : Window) : Bool :=
  match s.sram (q.space c) w.dest .write with
  | .error _ => false
  | .ok pa => (bitsOf w.dest 63 56 == 0xFD || bitsOf w.dest 63 56 == 0xFE) && w.dest.toNat % 128 == 0 && sramClus pa == c &&
      sramOff pa + 32768 * w.count ≤ 0x30000

/-- A tile that a window cannot take (R255, R286). -/
def State.boardTileFault (s : State) (c n : Nat) : Option XFault :=
  match s.useTile c n .write with
  | .error x => some x
  | .ok (t, _) => if 32768 < t.extent then some (xlateFault 0x47 t.base 7 .write) else none

/-- The check of a destination at registration (R286). -/
def State.boardFault (s : State) (c : Nat) (q : Cmd) (w : Window) : Option XFault :=
  let bad := some (xlateFault 0x47 w.dest 7 .write)
  match w.dkind with
  | 0 => if s.boardRange c q w then none else bad
  | 1 => if 63 < bitsOf w.dest 5 0 + w.count - 1 then bad else w.tileNos.findSome? (s.boardTileFault c)
  | 2 =>
    let free (cell : Nat) : Bool := ((s.task q.task).dot cell).shState == .armed &&
      (s.cluster c).windows.all (fun x => x.dkind != 2 || !x.cells.getLsbD cell)
    if w.cells = 0 || !w.cellNos.all free || !(w.count == 1 || w.count == w.cellNos.length) then bad else none
  | _ => bad

/-- The tiles of a window stand EMPTY, or the command has claimed them before (R178, R294). -/
def State.boardTilesFree (s : State) (q : Cmd) (w : Window) : Bool :=
  w.dkind != 1 || w.tileNos.all (fun n => ((s.task q.task).tile n).state == .empty || q.claims.contains n)

/-- The cycle in which the tile at a position of a lap reaches a stop: none once it has been removed; a tile still to be injected
comes later. -/
def State.comesAfter (s : State) (c lap pos : Nat) : Bool :=
  if lap = s.ring.lap && s.ring.running && s.ring.pos ≤ pos then true
  else s.ring.tiles.any (fun x => x.lap == lap && x.pos == pos && s.now < x.reaches c)

/-- The first occurrence whose first tile has still to reach the stop (R285), the end of the lap before being still on its way. -/
def State.nextOccurrence (s : State) (c : Nat) (w : Window) : Option (Nat × Nat) :=
  let old := (s.ring.lap + 2 ^ 32 - 1) % 2 ^ 32
  let find (lap : Nat) (l : List LapEntry) : Option (Nat × Nat) :=
    ((occurrences w.layer w.first w.count l 0).find? (s.comesAfter c lap)).map (fun p => (lap, p))
  match find old s.ring.prev with
  | some x => some x
  | none => find s.ring.lap s.ring.list

/-- The window stands at the stop: tiles are claimed (R286). -/
def State.openWindow (s : State) (c : Nat) (q : Cmd) (w : Window) : State :=
  let claimed := if w.dkind = 1 then w.tileNos else []
  let s1 := claimed.foldl (fun st n => st.setTileState q n .filling) s
  (s1.putCmd c { q with claims := claimed }).modCluster c (fun k => { k with windows := k.windows ++ [w] })

/-- The task of region c is about to leave it, so no window registers (R184, R294). -/
def State.leaving (s : State) (c : Nat) : Bool :=
  let r := s.region c
  r.step == 8 || r.stoppedBy.isSome || (match s.wanted c with
    | some (_, at_) => !r.afterExit at_ && r.frozen.isNone && at_ + s.hub.pwait ≤ s.now
    | none => false)

/-- Registration of a range that is not empty (R285). -/
def State.register (s : State) (c : Nat) (q : Cmd) (w : Window) : State :=
  match s.boardFault c q w with
  | some x => s.cmdTrap c q (s.cmdFault c q x)
  | none =>
    if !s.boardTilesFree q w || s.claimBefore c q (s.waitsTiles c q) then s
    else if !s.ring.en || (occurrences w.layer w.first w.count s.ring.list 0).isEmpty then s.cmdTrap c q (s.missRecord c q 2)
    else match s.nextOccurrence c w with
      | some x => s.openWindow c q { w with lap := some x }
      | none => if (cmdFmt q.ins).flg.getLsbD 0 then s.endCmd c q (s.missRecord c q 1) else s.openWindow c q w

/-- The boardings of the node before this one have registered (R180, R285). -/
def Cluster.boardNext (k : Cluster) (q : Cmd) : Bool :=
  k.eq.all (fun y => y.task != q.task || y.node != q.node || y.age != q.age || q.id ≤ y.id || y.dead || 6 ≤ y.step ||
    k.windows.any (fun w => w.cmd == y.id))

/-- BOARDING_REGISTRATION (R285): of command k of cluster c. -/
def execBoardingRegistration (c k : Nat) (s : State) : Out :=
  .next (match s.cmdReady c k 5 with
    | none => s
    | some q => (match q.ins with
        | .board _ =>
          let x := s.cluster c
          let w := boardWindow s.now q
          if x.windows.any (fun w => w.cmd == q.id) || !x.boardNext q then s
          else if w.count = 0 then s.worked c q
          else if 16 ≤ x.windows.length || s.leaving c then s
          else s.register c q w
        | _ => s))

/-! ## Capture (R287, R288, R291) -/

/-- The state whose memory and marks are what a ring tile carries, at the place that it was read from (R280). -/
def State.fedBy (s : State) (x : RingTile) : State :=
  { s with
    mem := (List.zip (span x.src 32768) x.pay).filter (fun y => y.2 != 0)
    marks := x.poison.map (fun k => sectorOf x.src + k), ecc := [], hist := [] }

/-- Windows open when the first tile of their occurrence reaches the stop (R294). -/
def State.openWindows (s : State) (c : Nat) : State :=
  let hit (w : Window) : Bool := match w.lap with
    | some (l, p) => s.ring.tiles.any (fun x => x.lap == l && x.pos == p && x.reaches c ≤ s.now)
    | none => false
  s.modCluster c (fun k => { k with windows := k.windows.map (fun w => { w with open_ := w.open_ || hit w }) })

/-- Where ring tile n of a window goes: the cells whose slices or dot blocks take the lines, and how many lines each takes. -/
def State.linesOf (s : State) (w : Window) (n : Nat) : List Nat × Nat :=
  match w.dkind with
  | 0 => ([bitsOf w.dest 23 18], 256)
  | 1 =>
    let t := (s.task w.task).tile (bitsOf w.dest 5 0 + n)
    ([bitsOf t.base 23 18], (t.extent + 127) / 128)
  | _ => (w.cellsOf n, 256)

/-- Four lines for a slice are issued in the first cycle in which the slice takes lines and the stop has issued fewer than sixteen
(R288): the stop after it, and that cycle. -/
def Cluster.issue (k : Cluster) (now cell : Nat) : Cluster × Nat :=
  let from_ := Nat.max now (k.capFree.get 0 cell)
  let t := (((List.range k.capUsed.length).map (from_ + ·)).find? (fun t => k.capUsed.get 0 t < 4)).getD (from_ + k.capUsed.length)
  ({ k with capFree := k.capFree.set cell (t + 1)
            capUsed := Tbl.set (k.capUsed.filter (fun u => now ≤ u.1)) t (k.capUsed.get 0 t + 1) }, t)

/-- So many fours of lines for one cell, and the cycles in which they perform: eight after their issue (R288). -/
def Cluster.issueAll (k : Cluster) (now cell : Nat) : Nat → Cluster × List Nat
  | 0 => (k, [])
  | n + 1 =>
    let x := k.issue now cell
    let r := x.1.issueAll now cell n
    (r.1, (x.2 + 8) :: r.2)

/-- The lines of a tile for each of some cells. -/
def Cluster.issueTo (k : Cluster) (now fours : Nat) : List Nat → Cluster × List Nat
  | [] => (k, [])
  | cell :: t =>
    let x := k.issueAll now cell fours
    let r := x.1.issueTo now fours t
    (r.1, x.2 ++ r.2)

/-- A checked copy goes to one window (R288): its lines are issued behind those before them. A plane stands when its last line
has performed; a tile of no bytes stands at once. -/
def State.takeCopy (s : State) (c : Nat) (w : Window) (n : Nat) (x : RingTile) : State :=
  let (cells, lines) := s.linesOf w n
  let r := (s.cluster c).issueTo s.now ((lines + 3) / 4) cells
  let due := if w.dkind = 2 ∨ r.2 = [] then [r.2.foldl Nat.max s.now] else r.2
  (s.modCluster c (fun _ => { r.1 with
    copies := r.1.copies ++ [{ tile := x, cmd := w.cmd, task := w.task, n := n, due := due }] })).modWindow c w.cmd
      (fun w => { w with again := w.again.filter (· != n) })

/-- A failed copy for one window (R291): the first failure re-boards, the second traps, and the source is read again. -/
def State.failCopy (s : State) (c : Nat) (w : Window) (n : Nat) (x : RingTile) : State :=
  if !w.failed.contains n then s.modWindow c w.cmd (fun w => { w with again := w.again ++ [n], failed := w.failed ++ [n] })
  else
    let lost := (span x.src 32768).any s.damaged
    let s0 := ((s.modWindow c w.cmd (fun w => { w with again := w.again.filter (· != n), held := w.held ++ [n] })).modRing (fun r =>
      { r with reread := true, srcErr := r.srcErr || lost })).touch 0x302 0 57
    let s1 := (if lost then s0.touch 0x302 0 58 else s0).findErrors (span x.src 32768)
    match s1.windowCmd c w.cmd with
    | some q => s1.raise c (s1.checkRecord c q x n)
    | none => s1

/-- The tile that a plane word describes (R287), from byte 64 of the payload on; none where the word is invalid. -/
def State.planeTile (s : State) (src : Nat) : Option Tile :=
  let w := s.leNow src 8
  let fmt := w % 16
  let kb := w / 32 % 16
  if !recFmt fmt || kb = 0 || 8 < kb then none
  else some { rows := 32 * kb, cols := 8, fmt := fmt, var := w.testBit 4 }

/-- A checked tile that a window cannot write is held until the trap of its command resumes (R287, R291). -/
def State.holdTile (s : State) (c : Nat) (w : Window) (n : Nat) (f : XFault) : State :=
  let s1 := s.modWindow c w.cmd (fun w => { w with again := w.again.filter (· != n), held := w.held ++ [n] })
  match s1.windowCmd c w.cmd with
  | some q => s1.raise c { s1.cmdFault c q f with cmd := some q.id, tile := some n }
  | none => s1

/-- A checked tile of one window: a plane with an invalid plane word raises T_XLATE at the check (R287). -/
def State.checked (s : State) (c : Nat) (w : Window) (n : Nat) (x : RingTile) : State :=
  if w.dkind = 2 ∧ (s.fedBy x).planeTile x.src = none then s.holdTile c w n (xlateFault 0x43 w.dest 7 .write)
  else s.takeCopy c w n x

/-- A tile that has passed the stop whole: each window that targets it takes the copy, or has it fail (R288, R291). `bad`: errors
on the way have changed what arrives, so that its CRC is not that of header word 2. -/
def State.checkTile (s : State) (c : Nat) (x : RingTile) (bad : Bool) : State :=
  let s1 := s.modRing (fun r => { r with
    tiles := r.tiles.map (fun (y : RingTile) => if y.lap = x.lap ∧ y.pos = x.pos then { y with seen := c :: y.seen } else y)
    crcf := if bad && !s.wrote 0x302 0 && (s.cluster c).wants x.lap x.pos x.layer x.index then Nat.min 0xFF (r.crcf + 1) else r.crcf })
  (s.cluster c).windows.foldl (fun st w => match w.takes x.lap x.pos x.layer x.index with
    | none => st
    | some n => if bad then st.failCopy c w n x else st.checked c w n x) s1

/-- The cycle in which a stop checks a ring tile, the one after its beat 7 arrives (R288). -/
def RingTile.checkAt (x : RingTile) (c : Nat) : Nat := x.reaches c + x.tail + 1

/-- The tiles in flight that have passed stop c whole, and that it has not dealt with. -/
def State.passed (s : State) (c : Nat) : List RingTile := s.ring.tiles.filter (fun x => !x.seen.contains c && x.checkAt c ≤ s.now)

/-- Some lines of the first n bytes of a tile written, each as one write (R288); the command is bound to them once the tile is (R270). -/
def State.lines (s : State) (c : Nat) (q : Cmd) (x : RingTile) (pa n : Nat) (ls : List Nat) : State × Cmd :=
  let src := s.fedBy x
  ls.foldl (fun (st : State × Cmd) l =>
    let bs := (List.range (Nat.min 128 (n - 128 * l))).map (fun k =>
      let a := x.src + 128 * l + k
      ({ addr := pa + 128 * l + k, val := Memory.read src.mem a, bad := src.marked a } : PByte))
    let r := st.1.cmdStore c st.2 bs
    (r.1, { r.2 with bound := q.bound })) (s, q)

/-- Lines of ring tile n of a window are written at their destination, the last of them with a plane (R286, R287), or the fault
that stops them. -/
def State.landTile (s : State) (c : Nat) (q : Cmd) (w : Window) (n : Nat) (x : RingTile) (ls : List Nat) : Except XFault (State × Cmd) :=
  match w.dkind with
  | 0 => (s.sram (q.space c) (w.dest + BitVec.ofNat 64 (32768 * n)) .write).map (fun pa => s.lines c q x pa 32768 ls)
  | 1 => (s.useTile c (bitsOf w.dest 5 0 + n) .write).map (fun y => s.lines c q x y.2 (Nat.min 32768 y.1.extent) ls)
  | _ =>
    let src := s.fedBy x
    match src.planeTile x.src with
    | none => .error (xlateFault 0x43 w.dest 7 .write)
    | some t =>
      let p := src.planeOf t (src.lastCuts (span (x.src + 64) t.extent))
      .ok ((w.cellsOf n).foldl (fun st cell => st.modBoth q (fun y => y.setDot cell { y.dot cell with shadow := p })) s, q)

/-- Ring tiles of a range that stand written from its first on. -/
def writtenPrefix (written : List Nat) : Nat → Nat → Nat
  | _, 0 => 0
  | k, n + 1 => if written.contains k then 1 + writtenPrefix written (k + 1) n else 0

/-- A copy after the lines that are due by now. -/
def Copy.after (y : Copy) (now : Nat) : Copy :=
  { y with line := y.line + 4 * (y.due.takeWhile (· ≤ now)).length, due := y.due.dropWhile (· ≤ now) }

/-- The lines of a copy that are due by now, of so many. -/
def Copy.dueLines (y : Copy) (now lines : Nat) : List Nat :=
  ((List.range (4 * (y.due.takeWhile (· ≤ now)).length)).map (y.line + ·)).filter (· < lines)

/-- The writes of the ring tiles of a window before number k (R270). -/
def Window.wroteTo (w : Window) (k : Nat) : List Nat := (w.wrote.filter (fun x => x.1 < k)).map (·.2)

/-- The lines of one copy that are due perform (R288). With the last of them the buffer space is free and the tile stands written;
in byte mode the prefix is then signalled, but for its last step. -/
def State.landCopy (s : State) (c : Nat) (y : Copy) : State :=
  let y1 := y.after s.now
  let other (z : Copy) : Bool := !(z.cmd == y.cmd && z.n == y.n)
  let left := if y1.due.isEmpty then [] else [y1]
  let s0 := s.modCluster c (fun k => { k with copies := k.copies.flatMap (fun z => if other z then [z] else left) })
  match (s0.cluster c).windows.find? (fun w => w.cmd == y.cmd), s0.windowCmd c y.cmd with
  | some w, some q => (match s0.landTile c q w y.n y.tile (y.dueLines s.now (s.linesOf w y.n).2) with
      | .error f => (s0.modCluster c (fun k => { k with copies := k.copies.filter other })).holdTile c w y.n f
      | .ok (sl, q1) =>
        let w1 := { w with wrote := w.wrote ++ (newWrites s0 sl).map (fun k => (y.n, k)) }
        let s1 := (sl.noteWrites s0 q.task).modWindow c w.cmd (fun _ => w1)
        if !y1.due.isEmpty then s1.putCmd c q1
        else
        let done := w.written ++ [y.n]
        let k := writtenPrefix done 0 w.count
        let q2 := { q1 with done := 32768 * k, bound := union q1.bound (w1.wroteTo k) }
        let s2 := (s1.putCmd c q2).modWindow c w.cmd (fun w => { w with written := done })
        if byteMode q.ins && k != w.count && q2.signalled < q2.done && !q2.stopped then s2.prefixSignal c q2 else s2)
  | _, _ => s0

/-- TILE_CAPTURE (R288): windows open, the tile that has just passed is checked, those that passed while the stop had no window are
behind it, and the lines of copies that are due perform. -/
def execTileCapture (c : Nat) (bad : Bool) (s : State) : Out :=
  .next (let s1 := s.openWindows c
    let s2 := (s1.passed c).foldl (fun st x => st.checkTile c x (bad && x.checkAt c == s.now)) s1
    (((s2.cluster c).copies.filter (fun y => y.due.any (· ≤ s.now))).foldl (fun st y => st.landCopy c y) s2).noted)

/-! ## The end of a window (R288) -/

/-- The shadow of a cell goes LOADED, and the load that armed it completes (R172). -/
def State.loadShadow (s : State) (c cell : Nat) : State :=
  let s1 := match ((s.taskOf c).dot cell).ops.find? (fun o => o.kind == 3) with
    | some o => s.dotDone c cell { o with done := s.now } 0
    | none => s
  s1.modDot c cell (fun d => { d with shState := .loaded })

/-- The destinations of a window once all is written. -/
def State.fillWindow (s : State) (c : Nat) (q : Cmd) (w : Window) : State :=
  match w.dkind with
  | 1 => w.tileNos.foldl (fun st n => st.setTileState q n .ready) s
  | 2 =>
    let s1 := w.cellNos.foldl (fun st cell => st.loadShadow c cell) s
    (match q.mate, s.twinCluster c with
     | some _, some c' => w.cellNos.foldl (fun st cell => st.loadShadow c' cell) s1
     | _, _ => s1)
  | _ => s

/-- WINDOW_CLOSE (R288): the window of command k of cluster c, every tile of it written, signals and completes. -/
def execWindowClose (c k : Nat) (s : State) : Out :=
  .next (match (s.cluster c).windows.find? (fun w => w.cmd == k) with
    | none => s
    | some w => (match s.windowCmd c w.cmd with
        | none => s
        | some q =>
          if w.written.length != w.count || q.stopped then s
          else ((s.fillWindow c q w).dropWindow c w.cmd).worked c { q with bound := union q.bound (w.wroteTo w.count) }))

end Sys2Proof.Machine
end

