-- ==== Sys2Proof/Machine/SysEvents.lean ====
section
/-!
DEFINITION. The completions of system instructions (R206 to R211, R334).
-/

namespace Sys2Proof.Machine

open Sys2Proof

/-- The fields of a system instruction. -/
def sysFmt (i : Instr) : FmtS :=
  (i.sFmt).getD { pm := .always, t0 := .none, t1 := .none, sysno := 0 }

/-- System operation k of region c, whose block works. -/
def State.sysopAt (s : State) (c k : Nat) : Option SysOp := if s.working c then (s.region c).sysops.find? (fun x => x.id == k) else none

/-- An operation ends: its tokens reach T0 and T1. -/
def State.sysDone (s : State) (c : Nat) (op : SysOp) (t0 t1 : Token) : State :=
  let f := sysFmt op.ins
  s.modRegion c (fun r =>
    let r1 := (r.fill s.now (op.node / 4) 0 f.t0 op.id t0 op.bound).fill s.now (op.node / 4) 0 f.t1 op.id t1 op.bound
    { r1 with sysops := r1.sysops.filter (fun x => x.id != op.id) })

/-- An operation ends with one completion token. -/
def State.sysEnds (s : State) (c : Nat) (op : SysOp) (val : Bool) : State := s.sysDone c op (ctlTok val) (ctlTok val)

/-- The clusters in the scope of a `tlbinv` (R206). -/
def tlbScope (c : Nat) (pkg : Bool) (x : Nat) : Bool := pkg || x / 16 == c / 16

/-- TLBINV_COMPLETE (R206): no TLB in the scope holds the entry. -/
def execTlbinvComplete (c k : Nat) (s : State) : Out :=
  .next (match s.sysopAt c k with
    | some op => (match op.ins with
        | .tlbinv _ =>
          if s.now ≤ op.fired then s
          else (s.invalidate (tlbScope c (op.b.getLsbD 1)) op.asid (if op.b.getLsbD 0 then none else some op.a)).sysEnds c op true
        | _ => s)
    | none => s)

/-- The switch revokes a key (R207): no access under it performs any longer, also where its response is on the way. -/
def State.revoke (s : State) (key : Nat) : State :=
  let shut (d : Far) : Far := { d with reqs := d.reqs.map (fun r => if r.answered && r.key.toNat == key then { r with nack := true } else r) }
  ((s.modHub (fun h => { h with revoked := NSet.insert h.revoked key })).modFar 0 shut).modFar 1 shut

/-- KEYREV_ACK (R207): the switch has revoked the key, or reinstated it. -/
def execKeyrevAck (c k : Nat) (s : State) : Out :=
  .next (match s.sysopAt c k with
    | some op => (match op.ins with
        | .keyrev _ =>
          let key := bitsOf op.a 15 0
          if s.now ≤ op.fired then s
          else if !op.val then s.sysEnds c op false
          else (if op.b.getLsbD 0 then s.modHub (fun h => { h with revoked := NSet.erase h.revoked key }) else s.revoke key).sysEnds c op true
        | _ => s)
    | none => s)

/-- The task of a region that `ctxsv` has saved is held by no region until `ctxld` restores it (log entry 47). -/
def savedBy (t : Nat) (_ : Task) (s : State) : State := s.modTask t (fun x => { x with place := .saved })

/-- CTXSV_COMPLETE (R208): the snapshot has been written, or its writes fault (R333). -/
def execCtxsvComplete (c k : Nat) (s : State) : Out :=
  .next (match s.sysopAt c k with
    | some op => (match op.ins with
        | .ctxsv _ =>
          let v := op.a.toNat
          if (s.cluster v).task.isNone || (s.taskOf v).ending then s.sysEnds c op false
          else if (s.region v).stoppedBy.isNone then s.modRegion v (fun r => { r with stoppedBy := some s.now })
          else if (s.region v).forced || !s.still v then s
          else
            let t := s.taskIdOf v
            let y := s.context v true 0
            let s1 := s.depart v y.snap.isSome.toNat (s.region v).frozen y op.b (savedBy t)
            if (s1.region v).stoppedBy.isSome then s1 else s1.sysEnds c op ((s1.task t).place == .saved)
        | _ => s)
    | none => s)

/-- The task that a header names, held by no region (R333). -/
def State.offRegion (s : State) (k : Nat) : Bool := (s.task k).place == .saved || (s.task k).queued

/-- The key of the task of a context. -/
def Task.key (t : Task) : Nat := if t.isTwin then twinKey t.id else t.id

/-- What `ctxld` makes of the header at `a` (R34, R208, R334): the context that was saved with it; `poison` where it is refused, for
its version, for tokens that break R12 to R14, or because its task is not one that waits off a region. -/
def State.imageAt (s : State) (c : Nat) (a : Word) : Area Task :=
  let sp : Space := { s.space c with priv := true }
  let (pls, bad) := s.areaRuns sp .read [(a, 256)]
  let s0 := s.walked sp a 256 .read
  if !s.walkOpen sp a 256 then .wait s
  else match bad with
  | some x => .fault s0 x
  | none => (match s0.areaReach c [(a, 256)] pls with
      | .fault x => .fault (s0.reached c .area) x
      | .wait s1 => .wait s1
      | .go =>
        let s1 := (s0.reached c .area).findErrors pls.flatten
        let h := pls.flatten.map (Memory.read s.mem)
        match s.images.find (imageKey (fieldAt h 8 8) (fieldAt h 16 1) (fieldAt h 24 8)) with
        | none => .poison s1
        | some t => if fieldAt h 0 1 == 1 && t.tokensLegal && s.offRegion t.key && !pls.flatten.any s.marked then .done s1 t else .poison s1)

/-- The task that a refused image names, for its kill (R334). -/
def State.refusedTask (s : State) (c : Nat) (a : Word) : Option Nat :=
  match s.areaRun { s.space c with priv := true } (a + 8) 8 .read with
  | .error _ => none
  | .ok pas =>
    let t := leVal (pas.map (Memory.read s.mem))
    if s.offRegion t then some t else none

/-- A task takes the context of an image, but for what the scheduler keeps with it; the latches of events that came while it stood saved
stay set (R211). -/
def Task.fromImage (t y : Task) : Task :=
  { y with
    prio := t.prio, eprio := t.eprio, place := t.place, wait := t.wait, deps := t.deps, onend := t.onend, die := t.die, slot := t.slot
    twin := t.twin, isTwin := t.isTwin, ending := t.ending, killed := t.killed, started := true, wrote := union t.wrote y.wrote
    latches := union y.latches t.latches, redo := none }

/-- A refused image: its task is killed with T_MEMERR (R334, R389). -/
def State.refuseImage (s : State) (c : Nat) (a : Word) : State :=
  match s.refusedTask c a with
  | none => s
  | some t =>
    let x : TrapRec := { s.record c (srcUnit 0) 6 2 8 0 0 with task := t, step := 0, pclus := 0, block := 0, mirror := false }
    ((s.modTask t (fun y => { y with ending := true, killed := true })).modJob (s.task t).job (fun j => { j with kill := true })).modHub
      (fun h => { h with records := h.records ++ [x] })

/-- The task of an image resumes in cluster v (R208); the record of a trap that had stopped it awaits nothing (R381). -/
def State.loadImage (s : State) (v : Nat) (y : Task) (csa : Word) : State :=
  let t := y.key
  let s1 := ((s.modTask t (fun x => x.fromImage y)).seize t v 0).modCluster v (fun x => { x with wake := Nat.max x.wake (s.now + 1) })
  let s2 := s1.modHub (fun h => { h with awaiting := h.awaiting.filter (fun x => x.1.task != t) })
  match y.redo with
  | some x => s2.toRestore v x
  | none => s2.restore t v csa (s.bsaOf t)

/-- CTXLD_COMPLETE (R208): the task resumes in the named cluster. A header whose read faults is not among the cases of R208: the
instruction ends with VAL = 0 and raises no trap (log entry 59). -/
def execCtxldComplete (c k : Nat) (s : State) : Out :=
  .next (match s.sysopAt c k with
    | some op => (match op.ins with
        | .ctxld _ =>
          let v := op.a.toNat
          if s.now ≤ op.fired then s
          else if (s.cluster v).task.isSome then s.sysEnds c op false
          else match s.imageAt c op.b with
            | .done s1 y => (s1.loadImage v y op.b).sysEnds c op true
            | .wait s1 => s1
            | .fault s1 _ => s1.sysEnds c op false
            | .poison s1 => (s1.refuseImage c op.b).sysEnds c op false
        | _ => s)
    | none => s)

/-- The address space in which a system operation reads, with what its reads may see (R262). -/
def State.opSpace (s : State) (c : Nat) (op : SysOp) : Space := { s.space c with lag := s.lag, bound := op.bound }

/-- The 3,072 entries of a slot table read from some places (R209, R348); none where the read finds poison. -/
def State.slotTable (s : State) (sp : Space) (pas : List Nat) : Option (Tbl (BitVec 32)) :=
  let cs := s.readCuts sp pas
  let bs := s.cutBytes cs
  if s.cutMarked cs then none else some ((List.range 3072).map (fun i => (i, BitVec.ofNat 32 (leVal (Image.slice bs (4 * i) 4)))))

/-- The table that a `cfgld` has read, which is bound to what it read (R262): table n waits to switch in; with none, VAL = 0 (R209). -/
def State.tableRead (s : State) (c n : Nat) (op : SysOp) (t : Option (Tbl (BitVec 32))) (bound : List Nat) : State :=
  match t with
  | none => s.sysEnds c { op with bound := bound } false
  | some t => (s.modFar (n / 2) (fun d =>
      if n % 2 = 0 then { d with nextOut := some t, readyOut := s.now } else { d with nextInn := some t, readyInn := s.now })).sysEnds c { op with bound := bound } true

/-- A `cfgld` reads its table, once its places are at hand (R209, R349): a misaligned one, or one whose read faults, changes nothing. -/
def State.cfgldStep (s : State) (c n : Nat) (op : SysOp) : State :=
  let sp := s.opSpace c op
  let s0 := s.walked sp op.a 12288 .read
  if op.a.toNat % 4096 != 0 then s.sysEnds c op false
  else if !s.walkOpen sp op.a 12288 then s
  else match s.xlateBytes sp op.a 12288 .read with
    | .error _ => s0.sysEnds c op false
    | .ok pas => (match s0.reach c (.sysop op.id) (s.taskOf c).eprio (placed op.a pas) with
        | .fault _ => (s0.reached c (.sysop op.id)).sysEnds c op false
        | .wait s1 => s1
        | .go => ((s0.reached c (.sysop op.id)).findErrors pas).tableRead c n op (s.slotTable sp pas) (s.readBy sp pas op.bound))

/-- CFGLD_COMPLETE (R209): the table has been read; it switches in at a frame boundary. -/
def execCfgldComplete (c k : Nat) (s : State) : Out :=
  .next (match s.sysopAt c k with
    | some op => (match op.ins with
        | .cfgld f => if s.now ≤ op.fired then s else s.cfgldStep c (f.sysno.toNat - 0x600) op
        | _ => s)
    | none => s)

/-- LINKQ_COMPLETE (R210): a quiesce, or a resume, which waits while the module trains. -/
def execLinkqComplete (c k : Nat) (s : State) : Out :=
  .next (match s.sysopAt c k with
    | some op => (match op.ins with
        | .linkq _ =>
          let m := op.a.toNat
          let l := s.link m
          if s.now ≤ op.fired then s
          else if !op.b.getLsbD 8 then (s.modLink m (fun l => { l with quiesced := true, up := false })).sysEnds c op true
          else if l.training then s
          else if l.cur = 3 then s.sysEnds c op false
          else (s.modLink m (fun l => { l with quiesced := false, up := true })).sysEnds c op true
        | _ => s)
    | none => s)

/-- The class of event that a wait answers to: class 4 acts as 0 in a user task (R211). -/
def State.waitClass (s : State) (c : Nat) (f : FmtS) : Nat :=
  let n := f.sysno.toNat
  if n = 4 && !(s.taskOf c).supg then 0 else n

/-- EVWAIT_WAKE (R211): a latched event, or else the deadline. -/
def execEvwaitWake (c k : Nat) (s : State) : Out :=
  .next (match s.sysopAt c k with
    | some op => (match op.ins with
        | .evwait f =>
          let n := s.waitClass c f
          let wake (st : State) (v : Nat) : State := st.sysDone c op (mkPkt .i64 [v]) (mkPkt .i64 [s.now])
          if n != 0 && (s.taskOf c).latches.contains n then wake (s.modTaskOf c (fun t => { t with latches := NSet.erase t.latches n })) n
          else if op.a.toNat ≤ s.now && op.a != 0xFFFFFFFFFFFFFFFF then wake s 0
          else s
        | _ => s)
    | none => s)

end Sys2Proof.Machine
end

