-- ==== Sys2Proof/Machine/TrapEvents.lean ====
section
/-!
DEFINITION. What the hub does with trap records (R372 to R377): the record ring, handler tasks, double faults.
-/

namespace Sys2Proof.Machine

open Sys2Proof

/-- A handler control block (R375). -/
structure Hcb where
  entry : Word
  root : Nat
  asid : Nat
  vec : Nat
  spbase : Word
  gb : Word
  ring : Word
  ringn : Nat
  budget : Word
deriving DecidableEq, Repr

/-- The handler control block as its bytes stand. -/
def State.hcbRaw (s : State) : Hcb :=
  let bs := s.bytesNow s.hub.hcb 64
  { entry := wordAt bs 0, root := (wordAt bs 8).toNat / 4096 % 2 ^ 36 * 4096, asid := fieldAt bs 16 2, vec := fieldAt bs 18 2
    spbase := wordAt bs 24, gb := wordAt bs 32, ring := wordAt bs 40, ringn := fieldAt bs 48 4, budget := wordAt bs 56 }

/-- The handler control block, if it lies in HBM, is clean, and its fields hold to R375. -/
def State.hcbGood (s : State) : Option Hcb :=
  let h := s.hcbRaw
  let pow : Bool := (List.range 13).any (fun k => h.ringn == 2 ^ (4 + k))
  if rangeOf s.hub.hcb == some 0 && !s.marked s.hub.hcb && !s.marked (s.hub.hcb + 32) && h.entry.toNat % 32 == 0 &&
      h.spbase.toNat % 16 == 0 && h.ring.toNat % 64 == 0 && pow then some h
  else none

/-- The agent of the hub in the handler space (R376). -/
def Hcb.space (h : Hcb) : Space := { task := 0, clus := 64, root := h.root, asid := h.asid, priv := true }

/-- A double fault (R377): no handler, DOUBLE, and the vector; the region stays frozen. -/
def State.doubleFault (s : State) : State := ((s.modHub (fun h => { h with double := true })).touch 0x702 0 0).msiX s.hcbRaw.vec

/-- Records written and not consumed (R375). -/
def Hub.ringUse (h : Hub) : Nat := (h.ringTail + 2 ^ 32 - h.ringHead) % 2 ^ 32

/-- The record x written into the ring (R376 step 2); its write may fault (R377). -/
def State.writeRecord (s : State) (h : Hcb) (x : TrapRec) : State :=
  let a : Word := h.ring + BitVec.ofNat 64 (64 * (s.hub.ringTail % h.ringn))
  let s0 := s.walked h.space a 64 .write
  match s.xlateSpan h.space a 64 .write with
  | .error _ => (s0.doubleFault.modHub (fun y => { y with lost := true })).touch 0x702 0 1
  | .ok pas =>
    let s1 := (s0.storeAll (pas.zipWith (fun pa b => { addr := pa, val := b }) x.bytes) false none).hubAsk pas
    s1.modHub (fun y => { y with
      ringTail := (y.ringTail + 1) % 2 ^ 32, written := y.written ++ [(x, a, newWrites s s1)], awaiting := y.awaiting ++ [(x, a)] })

/-- The hub reaches the control block and the next place of the record ring (R399). -/
def State.ringOpen (s : State) : Bool :=
  s.pathOpen 64 s.hub.hcb && (match s.hcbGood with
    | some h => s.hubReady h.space (h.ring + BitVec.ofNat 64 (64 * (s.hub.ringTail % h.ringn))) 64 .write
    | none => true)

/-- TRAP_RECORD (R376): the first record that has reached the hub, from a cluster that reaches it (R399). -/
def execTrapRecord (s : State) : Out :=
  .next (match s.hub.records.find? (fun x => s.hubOpen x.pclus) with
    | none => s
    | some x =>
      if s.hub.trapEn && !s.ringOpen then s
      else
      let s1 := (s.findErrors [s.hub.hcb, s.hub.hcb + 32]).modHub (fun h => { h with records := h.records.erase x })
      if !s.hub.trapEn then
        (if (s.region x.pclus).frozen.isSome && s.taskIdOf x.pclus == x.task then s1.kill x.pclus else s1)
      else if (s.task x.task).handler.isSome then s1.doubleFault
      else match s.hcbGood with
        | none => s1.doubleFault
        | some h =>
          if s.hub.ringUse = h.ringn then (s.modHub (fun y => { y with full := true })).touch 0x702 0 2 else s1.writeRecord h x)

/-! ## Handlers (R376) -/

/-- The key of a handler task among the tasks, by the count of its record. -/
def handlerKey (n : Nat) : Nat := n + 2 ^ 49

/-- The job number under which the model keeps the handler space of slot h; a handler's JOBNO is 0. -/
def handlerJob (h : Nat) : Nat := 0x10000 + h

/-- The handler task of the record x at address a (R376). -/
def handlerTask (h : Hcb) (slot index : Nat) (x : TrapRec) (a : Word) (bound : List Nat) : Task :=
  { id := index, job := handlerJob slot, age := x.stamp, srcn := x.src, supg := true, eprio := 4, budget := h.budget, entry := h.entry
    regs := [(1, h.spbase + BitVec.ofNat 64 (0x4000 * (slot + 1))), (3, h.gb), (4, a), (5, x.cause), (6, BitVec.ofNat 64 x.task)
             , (7, BitVec.ofNat 64 x.pclus)]
    die := x.pclus / 16, bound := bound, handler := some slot }

/-- Creates the handler of the oldest record that has none, bound to the record's writes, while fewer than 16 are at work. -/
def State.createHandler (s : State) : State :=
  match s.hub.written, s.hcbGood with
  | (x, a, b) :: rest, some h =>
    (match (List.range 16).find? (fun k => s.hub.handlers.all (fun y => y.slot != k)) with
     | none => s
     | some slot =>
       let index := (a - h.ring).toNat / 64 % h.ringn
       let key := handlerKey (s.arrivals + 1)
       let s1 := { s with arrivals := s.arrivals + 1 }.setTask key (handlerTask h slot index x a b)
       s1.modHub (fun y => { y with
         written := rest, handlers := y.handlers ++ [{ slot := slot, task := key, rec_ := x, addr := a }]
         jobs := y.jobs.set (handlerJob slot) { root := h.root, asid := h.asid, super := true } }))
  | _, _ => s

/-- The cluster that a handler may take now (R376): one given up for it, then a free one of the faulting region's die, then
of the lowest-numbered die that has one. -/
def State.handlerSpot (s : State) (h : Handler) : Option Nat :=
  match (List.range 64).find? (fun c => (s.cluster c).favour == some h.task && (s.cluster c).task.isNone && (s.cluster c).freeAt ≤ s.now) with
  | some c => some c
  | none => (dieClusters (h.rec_.pclus / 16) ++ List.range 64).find? s.idle

/-- A waiting handler takes a cluster, or asks for one (R325, R376). -/
def State.placeHandler (s : State) (h : Handler) : State :=
  match s.handlerSpot h with
  | some c => s.install h.task c 16
  | none =>
    if s.asked h.task then s
    else match s.lowest (s.victims (h.rec_.pclus / 16)) with
      | some (c, _) => s.ask c h.task false
      | none => s

/-- HANDLER_DISPATCH (R376): in ring order, at most 16 at a time. -/
def execHandlerDispatch (s : State) : Out :=
  .next (let s1 := s.createHandler
    match s1.hub.handlers.find? (fun h => (s1.task h.task).place == .waiting) with
    | some h => s1.placeHandler h
    | none => s1)

end Sys2Proof.Machine
end

