-- ==== Sys2Proof/Machine/Dispatch.lean ====
section
/-!
DEFINITION. One arm per constructor of Instr: the call of its meaning.
-/

namespace Sys2Proof.Machine

open Sys2Proof

/-- The meaning of an instruction at the selected node, or of an event. -/
def exec (i : Instr) (s : State) : Host.Outcome State Fault Refusal :=
  match i with
  | .add f => Sys2Proof.Machine.execAdd f s
  | .sub f => Sys2Proof.Machine.execSub f s
  | .adds f => Sys2Proof.Machine.execAdds f s
  | .addsu f => Sys2Proof.Machine.execAddsu f s
  | .subs f => Sys2Proof.Machine.execSubs f s
  | .subsu f => Sys2Proof.Machine.execSubsu f s
  | .mul f => Sys2Proof.Machine.execMul f s
  | .mulh f => Sys2Proof.Machine.execMulh f s
  | .mulhu f => Sys2Proof.Machine.execMulhu f s
  | .div f => Sys2Proof.Machine.execDiv f s
  | .divu f => Sys2Proof.Machine.execDivu f s
  | .rem f => Sys2Proof.Machine.execRem f s
  | .remu f => Sys2Proof.Machine.execRemu f s
  | .neg f => Sys2Proof.Machine.execNeg f s
  | .abs f => Sys2Proof.Machine.execAbs f s
  | .min f => Sys2Proof.Machine.execMin f s
  | .max f => Sys2Proof.Machine.execMax f s
  | .minu f => Sys2Proof.Machine.execMinu f s
  | .maxu f => Sys2Proof.Machine.execMaxu f s
  | .addmin f => Sys2Proof.Machine.execAddmin f s
  | .land f => Sys2Proof.Machine.execAnd f s
  | .lor f => Sys2Proof.Machine.execOr f s
  | .lxor f => Sys2Proof.Machine.execXor f s
  | .andn f => Sys2Proof.Machine.execAndn f s
  | .lnot f => Sys2Proof.Machine.execNot f s
  | .shl f => Sys2Proof.Machine.execShl f s
  | .shr f => Sys2Proof.Machine.execShr f s
  | .sra f => Sys2Proof.Machine.execSra f s
  | .rotl f => Sys2Proof.Machine.execRotl f s
  | .clz f => Sys2Proof.Machine.execClz f s
  | .ctz f => Sys2Proof.Machine.execCtz f s
  | .popc f => Sys2Proof.Machine.execPopc f s
  | .sext f => Sys2Proof.Machine.execSext f s
  | .zext f => Sys2Proof.Machine.execZext f s
  | .bswap f => Sys2Proof.Machine.execBswap f s
  | .sel f => Sys2Proof.Machine.execSel f s
  | .ceq f => Sys2Proof.Machine.execCeq f s
  | .cne f => Sys2Proof.Machine.execCne f s
  | .clt f => Sys2Proof.Machine.execClt f s
  | .cltu f => Sys2Proof.Machine.execCltu f s
  | .cle f => Sys2Proof.Machine.execCle f s
  | .cleu f => Sys2Proof.Machine.execCleu f s
  | .ctst f => Sys2Proof.Machine.execCtst f s
  | .movi f => Sys2Proof.Machine.execMovi f s
  | .movhi f => Sys2Proof.Machine.execMovhi f s
  | .lea f => Sys2Proof.Machine.execLea f s
  | .fadd f => Sys2Proof.Machine.execFadd f s
  | .fsub f => Sys2Proof.Machine.execFsub f s
  | .fmul f => Sys2Proof.Machine.execFmul f s
  | .fmac f => Sys2Proof.Machine.execFmac f s
  | .fmin f => Sys2Proof.Machine.execFmin f s
  | .fmax f => Sys2Proof.Machine.execFmax f s
  | .fabs f => Sys2Proof.Machine.execFabs f s
  | .fneg f => Sys2Proof.Machine.execFneg f s
  | .feq f => Sys2Proof.Machine.execFeq f s
  | .flt f => Sys2Proof.Machine.execFlt f s
  | .fle f => Sys2Proof.Machine.execFle f s
  | .funord f => Sys2Proof.Machine.execFun f s
  | .fcvt f => Sys2Proof.Machine.execFcvt f s
  | .fcvti f => Sys2Proof.Machine.execFcvti f s
  | .icvtf f => Sys2Proof.Machine.execIcvtf f s
  | .frnd f => Sys2Proof.Machine.execFrnd f s
  | .frcp f => Sys2Proof.Machine.execFrcp f s
  | .frsq f => Sys2Proof.Machine.execFrsq f s
  | .fsqrt f => Sys2Proof.Machine.execFsqrt f s
  | .fexp2 f => Sys2Proof.Machine.execFexp2 f s
  | .flog2 f => Sys2Proof.Machine.execFlog2 f s
  | .ftanh f => Sys2Proof.Machine.execFtanh f s
  | .bqnt f => Sys2Proof.Machine.execBqnt f s
  | .bdeq f => Sys2Proof.Machine.execBdeq f s
  | .xsacc f => Sys2Proof.Machine.execXsacc f s
  | .xsfin f => Sys2Proof.Machine.execXsfin f s
  | .psum f => Sys2Proof.Machine.execPsum f s
  | .pmax f => Sys2Proof.Machine.execPmax f s
  | .pmin f => Sys2Proof.Machine.execPmin f s
  | .plsh f => Sys2Proof.Machine.execPlsh f s
  | .pperm f => Sys2Proof.Machine.execPperm f s
  | .pbcast f => Sys2Proof.Machine.execPbcast f s
  | .pext f => Sys2Proof.Machine.execPext f s
  | .pins f => Sys2Proof.Machine.execPins f s
  | .pjoin f => Sys2Proof.Machine.execPjoin f s
  | .psplit f => Sys2Proof.Machine.execPsplit f s
  | .plen f => Sys2Proof.Machine.execPlen f s
  | .pmask f => Sys2Proof.Machine.execPmask f s
  | .lutx f => Sys2Proof.Machine.execLutx f s
  | .fsmst f => Sys2Proof.Machine.execFsmst f s
  | .bext f => Sys2Proof.Machine.execBext f s
  | .bdep f => Sys2Proof.Machine.execBdep f s
  | .hashx f => Sys2Proof.Machine.execHashx f s
  | .mma f => Sys2Proof.Machine.execMma f s
  | .ldst f => Sys2Proof.Machine.execLdst f s
  | .mswap f => Sys2Proof.Machine.execMswap f s
  | .mzero f => Sys2Proof.Machine.execMzero f s
  | .mdrain f => Sys2Proof.Machine.execMdrain f s
  | .tstat f => Sys2Proof.Machine.execTstat f s
  | .tset f => Sys2Proof.Machine.execTset f s
  | .mov f => Sys2Proof.Machine.execMov f s
  | .mov4 f => Sys2Proof.Machine.execMov4 f s
  | .steer f => Sys2Proof.Machine.execSteer f s
  | .gate f => Sys2Proof.Machine.execGate f s
  | .merge f => Sys2Proof.Machine.execMerge f s
  | .mrga f => Sys2Proof.Machine.execMrga f s
  | .carry f => Sys2Proof.Machine.execCarry f s
  | .invar f => Sys2Proof.Machine.execInvar f s
  | .loopgen f => Sys2Proof.Machine.execLoopgen f s
  | .repeatN f => Sys2Proof.Machine.execRepeat f s
  | .cand f => Sys2Proof.Machine.execCand f s
  | .cor f => Sys2Proof.Machine.execCor f s
  | .cnot f => Sys2Proof.Machine.execCnot f s
  | .cxor f => Sys2Proof.Machine.execCxor f s
  | .cdat f => Sys2Proof.Machine.execCdat f s
  | .split f => Sys2Proof.Machine.execSplit f s
  | .omerge f => Sys2Proof.Machine.execOmerge f s
  | .sink f => Sys2Proof.Machine.execSink f s
  | .ld f => Sys2Proof.Machine.execLd f s
  | .st f => Sys2Proof.Machine.execSt f s
  | .ldp f => Sys2Proof.Machine.execLdp f s
  | .stp f => Sys2Proof.Machine.execStp f s
  | .ldfe f => Sys2Proof.Machine.execLdfe f s
  | .stfe f => Sys2Proof.Machine.execStfe f s
  | .lnemp f => Sys2Proof.Machine.execLnemp f s
  | .lnful f => Sys2Proof.Machine.execLnful f s
  | .amo f => Sys2Proof.Machine.execAmo f s
  | .cas f => Sys2Proof.Machine.execCas f s
  | .fence f => Sys2Proof.Machine.execFence f s
  | .pref f => Sys2Proof.Machine.execPref f s
  | .rmw f => Sys2Proof.Machine.execRmw f s
  | .sbind f => Sys2Proof.Machine.execSbind f s
  | .sfree f => Sys2Proof.Machine.execSfree f s
  | .tcopy f => Sys2Proof.Machine.execTcopy f s
  | .tgath f => Sys2Proof.Machine.execTgath f s
  | .tscat f => Sys2Proof.Machine.execTscat f s
  | .board f => Sys2Proof.Machine.execBoard f s
  | .migr f => Sys2Proof.Machine.execMigr f s
  | .msend f => Sys2Proof.Machine.execMsend f s
  | .swait f => Sys2Proof.Machine.execSwait f s
  | .ssig f => Sys2Proof.Machine.execSsig f s
  | .sset f => Sys2Proof.Machine.execSset f s
  | .kick f => Sys2Proof.Machine.execKick f s
  | .rspeed f => Sys2Proof.Machine.execRspeed f s
  | .repl f => Sys2Proof.Machine.execRepl f s
  | .exit f => Sys2Proof.Machine.execExit f s
  | .exiti f => Sys2Proof.Machine.execExiti f s
  | .call f => Sys2Proof.Machine.execCall f s
  | .calli f => Sys2Proof.Machine.execCalli f s
  | .ret f => Sys2Proof.Machine.execRet f s
  | .trap f => Sys2Proof.Machine.execTrap f s
  | .yield f => Sys2Proof.Machine.execYield f s
  | .brk f => Sys2Proof.Machine.execBrk f s
  | .sysrd f => Sys2Proof.Machine.execSysrd f s
  | .syswr f => Sys2Proof.Machine.execSyswr f s
  | .tsget f => Sys2Proof.Machine.execTsget f s
  | .tret f => Sys2Proof.Machine.execTret f s
  | .tlbinv f => Sys2Proof.Machine.execTlbinv f s
  | .keyrev f => Sys2Proof.Machine.execKeyrev f s
  | .ctxsv f => Sys2Proof.Machine.execCtxsv f s
  | .ctxld f => Sys2Proof.Machine.execCtxld f s
  | .cfgld f => Sys2Proof.Machine.execCfgld f s
  | .linkq f => Sys2Proof.Machine.execLinkq f s
  | .evwait f => Sys2Proof.Machine.execEvwait f s
  | .operandDiscard c n => Sys2Proof.Machine.execOperandDiscard c n s
  | .shadowUsable c => Sys2Proof.Machine.execShadowUsable c s
  | .teardownInjection c => Sys2Proof.Machine.execTeardownInjection c s
  | .nodeRetire c n => Sys2Proof.Machine.execNodeRetire c n s
  | .nodeFlip c n => Sys2Proof.Machine.execNodeFlip c n s
  | .purgeMarker c n => Sys2Proof.Machine.execPurgeMarker c n s
  | .blockBoundary c => Sys2Proof.Machine.execBlockBoundary c s
  | .blockStart c => Sys2Proof.Machine.execBlockStart c s
  | .awaitRead c e => Sys2Proof.Machine.execAwaitRead c e s
  | .popDelivery c e => Sys2Proof.Machine.execPopDelivery c e s
  | .peekDelivery c e => Sys2Proof.Machine.execPeekDelivery c e s
  | .gateDrop c e => Sys2Proof.Machine.execGateDrop c e s
  | .gateHold c e => Sys2Proof.Machine.execGateHold c e s
  | .streamFetch c p => Sys2Proof.Machine.execStreamFetch c p s
  | .portPush c e => Sys2Proof.Machine.execPortPush c e s
  | .squeezePush c e => Sys2Proof.Machine.execSqueezePush c e s
  | .memoryAccessPerform c k age => Sys2Proof.Machine.execMemoryAccessPerform c k age s
  | .fullEmptyWake line => Sys2Proof.Machine.execFullEmptyWake line s
  | .parkRetry c k => Sys2Proof.Machine.execParkRetry c k s
  | .tableWalk c k => Sys2Proof.Machine.execTableWalk c k s
  | .mmaComplete c cell => Sys2Proof.Machine.execMmaComplete c cell s
  | .shadowLoaded c cell => Sys2Proof.Machine.execShadowLoaded c cell s
  | .mdrainComplete c k => Sys2Proof.Machine.execMdrainComplete c k s
  | .engineWait c k => Sys2Proof.Machine.execEngineWait c k s
  | .tileClaim c k => Sys2Proof.Machine.execTileClaim c k s
  | .descriptorRead c k => Sys2Proof.Machine.execDescriptorRead c k s
  | .byteModeSignal c k => Sys2Proof.Machine.execByteModeSignal c k s
  | .engineCompletion c k => Sys2Proof.Machine.execEngineCompletion c k s
  | .inboxSend c k => Sys2Proof.Machine.execInboxSend c k s
  | .inboxPublish c k => Sys2Proof.Machine.execInboxPublish c k s
  | .migratePage c k => Sys2Proof.Machine.execMigratePage c k s
  | .trapRecord => Sys2Proof.Machine.execTrapRecord s
  | .handlerDispatch => Sys2Proof.Machine.execHandlerDispatch s
  | .trapHkill value => Sys2Proof.Machine.execTrapHkill value s
  | .budgetExpiry c => Sys2Proof.Machine.execBudgetExpiry c s
  | .probeSend c n slot => Sys2Proof.Machine.execProbeSend c n slot s
  | .probeHop k => Sys2Proof.Machine.execProbeHop k s
  | .forcedRecoveryPoint c => Sys2Proof.Machine.execForcedRecoveryPoint c s
  | .softError c unit cell slot => Sys2Proof.Machine.execSoftError c unit cell slot s
  | .umpireCompare c k => Sys2Proof.Machine.execUmpireCompare c k s
  | .umpireTimeout c k => Sys2Proof.Machine.execUmpireTimeout c k s
  | .jqDoor value => Sys2Proof.Machine.execJqDoor value s
  | .jobLoad => Sys2Proof.Machine.execJobLoad s
  | .taskEnd t => Sys2Proof.Machine.execTaskEnd t s
  | .dispatch c => Sys2Proof.Machine.execDispatch c s
  | .eprioPromotion t => Sys2Proof.Machine.execEprioPromotion t s
  | .preemptionRequest c t => Sys2Proof.Machine.execPreemptionRequest c t s
  | .preemptionSnapshot c => Sys2Proof.Machine.execPreemptionSnapshot c s
  | .lapStart => Sys2Proof.Machine.execLapStart s
  | .tileInject => Sys2Proof.Machine.execTileInject s
  | .boardingRegistration c k => Sys2Proof.Machine.execBoardingRegistration c k s
  | .tileCapture c bad => Sys2Proof.Machine.execTileCapture c bad s
  | .windowClose c k => Sys2Proof.Machine.execWindowClose c k s
  | .registerWrite sysno value link => Sys2Proof.Machine.execRegisterWrite sysno value link s
  | .seedWrite t value => Sys2Proof.Machine.execSeedWrite t value s
  | .linkRetrainGo m => Sys2Proof.Machine.execLinkRetrainGo m s
  | .linkRetrainEnd m badLanes badSpares => Sys2Proof.Machine.execLinkRetrainEnd m badLanes badSpares s
  | .flitReceive m seqno good lane => Sys2Proof.Machine.execFlitReceive m seqno good lane s
  | .linkqComplete c k => Sys2Proof.Machine.execLinkqComplete c k s
  | .ideRollover f => Sys2Proof.Machine.execIdeRollover f s
  | .ideAutoRollover f => Sys2Proof.Machine.execIdeAutoRollover f s
  | .ideSlotRetire f => Sys2Proof.Machine.execIdeSlotRetire f s
  | .macFailure f => Sys2Proof.Machine.execMacFailure f s
  | .drawerSlotPlace f k => Sys2Proof.Machine.execDrawerSlotPlace f k s
  | .drawerResponse f k => Sys2Proof.Machine.execDrawerResponse f k s
  | .peerRequest f ch addr key => Sys2Proof.Machine.execPeerRequest f ch addr key s
  | .linkStall f k => Sys2Proof.Machine.execLinkStall f k s
  | .slotTableSwitch => Sys2Proof.Machine.execSlotTableSwitch s
  | .channelCalibration f ch => Sys2Proof.Machine.execChannelCalibration f ch s
  | .channelDown f ch => Sys2Proof.Machine.execChannelDown f ch s
  | .channelRelock f ch => Sys2Proof.Machine.execChannelRelock f ch s
  | .tlbinvComplete c k => Sys2Proof.Machine.execTlbinvComplete c k s
  | .keyrevAck c k => Sys2Proof.Machine.execKeyrevAck c k s
  | .ctxsvComplete c k => Sys2Proof.Machine.execCtxsvComplete c k s
  | .ctxldComplete c k => Sys2Proof.Machine.execCtxldComplete c k s
  | .evwaitWake c k => Sys2Proof.Machine.execEvwaitWake c k s
  | .hostAccess op => Sys2Proof.Machine.execHostAccess op s
  | .patrolScrub addr bad => Sys2Proof.Machine.execPatrolScrub addr bad s
  | .telemetrySample => Sys2Proof.Machine.execTelemetrySample s
  | .throttle c => Sys2Proof.Machine.execThrottle c s
  | .coldReset fail => Sys2Proof.Machine.execColdReset fail s
  | .attestationRequest nonce => Sys2Proof.Machine.execAttestationRequest nonce s
  | .modcAdvance c => Sys2Proof.Machine.execModcAdvance c s
  | .cfgldComplete c k => Sys2Proof.Machine.execCfgldComplete c k s
  | .clusterPowerGate c => Sys2Proof.Machine.execClusterPowerGate c s

end Sys2Proof.Machine
end

