-- ==== Sys2Proof/Machine/Sweep.lean ====
section
/-!
DEFINITION. The model's own clock: a cycle has six stages, and when the agenda is empty the next stage lists every move that
the package could make in it by itself (log entry 1). Each move guards itself, so one that cannot be made leaves the state as it is.
-/

namespace Sys2Proof.Machine

open Sys2Proof

/-- A list put in order by a key, in the order it has among equal keys. -/
def insertBy {α : Type} (key : α → Nat) (x : α) : List α → List α
  | [] => [x]
  | y :: t => if key x ≤ key y then x :: y :: t else y :: insertBy key x t

def orderBy {α : Type} (key : α → Nat) (l : List α) : List α := l.foldr (insertBy key) []

/-- Memory and engine nodes, which share a unit of their cell (R18). -/
def sharesUnit (w : Word) : Bool :=
  let op := bitsOf w 63 56
  (0xA0 ≤ op && op ≤ 0xAC) || (0xC0 ≤ op && op ≤ 0xCD)

/-- The cycle in which the operands of a node became complete (R18). -/
def Node.completeAt (n : Node) : Nat :=
  let t (q : Queue) : Nat := match q.toks with
    | x :: _ => x.at_
    | [] => 0
  Nat.max (Nat.max (t n.l) (t n.r)) (Nat.max (t n.p) n.setAt)

/-- The node moves of a region: memory and engine nodes behind the others, those whose operands became complete earliest first,
then the lowest slot (R18). -/
def Region.nodeMoves (r : Region) (c : Nat) : List Move :=
  let l := orderBy (·.1) r.words
  let first := l.filter (fun x => !sharesUnit x.2)
  let shared := orderBy (fun x => (r.node x.1).completeAt) (l.filter (fun x => sharesUnit x.2))
  (first ++ shared).map (fun x => .node c x.1)

/-- Events of the read entries of a region (R215, R217). -/
def Region.entryEvents (r : Region) (c : Nat) : List Instr :=
  match r.img with
  | none => []
  | some im => (List.zip (List.range im.reads.length) im.reads).filterMap (fun x => match x.2.mode with
      | .await => some (.awaitRead c x.1)
      | .pop => some (.popDelivery c x.1)
      | .peek => some (.peekDelivery c x.1)
      | .gateDrop => some (.gateDrop c x.1)
      | .gateHold => some (.gateHold c x.1)
      | _ => none)

/-- Events of the port write entries of a region (R220). -/
def Region.pushEvents (r : Region) (c : Nat) : List Instr :=
  match r.img with
  | none => []
  | some im => (List.range im.writes.length).flatMap (fun e =>
      if (r.portWrite e).isSome then [.portPush c e, .squeezePush c e] else [])

/-- The event of the step that a command stands at (R180). -/
def Cmd.event (q : Cmd) (c : Nat) : List Instr :=
  match q.step with
  | 2 => [.engineWait c q.id]
  | 3 => [.tileClaim c q.id]
  | 4 => [.descriptorRead c q.id]
  | 5 => (match q.ins with
      | .board _ => [.boardingRegistration c q.id]
      | .msend _ => if q.done = 0 then [.inboxSend c q.id] else [.inboxPublish c q.id]
      | .migr _ => [.migratePage c q.id]
      | i => if byteMode i then [.byteModeSignal c q.id, .engineCompletion c q.id] else [.engineCompletion c q.id])
  | _ => [.engineCompletion c q.id]

/-- The event by which a system operation completes (R206 to R211). -/
def SysOp.event (x : SysOp) (c : Nat) : List Instr :=
  match x.ins with
  | .tlbinv _ => [.tlbinvComplete c x.id]
  | .keyrev _ => [.keyrevAck c x.id]
  | .ctxsv _ => [.ctxsvComplete c x.id]
  | .ctxld _ => [.ctxldComplete c x.id]
  | .cfgld _ => [.cfgldComplete c x.id]
  | .linkq _ => [.linkqComplete c x.id]
  | .evwait _ => [.evwaitWake c x.id]
  | _ => []

/-- Events of the dot blocks of a task (R170 to R175). -/
def Task.dotEvents (t : Task) (c : Nat) : List Instr :=
  t.dots.flatMap (fun d => d.2.ops.flatMap (fun o => match o.kind with
    | 0 => [.mmaComplete c d.1]
    | 1 => [.shadowLoaded c d.1]
    | 2 => [.mdrainComplete c d.1]
    | _ => []))

/-- Events of the accesses of a region (R150, R160, R341). -/
def State.accessEvents (s : State) (c : Nat) : List Instr :=
  (s.region c).accesses.flatMap (fun a =>
    if a.retry.isSome then [.parkRetry c a.id, .memoryAccessPerform c a.id s.lag]
    else if a.parked.isSome then
      (match s.accessHome c a 0 with
       | .ok (pa, _) => [.fullEmptyWake (pa / 128), .memoryAccessPerform c a.id s.lag]
       | .error _ => [])
    else [.tableWalk c a.id, .memoryAccessPerform c a.id s.lag])

/-- A purge marker stands at the head of some queue of a node. -/
def Node.holdsPurge (n : Node) : Bool := [n.l, n.r, n.p].any (fun q => (q.toks.take 1).any (fun t => t.tok == .mark .purge))

/-- Events of the wave in a region (R224, R231). -/
def Region.waveEvents (r : Region) (c : Nat) : List Instr :=
  let l := (orderBy (·.1) r.words).map (·.1)
  (l.filter (fun i => (r.node i).holdsPurge)).map (fun i => .purgeMarker c i) ++
    (if r.inject.isNone then [] else l.map (fun i => .nodeFlip c i) ++ l.map (fun i => .nodeRetire c i))

/-- Queues of a region whose head has stood long enough for a probe (R331). -/
def State.probeEvents (s : State) (c : Nat) : List Instr :=
  if s.hub.probeDelay = 0 then []
  else (s.region c).nodes.flatMap (fun x => [0, 1, 2].filterMap (fun k =>
    if s.hub.probeDelay ≤ (x.2.queue k).stood then some (.probeSend c x.1 k) else none))

/-- Events of a far die (R349, R393, R400, R401). -/
def State.farEvents (s : State) (f : Nat) : List Instr :=
  (s.far f).reqs.flatMap (fun r => [.drawerResponse f r.id, .drawerSlotPlace f r.id, .linkStall f r.id]) ++
    (s.far f).owes.map (fun x => .peerRequest f x.ch 0 0x10000) ++ [.ideAutoRollover f, .ideSlotRetire f] ++
    ((List.range 384).filter (fun ch => (s.far f).calAt.get 0 ch + 2 ^ 25 ≤ s.now)).map (fun ch => .channelCalibration f ch)

/-- Events of the scheduler (R314, R316, R322 to R326). -/
def State.schedEvents (s : State) : List Instr :=
  [.trapRecord, .handlerDispatch, .jobLoad] ++
    (s.tasks.filter (fun x => x.2.ending)).map (fun x => .taskEnd x.1) ++
    (if s.tasks.any (fun x => x.2.queued) || s.clusters.any (fun x => x.2.favour.isSome) then
      ((List.range 64).filter (fun c => (s.cluster c).task.isNone)).map (fun c => .dispatch c) else []) ++
    (s.tasks.filter (fun x => x.2.queued)).flatMap (fun x => .eprioPromotion x.1 :: (match s.victimFor x.1 with
      | some (c, _) => [.preemptionRequest c x.1]
      | none => []))

/-- Events of the ring (R282 to R291). -/
def State.ringEvents (s : State) : List Instr :=
  (if s.ring.running || s.ring.en then [.lapStart, .tileInject] else if s.ring.tiles.isEmpty then [] else [.tileInject]) ++
    s.clusters.flatMap (fun x => if x.2.windows.isEmpty && x.2.copies.isEmpty then []
      else .tileCapture x.1 false :: x.2.windows.map (fun w => .windowClose x.1 w.cmd))

/-- Events of a region that bring tokens to its nodes: work of its units and streams that comes to its end in this cycle. -/
def State.unitEvents (s : State) (c : Nat) : List Instr :=
  let k := s.cluster c
  k.eq.flatMap (fun q => q.event c) ++ k.region.sysops.flatMap (fun x => x.event c) ++ (s.taskOf c).dotEvents c ++
    s.accessEvents c ++ (s.taskOf c).ports.map (fun p => .streamFetch c p.1)

/-- Events of the sequencer at the start of a cycle: S of a block, and I (R213, R223). -/
def startEvents (c : Nat) : List Instr := [.shadowUsable c, .blockStart c, .teardownInjection c]

/-- Events of a region before its nodes fire: the cycle itself with its permits (R24), then the entries of the running block. -/
def State.regionEvents (s : State) (c : Nat) : List Instr :=
  .modcAdvance c :: ((s.region c).entryEvents c ++ (s.region c).pushEvents c)

/-- Nodes that discard their operand sets, which takes no issue slot (R27). -/
def State.discards (s : State) (c : Nat) : List Move :=
  ((orderBy (·.1) (s.region c).words).filter (fun x => match s.planAt c x.1 with
    | .discard _ => true
    | _ => false)).map (fun x => .node c x.1)

/-- Events of a region after its nodes have fired. -/
def State.laterEvents (s : State) (c : Nat) : List Instr :=
  (s.region c).waveEvents c ++ [.blockBoundary c] ++ s.probeEvents c ++ [.forcedRecoveryPoint c, .preemptionSnapshot c]

/-- The items that the umpires hold, latest first (R391, R392). -/
def State.umpireEvents (s : State) : List Instr :=
  ((List.range s.hub.items.length).reverse).flatMap (fun k => s.clusters.flatMap (fun x =>
    if (s.taskOf x.1).twin.isSome then [.umpireCompare x.1 k, .umpireTimeout x.1 k] else []))

/-- Events of the package as a whole at the start of a cycle. -/
def State.firstEvents (s : State) : List Instr :=
  .slotTableSwitch :: (s.links.filter (fun l => l.2.training && l.2.trainEnd ≤ s.now)).map (fun l => .linkRetrainEnd l.1 0 0) ++
    (if s.now % 2 ^ 20 = 0 then [.telemetrySample] else []) ++ s.ringEvents

/-- The clusters whose regions hold tasks. -/
def State.busyClusters (s : State) : List Nat := (s.clusters.filter (fun x => x.2.task.isSome)).map (·.1)

/-- Events of the package as a whole at the end of a cycle. -/
def State.lastEvents (s : State) : List Instr :=
  ((List.range s.hub.probes.length).reverse).map (fun k => .probeHop k) ++ s.farEvents 0 ++ s.farEvents 1 ++ s.umpireEvents ++
    s.schedEvents ++ s.busyClusters.map (fun c => .budgetExpiry c)

/-- The last stage of a cycle. -/
def lastStage : Nat := 5

/-- The moves of the stage at hand: the starts of blocks; results that come in; the cycle of each region and its entries;
discards; firings; the wave, the boundaries and the package. Each stage sees what those before it have done. -/
def State.sweep (s : State) : List Move :=
  let cs := s.busyClusters
  let ev (l : List Instr) : List Move := l.map .event
  match s.stage with
  | 0 => ev (s.firstEvents ++ cs.flatMap startEvents)
  | 1 => ev (s.clusters.flatMap (fun x => s.unitEvents x.1))
  | 2 => ev (cs.flatMap s.regionEvents)
  | 3 => cs.flatMap s.discards
  | 4 => cs.flatMap (fun c => (s.region c).nodeMoves c)
  | _ => ev (cs.flatMap s.laterEvents ++ s.lastEvents)

/-- The next stage, or the next cycle, and how far back its reads look. -/
def State.tick (s : State) : State :=
  let s1 := if s.stage < lastStage then { s with stage := s.stage + 1 } else { s with now := s.now + 1, stage := 0, touched := [] }
  let s2 := { s1 with lag := Config.lag (6 * s1.now + s1.stage) }
  { s2 with agenda := s2.sweep }

end Sys2Proof.Machine
end

