-- ==== Sys2Proof/Machine/Step.lean ====
section
/-!
DEFINITION. One step of the package: the first move of the agenda, or the next stage of the cycle (log entry 1).
-/

namespace Sys2Proof.Machine

open Sys2Proof

/-- One step; with nothing left on the agenda, the next stage. A slot that has become empty does nothing, and neither does an event
that names no unit of the package (log entry 53); a word that does not decode stops. -/
def step (s : State) : Host.Outcome State Fault Refusal :=
  match s.agenda with
  | [] => .next s.tick
  | .node c i :: rest =>
    match s.fetch c i with
    | none => .next { s with agenda := rest }
    | some w => (match decode w with
        | .error _ => .fault .undecodable
        | .ok ins => exec ins { s with agenda := rest, sel := (c, i) })
  | .event e :: rest =>
    if e.opcode = 0 ∧ e.wellFormed = true then exec e { s with agenda := rest } else .next { s with agenda := rest }

/-- The instruction `w` placed in slot 0 of cluster 0, with a task in the region, tokens in its operand queues, its phase at
hand, and its firing as the next move (log entry 10). -/
def State.withFetchWord (s : State) (nbits w : Nat) : State :=
  let word : Word := BitVec.ofNat 64 (w % 2 ^ nbits)
  let one : QTok := { tok := .pkt .i64 1 false 1 }
  let n : Node := { l := { toks := [one] }, r := { toks := [one] }, p := { toks := [one] } }
  { s with
    tasks := s.tasks.set 1 { id := 1, place := .region 0 }
    clusters := s.clusters.set 0 { (s.cluster 0) with
      task := some 1
      region := { img := some { nins := 1, nrd := 0, nwr := 0, ii := 4, nex := 1, smask := 0, priv := true, rpt := false
                                strict := false, save := 0, nlf := 0, reads := [], writes := [], luts := [], words := [word] }
                  modc := (w / 2 ^ 22) % 4
                  words := [(0, word)]
                  nodes := [(0, n)] } }
    agenda := [.node 0 0] }

end Sys2Proof.Machine
end

