-- ==== Sys2Proof/Safety.lean ====
section
/-!
DEFINITION. The terms in which statements about the machine are made: what a safe state is, when a node can fire, and the
arithmetic of the manual written on bit vectors.
-/

namespace Sys2Proof.Machine

open Sys2Proof

/-- Memory stands in its canonical form. -/
abbrev State.memOk (s : State) : Prop := Memory.wf s.mem = true

/-- The writes of the home order are numbered from the newest down, each at most the last number given (R261). -/
abbrev State.histOk (s : State) : Prop :=
  s.hist.Pairwise (fun w v => v.seq < w.seq) ∧ ∀ w ∈ s.hist, w.seq ≤ s.wseq

/-! ## A node that can fire -/

/-- Every one of some targets accepts one more token (R22, R25). -/
abbrev State.room (s : State) (ts : List Target) : Prop := ∀ t ∈ ts, s.selRegion.accepts s.now t = true

/-- The selected node can fire a format-A word in unit u with the operands h (R26): it is live, its unit is free, every slot it
uses has an operand, the predicate holds, its phase is at hand, and its targets accept. -/
structure ReadyA (f : FmtA) (u : Nat) (uL uR uP : Bool) (h : Heads) (s : State) : Prop where
  live : s.live = true
  unit : s.unitFree u = true
  heads : s.heads f.pm uL uR uP = some h
  pass : h.pass = true
  phase : s.phase f.ph = true
  room : s.room [f.t0, f.t1]

/-- The selected node can fire a word without a phase with the operands h, its targets being ts (R26, R127). -/
structure Ready (pm : Pm) (uL uR uP : Bool) (ts : List Target) (h : Heads) (s : State) : Prop where
  live : s.live = true
  heads : s.heads pm uL uR uP = some h
  pass : h.pass = true
  room : s.room ts

/-- The state after a format-A firing of unit u: its operands gone, the tokens `outs` delivered after `lat` cycles, the unit busy
for `busy` cycles, the node's state and generator written where they are given (R22, R23, R45, R96). -/
def State.ceFiredTo (s : State) (u lat busy : Nat) (h : Heads) (outs : List (Target × Token)) (st : Option NodeState)
    (gen : Option Word) : State :=
  s.commit { pops := h.slots, outs := outs, lat := lat, busy := some (u, busy), st := st, gen := gen }

/-- The same with one token on both targets. -/
def State.ceFired (s : State) (f : FmtA) (u lat busy : Nat) (h : Heads) (tok : Token) (gen : Option Word) : State :=
  s.ceFiredTo u lat busy h [(f.t0, tok), (f.t1, tok)] none gen

/-- The packet of some elements: poisoned by the first poisoned operand, else freshly by `cause`, else clean (R30, R32). -/
def State.packet (s : State) (ty : Ty) (h : Heads) (cause : Option Nat) (es : List Nat) : Token :=
  match h.origin, cause with
  | some o, _ => badPkt ty es.length o
  | none, some k => badPkt ty es.length (originOf s.sel.1 s.sel.2 k s.now)
  | none, none => mkPkt ty es

/-- The control token of a comparison: VAL is 0 where it is poisoned (R104, R110). -/
def State.verdict (s : State) (h : Heads) (cause : Option Nat) (v : Bool) : Token :=
  match h.origin, cause with
  | some o, _ => .ctl false true o
  | none, some k => .ctl false true (originOf s.sel.1 s.sel.2 k s.now)
  | none, none => .ctl v false 0

/-! ## Arithmetic on bit vectors (R35, R99 to R106) -/

/-- The nearest value of n signed bits, and of n unsigned bits. -/
def satS (n : Nat) (x : Int) : BitVec n := BitVec.ofInt n (max (-(2 ^ (n - 1))) (min (2 ^ (n - 1) - 1) x))
def satU (n : Nat) (x : Int) : BitVec n := BitVec.ofInt n (max 0 (min (2 ^ n - 1) x))

/-- An exact result kept in n bits: saturated under SAT, else wrapped. -/
def kept (f : FmtA) (n : Nat) (x : Int) : BitVec n := if f.md.getLsbD 2 then satS n x else BitVec.ofInt n x

/-- The two-operand integer instructions of R99 and R101: fields, latency, value of a lane. -/
def intTwo : Instr → Option (FmtA × Nat × ((n : Nat) → BitVec n → BitVec n → BitVec n))
  | .add f => some (f, 1, fun _ a b => a + b)
  | .sub f => some (f, 1, fun _ a b => a - b)
  | .adds f => some (f, 1, fun n a b => satS n (a.toInt + b.toInt))
  | .addsu f => some (f, 1, fun n a b => satU n ((a.toNat : Int) + b.toNat))
  | .subs f => some (f, 1, fun n a b => satS n (a.toInt - b.toInt))
  | .subsu f => some (f, 1, fun n a b => satU n ((a.toNat : Int) - b.toNat))
  | .mul f => some (f, 3, fun n a b => kept f n (a.toInt * b.toInt))
  | .mulh f => some (f, 3, fun n a b => BitVec.ofInt n (a.toInt * b.toInt / 2 ^ n))
  | .mulhu f => some (f, 3, fun n a b => BitVec.ofNat n (a.toNat * b.toNat / 2 ^ n))
  | .min f => some (f, 1, fun _ a b => if a.sle b then a else b)
  | .max f => some (f, 1, fun _ a b => if a.sle b then b else a)
  | .minu f => some (f, 1, fun _ a b => if a ≤ b then a else b)
  | .maxu f => some (f, 1, fun _ a b => if a ≤ b then b else a)
  | .land f => some (f, 1, fun _ a b => a &&& b)
  | .lor f => some (f, 1, fun _ a b => a ||| b)
  | .lxor f => some (f, 1, fun _ a b => a ^^^ b)
  | .andn f => some (f, 1, fun _ a b => a &&& ~~~b)
  | .shl f => some (f, 1, fun n a b => if f.md.getLsbD 2 then satS n (a.toInt * 2 ^ b.toNat) else a <<< b)
  | .shr f => some (f, 1, fun _ a b => a >>> b)
  | .sra f => some (f, 1, fun _ a b => a.sshiftRight b.toNat)
  | .rotl f => some (f, 1, fun _ a b => a.rotateLeft b.toNat)
  | _ => none

/-- The bytes of a value in reverse order. -/
def bytesBack (n : Nat) (a : BitVec n) : BitVec n :=
  BitVec.ofNat n ((List.range (n / 8)).foldl (fun acc k => acc * 256 + (a >>> (8 * k)).toNat % 256) 0)

/-- The one-operand integer instructions of R99, R102, R105 and R106: fields, value of a lane. -/
def intOne : Instr → Option (FmtA × ((n : Nat) → BitVec n → BitVec n))
  | .neg f => some (f, fun n a => kept f n (-a.toInt))
  | .abs f => some (f, fun n a => kept f n (if a.toInt < 0 then -a.toInt else a.toInt))
  | .lnot f => some (f, fun _ a => ~~~a)
  | .clz f => some (f, fun _ a => a.clz)
  | .ctz f => some (f, fun _ a => a.ctz)
  | .popc f => some (f, fun _ a => a.cpop)
  | .sext f => some (f, fun n a => (a.setWidth (bitsOf f.imm 6 0)).signExtend n)
  | .zext f => some (f, fun n a => (a.setWidth (bitsOf f.imm 6 0)).setWidth n)
  | .bswap f => some (f, bytesBack)
  | .movhi f => some (f, fun n a => a <<< 21 ||| f.imm.setWidth n)
  | _ => none

/-- A lane of a two-operand result, and of a one-operand one. -/
def lane2 (n : Nat) (op : (n : Nat) → BitVec n → BitVec n → BitVec n) (a b : Nat) : Nat :=
  (op n (BitVec.ofNat n a) (BitVec.ofNat n b)).toNat
def lane1 (n : Nat) (op : (n : Nat) → BitVec n → BitVec n) (a : Nat) : Nat := (op n (BitVec.ofNat n a)).toNat

/-- The quotients and remainders of R99, for a divisor that is not 0. -/
def intDiv : Instr → Option (FmtA × ((n : Nat) → BitVec n → BitVec n → BitVec n))
  | .div f => some (f, fun n a b => kept f n (a.toInt.tdiv b.toInt))
  | .divu f => some (f, fun _ a b => a / b)
  | .rem f => some (f, fun n a b => BitVec.ofInt n (a.toInt - b.toInt * a.toInt.tdiv b.toInt))
  | .remu f => some (f, fun _ a b => a % b)
  | _ => none

/-- The comparisons of R104. -/
def intCmp : Instr → Option (FmtA × ((n : Nat) → BitVec n → BitVec n → Bool))
  | .ceq f => some (f, fun _ a b => a == b)
  | .cne f => some (f, fun _ a b => a != b)
  | .clt f => some (f, fun _ a b => a.slt b)
  | .cltu f => some (f, fun _ a b => a.ult b)
  | .cle f => some (f, fun _ a b => a.sle b)
  | .cleu f => some (f, fun _ a b => a.ule b)
  | .ctst f => some (f, fun _ a b => a &&& b != 0)
  | _ => none

/-- fit(a + k) bounded from above by c (R100). -/
def addBounded (f : FmtA) (n : Nat) (a k c : BitVec n) : BitVec n :=
  let x := kept f n (a.toInt + k.toInt)
  if x.sle c then x else c

/-! ## Floating point: one rounding a lane (R45, R46) -/

/-- The 24 bits that the k-th rounding step of a firing draws, and the generator after n steps; nothing under other modes. -/
def drawn24 (mode g k : Nat) : Nat := if mode = 5 then Num.genBits (Nat.iterate Num.genNext (k + 1) g) else 0
def stepped (mode g n : Nat) : Option Word := if mode = 5 then some (BitVec.ofNat 64 (Nat.iterate Num.genNext n g)) else none

/-- The lanes of some exact values: each rounded once to ty under MD, with the draw of its place. -/
def State.rounded (s : State) (f : FmtA) (ty : Ty) (vs : List Num.FVal) : List Nat :=
  vs.mapIdx (fun k v => Num.roundTo ty (s.mode f.md) (f.md.getLsbD 2) (f.md.getLsbD 1) (drawn24 (s.mode f.md) s.gen k) v)

/-- CAUSE 0x5 where PX is set and some lane was invalid (R48). -/
def invalid5 (f : FmtA) (bad : List Bool) : Option Nat := if f.md.getLsbD 0 && bad.any id then some 5 else none

/-- The exact results of R107, with their invalid flags. -/
def floatTwo : Instr → Option (FmtA × (Nat → Num.FVal → Num.FVal → Num.FVal × Bool))
  | .fadd f => some (f, Num.addF)
  | .fsub f => some (f, fun m a b => Num.addF m a (Num.negF b))
  | .fmul f => some (f, fun _ a b => Num.mulF a b)
  | _ => none

/-- The comparisons of R110. -/
def floatCmp : Instr → Option (FmtA × (Num.FVal → Num.FVal → Bool))
  | .feq f => some (f, Num.eqF)
  | .flt f => some (f, Num.ltF)
  | .fle f => some (f, fun a b => Num.ltF a b || Num.eqF a b)
  | .funord f => some (f, fun a b => Num.isNan a || Num.isNan b)
  | _ => none

/-- What R114's table gives for the special inputs: the value and whether it is invalid; `none` for an input it leaves to the
function itself, 1 for `frcp`. -/
def specialCase : Instr → Num.FVal → Option (Num.FVal × Bool)
  | .frcp _, .inf n => some (.fin n 0 0, false)
  | .frcp _, .fin n 0 _ => some (.inf n, false)
  | .frsq _, .inf n => some (if n then (.nan false, true) else (.fin false 0 0, false))
  | .frsq _, .fin n 0 _ => some (.inf n, false)
  | .frsq _, .fin true (_ + 1) _ => some (.nan false, true)
  | .fsqrt _, .inf n => some (if n then (.nan false, true) else (.inf false, false))
  | .fsqrt _, .fin n 0 e => some (.fin n 0 e, false)
  | .fsqrt _, .fin true (_ + 1) _ => some (.nan false, true)
  | .fexp2 _, .inf n => some (if n then .fin false 0 0 else .inf false, false)
  | .fexp2 _, .fin _ 0 _ => some (.fin false 1 0, false)
  | .flog2 _, .inf n => some (if n then (.nan false, true) else (.inf false, false))
  | .flog2 _, .fin _ 0 _ => some (.inf true, false)
  | .flog2 _, .fin true (_ + 1) _ => some (.nan false, true)
  | .ftanh _, .inf n => some (.fin n 1 0, false)
  | .ftanh _, .fin n 0 e => some (.fin n 0 e, false)
  | .frcp _, .nan x | .frsq _, .nan x | .fsqrt _, .nan x | .fexp2 _, .nan x | .flog2 _, .nan x | .ftanh _, .nan x =>
    some (.nan false, x)
  | _, _ => none

/-- The function itself where the table is silent, as a value with a sticky last bit (log entry 9). -/
def specialVal : Instr → Num.FVal → Num.FVal
  | .frcp _, .fin n m e => Num.recip n m e
  | .frsq _, .fin _ m e => Num.rsqrtF m e
  | .fsqrt _, .fin _ m e => Num.sqrtF m e
  | .fexp2 _, .fin n m e => Num.exp2F n m e
  | .flog2 _, .fin _ m e => Num.log2F m e
  | .ftanh _, .fin n m e => Num.tanhF n m e
  | _, v => v

def specialOf : Instr → Option FmtA
  | .frcp f | .frsq f | .fsqrt f | .fexp2 f | .flog2 f | .ftanh f => some f
  | _ => none

/-- The rational value of a finite one. -/
def ratOf : Num.FVal → Option ℚ
  | .fin neg m e => some ((if neg then (-1 : ℚ) else 1) * (m : ℚ) * (2 : ℚ) ^ e)
  | _ => none

/-- A code is what one rounding gives for a finite value that is not 0 (R43, R46, R47). The value is given by the rational numbers
that its magnitude is at least (`ge`) and at most (`le`), so that a root counts as one. For k units of 2^q, the neighbour of the
magnitude toward zero on the format's grid without an upper end, the code is that of k or of k + 1 units: of k where the value is
k units, else as the mode names it; and what the table of R46 gives where that lies above the largest magnitude. -/
def Rounded (t : Ty) (mode : Nat) (sat ftz : Bool) (z : Nat) (neg : Bool) (ge le : ℚ → Prop) (code : Nat) : Prop :=
  let low : ℤ := Num.emin t - Num.fracBits t
  ∀ (k n : ℕ) (q : ℤ) (up : Prop), low ≤ q → (q = low ∨ 2 ^ Num.fracBits t ≤ k) → k < 2 ^ (Num.fracBits t + 1) →
    ∀ at_ : ℚ → ℚ, (∀ x, at_ x = x * (2 : ℚ) ^ q) → ge (at_ k) → ¬ge (at_ (k + 1)) →
    (up ↔ ¬le (at_ k) ∧
      (mode = 0 ∧ (¬le (at_ (k + 1 / 2)) ∨ ge (at_ (k + 1 / 2)) ∧ k % 2 = 1) ∨ mode = 2 ∧ neg = false ∨ mode = 3 ∧ neg = true ∨
        mode = 4 ∧ ge (at_ (k + 1 / 2)) ∨ mode = 5 ∧ ge (at_ (k + (z + 1) / 2 ^ 24)))) →
    (up → n = k + 1) → (¬up → n = k) → ∀ top, ratOf (Num.decodeF t (Num.maxCode t)) = some top →
    (at_ n ≤ top → ftz = true → at_ n < (2 : ℚ) ^ Num.emin t → code = Num.withSign t neg 0) ∧
    (at_ n ≤ top → ftz = false ∨ (2 : ℚ) ^ Num.emin t ≤ at_ n →
      ∃ c ≤ Num.maxCode t, ratOf (Num.decodeF t c) = some (at_ n) ∧ code = Num.withSign t neg c) ∧
    (top < at_ n → code =
      if sat = true ∨ t = .e2m1 ∨ mode = 1 ∨ mode = 2 ∧ neg = true ∨ mode = 3 ∧ neg = false then Num.withSign t neg (Num.maxCode t)
      else if t = .e4m3 then (if mode = 3 then 0xFF else 0x7F)
      else Num.withSign t neg (Num.infCode t))

/-- The source lanes of a conversion (R111): lanes 4 x HI onward for 64-bit results, one at least, missing ones zero. -/
def convSource (f : FmtA) (es : List Nat) : List Nat :=
  if f.ty.laneWidth = 64 then
    let k := if f.imm.getLsbD 4 then 4 else 0
    (List.range (Nat.max 1 (Nat.min (es.length - k) 4))).map (fun i => es.getD (k + i) 0)
  else es.take 8

/-- The first origin of poison kept: that of the accumulator, else of an operand, else a fresh one (R108). -/
def State.keptOrigin (s : State) (old : Option Origin) (h : Heads) (cause : Option Nat) : Option Origin :=
  match old, h.origin, cause with
  | some o, _, _ => some o
  | none, some o, _ => some o
  | none, none, some k => some (originOf s.sel.1 s.sel.2 k s.now)
  | none, none, none => none

/-- A packet, poisoned where an origin is given. -/
def packetOr (ty : Ty) (po : Option Origin) (es : List Nat) : Token :=
  match po with
  | some o => badPkt ty es.length o
  | none => mkPkt ty es

/-- The exact steps of fmac on the lanes of a firing: acc + a x b, and whether the step is invalid (R108). -/
def macSteps (s : State) (f : FmtA) (acc : List Word) (h : Heads) : List (Num.FVal × Bool) :=
  (zipLanes (fun a b => (Num.readF f.ty (f.md.getLsbD 1) a, Num.readF f.ty (f.md.getLsbD 1) b))
    (leftElems f.ty h.l) (rightElems f h.r)).mapIdx (fun k x =>
      let p := Num.mulF x.1 x.2
      let q := Num.addF (s.mode f.md) (Num.decodeF f.ty (acc.getD k 0).toNat) p.1
      (q.1, p.2 || q.2))

/-- The sum that psum makes of 2 to 8 lanes of a floating-point type (R119): the result with whether an addition was invalid. The lanes
are paired from the lowest, a lane left over passes to the next level, and the additions draw level by level, from the lowest pair
on. -/
def State.pairSum (s : State) (f : FmtA) (es : List Nat) : Nat × Bool :=
  let mode := s.mode f.md
  let ftz := f.md.getLsbD 1
  let add (j : Nat) (a b : Nat × Bool) : Nat × Bool :=
    let v := Num.addF mode (Num.readF f.ty ftz a.1) (Num.readF f.ty ftz b.1)
    (Num.roundTo f.ty mode (f.md.getLsbD 2) ftz (drawn24 mode s.gen j) v.1, a.2 || b.2 || v.2)
  match es.map (fun e => (e, false)) with
  | [a, b] => add 0 a b
  | [a, b, c] => add 1 (add 0 a b) c
  | [a, b, c, d] => add 2 (add 0 a b) (add 1 c d)
  | [a, b, c, d, e] => add 3 (add 2 (add 0 a b) (add 1 c d)) e
  | [a, b, c, d, e, g] => add 4 (add 3 (add 0 a b) (add 1 c d)) (add 2 e g)
  | [a, b, c, d, e, g, i] => add 5 (add 3 (add 0 a b) (add 1 c d)) (add 4 (add 2 e g) i)
  | [a, b, c, d, e, g, i, j] => add 6 (add 4 (add 0 a b) (add 1 c d)) (add 5 (add 2 e g) (add 3 i j))
  | _ => (0, false)

/-- The values that psum, pmax, pmin and the other packet instructions make of the lanes of L and R (R119 to R122). -/
def laneOps : Instr → Option (FmtA × Bool × Bool × (List Nat → List Nat → List Nat))
  | .plsh f => some (f, true, false, fun l r =>
      let n : Int := (f.imm.extractLsb' 0 4).toInt
      (List.range l.length).map (fun i =>
        let j : Int := i - n
        if 0 ≤ j ∧ j < l.length then l.getD j.toNat 0
        else if r.length = 1 then r.getD 0 0
        else if 0 < n then (if l.length - n + i < 0 then 0 else r.getD (l.length - n + i).toNat 0)
        else r.getD (i - (l.length + n)).toNat 0))
  | .pperm f => some (f, true, false, fun l r =>
      (List.range l.length).map (fun i => l.getD (if r.length = 1 then r.getD 0 0 % 16 else r.getD i 0 % 16) 0))
  | .pbcast f => some (f, false, false, fun l _ => (List.range ((f.imm.extractLsb' 4 3).toNat + 1)).map (fun _ => l.getD (f.imm.toNat % 8) 0))
  | .pext f => some (f, false, false, fun l _ => [l.getD (f.imm.toNat % 8) 0])
  | .pins f => some (f, !f.ir, true, fun l r =>
      let k := if f.ir then 0 else f.imm.toNat % 8
      (l ++ List.replicate (k + 1 - l.length) 0).set k (r.headD 0))
  | .pjoin f => some (f, true, false, fun l r => (l ++ r).take f.ty.maxLanes)
  | .pmask f => some (f, !f.ir, true, fun l r => l.mapIdx (fun i x => if (r.headD 0).testBit i && i < 8 then x else 0))
  | _ => none

/-- The keyed hash of a lane of n bits (R126). -/
def hashed (n : Nat) (a k : BitVec n) : BitVec n :=
  let c : BitVec n := if n = 64 then 0xD6E8FEB86659FD93 else 0x8C4F2A6B
  let x := a + k
  let x := (x ^^^ x >>> (n / 2)) * c
  let x := (x ^^^ x >>> (n / 2 - 3)) * c
  x ^^^ x >>> (n / 2)

/-! ## The dot block -/

/-- A completion token: VAL = 1, poisoned by a poisoned trigger (R167, R32). -/
def Heads.completes (h : Heads) : Token :=
  match h.origin with
  | some o => .ctl true true o
  | none => .ctl true false 0

/-- The state after a dot-block firing whose completion token comes later: its operands gone, a place kept on both targets, the
unit busy for one cycle, its node bound to the writes x that it has read too (R262), the cell's dot block changed. -/
def State.dotStarted (s : State) (f : FmtA) (h : Heads) (x : List Nat) (g : Dot → Dot) : State :=
  (s.commit { pops := h.slots, later := [f.t0, f.t1], busy := some (2, 1), extra := x }).modTaskOf s.sel.1
    (fun t => t.setDot s.selCell (g (t.dot s.selCell)))

/-! ## Router operators -/

/-- The state after a firing that removes the heads of some slots and emits tokens with latency 1 (R127). -/
def State.routed (s : State) (pops : List Nat) (outs : List (Target × Token)) (st : Option NodeState) : State :=
  s.commit { pops := pops, outs := outs, st := st }

/-- A control token with an origin of poison or without (R142). -/
def ctlOr (v : Bool) (o : Option Origin) : Token :=
  match o with
  | some x => .ctl v true x
  | none => .ctl v false 0

/-- The control operators of R142, with whether they use R. -/
def logicOf : Instr → Option (FmtC × Bool × (Bool → Bool → Bool))
  | .cand f => some (f, true, fun a b => a && b)
  | .cor f => some (f, true, fun a b => a || b)
  | .cxor f => some (f, true, fun a b => a != b)
  | .cnot f => some (f, false, fun a _ => !a)
  | _ => none

/-- VAL of a head, false where there is none. -/
def valOf (t : Option Token) : Bool := (t.map Token.val).getD false

/-- inside(i) of R140. -/
abbrev inside (f : FmtC) (i hi : Int) : Prop :=
  if 0 < f.imm.toInt then i < hi ∨ (f.cf.getLsbD 1 = true ∧ i = hi) else hi < i ∨ (f.cf.getLsbD 1 = true ∧ i = hi)

/-- A bound of loopgen: lane 0 read at the width of TY, signed or unsigned (R140). -/
def boundOf (f : FmtC) (t : Option Token) : Int :=
  let x : BitVec f.ty.elemBits := BitVec.ofNat _ ((leftElems f.ty t).headD 0)
  if f.cf.getLsbD 0 then (x.toNat : Int) else x.toInt

/-! ## Memory accesses -/

/-- The instructions that issue an access: fields, whether they use R, the targets their tokens go to (R149, R157 to R165). -/
def memOf : Instr → Option (FmtM × Bool × List Target)
  | .ld f | .ldp f | .ldfe f => some (f, false, [f.t0, f.t1])
  | .st f | .stp f | .stfe f => some (f, true, [f.t1])
  | .lnemp f | .lnful f | .pref f => some (f, false, [f.t1])
  | .amo f | .cas f | .rmw f => some (f, true, [f.t0, f.t1])
  | _ => none

/-- The bytes an address must be a multiple of (R153). -/
def alignOf : Instr → Nat
  | .ld f | .st f => if f.ord = 0 then 1 else sizeBytes f.sz.toNat
  | .ldp f | .stp f => if f.ord = 0 then 4 else 32
  | .ldfe f | .stfe f | .amo f | .cas f | .rmw f => sizeBytes f.sz.toNat
  | _ => 1

/-- The origin that keeps an access from being made: of the address, and for a pref of P (R154). -/
def Heads.noAccess (h : Heads) : Instr → Option Origin
  | .pref _ => firstOrigin [h.l, h.p]
  | _ => h.l.bind Token.origin

/-- A memory node that can issue (R26, R150): seven firings in flight at most, the issue free, the targets accepting. -/
structure ReadyM (pm : Pm) (uR : Bool) (pads : List Target) (h : Heads) (s : State) : Prop where
  ready : Ready pm true uR false pads h s
  flight : s.inFlight < 8
  unit : s.unitFree 3 = true

/-- The access numbered k of region c is about to perform at the physical addresses `pas` (R150, R153), looking `age` writes back:
its turn has come, it is alone in making it, no freeze holds it up, its address is clean and translates over open modules, every
place is at hand over modules that are open, and an atomic meets no moving page and has its turn in the PAE order. -/
structure Performs (c k : Nat) (a : Access) (age : Nat) (pas : List Nat) (s : State) : Prop where
  may : s.mayPerform c k = some a
  alone : s.mirrored c = false
  unheld : s.frozenPark c a = false
  clean : a.skip = none
  walk : s.walkOpen (s.accessSpace c a age) a.abs (accessBytes a.ins a.data) = true
  place : s.accessPlaces c a age = .ok pas
  lies : misplaced c a.ins (pas.headD 0) = false
  still : accessKind a.ins = .atomic → s.otherCopy (pas.headD 0) = none
  turn : s.paeTurn c a (pas.headD 0) = true
  way : ∀ p ∈ pas, s.pathOpen c p = true ∧ s.atHand c (.access a.id) p = true
  held : ∀ x ∈ placed a.addr pas, isFar x.2 = true → s.reachFault c (.access a.id) x.1 x.2 = none

/-- The state once an access's translations are in the TLB (R341) and its requests are done with. -/
def State.arrived (s : State) (c : Nat) (a : Access) (age : Nat) : State :=
  (s.accessWalked c a age).reached c (.access a.id)

/-- The old value, the value written if any, and the value shown of an atomic of w bits (R161 to R163). -/
def atomicOf : Instr → Nat → Nat → Nat → Option (Option Nat × Nat × Ty)
  | .amo f, w, x, pay =>
    let fn := f.off.toNat / 2 ^ 16
    some (some (amoValue fn w x (pay % 2 ^ w)), x, if 9 ≤ fn then (if w = 32 then .f32 else .f64) else if w = 32 then .i32 else .i64)
  | .cas _, w, x, pay => some (if x = pay % 2 ^ w then some (pay / 2 ^ w % 2 ^ w) else none, x, if w = 32 then .i32 else .i64)
  | .rmw f, w, x, pay =>
    let fn := f.off.toNat / 2 ^ 16
    let y := rmwValue fn w x (pay % 2 ^ w)
    some (some y, y, if fn = 5 then (if w = 32 then .f32 else .f64) else if w = 32 then .i32 else .i64)
  | _, _, _, _ => none

/-! ## Block control and system instructions -/

/-- Lane 0 of an operand as 64 bits (R196, R202). -/
def laneOf (t : Option Token) : Word := BitVec.ofNat 64 ((leftElems .i64 t).headD 0)

/-- The block-control words with the kind of their exit, and whether L carries the address (R196 to R200). -/
def exitOf : Instr → Option (FmtB × ExitKind × Bool)
  | .exit f => some (f, .exit, false)
  | .call f => some (f, .call, false)
  | .yield f => some (f, .yield, false)
  | .exiti f => some (f, .exiti, true)
  | .calli f => some (f, .calli, true)
  | .ret f => some (f, .ret, true)
  | _ => none

/-- The system instructions whose completion comes later, with whether they use R (R202). -/
def laterOf : Instr → Option (FmtS × Bool)
  | .tlbinv f | .keyrev f | .ctxsv f | .ctxld f => some (f, true)
  | .cfgld f | .linkq f | .evwait f => some (f, false)
  | _ => none

/-- What lets a system operation start rather than answer at once (R208, R210). -/
def State.starts (s : State) (i : Instr) (a b : Word) : Prop :=
  match i with
  | .ctxsv _ => s.mayCtxsv (bitsOf a 5 0) b = true
  | .ctxld _ => b.toNat % 0x40000 = 0 ∧ (s.cluster (bitsOf a 5 0)).task = none
  | .linkq _ => ∃ m, linkOf (s.sel.1 / 16) (bitsOf a 6 0) = some m ∧ (s.link m).quiesced = a.getLsbD 8
  | _ => True

/-! ## Commands -/

/-- A command that is about to work: it stands at step 5, no earlier command of its node stands before it. -/
structure Working (c k : Nat) (q : Cmd) (s : State) : Prop where
  ready : s.cmdReady c k 5 = some q
  pass : (s.cluster c).mayPass q 6 = true
  alone : q.mate = none

/-- The memory after a transfer: some bytes at some places, and what stood there before at all others. -/
def State.carried (s t : State) (bs : List (Byte × Bool)) (dst : List Nat) : Prop :=
  bs.length = dst.length ∧ (∀ j < dst.length, Memory.read t.mem (dst.getD j 0) = (bs.getD j (0, false)).1) ∧
  (∀ x, x ∉ dst → Memory.read t.mem x = Memory.read s.mem x)

/-- The descriptor of a command reads, at places that are at hand (R180), its translation walking over open modules alone. -/
structure HasDesc (c : Nat) (q : Cmd) (pas : List Nat) (d : List Byte) (s : State) : Prop where
  walk : s.walkOpen (s.cmdSpace c q) q.l (descSize q.ins) = true
  places : s.descPlaces c q = .ok pas
  reach : s.cmdReach c q (placed q.l pas) = .go
  bytes : s.descBytes c q = .ok d

/-- The state once a descriptor has been read: its translations are in the TLB, its requests done with, the errors found marked. -/
def State.descRead (s : State) (c : Nat) (q : Cmd) (pas : List Nat) : State :=
  ((s.walked (s.cmdSpace c q) q.l (descSize q.ins) .desc).cmdReached c q).findErrors pas

/-! ## Blocks -/

/-- A token on its way to, or at, a target, available from a cycle on; nothing goes to an empty target. -/
def Region.gets (r : Region) (tgt : Target) (tok : Token) (at_ : Nat) : Prop :=
  let here (l : List QTok) : Prop := ∃ q ∈ l, q.tok = tok ∧ q.at_ = at_ ∧ q.pend = none
  match tgt with
  | .none => True
  | .left n => here (r.node n.toNat).l.toks
  | .right n => here (r.node n.toNat).r.toks
  | .pred n => here (r.node n.toNat).p.toks
  | .write e => here (r.writes.get {} e.toNat).toks
  | .gate e => here (r.reads.get {} e.toNat).gate

/-- A place is kept at a target for the result numbered id. -/
def Region.placeAt (r : Region) (tgt : Target) (id : Nat) : Prop :=
  let here (l : List QTok) : Prop := ∃ q ∈ l, q.pend = some id
  match tgt with
  | .none => False
  | .left n => here (r.node n.toNat).l.toks
  | .right n => here (r.node n.toNat).r.toks
  | .pred n => here (r.node n.toNat).p.toks
  | .write e => here (r.writes.get {} e.toNat).toks
  | .gate e => here (r.reads.get {} e.toNat).gate

/-- The code that a drain of a route writes for an accumulator element, in a mode that draws nothing (R175). -/
def drainCode (route : Word) (ty : Ty) (x : BitVec 32) : Nat :=
  Num.roundTo ty (bitsOf route 14 12) (route.getLsbD 15) false 0 (Num.decodeF .f32 x.toNat)

end Sys2Proof.Machine
end

