-- ==== Sys2Proof/Certificates/Slice0/Obligations.lean ====
section
/-!
DEFINITION. What is claimed of the model, one Prop a claim; each docstring names the rules of the manual it comes from.
-/

open Sys2Proof Sys2Proof.Machine

/-- R66 to R75: decoding the word of any encodable instruction gives it back, every operand at every value. R66 to R78: a word
that decodes is the word of the instruction it decodes to, so each instruction has one word, and the rest are rejected. -/
def Obligations.DecodeAndEncodeAgree : Prop :=
  (∀ i : Instr, i.encodable = true → decode (encode i) = .ok i) ∧
  (∀ (w : Word) (i : Instr), decode w = .ok i → i.encodable = true ∧ encode i = w)

/-- Words written out from the manual's worked encodings. -/
def Obligations.DecodedWords : Prop :=
  decode 0x01101C0000200001 = .ok (.add { pm := .always, t0 := .right 1, t1 := .write 0, ty := .i64, md := 0, ph := 0, ir := true, imm := 1 }) ∧
  decode 0xA0001FFDB4000018 = .ok (.ld { pm := .always, t0 := .left 1, t1 := .none, sz := 3, sc := 3, ord := 1, lsid := 0, off := 24 }) ∧
  decode 0xE07FFFFC00002800 = .ok (.exit { pm := .onTrue, exn := 0, off := 5 }) ∧
  decode 0xC33FF003FC000240 = .ok (.tgath { pm := .always, t0 := .none, flg := 0, wsem := 0xFF, wthr := 0, ssem := 9, sinc := 0 }) ∧
  decode 0xF2009FFC00000000 = .ok (.tsget { pm := .always, t0 := .left 9, t1 := .none, sysno := 0 })

/-- R22, R26 and log entry 1: a step takes the first move of the agenda: a slot's word is decoded and its instruction runs with
that slot selected; an event runs by itself; an empty agenda is the end of a stage of the cycle, the last of which ends the
cycle. A step never refuses, and stops only on a word that does not decode. That an event which names no unit of the package
changes nothing but the agenda, and that no instruction stops, are the model's choice (log entry 53). -/
def Obligations.StepRunsDecoded : Prop :=
  (∀ (s : State) (c i : Nat) (rest : List Move) (w : Word) (x : Instr), s.agenda = .node c i :: rest → s.fetch c i = some w →
    decode w = .ok x → step s = exec x { s with agenda := rest, sel := (c, i) }) ∧
  (∀ (s : State) (c i : Nat) (rest : List Move), s.agenda = .node c i :: rest → s.fetch c i = none → step s = .next { s with agenda := rest }) ∧
  (∀ (s : State) (e : Instr) (rest : List Move), s.agenda = .event e :: rest → e.opcode = 0 → e.wellFormed = true →
    step s = exec e { s with agenda := rest }) ∧
  (∀ (s : State) (e : Instr) (rest : List Move), s.agenda = .event e :: rest → ¬(e.opcode = 0 ∧ e.wellFormed = true) →
    step s = .next { s with agenda := rest }) ∧
  (∀ s : State, s.agenda = [] → ∃ t : State, step s = .next t ∧ t.stage = (if s.stage < lastStage then s.stage + 1 else 0) ∧
    t.now = (if s.stage < lastStage then s.now else s.now + 1) ∧ t.mem = s.mem ∧ t.clusters = s.clusters ∧ t.tasks = s.tasks) ∧
  (∀ (i : Instr) (s : State), ∃ t : State, exec i s = .next t) ∧
  (∀ (s : State) (f : Fault), step s = .fault f ↔ f = .undecodable ∧ ∃ c i rest w e, s.agenda = .node c i :: rest ∧
      s.fetch c i = some w ∧ decode w = .error e)

/-- The registers at reset, read as software reads them: R295 (ring), R315 (queue), R346 and R356 (address spaces), R350 (far
memory), R352 (keys), R375 (traps), R390 (mirror), R396 (links), R401 (key slots), and the scheduler's. At reset memory is in
canonical form and reads zero, the home order is in order, no cluster holds a task, nothing is due. The spare maps of 0x7F and
the modules that are up (log entry 6), the zeros of drawer, peer and host memory (log entry 4) and the empty agenda (log entry
1) are the model's choice. -/
def Obligations.ResetState : Prop :=
  (∀ c : Nat,
     let r := State.reset.readReg c
     r 0x100 = 0x100000 ∧ r 0x101 = 0x10000 ∧ r 0x102 = 0x1000 ∧ r 0x105 = 0x100 ∧ r 0x200 = 0 ∧ r 0x201 = 0 ∧ r 0x210 = 0 ∧
     r 0x220 = 0 ∧ r 0x221 = 0 ∧ r 0x300 = 0 ∧ r 0x301 = 0 ∧ r 0x302 = 0 ∧ r 0x400 = 0 ∧ r 0x410 = 0 ∧ r 0x411 = 0 ∧
     r 0x500 = 0x4008 ∧ r 0x501 = 0 ∧ r 0x502 = 0 ∧ r 0x503 = 0x7F7F7F7F ∧ r 0x504 = 1 ∧ r 0x604 = 0 ∧ r 0x605 = 0 ∧
     r 0x700 = 0 ∧ r 0x701 = 0 ∧ r 0x702 = 0 ∧ r 0x703 = 0 ∧ r 0x710 = 0x1000000) ∧
  (State.reset.memOk ∧ State.reset.histOk ∧ (∀ a, Memory.read State.reset.mem a = 0) ∧
   (∀ c, (State.reset.cluster c).task = none ∧ ∀ i, (State.reset.at c i).live = false) ∧ State.reset.agenda = [])

/-- Every step keeps memory in its canonical form and the home order numbered from the newest down (R261, R274). -/
def Obligations.StepKeepsMemory : Prop :=
  ∀ s t : State, s.memOk → s.histOk → step s = .next t → t.memOk ∧ t.histOk

/-- R22 to R24: a firing removes the heads of its slots and puts its tokens behind what its targets hold, to be available its
latency and one cycle a hop later; a result to come keeps its place. The frame of every firing: memory, poison marks,
semaphores, links, the hub, the ring, other clusters, and the task's registers, tiles, ports and dot blocks are as before; of
its region only nodes, entries, pools and units change, of its task only generators. -/
def Obligations.FiringMovesTokens : Prop :=
  (∀ (s : State) (f : Fire) (j k : Nat), (∀ u n b, f.post u n b = u) → f.pops.Nodup → (∀ x ∈ f.pops, x < 3) → k < 3 →
     let c := s.sel.1
     let i := s.sel.2
     let old := ((s.node c j).queue k).toks
     let seen (q : QTok) : Token × Nat × Option Nat := (q.tok, q.at_, q.pend)
     let here (tg : Target) : Bool := slotOf tg == some (j, k)
     (((s.commit f).node c j).queue k).toks.map seen =
       (if j = i ∧ k ∈ f.pops then old.tail else old).map seen ++
       (f.outs.filter (fun o => here o.1)).map (fun o => (o.2, s.now + f.lat + hops (i / 4) (j / 4), none)) ++
       (f.later.filter here).map (fun _ => (.ctl true false 0, s.now + f.lat + hops (i / 4) (j / 4), some (s.ids + 1))) ∧
     ((s.commit f).node c i).firedAt = some s.now ∧ ((s.commit f).node c i).st = f.st.getD (s.node c i).st ∧
     (∀ e, ((((s.commit f).region c).writes.get {} e).toks.map seen) = (((s.region c).writes.get {} e).toks.map seen) ++
       (f.outs.filterMap (fun o => match o.1 with
         | .write x => if x.toNat = e then some (o.2, s.now + f.lat + 2, none) else none
         | _ => none)) ++
       (f.later.filterMap (fun tg => match tg with
         | .write x => if x.toNat = e then some (.ctl true false 0, s.now + f.lat + 2, some (s.ids + 1)) else none
         | _ => none)))) ∧
  (∀ (s : State) (f : Fire), (∀ u n b, f.post u n b = u) →
     let t := s.commit f
     let c := s.sel.1
     t = { s with ids := s.ids + 1, clusters := t.clusters, tasks := t.tasks } ∧
     (∀ d, d ≠ c → t.cluster d = s.cluster d) ∧
     t.cluster c = { s.cluster c with region := { s.region c with
       nodes := (t.region c).nodes, reads := (t.region c).reads, writes := (t.region c).writes
       returning := (t.region c).returning, busy := (t.region c).busy } } ∧
     (∀ n, t.task n = { s.task n with gens := (t.task n).gens }) ∧ (∀ n, n ≠ s.taskIdOf c → t.task n = s.task n) ∧
     (f.gen = none → t.tasks = s.tasks) ∧
     (∀ j, j ≠ s.sel.2 → ((t.region c).node j).st = ((s.region c).node j).st ∧ ((t.region c).node j).firedAt = ((s.region c).node j).firedAt))

/-- R22, R26 and R27: a ready operand set whose predicate fails is discarded, and a firing waits while a target does not accept.
That the next set stands at the heads from the next cycle on is the model's choice (log entry 59). -/
def Obligations.PredicatesAndFullTargets : Prop :=
  ∀ (i : Instr) (f : FmtA) (uR : Bool) (h : Heads) (s : State),
    ((∃ lat op, intTwo i = some (f, lat, op) ∧ uR = !f.ir) ∨ (∃ op, intOne i = some (f, op) ∧ uR = false) ∨
      (∃ op, intCmp i = some (f, op) ∧ uR = !f.ir) ∨ (∃ op, intDiv i = some (f, op) ∧ uR = !f.ir) ∨
      (∃ op, floatTwo i = some (f, op) ∧ uR = !f.ir) ∨ (∃ op, floatCmp i = some (f, op) ∧ uR = !f.ir) ∨
      (specialOf i = some f ∧ uR = false)) →
    (s.live = false → exec i s = .next s) ∧
    (s.heads f.pm true uR false = none → exec i s = .next s) ∧
    (s.live = true → s.heads f.pm true uR false = some h →
      (s.unitFree 0 = false → exec i s = .next s) ∧
      (s.unitFree 0 = true → h.pass = false → exec i s = .next (s.discard h.slots)) ∧
      (s.unitFree 0 = true → h.pass = true → s.phase f.ph = false → exec i s = .next s) ∧
      (h.pass = true → (s.selRegion.accepts s.now f.t0 = false ∨ s.selRegion.accepts s.now f.t1 = false) → exec i s = .next s))

/-- R99 and R101: add, sub, adds, addsu, subs, subsu, mul, mulh, mulhu, min, max, minu, maxu, and, or, xor, andn, shl, shr, sra
and rotl fire where they are ready, and deliver the lane results of the tables (a shift by the width or more among them). R99,
R102, R105 and R106: neg, abs, not, clz, ctz, popc, sext, zext, bswap and movhi. R99 and R96: div, divu, rem and remu; a zero
divisor gives 0 in its lane and poisons the packet with CAUSE 0x3. What an immediate gives a lane of 8 or 16 bits is the model's
choice (log entry 55). -/
def Obligations.IntegerResults : Prop :=
  (∀ (i : Instr) (f : FmtA) (lat : Nat) (op : (n : Nat) → BitVec n → BitVec n → BitVec n) (h : Heads) (s : State),
     intTwo i = some (f, lat, op) → ReadyA f 0 true (!f.ir) false h s →
     exec i s = .next (s.ceFired f 0 lat 1 h
       (s.packet f.ty h none (zipLanes (lane2 f.ty.elemBits op) (leftElems f.ty h.l) (rightElems f h.r))) none)) ∧
  (∀ (i : Instr) (f : FmtA) (op : (n : Nat) → BitVec n → BitVec n) (h : Heads) (s : State),
     intOne i = some (f, op) → ReadyA f 0 true false false h s →
     exec i s = .next (s.ceFired f 0 1 1 h (s.packet f.ty h none ((leftElems f.ty h.l).map (lane1 f.ty.elemBits op))) none)) ∧
  (∀ (i : Instr) (f : FmtA) (op : (n : Nat) → BitVec n → BitVec n → BitVec n) (h : Heads) (s : State),
     intDiv i = some (f, op) → ReadyA f 0 true (!f.ir) false h s →
     exec i s = .next (s.ceFired f 0 (if f.ty = .i64 then 20 else 12) (if f.ty = .i64 then 16 else 8) h
       (s.packet f.ty h
         (if ∃ b ∈ zipLanes (fun _ b => b) (leftElems f.ty h.l) (rightElems f h.r), b = 0 then some 3 else none)
         (zipLanes (fun a b => if b = 0 then 0 else lane2 f.ty.elemBits op a b) (leftElems f.ty h.l) (rightElems f h.r))) none))

/-- R104: ceq, cne, clt, cltu, cle, cleu and ctst compare lane 0. R110: feq, flt, fle and fun compare lane 0; a signalling NaN
poisons under PX. They compare the exact values; an infinity lies beyond every finite value, and a NaN is neither less than, nor
equal to, anything. What an immediate gives a lane of 8 or 16 bits is the model's choice (log entry 55). -/
def Obligations.Comparisons : Prop :=
  (∀ (i : Instr) (f : FmtA) (op : (n : Nat) → BitVec n → BitVec n → Bool) (h : Heads) (s : State),
     intCmp i = some (f, op) → ReadyA f 0 true (!f.ir) false h s →
     exec i s = .next (s.ceFired f 0 1 1 h (s.verdict h none
       (op f.ty.elemBits (BitVec.ofNat _ ((leftElems f.ty h.l).headD 0)) (BitVec.ofNat _ ((rightElems f h.r).headD 0)))) none)) ∧
  ((∀ (i : Instr) (f : FmtA) (op : Num.FVal → Num.FVal → Bool) (h : Heads) (s : State) (a b : Num.FVal),
     floatCmp i = some (f, op) → ReadyA f 0 true (!f.ir) false h s →
     a = Num.readF f.ty (f.md.getLsbD 1) ((leftElems f.ty h.l).headD 0) →
     b = Num.readF f.ty (f.md.getLsbD 1) ((rightElems f h.r).headD 0) →
     exec i s = .next (s.ceFired f 0 1 1 h (s.verdict h (invalid5 f [Num.sig a, Num.sig b]) (op a b)) none)) ∧
   (∀ (a b : Num.FVal) (x y : ℚ), ratOf a = some x → ratOf b = some y →
     (Num.ltF a b = true ↔ x < y) ∧ (Num.eqF a b = true ↔ x = y) ∧ Num.ltF a (.inf false) = true ∧ Num.ltF (.inf true) a = true) ∧
   (∀ a b : Num.FVal, Num.isNan a = true ∨ Num.isNan b = true → Num.ltF a b = false ∧ Num.eqF a b = false))

/-- R103, R100, R105 and R106: sel, addmin, movi and lea. The length that sel gives, and an immediate in a narrow lane, are the
model's choice (log entry 55). -/
def Obligations.SelectBoundConstantAddress : Prop :=
  (∀ (f : FmtA) (h : Heads) (s : State), ReadyA f 0 true (!f.ir) true h s →
    exec (.sel f) s = .next (s.ceFired f 0 1 1 h
      (s.packet f.ty h none (if h.p.any (fun t => t.val || t.origin.isSome) then leftElems f.ty h.l
        else if f.ir then (leftElems f.ty h.l).map (fun _ => immElem f.ty f.imm) else leftElems f.ty h.r)) none)) ∧
  (∀ (f : FmtA) (h : Heads) (s : State), ReadyA f 0 true true false h s → f.ir = true →
    exec (.addmin f) s = .next (s.ceFired f 0 1 1 h (s.packet f.ty h none
      (zipLanes (fun a c => (addBounded f f.ty.elemBits (BitVec.ofNat _ a) (BitVec.ofNat _ (immElem f.ty f.imm)) (BitVec.ofNat _ c)).toNat)
        (leftElems f.ty h.l) (leftElems f.ty h.r))) none)) ∧
  (∀ (f : FmtA) (h : Heads) (s : State), ReadyA f 0 true true false h s → f.ir = false →
    ∃ es : List Nat, exec (.addmin f) s = .next (s.ceFired f 0 1 1 h (s.packet f.ty h none es) none) ∧
      es.length = (if (leftElems f.ty h.r).length < 2 then (leftElems f.ty h.l).length
        else Nat.min (leftElems f.ty h.l).length ((leftElems f.ty h.r).length / 2)) ∧
      ∀ k < es.length, es[k]! = (addBounded f f.ty.elemBits (BitVec.ofNat _ ((leftElems f.ty h.l).getD k 0))
        (BitVec.ofNat _ ((leftElems f.ty h.r).getD k 0)) (BitVec.ofNat _ ((leftElems f.ty h.r).getD (es.length + k) 0))).toNat) ∧
  (∀ (f : FmtA) (h : Heads) (s : State), ReadyA f 0 true false false h s →
    exec (.movi f) s = .next (s.ceFired f 0 1 1 h (s.packet f.ty h none [(f.imm.signExtend f.ty.elemBits).toNat]) none)) ∧
  (∀ (f : FmtA) (h : Heads) (s : State), f.ty = .i64 → f.ir = true → ReadyA f 0 true false false h s →
    exec (.lea f) s = .next (s.ceFired f 0 1 1 h (s.packet .i64 h none
      ((leftElems .i64 h.l).map (fun a => (BitVec.ofNat 64 a + f.imm.signExtend 64).toNat))) none)) ∧
  (∀ (f : FmtA) (h : Heads) (s : State), f.ty = .i64 → f.ir = false → ReadyA f 0 true true false h s →
    exec (.lea f) s = .next (s.ceFired f 0 1 1 h (s.packet .i64 h none
      (zipLanes (fun a b => (BitVec.ofNat 64 a + (BitVec.ofNat 64 b <<< (f.imm.toNat % 8)) +
          (f.imm.extractLsb' 3 18).signExtend 64).toNat) (leftElems .i64 h.l) (leftElems .i64 h.r))) none))

/-- R107: fadd, fsub and fmul: the exact result of each lane is rounded once, with one draw a lane; an invalid lane poisons
under PX. -/
def Obligations.FloatArithmetic : Prop :=
  ∀ (i : Instr) (f : FmtA) (op : Nat → Num.FVal → Num.FVal → Num.FVal × Bool) (h : Heads) (s : State) (vs : List (Num.FVal × Bool)),
    floatTwo i = some (f, op) → ReadyA f 0 true (!f.ir) false h s →
    vs = zipLanes (fun a b => op (s.mode f.md) (Num.readF f.ty (f.md.getLsbD 1) a) (Num.readF f.ty (f.md.getLsbD 1) b))
      (leftElems f.ty h.l) (rightElems f h.r) →
    exec i s = .next (s.ceFired f 0 4 1 h
      (s.packet f.ty h (invalid5 f (vs.map (·.2))) (s.rounded f f.ty (vs.map (·.1)))) (stepped (s.mode f.md) s.gen vs.length))

/-- R109 and R107: fmin, fmax, fabs and fneg. -/
def Obligations.FloatMinMaxSign : Prop :=
  (∀ (great : Bool) (f : FmtA) (h : Heads) (s : State), ReadyA f 0 true (!f.ir) false h s →
    exec (if great then .fmax f else .fmin f) s =
      .next (s.ceFired f 0 4 1 h (s.packet f.ty h
        (invalid5 f (zipLanes (fun a b => Num.sig (Num.decodeF f.ty a) || Num.sig (Num.decodeF f.ty b)) (leftElems f.ty h.l) (rightElems f h.r)))
        (zipLanes (fun a b =>
          let x := Num.readF f.ty (f.md.getLsbD 1) a
          let y := Num.readF f.ty (f.md.getLsbD 1) b
          if Num.isNan x || Num.isNan y then Num.nanCode f.ty
          else Num.roundTo f.ty 0 false false 0 (if Num.ltF x y || (Num.eqF x y && Num.isNeg x) then (if great then y else x)
            else (if great then x else y))) (leftElems f.ty h.l) (rightElems f h.r))) none)) ∧
  (∀ (f : FmtA) (h : Heads) (s : State), f.ty ∈ [Ty.f64, .f32, .f16, .bf16, .e4m3, .e5m2, .e2m1] → ReadyA f 0 true false false h s →
    exec (.fabs f) s = .next (s.ceFired f 0 1 1 h (s.packet f.ty h none
      ((leftElems f.ty h.l).map (fun a => (BitVec.ofNat f.ty.elemBits a &&& ~~~BitVec.twoPow _ (f.ty.elemBits - 1)).toNat))) none) ∧
    exec (.fneg f) s = .next (s.ceFired f 0 1 1 h (s.packet f.ty h none
      ((leftElems f.ty h.l).map (fun a => (BitVec.ofNat f.ty.elemBits a ^^^ BitVec.twoPow _ (f.ty.elemBits - 1)).toNat))) none))

/-- R46: the value that a sum or a product of two finite values rounds is the exact one, and it is no invalid operation. R41 and
R42: sums of finite codes that stay within the range are exact. R46 and R49: rounding the value of a code of a format gives that
code back, whatever the mode and the draw. R43, R45, R46 and R47: what rounds a finite value gives the neighbour that the mode
names, of an overflow what the table gives, and of a subnormal result under FTZ a zero of its sign. -/
def Obligations.ExactValues : Prop :=
  (∀ (mode : Nat) (a b : Num.FVal) (x y : ℚ), ratOf a = some x → ratOf b = some y →
     ratOf (Num.addF mode a b).1 = some (x + y) ∧ (Num.addF mode a b).2 = false ∧
     ratOf (Num.mulF a b).1 = some (x * y) ∧ (Num.mulF a b).2 = false) ∧
  (∀ (a b : Int), a.natAbs < 2 ^ 319 - 1 → b.natAbs < 2 ^ 319 - 1 → (a + b).natAbs < 2 ^ 319 - 1 →
     Num.xsAdd a b = a + b ∧ ratOf (Num.xsVal (a + b)) = some (((a : ℚ) + b) * 2 ^ (-149 : ℤ)) ∧
     Num.xsAdd Num.xsPosInf Num.xsNegInf = Num.xsNan ∧ Num.xsAdd Num.xsNan b = Num.xsNan ∧ Num.xsAdd Num.xsPosInf b = Num.xsPosInf) ∧
  (∀ (t : Ty) (mode z code : Nat), t ∈ [Ty.f64, .f32, .f16, .bf16, .e4m3, .e5m2, .e2m1] →
     code < 2 ^ (1 + Num.expBits t + Num.fracBits t) → Num.isNan (Num.decodeF t code) = false →
     Num.roundTo t mode false false z (Num.decodeF t code) = code) ∧
  (∀ (t : Ty) (mode z m : Nat) (sat ftz neg : Bool) (e : Int), t ∈ [Ty.f64, .f32, .f16, .bf16, .e4m3, .e5m2, .e2m1] → mode < 6 →
     z < 2 ^ 24 → Rounded t mode sat ftz z neg (fun c => c ≤ (m : ℚ) * 2 ^ e) (fun c => (m : ℚ) * 2 ^ e ≤ c)
       (Num.roundTo t mode sat ftz z (.fin neg m e)))

/-- R114 and R96: frcp, frsq, fsqrt, fexp2, flog2 and ftanh round once; the special inputs give what the table says. R114: frcp,
frsq and fsqrt round the exact reciprocal, the exact reciprocal of the root and the exact root of an input that the table leaves
to them. That 320 fraction bits decide the rounding is the model's reading (log entry 9). -/
def Obligations.SpecialFunctions : Prop :=
  (∀ (i : Instr) (f : FmtA) (h : Heads) (s : State) (vs : List (Num.FVal × Bool)),
     specialOf i = some f → ReadyA f 0 true false false h s →
     vs = (leftElems f.ty h.l).map (fun a =>
       let v := Num.readF f.ty (f.md.getLsbD 1) a
       (specialCase i v).getD (specialVal i v, false)) →
     exec i s = .next (s.ceFired f 0 (if f.ty = .f64 then 24 else 12) (if f.ty = .f64 then 12 else 2) h
       (s.packet f.ty h (invalid5 f (vs.map (·.2))) (s.rounded f f.ty (vs.map (·.1)))) (stepped (s.mode f.md) s.gen vs.length))) ∧
  (∀ (f : FmtA) (t : Ty) (mode z m : Nat) (sat ftz neg : Bool) (e : Int), t ∈ [Ty.f64, .f32, .f16, .bf16, .e4m3, .e5m2, .e2m1] →
     mode < 6 → z < 2 ^ 24 → 0 < m →
     let x : ℚ := (m : ℚ) * 2 ^ e
     let given (i : Instr) (n : Bool) : Nat := Num.roundTo t mode sat ftz z (specialVal i (.fin n m e))
     Rounded t mode sat ftz z neg (fun c => c * x ≤ 1) (fun c => 1 ≤ c * x) (given (.frcp f) neg) ∧
     Rounded t mode sat ftz z false (fun c => c ^ 2 * x ≤ 1) (fun c => 1 ≤ c ^ 2 * x) (given (.frsq f) false) ∧
     Rounded t mode sat ftz z false (fun c => c ^ 2 ≤ x) (fun c => x ≤ c ^ 2) (given (.fsqrt f) false))

/-- R111 to R113, R49 to R51: fcvt, fcvti, icvtf and frnd. A NaN into e2m1, and a value that has no integer, poison with CAUSE
0x4. A quiet NaN passes frnd with its bits (log entry 55). R113 and R50: the integral value that frnd takes, and the integer
that a conversion takes, lie within one of the value, and are the value itself where it is an integer. What frnd does to a quiet
NaN is the model's choice (log entry 55). -/
def Obligations.Conversions : Prop :=
  ((∀ (f : FmtA) (h : Heads) (s : State) (vs : List Num.FVal), ReadyA f 0 true false false h s →
     vs = (convSource f (leftElems (fromTy f) h.l)).map (Num.readF (fromTy f) (f.md.getLsbD 1)) →
     exec (.fcvt f) s = .next (s.ceFired f 0 4 1 h
       (if f.ty = .e2m1 ∧ (∃ v ∈ vs, Num.isNan v = true) then s.packet f.ty h (some 4) (List.replicate vs.length 0)
        else s.packet f.ty h (invalid5 f (vs.map Num.sig)) (s.rounded f f.ty vs)) (stepped (s.mode f.md) s.gen vs.length))) ∧
   (∀ (f : FmtA) (h : Heads) (s : State) (xs : List (Nat × Bool)), ReadyA f 0 true false false h s →
     xs = (convSource f (leftElems (fromTy f) h.l)).mapIdx (fun k e =>
       Num.cvtInt f.ty.elemBits (!f.imm.getLsbD 5) (f.md.getLsbD 2) (s.mode f.md) (drawn24 (s.mode f.md) s.gen k)
         (Num.readF (fromTy f) (f.md.getLsbD 1) e)) →
     exec (.fcvti f) s = .next (s.ceFired f 0 4 1 h
       (s.packet f.ty h (if xs.any (·.2) then some 4 else none) (xs.map (·.1))) (stepped (s.mode f.md) s.gen xs.length))) ∧
   (∀ (f : FmtA) (h : Heads) (s : State) (xs : List Int), ReadyA f 0 true false false h s →
     xs = (convSource f (leftElems (fromTy f) h.l)).map (fun (e : Nat) =>
       if f.imm.getLsbD 5 then (e : Int) else (BitVec.ofNat (fromTy f).elemBits e).toInt) →
     exec (.icvtf f) s = .next (s.ceFired f 0 4 1 h
       (s.packet f.ty h none (s.rounded f f.ty (xs.map (fun x => Num.FVal.fin (x < 0) x.natAbs 0))))
       (stepped (s.mode f.md) s.gen xs.length))) ∧
   (∀ (f : FmtA) (h : Heads) (s : State) (vs : List Num.FVal), ReadyA f 0 true false false h s →
     vs = (leftElems f.ty h.l).map (Num.readF f.ty (f.md.getLsbD 1)) →
     exec (.frnd f) s = .next (s.ceFired f 0 4 1 h
       (s.packet f.ty h (invalid5 f (vs.map Num.sig)) ((leftElems f.ty h.l).mapIdx (fun k e =>
         let v := Num.readF f.ty (f.md.getLsbD 1) e
         if Num.isNan v = true ∧ Num.sig v = false then e
         else Num.roundTo f.ty (s.mode f.md) false (f.md.getLsbD 1) 0 (Num.frndF (s.mode f.md) (drawn24 (s.mode f.md) s.gen k) v))))
       (stepped (s.mode f.md) s.gen vs.length)))) ∧
  (∀ (mode z : Nat) (v : Num.FVal) (x : ℚ), ratOf v = some x →
     ∃ n : ℤ, ratOf (Num.frndF mode z v) = some (n : ℚ) ∧ Num.toInt mode z v = some n ∧ |(n : ℚ) - x| < 1 ∧
       (∀ k : ℤ, x = k → n = k))

/-- R108: fmac steps every lane that a firing covers, keeps the first origin, and flushes on a true or poisoned P. R117 and
R118: xsacc adds its lanes in order into the exact sum and flushes on a true or poisoned P; xsfin rounds one once. -/
def Obligations.Accumulations : Prop :=
  (∀ (f : FmtA) (h : Heads) (s : State) (m : Nat) (acc : List Word) (po : Option Origin) (vs : List (Num.FVal × Bool)) (now : List Nat)
     (new : List Word) (po1 : Option Origin),
     ReadyA f 0 true (!f.ir) true h s → fmacOf s.selNode.st = (m, acc, po) → vs = macSteps s f acc h →
     now = s.rounded f f.ty (vs.map (·.1)) → new = now.map (BitVec.ofNat 64) ++ acc.drop now.length →
     po1 = s.keptOrigin po h (invalid5 f (vs.map (·.2))) →
     exec (.fmac f) s = .next (if h.p.any (fun t => t.val || t.origin.isSome) then
         let tok := packetOr f.ty po1 ((List.range (Nat.max m now.length)).map (fun k => (new.getD k 0).toNat))
         s.ceFiredTo 0 4 1 h [(f.t0, tok), (f.t1, tok)] (some .idle) (stepped (s.mode f.md) s.gen now.length)
       else s.ceFiredTo 0 4 1 h [] (some (.fmac (Nat.max m now.length) new po1)) (stepped (s.mode f.md) s.gen now.length))) ∧
  ((∀ (f : FmtA) (h : Heads) (s : State) (acc : BitVec 320) (po po1 : Option Origin) (new : BitVec 320),
     ReadyA f 0 true false true h s → xsOf' s.selNode.st = (acc, po) →
     new = BitVec.ofInt 320 (((leftElems f.ty h.l).map (xsElem f)).foldl Num.xsAdd acc.toInt) → po1 = s.keptOrigin po h none →
     exec (.xsacc f) s = .next (if h.p.any (fun t => t.val || t.origin.isSome) then
         let tok : Token := match po1 with
           | some o => badPkt .xs320 5 o
           | none => .pkt .xs320 5 false new
         s.ceFiredTo 0 3 1 h [(f.t0, tok), (f.t1, tok)] (some .idle) none
       else s.ceFiredTo 0 3 1 h [] (some (.xsacc new po1)) none)) ∧
   (∀ (f : FmtA) (h : Heads) (s : State) (v : Num.FVal), ReadyA f 0 true false false h s →
     v = Num.xsVal (BitVec.ofNat 320 ((leftElems .xs320 h.l).headD 0)).toInt →
     exec (.xsfin f) s = .next (s.ceFired f 0 4 1 h
       (if f.ty = .e2m1 ∧ Num.isNan v = true then s.packet f.ty h (some 4) [0] else s.packet f.ty h none (s.rounded f f.ty [v]))
       (stepped (s.mode f.md) s.gen 1))))

/-- R115: bqnt emits the next token of its emit buffer where both targets accept, and takes an L token where its gather buffer
has room; a full gather buffer is quantised into an empty emit buffer. R52 and R115: a group is quantised into its scale, then
32 elements in tokens of g lanes; the scale is the exponent of the greatest magnitude less emax, within 0 to 254, and 0 for
zeros. R116, R40 and R47: bdeq takes a scale from R for each group, and delivers each element times 2^(X - 127), rounded once; a
scale of 0xFF makes it a NaN, and under FTZ a subnormal element of a floating-point format is a zero. What an L token of another
length than g gives is the model's choice (log entry 59). -/
def Obligations.BlockFormats : Prop :=
  (∀ (f : FmtA) (s : State) (held : List Nat) (count : Nat) (po : Option Origin) (emit : List Token) (fed : Option Token) (sent : Bool),
     s.live = true → s.unitFree 0 = true → s.phase f.ph = true → bqntOf s.selNode.st = (held, count, po, emit) →
     fed = (if held.length + blockG f ≤ 32 then s.head 0 else none) →
     sent = (!emit.isEmpty && s.selRegion.accepts s.now f.t0 && s.selRegion.accepts s.now f.t1) →
     (fed.isSome ∨ sent = true) →
     let outs : List (Target × Token) := match emit with
       | t :: _ => if sent then (if emit.length = 1 + 32 / blockG f then [(f.t0, t), (f.t1, t)] else [(f.t0, t)]) else []
       | [] => []
     let held1 := match fed with
       | some t => held ++ (List.range (blockG f)).map (fun k => (elemsOf (fromTy f) t).getD k 0)
       | none => held
     let emit1 := if sent then emit.tail else emit
     let po1 := match po, fed with
       | some o, _ => some o
       | none, some t => t.origin
       | none, none => none
     let count1 := if fed.isSome then count + 1 else count
     let q := quantise s f held1 po1 s.gen
     let full := held1.length = 32 ∧ emit1 = []
     exec (.bqnt f) s = .next (s.commit
       { pops := if fed.isSome then [0] else [], outs := outs, lat := 3, busy := some (0, 1)
         gen := if full ∧ s.mode f.md = 5 then some (BitVec.ofNat 64 q.2) else none
         st := some (if full then .bqnt [] 0 none q.1
                     else if held1 = [] ∧ emit1 = [] then .idle else .bqnt held1 count1 po1 emit1) })) ∧
  ((∀ (s : State) (f : FmtA) (held : List Nat) (g0 : Nat) (vs : List Num.FVal), held.length = 32 →
     vs = held.map (Num.readF (fromTy f) (f.md.getLsbD 1)) →
     (quantise s f held none g0).1 =
       mkPkt .i8 [Num.bqScale f.ty (blockVar f) vs] ::
         (List.range (32 / blockG f)).map (fun k => mkPkt (blockTok f) ((vs.mapIdx (fun j v =>
           Num.bqElem f.ty (blockVar f) (Num.bqScale f.ty (blockVar f) vs) (s.mode f.md) (f.md.getLsbD 1)
             (drawn24 (s.mode f.md) g0 j) v)).drop (k * blockG f) |>.take (blockG f)))) ∧
   (∀ (t : Ty) (var : Bool) (vs : List Num.FVal) (xs : List ℚ), vs.map ratOf = xs.map some → (∀ x ∈ xs, x = 0) → Num.bqScale t var vs = 0) ∧
   (∀ (t : Ty) (var : Bool) (vs : List Num.FVal) (xs : List ℚ) (k : ℤ), vs.map ratOf = xs.map some →
     (∀ x ∈ xs, |x| < 2 ^ (k + 1)) → (∃ x ∈ xs, 2 ^ k ≤ |x|) →
     (Num.bqScale t var vs : ℤ) = max 0 (min 254 (k - Num.emaxOf t var + 127)))) ∧
  ((∀ (f : FmtA) (h : Heads) (s : State) (x0 left x : Nat) (po0 pox : Option Origin) (vs : List Num.FVal),
     bdeqOf s.selNode.st = (x0, po0, left) → ReadyA f 0 true (left == 0) false h s →
     x = (match h.r with
       | some t => (ownLanes t).headD 0 % 256
       | none => x0) →
     pox = (match h.r with
       | some t => t.origin
       | none => po0) →
     vs = (takeLanes (blockG f) (leftElems (blockTok f) h.l)).map (bdeqVal f x) →
     let po := match h.l.bind (·.origin), pox, h.p.bind (·.origin) with
       | some o, _, _ => some o
       | none, some o, _ => some o
       | none, none, o => o
     let n := (if left = 0 then 32 / blockG f else left) - 1
     let tok := packetOr (bdeqTo f) po (s.rounded f (bdeqTo f) vs)
     exec (.bdeq f) s = .next (s.ceFiredTo 0 4 1 h [(f.t0, tok), (f.t1, tok)]
       (some (if n = 0 then .idle else .bdeq x pox n)) (stepped (s.mode f.md) s.gen vs.length))) ∧
   (∀ (f : FmtA) (x e : Nat), bdeqVal f 0xFF e = .nan false ∧
     (∀ (t : Ty) (v : ℚ), Num.blockElem f.ty (blockVar f) = some t → x ≠ 0xFF → ratOf (Num.readF t (f.md.getLsbD 1) e) = some v →
       ratOf (bdeqVal f x e) = some (v * (2 : ℚ) ^ ((x : ℤ) - 127))) ∧
     (Num.blockElem f.ty (blockVar f) = none → x ≠ 0xFF → e < 256 →
       ratOf (bdeqVal f x e) = some ((BitVec.ofNat 8 e).toInt * (2 : ℚ) ^ ((x : ℤ) - 133)))))

/-- R119, R38, R47 and R109: psum, pmax and pmin reduce the lanes of L to one. Two to eight floating-point lanes are added in
pairs from the lowest, a lane left over passing to the next level; one lane meets no addition, is read under FTZ, and gives the
canonical NaN for a NaN. R119 to R122: plsh, pperm, pbcast, pext, pins, pjoin, psplit, plen and pmask. What an immediate gives a
lane of 8 or 16 bits is the model's choice (log entry 55). -/
def Obligations.PacketLanes : Prop :=
  ((∀ (f : FmtA) (h : Heads) (s : State), f.ty.isInt = true → ReadyA f 0 true false false h s →
     exec (.psum f) s = .next (s.ceFired f 0 3 1 h (s.packet f.ty h none
       [(kept f f.ty.elemBits ((leftElems f.ty h.l).map (fun a => (BitVec.ofNat f.ty.elemBits a).toInt)).sum).toNat]) none)) ∧
   (∀ (great : Bool) (f : FmtA) (h : Heads) (s : State), f.ty.isInt = true → ReadyA f 0 true false false h s →
     ∃ v, exec (if great then .pmax f else .pmin f) s = .next (s.ceFired f 0 3 1 h (s.packet f.ty h none [v]) none) ∧
       (leftElems f.ty h.l ≠ [] → v ∈ leftElems f.ty h.l) ∧ ∀ x ∈ leftElems f.ty h.l,
         if great then (BitVec.ofNat f.ty.elemBits x).sle (BitVec.ofNat f.ty.elemBits v)
         else (BitVec.ofNat f.ty.elemBits v).sle (BitVec.ofNat f.ty.elemBits x)) ∧
   (∀ (great : Bool) (f : FmtA) (h : Heads) (s : State) (vs : List Num.FVal), f.ty.isInt = false → ReadyA f 0 true false false h s →
     vs = (leftElems f.ty h.l).map (Num.readF f.ty (f.md.getLsbD 1)) →
     ∃ v, exec (if great then .pmax f else .pmin f) s = .next (s.ceFired f 0 12 1 h (s.packet f.ty h (invalid5 f (vs.map Num.sig))
         [Num.roundTo f.ty 0 false false 0 v]) none) ∧
       ((∃ x ∈ vs, Num.isNan x = true) → Num.isNan v = true) ∧
       (vs ≠ [] → (∀ x ∈ vs, Num.isNan x = false) → v ∈ vs ∧ ∀ x ∈ vs, (if great then Num.ltF v x else Num.ltF x v) = false)) ∧
   (∀ (f : FmtA) (h : Heads) (s : State) (e : Nat) (v : Num.FVal), f.ty.isInt = false → leftElems f.ty h.l = [e] →
     v = Num.readF f.ty (f.md.getLsbD 1) e → ReadyA f 0 true false false h s →
     exec (.psum f) s = .next (s.ceFired f 0 12 1 h
       (s.packet f.ty h (invalid5 f [Num.sig v]) [Num.roundTo f.ty 0 false false 0 v]) (stepped (s.mode f.md) s.gen 0))) ∧
   (∀ (f : FmtA) (h : Heads) (s : State) (es : List Nat), f.ty.isInt = false → leftElems f.ty h.l = es →
     2 ≤ es.length → es.length ≤ 8 → ReadyA f 0 true false false h s →
     exec (.psum f) s = .next (s.ceFired f 0 12 1 h
       (s.packet f.ty h (invalid5 f [(s.pairSum f es).2]) [(s.pairSum f es).1])
       (stepped (s.mode f.md) s.gen (es.length - 1))))) ∧
  ((∀ (i : Instr) (f : FmtA) (uR imm : Bool) (op : List Nat → List Nat → List Nat) (h : Heads) (s : State),
     laneOps i = some (f, uR, imm, op) → ReadyA f 0 true uR false h s →
     exec i s = .next (s.ceFired f 0 1 1 h (s.packet f.ty h none
       (op (leftElems f.ty h.l) (match i with
         | .pmask f => if f.ir then [f.imm.toNat] else (h.r.map (lanesOf f.ty)).getD []
         | _ => if imm then rightElems f h.r else leftElems f.ty h.r))) none)) ∧
   (∀ (f : FmtA) (h : Heads) (s : State) (k : Nat), ReadyA f 0 true false false h s → k = f.imm.toNat % 8 →
     let l := leftElems f.ty h.l
     exec (.psplit f) s = .next (s.ceFiredTo 0 1 1 h
       [(f.t0, packetOr f.ty h.origin (l.take k)), (f.t1, packetOr f.ty h.origin (if k < l.length then l.drop k else [0]))] none none)) ∧
   (∀ (f : FmtA) (h : Heads) (s : State), ReadyA f 0 true false false h s →
     exec (.plen f) s = .next (s.ceFired f 0 1 1 h (s.packet .i64 h none [(leftElems f.ty h.l).length]) none)))

/-- R123 to R126: lutx, fsmst, bext, bdep and hashx. R123 and R62: where no LUT reads itself through others, the network
settles: every output is what its own truth table gives for the settled outputs, the operands and the flip-flops. What an
immediate mask gives a lane of 8 or 16 bits is the model's choice (log entry 55), and so is what a selector beyond the lane
reads (log entry 59). -/
def Obligations.LutPatches : Prop :=
  ((∀ (f : FmtA) (h : Heads) (s : State) (outs : List Bool), ReadyA f 1 true (f.imm.getLsbD 12) false h s →
     outs = s.lutOuts f h (s.selTask.ffs.get 0 s.selCell).toNat →
     exec (.lutx f) s = .next (s.ceFired f 1 2 1 h (s.packet f.ty h none
       [((List.range (bitsOf f.imm 11 6 + 1)).map (fun j => (outs.getD (bitsOf f.imm 5 0 + j) false).toNat * 2 ^ j)).sum]) none)) ∧
   (∀ (f : FmtA) (h : Heads) (s : State) (ff : Nat) (outs : List Bool), ReadyA f 1 true (f.imm.getLsbD 12) false h s →
     ff = (if f.imm.getLsbD 13 then 0 else (s.selTask.ffs.get 0 s.selCell).toNat) → outs = s.lutOuts f h ff →
     let t := s.ceFired f 1 2 1 h (s.packet f.ty h none
       [((List.range (bitsOf f.imm 11 6 + 1)).map (fun j => (outs.getD (bitsOf f.imm 5 0 + j) false).toNat * 2 ^ j)).sum]) none
     ∃ next : BitVec 32, exec (.fsmst f) s = .next (if h.origin.isSome then t
         else t.modTaskOf s.sel.1 (fun x => { x with ffs := x.ffs.set s.selCell next })) ∧
       ∀ k < 32, next.getLsbD k =
         (if (s.selTask.lut s.selCell (32 + k)).ffen then outs.getD (32 + k) false else ff.testBit k)) ∧
   (∀ (f : FmtA) (h : Heads) (s : State), ReadyA f 1 true (!f.ir) false h s →
     exec (.bext f) s = .next (s.ceFired f 1 2 1 h (s.packet f.ty h none
       (zipLanes (fun a b => ((((List.range f.ty.elemBits).filter b.testBit).mapIdx (fun j k => (a.testBit k).toNat * 2 ^ j)).sum))
         (leftElems f.ty h.l) (rightElems f h.r))) none) ∧
     exec (.bdep f) s = .next (s.ceFired f 1 2 1 h (s.packet f.ty h none
       (zipLanes (fun a b => ((((List.range f.ty.elemBits).filter b.testBit).mapIdx (fun j k => (a.testBit j).toNat * 2 ^ k)).sum))
         (leftElems f.ty h.l) (rightElems f h.r))) none) ∧
     exec (.hashx f) s = .next (s.ceFired f 1 3 1 h (s.packet f.ty h none
       (zipLanes (lane2 f.ty.elemBits hashed) (leftElems f.ty h.l) (rightElems f h.r))) none))) ∧
  (∀ (f : FmtA) (h : Heads) (s : State) (ff : Nat) (rank : Nat → Nat),
     (∀ k < 64, rank k < 64) →
     (∀ k < 64, ∀ sel ∈ (s.selTask.lut s.selCell k).sel, 0x40 ≤ sel.toNat → sel.toNat < 0x80 → rank (sel.toNat - 0x40) < rank k) →
     let outs := s.lutOuts f h ff
     ∀ k < 64, outs.getD k false = lutOut (s.selTask.lut s.selCell k) outs ((leftElems f.ty h.l).headD 0)
       (if f.imm.getLsbD 12 then (leftElems f.ty h.r).headD 0 else 0) ff)

/-- R167 to R171: an mma that R168 lets fire, with clean operands and tiles that pass R169, multiplies into its accumulator,
holds the MAC array for the cycles of R170's table, and owes its completion token; under a poisoned trigger it poisons the whole
accumulator instead. R169 and R170: of an mma, a tile of another task gives subcode 0x45, formats that do not go together 0x40,
a shape that does not fit 0x41, and an accumulator of other rows 0x42, in this order; else its tiles pass. R169 and R155: an mma
whose tiles do not pass raises the fault and rewinds; nothing is consumed. That the record of T_XLATE names the tile's BASE, its
kind and level 7, and the order of the subcodes, are the model's reading (log entry 16). That an error found by the read leaves
its mark, and what a marked scale byte poisons, are the model's reading (log entries 17 and 35). -/
def Obligations.MmaFires : Prop :=
  (∀ (f : FmtA) (h : Heads) (s : State) (p : Plane) (t : Tile) (pa a : Nat),
     ReadyA f 2 true false false h s → a = bitsOf f.imm 7 6 →
     (s.selTask.tile (bitsOf f.imm 5 0)).state = .ready → s.selDot.active = some p → s.selDot.busy ≤ s.now →
     s.selDot.draining a = false →
     (h.origin = none → s.mmaFault f p (s.selDot.acc a) = .ok (t, pa) →
       let cs := s.tileCuts h pa t.extent
       ∃ b : List Nat, exec (.mma f) s = .next ((s.dotStarted f h (s.cutSet cs []) (fun d => { d with
         accs := d.accs.set a (s.multiply f t cs p (d.acc a))
         busy := s.now + mmaCycles f.ty t.rows p.kb
         ops := d.ops ++ [{ id := s.ids + 1, node := s.sel.2, kind := 0, acc := a, t0 := f.t0, t1 := f.t1
                            done := s.now + mmaCycles f.ty t.rows p.kb, bound := b }] })).findErrors (span pa t.extent))) ∧
     (∀ o, h.origin = some o → ∃ b : List Nat, exec (.mma f) s = .next (s.dotStarted f h [] (fun d => { d with
       accs := d.accs.set a { d.acc a with poison := List.range 1024 }
       ops := d.ops ++ [{ id := s.ids + 1, node := s.sel.2, kind := 0, acc := a, t0 := f.t0, t1 := f.t1, orig := some o
                          done := s.now, bound := b }] })))) ∧
  (∀ (f : FmtA) (s : State) (p : Plane) (acc : Acc) (t : Tile) (pa : Nat), t = s.selTask.tile (bitsOf f.imm 5 0) →
     let fails (sub : Nat) : Prop := s.mmaFault f p acc = .error (xlateFault sub t.base 7 .read)
     let pair := t.fmt = f.ty.code ∧ (f.ty, p.fmt) ∈
       [(Ty.bf16, Ty.bf16), (.mx4, .mx4), (.mx8, .mx8), (.mx8, .mxi8), (.mxi8, .mx8), (.mxi8, .mxi8)]
     let shape := t.rows ∈ (List.range 16).map (fun k => 8 * (k + 1)) ∧ t.cols = 32 * p.kb
     let rows := f.imm.getLsbD 8 = true ∨ acc.rows = 0 ∨ acc.rows = t.rows
     (t.owner ≠ s.selTask.id → fails 0x45) ∧
     (t.owner = s.selTask.id → s.tileBase s.sel.1 t .read = .ok pa →
       (¬pair → fails 0x40) ∧ (pair → ¬shape → fails 0x41) ∧ (pair → shape → ¬rows → fails 0x42) ∧
       (pair → shape → rows → s.mmaFault f p acc = .ok (t, pa)))) ∧
  (∀ (f : FmtA) (h : Heads) (s : State) (p : Plane) (x : XFault) (t : Tile), ReadyA f 2 true false false h s → h.origin = none →
     t = s.selTask.tile (bitsOf f.imm 5 0) → t.state = .ready → s.selDot.active = some p → s.selDot.busy ≤ s.now →
     s.selDot.draining (bitsOf f.imm 7 6) = false →
     s.mmaFault f p (s.selDot.acc (bitsOf f.imm 7 6)) = .error x →
     exec (.mma f) s = .next (s.raise s.sel.1
       { s.record s.sel.1 (srcNode s.sel.1 s.sel.2) x.code x.sub x.addr 0 x.info with rewinds := true }))

/-- R170 and R53: after a multiply, element (i, j) below ROWS has taken the K-blocks of A's row i and the plane's column j in
order, starting from +0 where CLR is set or the accumulator was empty; the elements of other rows are as they were. R53: the
step of one K-block of finite elements under finite scales rounds the exact sum of acc and the scaled products once, to nearest
even; a scale of 0xFF makes the canonical NaN. That a K-block sum starts at +0 is the model's choice (log entry 17). -/
def Obligations.AccumulatorElements : Prop :=
  (∀ (s : State) (f : FmtA) (t : Tile) (cs : List (Nat × Nat)) (p : Plane) (x : Acc) (i j : Nat), i < 128 → j < 8 →
     let fresh := f.imm.getLsbD 8 || x.rows == 0
     (s.multiply f t cs p x).rows = (if fresh then t.rows else x.rows) ∧
     (s.multiply f t cs p x).elems.get 0 (8 * i + j) =
       if i < t.rows then
         (List.zip (tileRow f.ty (t.var && f.ty == .mx8) p.kb (s.cutBytes cs) i) (p.column j)).foldl
           (fun acc k => kBlock acc k.1 k.2) (if fresh then 0 else x.elems.get 0 (8 * i + j))
       else if fresh then 0 else x.elems.get 0 (8 * i + j)) ∧
  ((∀ (acc : BitVec 32) (a b : List Num.FVal × Nat), a.2 = 0xFF ∨ b.2 = 0xFF → kBlock acc a b = 0x7FC00000) ∧
   (∀ (acc : BitVec 32) (a b : List Num.FVal × Nat) (xs ys : List ℚ) (x : ℚ), a.2 < 0xFF → b.2 < 0xFF →
     a.1.map ratOf = xs.map some → b.1.map ratOf = ys.map some → ratOf (Num.decodeF .f32 acc.toNat) = some x →
     ∃ v : Num.FVal, ratOf v = some (x + (List.zipWith (· * ·) xs ys).sum * 2 ^ ((a.2 : ℤ) + b.2 - 254)) ∧
       kBlock acc a b = BitVec.ofNat 32 (Num.roundTo .f32 0 false false 0 v)))

/-- R172 to R174: ldst arms the shadow plane for the ring or starts to load it from a tile; mswap makes the shadow plane active;
mzero clears an accumulator. R175: an mdrain whose route and destination fit takes its tile to FILLING, and owes its bytes and
its completion. R176 and R177: tstat reads tiles, accumulators, planes and routes; tset writes a tile's state, a tile entry or a
route. Which firings consume on poison, what the record of a trap names, and the marks a tile read leaves are the model's
reading (log entries 15, 16 and 35). -/
def Obligations.PlanesTilesAndDrains : Prop :=
  ((∀ (f : FmtA) (h : Heads) (s : State), ReadyA f 2 true false false h s → f.imm.getLsbD 6 = true → s.selDot.shState = .empty →
     ∃ b : List Nat, exec (.ldst f) s = .next (s.dotStarted f h [] (fun d => { d with
       shState := .armed
       ops := d.ops ++ [{ id := s.ids + 1, node := s.sel.2, kind := 3, t0 := f.t0, t1 := f.t1, orig := h.origin, bound := b }] }))) ∧
   (∀ (f : FmtA) (h : Heads) (s : State) (t : Tile) (pa n : Nat), ReadyA f 2 true false false h s → f.imm.getLsbD 6 = false →
     s.selDot.shState = .empty → n = bitsOf f.imm 5 0 → (s.selTask.tile n).state = .ready → s.useTile s.sel.1 n .read = .ok (t, pa) →
     t.cols = 8 → t.rows ∈ [32, 64, 96, 128, 160, 192, 224, 256] → t.fmt ∈ [7, 11, 12, 13] →
     let cs := s.tileCuts h pa t.extent
     ∃ b : List Nat, exec (.ldst f) s = .next ((s.dotStarted f h (s.cutSet cs []) (fun d => { d with
       shadow := s.planeOf t cs
       shState := .loading
       ops := d.ops ++ [{ id := s.ids + 1, node := s.sel.2, kind := 1, tile := n, t0 := f.t0, t1 := f.t1, orig := h.origin
                          done := s.now + ((s.planeOf t cs).bytes.length + 255) / 256 + 4 + 2 * hops s.selCell (sramCell pa)
                          bound := b }] })).findErrors (span pa t.extent))) ∧
   (∀ (f : FmtA) (h : Heads) (s : State), ReadyA f 2 true false false h s → s.selDot.shState = .loaded → s.selDot.busy ≤ s.now →
     exec (.mswap f) s = .next ((s.ceFired f 2 1 1 h h.completes none).modTaskOf s.sel.1 (fun t => t.setDot s.selCell
       { t.dot s.selCell with active := some (t.dot s.selCell).shadow, shadow := {}, shState := .empty }))) ∧
   (∀ (f : FmtA) (h : Heads) (s : State) (a : Nat), ReadyA f 2 true false false h s → a = bitsOf f.imm 1 0 →
     s.selDot.multiplying a = false → s.selDot.draining a = false →
     exec (.mzero f) s = .next ((s.ceFired f 2 1 1 h h.completes none).modTaskOf s.sel.1 (fun t => t.setDot s.selCell
       { t.dot s.selCell with accs := (t.dot s.selCell).accs.set a {} })))) ∧
  (∀ (f : FmtA) (h : Heads) (s : State) (a k pa rows : Nat) (w : Word) (t : Tile) (tr : Task),
     ReadyA f 2 true (f.imm.getLsbD 2) false h s → a = bitsOf f.imm 1 0 →
     (f.imm.getLsbD 2 = true → h.r.bind Token.origin = none) →
     k = (if f.imm.getLsbD 2 then (leftElems .i64 h.r).headD 0 % 8 else bitsOf f.imm 5 3) →
     w = s.selDot.routes.get 0 k → tr = s.selTask → rows = (s.selDot.acc a).rows →
     s.selDot.multiplying a = false → s.selDot.draining a = false →
     w.getLsbD 6 = true → bitsOf w 11 8 ∈ [5, 6, 7] → bitsOf w 14 12 ≤ 5 →
     (tr.tile (bitsOf w 5 0)).state = .empty → s.useTile s.sel.1 (bitsOf w 5 0) .write = .ok (t, pa) →
     t.fmt = bitsOf w 11 8 → t.cols = 8 → rows ≤ t.rows →
     ∃ b : List Nat, exec (.mdrain f) s = .next
       (let u := s.dotStarted f h [] (fun d => { d with
         ops := d.ops ++ [{ id := s.ids + 1, node := s.sel.2, kind := 2, acc := a, tile := bitsOf w 5 0, t0 := f.t0, t1 := f.t1
                            orig := h.origin, done := s.now + (drainBytes t.fmt rows + 127) / 128 + 4 + 2 * hops s.selCell (sramCell pa)
                            rno := k, route := w, rows := rows, bound := b }] })
        if rows = 0 then u
        else u.modTaskOf s.sel.1 (fun x => x.setTile (bitsOf w 5 0) { x.tile (bitsOf w 5 0) with state := .filling }))) ∧
  ((∀ (f : FmtA) (h : Heads) (s : State) (n : Nat) (v : Word), ReadyA f 2 true false false h s →
     n = (if f.imm.getLsbD 8 then (leftElems .i64 h.l).headD 0 % 64 else bitsOf f.imm 5 0) →
     v = (let d := s.selDot
       match bitsOf f.imm 7 6 with
       | 0 => BitVec.ofNat 64 ((s.selTask.tile n).state.code + 4 * (if (s.selTask.tile n).owner = s.selTask.id then 1 else 0))
       | 1 => BitVec.ofNat 64 ((d.multiplying (n % 4)).toNat + 2 * (!(d.acc (n % 4)).poison.isEmpty).toNat +
           4 * (d.draining (n % 4)).toNat + 256 * (d.acc (n % 4)).rows)
       | 2 => BitVec.ofNat 64 (d.active.isSome.toNat + 2 * d.shState.code + 16 * (d.active.elim 0 (·.kb)))
       | _ => d.routes.get 0 (n % 8)) →
     exec (.tstat f) s = .next (s.ceFired f 2 2 1 h (s.packet .i64 h none [v.toNat]) none)) ∧
   (∀ (f : FmtA) (h : Heads) (s : State) (n : Nat), ReadyA f 2 true false false h s → h.origin = none → n = bitsOf f.imm 5 0 →
     bitsOf f.imm 8 7 < 2 → s.tileMoving s.sel.1 n = false →
     ((s.selTask.tile n).owner = s.selTask.id ∨ s.selRegion.priv = true) →
     exec (.tset f) s = .next ((s.ceFired f 2 1 1 h h.completes none).modTaskOf s.sel.1 (fun t =>
       t.setTile n (if bitsOf f.imm 8 7 = 0 then { t.tile n with state := TileState.ofCode (bitsOf f.imm 10 9) }
         else entryOf (leftElems .i64 h.l) s.selRegion.priv s.selTask.id)))) ∧
   (∀ (f : FmtA) (h : Heads) (s : State) (n : Nat), ReadyA f 2 true false false h s → h.origin = none → n = bitsOf f.imm 5 0 % 8 →
     bitsOf f.imm 8 7 = 2 → (∀ o ∈ s.selDot.ops, o.kind = 2 → o.rno ≠ n) →
     exec (.tset f) s = .next ((s.ceFired f 2 1 1 h h.completes none).modTaskOf s.sel.1 (fun t => t.setDot s.selCell
       { t.dot s.selCell with routes := (t.dot s.selCell).routes.set n (BitVec.ofNat 64 ((leftElems .i64 h.l).headD 0)) }))) ∧
   (∀ (f : FmtA) (h : Heads) (s : State) (n : Nat), ReadyA f 2 true false false h s → h.origin = none → n = bitsOf f.imm 5 0 →
     bitsOf f.imm 8 7 < 2 → s.tileMoving s.sel.1 n = false → (s.selTask.tile n).owner ≠ s.selTask.id → s.selRegion.priv = false →
     exec (.tset f) s = .next (s.raise s.sel.1
       { s.record s.sel.1 (srcNode s.sel.1 s.sel.2) 3 0x45 (s.selTask.tile n).base 0 (xlateFault 0x45 (s.selTask.tile n).base 7 .write).info
         with rewinds := true })))

/-- R132, R142 and R143: mov and mov4 copy L to their targets; cand, cor, cnot and cxor combine VAL bits; cdat makes a packet of
TV or FV. Poison goes as R130, R142 and R143 say. R130: what a firing passes under a poisoned P is poisoned, keeps its kind,
type, length and VAL, and keeps its own origin if it has one: a packet takes the first origin in the order L, R, P, a control
token that of P. Under a clean P it is passed bit for bit. R133 to R136: steer, gate, merge and mrga. The side that steer does
not select need not accept. Which targets gate waits for is the model's reading (log entry 11). -/
def Obligations.RouterOperators : Prop :=
  ((∀ (f : FmtC) (h : Heads) (s : State) (l : Token), Ready f.pm true false false [f.t0, f.t1] h s → h.l = some l →
     exec (.mov f) s = .next (s.routed h.slots [(f.t0, h.passed l), (f.t1, h.passed l)] none)) ∧
   (∀ (f : FmtC) (h : Heads) (s : State) (l : Token) (t2 t3 : Target), mov4Target f false = some t2 → mov4Target f true = some t3 →
     Ready f.pm true false false [f.t0, f.t1, t2, t3] h s → h.l = some l →
     exec (.mov4 f) s = .next (s.routed h.slots
       [(f.t0, h.passed l), (f.t1, h.passed l), (t2, h.passed l), (t3, h.passed l)] none)) ∧
   (∀ (i : Instr) (f : FmtC) (uR : Bool) (op : Bool → Bool → Bool) (h : Heads) (s : State), logicOf i = some (f, uR, op) →
     Ready f.pm true uR false [f.t0, f.t1] h s →
     let tok := ctlOr (op (valOf h.l) (valOf h.r)) h.origin
     exec i s = .next (s.routed h.slots [(f.t0, tok), (f.t1, tok)] none)) ∧
   (∀ (f : FmtC) (h : Heads) (s : State), Ready f.pm true false false [f.t0, f.t1] h s →
     let v := (if valOf h.l then f.imm.extractLsb' 0 12 else f.imm.extractLsb' 12 12).signExtend f.ty.elemBits
     let tok := packetOr f.ty h.origin [v.toNat]
     exec (.cdat f) s = .next (s.routed h.slots [(f.t0, tok), (f.t1, tok)] none))) ∧
  (∀ (h : Heads) (t : Token) (po : Option Origin), po = h.p.bind Token.origin → h.l = some t →
     (po = none → h.passed t = t) ∧
     (∀ o, po = some o → ∀ x, t.origin = some x → h.passed t = t) ∧
     (∀ o ty len pay, po = some o → t = .pkt ty len false pay →
       h.passed t = .pkt ty len true ((((h.r.bind Token.origin).getD o)).setWidth 320)) ∧
     (∀ o v x, po = some o → t = .ctl v false x → h.passed t = .ctl v true o)) ∧
  ((∀ (f : FmtC) (h : Heads) (s : State) (l p : Token), h.l = some l → h.p = some p → p.origin = none →
     Ready .always true false true [if p.val then f.t0 else f.t1] h s →
     exec (.steer f) s = .next (s.routed [0, 2] [(if p.val then f.t0 else f.t1, l)] none)) ∧
   (∀ (f : FmtC) (h : Heads) (s : State) (l p : Token) (o : Origin), h.l = some l → h.p = some p → p.origin = some o →
     Ready .always true false true [f.t0, f.t1] h s →
     exec (.steer f) s = .next (s.routed [0, 2] [(f.t0, h.passed l), (f.t1, h.passed l)] none)) ∧
   (∀ (f : FmtC) (h : Heads) (s : State) (l p : Token), h.l = some l → h.p = some p →
     Ready .always true false true [f.t0, f.t1] h s →
     exec (.gate f) s = .next (if p.val ∨ p.origin.isSome then s.routed [0, 2] [(f.t0, h.passed l), (f.t1, h.passed l)] none
       else s.routed (if f.cf.getLsbD 0 then [2] else [0, 2]) [] none)) ∧
   (∀ (f : FmtC) (s : State) (p x : Token), s.live = true → s.head 2 = some p → s.room [f.t0, f.t1] →
     (p.val = true ∨ p.origin.isSome = true → s.head 0 = some x →
       let t := match p.origin with
         | some o => x.poisonBy o
         | none => x
       exec (.merge f) s = .next (s.routed [0, 2] [(f.t0, t), (f.t1, t)] none)) ∧
     (p.val = false → p.origin = none → s.head 1 = some x →
       let t := s.toNet x
       exec (.merge f) s = .next (s.routed [1, 2] [(f.t0, t), (f.t1, t)] none))) ∧
   (∀ (f : FmtC) (h : Heads) (s : State) (left : Bool),
     (match s.headAt 0, s.headAt 1 with
       | some a, some b => left = decide (a ≤ b)
       | some _, none => left = true
       | none, some _ => left = false
       | none, none => False) →
     Ready f.pm left (!left) false [f.t0, f.t1] h s →
     exec (.mrga f) s = .next (s.routed h.slots
       [(f.t0, h.passed (if left then h.l.getD (.ctl false false 0) else s.toNet (h.r.getD (.ctl false false 0)))),
        (f.t1, ctlOr left ((h.p.bind Token.origin).map (fun o => (((if left then h.l else h.r).bind Token.origin).getD o))))] none)))

/-- R137, R32 and R130, by row: IDLE takes the initial value; RUN takes P, R or both as RA and its targets allow, each without
the other where that is held up, a poisoned P poisoning the value that passes with it; EXIT emits purge markers; DRAIN discards
and then removes both markers. R139: invar takes a value, copies it for each trigger, and releases it at the last flag (PMODE 0)
or at the purge marker (PMODE 1). R140 and R141: the ranges of loopgen and the copies of repeat, token by token; a poisoned
count of repeat gives one poisoned copy, and a poisoned P poisons every copy. Which targets must accept, and that a poisoned P
poisons every token of a range, are the model's reading (log entries 11 and 12); that invar takes its value whatever P holds is
its choice (log entry 59). -/
def Obligations.LoopOperators : Prop :=
  (∀ (f : FmtC) (s : State), s.live = true →
     (∀ l, s.selNode.st = .idle → s.head 0 = some l → s.room [f.t0] →
       exec (.carry f) s = .next (s.routed [0] [(f.t0, l)] (some (.carry 1 1 0)))) ∧
     (∀ e c p, s.selNode.st = .carry 1 e c → s.head 1 = none → s.head 2 = some p → s.room [f.t1] →
       exec (.carry f) s = .next (s.routed [2] [(f.t1, match p.origin with
           | some o => .ctl true true o
           | none => p.asCtl)] (some (.carry (if p.val ∨ p.origin.isSome then 1 else 2) e (c + 1))))) ∧
     (∀ e c r, s.selNode.st = .carry 1 e c → s.head 1 = some r → s.head 2 = none → e ≤ c + bitsOf f.cf 1 0 → s.room [f.t0] →
       exec (.carry f) s = .next (s.routed [1] [(f.t0, r)] (some (.carry 1 (e + 1) c)))) ∧
     (∀ e c r p, s.selNode.st = .carry 1 e c → s.head 1 = some r → s.head 2 = some p → p.val = true → p.origin = none →
       e ≤ c + 1 + bitsOf f.cf 1 0 → s.room [f.t0, f.t1] →
       exec (.carry f) s = .next (s.routed [1, 2] [(f.t0, r), (f.t1, p.asCtl)] (some (.carry 1 (e + 1) (c + 1))))) ∧
     (∀ e c r p, s.selNode.st = .carry 1 e c → s.head 1 = some r → s.head 2 = some p → p.val = false → p.origin = none →
       s.room [f.t1] →
       exec (.carry f) s = .next (s.routed [2] [(f.t1, p.asCtl)] (some (.carry 2 e (c + 1))))) ∧
     (∀ e c r p o, s.selNode.st = .carry 1 e c → s.head 1 = some r → s.head 2 = some p → p.origin = some o →
       e ≤ c + 1 + bitsOf f.cf 1 0 → s.room [f.t0, f.t1] →
       exec (.carry f) s = .next (s.routed [1, 2] [(f.t0, r.poisonBy o), (f.t1, .ctl true true o)] (some (.carry 1 (e + 1) (c + 1))))) ∧
     (∀ e c r p, s.selNode.st = .carry 1 e c → s.head 1 = some r → s.head 2 = some p → (p.val = true ∨ p.origin.isSome = true) →
       (c + 1 + bitsOf f.cf 1 0 < e ∨ s.selRegion.accepts s.now f.t0 = false) → s.room [f.t1] →
       exec (.carry f) s = .next (s.routed [2] [(f.t1, match p.origin with
           | some o => .ctl true true o
           | none => p.asCtl)] (some (.carry 1 e (c + 1))))) ∧
     (∀ e c r p, s.selNode.st = .carry 1 e c → s.head 1 = some r → s.head 2 = some p → s.selRegion.accepts s.now f.t1 = false →
       e ≤ c + bitsOf f.cf 1 0 → s.room [f.t0] →
       exec (.carry f) s = .next (s.routed [1] [(f.t0, r)] (some (.carry 1 (e + 1) c)))) ∧
     (∀ e c r, s.selNode.st = .carry 1 e c → s.head 1 = some r → s.head 2 = none → c + bitsOf f.cf 1 0 < e →
       exec (.carry f) s = .next s) ∧
     (∀ e c, s.selNode.st = .carry 2 e c → s.room [f.t0, f.t1] →
       exec (.carry f) s = .next (s.routed [] [(f.t0, .mark .purge), (f.t1, .mark .purge)] (some (.carry 3 0 0)))) ∧
     (∀ e c r, s.selNode.st = .carry 3 e c → s.head 1 = some r → s.head 2 = none →
       exec (.carry f) s = .next (s.routed [1] [] (some (.carry 3 0 0)))) ∧
     (∀ e c, s.selNode.st = .carry 3 e c → s.head 1 = none → s.head 2 = none →
       exec (.carry f) s = .next (if s.selNode.r.marker s.now = some .purge ∧ s.selNode.p.marker s.now = some .purge
         then s.routed [1, 2] [] (some .idle) else s))) ∧
  ((∀ (f : FmtC) (s : State) (l : Token), s.live = true → s.selNode.st = .idle → s.head 0 = some l → s.room [f.t0, f.t1] →
     s.selNode.r.marker s.now = none →
     exec (.invar f) s = .next (s.routed [0] [] (some (.invar l)))) ∧
   (∀ (f : FmtC) (h : Heads) (s : State) (v r p : Token), f.cf.getLsbD 0 = false → s.selNode.st = .invar v → f.pm = .always →
     h.r = some r → h.p = some p → Ready .always false true true [f.t0, f.t1] h s →
     exec (.invar f) s = .next (s.routed [1, 2] [(f.t0, h.passed v), (f.t1, h.passed v)]
       (some (if p.val ∨ p.origin.isSome then .idle else .invar v)))) ∧
   (∀ (f : FmtC) (h : Heads) (s : State) (v : Token), f.cf.getLsbD 0 = true → s.selNode.st = .invar v →
     s.selNode.r.marker s.now = none → Ready f.pm false true false [f.t0, f.t1] h s →
     exec (.invar f) s = .next (s.routed h.slots [(f.t0, h.passed v), (f.t1, h.passed v)] (some (.invar v)))) ∧
   (∀ (f : FmtC) (s : State) (v : Token), s.live = true → f.cf.getLsbD 0 = true → f.pm = .always → s.selNode.st = .invar v →
     s.selNode.r.marker s.now = some .purge → s.room [f.t0, f.t1] →
     exec (.invar f) s = .next (s.routed [1] [(f.t0, .mark .purge), (f.t1, .mark .purge)] (some .idle)))) ∧
  ((∀ (f : FmtC) (h : Heads) (s : State), (∀ i hi po, s.selNode.st ≠ .loopgen i hi po) → Ready f.pm true true false [f.t0, f.t1] h s →
     h.l.bind Token.origin = none → h.r.bind Token.origin = none → h.p.bind Token.origin = none →
     (inside f (boundOf f h.l) (boundOf f h.r) →
       ∃ last : Bool, (last = true ↔ ¬ inside f (boundOf f h.l + f.imm.toInt) (boundOf f h.r)) ∧
       exec (.loopgen f) s = .next (s.routed h.slots
         [(f.t0, mkPkt f.ty [(BitVec.ofInt f.ty.elemBits (boundOf f h.l)).toNat]), (f.t1, .ctl last false 0)]
         (some (if last then .idle else .loopgen (boundOf f h.l + f.imm.toInt) (boundOf f h.r) none)))) ∧
     (¬ inside f (boundOf f h.l) (boundOf f h.r) → exec (.loopgen f) s = .next (s.routed h.slots [] none))) ∧
   (∀ (f : FmtC) (s : State) (i hi : Int), s.live = true → s.selNode.st = .loopgen i hi none → s.room [f.t0, f.t1] →
     ∃ last : Bool, (last = true ↔ ¬ inside f (i + f.imm.toInt) hi) ∧
     exec (.loopgen f) s = .next (s.routed []
       [(f.t0, mkPkt f.ty [(BitVec.ofInt f.ty.elemBits i).toNat]), (f.t1, .ctl last false 0)]
       (some (if last then .idle else .loopgen (i + f.imm.toInt) hi none)))) ∧
   (∀ (f : FmtC) (h : Heads) (s : State) (o : Origin), (∀ i hi po, s.selNode.st ≠ .loopgen i hi po) →
     Ready f.pm true true false [f.t0, f.t1] h s →
     (h.l.bind Token.origin = some o ∨ (h.l.bind Token.origin = none ∧ h.r.bind Token.origin = some o)) →
     exec (.loopgen f) s = .next (s.routed h.slots [(f.t0, badPkt f.ty 1 o), (f.t1, .ctl true true o)] none)) ∧
   (∀ (f : FmtC) (h : Heads) (s : State) (l : Token) (c : Nat), (∀ t k po, s.selNode.st ≠ .rept t k po) →
     Ready f.pm true (!f.cf.getLsbD 0) false [f.t0, f.t1] h s → h.l = some l → h.r.bind Token.origin = none →
     h.p.bind Token.origin = none → c = (if f.cf.getLsbD 0 then f.imm.toNat else (h.r.map (fun x => (low64 x).toNat)).getD 0) →
     exec (.repeatN f) s = .next (if c = 0 then s.routed h.slots [] none
       else s.routed h.slots [(f.t0, l), (f.t1, .ctl (c == 1) false 0)] (some (if c = 1 then .idle else .rept l (c - 1) none)))) ∧
   (∀ (f : FmtC) (s : State) (t : Token) (c : Nat), s.live = true → s.selNode.st = .rept t c none → s.room [f.t0, f.t1] →
     exec (.repeatN f) s = .next (s.routed [] [(f.t0, t), (f.t1, .ctl (c == 1) false 0)]
       (some (if c = 1 then .idle else .rept t (c - 1) none)))) ∧
   (∀ (f : FmtC) (h : Heads) (s : State) (l : Token) (o : Origin), (∀ t k po, s.selNode.st ≠ .rept t k po) → f.cf.getLsbD 0 = false →
     Ready f.pm true true false [f.t0, f.t1] h s → h.l = some l → (h.r.bind Token.origin).isSome = true → h.origin = some o →
     exec (.repeatN f) s = .next (s.routed h.slots [(f.t0, (h.passed l).poisonBy o), (f.t1, .ctl true true o)] (some .idle))) ∧
   (∀ (f : FmtC) (h : Heads) (s : State) (l : Token) (o : Origin) (c : Nat), (∀ t k po, s.selNode.st ≠ .rept t k po) →
     Ready f.pm true (!f.cf.getLsbD 0) false [f.t0, f.t1] h s → h.l = some l → h.r.bind Token.origin = none →
     (h.p.bind Token.origin).isSome = true → h.origin = some o →
     c = (if f.cf.getLsbD 0 then f.imm.toNat else (h.r.map (fun x => (low64 x).toNat)).getD 0) →
     exec (.repeatN f) s = .next (if c = 0 then s.routed h.slots [] none
       else s.routed h.slots [(f.t0, h.passed l), (f.t1, .ctl (c == 1) true o)]
         (some (if c = 1 then .idle else .rept (h.passed l) (c - 1) (some o))))) ∧
   (∀ (f : FmtC) (s : State) (t : Token) (o : Origin) (c : Nat), s.live = true → s.selNode.st = .rept t c (some o) → s.room [f.t0, f.t1] →
     exec (.repeatN f) s = .next (s.routed [] [(f.t0, t), (f.t1, .ctl (c == 1) true o)]
       (some (if c = 1 then .idle else .rept t (c - 1) (some o))))))

/-- R145 to R148: a home split deals token j to member j mod n, sending it whole and, on the last flag, an end-of-stream message
to every member; omerge takes output j from member j mod n, from L or from that member's return inbox, and a replica's sends
each L token there; sink discards. That a message is written at once, and what a predicate or an early marker does to an omerge,
are the model's choice (log entries 12, 42 and 51). -/
def Obligations.ElasticStreams : Prop :=
  (∀ (f : FmtC) (h : Heads) (s : State) (l p : Token) (g : Group) (n j : Nat), g = s.selGroup f → g.member = 0 →
    (s.selNode.st = .split n j ∨ (s.selNode.st = .idle ∧ n = g.n ∧ j = 0)) → h.l = some l → h.p = some p →
    Ready .always true false true [f.t0] h s →
    let c := s.sel.1
    let k := bitsOf f.imm 1 0
    let sends : Sends := (if j % n = 0 then [] else [(replicaIcb (g.clusters.getD (j % n - 1) 0), 1, h.passed l)]) ++
      (if p.val then (List.range (n - 1)).map (fun i => (replicaIcb (g.clusters.getD i 0), 2, .mark .eos)) else [])
    s.checkSends sends = .ok →
    ∃ b : List Nat, exec (.split f) s = .next
      (let u := (s.routed [0, 2] (if j % n = 0 then [(f.t0, h.passed l)] else [])
        (some (if p.val then .idle else .split n (j + 1)))).sendAll sends b
       (if j = 0 then u.dropMembers c k else u).modGroup c k (fun g => g.deal n j p.val))) ∧
  (∀ (f : FmtC) (s : State) (b : Icb) (len : Nat) (bs : List Byte) (j : Nat), s.live = true → (s.selGroup f).member ≠ 0 →
    b = s.icbAt (replicaIcb s.sel.1) (replicaIcb s.sel.1 + 64) → s.inboxHead b = some (len, 1, bs) →
    (s.selNode.st = .split 1 j ∨ (s.selNode.st = .idle ∧ j = 0)) → s.room [f.t0] →
    exec (.split f) s = .next
      (((s.commit { outs := [(f.t0, tokenOfBody s.onCtl bs)], extra := s.inboxBound s.sel.1 (replicaIcb s.sel.1)
                    st := some (.split 1 (j + 1)) }).inboxTake b len).modGroup s.sel.1 (bitsOf f.imm 1 0) (fun g => g.deal 1 j false))) ∧
  (∀ (f : FmtC) (h : Heads) (s : State) (l : Token) (r : GroupRun) (rest : List GroupRun) (j : Nat), (s.selGroup f).member = 0 →
    (s.selGroup f).streams = r :: rest → (s.selNode.st = .omerge j false ∨ (s.selNode.st = .idle ∧ j = 0)) →
    s.selNode.l.marker s.now = none → j + 1 < r.seen → j % r.n = 0 → h.l = some l → Ready f.pm true false false [f.t0, f.t1] h s →
    exec (.omerge f) s = .next (s.routed h.slots
      [(f.t0, h.passed l), (f.t1, ctlOr false ((h.p.bind Token.origin).map (fun o => l.origin.getD o)))]
      (some (.omerge (j + 1) false)))) ∧
  (∀ (f : FmtC) (s : State) (r : GroupRun) (rest : List GroupRun) (j len : Nat) (b : Icb) (bs : List Byte), s.live = true →
    (s.selGroup f).member = 0 → (s.selGroup f).streams = r :: rest → (s.selNode.st = .omerge j false ∨ (s.selNode.st = .idle ∧ j = 0)) →
    s.selNode.l.marker s.now = none → j + 1 < r.seen → j % r.n ≠ 0 → f.pm = .always → s.room [f.t0, f.t1] →
    let pa := returnIcb s.sel.1 (bitsOf f.imm 1 0) (j % r.n)
    b = s.icbAt pa (pa + 64) → s.inboxHead b = some (len, 1, bs) →
    exec (.omerge f) s = .next ((s.commit { outs := [(f.t0, tokenOfBody s.onCtl bs), (f.t1, .ctl false false 0)]
                                            extra := s.inboxBound s.sel.1 pa, st := some (.omerge (j + 1) false) }).inboxTake b len)) ∧
  (∀ (f : FmtC) (h : Heads) (s : State) (l : Token) (r : GroupRun) (rest : List GroupRun) (j : Nat), (s.selGroup f).member ≠ 0 →
    (s.selGroup f).streams = r :: rest → (s.selNode.st = .omerge j false ∨ (s.selNode.st = .idle ∧ j = 0)) →
    s.selNode.l.marker s.now = none → (r.ended = false ∨ j < r.seen) → h.l = some l → Ready f.pm true false false [] h s →
    let sends : Sends := [(returnIcb (s.selGroup f).home (bitsOf f.imm 1 0) (s.selGroup f).member, 1, h.passed l)]
    s.checkSends sends = .ok →
    ∃ b : List Nat, exec (.omerge f) s = .next ((s.routed h.slots [] (some (.omerge (j + 1) false))).sendAll sends b)) ∧
  (∀ (f : FmtC) (h : Heads) (s : State) (l : Token) (r : GroupRun) (rest : List GroupRun) (j : Nat), (s.selGroup f).member = 0 →
    (s.selGroup f).streams = r :: rest → (s.selNode.st = .omerge j false ∨ (s.selNode.st = .idle ∧ j = 0)) →
    s.selNode.l.marker s.now = none → r.ended = true → r.seen = j + 1 → j % r.n = 0 → h.l = some l →
    Ready f.pm true false false [f.t0, f.t1] h s →
    exec (.omerge f) s = .next
      (((s.routed h.slots [(f.t0, h.passed l), (f.t1, ctlOr true ((h.p.bind Token.origin).map (fun o => l.origin.getD o)))]
        (some (if f.cf.getLsbD 0 then .omerge 0 true else .idle))).modGroup s.sel.1 (bitsOf f.imm 1 0)
          (fun g => { g with streams := g.streams.drop 1 })).dropMembers s.sel.1 (bitsOf f.imm 1 0))) ∧
  (∀ (f : FmtC) (s : State), s.live = true →
    (s.selNode.l.marker s.now = some .eos → exec (.sink f) s = .next (s.routed [0] [] none)) ∧
    (∀ t, s.head 0 = some t → (t.origin = none ∨ f.cf.getLsbD 0 = false) → exec (.sink f) s = .next (s.routed [0] [] none)) ∧
    (∀ t o, s.head 0 = some t → t.origin = some o → f.cf.getLsbD 0 = true →
      ∃ x : TrapRec, x.code = 5 ∧ x.src = srcNode s.sel.1 s.sel.2 ∧ x.a = o.setWidth 64 ∧
        exec (.sink f) s = .next ((s.routed [0] [] none).raise s.sel.1 x)))

/-- R149, R150 and R153: a ready memory node with clean operands and an aligned address issues its access, with its effective
address, the same as it is resolved now (R233), its data and its operand set, and keeps a place for each token to come; the node
is bound to what it took only once the access has performed. R149: the effective address is L payload [63:0] plus the signed
offset, of 16 bits for amo and rmw and of 21 for the others. R153 and R154: a misaligned access raises T_ALIGN with its address
and kind, and a write-class node whose address or P is poisoned raises T_POISON with the origin; both rewind, so that nothing is
consumed. R164: fence consumes L and R and emits clean control tokens with VAL = 1, whatever comes in. What a trap of an issue
consumes, and that a fence takes the memory unit of its cell, are the model's reading (log entries 15 and 43). -/
def Obligations.MemoryIssues : Prop :=
  (∀ (i : Instr) (f : FmtM) (uR : Bool) (pads : List Target) (h : Heads) (s : State), memOf i = some (f, uR, pads) →
     ReadyM f.pm uR pads h s → (isWriteClass i = true → firstOrigin [h.l, h.p] = none) →
     ((h.noAccess i).isSome ∨ (effAddr i h.l).toNat % alignOf i = 0) →
     ∃ (b : List Nat) (ready : Nat), s.now < ready ∧ exec i s = .next
       ((s.commit { pops := h.slots, later := pads, busy := some (3, 1), defer := true }).modRegion s.sel.1 (fun r => { r with
         accesses := r.accesses ++ [
           { id := s.ids + 1, node := s.sel.2, ins := i, fired := s.now, ready := ready, addr := effAddr i h.l
             abs := s.resolved (s.space s.sel.1) (effAddr i h.l), data := h.r
             poison := h.p.bind Token.origin, skip := h.noAccess i, bound := b, ops := s.capture h.slots, priv := s.selTask.supb }] }))) ∧
  (∀ (i : Instr) (f : FmtM) (uR : Bool) (pads : List Target) (ty : Ty) (len : Nat) (psn : Bool) (pay : Payload),
     memOf i = some (f, uR, pads) →
     effAddr i (some (.pkt ty len psn pay)) = pay.setWidth 64 +
       (match i with
        | .amo _ | .rmw _ => (f.off.setWidth 16).signExtend 64
        | _ => f.off.signExtend 64)) ∧
  (∀ (i : Instr) (f : FmtM) (uR : Bool) (pads : List Target) (h : Heads) (s : State), memOf i = some (f, uR, pads) →
     ReadyM f.pm uR pads h s →
     (∀ o, isWriteClass i = true → firstOrigin [h.l, h.p] = some o →
       exec i s = .next (s.raise s.sel.1
         { s.record s.sel.1 (srcNode s.sel.1 s.sel.2) 5 0 (o.setWidth 64) (BitVec.ofNat 64 s.sel.2) 4 with rewinds := true })) ∧
     ((isWriteClass i = true → firstOrigin [h.l, h.p] = none) → h.noAccess i = none → (effAddr i h.l).toNat % alignOf i ≠ 0 →
       exec i s = .next (s.raise s.sel.1
         { s.record s.sel.1 (srcNode s.sel.1 s.sel.2) 4 0 (effAddr i h.l) 0 (BitVec.ofNat 64 (8 * (accessKind i).code))
           with rewinds := true }))) ∧
  (∀ (f : FmtM) (h : Heads) (s : State), s.unitFree 3 = true → Ready f.pm true true false [f.t0, f.t1] h s →
     exec (.fence f) s = .next (s.commit { pops := h.slots, outs := [(f.t0, .ctl true false 0), (f.t1, .ctl true false 0)]
                                           busy := some (3, 1) }))

/-- R204: tsget emits the time stamp of its firing cycle, one for the whole package, and no step but a reset takes it back. -/
def Obligations.TimeStamps : Prop :=
  (∀ (f : FmtS) (h : Heads) (s : State), Ready f.pm true false false [f.t0, f.t1] h s → h.origin = none →
    exec (.tsget f) s = .next (s.commit { pops := h.slots, outs := [(f.t0, mkPkt .i64 [s.now]), (f.t1, mkPkt .i64 [s.now])] })) ∧
  (∀ s t : State, (∀ k, s.agenda.head? ≠ some (.event (.coldReset k))) → step s = .next t → s.now ≤ t.now)

/-- R157 and R262: a load that performs delivers, byte by byte, what the writes up to some number left, the last write's where
it looks back at none, and never a byte older than a write of it that its node is bound to; memory stays as it is. R165 and
R154: a pref answers VAL = 1 where the address may be read, else VAL = 0; it keeps what its walk found in the TLB, raises
nothing and changes no byte; a poisoned one delivers its token and looks nothing up. It waits while the walk would meet a closed
module. How the argument age counts is the model's reading (log entry 19). -/
def Obligations.LoadsPerform : Prop :=
  (∀ (c k age : Nat) (a : Access) (f : FmtM) (pas : List Nat) (s : State), Performs c k a age pas s →
     (a.ins = .ld f ∨ a.ins = .ldp f) → s.histOk →
     ∃ (cs : List (Nat × Nat)) (bound : List Nat), cs.map (·.1) = pas ∧ (∀ x ∈ cs, x.2 ≤ s.wseq) ∧
       (age = 0 → s.cutBytes cs = pas.map (Memory.read s.mem)) ∧
       (∀ w ∈ s.hist, w.seq ∈ s.accessBound c a → ∀ x ∈ cs, w.writes x.1 = true → w.seq ≤ x.2) ∧
       (∀ n ∈ s.accessBound c a, n ∈ bound) ∧
       exec (.memoryAccessPerform c k age) s = .next
         (((s.arrived c a age).findErrors pas).finishAccess c a
           (some (loadTok f.sz.toNat (s.cutBytes cs)
             (if s.cutMarked cs then some (originOf c a.node (if pas.any s.damaged then 1 else 2) s.now) else a.poison)))
           (ctlOr true a.poison) bound) ∧
       (((s.arrived c a age).findErrors pas).finishAccess c a none (ctlOr true a.poison) bound).mem = s.mem) ∧
  (∀ (c k age : Nat) (a : Access) (f : FmtM) (s : State), s.mayPerform c k = some a → a.ins = .pref f → s.mirrored c = false →
     let opened := s.walkOpen (s.accessSpace c a age) a.abs 1
     (∀ o, a.skip = some o →
       exec (.memoryAccessPerform c k age) s = .next (s.finishAccess c a none (.ctl false true o) (s.accessBound c a))) ∧
     (a.skip = none → opened = false → exec (.memoryAccessPerform c k age) s = .next s) ∧
     (a.skip = none → opened = true → ∃ (t u : State) (v : Bool), exec (.memoryAccessPerform c k age) s = .next t ∧
       t = u.finishAccess c a none (.ctl v false 0) (s.accessBound c a) ∧ (v = true ↔ ∃ x, s.accessHome c a age = .ok x) ∧
       t.mem = s.mem ∧ t.hub.records = s.hub.records ∧ (∀ d, (t.region d).frozen = (s.region d).frozen) ∧
       (∀ pa e, c < 64 → s.accessHome c a age = .ok (pa, some e) → e ∈ (t.cluster c).tlb)))

/-- R158: a store that performs writes the low bytes of its data at its addresses, and changes no other byte of memory but those
of the other copy of a page that is being moved (R354). R154, R158 and R382: a store marks every sector that its poisoned data
covers; clean data clears the mark of a sector that it writes whole, and what uncorrectable error it had, and leaves every other
mark as it was, but for the other copy of a page that moves. That a store is one write is the model's reading (log entry 19). -/
def Obligations.StorePerforms : Prop :=
  (∀ (c k age : Nat) (a : Access) (f : FmtM) (pas : List Nat) (s : State), Performs c k a age pas s →
     (a.ins = .st f ∨ a.ins = .stp f) →
     ∃ t : State, exec (.memoryAccessPerform c k age) s = .next t ∧
       (∀ x, (∀ p ∈ pas, p ≠ x ∧ s.otherCopy p ≠ some x) → Memory.read t.mem x = Memory.read s.mem x) ∧
       (s.memOk → pas.Nodup → (∀ p ∈ pas, s.otherCopy p = none) → ∀ j < pas.length,
         Memory.read t.mem (pas.getD j 0) = BitVec.ofNat 8 ((payloadOf (a.data.getD (.ctl false false 0))).toNat / 2 ^ (8 * j))) ∧
       t.full = s.full ∧ t.wseq = s.wseq + 1) ∧
  (∀ (c k age : Nat) (a : Access) (f : FmtM) (pas : List Nat) (s : State), Performs c k a age pas s →
     (a.ins = .st f ∨ a.ins = .stp f) →
     ∃ t : State, exec (.memoryAccessPerform c k age) s = .next t ∧
       ((a.data.bind Token.origin).isSome = true → ∀ p ∈ pas, sectorOf p ∈ t.marks) ∧
       (a.data.bind Token.origin = none → ∀ sec, (∀ j < 32, 32 * sec + j ∈ pas) → sec ∉ t.marks ∧ sec ∉ t.ecc) ∧
       (∀ sec, (∀ p ∈ pas, ∀ q, s.otherCopy p = some q → sectorOf q ≠ sec) →
         ((∀ p ∈ pas, sectorOf p ≠ sec) ∨ a.data.bind Token.origin = none ∧ ∃ j < 32, 32 * sec + j ∉ pas) →
         (sec ∈ t.marks ↔ sec ∈ s.marks) ∧ (sec ∈ t.ecc ↔ sec ∈ s.ecc)))

/-- R161 to R163 and R154: an atomic that performs on clean memory with a clean operand writes its new value, little-endian, and
shows the old one (rmw: the new one); a cas that does not match writes nothing; on a poisoned sector nothing changes, and a
poisoned operand marks the sector. What an uncorrectable error gives is the model's reading (log entry 35). -/
def Obligations.AtomicPerforms : Prop :=
  ∀ (c k age : Nat) (a : Access) (pas : List Nat) (s : State) (new : Option Nat) (shown w : Nat) (ty : Ty),
    Performs c k a age pas s → w = 8 * pas.length → (memFmt a.ins).sz.toNat < 4 →
    atomicOf a.ins w (leVal (pas.map (Memory.read s.mem))) (payloadOf (a.data.getD (.ctl false false 0))).toNat = some (new, shown, ty) →
    ∃ (t : State) (tok : Token) (bound : List Nat), exec (.memoryAccessPerform c k age) s =
        .next (t.finishAccess c a (some tok) (ctlOr true a.poison) bound) ∧
      (pas.any s.marked = true → t.mem = s.mem ∧ t.marks = (s.findErrors pas).marks ∧
        tok = badPkt ty 1 (originOf c a.node (if pas.any s.damaged then 1 else 2) s.now)) ∧
      (∀ o, pas.any s.marked = false → a.data.bind Token.origin = some o →
        t.mem = s.mem ∧ sectorOf (pas.headD 0) ∈ t.marks ∧ tok = badPkt ty 1 o) ∧
      (pas.any s.marked = false → a.data.bind Token.origin = none → tok = mkPkt ty [shown] ∧
        (new = none → t.mem = s.mem) ∧
        (∀ x, (∀ p ∈ pas, p ≠ x ∧ s.otherCopy p ≠ some x) → Memory.read t.mem x = Memory.read s.mem x) ∧
        (∀ y, new = some y → s.memOk → pas.Nodup → (∀ p ∈ pas, s.otherCopy p = none) → ∀ j < pas.length,
          Memory.read t.mem (pas.getD j 0) = BitVec.ofNat 8 (y / 2 ^ (8 * j))))

/-- R160 and R269: an ldfe at an empty line, and an acquire-release stfe at a full one, wait parked; else ldfe reads what it may
(R262) and, with OR = 3, empties the line, stfe writes and fills it, lnful and lnemp set its state and no byte. How the argument
age counts, and the age of an access that waits parked, are the model's reading (log entry 19). -/
def Obligations.LineInstructionsPerform : Prop :=
  ∀ (c k age : Nat) (a : Access) (f : FmtM) (pas : List Nat) (s : State), Performs c k a age pas s → s.histOk →
    let ln := pas.headD 0 / 128
    (a.ins = .ldfe f → ln ∉ s.full → ∃ a1 : Access, (a1.parked.isSome ∨ a1.retry = some (s.now + 16)) ∧
      a1.id = a.id ∧ a1.ins = a.ins ∧ exec (.memoryAccessPerform c k age) s = .next ({ s with arrivals := s.arrivals + 1 }.modRegion c (fun r =>
        { r with accesses := r.accesses.map (fun (x : Access) => if x.id = a.id then a1 else x) }))) ∧
    (a.ins = .ldfe f → ln ∈ s.full → ∃ (t : State) (cs : List (Nat × Nat)) (bound : List Nat), exec (.memoryAccessPerform c k age) s = .next
        (t.finishAccess c a (some (loadTok f.sz.toNat (s.cutBytes cs)
          (if s.cutMarked cs then some (originOf c a.node (if pas.any s.damaged then 1 else 2) s.now) else a.poison)))
          (ctlOr true a.poison) bound) ∧
      cs.map (·.1) = pas ∧ (age = 0 → s.cutBytes cs = pas.map (Memory.read s.mem)) ∧
      (∀ w ∈ s.hist, w.seq ∈ s.accessBound c a → ∀ x ∈ cs, w.writes x.1 = true → w.seq ≤ x.2) ∧
      t.mem = s.mem ∧ t.full = (if f.ord = 3 then s.full.filter (· ≠ ln) else s.full)) ∧
    (a.ins = .stfe f → f.ord = 3 → ln ∈ s.full → ∃ a1 : Access, (a1.parked.isSome ∨ a1.retry = some (s.now + 16)) ∧
      a1.id = a.id ∧ a1.ins = a.ins ∧ a1.data = a.data ∧ exec (.memoryAccessPerform c k age) s = .next
        ({ s with arrivals := s.arrivals + 1 }.modRegion c (fun r =>
          { r with accesses := r.accesses.map (fun (x : Access) => if x.id = a.id then a1 else x) }))) ∧
    (a.ins = .stfe f → ¬ (f.ord = 3 ∧ ln ∈ s.full) → ∃ t : State, exec (.memoryAccessPerform c k age) s = .next t ∧
      ln ∈ t.full ∧ (∀ l, l ≠ ln → (l ∈ t.full ↔ l ∈ s.full)) ∧
      (∀ x, (∀ p ∈ pas, p ≠ x ∧ s.otherCopy p ≠ some x) → Memory.read t.mem x = Memory.read s.mem x) ∧
      (s.memOk → pas.Nodup → (∀ p ∈ pas, s.otherCopy p = none) → ∀ j < pas.length,
        Memory.read t.mem (pas.getD j 0) = BitVec.ofNat 8 ((payloadOf (a.data.getD (.ctl false false 0))).toNat / 2 ^ (8 * j)))) ∧
    ((a.ins = .lnful f ∨ a.ins = .lnemp f) → ∃ t : State, exec (.memoryAccessPerform c k age) s = .next t ∧ t.mem = s.mem ∧
      (ln ∈ t.full ↔ a.ins = .lnful f) ∧ ∀ l, l ≠ ln → (l ∈ t.full ↔ l ∈ s.full))

/-- R155: an access that faults returns the operand sets of its own and every later firing of its node, in order, to the heads
of the queues, takes back the places kept for their tokens, and raises its fault; what its translation found stays in the TLB.
R160 and R341: the parked requests of a line are served in arrival order; one whose line has become full, woken or trying again
after 16 cycles, reads it; a walk waits for the modules on its way (R399), then fills the TLB of its cluster with a leaf of the
address, and one that faults fills nothing. How far a walk looks back is the free value State.lag (log entry 20). -/
def Obligations.AccessesFaultAndWait : Prop :=
  (∀ (c k age : Nat) (a : Access) (x : XFault) (s : State), s.mayPerform c k = some a → s.mirrored c = false → a.skip = none →
     s.frozenPark c a = false → (∀ f, a.ins ≠ .pref f) →
     s.walkOpen (s.accessSpace c a age) a.abs (accessBytes a.ins a.data) = true → s.accessPlaces c a age = .error x →
     (s.taskOf c).ending = false → a.old = false → ((s.region c).node a.node).retired = false →
     exec (.memoryAccessPerform c k age) s =
       .next (((s.accessWalked c a age).rewind c a).raise c { (s.accessWalked c a age).faultRecord c a.node x 0 with rewinds := true }) ∧
     (∀ b ∈ ((s.rewind c a).region c).accesses, b ∈ (s.region c).accesses ∧ (b.node ≠ a.node ∨ b.id < a.id ∨ b.old = true)) ∧
     (∀ b ∈ (s.region c).accesses, (b.node ≠ a.node ∨ b.id < a.id ∨ b.old = true) →
       (∀ b' ∈ (s.region c).accesses, b'.id = b.id → b' = b) → b ∈ ((s.rewind c a).region c).accesses) ∧
     (s.rewind c a).mem = s.mem) ∧
  ((∀ (s : State) (line : Nat), ((s.waiters line).map (fun x => x.2.parked.getD 0)).Pairwise (· < ·) ∧
     (s.waiters line = [] → exec (.fullEmptyWake line) s = .next s)) ∧
   (∀ (c k line : Nat) (a : Access) (f : FmtM) (pas : List Nat) (s : State), a.ins = .ldfe f → a.skip = none → (s.region c).halted = false →
     s.histOk → s.walkOpen (s.accessSpace c a s.lag) a.abs (accessBytes a.ins a.data) = true → s.accessPlaces c a s.lag = .ok pas → misplaced c a.ins (pas.headD 0) = false →
     (∀ p ∈ pas, isFar p = false ∧ s.pathOpen c p = true) → pas.headD 0 / 128 ∈ s.full →
     ∀ ev : Instr, ((ev = .fullEmptyWake line ∧ s.waiters line = [(c, a)]) ∨ (ev = .parkRetry c k ∧
         (s.region c).accesses.find? (fun a => a.id == k) = some a ∧ ∃ t, a.retry = some t ∧ t ≤ s.now)) →
       ∃ (t : State) (cs : List (Nat × Nat)) (bound : List Nat), exec ev s = .next
         (t.finishAccess c a (some (loadTok f.sz.toNat (s.cutBytes cs)
           (if s.cutMarked cs then some (originOf c a.node (if pas.any s.damaged then 1 else 2) s.now) else a.poison)))
           (ctlOr true a.poison) bound) ∧
         cs.map (·.1) = pas ∧ (s.lag = 0 → s.cutBytes cs = pas.map (Memory.read s.mem)) ∧
         t.mem = s.mem ∧ t.full = (if f.ord = 3 then s.full.filter (· ≠ pas.headD 0 / 128) else s.full)) ∧
   (∀ (c k : Nat) (a : Access) (s : State) (t : Nat), (s.region c).accesses.find? (fun a => a.id == k) = some a → a.retry = some t →
     s.now < t → exec (.parkRetry c k) s = .next s) ∧
   (∀ (c k : Nat) (a : Access) (s : State), s.mayPerform c k = some a → a.skip = none → c < 64 →
     (s.walkOpen (s.accessSpace c a s.lag) a.abs (accessBytes a.ins a.data) = false → exec (.tableWalk c k) s = .next s) ∧
     (s.walkOpen (s.accessSpace c a s.lag) a.abs (accessBytes a.ins a.data) = true → ∃ t : State, exec (.tableWalk c k) s = .next t ∧ t.mem = s.mem ∧ t.tasks = s.tasks ∧ t.region c = s.region c ∧
       (∀ d, d ≠ c → t.cluster d = s.cluster d) ∧
       (∀ pa e, 0 < accessBytes a.ins a.data → a.abs.toNat % 4096 + accessBytes a.ins a.data ≤ 4096 →
         s.accessHome c a s.lag = .ok (pa, some e) → (t.cluster c).tlb.head? = some e ∧
           a.abs.toNat / 2 ^ e.log * 2 ^ e.log = e.va ∧ pa = e.pa + a.abs.toNat % 2 ^ e.log) ∧
       (∀ x, a.abs.toNat % 4096 + accessBytes a.ins a.data ≤ 4096 → s.walk (s.accessSpace c a s.lag) a.abs (accessKind a.ins) = .error x →
         (t.cluster c).tlb = (s.cluster c).tlb))))

/-- R179 to R185: sbind, sfree, tcopy, tgath, tscat, board, migr, msend, swait, ssig, sset, kick, rspeed and repl put a command
into the engine queue of their cluster, with their operands and the block's privilege, and keep a place for its completion
token; kick and repl read the number of their result register at once. A poisoned operand raises T_POISON with the origin in its
stead. A mirrored task's command goes to the umpire first (R391). That a poisoned operand is consumed is the model's reading
(log entry 15); that an RREG beyond 111 names no register is its choice (log entry 59). -/
def Obligations.CommandsIssue : Prop :=
  ∀ (i : Instr) (f : FmtE) (h : Heads) (s : State), i.eFmt = some f → s.unitFree 192 = true →
    (s.cluster s.sel.1).eq.length < 64 → Ready f.pm true (usesRight i) false [f.t0] h s →
    (namesRreg i = true → s.rregOpen s.sel.1 i ((h.l.map low64).getD 0) (s.selNode.boundOf s.now h.slots) = true) →
    (h.origin = none → ∃ k : Cmd, k.id = s.ids + 1 ∧ k.task = s.taskIdOf s.sel.1 ∧ k.node = s.sel.2 ∧ k.ins = i ∧ k.fired = s.now ∧
      k.priv = s.selTask.supb ∧ k.l = (h.l.map low64).getD 0 ∧ k.r = (h.r.map low64).getD 0 ∧ k.arrived = s.arrivals + 1 ∧
      k.step = (if s.mirrored s.sel.1 then 1 else if f.wsem ≠ 0xFF then 2 else if usesTile i then 3 else 4) ∧
      (namesRreg i = false → k.rreg = none) ∧ (∀ g, k.rreg = some g → 1 ≤ g ∧ g < 112) ∧
      exec i s = .next
        (let u := (s.commit { pops := h.slots, later := [f.t0], busy := some (192, 1) }).rregRead s.sel.1 i k.l k.start
         let u1 := { u with arrivals := s.arrivals + 1 }.modCluster s.sel.1 (fun x => { x with eq := x.eq ++ [k] })
         let u2 := if s.mirrored s.sel.1 then u1.pushItem s.sel.1 s.sel.2 1 k.id [encode i, k.l, k.r] else u1
         match k.rreg with
         | some g => u2.modTaskOf s.sel.1 (fun t => { t with pends := t.pends ++ [{ reg := g, cmd := k.id }] })
         | none => u2)) ∧
    (∀ o, h.origin = some o → exec i s = .next ((s.commit { pops := h.slots }).raisePoison o 2))

/-- R196 to R200: exit, call and yield select the block at their frame offset, exiti, calli and ret the address on L; a poisoned
operand raises T_POISON and selects nothing. A mirrored task's exit goes to the umpire first (R391). R197 and R212: the first
exit of a block is the one selected, in one cycle the one of the lowest index; a later one changes nothing. A selected direct
exit whose block stands in the shadow keeps it; any other exit discards what the shadow holds and loads it anew, but for one
that ends the task, which drops it. That a poisoned operand is consumed is the model's reading (log entry 15). -/
def Obligations.ExitsFire : Prop :=
  (∀ (i : Instr) (f : FmtB) (kind : ExitKind) (ind : Bool) (h : Heads) (s : State), exitOf i = some (f, kind, ind) →
     Ready f.pm (ind || f.pm == .always) false false [] h s →
     (h.origin = none → ∃ (x : Sel) (b : List Nat), x.kind = kind ∧ x.exn = f.exn.toNat ∧ x.node = s.sel.2 ∧ x.cycle = s.now ∧
       (ind = false → x.addr = BitVec.ofNat 64 s.selRegion.blk + f.off.signExtend 64 * 32) ∧
       (ind = true → x.addr = laneOf h.l) ∧
       exec i s = .next
         (let u := (s.commit { pops := h.slots }).modTaskOf s.sel.1 (fun t => { t with bound := union t.bound b })
          if s.mirrored s.sel.1 then u.pushItem s.sel.1 s.sel.2 3 s.now [BitVec.ofNat 64 kind.code, x.addr, BitVec.ofNat 64 x.exn]
          else u.select s.sel.1 x)) ∧
     (∀ o, h.origin = some o → exec i s = .next ((s.commit { pops := h.slots }).raisePoison o 1))) ∧
  (∀ (s : State) (c : Nat) (x : Sel), (s.cluster c).task.isSome = true →
     (∀ y, (s.region c).sel = some y → (y.cycle ≠ x.cycle ∨ y.node ≤ x.node) → s.select c x = s) ∧
     ((∀ y, (s.region c).sel = some y → y.cycle = x.cycle ∧ x.node < y.node) →
       ((s.select c x).region c).sel = some x ∧ ((s.select c x).taskOf c).lexn = x.exn ∧
       (x.kind ∈ [.exit, .call, .yield] → (∃ sh, (s.region c).shadow = some sh ∧ sh.blk = x.addr.toNat) →
         ((s.select c x).region c).shadow = (s.region c).shadow) ∧
       (x.kind ∈ [.exit, .call, .yield] → (∀ sh, (s.region c).shadow = some sh → sh.blk ≠ x.addr.toNat) → ∃ n, s.now ≤ n ∧
         ((s.select c x).region c).shadow = some { blk := x.addr.toNat, usable := n }) ∧
       (x.kind ∈ [.exiti, .ret] → x.addr = 0 → ((s.select c x).region c).shadow = none) ∧
       ((x.kind = .calli ∨ (x.kind ∈ [.exiti, .ret] ∧ x.addr ≠ 0)) → ∃ n, s.now ≤ n ∧
         ((s.select c x).region c).shadow = some { blk := x.addr.toNat, usable := n })))

/-- R201: trap raises the trap of CODE[7:0] with subcode CODE[15:8], brk T_BRK with the whole code, both marked as raised by
software, after their operands are consumed. R33, R371 and R374: a trap freezes an unfrozen region and puts its record in the
task's trap registers and before the hub; of two faults of one cycle the one of the lower SRC is raised and the other held; a
fault that meets a frozen region is held, but for one that rewinds. That a poisoned operand is consumed is the model's reading
(log entry 15). -/
def Obligations.TrapsTaken : Prop :=
  (∀ (brk : Bool) (f : FmtT) (h : Heads) (s : State), Ready f.pm (f.pm == .always) false false [] h s →
     let i : Instr := if brk then .brk f else .trap f
     (h.origin = none → ∃ x : TrapRec, x.stamp = s.now ∧ x.src = srcNode s.sel.1 s.sel.2 ∧ x.sw = true ∧ x.held = false ∧
       x.rewinds = false ∧ x.pclus = s.sel.1 ∧ x.task = s.taskIdOf s.sel.1 ∧ (s.selRegion.restoring = none → x.block = s.selRegion.blk ∧ x.step = s.selRegion.step) ∧
       x.code = (if brk then 0x11 else f.code.toNat % 256) ∧ x.sub = (if brk then f.code.toNat else f.code.toNat / 256) ∧
       exec i s = .next ((s.commit { pops := h.slots }).raise s.sel.1 x)) ∧
     (∀ o, h.origin = some o → exec i s = .next ((s.commit { pops := h.slots }).raisePoison o 1))) ∧
  (∀ (s : State) (c : Nat) (x : TrapRec) (t : Nat), (s.cluster c).task = some t → (s.task t).twin = none → (s.task t).isTwin = false →
     (((s.region c).frozen = none ∨ ∃ y, (s.region c).frozen = some y ∧ y.stamp = s.now ∧ x.src < y.src) →
       ((s.raise c x).region c).frozen = some x ∧ ((s.raise c x).task t).tcause = x.cause ∧
       ((s.raise c x).task t).tinfo = [x.a, x.b, x.c, x.d] ∧ x ∈ (s.raise c x).hub.records ∧
       (∀ y, (s.region c).frozen = some y → ((s.raise c x).region c).held = if y.rewinds then (s.region c).held else (s.region c).held ++ [y]) ∧
       (s.raise c x).mem = s.mem ∧ (∀ u, u ≠ t → (s.raise c x).task u = s.task u) ∧
       (∀ d, d ≠ c → (s.raise c x).cluster d = s.cluster d) ∧ ((s.raise c x).region c).nodes = (s.region c).nodes ∧
       (∀ n, ((s.raise c x).task t).reg n = (s.task t).reg n)) ∧
     (∀ y, (s.region c).frozen = some y → (y.stamp ≠ s.now ∨ y.src ≤ x.src) →
       s.raise c x = if x.rewinds then s else s.modRegion c (fun r => { r with held := r.held ++ [x] })) ∧
     bitsOf x.cause 7 0 = x.code % 256 ∧
     (x.code < 256 → x.sub < 65536 → x.step < 16 → bitsOf x.cause 23 8 = x.sub ∧ x.cause.getLsbD 24 = x.sw ∧
       x.cause.getLsbD 25 = x.held ∧ bitsOf x.cause 29 26 = x.step))

/-- R202, R203 and R399: sysrd emits the register, syswr writes L lane 0 and completes; a poisoned trigger poisons what sysrd
emits, a poisoned operand of syswr raises T_POISON. Either waits while a closed module stands on the way to the register. R203,
R8 and R9: what a register reads as after a write: SEED, BUDGET, STRANDED, RMODE and LINK_SEL take it, a flag written 1 clears
unless this cycle has set it, read-only and unassigned registers do not change. That a poisoned operand is consumed, and when a
firing waits for the hub, are the model's reading (log entries 15 and 46); that a poisoned P of sysrd poisons what it emits is
its choice (log entry 59). -/
def Obligations.SystemRegisters : Prop :=
  (∀ (f : FmtS) (h : Heads) (s : State), Ready f.pm true false false [f.t0, f.t1] h s →
     let both (t : Token) : List (Target × Token) := [(f.t0, t), (f.t1, t)]
     let lat := if f.sysno.toNat < 256 then 2 else 20
     let reached := s.regOpen s.sel.1 f.sysno.toNat
     (reached = false → exec (.sysrd f) s = .next s ∧ exec (.syswr f) s = .next s) ∧
     (reached = true → exec (.sysrd f) s = .next
       (let u := s.commit { pops := h.slots, outs := both (packetOr .i64 h.origin [(s.readReg s.sel.1 f.sysno.toNat).toNat]), lat := lat }
        if f.sysno.toNat < 256 then u else u.irrevoke s.sel.1)) ∧
     (reached = true → h.origin = none → exec (.syswr f) s = .next
       (((s.commit { pops := h.slots, outs := both (.ctl true false 0), lat := lat }).irrevoke s.sel.1).writeReg s.sel.1 f.sysno.toNat
         (laneOf h.l))) ∧
     (∀ o, reached = true → h.origin = some o → exec (.syswr f) s = .next ((s.commit { pops := h.slots }).raisePoison o 7))) ∧
  (∀ (s : State) (c : Nat) (v : Word), (s.cluster c).task.isSome = true →
     (s.writeReg c 2 v).readReg c 2 = v ∧ (s.writeReg c 3 v).readReg c 3 = v ∧
     (s.writeReg c 4 v).readReg c 4 = v &&& 0xFFFFFFFF ∧
     (s.writeReg c 0x35 v).readReg c 0x35 = v &&& 0x37F ∧
     (((s.writeReg c 1 v).taskOf c).rmode = v.setWidth 3 ∧
       ((s.writeReg c 1 v).taskOf c).strd = ((s.taskOf c).strd && ((1, c, 3) ∈ s.touched || !v.getLsbD 3)) ∧
       ((s.writeReg c 1 v).taskOf c).nowr = ((s.taskOf c).nowr && ((1, c, 4) ∈ s.touched || !v.getLsbD 4)) ∧
       ((s.writeReg c 1 v).taskOf c).eosOver = ((s.taskOf c).eosOver && ((1, c, 5) ∈ s.touched || !v.getLsbD 5))) ∧
     (∀ n m, n < 256 → n ∉ [1, 2, 3, 4, 0x35] → (s.writeReg c n v).readReg c m = s.readReg c m) ∧
     (∀ n, 0x36 ≤ n → n < 256 → s.readReg c n = 0) ∧
     (s.writeReg c 0x220 v).readReg c 0x220 = v &&& 0xFFFFFFFFFFF8 ∧
     (s.writeReg c 0x102 v).readReg c 0x102 = v &&& 0xFFFFFFFF)

/-- R205 to R211: tlbinv, keyrev, ctxsv, ctxld, cfgld, linkq and evwait start an operation whose tokens come later; ctxsv stops
the region it saves; where ctxsv and ctxld may not act they answer VAL = 0 at once, and linkq of a module that is as asked VAL =
1; tret answers whether a frozen region awaited its record and its code takes the action, and then has acted on it; it waits
while the hub is not reached. A poisoned operand raises T_POISON. That a poisoned operand is consumed is the model's reading
(log entry 15). -/
def Obligations.SystemInstructionsFire : Prop :=
  (∀ (i : Instr) (f : FmtS) (uR : Bool) (h : Heads) (s : State) (a b : Word), laterOf i = some (f, uR) →
    Ready f.pm true uR false [f.t0, f.t1] h s → a = laneOf h.l → b = laneOf h.r →
    let fired := (s.commit { pops := h.slots, outs := [(f.t0, .ctl false false 0), (f.t1, .ctl false false 0)] }).irrevoke s.sel.1
    (h.origin = none → s.starts i a b → ∃ op : SysOp, op.id = s.ids + 1 ∧ op.node = s.sel.2 ∧ op.ins = i ∧ op.fired = s.now ∧
      (uR = true → op.b = b) ∧ ((i = .ctxsv f ∨ i = .ctxld f) → op.a = BitVec.ofNat 64 (bitsOf a 5 0)) ∧
      (i = .linkq f → ∃ m, linkOf (s.sel.1 / 16) (bitsOf a 6 0) = some m ∧ op.a = BitVec.ofNat 64 m) ∧
      ((i = .tlbinv f ∨ i = .keyrev f ∨ i = .cfgld f ∨ i = .evwait f) → op.a = a) ∧
      (i = .keyrev f → op.val = s.hub.keyValid) ∧ (i = .tlbinv f → op.asid = (s.space s.sel.1).asid) ∧
      exec i s = .next
        (let u := s.commit { pops := h.slots, later := [f.t0, f.t1] }
         let u1 := if i = .evwait f then u else u.irrevoke s.sel.1
         let u2 := if i = .ctxsv f then u1.modRegion (bitsOf a 5 0) (fun r => { r with stoppedBy := some (r.stoppedBy.getD s.now) }) else u1
         u2.modRegion s.sel.1 (fun r => { r with sysops := r.sysops ++ [op] }))) ∧
    (h.origin = none → (i = .ctxsv f ∨ i = .ctxld f) → ¬ s.starts i a b → exec i s = .next fired) ∧
    (∀ o, h.origin = some o → exec i s = .next ((s.commit { pops := h.slots }).raisePoison o 7))) ∧
  (∀ (f : FmtS) (h : Heads) (s : State) (v : Word), Ready f.pm true false false [f.t0, f.t1] h s → h.origin = none →
    v = laneOf h.l → ¬ s.starts (.linkq f) v 0 →
    let tok : Token := .ctl (linkOf (s.sel.1 / 16) (bitsOf v 6 0)).isSome false 0
    exec (.linkq f) s = .next ((s.commit { pops := h.slots, outs := [(f.t0, tok), (f.t1, tok)] }).irrevoke s.sel.1)) ∧
  (∀ (f : FmtS) (h : Heads) (s : State), Ready f.pm true false false [f.t0, f.t1] h s →
    let v := laneOf h.l
    let tok : Token := .ctl (s.endTrap v).1 false 0
    (s.hubOpen s.sel.1 = false → exec (.tret f) s = .next s) ∧
    (s.hubOpen s.sel.1 = true → h.origin = none → exec (.tret f) s = .next
      ((((s.commit { pops := h.slots, outs := [(f.t0, tok), (f.t1, tok)], lat := 20 }).irrevoke s.sel.1).endTrap v).2)) ∧
    (∀ o, s.hubOpen s.sel.1 = true → h.origin = some o →
      exec (.tret f) s = .next ((s.commit { pops := h.slots }).raisePoison o 7))) ∧
  (∀ (s : State) (v : Word), (bitsOf v 5 2 ≠ 0 ∨ bitsOf v 1 0 = 3 ∨ s.awaited (BitVec.ofNat 64 (bitsOf v 63 6 * 64)) = none) →
    s.endTrap v = (false, s)) ∧
  (∀ (s : State) (v : Word) (x : TrapRec), bitsOf v 5 2 = 0 → s.awaited (BitVec.ofNat 64 (bitsOf v 63 6 * 64)) = some x →
    let s1 := s.modHub (fun h => { h with awaiting := h.awaiting.filter (fun y => y.2 != BitVec.ofNat 64 (bitsOf v 63 6 * 64)) })
    ((bitsOf v 1 0 = 0 ∧ x.code ∈ [6, 0xD, 0x10] ∨ bitsOf v 1 0 = 2 ∧ (x.code = 6 ∨ (s.taskOf x.pclus).mayRoll = false)) →
      s.endTrap v = (false, s)) ∧
    (bitsOf v 1 0 = 0 → x.code ∉ [6, 0xD, 0x10] → s.endTrap v = (true, s1.resume x.pclus)) ∧
    (bitsOf v 1 0 = 1 → s.endTrap v = (true, s1.kill x.pclus)) ∧
    (bitsOf v 1 0 = 2 → x.code ≠ 6 → (s.taskOf x.pclus).mayRoll = true → s.endTrap v = (true, s1.rollback x.pclus)))

/-- R180, R181, R178 and R256: steps 2 to 4 of a command. The wait takes its threshold off its semaphore, unless WKEEP is set,
and waits while the value is too small or an earlier waiter stands before it; the claim waits for its tiles and takes them to
FILLING or DRAINING; the descriptor is read, or its trap stops the command where it stands, and it waits while the walk to it
would meet a closed module. One step in one event, the order of waiters, and when tile numbers are read, are the model's reading
(log entries 34 and 41). -/
def Obligations.CommandSteps : Prop :=
  ∀ (c k : Nat) (q : Cmd) (s : State), q.mate = none →
    (∀ key x, s.cmdReady c k 2 = some q → (s.cluster c).mayPass q q.afterWait = true → s.waitKey q = some key → x = q.threshold →
      x ≤ semMax → s.semOpen c (s.task q.task) (cmdFmt q.ins).wsem.toNat = true →
      let m := s.sems.get {} key
      (m.val < x ∨ s.waiterBefore q key = true → exec (.engineWait c k) s = .next s) ∧
      (x ≤ m.val → s.waiterBefore q key = false → ∃ t : State, exec (.engineWait c k) s = .next t ∧
        (t.sems.get {} key).val = (if (cmdFmt q.ins).flg.getLsbD 9 then m.val else m.val - x) ∧
        (∀ n, n ≠ key → t.sems.get {} n = s.sems.get {} n) ∧ t.mem = s.mem ∧
        (t.cluster c).eq = (s.cluster c).eq.map (fun (y : Cmd) => if y.id = q.id then
          { q with step := q.afterWait, arrived := s.arrivals + 1, bound := union q.bound m.dep } else y))) ∧
    (∀ pas d, s.cmdReady c k 3 = some q → (s.cluster c).mayPass q 4 = true → HasDesc c q pas d s →
      (∀ x ∈ cmdTiles q.ins d, ∃ tp, s.useTile c x.1 (if x.2 then .write else .read) = .ok tp) →
      (s.tilesReady q (cmdTiles q.ins d) = false ∨ s.claimBefore c q (cmdTiles q.ins d) = true →
        ∃ bd : List Nat, exec (.tileClaim c k) s = .next ((s.descRead c q pas).putCmd c { q with bound := bd })) ∧
      (s.tilesReady q (cmdTiles q.ins d) = true → s.claimBefore c q (cmdTiles q.ins d) = false → ((cmdTiles q.ins d).map (·.1)).Nodup →
        ∃ (t : State) (bd : List Nat), exec (.tileClaim c k) s = .next t ∧ t.mem = s.mem ∧
          (∀ x ∈ cmdTiles q.ins d, ((t.task q.task).tile x.1).state =
            if x.2 then .filling else if keepsTile q.ins then .ready else .draining) ∧
          (∀ n, n ∉ (cmdTiles q.ins d).map (·.1) → (t.task q.task).tile n = (s.task q.task).tile n) ∧
          (t.cluster c).eq = (s.cluster c).eq.map (fun (y : Cmd) => if y.id = q.id then
            { q with step := 4, arrived := s.arrivals + 1, claims := (cmdTiles q.ins d).map (·.1), bound := bd } else y))) ∧
    (s.cmdReady c k 4 = some q → (s.cluster c).mayPass q 5 = true →
      let opened := s.walkOpen (s.cmdSpace c q) q.l (descSize q.ins)
      let stopped (u : State) (x : TrapRec) : State := (u.putCmd c { q with stopped := true, early := none }).raise c { x with cmd := some q.id }
      (∀ pas d, q.early = none → HasDesc c q pas d s → ∃ b : List Nat, exec (.descriptorRead c k) s =
        .next (({ s.descRead c q pas with arrivals := s.arrivals + 1 }).putCmd c
          { q with desc := d, bound := b, step := 5, arrived := s.arrivals + 1 })) ∧
      (q.early = none → opened = false → exec (.descriptorRead c k) s = .next s) ∧
      (∀ x, q.early = none → opened = true → s.descPlaces c q = .error x →
        exec (.descriptorRead c k) s = .next (stopped (s.walked (s.cmdSpace c q) q.l (descSize q.ins) .desc) x)) ∧
      (∀ pas x, q.early = none → opened = true → s.descPlaces c q = .ok pas → s.cmdReach c q (placed q.l pas) = .go → s.descBytes c q = .error x →
        exec (.descriptorRead c k) s = .next (stopped (s.descRead c q pas) x)) ∧
      (∀ x, q.early = some x → exec (.descriptorRead c k) s = .next (stopped s { x with stamp := s.now, step := s.stepOf c, block := s.blockOf c })))

/-- R181, R186, R192 and R194: rspeed records or withdraws its vote; sset sets its semaphore, ssig and swait add their
increment; sbind binds its port at position 0, or traps where it is bound; sfree closes it. -/
def Obligations.SemaphoreVoteAndPortCommands : Prop :=
  ∀ (c k : Nat) (q : Cmd) (s : State) (f : FmtE), Working c k q s →
    (q.ins = .rspeed f → ∃ t : State, exec (.engineCompletion c k) s = .next t ∧
      (t.task q.task).vote = if f.flg.getLsbD 2 then none else some (bitsOf f.flg 1 0)) ∧
    (∀ key, q.ins = .sset f → (s.task q.task).semKey f.ssem.toNat = some key → q.r.toNat ≤ semMax →
      s.semOpen c (s.task q.task) f.ssem.toNat = true →
      ∃ t : State, exec (.engineCompletion c k) s = .next t ∧ (t.sems.get {} key).val = q.r.toNat ∧
        ∀ n, n ≠ key → t.sems.get {} n = s.sems.get {} n) ∧
    (∀ key, (q.ins = .ssig f ∨ (q.ins = .swait f ∧ f.ssem ≠ 0xFF)) → f.sinc ≠ 0 → (s.task q.task).semKey f.ssem.toNat = some key →
      (s.sems.get {} key).val + f.sinc.toNat ≤ semMax → (s.cluster c).mayPass q 7 = true →
      f.ssem ≠ 0xFF → s.semOpen c (s.task q.task) f.ssem.toNat = true → ∃ t : State, exec (.engineCompletion c k) s = .next t ∧
        (t.sems.get {} key).val = (s.sems.get {} key).val + f.sinc.toNat ∧ ∀ n, n ≠ key → t.sems.get {} n = s.sems.get {} n) ∧
    (∀ p, q.ins = .sbind f → p = bitsOf f.flg 3 0 →
      ((s.task q.task).ports.find p = none → (Desc.ofBytes q.desc).valid = true →
        ∃ (t : State) (x : Port), exec (.engineCompletion c k) s = .next t ∧ (t.task q.task).ports.find p = some x ∧
          x.desc = Desc.ofBytes q.desc ∧ x.ord = 0 ∧ x.write = f.flg.getLsbD 4 ∧ x.fetched = [] ∧ x.fault = none) ∧
      ((s.task q.task).ports.find p ≠ none → q.dead = false → q.done = 0 → exec (.engineCompletion c k) s =
        .next ((s.putCmd c { q with stopped := true, step := 4, buf := [], result := 0, early := none }).raise c
          { s.record c (srcNode c q.node) 0xA 1 (BitVec.ofNat 64 p) 0 0 with cmd := some q.id }))) ∧
    (∀ p, q.ins = .sfree f → p = bitsOf f.flg 3 0 → (∀ x, (s.task q.task).ports.find p = some x → x.write = false ∨ x.desc.mode ≠ 1) →
      ∃ t : State, exec (.engineCompletion c k) s = .next t ∧ (t.task q.task).ports.find p = none ∧ t.mem = s.mem)

/-- R187, R188 and R270: tcopy writes its destination with what its whole source held before any byte of it was written, however
the ranges lie; a destination that takes slots is written window by window; an element of tgath is the table's at the signed
index, one of tscat goes there. In byte mode the work is signalled as its prefix grows by 2 KiB (R182). A read finds what stands
in memory, or what earlier writes left there that it may still see. How far the reads of a source look back is the free value
State.lag (log entry 20); which modules stand on the way is the model's reading (log entry 46). -/
def Obligations.CopyGatherScatter : Prop :=
  (∀ (c k : Nat) (q : Cmd) (s s1 : State) (f : FmtE) (src dst : List Nat) (bs : List (Byte × Bool)), Working c k q s → q.done = 0 →
    q.buf = [] → q.ins = .tcopy f → f.flg.getLsbD 0 = false → f.flg.getLsbD 1 = false → s.memOk → dst.Nodup →
    (∀ p ∈ dst, s.otherCopy p = none) → s.cmdGet c q (wordAt q.desc 0) (fieldAt q.desc 16 4) = .got s1 src bs →
    let q1 : Cmd := { q with buf := bs, bound := s.readBy (s.cmdSpace c q) src q.bound }
    let s2 := (s1.cmdReached c q).findErrors src
    (s2.placesTo (s2.cmdSpace c q1) (wordAt q.desc 8) (fieldAt q.desc 16 4) = (dst, none) →
      s2.walkOpen (s2.cmdSpace c q1) (wordAt q.desc 8) (fieldAt q.desc 16 4) = true → (∀ p ∈ dst, isFar p = false ∧ s.pathOpen c p = true) →
      ∃ t : State, exec (.engineCompletion c k) s = .next t ∧ s.carried t bs dst) ∧
    (fieldAt q.desc 16 4 ≤ 2048 ∨ f.ssem = 0xFF ∨ f.sinc ≠ 0 → exec (.byteModeSignal c k) s = .next s) ∧
    (∀ key, f.ssem ≠ 0xFF → f.sinc = 0 → q.signalled = 0 → 2048 < fieldAt q.desc 16 4 →
      s2.placesTo (s2.cmdSpace c q1) (wordAt q.desc 8) 2048 = (dst, none) →
      s2.walkOpen (s2.cmdSpace c q1) (wordAt q.desc 8) 2048 = true → s.semOpen c (s.task q.task) f.ssem.toNat = true → (∀ p ∈ dst, isFar p = false ∧ s.pathOpen c p = true) →
      (s.task q.task).semKey f.ssem.toNat = some key → (s.sems.get {} key).val + 2048 ≤ semMax →
      ∃ t : State, exec (.byteModeSignal c k) s = .next t ∧ s.carried t (bs.take 2048) dst ∧
        (t.sems.get {} key).val = (s.sems.get {} key).val + 2048)) ∧
  (∀ (c k n : Nat) (q : Cmd) (s : State) (f : FmtE) (dst : List Nat), Working c k q s → q.done = 0 → q.ins = .tcopy f →
    f.flg.getLsbD 0 = false → f.flg.getLsbD 1 = false → s.memOk → dst.Nodup → (∀ p ∈ dst, s.otherCopy p = none) →
    q.buf.length = fieldAt q.desc 16 4 → n = oneWrite dst → 0 < n → (∀ p ∈ dst, isFar p = true) →
    s.placesTo (s.cmdSpace c q) (wordAt q.desc 8) (fieldAt q.desc 16 4) = (dst, none) →
    s.walkOpen (s.cmdSpace c q) (wordAt q.desc 8) (fieldAt q.desc 16 4) = true →
    let s1 := s.walked (s.cmdSpace c q) (wordAt q.desc 8) (fieldAt q.desc 16 4) .write
    s1.cmdReach c q (placed (wordAt q.desc 8) (dst.take n)) = .go →
    ∃ t : State, exec (.engineCompletion c k) s = .next t ∧ s.carried t (q.buf.take n) (dst.take n)) ∧
  (∀ (c k : Nat) (q : Cmd) (s s1 s2 : State) (f : FmtE) (ip src dst : List Nat) (is bs : List (Byte × Bool)) (a b : Word),
    Working c k q s → q.done = 0 → (q.ins = .tgath f ∨ q.ins = .tscat f) → f.flg.getLsbD 0 = false → (s.moves q).count = 1 →
    s.memOk → dst.Nodup → (∀ p ∈ dst, s.otherCopy p = none) →
    s.cmdGet c q (s.moves q).idx (s.moves q).isz = .got s1 ip is → is.any (·.2) = false →
    let elem := (s.moves q).base + BitVec.ofInt 64 ((BitVec.ofNat (8 * (s.moves q).isz) (leVal (is.map (·.1)))).toInt * (s.moves q).e)
    a = (if q.ins = .tgath f then elem else (s.moves q).buf) → b = (if q.ins = .tgath f then (s.moves q).buf else elem) →
    s1.cmdGet c q a (s.moves q).e = .got s2 src bs →
    s2.walkOpen (s2.cmdSpace c q) b (s.moves q).e = true →
    let s3 := s2.walked (s2.cmdSpace c q) b (s.moves q).e .write
    s2.xlateBytes (s2.cmdSpace c q) b (s.moves q).e .write = .ok dst → s3.cmdReach c q (placed b dst) = .go →
    ∃ t : State, exec (.engineCompletion c k) s = .next t ∧ s.carried t bs dst) ∧
  (∀ (c k : Nat) (q : Cmd) (s s1 : State) (f : FmtE) (ip dst : List Nat) (is : List (Byte × Bool)), Working c k q s → q.done = 0 →
    q.ins = .tgath f → f.flg.getLsbD 0 = false → (s.moves q).count = 1 → s.memOk → (∀ p ∈ dst, s.otherCopy p = none) →
    s.cmdGet c q (s.moves q).idx (s.moves q).isz = .got s1 ip is → is.any (·.2) = true →
    s1.walkOpen (s1.cmdSpace c q) (s.moves q).buf (s.moves q).e = true →
    let s2 := s1.walked (s1.cmdSpace c q) (s.moves q).buf (s.moves q).e .write
    s1.xlateBytes (s1.cmdSpace c q) (s.moves q).buf (s.moves q).e .write = .ok dst → s2.cmdReach c q (placed (s.moves q).buf dst) = .go →
    ∃ t : State, exec (.engineCompletion c k) s = .next t ∧ (∀ p ∈ dst, Memory.read t.mem p = 0 ∧ t.marked p = true) ∧
      ∀ x, x ∉ dst → Memory.read t.mem x = Memory.read s.mem x) ∧
  (∀ (sp : Space) (s : State) (a : Word) (n : Nat) (pas : List Nat) (bs : List (Byte × Bool)), s.histOk → sp.lag = 0 →
    s.cmdRead sp a n = .ok (pas, bs) → bs = pas.map (fun p => (Memory.read s.mem p, s.marked p)))

/-- R193, R306, R314, R195 and R328: kick of a job puts a card into the job queue, or waits while it is full; kick of a task
makes a task of the issuer's job with the descriptor's entry, priority and arguments, or waits while its virtual region holds a
live task; repl grants the idle clusters it finds, and its register and token answer how many members there are beside the home:
the register at once where an await entry waits for it, else at the boundary (R183, R217). The order of members of a group and
the fields of a card out of range are the model's reading (log entries 26 and 27). -/
def Obligations.LaunchCommands : Prop :=
  (∀ (c k : Nat) (q : Cmd) (s : State) (f : FmtE), Working c k q s → f.ssem = 0xFF →
    (q.ins = .kick f → f.flg.getLsbD 0 = true →
      ((256 ≤ s.hub.queue.length ∨ s.hubOpen c = false) → exec (.engineCompletion c k) s = .next (s.putCmd c q)) ∧
      (s.hub.queue.length < 256 → s.hubOpen c = true → ∃ (t : State) (x : Card), exec (.engineCompletion c k) s = .next t ∧
        t.hub.queue = s.hub.queue ++ [x] ∧ x.addr = q.l ∧ x.root = q.root ∧ x.asid = q.asid ∧ x.kicked = true ∧ x.priv = q.priv)) ∧
    (∀ v d x, q.ins = .kick f → f.flg.getLsbD 0 = false → v = fieldAt q.desc 9 1 % 64 →
      d = s.dieOfVreg (s.task q.task).job v → x = d.1.kickedTask q d.2 [] →
      (s.gangBusy (s.task q.task).job (fieldAt q.desc 10 2) = true → ∃ w : List Nat,
        exec (.engineCompletion c k) s = .next (s.putCmd c { q with waited := w })) ∧
      (s.gangBusy (s.task q.task).job (fieldAt q.desc 10 2) = false → s.vregBusy (s.task q.task).job v = true →
        exec (.engineCompletion c k) s = .next (s.putCmd c q)) ∧
      (∀ s1, s.vregBusy (s.task q.task).job v = false → s.gangBusy (s.task q.task).job (fieldAt q.desc 10 2) = false →
        x.id ≠ s.taskIdOf c → (d.1.addTask x.id x).queueNew x.id c = some s1 →
        ∃ t : State, exec (.engineCompletion c k) s = .next t ∧ (t.task x.id).id = x.id ∧ (t.task x.id).entry = wordAt q.desc 0 ∧
          (t.task x.id).prio = fieldAt q.desc 8 1 % 4 ∧ (t.task x.id).vreg = some v ∧
          (∀ j < 8, (t.task x.id).reg (4 + j) = wordAt q.desc (16 + 8 * j)))) ∧
    (∀ grp cap, q.ins = .repl f → grp = bitsOf f.flg 1 0 → cap = fieldAt q.desc 8 4 →
      ((cap % 16 ≠ 0 ∨ cap < 64 ∨ 16320 < cap) → q.dead = false → ∃ (t : State) (x : TrapRec), x.code = 0x12 ∧ x.sub = 2 ∧
        exec (.engineCompletion c k) s = .next (t.raise c x) ∧ t.mem = s.mem) ∧
      (cap % 16 = 0 → 64 ≤ cap → cap ≤ 16320 → s.replicaSpots c = [] →
        ∃ t : State, exec (.engineCompletion c k) s = .next t ∧ t.mem = s.mem ∧
          ((t.task q.task).groups.get {} grp).n =
            1 + Nat.min ((s.task q.task).groups.get {} grp).tasks.length (bitsOf f.flg 4 2)) ∧
      (∀ x rest, cap % 16 = 0 → 64 ≤ cap → cap ≤ 16320 → s.replicaSpots c = x :: rest →
        ((s.task q.task).groups.get {} grp).tasks = [] → bitsOf f.flg 4 2 = 1 →
        ∃ t : State, exec (.engineCompletion c k) s = .next t ∧ ((t.task q.task).groups.get {} grp).n = 2 ∧
          ((t.task q.task).groups.get {} grp).clusters = [x] ∧ (t.cluster x).task.isSome = true) ∧
      (∀ keep m, cap % 16 = 0 → 64 ≤ cap → cap ≤ 16320 → (s.cluster c).mayPass q 7 = true →
        keep = Nat.min ((s.task q.task).groups.get {} grp).tasks.length (bitsOf f.flg 4 2) →
        m = keep + Nat.min (bitsOf f.flg 4 2 - keep) (s.replicaSpots c).length →
        ∃ (u : State) (q1 : Cmd), exec (.engineCompletion c k) s = .next (u.finishCmd c q1 true) ∧ q1.id = q.id ∧ q1.ins = q.ins ∧
          q1.node = q.node ∧ q1.task = q.task ∧ q1.dead = q.dead ∧ q1.mate = none ∧ q1.result = BitVec.ofNat 64 m ∧
          q1.val = decide (m ≠ 0)))) ∧
  (∀ (u : State) (c t : Nat) (q : Cmd), (u.cluster c).task = some t → q.dead = false → q.mate = none →
    let v := u.finishCmd c q true
    let tg := (cmdFmt q.ins).t0
    ((u.region c).placeAt tg q.id → (v.region c).gets tg (.ctl q.val false 0) (arrival u.now (q.node / 4) 0 tg)) ∧
    (∀ p, (u.task t).pends.find? (fun p => p.cmd == q.id) = some p → 1 ≤ p.reg →
      if (u.region c).awaits p.reg = true then (v.task t).reg p.reg = q.result
      else { p with val := some q.result } ∈ (v.task t).pends))

/-- R191, R251, R190 and R354 to R356: a message reserves its space at TAIL in arrival order and is written with its header; it
is published in the inbox that has taken it, COMMIT advancing over it, once those before it are; a body that can never fit ends
the send with T_INBOX 0x01. A page that moves is copied to the frame on top of its new tier's stack; then its entry names that
frame and tier, and the old frame goes onto the other stack. That a message and the copy of a page are each one write, and what
a poisoned stack does, and which modules stand on the way, are the model's reading (log entries 29, 42, 46 and 56); that an
address within a page stands for the page is its choice (log entry 59). -/
def Obligations.MessagesAndMigration : Prop :=
  (∀ (c k : Nat) (q : Cmd) (s : State) (f : FmtE) (b : Icb) (x : Nat × Option TlbEntry) (len : Nat), Working c k q s → q.ins = .msend f → q.done = 0 →
    len = fieldAt q.desc 16 4 → s.walkOpen (q.space c) (wordAt q.desc 0) 1 = true → s.xlateRaw (q.space c) (wordAt q.desc 0) .atomic = .ok x → s.icb (q.space c) (wordAt q.desc 0) = some b →
    (b.cap < 16 + len → s.pathOpen c x.1 = true → q.dead = false → ∃ (t : State) (r : TrapRec), r.code = 0x12 ∧ r.sub = 1 ∧ r.a = wordAt q.desc 0 ∧
      exec (.inboxSend c k) s = .next (t.raise c r) ∧ t.mem = s.mem) ∧
    (16 + len ≤ b.cap → (b.fits (msgSize len) = false ∨ s.sendBefore q b.pa = true ∨ s.pathOpen c x.1 = false) →
      exec (.inboxSend c k) s = .next s) ∧
    (∀ s0 pas body, 16 + len ≤ b.cap → b.fits (msgSize len) = true → s.sendBefore q b.pa = false → s.pathOpen c x.1 = true →
      s.cmdGet c q (wordAt q.desc 8) len = .got s0 pas body →
      let s1 := (((s0.cmdReached c q).findErrors pas).inboxWrite b (msgSrc c q.node) 0 body).1
      ∃ bd : List Nat, exec (.inboxSend c k) s = .next ((s1.cmdIrrevoke q).putCmd c
        { q with done := 1, result := BitVec.ofNat 64 b.tail, inbox := some (b.pa, b.buf), bound := bd }) ∧
        (s.memOk → b.pa + 24 ≤ b.buf → s1.leNow (b.pa + 16) 8 = (b.tail + msgSize len) % 2 ^ 64))) ∧
  (∀ (c k pa buf : Nat) (q : Cmd) (s : State) (f : FmtE) (b : Icb), s.cmdReady c k 5 = some q → q.ins = .msend f → q.done = 1 →
    q.inbox = some (pa, buf) → b = s.icbAt pa buf →
    ((b.commit ≠ q.result.toNat ∨ s.pathOpen c pa = false) → exec (.inboxPublish c k) s = .next s) ∧
    (b.commit = q.result.toNat → s.pathOpen c pa = true → b.sem = 0xFF → s.memOk → ∃ t : State, exec (.inboxPublish c k) s = .next t ∧
      t.leNow (b.pa + 24) 8 = (b.commit + msgSize (fieldAt q.desc 16 4)) % 2 ^ 64 ∧
      (∀ o ∈ s.named b.owner, 2 ∈ (t.task o).latches) ∧
      ∀ a, (a < b.pa + 24 ∨ b.pa + 32 ≤ a) → Memory.read t.mem a = Memory.read s.mem a)) ∧
  (∀ (c k : Nat) (q : Cmd) (s : State) (f : FmtE) (l : Leaf) (pa n : Nat), Working c k q s → q.ins = .migr f → s.hub.migs = [] →
    (q.result = 0 → s.pagesFault c q (fieldAt q.desc 8 4) = none) → q.result.toNat < fieldAt q.desc 8 4 →
    s.migrOpen c q = true → s.pageLeaf (q.space c) (q.page q.result.toNat) = .ok l →
    ((pteTier l.e).toNat = q.tier → exec (.migratePage c k) s = .next (s.putCmd c { q with result := q.result + 1 })) ∧
    ((pteTier l.e).toNat ≠ q.tier → l.lvl = 0 → pteC64 l.e = false → rangeOf (ptePa l.e) ≠ some 3 → s.paeLast < s.migStamp →
      (∀ p ∈ s.stackWords q.tier, s.pathOpen c p = true) →
      s.topFrame c q (q.page q.result.toNat) = .ok (pa, n) →
      s.cmdReach c q (pageWindows (q.page q.result.toNat) (ptePa l.e) pa) = .go → s.memOk →
      (∀ x ∈ span (ptePa l.e) 4096, x ∉ span (s.stackOf q.tier) 8 ∧ x ∉ span l.at_ 8) →
      ∃ t : State, exec (.migratePage c k) s = .next t ∧
        (∀ j < 4096, Memory.read t.mem (pa + j) = Memory.read s.mem (ptePa l.e + j)) ∧
        (∃ m ∈ t.hub.migs, m.cmd = q.id ∧ m.clus = c ∧ m.oldPa = ptePa l.e ∧ m.newPa = pa ∧ m.pte = l.at_) ∧
        ∀ x, x ∉ span pa 4096 → x ∉ span (s.stackOf q.tier) 8 → x ∉ span l.at_ 8 → Memory.read t.mem x = Memory.read s.mem x)) ∧
  (∀ (c k : Nat) (q : Cmd) (s : State) (f : FmtE) (m : Migr) (n : Nat), Working c k q s → q.ins = .migr f →
    s.hub.migs.find? (fun m => m.cmd == q.id && m.clus == c) = some m → s.paeLast < s.migStamp → s.memOk →
    n = s.leNow (s.stackOf (1 - q.tier)) 8 + 1 → (∀ p ∈ m.pte :: s.stackWords (1 - q.tier), s.pathOpen c p = true) →
    (∀ x ∈ span m.pte 8, x ∉ span (s.stackOf (1 - q.tier)) 8 ∧ x ∉ span (s.stackOf (1 - q.tier) + 8 * n) 8) →
    ∃ t : State, exec (.migratePage c k) s = .next t ∧
      t.leNow m.pte 8 = (s.leNow m.pte 8 % 128 + 128 * q.tier + m.newPa) % 2 ^ 64 ∧
      t.leNow (s.stackOf (1 - q.tier)) 8 = n % 2 ^ 64 ∧ t.leNow (s.stackOf (1 - q.tier) + 8 * n) 8 = m.oldPa % 2 ^ 64 ∧
      ∀ x, x ∉ span m.pte 8 → x ∉ span (s.stackOf (1 - q.tier)) 8 → x ∉ span (s.stackOf (1 - q.tier) + 8 * n) 8 →
        Memory.read t.mem x = Memory.read s.mem x)

/-- R27, R221 to R225 and R231: an operand set that its predicate refuses goes; teardown waits for the stores under SMASK, then
stops every read entry and sends markers; a node retires once its forward queues hold their markers and it cannot fire, passes
markers on, flips once its back queues hold theirs and the shadow is usable, and takes the successor's word; a purge marker
passes through. When a node that holds work cannot fire is the model's reading (log entry 18), and so are which results precede
a marker, and that a discarded set's successor stands from the next cycle on (log entries 59 and 60). -/
def Obligations.TeardownWave : Prop :=
  (∀ (c i : Nat) (s : State) (pops : List Nat), (s.at c i).live = true → (∃ x, s.instrOf c i = some x ∧ planOf x (s.at c i) = .discard pops) →
    exec (.operandDiscard c i) s = .next ((s.at c i).discard pops)) ∧
  (∀ (c : Nat) (s : State) (x : Sel) (im : Image), (s.region c).sel = some x → (s.region c).img = some im → s.running c = true →
    (s.region c).step = 0 → (s.region c).inject = none →
    ((∃ a ∈ (s.region c).accesses, a.old = false ∧ isWriteClass a.ins = true ∧ a.fired < x.cycle ∧ im.smask.getLsbD (memFmt a.ins).lsid.toNat = true) →
      exec (.teardownInjection c) s = .next s) ∧
    (Nat.max x.cycle (s.region c).storeAt < s.now → (s.region c).storesBefore x.cycle = false →
      ∃ t : State, exec (.teardownInjection c) s = .next t ∧ (t.region c).inject = some s.now ∧ (t.region c).step = 1 ∧ t.mem = s.mem ∧
        (∀ e < 32, ∀ g ∈ ((t.region c).reads.get {} e).gate, g.pend.isSome = true ∨ s.now < g.at_) ∧
        (∀ y ∈ (t.region c).reads, y.2.done = true) ∧
        (∀ y ∈ im.reads, ∀ tg ∈ [y.t0, y.t1], (∀ e, tg ≠ .gate e) → (t.region c).gets tg (.mark .teardown) (s.now + 2)))) ∧
  (∀ (c i : Nat) (s : State) (x : Instr), s.running c = true → (s.region c).inject.isSome = true → ((s.region c).node i).retired = false →
    s.instrOf c i = some x → ((s.region c).node i).firedAt ≠ some s.now →
    (s.markersIn c i = false ∨ s.loadsOut c i = true → exec (.nodeRetire c i) s = .next s) ∧
    (s.markersIn c i = true → s.loadsOut c i = false → (s.holdsWork c i = false ∨ (s.canAct c i = false ∧ s.stirs c = false)) →
      ∃ t : State, exec (.nodeRetire c i) s = .next t ∧ (t.node c i).retired = true ∧ (t.node c i).st = .idle ∧ t.mem = s.mem ∧
        ∀ tg ∈ drivenTargets x, (t.region c).gets tg (.mark .teardown) (arrival s.now (i / 4) 1 tg))) ∧
  (∀ (c i : Nat) (s : State) (im : Image) (r1 : Region), s.running c = true → (s.region c).inject.isSome = true → (s.node c i).retired = true →
    (s.node c i).flipped = false → (s.region c).img = some im → r1 = ((s.region c).clearSlots s.now i false (queuesOf im i true)).1 →
    (s.now < (s.node c i).setAt → exec (.nodeFlip c i) s = .next s) ∧
    ((s.node c i).setAt ≤ s.now → ∃ t : State, exec (.nodeFlip c i) s = .next t ∧ t.mem = s.mem ∧
      ((∃ k ∈ queuesOf im i true, ((r1.node i).queue k).marker s.now ≠ some .teardown) ∨ (s.region c).shadowIn s.now = false →
        (t.node c i).flipped = false ∧ (t.region c).words = (s.region c).words) ∧
      ((∀ k ∈ queuesOf im i true, ((r1.node i).queue k).marker s.now = some .teardown) → (s.region c).shadowIn s.now = true →
        (t.node c i).flipped = true ∧ (t.region c).words.find i = (s.region c).nextImage.bind (fun im => im.words[i]?)))) ∧
  (∀ (c i k : Nat) (s : State) (x : Instr) (im : Image), s.running c = true → (s.node c i).retired = false → s.instrOf c i = some x →
    (s.region c).img = some im → k ∉ ownPurge x → purgeWaits x (s.node c i).st k = false → s.purgeHeads c i = [k] →
    (purgeGroups im i = [] ∨ purgeAlone x k = true → ∃ t : State, exec (.purgeMarker c i) s = .next t ∧
      ((t.node c i).queue k).toks = ((s.node c i).queue k).toks.tail ∧ t.mem = s.mem) ∧
    (purgeGroups im i = [[k]] → purgeAlone x k = false → (∀ tg ∈ drivenTargets x, (s.region c).accepts s.now tg = true) →
      ∃ t : State, exec (.purgeMarker c i) s = .next t ∧ t.mem = s.mem ∧
        ∀ tg ∈ drivenTargets x, (t.region c).gets tg (.mark .purge) (arrival s.now (i / 4) 1 tg)))

/-- R212, R213, R217, R219, R29 and R229: a load of the shadow waits for its frames, or ends with a checked image or a held
failure, that of a `calli` to 0 being T_BADBLK 0x05 (R199); in a boundary the clean register write entries land and a missing
one sets NOWR; a block starts from the shadow, its plain read entries delivering their registers two cycles later; an await
entry delivers once its write has landed; each cycle MODC advances and BUDGET falls by 1, and T_BUDGET is raised where it has
reached 0. When BUDGET counts, and where a dispatch starts, are the model's reading (log entries 23 and 30); that a direct call
to 0 loads what stands there is its choice (log entry 59). -/
def Obligations.BlocksStartAndEnd : Prop :=
  (∀ (c : Nat) (s : State) (sh : Shadow), (s.region c).shadow = some sh → s.running c = true → sh.ready = false → sh.usable ≤ s.now →
    ((s.region c).callsZero sh.blk = true → exec (.shadowUsable c) s = .next (s.modRegion c (fun r => { r with
      shadow := some { sh with ready := true, img := none, fail := some { code := 1, sub := 0x500 } } }))) ∧
    ((s.region c).callsZero sh.blk = false →
    (∀ s1, s.fetchBlock c sh.blk = .wait s1 → exec (.shadowUsable c) s = .next s1) ∧
    (∀ s1 im, s.fetchBlock c sh.blk = .ends s1 (.ok im) → ∃ t : State, exec (.shadowUsable c) s = .next t ∧
      (t.region c).shadow = some { sh with ready := true, img := some im, usable := sh.usable + 8 + Image.size im } ∧ t.mem = s.mem) ∧
    (∀ s1 f, s.fetchBlock c sh.blk = .ends s1 (.error f) → ∃ t : State, exec (.shadowUsable c) s = .next t ∧
      (t.region c).shadow = some { sh with ready := true, img := none, fail := some f } ∧ t.mem = s.mem))) ∧
  (∀ (c : Nat) (s : State) (im : Image) (x : Sel) (sh : Shadow), s.running c = true → (s.taskOf c).ending = false → s.mirrored c = false →
    (s.region c).step = 3 → (s.region c).img = some im → im.strict = false → (s.region c).sel = some x → x.kind = .exit → 0 < s.now →
    (s.region c).shadow = some sh → sh.ready = false → (s.taskOf c).pends = [] → (s.region c).regWrites.filterMap (s.writePoison c) = [] →
    (((s.region c).regWrites.map (fun w => w.2.reg)).filter (· ≠ 0)).Nodup →
    ∃ t : State, exec (.blockBoundary c) s = .next t ∧ (t.region c).step = 7 ∧ t.mem = s.mem ∧
      (∀ w ∈ (s.region c).regWrites, ∀ tok, ((s.region c).writes.get {} w.1).last = some tok → w.2.reg ≠ 0 →
        (t.taskOf c).reg w.2.reg.toNat = low64 tok) ∧
      (∀ n, (∀ w ∈ (s.region c).regWrites, w.2.reg.toNat ≠ n) → (t.taskOf c).reg n = (s.taskOf c).reg n) ∧
      ((∃ w ∈ (s.region c).regWrites, w.2.reg ≠ 0 ∧ ((s.region c).writes.get {} w.1).last = none ∧ w.2.opt = false) → (t.taskOf c).nowr = true)) ∧
  (∀ (c : Nat) (s : State), s.running c = true → (s.taskOf c).ending = false →
    ((s.region c).step = 2 → (s.region c).storesOut = true → exec (.blockBoundary c) s = .next s) ∧
    ((s.region c).step = 7 → (s.region c).target = none → ∃ t : State, exec (.blockBoundary c) s = .next t ∧ (t.taskOf c).ending = true ∧ t.mem = s.mem)) ∧
  (∀ (c : Nat) (s : State) (sh : Shadow) (im : Image), (s.region c).shadow = some sh → s.running c = true → (s.region c).step = 10 →
    (s.region c).until_ < s.now → sh.ready = true → sh.usable ≤ s.now → sh.fail = none → sh.img = some im → s.portFaults c im = none →
    ∃ t : State, exec (.blockStart c) s = .next t ∧ (t.region c).img = some im ∧ (t.region c).blk = sh.blk ∧ (t.region c).step = 0 ∧
      (t.region c).sel = none ∧ (t.region c).words = (List.range im.nins).zip im.words ∧ (t.taskOf c).supb = im.priv ∧ t.mem = s.mem ∧
      (∀ (e : Nat) (x : ReadEntry), im.reads[e]? = some x → x.mode = .plain → ∀ tg ∈ [x.t0, x.t1], (∀ g, tg ≠ .gate g) →
        (t.region c).gets tg (mkPkt .i64 [((s.taskOf c).reg x.reg.toNat).toNat]) (s.now + 2))) ∧
  (∀ (c e q : Nat) (s : State) (im : Image) (x : ReadEntry), (s.region c).img = some im → im.reads[e]? = some x →
    ((s.region c).reads.get {} e).waits = some q → s.running c = true → (s.region c).inject = none → (s.region c).step = 0 →
    ((s.region c).reads.get {} e).done = false →
    ((∃ p ∈ (s.taskOf c).pends, p.cmd = q) → exec (.awaitRead c e) s = .next s) ∧
    ((∀ p ∈ (s.taskOf c).pends, p.cmd ≠ q) → ∃ t : State, exec (.awaitRead c e) s = .next t ∧ ((t.region c).reads.get {} e).done = true ∧
      ∀ tg ∈ [x.t0, x.t1], (∀ g, tg ≠ .gate g) →
        (t.region c).gets tg (mkPkt .i64 [((s.taskOf c).reg x.reg.toNat).toNat]) (s.now + 2))) ∧
  (∀ (c : Nat) (s : State), s.running c = true → (s.cluster c).tick ≠ some s.now → ∃ t : State, exec (.modcAdvance c) s = .next t ∧
    (t.region c).modc = ((s.region c).modc + 1) % 12 ∧ (t.cluster c).tick = some s.now ∧ t.mem = s.mem ∧
    (t.taskOf c).budget = (if (s.taskOf c).budget = 0 then 0 else (s.taskOf c).budget - 1) ∧
    ((t.region c).expired = true ↔ ((s.region c).expired = true ∨ (s.taskOf c).budget = 1))) ∧
  (∀ (c : Nat) (s : State), (s.region c).expired = true → s.working c = true →
    let s1 := s.modRegion c (fun r => { r with expired := false })
    ((s.taskOf c).budget ≠ 0 → exec (.budgetExpiry c) s = .next s1) ∧
    ((s.taskOf c).budget = 0 → exec (.budgetExpiry c) s = .next (s1.raise c (s.record c (srcSeq c) 8 0 0 0 0))))

/-- R199, R359, R360 and R198: step 5 of a call parks the saved registers in the line of its depth and sets lk and the depth;
step 5 of a ret takes them back from a line whose depth is right. The cycles of step 5 are the model's choice (log entry 2). -/
def Obligations.CallsParkAndReturnsUnpark : Prop :=
  (∀ (c : Nat) (s : State) (im : Image) (x : Sel) (sh : Shadow), s.running c = true → (s.taskOf c).ending = false → s.memOk →
    (s.region c).step = 5 → (s.region c).img = some im → im.strict = false → im.save ≤ 15 → (s.region c).sel = some x →
    (x.kind = .call ∨ x.kind = .calli) → (s.region c).until_ ≠ 0 → (s.region c).until_ ≤ s.now → (s.region c).shadow = some sh →
    sh.ready = false → (s.taskOf c).depth < 15 → (s.taskOf c).nopark = false → 0 < s.now → (s.cluster c).task.isSome = true →
    ∃ t : State, exec (.blockBoundary c) s = .next t ∧ (t.region c).step = 7 ∧ (t.taskOf c).depth = (s.taskOf c).depth + 1 ∧
      (t.taskOf c).reg 2 = BitVec.ofNat 64 ((s.region c).blk + 32 * Image.size im) ∧ (t.taskOf c).reg 1 = (s.taskOf c).reg 1 ∧
      t.leNow (parkLine c (s.taskOf c).depth) 8 = ((s.taskOf c).depth + 1) * 256 + im.save ∧
      (∀ k < im.save, t.leNow (parkLine c (s.taskOf c).depth + 8 * (1 + k)) 8 = ((s.taskOf c).reg (16 + k)).toNat) ∧
      (∀ a, (a < parkLine c (s.taskOf c).depth ∨ parkLine c (s.taskOf c).depth + 128 ≤ a) → Memory.read t.mem a = Memory.read s.mem a)) ∧
  (∀ (c n : Nat) (s : State) (im : Image) (x : Sel) (sh : Shadow), s.running c = true → (s.taskOf c).ending = false →
    (s.region c).step = 5 → (s.region c).img = some im → im.strict = false → (s.region c).sel = some x → x.kind = .ret → x.addr ≠ 0 →
    (s.region c).until_ ≠ 0 → (s.region c).until_ ≤ s.now → (s.region c).shadow = some sh → sh.ready = false →
    0 < (s.taskOf c).depth → (s.taskOf c).depth ≤ 15 → (s.taskOf c).nopark = false → n < 16 →
    s.leNow (parkLine c ((s.taskOf c).depth - 1)) 8 = (s.taskOf c).depth * 256 + n →
    (∀ j < 128, s.marked (parkLine c ((s.taskOf c).depth - 1) + j) = false) →
    ∃ t : State, exec (.blockBoundary c) s = .next t ∧ (t.region c).step = 7 ∧ (t.taskOf c).depth = (s.taskOf c).depth - 1 ∧
      t.mem = s.mem ∧ (∀ k < n, (t.taskOf c).reg (16 + k) = BitVec.ofNat 64 (s.leNow (parkLine c ((s.taskOf c).depth - 1) + 8 * (1 + k)) 8)) ∧
      (∀ k, k < 16 ∨ 16 + n ≤ k → (t.taskOf c).reg k = (s.taskOf c).reg k))

/-- R215, R220 and R239 to R246: a read entry delivers the port's next element and moves it on, a peek leaves it where it is,
and neither delivers what overflows the replay buffer (R386); a gate-drop skips the element under a false gate, a gate-hold
keeps it; the engine fetches ahead and holds what faults; a write entry pushes its token's elements to the next positions, a
squeeze push its value to the named position, with zeros between. That the last flag of T1 stays clean beside a poisoned element
is the model's reading (log entry 17). How far a fetch looks back is the free value State.lag, and the marks it leaves are the
model's reading (log entries 20 and 35). -/
def Obligations.PortEvents : Prop :=
  (∀ (c e n : Nat) (s : State) (x : ReadEntry) (p : Port), s.entryAt c e = some (x, n, p) → (x.mode = .pop ∨ x.mode = .peek) →
    let ev : Instr := if x.mode = .pop then .popDelivery c e else .peekDelivery c e
    (p.ended = true → ∃ t : State, exec ev s = .next t ∧ ((t.region c).reads.get {} e).done = true ∧ (t.taskOf c).ports = (s.taskOf c).ports) ∧
    (p.ended = false → (s.region c).entryAccepts s.now x = false → exec ev s = .next s) ∧
    (∀ el, p.ended = false → (s.region c).entryAccepts s.now x = true → p.head = some el → s.overflows c p el = false →
      ∃ (t : State) (y : Port), exec ev s = .next t ∧ (t.taskOf c).ports.find n = some y ∧ t.mem = s.mem ∧
        (x.mode = .pop → y.ord = el.next ∧ (y.ended = true ↔ el.next = p.desc.total) ∧ ((t.region c).reads.get {} e).done = false) ∧
        (x.mode = .peek → y.ord = p.ord ∧ y.ended = p.ended ∧ ((t.region c).reads.get {} e).done = true) ∧
        (t.region c).gets x.t0 (elemTok e el.tok none) (s.now + 2) ∧ (t.region c).gets x.t1 (.ctl el.last false 0) (s.now + 2)) ∧
    (∀ el, p.ended = false → (s.region c).entryAccepts s.now x = true → p.head = some el → s.overflows c p el = true → exec ev s = .next s) ∧
    (∀ f, p.ended = false → (s.region c).entryAccepts s.now x = true → p.head = none → p.faulted = some f →
      exec ev s = .next (s.raise c (s.portRecord c (192 + e) n p f)))) ∧
  (∀ (c e n : Nat) (s : State) (x : ReadEntry) (p : Port) (g : QTok) (v psn : Bool) (o : Origin), s.entryAt c e = some (x, n, p) →
    (x.mode = .gateDrop ∨ x.mode = .gateHold) → s.gateHead c e = some g → g.tok.asCtl = .ctl v psn o →
    let ev : Instr := if x.mode = .gateDrop then .gateDrop c e else .gateHold c e
    let taken (t : State) : Prop := ((t.region c).reads.get {} e).gate = ((s.region c).reads.get {} e).gate.tail
    (p.ended = true → ∃ t : State, exec ev s = .next t ∧ taken t ∧ (t.taskOf c).eosOver = true) ∧
    (∀ el, p.ended = false → (v || psn) = true → (s.region c).entryAccepts s.now x = true → p.head = some el → s.overflows c p el = false →
      (∀ k, x.t0 ≠ .gate k ∧ x.t1 ≠ .gate k) →
      ∃ (t : State) (y : Port), exec ev s = .next t ∧ taken t ∧ (t.taskOf c).ports.find n = some y ∧ y.ord = el.next ∧ t.mem = s.mem ∧
        (t.region c).gets x.t0 (elemTok e el.tok (if psn then some o else none)) (s.now + 2) ∧
        (t.region c).gets x.t1 (.ctl el.last false 0) (s.now + 2)) ∧
    (p.ended = false → v = false → psn = false → x.mode = .gateHold → ∃ t : State, exec ev s = .next t ∧ taken t ∧
      (t.taskOf c).ports = (s.taskOf c).ports) ∧
    (p.ended = false → v = false → psn = false → x.mode = .gateDrop → p.desc.squeeze = false →
      ∃ (t : State) (y : Port), exec ev s = .next t ∧ taken t ∧ (t.taskOf c).ports.find n = some y ∧ y.ord = p.ord + p.desc.run p.ord)) ∧
  (∀ (c n : Nat) (s : State) (p : Port), (s.taskOf c).ports.find n = some p → s.running c = true → p.write = false → p.ended = false →
    p.ready ≤ s.now → p.window < 16 → s.mirrored c = false → p.desc.squeeze = false → p.nextScan < p.desc.total →
    p.stopped p.nextScan (p.desc.run p.nextScan) = false → p.needs = p.desc.run p.nextScan →
    let s0 := s.walkedRun (s.portSpace c p) p.desc p.nextScan p.needs .read
    let way := s0.runReach c n p p.nextScan .read p.needs
    (∀ s1, way = .ok (false, s1) → exec (.streamFetch c n) s = .next s1) ∧
    (∀ f, way = .error f → exec (.streamFetch c n) s = .next ((s0.reached c (.port n)).setPort c n { p with fault := some f })) ∧
    (∀ s1 el k, way = .ok (true, s1) → s.readElem c p p.nextScan = .ok (el, k) → exec (.streamFetch c n) s =
      .next (((s0.reached c (.port n)).setPort c n { p with fetched := p.fetched ++ [el], scan := el.next, ready := s.now + k }).findErrors
        (s.fetchPlaces c p { p with scan := el.next }))) ∧
    (∀ x, 0 < p.needs → p.desc.mode = 0 → s0.valueOpen (s.portSpace c p) p.desc p.nextScan .read = true →
      s0.locate (s.portSpace c p) p.desc p.nextScan .read = .error (x, false) → exec (.streamFetch c n) s =
      .next ((s0.reached c (.port n)).setPort c n { p with fault := some (x.stream p.nextScan false) }))) ∧
  (∀ (c e n : Nat) (s : State) (p : Port) (t : QTok) (places : List (List Nat)) (vals : List Nat), s.pushAt c e = some (n, p, t) →
    s.mirrored c = false → s.memOk → places.flatten.Nodup → (∀ a ∈ places.flatten, s.otherCopy a = none) →
    (if p.desc.squeeze then t.tok.origin = none ∧ 2 ≤ (lanesOf p.desc.ty t.tok).length ∧ p.ord ≤ (lanesOf p.desc.ty t.tok).getD 1 0 ∧
        (lanesOf p.desc.ty t.tok).getD 1 0 < p.desc.total ∧
        vals = List.replicate ((lanesOf p.desc.ty t.tok).getD 1 0 - p.ord) 0 ++ [(elemsOf p.desc.ty t.tok).headD 0]
      else vals = elemsOf p.desc.ty t.tok ∧ p.ord + vals.length ≤ p.desc.total) →
    let ev : Instr := if p.desc.squeeze then .squeezePush c e else .portPush c e
    let way := (s.walkedRun (s.portSpace c p) p.desc p.ord vals.length .write).runReach c n p p.ord .write
      (s.pushRun (s.portSpace c p) p.desc p.ord vals.length)
    (∀ s1, way = .ok (false, s1) → exec ev s = .next s1) ∧
    (∀ s1, way = .ok (true, s1) → s.pushPlaces (s.portSpace c p) p.desc p.ord vals.length = .ok places → ∃ (u : State) (y : Port), exec ev s = .next u ∧
      (u.taskOf c).ports.find n = some y ∧ y.ord = p.ord + vals.length ∧
      ((u.region c).writes.get {} e).toks = ((s.region c).writes.get {} e).toks.tail ∧
      (∀ k < vals.length, ∀ j < (places.getD k []).length,
        Memory.read u.mem ((places.getD k []).getD j 0) = BitVec.ofNat 8 (vals.getD k 0 / 256 ^ j)) ∧
      (∀ a, a ∉ places.flatten → Memory.read u.mem a = Memory.read s.mem a)))

/-- R170, R172 and R175: at its end an operation of a dot block emits its completion token, after six cycles for an mma; a
shadow goes LOADED; a drain writes each element converted in the route's mode, row by row, sets its tile READY and under CLR
clears the accumulator. That a drain draws when it completes is the model's choice (log entry 17). -/
def Obligations.DotOperationsEnd : Prop :=
  ∀ (c cell : Nat) (s : State) (o : DotOp), (s.cluster c).task.isSome = true →
    let arrives (t : State) (lat : Nat) : Prop := ∀ tg ∈ [o.t0, o.t1], (s.region c).placeAt tg o.id →
      (t.region c).gets tg (ctlOr true o.orig) (arrival (Nat.max o.done s.now) cell lat tg)
    let gone (t : State) : Prop := ∀ x ∈ ((t.taskOf c).dot cell).ops, x.id ≠ o.id
    (s.dotEnded c cell 0 = some o → ∃ t : State, exec (.mmaComplete c cell) s = .next t ∧ arrives t 6 ∧ gone t ∧ t.mem = s.mem) ∧
    (s.dotEnded c cell 1 = some o → ∃ t : State, exec (.shadowLoaded c cell) s = .next t ∧ arrives t 0 ∧ gone t ∧ t.mem = s.mem ∧
      ((t.taskOf c).dot cell).shState = .loaded) ∧
    (∀ ty pa, s.dotEnded c cell 2 = some o → o.wrote = false → (s.region c).frozen = none → bitsOf o.route 23 16 = 0xFF →
      routeTy o.route = some ty → ty ≠ .bf16 → bitsOf o.route 14 12 < 5 → 0 < o.rows →
      s.tileBase c ((s.taskOf c).tile o.tile) .write = .ok pa → s.memOk →
      let z := ty.elemBits / 8
      ∃ t : State, exec (.mdrainComplete c cell) s = .next t ∧ arrives t 0 ∧ gone t ∧ ((t.taskOf c).tile o.tile).state = .ready ∧
        (o.route.getLsbD 7 = true → ((t.taskOf c).dot cell).acc o.acc = {}) ∧
        (o.route.getLsbD 7 = false → ((t.taskOf c).dot cell).acc o.acc = ((s.taskOf c).dot cell).acc o.acc) ∧
        (∀ e < 8 * o.rows, ∀ j < z, Memory.read t.mem (pa + e * z + j) =
          BitVec.ofNat 8 (drainCode o.route ty ((((s.taskOf c).dot cell).acc o.acc).elems.get 0 e) / 256 ^ j)) ∧
        (∀ a, (a < pa ∨ pa + 8 * o.rows * z ≤ a) → Memory.read t.mem a = Memory.read s.mem a))

/-- R206 to R211: what ends each system operation. After tlbinv no TLB of its scope holds the entry; keyrev revokes or
reinstates its key; ctxsv gives up the region it has saved, ctxld resumes a task in a free one; cfgld leaves a table to switch
in; linkq quiesces or resumes a module, waiting while it trains; evwait wakes on a latched class, which it clears, or on its
deadline. That ctxsv gives the region up, and how an image is found, are the model's reading (log entries 8 and 47); that a
header whose read faults raises no trap is its choice (log entry 59). -/
def Obligations.SystemOperationsEnd : Prop :=
  ∀ (c k : Nat) (op : SysOp) (s : State) (f : FmtS), s.sysopAt c k = some op → op.fired < s.now →
    let ends (u : State) (v : Bool) : Host.Outcome State Fault Refusal := .next (u.sysDone c op (.ctl v false 0) (.ctl v false 0))
    (op.ins = .tlbinv f → ∃ u : State, exec (.tlbinvComplete c k) s = ends u true ∧ u.mem = s.mem ∧
      (∀ x, op.b.getLsbD 1 = true ∨ x / 16 = c / 16 → ∀ e, e ∈ (u.cluster x).tlb ↔ e ∈ (s.cluster x).tlb ∧
        ¬ (e.asid = op.asid ∧ (op.b.getLsbD 0 = true ∨ op.a.toNat / 2 ^ e.log = e.va / 2 ^ e.log))) ∧
      (∀ x, op.b.getLsbD 1 = false → x / 16 ≠ c / 16 → (u.cluster x).tlb = (s.cluster x).tlb)) ∧
    (op.ins = .keyrev f → (op.val = false → exec (.keyrevAck c k) s = ends s false) ∧
      (op.val = true → ∃ u : State, exec (.keyrevAck c k) s = ends u true ∧ u.mem = s.mem ∧ u.tasks = s.tasks ∧ u.clusters = s.clusters ∧
        (∀ key, key ∈ u.hub.revoked ↔ if key = bitsOf op.a 15 0 then op.b.getLsbD 0 = false else key ∈ s.hub.revoked) ∧
        (∀ d < 2, (u.far d).reqs.length = (s.far d).reqs.length ∧ ∀ r ∈ (u.far d).reqs, op.b.getLsbD 0 = false →
          r.answered = true → r.key.toNat = bitsOf op.a 15 0 → r.nack = true))) ∧
    (∀ v, op.ins = .ctxsv f → v = op.a.toNat → (s.cluster v).task = none → exec (.ctxsvComplete c k) s = ends s false) ∧
    (∀ v t, op.ins = .ctxsv f → v = op.a.toNat → (s.cluster v).task = some t → (s.task t).ending = false →
      ((s.region v).stoppedBy = none → ∃ u : State, exec (.ctxsvComplete c k) s = .next u ∧ (u.region v).stoppedBy = some s.now ∧
        u.mem = s.mem ∧ u.tasks = s.tasks) ∧
      ((s.region v).stoppedBy.isSome = true → ((s.region v).forced = true ∨ s.still v = false) → exec (.ctxsvComplete c k) s = .next s) ∧
      (∀ s1, (s.region v).stoppedBy.isSome = true → (s.region v).forced = false → s.still v = true → v ≠ c →
        let y := s.context v true 0
        (s.saveAreas { s.space v with priv := true } y v y.snap.isSome.toNat (s.region v).frozen op.b (s.bsaOf t) = .done s1 () →
          ∃ u : State, exec (.ctxsvComplete c k) s = ends u true ∧ (u.cluster v).task = none ∧ (u.task t).place = .saved) ∧
        (s.saveAreas { s.space v with priv := true } y v y.snap.isSome.toNat (s.region v).frozen op.b (s.bsaOf t) = .wait s1 →
          exec (.ctxsvComplete c k) s = .next s1))) ∧
    (∀ v, op.ins = .ctxld f → v = op.a.toNat →
      ((s.cluster v).task.isSome = true → exec (.ctxldComplete c k) s = ends s false) ∧
      (∀ s1, (s.cluster v).task = none → s.imageAt c op.b = .wait s1 → exec (.ctxldComplete c k) s = .next s1) ∧
      (∀ s1 x, (s.cluster v).task = none → s.imageAt c op.b = .fault s1 x → exec (.ctxldComplete c k) s = ends s1 false) ∧
      (∀ s1, (s.cluster v).task = none → s.imageAt c op.b = .poison s1 → exec (.ctxldComplete c k) s = ends (s1.refuseImage c op.b) false) ∧
      (∀ s1 y, (s.cluster v).task = none → s.imageAt c op.b = .done s1 y →
        ∃ u : State, exec (.ctxldComplete c k) s = ends u true ∧ (u.cluster v).task = some y.key ∧ (u.task y.key).place = .region v)) ∧
    (∀ n, op.ins = .cfgld f → n = f.sysno.toNat - 0x600 →
      let sp := s.opSpace c op
      let s0 := s.walked sp op.a 12288 .read
      let way (pas : List Nat) := s0.reach c (.sysop op.id) (s.taskOf c).eprio (placed op.a pas)
      let kept (u : State) (v : Bool) (b : List Nat) : Host.Outcome State Fault Refusal :=
        .next (u.sysDone c { op with bound := b } (.ctl v false 0) (.ctl v false 0))
      (op.a.toNat % 4096 ≠ 0 → exec (.cfgldComplete c k) s = ends s false) ∧
      (op.a.toNat % 4096 = 0 → s.walkOpen sp op.a 12288 = false → exec (.cfgldComplete c k) s = .next s) ∧
      (∀ x, op.a.toNat % 4096 = 0 → s.walkOpen sp op.a 12288 = true → s.xlateBytes sp op.a 12288 .read = .error x →
        exec (.cfgldComplete c k) s = ends s0 false) ∧
      (∀ pas, op.a.toNat % 4096 = 0 → s.walkOpen sp op.a 12288 = true → s.xlateBytes sp op.a 12288 .read = .ok pas →
        (∀ x, way pas = .fault x → exec (.cfgldComplete c k) s = ends (s0.reached c (.sysop op.id)) false) ∧
        (∀ s1, way pas = .wait s1 → exec (.cfgldComplete c k) s = .next s1) ∧
        (way pas = .go → s.slotTable sp pas = none → exec (.cfgldComplete c k) s =
          kept ((s0.reached c (.sysop op.id)).findErrors pas) false (s.readBy sp pas op.bound)) ∧
        (∀ t, way pas = .go → s.slotTable sp pas = some t → ∃ u : State,
        exec (.cfgldComplete c k) s = kept u true (s.readBy sp pas op.bound) ∧ u.mem = s.mem ∧
        (u.far (n / 2)).out = (s.far (n / 2)).out ∧ (u.far (n / 2)).inn = (s.far (n / 2)).inn ∧
        (if n % 2 = 0 then (u.far (n / 2)).nextOut = some t ∧ (u.far (n / 2)).nextInn = (s.far (n / 2)).nextInn
         else (u.far (n / 2)).nextInn = some t ∧ (u.far (n / 2)).nextOut = (s.far (n / 2)).nextOut)))) ∧
    (∀ m, op.ins = .linkq f → m = op.a.toNat →
      (op.b.getLsbD 8 = false → ∃ u : State, exec (.linkqComplete c k) s = ends u true ∧ (u.link m).quiesced = true ∧
        (u.link m).carries = false ∧ ∀ j, j ≠ m → u.link j = s.link j) ∧
      (op.b.getLsbD 8 = true → (s.link m).training = true → exec (.linkqComplete c k) s = .next s) ∧
      (op.b.getLsbD 8 = true → (s.link m).training = false → (s.link m).cur = 3 → exec (.linkqComplete c k) s = ends s false) ∧
      (op.b.getLsbD 8 = true → (s.link m).training = false → (s.link m).cur ≠ 3 → ∃ u : State,
        exec (.linkqComplete c k) s = ends u true ∧ (u.link m).quiesced = false ∧ (u.link m).carries = true)) ∧
    (∀ n, op.ins = .evwait f → n = (if f.sysno = 4 ∧ (s.taskOf c).supg = false then 0 else f.sysno.toNat) → (s.cluster c).task.isSome = true →
      (n ≠ 0 → n ∈ (s.taskOf c).latches → ∃ u : State,
        exec (.evwaitWake c k) s = .next (u.sysDone c op (mkPkt .i64 [n]) (mkPkt .i64 [s.now])) ∧
        ∀ j, j ∈ (u.taskOf c).latches ↔ j ∈ (s.taskOf c).latches ∧ j ≠ n) ∧
      ((n = 0 ∨ n ∉ (s.taskOf c).latches) → op.a.toNat ≤ s.now → op.a ≠ 0xFFFFFFFFFFFFFFFF →
        exec (.evwaitWake c k) s = .next (s.sysDone c op (mkPkt .i64 [0]) (mkPkt .i64 [s.now]))) ∧
      ((n = 0 ∨ n ∉ (s.taskOf c).latches) → (s.now < op.a.toNat ∨ op.a = 0xFFFFFFFFFFFFFFFF) → exec (.evwaitWake c k) s = .next s))

/-- R8, R45, R315, R346, R375, R398, R401 and R406: what a write from outside a block does. A register write keeps the fields
the register has and clears flags written 1; a doorbell enqueues a card with the address space latched, or shows what was wrong
with it; GO kills a frozen task; SEED starts the generators afresh; a retrain starts on a quiesced module with a good map; a
rollover switches key slots and counts what is held under the old one; a cold reset leaves no task and near memory zero, and
fails at step 2 with an image that the controller does not accept (R407). What a cold reset keeps is the model's choice (log
entry 33), and so is what GO does in a retrain (log entry 39). -/
def Obligations.RegistersFromOutside : Prop :=
  (∀ (n m : Nat) (v : Word) (s : State), ∃ t : State, exec (.registerWrite n v m) s = .next t ∧
    (n < 0x100 → t = s) ∧
    (n = 0x100 → t.hub = { s.hub with starve := bitsOf v 39 0 }) ∧ (n = 0x101 → t.hub = { s.hub with probeDelay := bitsOf v 31 0 }) ∧
    (n = 0x102 → t.hub = { s.hub with pwait := bitsOf v 31 0 }) ∧ (n = 0x201 → t.hub = { s.hub with xlAsid := bitsOf v 15 0 }) ∧
    (n = 0x301 → t.ring.cap = bitsOf v 1 0 ∧ t.ring.en = v.getLsbD 2) ∧
    (n = 0x400 → t.hub = { s.hub with partKey := v.setWidth 16, keyValid := v.getLsbD 16 }) ∧
    (n = 0x702 → t.hub = { s.hub with
      double := s.hub.double && ((0x702, 0, 0) ∈ s.touched || !v.getLsbD 0), lost := s.hub.lost && ((0x702, 0, 1) ∈ s.touched || !v.getLsbD 1)
      full := s.hub.full && ((0x702, 0, 2) ∈ s.touched || !v.getLsbD 2) }) ∧
    (n = 0x710 → t.hub = { s.hub with mirEn := v.getLsbD 0, uwait := bitsOf v 31 8 }) ∧
    (n ≠ 0x7F0 → t.mem = s.mem)) ∧
  (∀ (v : Word) (s : State),
    (bitsOf v 63 5 = 0 → exec (.jqDoor v) s = .next ((s.modHub (fun h => { h with badAdr := true })).touch 0x105 0 10)) ∧
    (bitsOf v 63 5 ≠ 0 → 256 ≤ s.hub.queue.length → exec (.jqDoor v) s = .next ((s.modHub (fun h => { h with ovf := true })).touch 0x105 0 9)) ∧
    (bitsOf v 63 5 ≠ 0 → s.hub.queue.length < 256 → ∃ x : Card, x.addr = v &&& ~~~0x1F ∧ x.root = s.hub.xlRoot ∧ x.asid = s.hub.xlAsid ∧
      x.kicked = false ∧ exec (.jqDoor v) s = .next (s.modHub (fun h => { h with queue := h.queue ++ [x] })))) ∧
  (∀ (v : Word) (s : State) (c t : Nat), c = bitsOf v 5 0 →
    (v.getLsbD 8 = false ∨ (s.region c).frozen = none → exec (.trapHkill v) s = .next (s.modHub (fun h => { h with hkPclus := c }))) ∧
    (v.getLsbD 8 = true → (s.region c).frozen.isSome = true → (s.cluster c).task = some t → (s.task t).twin = none →
      ∃ u : State, exec (.trapHkill v) s = .next u ∧ (u.task t).ending = true ∧ (u.task t).killed = true ∧
        (u.job (s.task t).job).kill = true ∧ (u.region c).frozen = none ∧ (u.region c).nodes = [] ∧ u.mem = s.mem)) ∧
  (∀ (k : Nat) (v : Word) (s : State), ∃ t : State, exec (.seedWrite k v) s = .next t ∧ (t.task k).seed = v ∧ (t.task k).gens = [] ∧
    t.mem = s.mem ∧ ∀ j, j ≠ k → t.task j = s.task j) ∧
  (∀ (e m : Nat) (s : State), m = moduleOf e → ∃ t : State, exec (.linkRetrainGo e) s = .next t ∧ (∀ j, j ≠ m → t.link j = s.link j) ∧
    ((s.link m).mapBad = true → t.link m = { s.link m with badmap := true, fail := true }) ∧
    ((s.link m).mapBad = false → (s.link m).quiesced = false → t.link m = { s.link m with fail := true }) ∧
    ((s.link m).mapBad = false → (s.link m).quiesced = true → (s.link m).training = true → t.link m = s.link m) ∧
    ((s.link m).training = false → (s.link m).quiesced = true → (s.link m).mapBad = false →
      (t.link m).training = true ∧ (t.link m).go = true ∧ (t.link m).carries = false)) ∧
  (∀ (f : Nat) (s : State), ∃ t : State, exec (.ideRollover f) s = .next t ∧ t.mem = s.mem ∧
    ((s.far f).roll = true → t.far f = s.far f) ∧
    ((s.far f).roll = false → (t.far f).roll = true ∧ (t.far f).txslot = !(s.far f).txslot ∧ (t.far f).retiring = true ∧
      (t.far f).oldfl = ((s.far f).reqs.filter (fun r => r.slot.isSome && !r.answered)).length ∧
      ∀ x ∈ (t.far f).holds, x.old = true ∧ s.now < x.until_)) ∧
  (∀ (k : Nat) (s : State), ∃ t : State, exec (.coldReset k) s = .next t ∧ t.now = s.now ∧ t.tasks = [] ∧ t.clusters = [] ∧ t.hub.queue = [] ∧
    t.hub.ready = (t.hub.fstep == 0) ∧ t.hub.resets = s.hub.resets + 1 ∧ t.hub.revoked = s.hub.revoked ∧
    ((k = 1 ∨ ∀ x ∈ s.hub.firmware, x.accepted = true) → t.hub.fstep = k) ∧
    ((k ≠ 1 ∧ ∃ x ∈ s.hub.firmware, x.accepted = false) → t.hub.fstep = 2 ∧ t.hub.fwok = false) ∧
    (t.hub.fstep = 0 → ∀ a, (isSram a = true ∨ rangeOf a = some 0) → Memory.read t.mem a = 0))

/-- R376, R377 and R379: with EN = 0 a trap kills its task; a trap in a handler, or a bad control block, is a double fault; a
full ring keeps the record waiting, as does a hub that is not reached (R399); else it is written at TAIL and awaits its handler.
A handler starts in a free cluster with the record's address, cause, task and cluster in its registers. The key of a handler is
the model's choice (log entry 40). -/
def Obligations.TrapRecordsAndHandlers : Prop :=
  (∀ (s : State), (∀ x ∈ s.hub.records, s.hubOpen x.pclus = false) → exec .trapRecord s = .next s) ∧
  (∀ (s : State) (x : TrapRec), s.hub.records.find? (fun x => s.hubOpen x.pclus) = some x →
    let s1 := (s.findErrors [s.hub.hcb, s.hub.hcb + 32]).modHub (fun h => { h with records := h.records.erase x })
    (s.hub.trapEn = true → s.ringOpen = false → exec .trapRecord s = .next s) ∧
    (∀ t, s.hub.trapEn = false → (s.region x.pclus).frozen.isSome = true → (s.cluster x.pclus).task = some t → t = x.task →
      (s.task t).twin = none → ∃ u : State, exec .trapRecord s = .next u ∧ (u.task t).ending = true ∧ (u.task t).killed = true ∧
        u.hub.ringTail = s.hub.ringTail ∧ u.mem = s.mem) ∧
    (s.hub.trapEn = true → s.ringOpen = true → ((s.task x.task).handler.isSome = true ∨ s.hcbGood = none) → exec .trapRecord s = .next
      (((s1.modHub (fun h => { h with double := true })).touch 0x702 0 0).msiX s.hcbRaw.vec)) ∧
    (∀ h, s.hub.trapEn = true → s.ringOpen = true → (s.task x.task).handler = none → s.hcbGood = some h → s.hub.ringUse = h.ringn →
      exec .trapRecord s = .next ((s.modHub (fun y => { y with full := true })).touch 0x702 0 2)) ∧
    (∀ h pas a, s.hub.trapEn = true → s.ringOpen = true → (s.task x.task).handler = none → s.hcbGood = some h → s.hub.ringUse ≠ h.ringn →
      a = h.ring + BitVec.ofNat 64 (64 * (s.hub.ringTail % h.ringn)) → s.xlateSpan h.space a 64 .write = .ok pas → pas.Nodup →
      (∀ p ∈ pas, s.otherCopy p = none) → s.memOk →
      ∃ u : State, exec .trapRecord s = .next u ∧ u.hub.records = s.hub.records.erase x ∧ u.hub.ringTail = (s.hub.ringTail + 1) % 2 ^ 32 ∧
        (∃ w, u.hub.written = s.hub.written ++ [(x, a, w)] ∧ ∀ y ∈ u.hist, y.seq ∈ w ∨ y ∈ s.hist) ∧ u.hub.awaiting = s.hub.awaiting ++ [(x, a)] ∧
        (∀ j < 64, Memory.read u.mem (pas.getD j 0) = x.bytes.getD j 0) ∧
        (∀ p, p ∉ pas → Memory.read u.mem p = Memory.read s.mem p))) ∧
  (∀ (s : State) (x : TrapRec) (a : Word) (b : List Nat) (rest : List (TrapRec × Word × List Nat)) (h : Hcb) (c key : Nat),
    s.hub.written = (x, a, b) :: rest →
    s.hcbGood = some h → s.hub.handlers = [] → (∀ d, (s.cluster d).favour = none) →
    (dieClusters (x.pclus / 16) ++ List.range 64).find? s.idle = some c → key = handlerKey (s.arrivals + 1) →
    ∃ u : State, exec .handlerDispatch s = .next u ∧ u.hub.written = rest ∧ (u.cluster c).task = some key ∧
      (u.task key).id = (a - h.ring).toNat / 64 % h.ringn ∧ (u.task key).supg = true ∧ (u.task key).eprio = 4 ∧ (∀ n ∈ b, n ∈ (u.task key).bound) ∧
      (u.task key).reg 1 = h.spbase + 0x4000 ∧ (u.task key).reg 3 = h.gb ∧ (u.task key).reg 4 = a ∧ (u.task key).reg 5 = x.cause ∧
      (u.task key).reg 6 = BitVec.ofNat 64 x.task ∧ (u.task key).reg 7 = BitVec.ofNat 64 x.pclus ∧
      (u.region c).shadow.map (·.blk) = some h.entry.toNat)

/-- R308, R310, R314 and R317: a card waits while the hub does not reach it (R399); one that cannot be read, or fails a check,
leaves the queue, writes its record and sends its vector; a good one, read once, waits for a semaphore window, then becomes a
job with a task for each entry, those that wait for none in the pool of their die. What a bad card signals, and the table
written at the load, are the model's reading (log entries 31 and 32). -/
def Obligations.JobsLoad : Prop :=
  (∀ (s : State), s.hub.queue = [] → exec .jobLoad s = .next s) ∧
  (∀ (s : State) (k : Card) (rest : List Card), s.hub.queue = k :: rest → s.hub.card = none → s.cardOpen k = false →
    exec .jobLoad s = .next s) ∧
  (∀ (s : State) (k : Card) (rest : List Card) (r : Nat) (h : List Byte), s.hub.queue = k :: rest → k.onend = [] →
    s.hub.card = none → s.cardOpen k = true → (s.readCard k = .error (r, h) ∨ ∃ bs, s.readCard k = .ok (h, bs) ∧
      cardReason h (entriesOf bs) ((entriesOf bs).map (fun e => s.chooseDie e.affin)) (k.kicked && !k.priv) s.hub.mirEn = some r) →
    ∃ t : State, exec .jobLoad s = .next t ∧ t.hub.queue = rest ∧ t.hub.card = none ∧ t.hub.jobs = s.hub.jobs ∧ t.hub.lastJob = s.hub.lastJob ∧
      t.tasks = s.tasks ∧ t.hub.msix = s.hub.msix ++ (if fieldAt h 4 2 = 0 then [] else [fieldAt h 4 2]) ∧
      (wordAt h 24 = 0 → t.mem = s.mem) ∧
      (∀ pas, wordAt h 24 ≠ 0 → s.xlateSpan k.space (wordAt h 24) 16 .write = .ok pas → pas.Nodup →
        (∀ p ∈ pas, s.otherCopy p = none) → s.memOk → ∀ j < 16, Memory.read t.mem (pas.getD j 0) = (recordBytes false true r 0 0 s.now).getD j 0)) ∧
  (∀ (s : State) (k : Card) (rest : List Card) (h bs : List Byte) (es : List Entry) (dies : List Nat), s.hub.queue = k :: rest →
    s.headCard k = .ok (h, bs) → es = entriesOf bs → dies = es.map (fun e => s.chooseDie e.affin) →
    (s.hub.card = none → s.cardOpen k = true ∧ cardReason h es dies (k.kicked && !k.priv) s.hub.mirEn = none) → s.hub.mirEn = false →
    let die := (((List.zip es dies).find? (fun x => x.1.vreg == 0)).map (·.2)).getD 0
    let no := if s.hub.lastJob = 0xFFFF then 1 else s.hub.lastJob + 1
    (s.window die (fieldAt h 2 1) = none → ∃ t : State, exec .jobLoad s = .next t ∧ t.hub = { s.hub with card := some (h, bs) } ∧
      t.mem = s.mem ∧ t.tasks = s.tasks) ∧
    (∀ w, s.window die (fieldAt h 2 1) = some w → ∃ t : State, exec .jobLoad s = .next t ∧ t.hub.queue = rest ∧ t.hub.card = none ∧
      t.hub.lastJob = no ∧ (t.job no).live = es.length ∧ (t.job no).serial = es.length ∧ (t.job no).sclus = w.1 ∧ (t.job no).sbase = w.2 ∧
      (t.job no).semn = fieldAt h 2 1 ∧ (∀ j < fieldAt h 2 1, (t.sems.get {} (256 * w.1 + w.2 + j)).val = 0) ∧
      ∀ (i : Nat) (e : Entry), es[i]? = some e →
        let x := t.task (i + no * 2 ^ 32)
        x.id = i + no * 2 ^ 32 ∧ x.entry = e.entry ∧ x.budget = e.budget ∧ x.seed = e.seed ∧ x.prio = e.prio ∧ x.eprio = e.prio ∧
          x.vreg = some e.vreg ∧ x.age = s.now ∧ x.srcn = 0xC000 + i ∧ x.supg = e.super ∧ x.regs = e.regs ∧
          (x.deps = [] ↔ ∀ j < i, ∀ e', es[j]? = some e' → dependsOn e'.feet e.feet = false) ∧
          (x.deps = [] → i + no * 2 ^ 32 ∈ t.pool (dies.getD i 0) ∧ x.place = .pool (dies.getD i 0))))

/-- R316, R322 to R326: a task that is to end ends once its work is done, and its region is free; a free region takes a task of
highest EPRIO, from its own bench first; a waiting task rises by one every STARVE cycles; a request asks the cluster of the
victim; a handler gains the region before others, and of several requests that rest on age the oldest task gains it; a region
that stands still is saved and given up, its task at the head of the bench. The cycles of a favoured dispatch, the step it
starts at, and who gains a region by requests of two kinds are the model's reading (log entries 2, 30 and 57). -/
def Obligations.SchedulerEvents : Prop :=
  (∀ (k : Nat) (s : State), ((s.task k).ending = false ∨ (s.task k).place = .ended ∨ s.quiet k = false ∨ s.endOpen k = false → exec (.taskEnd k) s = .next s) ∧
    ((s.task k).ending = true → (s.task k).place ≠ .ended → s.quiet k = true → s.endOpen k = true → (s.tasks.map (·.1)).Nodup → ∃ t : State, exec (.taskEnd k) s = .next t ∧
      (t.task k).place = .ended ∧ ∀ c, (s.task k).place = .region c → (s.cluster c).task = some k → (t.cluster c).task = none)) ∧
  (∀ (c : Nat) (s : State), ((s.cluster c).task.isSome = true ∨ s.now < (s.cluster c).freeAt → exec (.dispatch c) s = .next s) ∧
    (∀ k n, s.choose c = some (k, n) → (s.cluster c).bench ≠ [] → n = 16 ∧ k ∈ (s.cluster c).bench ∧
      ∀ u ∈ (s.cluster c).bench, (s.task u).eprio ≤ (s.task k).eprio) ∧
    (∀ k n, (s.cluster c).task = none → (s.cluster c).freeAt ≤ s.now → (s.cluster c).favour = none → s.choose c = some (k, n) →
      s.unit k = [k] → c ∈ s.spotsFor k → (s.task k).started = false → (s.task k).handler = none → ∃ t : State, exec (.dispatch c) s = .next t ∧
        (t.cluster c).task = some k ∧ (t.cluster c).wake = s.now + n + (if (s.cluster c).gated then 2000 else 0) ∧
        (t.task k).place = .region c ∧ (t.task k).eprio = (s.task k).prio ∧ (t.task k).started = true ∧ (t.region c).step = 9 ∧
        (t.region c).sel = none ∧ (∀ cell < 48, ∀ off < 0x30000, sliceAddr c cell off / 128 ∉ t.full))) ∧
  (∀ (k : Nat) (s : State), exec (.eprioPromotion k) s = .next
    (let x := s.task k
     if x.queued = true ∧ s.hub.starve ≠ 0 ∧ x.eprio < 3 ∧ x.wait + s.hub.starve * (x.eprio - x.prio + 1) ≤ s.now then
       s.modTask k (fun y => { y with eprio := x.eprio + 1 }) else s)) ∧
  (∀ (c k : Nat) (s : State), ((s.task k).queued = false ∨ (∃ d ∈ s.spotsFor k, s.idle d = true) ∨ s.asked k = true →
      exec (.preemptionRequest c k) s = .next s) ∧
    (∀ u, (s.task k).queued = true → (∀ d ∈ s.spotsFor k, s.idle d = false) → s.asked k = false →
      s.victimFor k = some (c, u) → ∃ t : State, exec (.preemptionRequest c k) s = .next t ∧
        (t.cluster c).asks = (s.cluster c).asks ++ [{ task := k, at_ := s.now, byAge := (s.ageVictim k).any (fun x => x.1 == c) }] ∧ t.mem = s.mem ∧
        t.tasks = s.tasks)) ∧
  (∀ (c g : Nat) (s : State), s.gainer c = some g → (∀ a ∈ (s.cluster c).asks, s.stands a = true → a.byAge = true ∧ a.member = false) →
    (∃ a ∈ (s.cluster c).asks, s.stands a = true ∧ a.task = g) ∧
    ∀ a ∈ (s.cluster c).asks, s.stands a = true → (s.task a.task).older (s.task g) = false) ∧
  (∀ (c : Nat) (s : State) (a : Ask), ((s.cluster c).asks.filter (fun a => s.stands a && !a.member)).find?
      (fun a => (s.task a.task).handler.isSome) = some a → a.byAge = false → s.gainer c = some a.task) ∧
  (∀ (c w n k : Nat) (s s1 : State), s.wanted c = some (w, n) →
    (s.now < n + s.hub.pwait → exec (.preemptionSnapshot c) s = .next s) ∧
    ((s.region c).afterExit n = true ∨ (s.region c).frozen.isSome = true ∨ s.otherSave c = true → exec (.preemptionSnapshot c) s = .next s) ∧
    (n + s.hub.pwait ≤ s.now → (s.region c).afterExit n = false → (s.region c).restoring = none → (s.region c).frozen = none →
      s.otherSave c = false →
      ((s.region c).stoppedBy = none → s.enginesQuiet c (s.taskIdOf c) = true → ∃ t : State, exec (.preemptionSnapshot c) s = .next t ∧
        (t.region c).stoppedBy = some s.now ∧ t.mem = s.mem) ∧
      ((s.region c).stoppedBy.isSome = true → s.still c = true → (s.cluster c).task = some k →
        s.saveAreas { s.space c with priv := true } (s.context c true 0) c 1 (some (s.preemptRecord c)) (s.csaOf k) (s.bsaOf k) = .done s1 () →
        (s.cluster c).bench.length < 64 → (s.task k).gang = 0 → (s.task k).twin = none → (s.task k).repl = false → s.gainer c ≠ some k →
        ∃ t : State, exec (.preemptionSnapshot c) s = .next t ∧ (t.cluster c).task = none ∧ (t.cluster c).bench = k :: (s.cluster c).bench ∧
          (t.task k).place = .bench c ∧ (t.cluster c).favour = s.gainer c)))

/-- R331 and R332: a queue whose head has stood for PROBE_DELAY cycles sends a probe; it goes on queue by queue, and is
discarded where it ends or its head has changed; back where it started it raises T_DEADLOCK in the youngest task on its path.
The queue at which a probe stands, and that it returns only to the very queue, are the model's reading (log entry 44). -/
def Obligations.ProbesFindDeadlocks : Prop :=
  (∀ (c i slot : Nat) (s : State),
    (s.hub.probeDelay = 0 ∨ (s.queueAt (c, i, slot)).stood < s.hub.probeDelay → exec (.probeSend c i slot) s = .next s) ∧
    (s.hub.probeDelay ≠ 0 → s.hub.probeDelay ≤ (s.queueAt (c, i, slot)).stood → (s.queueAt (c, i, slot)).probedAt = none →
      ((s.queueAt (c, i, slot)).front s.now).isSome = true → s.running c = true → (s.node c i).retired = false →
      ∃ (t : State) (p : Probe), exec (.probeSend c i slot) s = .next t ∧ t.hub.probes = s.hub.probes ++ [p] ∧ p.from_ = (c, i, slot) ∧
        p.here = (c, i, slot) ∧ p.head = (s.queueAt (c, i, slot)).pops ∧ p.tasks = [s.taskIdOf c] ∧ t.mem = s.mem)) ∧
  (∀ (k : Nat) (s : State) (p : Probe), s.hub.probes[k]? = some p →
    let away := s.modHub (fun h => { h with probes := h.probes.eraseIdx k })
    (((s.queueAt p.from_).pops ≠ p.head ∨ (s.queueAt p.from_).toks = [] ∨ 1024 ≤ p.passed ∨ s.probeNext p.here.1 p.here.2.1 = none ∨
        ∃ u ∈ p.tasks, ∀ d, (s.task u).place = .region d → (s.region d).halted = true) → exec (.probeHop k) s = .next away) ∧
    (∀ q, s.probeStale p = false → s.probeNext p.here.1 p.here.2.1 = some q →
      (q ≠ p.from_ → ∃ (t : State) (p1 : Probe), exec (.probeHop k) s = .next t ∧
        t.hub.probes[k]? = some p1 ∧ p1.here = q ∧ (∀ u, u ∈ p1.tasks ↔ u ∈ p.tasks ∨ u = s.taskIdOf q.1) ∧ p1.from_ = p.from_ ∧ p1.head = p.head ∧ p1.passed = p.passed + 1 ∧ t.mem = s.mem) ∧
      (∀ u c at_, q = p.from_ → u ∈ p.tasks → (∀ w ∈ p.tasks, w ≠ u → (s.task w).older (s.task u) = true) →
        p.last.find? (fun x => x.1 == u) = some (u, at_) → (s.task u).place = .region c →
        ∃ x : TrapRec, x.code = 7 ∧ x.sub = 1 ∧ x.b = BitVec.ofNat 64 p.tasks.length ∧ x.a = fields [(at_.1, 0), (at_.2.1, 6), (at_.2.2, 14)] ∧
          exec (.probeHop k) s = .next (away.raise c x))))

/-- R386 and R389: a port of either copy whose replay buffer has no room for its element stops the region; once it stands still
a recovery point is taken and it goes on. An uncorrectable error in memory is found by the next read, one in a token or an
accumulator poisons it, one in control state rolls the task back, or raises T_MEMERR where that is not allowed, and T_SOFT where
it has rolled back. R391 and R392: the umpire acts on a pair of items twelve cycles after the later: equal exits are both
selected, items that differ are a mismatch, as is one that waits UWAIT cycles alone; the second mismatch since the recovery
point, or one where no rollback is allowed, raises T_MIRROR. The numbers of the places that only poison, and what is an item,
are the model's choice (log entries 28 and 45). -/
def Obligations.RecoveryAndUmpire : Prop :=
  ((∀ (c : Nat) (s : State), s.running c = true → (s.region c).forced = false → s.takesPoints c = true →
     (s.bufferFull c = true ∨ ∃ c', s.twinCluster c = some c' ∧ s.bufferFull c' = true) → s.enginesQuiet c (s.taskIdOf c) = true → ∃ t : State, exec (.forcedRecoveryPoint c) s = .next t ∧ (t.region c).forced = true ∧
       (t.region c).stoppedBy = some s.now ∧ t.mem = s.mem) ∧
   (∀ (c n k : Nat) (s s1 : State), (s.region c).forced = true → (s.region c).stoppedBy = some n → (s.cluster c).task = some k →
     (∀ c', s.twinCluster c = some c' → (s.cluster c').task ≠ some k) →
     (s.still c = false → exec (.forcedRecoveryPoint c) s = .next s) ∧
     (s.still c = true → s.takePoint c (s.context c true 0) true = .done s1 () → ∃ t : State, exec (.forcedRecoveryPoint c) s = .next t ∧
       (t.region c).forced = false ∧ (t.region c).stoppedBy = none ∧ (t.task k).rpHave = true ∧ (t.task k).rpKind = true ∧
       (t.task k).irrev = false ∧ ∀ p ∈ (t.task k).ports, p.2.replay = [])) ∧
   (∀ (c unit cell slot : Nat) (s : State), ∃ t : State, exec (.softError c unit cell slot) s = .next t ∧
     (unit = 19 → slot ∈ t.ecc ∧ t.mem = s.mem) ∧ (unit ≠ 19 → (s.cluster c).task = none → t = s) ∧
     ((s.cluster c).task.isSome = true →
       (∀ i q ty len pay, unit = 16 → i = 4 * cell + slot / 4 % 4 → slot % 4 < 3 → ((s.node c i).queue (slot % 4)).toks[slot / 16]? = some q →
         q.tok = .pkt ty len false pay → ((t.node c i).queue (slot % 4)).toks = ((s.node c i).queue (slot % 4)).toks.set (slot / 16)
           { q with
             tok := badPkt ty len (originOf c (if q.at_ ≤ s.now then i else s.senderTo c (slotTarget i (slot % 4))) 6 s.now) }) ∧
       (∀ e q v o, unit = 20 → e = slot % 32 → ((s.region c).reads.get {} e).gate[slot / 32]? = some q → q.tok = .ctl v false o →
         ((t.region c).reads.get {} e).gate = ((s.region c).reads.get {} e).gate.set (slot / 32) { q with
           tok := .ctl v true (originOf c (if q.at_ ≤ s.now then 192 + e else s.senderTo c (.gate (BitVec.ofNat 5 e))) 6 s.now) }) ∧
       (∀ e q ty len pay, unit = 21 → e = slot % 32 → ((s.region c).writes.get {} e).toks[slot / 32]? = some q → q.tok = .pkt ty len false pay →
         ((t.region c).writes.get {} e).toks = ((s.region c).writes.get {} e).toks.set (slot / 32) { q with
           tok := badPkt ty len (originOf c (s.senderTo c (.write (BitVec.ofNat 5 e))) 6 s.now) }) ∧
       (unit = 22 → slot ∈ ((t.taskOf c).dot cell).shadow.poison) ∧
       (unit = 17 → slot / 4 ∈ (((t.taskOf c).dot cell).acc (slot % 4)).poison) ∧
       (∀ p, unit = 18 → ((s.taskOf c).dot cell).active = some p → ∃ p1, ((t.taskOf c).dot cell).active = some p1 ∧ slot ∈ p1.poison) ∧
       (unit ≤ 6 → (s.taskOf c).mayRoll = false → ∃ x : TrapRec, x.code = 6 ∧ x.sub = 1 ∧ t = s.raise c x) ∧
       (unit ≤ 6 → (s.taskOf c).mayRoll = true → (s.taskOf c).rolled = true → ∃ x : TrapRec, x.code = 0x10 ∧ x.sub = 1 ∧ t = s.raise c x) ∧
       (unit ≤ 6 → (s.taskOf c).mayRoll = true → (s.taskOf c).rolled = false → (s.taskOf c).twin = none → ∃ u : State, u = s.rollback c ∧
         t.mem = u.mem ∧ (t.taskOf c).rolled = true)))) ∧
  ((∀ (c c' k : Nat) (s : State) (x y : Item), s.hub.items[k]? = some x → x.task = s.taskIdOf c → (s.taskOf c).isTwin = false →
     (s.region c).halted = false → s.matchOf c x = some y → s.twinCluster c = some c' →
     (s.now < Nat.max x.at_ y.at_ + 12 → exec (.umpireCompare c k) s = .next s) ∧
     (Nat.max x.at_ y.at_ + 12 ≤ s.now →
       (x.body = y.body → x.what = 3 → exec (.umpireCompare c k) s = .next (((s.dropItems x y).select c x.sel).select c' y.sel)) ∧
       (x.body ≠ y.body → exec (.umpireCompare c k) s = .next ((s.dropItems x y).mismatch c x.node x.ord)))) ∧
   (∀ (c k u : Nat) (s : State) (x : Item), s.hub.items[k]? = some x → s.hub.items = [x] → x.task = s.taskIdOf c →
     (s.taskOf c).isTwin = false → (s.taskOf c).twin = some u → (s.region c).halted = false →
     (s.now < x.at_ + s.hub.uwait → exec (.umpireTimeout c k) s = .next s) ∧
     (x.at_ + s.hub.uwait ≤ s.now → exec (.umpireTimeout c k) s = .next ((s.dropItems x x).mismatch c x.node x.ord))) ∧
   (∀ (c node ord : Nat) (s : State), let t := s.taskOf c
     ((t.mismatched = true ∨ t.mayRoll = false) → ∃ r : TrapRec, r.code = 0xD ∧ r.sub = (if t.mismatched then 1 else 2) ∧
       r.a = BitVec.ofNat 64 node ∧ r.b = BitVec.ofNat 64 ord ∧ s.mismatch c node ord = s.raise c r) ∧
     (t.mismatched = false → t.mayRoll = true → s.mismatch c node ord =
       (s.rollback c).modTaskOf c (fun x => { x with mismatched := true }))))

/-- R285: the positions at which a range occurs in a lap are those from which COUNT tiles in a row carry its layer and its
indices upward, over entries too. R279 to R283, R290 and R293: a lap begins at a lap start with the entries up to the first LAST
or bad one, its number counted and class 3 posted to every live task, and the writes up to it noted, which every tile of the lap
has in it; with EN = 0, or a bad entry 0, no lap runs. A tile is injected in the first beat slot at its boundary, its CRC over
its header, the bytes and the poison that the feeder has read; with a stop that has no room for it the ring pauses, and with a
seam that carries no quarter speed it stops. The phase of frames, what counts as room, and what a feeder reads are the model's
reading (log entries 48, 49 and 50). -/
def Obligations.RingLaps : Prop :=
  (∀ (layer first count p : Nat) (list : List LapEntry), 0 < count → (∀ e ∈ list, 0 < e.count) →
     (p ∈ occurrences layer first count list 0 ↔
       ∀ j < count, ∃ (ent : Nat) (e : LapEntry) (k : Nat), tileAt list 0 (p + j) = some (ent, e, k) ∧ e.layer = layer ∧
         e.first + k = first + j)) ∧
  ((∀ (s : State) (L : List LapEntry) (bad : Bool), s.readLap s.ring.lapBase 65536 = (L, bad) →
     (s.ring.running = true → s.ring.pos = lapTiles s.ring.list) →
     (s.ring.en = true → s.ring.atStart (s.ring.refDie L) s.now = false → exec .lapStart s = .next s.noted) ∧
     (s.ring.en = true → L ≠ [] → s.ring.atStart (s.ring.refDie L) s.now = true → ∃ t : State, exec .lapStart s = .next t ∧
       t.ring.lap = (s.ring.lap + 1) % 2 ^ 32 ∧ t.ring.list = L ∧ t.ring.running = true ∧ t.ring.pos = 0 ∧ t.ring.next = s.now + 4 ∧
       t.ring.badEnt = (s.ring.badEnt || bad) ∧ t.ring.lapCut = s.wseq ∧ t.mem = s.mem ∧ (∀ e ∈ L, e.bad = false) ∧
       ∀ k x, s.tasks.find k = some x → x.place ≠ .ended → 3 ∈ (t.task k).latches) ∧
     (s.ring.en = true → L = [] → s.ring.atStart (s.ring.refDie L) s.now = true → ∃ t : State, exec .lapStart s = .next t ∧
       t.ring.running = false ∧ t.ring.idleBad = true ∧ t.ring.badEnt = true ∧ t.ring.lap = s.ring.lap) ∧
     (s.ring.en = false → s.ring.atStart (s.ring.refDie []) s.now = true → ∃ t : State, exec .lapStart s = .next t ∧
       t.ring.running = false ∧ t.ring.lap = s.ring.lap)) ∧
   (∀ (s : State), s.ring.running = true → s.ring.pos ≠ lapTiles s.ring.list → exec .lapStart s = .next s.noted) ∧
   (∀ (s : State) (ent k src die : Nat) (e : LapEntry), s.ring.running = true → tileAt s.ring.list 0 s.ring.pos = some (ent, e, k) →
     src = e.src + 32768 * k → die = src / 2 ^ 38 → (∀ x ∈ s.ring.tiles, s.now ≤ x.start + x.tail + 101) →
     s.backlog ≤ 262144 → s.ring.blk = 0 →
     let due := s.ring.next + ringDelay (feederPos s.ring.die) (feederPos die)
     let full := s.mustPause s.ring.pos e.layer ((e.first + k) % 65536)
     (s.now < due → exec .tileInject s = .next s) ∧
     (due ≤ s.now → 4 ≤ s.seam → exec .tileInject s = .next (s.modRing (fun r => { r with seamStop := true }))) ∧
     (due ≤ s.now → s.seam < 4 → full = true →
       exec .tileInject s = .next (s.modRing (fun r => { r with pause := true, seamStop := false }))) ∧
     (∀ rest, due ≤ s.now → s.seam < 4 → full = false → beatSlots die s.now s.ring.cur (Nat.max s.ring.cur s.ringSpeed) = 0 :: rest →
       ∃ (t : State) (x : RingTile), exec .tileInject s = .next t ∧ t.ring.tiles = s.ring.tiles ++ [x] ∧ t.ring.pos = s.ring.pos + 1 ∧
         x.lap = s.ring.lap ∧ x.pos = s.ring.pos ∧ x.layer = e.layer ∧ x.index = (e.first + k) % 65536 ∧ x.src = src ∧ x.start = s.now ∧
         x.pay = s.cutBytes (s.feedCuts src 32768) ∧ (∀ j < 1024, j ∈ x.poison ↔ s.cutMarked (s.feedCuts (src + 32 * j) 32) = true) ∧
         (s.lag = 0 → s.histOk → x.pay = s.bytesNow src 32768 ∧
           (e.src % 32 = 0 → ∀ j < 1024, j ∈ x.poison ↔ s.marked (src + 32 * j) = true)) ∧ x.crc = x.check x.pay ∧
         t.ring.pause = false ∧ t.mem = s.mem)) ∧
   (∀ (die now : Nat), beatSlots die now 0 0 = List.range 48) ∧
   (∀ (c : Nat), c < 64 → ringDelay (feederPos (c / 16)) (stopPos c) = 1 + stopOf c))

/-- R285, R286 and R294: a window registers where its destination passes, no earlier command claims its tiles, there is one free
and its task is not leaving; its tiles go FILLING. A range of no tiles ends at once; a range that the lap list in force has
nowhere traps, as does one that NOWAIT forbids to wait for; else the window takes the first occurrence whose first tile has
still to come, or waits for the next lap. R287, R288 and R291: a tile that has passed its stop whole goes to the window that
targets it, its lines to perform eight cycles after they are issued; a plane with an invalid plane word traps at its check; one
whose check fails is boarded again, and the second time raises T_RINGCHK. A copy lands line by line at its destination. A window
whose tiles are all written goes, its tiles READY or its planes LOADED; its command then signals, by SINC or by the bytes not
yet signalled (R182), waiting where its semaphore is not reached (R399), and its token comes. The order in which lines are
issued, and what a faulting destination does, are the model's reading (log entry 50). -/
def Obligations.BoardingAndCapture : Prop :=
  (∀ (c k : Nat) (s : State) (q : Cmd) (f : FmtE) (w : Window), s.cmdReady c k 5 = some q → q.ins = .board f → w = boardWindow s.now q →
     (∀ x ∈ (s.cluster c).windows, x.cmd ≠ q.id) → (s.cluster c).boardNext q = true → q.dead = false → q.done = 0 →
     let traps (x : TrapRec) : Host.Outcome State Fault Refusal := .next ((s.putCmd c
       { q with step := 4, buf := [], result := 0, stopped := true, early := none }).raise c { x with cmd := some q.id })
     (w.count = 0 → exec (.boardingRegistration c k) s = .next (s.worked c q)) ∧
     (w.count ≠ 0 → (16 ≤ (s.cluster c).windows.length ∨ s.leaving c = true) → exec (.boardingRegistration c k) s = .next s) ∧
     (w.count ≠ 0 → (s.cluster c).windows.length < 16 → s.leaving c = false →
       (∀ x, s.boardFault c q w = some x → exec (.boardingRegistration c k) s = traps (s.faultRecord c q.node x 0)) ∧
       (s.boardFault c q w = none → (s.boardTilesFree q w = false ∨ s.claimBefore c q (s.waitsTiles c q) = true) → exec (.boardingRegistration c k) s = .next s) ∧
       (s.boardFault c q w = none → s.boardTilesFree q w = true → s.claimBefore c q (s.waitsTiles c q) = false →
         ((s.ring.en = false ∨ occurrences w.layer w.first w.count s.ring.list 0 = []) → ∃ x : TrapRec, x.code = 0xC ∧ x.sub = 2 ∧
           x.src = srcNode c q.node ∧ x.b = BitVec.ofNat 64 s.ring.lap ∧ exec (.boardingRegistration c k) s = traps x) ∧
         (s.ring.en = true → occurrences w.layer w.first w.count s.ring.list 0 ≠ [] →
           (s.nextOccurrence c w = none → f.flg.getLsbD 0 = true → ∃ x : TrapRec, x.code = 0xC ∧ x.sub = 1 ∧
             exec (.boardingRegistration c k) s = .next (s.endCmd c q x)) ∧
           (∀ lap, s.nextOccurrence c w = lap → (lap = none → f.flg.getLsbD 0 = false) → q.mate = none → ∃ t : State,
             exec (.boardingRegistration c k) s = .next t ∧ t.mem = s.mem ∧
               (t.cluster c).windows = (s.cluster c).windows ++ [{ w with lap := lap }] ∧
               (w.dkind = 1 → ∀ n ∈ w.tileNos, ((t.task q.task).tile n).state = .filling) ∧
               (∀ n, (w.dkind ≠ 1 ∨ n ∉ w.tileNos) → (t.task q.task).tile n = (s.task q.task).tile n)))))) ∧
  ((∀ (c n : Nat) (s : State) (w : Window) (x : RingTile), (s.cluster c).windows = [w] → (s.cluster c).copies = [] → (s.openWindows c).passed c = [x] →
     w.takes x.lap x.pos x.layer x.index = some n →
     ((s.linesOf w n).1 ≠ [] → 0 < (s.linesOf w n).2 → (w.dkind = 2 → (s.fedBy x).planeTile x.src ≠ none) → ∃ (t : State) (y : Copy), exec (.tileCapture c false) s = .next t ∧ (t.cluster c).copies = [y] ∧ y.tile = x ∧ y.cmd = w.cmd ∧ y.n = n ∧
       y.due ≠ [] ∧ (∀ d ∈ y.due, s.now + 8 ≤ d) ∧ y.line = 0 ∧ t.mem = s.mem ∧ t.ring.crcf = s.ring.crcf) ∧
     (n ∉ w.failed → x.checkAt c = s.now → ∃ (t : State) (w1 : Window), exec (.tileCapture c true) s = .next t ∧ (t.cluster c).windows = [w1] ∧ n ∈ w1.again ∧
       n ∈ w1.failed ∧ w1.written = w.written ∧ (t.cluster c).copies = [] ∧
       t.ring.crcf = (if s.wrote 0x302 0 = true then s.ring.crcf else Nat.min 0xFF (s.ring.crcf + 1)) ∧ t.mem = s.mem) ∧
     (∀ q, s.windowCmd c w.cmd = some q → (s.cluster c).task.isSome = true → (s.region c).frozen = none → (s.taskOf c).twin = none →
       (s.taskOf c).isTwin = false →
       (n ∈ w.failed → x.checkAt c = s.now → ∃ (t : State) (r : TrapRec), exec (.tileCapture c true) s = .next t ∧ (t.region c).frozen = some r ∧ r.code = 0xB ∧
         r.sub = 1 ∧ r.src = srcNode c q.node ∧ r.a = fields [(x.layer, 0), (x.index, 32)] ∧ t.ring.reread = true) ∧
       (w.dkind = 2 → (s.fedBy x).planeTile x.src = none → ∃ (t : State) (r : TrapRec), exec (.tileCapture c false) s = .next t ∧
         (t.region c).frozen = some r ∧ r.code = 3 ∧ r.sub = 0x43 ∧ r.src = srcNode c q.node ∧ (t.cluster c).copies = [] ∧ t.mem = s.mem))) ∧
   (∀ (c pa : Nat) (s : State) (w : Window) (y : Copy) (q : Cmd), (s.openWindows c).passed c = [] → (s.cluster c).windows = [w] →
     (s.cluster c).copies = [y] → y.cmd = w.cmd → (∃ d rest, y.due = d :: rest ∧ d ≤ s.now) → s.windowCmd c w.cmd = some q → q.mate = none → byteMode q.ins = false →
     s.hub.migs = [] → w.dkind = 0 → s.sram (q.space c) (w.dest + BitVec.ofNat 64 (32768 * y.n)) .write = .ok pa → s.memOk →
     let y1 := y.after s.now
     let lo := 128 * y.line
     let hi := Nat.min 32768 (128 * y1.line)
     ∃ (t : State) (w1 : Window), exec (.tileCapture c false) s = .next t ∧ (t.cluster c).windows = [w1] ∧
       (y1.due = [] → (t.cluster c).copies = [] ∧ w1.written = w.written ++ [y.n]) ∧
       (y1.due ≠ [] → (t.cluster c).copies = [y1] ∧ w1.written = w.written) ∧
       (∀ j, lo ≤ j → j < hi → Memory.read t.mem (pa + j) = Memory.read (s.fedBy y.tile).mem (y.tile.src + j)) ∧
       (∀ a, (a < pa + lo ∨ pa + hi ≤ a) → Memory.read t.mem a = Memory.read s.mem a)) ∧
   (∀ (c k : Nat) (s : State) (w : Window) (q : Cmd), (s.cluster c).windows.find? (fun w => w.cmd == k) = some w →
     s.windowCmd c w.cmd = some q →
     ((w.written.length ≠ w.count ∨ q.stopped = true) → exec (.windowClose c k) s = .next s) ∧
     (∀ f, w.written.length = w.count → q.stopped = false → q.mate = none → q.dead = false → q.ins = .board f → (s.cluster c).mayPass q 7 = true →
       let ends (t : State) : Prop := exec (.windowClose c k) s = .next t ∧ (∀ x ∈ (t.cluster c).windows, x.cmd ≠ k) ∧ t.mem = s.mem ∧
         (w.dkind = 1 → ∀ n ∈ w.tileNos, ((t.task q.task).tile n).state = .ready) ∧
         (w.dkind = 2 → (s.cluster c).task.isSome = true → ∀ cell ∈ w.cellNos, ((t.taskOf c).dot cell).shState = .loaded) ∧
         (w.dkind ≠ 2 → (s.region c).placeAt f.t0 q.id → (t.region c).gets f.t0 (.ctl q.val false 0) (arrival s.now (q.node / 4) 0 f.t0)) ∧
         ∀ y ∈ (t.cluster c).eq, y.id ≠ q.id
       (f.ssem = 0xFF → ∃ t : State, ends t ∧ t.sems = s.sems) ∧
       (∀ inc key, f.ssem ≠ 0xFF → fieldAt q.desc 6 2 ≠ 0 → inc = (if f.sinc = 0 then q.done - q.signalled else f.sinc.toNat) →
         (s.task q.task).semKey f.ssem.toNat = some key → s.semOpen c (s.task q.task) f.ssem.toNat = true →
         (s.sems.get {} key).val + inc ≤ semMax → ∃ t : State, ends t ∧ (t.sems.get {} key).val = (s.sems.get {} key).val + inc ∧
           ∀ n, n ≠ key → t.sems.get {} n = s.sems.get {} n) ∧
       (f.ssem ≠ 0xFF → fieldAt q.desc 6 2 ≠ 0 → s.semOpen c (s.task q.task) f.ssem.toNat = false → ∃ (t : State) (q1 : Cmd),
         exec (.windowClose c k) s = .next t ∧ (∀ x ∈ (t.cluster c).windows, x.cmd ≠ k) ∧ t.sems = s.sems ∧
         ((∃ y ∈ (s.cluster c).eq, y.id = q.id) → q1 ∈ (t.cluster c).eq) ∧ q1.id = q.id ∧ q1.step = 6))))

/-- R395, R397 and R398: in each direction by itself, a receiver takes the flit it expects, and nothing after a bad one until
that flit comes again; a replayed flit is counted, and the sixteenth failure in a row retrains the module. A retrain, at the
width taken when it began, ends up where every lane that width needs is carried by a lane that trains, else down and failed. The
numbering of flits is the model's reading (log entry 39). -/
def Obligations.FlitsAndRetrains : Prop :=
  (∀ (e m seqno lane : Nat) (s : State), m = moduleOf (e % 416) →
    let l := s.link m
    let w := l.wire (wireOf e)
    let other (t : State) : Prop := (t.link m).wire (1 - wireOf e) = l.wire (1 - wireOf e)
    l.carries = true → w.fails + 1 < 16 →
    (seqno = w.expect → w.sent ≤ seqno → ∃ (t : State) (x : Wire), exec (.flitReceive e seqno true lane) s = .next t ∧
      x = (t.link m).wire (wireOf e) ∧ x.expect = w.expect + 1 ∧ x.nack = false ∧ x.fails = 0 ∧ (t.link m).cnt = l.cnt ∧ other t ∧
      t.mem = s.mem) ∧
    (seqno ≠ w.expect → ∃ (t : State) (x : Wire), exec (.flitReceive e seqno true lane) s = .next t ∧
      x = (t.link m).wire (wireOf e) ∧ x.expect = w.expect ∧ x.nack = w.nack ∧ other t ∧ t.mem = s.mem) ∧
    (∃ (t : State) (x : Wire), exec (.flitReceive e seqno false lane) s = .next t ∧ x = (t.link m).wire (wireOf e) ∧ x.expect = w.expect ∧
      x.nack = true ∧ (t.link m).errs.get 0 lane = l.errs.get 0 lane + 1 ∧ (t.link m).training = false ∧ other t ∧
      (t.link m).cnt = (if seqno < w.sent ∧ s.wrote 0x501 m = false then Nat.min 0xFFFFFFFF (l.cnt + 1) else l.cnt))) ∧
  (∀ (e m seqno lane : Nat) (good : Bool) (s : State), m = moduleOf (e % 416) → (s.link m).carries = false →
    exec (.flitReceive e seqno good lane) s = .next s) ∧
  (∀ (e m seqno lane : Nat) (w : Wire) (s : State), m = moduleOf (e % 416) → w = (s.link m).wire (wireOf e) → (s.link m).carries = true →
    15 ≤ w.fails → seqno = w.expect → seqno < w.sent → ∃ t : State, exec (.flitReceive e seqno false lane) s = .next t ∧
      (t.link m).training = true ∧ (t.link m).carries = false ∧ (t.link m).evt = true ∧ ((t.link m).wire (wireOf e)).fails = 0 ∧
      (t.link m).twUsed = (s.link m).cur) ∧
  (∀ (e m : Nat) (lanes : BitVec 64) (spares : BitVec 4) (s : State), m = moduleOf e →
    let l := s.link m
    let tw := l.twUsed
    (l.training = false → exec (.linkRetrainEnd e lanes spares) s = .next s) ∧
    (l.training = true → ∃ t : State, exec (.linkRetrainEnd e lanes spares) s = .next t ∧ (t.link m).training = false ∧
      (t.link m).go = false ∧ (t.link m).trains = Nat.min 0xFFFF (l.trains + 1) ∧ (∀ j, j ≠ m → t.link j = s.link j) ∧
      ((∀ n ∈ neededLanes tw, l.laneTrains lanes spares n = true) → (t.link m).cur = tw ∧ (t.link m).fail = l.fail) ∧
      ((∃ n ∈ neededLanes tw, l.laneTrains lanes spares n = false) → (t.link m).cur = 3 ∧ (t.link m).fail = true ∧
        (t.link m).carries = false) ∧
      (l.auto = true → tw ≠ 3 → (∀ n ∈ neededLanes tw, l.laneTrains lanes spares n = true) →
        (t.link m).quiesced = false ∧ (t.link m).up = true) ∧
      (l.auto = false → (t.link m).quiesced = true ∧ (t.link m).up = false)))

/-- R349, R350, R352 and R393: a far request takes the lowest channel whose slot serves it, as reserved or as best effort, the
requests of one address generator in their order; its response comes fourteen slots later, twenty-one from a peer, in an inbound
slot; where no slot or no response comes for a frame STALL shows it, and after 2 ms without a slot its access faults with
T_LINKSTALL, as one without a valid key does with T_KEY. When STALL shows, and which accesses take slots, are the model's
reading (log entries 2 and 39), and so is the way to a far die (log entry 46). -/
def Obligations.FarRequests : Prop :=
  (∀ (f k : Nat) (s : State) (r : FarReq), (s.far f).reqs.find? (fun x => x.id == k) = some r →
    (s.reqWanted r = false → (r.slot = none ∨ r.answered = true) → ∃ t : State, exec (.drawerSlotPlace f k) s = .next t ∧ t.mem = s.mem ∧
      ∀ y ∈ (t.far f).reqs, y.id ≠ k) ∧
    (r.slot = none → s.reqWanted r = true → r.stalled = false → s.hub.keyValid = true → r.eligible ≤ s.now → s.now % 80 = 0 →
      s.farLive f = true → s.pathOpen r.clus r.addr = true → s.reqBefore f r = false →
      ((s.far f).pick s.now s.hub.partKey r = none → exec (.drawerSlotPlace f k) s = .next s) ∧
      (∀ ch res, (s.far f).pick s.now s.hub.partKey r = some (ch, res) → ∃ t : State, exec (.drawerSlotPlace f k) s = .next t ∧ t.mem = s.mem ∧
        (t.far f).reqs.find? (fun x => x.id == k) = some { r with
          slot := some (ch, s.now), reserved := res, key := s.hub.partKey, keeps := res || (s.far f).innUse (s.now + 80 * r.back) ch == 0 } ∧
        (ch, s.now) ∈ (t.far f).taken ∧ (t.far f).flits = (s.far f).flits + 1 ∧
        t.hub.best = (if res = true ∨ s.wrote 0x604 0 = true then s.hub.best else (s.hub.best + 1) % 2 ^ 32) ∧ ch < 192 ∧ (ch, s.now) ∉ (s.far f).taken ∧
        (s.far f).outUse s.now ch = (if res then 1 else 0))) ∧
    (r.slot = none → (s.now < r.eligible ∨ s.now % 80 ≠ 0 ∨ s.farLive f = false ∨ s.hub.keyValid = false ∨ r.stalled = true ∨
        s.pathOpen r.clus r.addr = false ∨ s.reqBefore f r = true) →
      s.reqWanted r = true →
      exec (.drawerSlotPlace f k) s = .next s) ∧
    (∀ ch start, r.slot = some (ch, start) → r.answered = false →
      let due := start + 80 * (if r.peer then 21 else 14)
      ((s.now < due ∨ s.now % 80 ≠ 0 ∨ s.farLive f = false ∨ (s.far f).answerOn s.now ch start r = none) →
        exec (.drawerResponse f k) s = .next s) ∧
      (∀ d, due ≤ s.now → s.now % 80 = 0 → s.farLive f = true → (s.far f).answerOn s.now ch start r = some d →
        ∃ t : State, exec (.drawerResponse f k) s = .next t ∧ t.mem = s.mem ∧ (d, s.now) ∈ (t.far f).takenIn ∧
          (t.far f).reqs.find? (fun x => x.id == k) = some { r with answered := true, due := s.now + (if r.peer then 120 else 80), nack := s.switchNacks r } ∧
          (r.key.toNat ∈ s.hub.revoked → s.switchNacks r = true))) ∧
    (r.slot = none → (s.now < r.eligible + 640 → exec (.linkStall f k) s = .next s) ∧
      (r.eligible + 640 ≤ s.now → s.now < r.eligible + 5000000 →
        exec (.linkStall f k) s = .next ((s.modHub (fun h => { h with stall := true })).touch 0x604 0 48)) ∧
      (r.eligible + 5000000 ≤ s.now → ∃ t : State, exec (.linkStall f k) s = .next t ∧ t.mem = s.mem ∧ t.hub = { s.hub with stall := true } ∧
        (t.far f).reqs.find? (fun x => x.id == k) = some { r with stalled := true })) ∧
    (∀ ch start, r.slot = some (ch, start) → r.answered = false → start + 80 * r.back + 640 ≤ s.now →
      exec (.linkStall f k) s = .next ((s.modHub (fun h => { h with stall := true })).touch 0x604 0 48))) ∧
  (∀ (c j pa age : Nat) (a : Access) (r : FarReq) (s : State), s.mayPerform c j = some a → s.mirrored c = false →
    s.frozenPark c a = false → a.skip = none → (∀ f, a.ins ≠ .pref f) →
    s.walkOpen (s.accessSpace c a age) a.abs (accessBytes a.ins a.data) = true → s.accessPlaces c a age = .ok [pa] → isFar pa = true →
    misplaced c a.ins pa = false → (accessKind a.ins = .atomic → s.otherCopy pa = none) → s.paeTurn c a pa = true →
    s.farReq c (.access a.id) pa = some r → r.slot = none →
    let faults (x : XFault) : Host.Outcome State Fault Refusal := .next ((s.arrived c a age).accessFault c a x)
    (s.hub.keyValid = true → r.stalled = true → exec (.memoryAccessPerform c j age) s =
      faults { code := 0xE, sub := 1, addr := a.addr, info := BitVec.ofNat 64 (farOf pa) }) ∧
    (s.hub.keyValid = false → exec (.memoryAccessPerform c j age) s =
      faults { code := 0xF, sub := 2, addr := a.addr, info := BitVec.ofNat 64 s.hub.partKey.toNat }))

/-- R209, R348, R400 and R401: a table that has been read switches in whole at a frame boundary; a peer's request in its inbound
slot is owed a response in the paired outbound one, which goes there unless the channel is down or the slot taken; a channel is
calibrated at most once in 2^25 cycles, in an idle slot where there is one; a channel that is down is idle. A MAC failure stops
the link; a rollover follows 2^40 flits of either direction, and ends when nothing sent under the old slot is held. That a
peer's request changes no memory is the model's choice (log entry 38), and when a delayed response goes and how long flits are
held its reading (log entry 39). -/
def Obligations.FarTablesChannelsAndKeys : Prop :=
  (∀ (s : State), (s.now % 640 ≠ 0 → exec .slotTableSwitch s = .next s) ∧
    (s.now % 640 = 0 → ∃ t : State, exec .slotTableSwitch s = .next t ∧ t.mem = s.mem ∧ ∀ f < 2,
      (∀ tb, (s.far f).nextOut = some tb → (s.far f).readyOut < s.now → (t.far f).out = tb ∧ (t.far f).outAt = s.now ∧ (t.far f).nextOut = none) ∧
      ((s.far f).nextOut = none → (t.far f).out = (s.far f).out) ∧
      (∀ tb, (s.far f).nextInn = some tb → (s.far f).readyInn < s.now → (t.far f).inn = tb ∧ (t.far f).innAt = s.now ∧ (t.far f).nextInn = none) ∧
      ((s.far f).nextInn = none → (t.far f).inn = (s.far f).inn))) ∧
  (∀ (f ch addr key : Nat) (s : State), let d := s.far f
    let d1 := if s.farLive f = true then d.sendOwed s.now ch else d
    ((192 ≤ ch ∨ s.now % 80 ≠ 0 ∨ s.farLive f = false ∨ d.innUse s.now ch ≠ 1 ∨ key ∈ s.hub.revoked ∨
        d.owed s.now ch = true ∨ (ch, s.now) ∈ d.takenIn) → ∃ t : State, exec (.peerRequest f ch addr key) s = .next t ∧ t.far f = d1 ∧
          t.mem = s.mem) ∧
    (ch < 192 → s.now % 80 = 0 → s.farLive f = true → d.innUse s.now ch = 1 → d.owed s.now ch = false → (ch, s.now) ∉ d.takenIn →
      ((d.inn.get 0 (d.innIndex s.now ch)).setWidth 16).toNat = key → key ∉ s.hub.revoked → d.outAt % 80 = 0 → d.outAt ≤ s.now →
      ∃ (t : State) (at_ : Nat), exec (.peerRequest f ch addr key) s = .next t ∧ t.mem = s.mem ∧ (t.far f).taken = d1.taken ∧
        (t.far f).owes = d1.owes ++ [{ ch := ch, due := at_ }] ∧ (ch, s.now) ∈ (t.far f).takenIn ∧ (t.far f).flitsIn = d.flitsIn + 1 ∧
        s.now < at_ ∧ at_ ≤ s.now + 1280 ∧ slotPos d.outAt at_ = (slotPos d.innAt s.now + 7) % 16) ∧
    (∀ x, d.owes.find? (fun x => x.ch == ch && decide (x.due ≤ s.now)) = some x →
      ((s.now % 80 ≠ 0 ∨ ch ∈ d.down ∨ (ch, s.now) ∈ d.taken) → d.sendOwed s.now ch = d) ∧
      (s.now % 80 = 0 → ch ∉ d.down → (ch, s.now) ∉ d.taken → (d.sendOwed s.now ch).owes = d.owes.erase x ∧
        (ch, s.now) ∈ (d.sendOwed s.now ch).taken ∧ (d.sendOwed s.now ch).flits = d.flits + 1))) ∧
  (∀ (f ch : Nat) (s : State), let d := s.far f
    ((384 ≤ ch ∨ s.now < d.calAt.get 0 ch + 2 ^ 25) → exec (.channelCalibration f ch) s = .next s) ∧
    (ch < 384 → d.calAt.get 0 ch + 2 ^ 25 ≤ s.now → ∃ t : State, exec (.channelCalibration f ch) s = .next t ∧ t.mem = s.mem ∧
      (t.far f).calAt.get 0 ch = s.now ∧
      (∀ n, d.calSlot s.now ch = some n → if ch < 192 then (ch, n) ∈ (t.far f).taken else (ch - 192, n) ∈ (t.far f).takenIn))) ∧
  (∀ (f ch : Nat) (s : State), (ch < 384 → ∃ t : State, exec (.channelDown f ch) s = .next t ∧ t.mem = s.mem ∧
      (∀ j, j ∈ (t.far f).down ↔ j = ch ∨ j ∈ (s.far f).down) ∧
      (∀ n, (ch < 192 → (t.far f).outUse n ch = 3) ∧ (192 ≤ ch → (t.far f).innUse n (ch - 192) = 3))) ∧
    (∃ t : State, exec (.channelRelock f ch) s = .next t ∧ t.mem = s.mem ∧ ∀ j, j ∈ (t.far f).down ↔ j ≠ ch ∧ j ∈ (s.far f).down)) ∧
  (∀ (f : Nat) (s : State),
    ((s.far f).flits < 2 ^ 40 → (s.far f).flitsIn < 2 ^ 40 → exec (.ideAutoRollover f) s = .next s) ∧
    ((2 ^ 40 ≤ (s.far f).flits ∨ 2 ^ 40 ≤ (s.far f).flitsIn) → (s.far f).roll = false → ∃ t : State, exec (.ideAutoRollover f) s = .next t ∧ (t.far f).roll = true ∧
      (t.far f).txslot = !(s.far f).txslot ∧ (t.far f).retiring = true ∧ (t.far f).flits = 0 ∧ (t.far f).flitsIn = 0 ∧
      t.mem = s.mem) ∧
    (∃ t : State, exec (.ideSlotRetire f) s = .next t ∧ t.mem = s.mem ∧
      (((s.far f).retiring = false ∨ (s.far f).oldFlits s.now ≠ 0 ∨ s.wrote (0x410 + f) f = true) → t.far f = s.far f) ∧
      ((s.far f).retiring = true → (s.far f).oldFlits s.now = 0 → s.wrote (0x410 + f) f = false →
        t.far f = { s.far f with retiring := false, roll := false, rcnt := ((s.far f).rcnt + 1) % 2 ^ 16 })) ∧
    (∃ t : State, exec (.macFailure f) s = .next t ∧ t.mem = s.mem ∧ t.far f = { s.far f with keyerr := true } ∧ t.farLive f = false))

/-- R353, R382 and R403 to R408: the host writes what of HBM it sees and nothing else, and a read changes no memory; a scrub
that finds an uncorrectable error marks its sector, as a host read does; telemetry is sampled every 2^20 cycles; a throttled
island skips a cycle; only a cluster without a task is gated; a report binds a nonce of 32 bytes, the device, the SVN, the
digests of the firmware and the key slots. What a telemetry sample holds is the model's choice (log entry 38). -/
def Obligations.HostAndUpkeep : Prop :=
  (∀ (addr len : Nat) (data : List Byte) (s : State),
    (∃ t : State, exec (.hostAccess (.read addr len)) s = .next t ∧
      t = (s.findErrors ((span addr len).filter s.hostByte)).modHub (fun h => { h with hostBound := t.hub.hostBound })) ∧
    (∃ t : State, exec (.hostAccess (.write addr data)) s = .next t ∧ t.clusters = s.clusters ∧ t.tasks = s.tasks ∧
      (s.memOk → ∀ j < data.length, s.hostVisible (addr + j) = true → addr + j < 2 ^ 40 →
        Memory.read t.mem (addr + j) = data.getD j 0) ∧
      (∀ a, (a < addr ∨ addr + data.length ≤ a ∨ s.hostVisible a = false ∨ 2 ^ 40 ≤ a) → Memory.read t.mem a = Memory.read s.mem a))) ∧
  (∀ (addr : Nat) (s : State), ∃ t u : State, exec (.patrolScrub addr true) s = .next t ∧ addr / 32 ∈ t.marks ∧ t.mem = s.mem ∧
    exec (.patrolScrub addr false) s = .next u ∧ u.mem = s.mem ∧ (addr / 32 ∈ s.ecc → addr / 32 ∈ u.marks ∧ addr / 32 ∉ u.ecc) ∧
    (addr / 32 ∉ s.ecc → u = s)) ∧
  (∀ (c : Nat) (s : State), exec .telemetrySample s = .next
      (if s.now % 2 ^ 20 = 0 then s.modHub (fun h => { h with telemetry := h.telemetry ++ [s.now] }) else s) ∧
    ((s.cluster c).tick ≠ some s.now → ∃ t : State, exec (.throttle c) s = .next t ∧ t.running c = false ∧ t.working c = false ∧
      (∀ i, (t.at c i).live = false) ∧ t.mem = s.mem ∧ ∀ d, d ≠ c → t.cluster d = s.cluster d) ∧
    ((s.cluster c).task.isSome = true → exec (.clusterPowerGate c) s = .next s) ∧
    ((s.cluster c).task = none → exec (.clusterPowerGate c) s = .next (s.modCluster c (fun k => { k with gated := true })))) ∧
  (∀ (nonce : List Byte) (s : State), (nonce.length ≠ 32 → exec (.attestationRequest nonce) s = .next s) ∧
    (nonce.length = 32 → ∃ rest : List Byte, exec (.attestationRequest nonce) s = .next
      (s.modHub (fun h => { h with
        doe := nonce ++ Config.identity ++ leBytes 2 Config.svn.toNat ++
          s.hub.firmware.flatMap (fun x => Config.sha3 (x.header ++ x.body)) ++ s.keySlots ++ rest }))))
end

