-- ==== Sys2Proof/Laws/Table.lean ====
section
/-!
SUPPORT. Tables: an entry that is written reads back, and no other entry changes.
-/

namespace Sys2Proof.Machine

@[simp] theorem Tbl.get_set {α : Type} (d : α) (t : Tbl α) (k : Nat) (v : α) : (t.set k v).get d k = v := by
  induction t with
  | nil => simp [Tbl.set, Tbl.get]
  | cons x t ih =>
    obtain ⟨j, w⟩ := x
    by_cases h : j = k <;> simp [Tbl.set, Tbl.get, h, ih]

theorem Tbl.get_set_ne {α : Type} (d : α) (t : Tbl α) {k j : Nat} (v : α) (h : k ≠ j) : (t.set k v).get d j = t.get d j := by
  induction t with
  | nil => simp [Tbl.set, Tbl.get, h]
  | cons x t ih =>
    obtain ⟨i, w⟩ := x
    by_cases hi : i = k
    · subst hi; simp [Tbl.set, Tbl.get, h]
    · by_cases hj : i = j
      · subst hj; simp [Tbl.set, Tbl.get, hi]
      · simp [Tbl.set, Tbl.get, hi, hj, ih]

@[simp] theorem Tbl.find_set {α : Type} (t : Tbl α) (k : Nat) (v : α) : (t.set k v).find k = some v := by
  induction t with
  | nil => simp [Tbl.set, Tbl.find]
  | cons x t ih =>
    obtain ⟨j, w⟩ := x
    by_cases h : j = k <;> simp [Tbl.set, Tbl.find, h, ih]

theorem Tbl.get_eq_find {α : Type} (d : α) (t : Tbl α) (k : Nat) : t.get d k = (t.find k).getD d := by
  induction t with
  | nil => rfl
  | cons x t ih =>
    obtain ⟨j, w⟩ := x
    by_cases h : j = k <;> simp [Tbl.get, Tbl.find, h, ih]

end Sys2Proof.Machine
end

