-- ==== Sys2Proof/Laws/State.lean ====
section
/-!
SUPPORT. What each update of a part of the state leaves of every field, one lemma for each field and update.
-/

namespace Sys2Proof.Machine

open Sys2Proof

/-! ## setCluster -/

@[simp] theorem setCluster_now (s : State) (c : Nat) (x : Cluster) : (s.setCluster c x).now = s.now := rfl
@[simp] theorem setCluster_mem (s : State) (c : Nat) (x : Cluster) : (s.setCluster c x).mem = s.mem := rfl
@[simp] theorem setCluster_marks (s : State) (c : Nat) (x : Cluster) : (s.setCluster c x).marks = s.marks := rfl
@[simp] theorem setCluster_full (s : State) (c : Nat) (x : Cluster) : (s.setCluster c x).full = s.full := rfl
@[simp] theorem setCluster_ecc (s : State) (c : Nat) (x : Cluster) : (s.setCluster c x).ecc = s.ecc := rfl
@[simp] theorem setCluster_lineRel (s : State) (c : Nat) (x : Cluster) : (s.setCluster c x).lineRel = s.lineRel := rfl
@[simp] theorem setCluster_wseq (s : State) (c : Nat) (x : Cluster) : (s.setCluster c x).wseq = s.wseq := rfl
@[simp] theorem setCluster_hist (s : State) (c : Nat) (x : Cluster) : (s.setCluster c x).hist = s.hist := rfl
@[simp] theorem setCluster_paeBound (s : State) (c : Nat) (x : Cluster) : (s.setCluster c x).paeBound = s.paeBound := rfl
@[simp] theorem setCluster_paeLast (s : State) (c : Nat) (x : Cluster) : (s.setCluster c x).paeLast = s.paeLast := rfl
@[simp] theorem setCluster_lag (s : State) (c : Nat) (x : Cluster) : (s.setCluster c x).lag = s.lag := rfl
@[simp] theorem setCluster_ids (s : State) (c : Nat) (x : Cluster) : (s.setCluster c x).ids = s.ids := rfl
@[simp] theorem setCluster_arrivals (s : State) (c : Nat) (x : Cluster) : (s.setCluster c x).arrivals = s.arrivals := rfl
@[simp] theorem setCluster_clusters (s : State) (c : Nat) (x : Cluster) :
    (s.setCluster c x).clusters = s.clusters.set c x := rfl
@[simp] theorem setCluster_sems (s : State) (c : Nat) (x : Cluster) : (s.setCluster c x).sems = s.sems := rfl
@[simp] theorem setCluster_tasks (s : State) (c : Nat) (x : Cluster) : (s.setCluster c x).tasks = s.tasks := rfl
@[simp] theorem setCluster_points (s : State) (c : Nat) (x : Cluster) : (s.setCluster c x).points = s.points := rfl
@[simp] theorem setCluster_images (s : State) (c : Nat) (x : Cluster) : (s.setCluster c x).images = s.images := rfl
@[simp] theorem setCluster_hub (s : State) (c : Nat) (x : Cluster) : (s.setCluster c x).hub = s.hub := rfl
@[simp] theorem setCluster_ring (s : State) (c : Nat) (x : Cluster) : (s.setCluster c x).ring = s.ring := rfl
@[simp] theorem setCluster_links (s : State) (c : Nat) (x : Cluster) : (s.setCluster c x).links = s.links := rfl
@[simp] theorem setCluster_fars (s : State) (c : Nat) (x : Cluster) : (s.setCluster c x).fars = s.fars := rfl
@[simp] theorem setCluster_agenda (s : State) (c : Nat) (x : Cluster) : (s.setCluster c x).agenda = s.agenda := rfl
@[simp] theorem setCluster_stage (s : State) (c : Nat) (x : Cluster) : (s.setCluster c x).stage = s.stage := rfl
@[simp] theorem setCluster_touched (s : State) (c : Nat) (x : Cluster) : (s.setCluster c x).touched = s.touched := rfl
@[simp] theorem setCluster_sel (s : State) (c : Nat) (x : Cluster) : (s.setCluster c x).sel = s.sel := rfl
@[simp] theorem setCluster_fresh (s : State) (c : Nat) (x : Cluster) : (s.setCluster c x).fresh = s.fresh := rfl

/-! ## modCluster -/

@[simp] theorem modCluster_now (s : State) (c : Nat) (f : Cluster → Cluster) : (s.modCluster c f).now = s.now := rfl
@[simp] theorem modCluster_mem (s : State) (c : Nat) (f : Cluster → Cluster) : (s.modCluster c f).mem = s.mem := rfl
@[simp] theorem modCluster_marks (s : State) (c : Nat) (f : Cluster → Cluster) : (s.modCluster c f).marks = s.marks := rfl
@[simp] theorem modCluster_full (s : State) (c : Nat) (f : Cluster → Cluster) : (s.modCluster c f).full = s.full := rfl
@[simp] theorem modCluster_ecc (s : State) (c : Nat) (f : Cluster → Cluster) : (s.modCluster c f).ecc = s.ecc := rfl
@[simp] theorem modCluster_lineRel (s : State) (c : Nat) (f : Cluster → Cluster) : (s.modCluster c f).lineRel = s.lineRel := rfl
@[simp] theorem modCluster_wseq (s : State) (c : Nat) (f : Cluster → Cluster) : (s.modCluster c f).wseq = s.wseq := rfl
@[simp] theorem modCluster_hist (s : State) (c : Nat) (f : Cluster → Cluster) : (s.modCluster c f).hist = s.hist := rfl
@[simp] theorem modCluster_paeBound (s : State) (c : Nat) (f : Cluster → Cluster) : (s.modCluster c f).paeBound = s.paeBound := rfl
@[simp] theorem modCluster_paeLast (s : State) (c : Nat) (f : Cluster → Cluster) : (s.modCluster c f).paeLast = s.paeLast := rfl
@[simp] theorem modCluster_lag (s : State) (c : Nat) (f : Cluster → Cluster) : (s.modCluster c f).lag = s.lag := rfl
@[simp] theorem modCluster_ids (s : State) (c : Nat) (f : Cluster → Cluster) : (s.modCluster c f).ids = s.ids := rfl
@[simp] theorem modCluster_arrivals (s : State) (c : Nat) (f : Cluster → Cluster) : (s.modCluster c f).arrivals = s.arrivals := rfl
@[simp] theorem modCluster_clusters (s : State) (c : Nat) (f : Cluster → Cluster) :
    (s.modCluster c f).clusters = s.clusters.set c (f (s.cluster c)) := rfl
@[simp] theorem modCluster_sems (s : State) (c : Nat) (f : Cluster → Cluster) : (s.modCluster c f).sems = s.sems := rfl
@[simp] theorem modCluster_tasks (s : State) (c : Nat) (f : Cluster → Cluster) : (s.modCluster c f).tasks = s.tasks := rfl
@[simp] theorem modCluster_points (s : State) (c : Nat) (f : Cluster → Cluster) : (s.modCluster c f).points = s.points := rfl
@[simp] theorem modCluster_images (s : State) (c : Nat) (f : Cluster → Cluster) : (s.modCluster c f).images = s.images := rfl
@[simp] theorem modCluster_hub (s : State) (c : Nat) (f : Cluster → Cluster) : (s.modCluster c f).hub = s.hub := rfl
@[simp] theorem modCluster_ring (s : State) (c : Nat) (f : Cluster → Cluster) : (s.modCluster c f).ring = s.ring := rfl
@[simp] theorem modCluster_links (s : State) (c : Nat) (f : Cluster → Cluster) : (s.modCluster c f).links = s.links := rfl
@[simp] theorem modCluster_fars (s : State) (c : Nat) (f : Cluster → Cluster) : (s.modCluster c f).fars = s.fars := rfl
@[simp] theorem modCluster_agenda (s : State) (c : Nat) (f : Cluster → Cluster) : (s.modCluster c f).agenda = s.agenda := rfl
@[simp] theorem modCluster_stage (s : State) (c : Nat) (f : Cluster → Cluster) : (s.modCluster c f).stage = s.stage := rfl
@[simp] theorem modCluster_touched (s : State) (c : Nat) (f : Cluster → Cluster) : (s.modCluster c f).touched = s.touched := rfl
@[simp] theorem modCluster_sel (s : State) (c : Nat) (f : Cluster → Cluster) : (s.modCluster c f).sel = s.sel := rfl
@[simp] theorem modCluster_fresh (s : State) (c : Nat) (f : Cluster → Cluster) : (s.modCluster c f).fresh = s.fresh := rfl

/-! ## setRegion -/

@[simp] theorem setRegion_now (s : State) (c : Nat) (x : Region) : (s.setRegion c x).now = s.now := rfl
@[simp] theorem setRegion_mem (s : State) (c : Nat) (x : Region) : (s.setRegion c x).mem = s.mem := rfl
@[simp] theorem setRegion_marks (s : State) (c : Nat) (x : Region) : (s.setRegion c x).marks = s.marks := rfl
@[simp] theorem setRegion_full (s : State) (c : Nat) (x : Region) : (s.setRegion c x).full = s.full := rfl
@[simp] theorem setRegion_ecc (s : State) (c : Nat) (x : Region) : (s.setRegion c x).ecc = s.ecc := rfl
@[simp] theorem setRegion_lineRel (s : State) (c : Nat) (x : Region) : (s.setRegion c x).lineRel = s.lineRel := rfl
@[simp] theorem setRegion_wseq (s : State) (c : Nat) (x : Region) : (s.setRegion c x).wseq = s.wseq := rfl
@[simp] theorem setRegion_hist (s : State) (c : Nat) (x : Region) : (s.setRegion c x).hist = s.hist := rfl
@[simp] theorem setRegion_paeBound (s : State) (c : Nat) (x : Region) : (s.setRegion c x).paeBound = s.paeBound := rfl
@[simp] theorem setRegion_paeLast (s : State) (c : Nat) (x : Region) : (s.setRegion c x).paeLast = s.paeLast := rfl
@[simp] theorem setRegion_lag (s : State) (c : Nat) (x : Region) : (s.setRegion c x).lag = s.lag := rfl
@[simp] theorem setRegion_ids (s : State) (c : Nat) (x : Region) : (s.setRegion c x).ids = s.ids := rfl
@[simp] theorem setRegion_arrivals (s : State) (c : Nat) (x : Region) : (s.setRegion c x).arrivals = s.arrivals := rfl
@[simp] theorem setRegion_clusters (s : State) (c : Nat) (x : Region) :
    (s.setRegion c x).clusters = s.clusters.set c { s.cluster c with region := x } := rfl
@[simp] theorem setRegion_sems (s : State) (c : Nat) (x : Region) : (s.setRegion c x).sems = s.sems := rfl
@[simp] theorem setRegion_tasks (s : State) (c : Nat) (x : Region) : (s.setRegion c x).tasks = s.tasks := rfl
@[simp] theorem setRegion_points (s : State) (c : Nat) (x : Region) : (s.setRegion c x).points = s.points := rfl
@[simp] theorem setRegion_images (s : State) (c : Nat) (x : Region) : (s.setRegion c x).images = s.images := rfl
@[simp] theorem setRegion_hub (s : State) (c : Nat) (x : Region) : (s.setRegion c x).hub = s.hub := rfl
@[simp] theorem setRegion_ring (s : State) (c : Nat) (x : Region) : (s.setRegion c x).ring = s.ring := rfl
@[simp] theorem setRegion_links (s : State) (c : Nat) (x : Region) : (s.setRegion c x).links = s.links := rfl
@[simp] theorem setRegion_fars (s : State) (c : Nat) (x : Region) : (s.setRegion c x).fars = s.fars := rfl
@[simp] theorem setRegion_agenda (s : State) (c : Nat) (x : Region) : (s.setRegion c x).agenda = s.agenda := rfl
@[simp] theorem setRegion_stage (s : State) (c : Nat) (x : Region) : (s.setRegion c x).stage = s.stage := rfl
@[simp] theorem setRegion_touched (s : State) (c : Nat) (x : Region) : (s.setRegion c x).touched = s.touched := rfl
@[simp] theorem setRegion_sel (s : State) (c : Nat) (x : Region) : (s.setRegion c x).sel = s.sel := rfl
@[simp] theorem setRegion_fresh (s : State) (c : Nat) (x : Region) : (s.setRegion c x).fresh = s.fresh := rfl

/-! ## modRegion -/

@[simp] theorem modRegion_now (s : State) (c : Nat) (f : Region → Region) : (s.modRegion c f).now = s.now := rfl
@[simp] theorem modRegion_mem (s : State) (c : Nat) (f : Region → Region) : (s.modRegion c f).mem = s.mem := rfl
@[simp] theorem modRegion_marks (s : State) (c : Nat) (f : Region → Region) : (s.modRegion c f).marks = s.marks := rfl
@[simp] theorem modRegion_full (s : State) (c : Nat) (f : Region → Region) : (s.modRegion c f).full = s.full := rfl
@[simp] theorem modRegion_ecc (s : State) (c : Nat) (f : Region → Region) : (s.modRegion c f).ecc = s.ecc := rfl
@[simp] theorem modRegion_lineRel (s : State) (c : Nat) (f : Region → Region) : (s.modRegion c f).lineRel = s.lineRel := rfl
@[simp] theorem modRegion_wseq (s : State) (c : Nat) (f : Region → Region) : (s.modRegion c f).wseq = s.wseq := rfl
@[simp] theorem modRegion_hist (s : State) (c : Nat) (f : Region → Region) : (s.modRegion c f).hist = s.hist := rfl
@[simp] theorem modRegion_paeBound (s : State) (c : Nat) (f : Region → Region) : (s.modRegion c f).paeBound = s.paeBound := rfl
@[simp] theorem modRegion_paeLast (s : State) (c : Nat) (f : Region → Region) : (s.modRegion c f).paeLast = s.paeLast := rfl
@[simp] theorem modRegion_lag (s : State) (c : Nat) (f : Region → Region) : (s.modRegion c f).lag = s.lag := rfl
@[simp] theorem modRegion_ids (s : State) (c : Nat) (f : Region → Region) : (s.modRegion c f).ids = s.ids := rfl
@[simp] theorem modRegion_arrivals (s : State) (c : Nat) (f : Region → Region) : (s.modRegion c f).arrivals = s.arrivals := rfl
@[simp] theorem modRegion_clusters (s : State) (c : Nat) (f : Region → Region) :
    (s.modRegion c f).clusters = s.clusters.set c { s.cluster c with region := f (s.region c) } := rfl
@[simp] theorem modRegion_sems (s : State) (c : Nat) (f : Region → Region) : (s.modRegion c f).sems = s.sems := rfl
@[simp] theorem modRegion_tasks (s : State) (c : Nat) (f : Region → Region) : (s.modRegion c f).tasks = s.tasks := rfl
@[simp] theorem modRegion_points (s : State) (c : Nat) (f : Region → Region) : (s.modRegion c f).points = s.points := rfl
@[simp] theorem modRegion_images (s : State) (c : Nat) (f : Region → Region) : (s.modRegion c f).images = s.images := rfl
@[simp] theorem modRegion_hub (s : State) (c : Nat) (f : Region → Region) : (s.modRegion c f).hub = s.hub := rfl
@[simp] theorem modRegion_ring (s : State) (c : Nat) (f : Region → Region) : (s.modRegion c f).ring = s.ring := rfl
@[simp] theorem modRegion_links (s : State) (c : Nat) (f : Region → Region) : (s.modRegion c f).links = s.links := rfl
@[simp] theorem modRegion_fars (s : State) (c : Nat) (f : Region → Region) : (s.modRegion c f).fars = s.fars := rfl
@[simp] theorem modRegion_agenda (s : State) (c : Nat) (f : Region → Region) : (s.modRegion c f).agenda = s.agenda := rfl
@[simp] theorem modRegion_stage (s : State) (c : Nat) (f : Region → Region) : (s.modRegion c f).stage = s.stage := rfl
@[simp] theorem modRegion_touched (s : State) (c : Nat) (f : Region → Region) : (s.modRegion c f).touched = s.touched := rfl
@[simp] theorem modRegion_sel (s : State) (c : Nat) (f : Region → Region) : (s.modRegion c f).sel = s.sel := rfl
@[simp] theorem modRegion_fresh (s : State) (c : Nat) (f : Region → Region) : (s.modRegion c f).fresh = s.fresh := rfl

/-! ## setNode -/

@[simp] theorem setNode_now (s : State) (c i : Nat) (n : Node) : (s.setNode c i n).now = s.now := rfl
@[simp] theorem setNode_mem (s : State) (c i : Nat) (n : Node) : (s.setNode c i n).mem = s.mem := rfl
@[simp] theorem setNode_marks (s : State) (c i : Nat) (n : Node) : (s.setNode c i n).marks = s.marks := rfl
@[simp] theorem setNode_full (s : State) (c i : Nat) (n : Node) : (s.setNode c i n).full = s.full := rfl
@[simp] theorem setNode_ecc (s : State) (c i : Nat) (n : Node) : (s.setNode c i n).ecc = s.ecc := rfl
@[simp] theorem setNode_lineRel (s : State) (c i : Nat) (n : Node) : (s.setNode c i n).lineRel = s.lineRel := rfl
@[simp] theorem setNode_wseq (s : State) (c i : Nat) (n : Node) : (s.setNode c i n).wseq = s.wseq := rfl
@[simp] theorem setNode_hist (s : State) (c i : Nat) (n : Node) : (s.setNode c i n).hist = s.hist := rfl
@[simp] theorem setNode_paeBound (s : State) (c i : Nat) (n : Node) : (s.setNode c i n).paeBound = s.paeBound := rfl
@[simp] theorem setNode_paeLast (s : State) (c i : Nat) (n : Node) : (s.setNode c i n).paeLast = s.paeLast := rfl
@[simp] theorem setNode_lag (s : State) (c i : Nat) (n : Node) : (s.setNode c i n).lag = s.lag := rfl
@[simp] theorem setNode_ids (s : State) (c i : Nat) (n : Node) : (s.setNode c i n).ids = s.ids := rfl
@[simp] theorem setNode_arrivals (s : State) (c i : Nat) (n : Node) : (s.setNode c i n).arrivals = s.arrivals := rfl
@[simp] theorem setNode_sems (s : State) (c i : Nat) (n : Node) : (s.setNode c i n).sems = s.sems := rfl
@[simp] theorem setNode_tasks (s : State) (c i : Nat) (n : Node) : (s.setNode c i n).tasks = s.tasks := rfl
@[simp] theorem setNode_points (s : State) (c i : Nat) (n : Node) : (s.setNode c i n).points = s.points := rfl
@[simp] theorem setNode_images (s : State) (c i : Nat) (n : Node) : (s.setNode c i n).images = s.images := rfl
@[simp] theorem setNode_hub (s : State) (c i : Nat) (n : Node) : (s.setNode c i n).hub = s.hub := rfl
@[simp] theorem setNode_ring (s : State) (c i : Nat) (n : Node) : (s.setNode c i n).ring = s.ring := rfl
@[simp] theorem setNode_links (s : State) (c i : Nat) (n : Node) : (s.setNode c i n).links = s.links := rfl
@[simp] theorem setNode_fars (s : State) (c i : Nat) (n : Node) : (s.setNode c i n).fars = s.fars := rfl
@[simp] theorem setNode_agenda (s : State) (c i : Nat) (n : Node) : (s.setNode c i n).agenda = s.agenda := rfl
@[simp] theorem setNode_stage (s : State) (c i : Nat) (n : Node) : (s.setNode c i n).stage = s.stage := rfl
@[simp] theorem setNode_touched (s : State) (c i : Nat) (n : Node) : (s.setNode c i n).touched = s.touched := rfl
@[simp] theorem setNode_sel (s : State) (c i : Nat) (n : Node) : (s.setNode c i n).sel = s.sel := rfl
@[simp] theorem setNode_fresh (s : State) (c i : Nat) (n : Node) : (s.setNode c i n).fresh = s.fresh := rfl

/-! ## modNode -/

@[simp] theorem modNode_now (s : State) (c i : Nat) (f : Node → Node) : (s.modNode c i f).now = s.now := rfl
@[simp] theorem modNode_mem (s : State) (c i : Nat) (f : Node → Node) : (s.modNode c i f).mem = s.mem := rfl
@[simp] theorem modNode_marks (s : State) (c i : Nat) (f : Node → Node) : (s.modNode c i f).marks = s.marks := rfl
@[simp] theorem modNode_full (s : State) (c i : Nat) (f : Node → Node) : (s.modNode c i f).full = s.full := rfl
@[simp] theorem modNode_ecc (s : State) (c i : Nat) (f : Node → Node) : (s.modNode c i f).ecc = s.ecc := rfl
@[simp] theorem modNode_lineRel (s : State) (c i : Nat) (f : Node → Node) : (s.modNode c i f).lineRel = s.lineRel := rfl
@[simp] theorem modNode_wseq (s : State) (c i : Nat) (f : Node → Node) : (s.modNode c i f).wseq = s.wseq := rfl
@[simp] theorem modNode_hist (s : State) (c i : Nat) (f : Node → Node) : (s.modNode c i f).hist = s.hist := rfl
@[simp] theorem modNode_paeBound (s : State) (c i : Nat) (f : Node → Node) : (s.modNode c i f).paeBound = s.paeBound := rfl
@[simp] theorem modNode_paeLast (s : State) (c i : Nat) (f : Node → Node) : (s.modNode c i f).paeLast = s.paeLast := rfl
@[simp] theorem modNode_lag (s : State) (c i : Nat) (f : Node → Node) : (s.modNode c i f).lag = s.lag := rfl
@[simp] theorem modNode_ids (s : State) (c i : Nat) (f : Node → Node) : (s.modNode c i f).ids = s.ids := rfl
@[simp] theorem modNode_arrivals (s : State) (c i : Nat) (f : Node → Node) : (s.modNode c i f).arrivals = s.arrivals := rfl
@[simp] theorem modNode_sems (s : State) (c i : Nat) (f : Node → Node) : (s.modNode c i f).sems = s.sems := rfl
@[simp] theorem modNode_tasks (s : State) (c i : Nat) (f : Node → Node) : (s.modNode c i f).tasks = s.tasks := rfl
@[simp] theorem modNode_points (s : State) (c i : Nat) (f : Node → Node) : (s.modNode c i f).points = s.points := rfl
@[simp] theorem modNode_images (s : State) (c i : Nat) (f : Node → Node) : (s.modNode c i f).images = s.images := rfl
@[simp] theorem modNode_hub (s : State) (c i : Nat) (f : Node → Node) : (s.modNode c i f).hub = s.hub := rfl
@[simp] theorem modNode_ring (s : State) (c i : Nat) (f : Node → Node) : (s.modNode c i f).ring = s.ring := rfl
@[simp] theorem modNode_links (s : State) (c i : Nat) (f : Node → Node) : (s.modNode c i f).links = s.links := rfl
@[simp] theorem modNode_fars (s : State) (c i : Nat) (f : Node → Node) : (s.modNode c i f).fars = s.fars := rfl
@[simp] theorem modNode_agenda (s : State) (c i : Nat) (f : Node → Node) : (s.modNode c i f).agenda = s.agenda := rfl
@[simp] theorem modNode_stage (s : State) (c i : Nat) (f : Node → Node) : (s.modNode c i f).stage = s.stage := rfl
@[simp] theorem modNode_touched (s : State) (c i : Nat) (f : Node → Node) : (s.modNode c i f).touched = s.touched := rfl
@[simp] theorem modNode_sel (s : State) (c i : Nat) (f : Node → Node) : (s.modNode c i f).sel = s.sel := rfl
@[simp] theorem modNode_fresh (s : State) (c i : Nat) (f : Node → Node) : (s.modNode c i f).fresh = s.fresh := rfl

/-! ## setTask -/

@[simp] theorem setTask_now (s : State) (t : Nat) (x : Task) : (s.setTask t x).now = s.now := rfl
@[simp] theorem setTask_mem (s : State) (t : Nat) (x : Task) : (s.setTask t x).mem = s.mem := rfl
@[simp] theorem setTask_marks (s : State) (t : Nat) (x : Task) : (s.setTask t x).marks = s.marks := rfl
@[simp] theorem setTask_full (s : State) (t : Nat) (x : Task) : (s.setTask t x).full = s.full := rfl
@[simp] theorem setTask_ecc (s : State) (t : Nat) (x : Task) : (s.setTask t x).ecc = s.ecc := rfl
@[simp] theorem setTask_lineRel (s : State) (t : Nat) (x : Task) : (s.setTask t x).lineRel = s.lineRel := rfl
@[simp] theorem setTask_wseq (s : State) (t : Nat) (x : Task) : (s.setTask t x).wseq = s.wseq := rfl
@[simp] theorem setTask_hist (s : State) (t : Nat) (x : Task) : (s.setTask t x).hist = s.hist := rfl
@[simp] theorem setTask_paeBound (s : State) (t : Nat) (x : Task) : (s.setTask t x).paeBound = s.paeBound := rfl
@[simp] theorem setTask_paeLast (s : State) (t : Nat) (x : Task) : (s.setTask t x).paeLast = s.paeLast := rfl
@[simp] theorem setTask_lag (s : State) (t : Nat) (x : Task) : (s.setTask t x).lag = s.lag := rfl
@[simp] theorem setTask_ids (s : State) (t : Nat) (x : Task) : (s.setTask t x).ids = s.ids := rfl
@[simp] theorem setTask_arrivals (s : State) (t : Nat) (x : Task) : (s.setTask t x).arrivals = s.arrivals := rfl
@[simp] theorem setTask_clusters (s : State) (t : Nat) (x : Task) : (s.setTask t x).clusters = s.clusters := rfl
@[simp] theorem setTask_sems (s : State) (t : Nat) (x : Task) : (s.setTask t x).sems = s.sems := rfl
@[simp] theorem setTask_tasks (s : State) (t : Nat) (x : Task) :
    (s.setTask t x).tasks = s.tasks.set t x := rfl
@[simp] theorem setTask_points (s : State) (t : Nat) (x : Task) : (s.setTask t x).points = s.points := rfl
@[simp] theorem setTask_images (s : State) (t : Nat) (x : Task) : (s.setTask t x).images = s.images := rfl
@[simp] theorem setTask_hub (s : State) (t : Nat) (x : Task) : (s.setTask t x).hub = s.hub := rfl
@[simp] theorem setTask_ring (s : State) (t : Nat) (x : Task) : (s.setTask t x).ring = s.ring := rfl
@[simp] theorem setTask_links (s : State) (t : Nat) (x : Task) : (s.setTask t x).links = s.links := rfl
@[simp] theorem setTask_fars (s : State) (t : Nat) (x : Task) : (s.setTask t x).fars = s.fars := rfl
@[simp] theorem setTask_agenda (s : State) (t : Nat) (x : Task) : (s.setTask t x).agenda = s.agenda := rfl
@[simp] theorem setTask_stage (s : State) (t : Nat) (x : Task) : (s.setTask t x).stage = s.stage := rfl
@[simp] theorem setTask_touched (s : State) (t : Nat) (x : Task) : (s.setTask t x).touched = s.touched := rfl
@[simp] theorem setTask_sel (s : State) (t : Nat) (x : Task) : (s.setTask t x).sel = s.sel := rfl
@[simp] theorem setTask_fresh (s : State) (t : Nat) (x : Task) : (s.setTask t x).fresh = s.fresh := rfl

/-! ## modTask -/

@[simp] theorem modTask_now (s : State) (t : Nat) (f : Task → Task) : (s.modTask t f).now = s.now := rfl
@[simp] theorem modTask_mem (s : State) (t : Nat) (f : Task → Task) : (s.modTask t f).mem = s.mem := rfl
@[simp] theorem modTask_marks (s : State) (t : Nat) (f : Task → Task) : (s.modTask t f).marks = s.marks := rfl
@[simp] theorem modTask_full (s : State) (t : Nat) (f : Task → Task) : (s.modTask t f).full = s.full := rfl
@[simp] theorem modTask_ecc (s : State) (t : Nat) (f : Task → Task) : (s.modTask t f).ecc = s.ecc := rfl
@[simp] theorem modTask_lineRel (s : State) (t : Nat) (f : Task → Task) : (s.modTask t f).lineRel = s.lineRel := rfl
@[simp] theorem modTask_wseq (s : State) (t : Nat) (f : Task → Task) : (s.modTask t f).wseq = s.wseq := rfl
@[simp] theorem modTask_hist (s : State) (t : Nat) (f : Task → Task) : (s.modTask t f).hist = s.hist := rfl
@[simp] theorem modTask_paeBound (s : State) (t : Nat) (f : Task → Task) : (s.modTask t f).paeBound = s.paeBound := rfl
@[simp] theorem modTask_paeLast (s : State) (t : Nat) (f : Task → Task) : (s.modTask t f).paeLast = s.paeLast := rfl
@[simp] theorem modTask_lag (s : State) (t : Nat) (f : Task → Task) : (s.modTask t f).lag = s.lag := rfl
@[simp] theorem modTask_ids (s : State) (t : Nat) (f : Task → Task) : (s.modTask t f).ids = s.ids := rfl
@[simp] theorem modTask_arrivals (s : State) (t : Nat) (f : Task → Task) : (s.modTask t f).arrivals = s.arrivals := rfl
@[simp] theorem modTask_clusters (s : State) (t : Nat) (f : Task → Task) : (s.modTask t f).clusters = s.clusters := rfl
@[simp] theorem modTask_sems (s : State) (t : Nat) (f : Task → Task) : (s.modTask t f).sems = s.sems := rfl
@[simp] theorem modTask_tasks (s : State) (t : Nat) (f : Task → Task) :
    (s.modTask t f).tasks = s.tasks.set t (f (s.task t)) := rfl
@[simp] theorem modTask_points (s : State) (t : Nat) (f : Task → Task) : (s.modTask t f).points = s.points := rfl
@[simp] theorem modTask_images (s : State) (t : Nat) (f : Task → Task) : (s.modTask t f).images = s.images := rfl
@[simp] theorem modTask_hub (s : State) (t : Nat) (f : Task → Task) : (s.modTask t f).hub = s.hub := rfl
@[simp] theorem modTask_ring (s : State) (t : Nat) (f : Task → Task) : (s.modTask t f).ring = s.ring := rfl
@[simp] theorem modTask_links (s : State) (t : Nat) (f : Task → Task) : (s.modTask t f).links = s.links := rfl
@[simp] theorem modTask_fars (s : State) (t : Nat) (f : Task → Task) : (s.modTask t f).fars = s.fars := rfl
@[simp] theorem modTask_agenda (s : State) (t : Nat) (f : Task → Task) : (s.modTask t f).agenda = s.agenda := rfl
@[simp] theorem modTask_stage (s : State) (t : Nat) (f : Task → Task) : (s.modTask t f).stage = s.stage := rfl
@[simp] theorem modTask_touched (s : State) (t : Nat) (f : Task → Task) : (s.modTask t f).touched = s.touched := rfl
@[simp] theorem modTask_sel (s : State) (t : Nat) (f : Task → Task) : (s.modTask t f).sel = s.sel := rfl
@[simp] theorem modTask_fresh (s : State) (t : Nat) (f : Task → Task) : (s.modTask t f).fresh = s.fresh := rfl

/-! ## modHub -/

@[simp] theorem modHub_now (s : State) (f : Hub → Hub) : (s.modHub f).now = s.now := rfl
@[simp] theorem modHub_mem (s : State) (f : Hub → Hub) : (s.modHub f).mem = s.mem := rfl
@[simp] theorem modHub_marks (s : State) (f : Hub → Hub) : (s.modHub f).marks = s.marks := rfl
@[simp] theorem modHub_full (s : State) (f : Hub → Hub) : (s.modHub f).full = s.full := rfl
@[simp] theorem modHub_ecc (s : State) (f : Hub → Hub) : (s.modHub f).ecc = s.ecc := rfl
@[simp] theorem modHub_lineRel (s : State) (f : Hub → Hub) : (s.modHub f).lineRel = s.lineRel := rfl
@[simp] theorem modHub_wseq (s : State) (f : Hub → Hub) : (s.modHub f).wseq = s.wseq := rfl
@[simp] theorem modHub_hist (s : State) (f : Hub → Hub) : (s.modHub f).hist = s.hist := rfl
@[simp] theorem modHub_paeBound (s : State) (f : Hub → Hub) : (s.modHub f).paeBound = s.paeBound := rfl
@[simp] theorem modHub_paeLast (s : State) (f : Hub → Hub) : (s.modHub f).paeLast = s.paeLast := rfl
@[simp] theorem modHub_lag (s : State) (f : Hub → Hub) : (s.modHub f).lag = s.lag := rfl
@[simp] theorem modHub_ids (s : State) (f : Hub → Hub) : (s.modHub f).ids = s.ids := rfl
@[simp] theorem modHub_arrivals (s : State) (f : Hub → Hub) : (s.modHub f).arrivals = s.arrivals := rfl
@[simp] theorem modHub_clusters (s : State) (f : Hub → Hub) : (s.modHub f).clusters = s.clusters := rfl
@[simp] theorem modHub_sems (s : State) (f : Hub → Hub) : (s.modHub f).sems = s.sems := rfl
@[simp] theorem modHub_tasks (s : State) (f : Hub → Hub) : (s.modHub f).tasks = s.tasks := rfl
@[simp] theorem modHub_points (s : State) (f : Hub → Hub) : (s.modHub f).points = s.points := rfl
@[simp] theorem modHub_images (s : State) (f : Hub → Hub) : (s.modHub f).images = s.images := rfl
@[simp] theorem modHub_hub (s : State) (f : Hub → Hub) :
    (s.modHub f).hub = f s.hub := rfl
@[simp] theorem modHub_ring (s : State) (f : Hub → Hub) : (s.modHub f).ring = s.ring := rfl
@[simp] theorem modHub_links (s : State) (f : Hub → Hub) : (s.modHub f).links = s.links := rfl
@[simp] theorem modHub_fars (s : State) (f : Hub → Hub) : (s.modHub f).fars = s.fars := rfl
@[simp] theorem modHub_agenda (s : State) (f : Hub → Hub) : (s.modHub f).agenda = s.agenda := rfl
@[simp] theorem modHub_stage (s : State) (f : Hub → Hub) : (s.modHub f).stage = s.stage := rfl
@[simp] theorem modHub_touched (s : State) (f : Hub → Hub) : (s.modHub f).touched = s.touched := rfl
@[simp] theorem modHub_sel (s : State) (f : Hub → Hub) : (s.modHub f).sel = s.sel := rfl
@[simp] theorem modHub_fresh (s : State) (f : Hub → Hub) : (s.modHub f).fresh = s.fresh := rfl

/-! ## modJob -/

@[simp] theorem modJob_now (s : State) (j : Nat) (f : Job → Job) : (s.modJob j f).now = s.now := rfl
@[simp] theorem modJob_mem (s : State) (j : Nat) (f : Job → Job) : (s.modJob j f).mem = s.mem := rfl
@[simp] theorem modJob_marks (s : State) (j : Nat) (f : Job → Job) : (s.modJob j f).marks = s.marks := rfl
@[simp] theorem modJob_full (s : State) (j : Nat) (f : Job → Job) : (s.modJob j f).full = s.full := rfl
@[simp] theorem modJob_ecc (s : State) (j : Nat) (f : Job → Job) : (s.modJob j f).ecc = s.ecc := rfl
@[simp] theorem modJob_lineRel (s : State) (j : Nat) (f : Job → Job) : (s.modJob j f).lineRel = s.lineRel := rfl
@[simp] theorem modJob_wseq (s : State) (j : Nat) (f : Job → Job) : (s.modJob j f).wseq = s.wseq := rfl
@[simp] theorem modJob_hist (s : State) (j : Nat) (f : Job → Job) : (s.modJob j f).hist = s.hist := rfl
@[simp] theorem modJob_paeBound (s : State) (j : Nat) (f : Job → Job) : (s.modJob j f).paeBound = s.paeBound := rfl
@[simp] theorem modJob_paeLast (s : State) (j : Nat) (f : Job → Job) : (s.modJob j f).paeLast = s.paeLast := rfl
@[simp] theorem modJob_lag (s : State) (j : Nat) (f : Job → Job) : (s.modJob j f).lag = s.lag := rfl
@[simp] theorem modJob_ids (s : State) (j : Nat) (f : Job → Job) : (s.modJob j f).ids = s.ids := rfl
@[simp] theorem modJob_arrivals (s : State) (j : Nat) (f : Job → Job) : (s.modJob j f).arrivals = s.arrivals := rfl
@[simp] theorem modJob_clusters (s : State) (j : Nat) (f : Job → Job) : (s.modJob j f).clusters = s.clusters := rfl
@[simp] theorem modJob_sems (s : State) (j : Nat) (f : Job → Job) : (s.modJob j f).sems = s.sems := rfl
@[simp] theorem modJob_tasks (s : State) (j : Nat) (f : Job → Job) : (s.modJob j f).tasks = s.tasks := rfl
@[simp] theorem modJob_points (s : State) (j : Nat) (f : Job → Job) : (s.modJob j f).points = s.points := rfl
@[simp] theorem modJob_images (s : State) (j : Nat) (f : Job → Job) : (s.modJob j f).images = s.images := rfl
@[simp] theorem modJob_ring (s : State) (j : Nat) (f : Job → Job) : (s.modJob j f).ring = s.ring := rfl
@[simp] theorem modJob_links (s : State) (j : Nat) (f : Job → Job) : (s.modJob j f).links = s.links := rfl
@[simp] theorem modJob_fars (s : State) (j : Nat) (f : Job → Job) : (s.modJob j f).fars = s.fars := rfl
@[simp] theorem modJob_agenda (s : State) (j : Nat) (f : Job → Job) : (s.modJob j f).agenda = s.agenda := rfl
@[simp] theorem modJob_stage (s : State) (j : Nat) (f : Job → Job) : (s.modJob j f).stage = s.stage := rfl
@[simp] theorem modJob_touched (s : State) (j : Nat) (f : Job → Job) : (s.modJob j f).touched = s.touched := rfl
@[simp] theorem modJob_sel (s : State) (j : Nat) (f : Job → Job) : (s.modJob j f).sel = s.sel := rfl
@[simp] theorem modJob_fresh (s : State) (j : Nat) (f : Job → Job) : (s.modJob j f).fresh = s.fresh := rfl

/-! ## modLink -/

@[simp] theorem modLink_now (s : State) (m : Nat) (f : Link → Link) : (s.modLink m f).now = s.now := rfl
@[simp] theorem modLink_mem (s : State) (m : Nat) (f : Link → Link) : (s.modLink m f).mem = s.mem := rfl
@[simp] theorem modLink_marks (s : State) (m : Nat) (f : Link → Link) : (s.modLink m f).marks = s.marks := rfl
@[simp] theorem modLink_full (s : State) (m : Nat) (f : Link → Link) : (s.modLink m f).full = s.full := rfl
@[simp] theorem modLink_ecc (s : State) (m : Nat) (f : Link → Link) : (s.modLink m f).ecc = s.ecc := rfl
@[simp] theorem modLink_lineRel (s : State) (m : Nat) (f : Link → Link) : (s.modLink m f).lineRel = s.lineRel := rfl
@[simp] theorem modLink_wseq (s : State) (m : Nat) (f : Link → Link) : (s.modLink m f).wseq = s.wseq := rfl
@[simp] theorem modLink_hist (s : State) (m : Nat) (f : Link → Link) : (s.modLink m f).hist = s.hist := rfl
@[simp] theorem modLink_paeBound (s : State) (m : Nat) (f : Link → Link) : (s.modLink m f).paeBound = s.paeBound := rfl
@[simp] theorem modLink_paeLast (s : State) (m : Nat) (f : Link → Link) : (s.modLink m f).paeLast = s.paeLast := rfl
@[simp] theorem modLink_lag (s : State) (m : Nat) (f : Link → Link) : (s.modLink m f).lag = s.lag := rfl
@[simp] theorem modLink_ids (s : State) (m : Nat) (f : Link → Link) : (s.modLink m f).ids = s.ids := rfl
@[simp] theorem modLink_arrivals (s : State) (m : Nat) (f : Link → Link) : (s.modLink m f).arrivals = s.arrivals := rfl
@[simp] theorem modLink_clusters (s : State) (m : Nat) (f : Link → Link) : (s.modLink m f).clusters = s.clusters := rfl
@[simp] theorem modLink_sems (s : State) (m : Nat) (f : Link → Link) : (s.modLink m f).sems = s.sems := rfl
@[simp] theorem modLink_tasks (s : State) (m : Nat) (f : Link → Link) : (s.modLink m f).tasks = s.tasks := rfl
@[simp] theorem modLink_points (s : State) (m : Nat) (f : Link → Link) : (s.modLink m f).points = s.points := rfl
@[simp] theorem modLink_images (s : State) (m : Nat) (f : Link → Link) : (s.modLink m f).images = s.images := rfl
@[simp] theorem modLink_hub (s : State) (m : Nat) (f : Link → Link) : (s.modLink m f).hub = s.hub := rfl
@[simp] theorem modLink_ring (s : State) (m : Nat) (f : Link → Link) : (s.modLink m f).ring = s.ring := rfl
@[simp] theorem modLink_links (s : State) (m : Nat) (f : Link → Link) :
    (s.modLink m f).links = s.links.set m (f (s.link m)) := rfl
@[simp] theorem modLink_fars (s : State) (m : Nat) (f : Link → Link) : (s.modLink m f).fars = s.fars := rfl
@[simp] theorem modLink_agenda (s : State) (m : Nat) (f : Link → Link) : (s.modLink m f).agenda = s.agenda := rfl
@[simp] theorem modLink_stage (s : State) (m : Nat) (f : Link → Link) : (s.modLink m f).stage = s.stage := rfl
@[simp] theorem modLink_touched (s : State) (m : Nat) (f : Link → Link) : (s.modLink m f).touched = s.touched := rfl
@[simp] theorem modLink_sel (s : State) (m : Nat) (f : Link → Link) : (s.modLink m f).sel = s.sel := rfl
@[simp] theorem modLink_fresh (s : State) (m : Nat) (f : Link → Link) : (s.modLink m f).fresh = s.fresh := rfl

/-! ## modFar -/

@[simp] theorem modFar_now (s : State) (k : Nat) (f : Far → Far) : (s.modFar k f).now = s.now := rfl
@[simp] theorem modFar_mem (s : State) (k : Nat) (f : Far → Far) : (s.modFar k f).mem = s.mem := rfl
@[simp] theorem modFar_marks (s : State) (k : Nat) (f : Far → Far) : (s.modFar k f).marks = s.marks := rfl
@[simp] theorem modFar_full (s : State) (k : Nat) (f : Far → Far) : (s.modFar k f).full = s.full := rfl
@[simp] theorem modFar_ecc (s : State) (k : Nat) (f : Far → Far) : (s.modFar k f).ecc = s.ecc := rfl
@[simp] theorem modFar_lineRel (s : State) (k : Nat) (f : Far → Far) : (s.modFar k f).lineRel = s.lineRel := rfl
@[simp] theorem modFar_wseq (s : State) (k : Nat) (f : Far → Far) : (s.modFar k f).wseq = s.wseq := rfl
@[simp] theorem modFar_hist (s : State) (k : Nat) (f : Far → Far) : (s.modFar k f).hist = s.hist := rfl
@[simp] theorem modFar_paeBound (s : State) (k : Nat) (f : Far → Far) : (s.modFar k f).paeBound = s.paeBound := rfl
@[simp] theorem modFar_paeLast (s : State) (k : Nat) (f : Far → Far) : (s.modFar k f).paeLast = s.paeLast := rfl
@[simp] theorem modFar_lag (s : State) (k : Nat) (f : Far → Far) : (s.modFar k f).lag = s.lag := rfl
@[simp] theorem modFar_ids (s : State) (k : Nat) (f : Far → Far) : (s.modFar k f).ids = s.ids := rfl
@[simp] theorem modFar_arrivals (s : State) (k : Nat) (f : Far → Far) : (s.modFar k f).arrivals = s.arrivals := rfl
@[simp] theorem modFar_clusters (s : State) (k : Nat) (f : Far → Far) : (s.modFar k f).clusters = s.clusters := rfl
@[simp] theorem modFar_sems (s : State) (k : Nat) (f : Far → Far) : (s.modFar k f).sems = s.sems := rfl
@[simp] theorem modFar_tasks (s : State) (k : Nat) (f : Far → Far) : (s.modFar k f).tasks = s.tasks := rfl
@[simp] theorem modFar_points (s : State) (k : Nat) (f : Far → Far) : (s.modFar k f).points = s.points := rfl
@[simp] theorem modFar_images (s : State) (k : Nat) (f : Far → Far) : (s.modFar k f).images = s.images := rfl
@[simp] theorem modFar_hub (s : State) (k : Nat) (f : Far → Far) : (s.modFar k f).hub = s.hub := rfl
@[simp] theorem modFar_ring (s : State) (k : Nat) (f : Far → Far) : (s.modFar k f).ring = s.ring := rfl
@[simp] theorem modFar_links (s : State) (k : Nat) (f : Far → Far) : (s.modFar k f).links = s.links := rfl
@[simp] theorem modFar_fars (s : State) (k : Nat) (f : Far → Far) :
    (s.modFar k f).fars = s.fars.set k (f (s.far k)) := rfl
@[simp] theorem modFar_agenda (s : State) (k : Nat) (f : Far → Far) : (s.modFar k f).agenda = s.agenda := rfl
@[simp] theorem modFar_stage (s : State) (k : Nat) (f : Far → Far) : (s.modFar k f).stage = s.stage := rfl
@[simp] theorem modFar_touched (s : State) (k : Nat) (f : Far → Far) : (s.modFar k f).touched = s.touched := rfl
@[simp] theorem modFar_sel (s : State) (k : Nat) (f : Far → Far) : (s.modFar k f).sel = s.sel := rfl
@[simp] theorem modFar_fresh (s : State) (k : Nat) (f : Far → Far) : (s.modFar k f).fresh = s.fresh := rfl

/-! ## modRing -/

@[simp] theorem modRing_now (s : State) (f : Ring → Ring) : (s.modRing f).now = s.now := rfl
@[simp] theorem modRing_mem (s : State) (f : Ring → Ring) : (s.modRing f).mem = s.mem := rfl
@[simp] theorem modRing_marks (s : State) (f : Ring → Ring) : (s.modRing f).marks = s.marks := rfl
@[simp] theorem modRing_full (s : State) (f : Ring → Ring) : (s.modRing f).full = s.full := rfl
@[simp] theorem modRing_ecc (s : State) (f : Ring → Ring) : (s.modRing f).ecc = s.ecc := rfl
@[simp] theorem modRing_lineRel (s : State) (f : Ring → Ring) : (s.modRing f).lineRel = s.lineRel := rfl
@[simp] theorem modRing_wseq (s : State) (f : Ring → Ring) : (s.modRing f).wseq = s.wseq := rfl
@[simp] theorem modRing_hist (s : State) (f : Ring → Ring) : (s.modRing f).hist = s.hist := rfl
@[simp] theorem modRing_paeBound (s : State) (f : Ring → Ring) : (s.modRing f).paeBound = s.paeBound := rfl
@[simp] theorem modRing_paeLast (s : State) (f : Ring → Ring) : (s.modRing f).paeLast = s.paeLast := rfl
@[simp] theorem modRing_lag (s : State) (f : Ring → Ring) : (s.modRing f).lag = s.lag := rfl
@[simp] theorem modRing_ids (s : State) (f : Ring → Ring) : (s.modRing f).ids = s.ids := rfl
@[simp] theorem modRing_arrivals (s : State) (f : Ring → Ring) : (s.modRing f).arrivals = s.arrivals := rfl
@[simp] theorem modRing_clusters (s : State) (f : Ring → Ring) : (s.modRing f).clusters = s.clusters := rfl
@[simp] theorem modRing_sems (s : State) (f : Ring → Ring) : (s.modRing f).sems = s.sems := rfl
@[simp] theorem modRing_tasks (s : State) (f : Ring → Ring) : (s.modRing f).tasks = s.tasks := rfl
@[simp] theorem modRing_points (s : State) (f : Ring → Ring) : (s.modRing f).points = s.points := rfl
@[simp] theorem modRing_images (s : State) (f : Ring → Ring) : (s.modRing f).images = s.images := rfl
@[simp] theorem modRing_hub (s : State) (f : Ring → Ring) : (s.modRing f).hub = s.hub := rfl
@[simp] theorem modRing_ring (s : State) (f : Ring → Ring) :
    (s.modRing f).ring = f s.ring := rfl
@[simp] theorem modRing_links (s : State) (f : Ring → Ring) : (s.modRing f).links = s.links := rfl
@[simp] theorem modRing_fars (s : State) (f : Ring → Ring) : (s.modRing f).fars = s.fars := rfl
@[simp] theorem modRing_agenda (s : State) (f : Ring → Ring) : (s.modRing f).agenda = s.agenda := rfl
@[simp] theorem modRing_stage (s : State) (f : Ring → Ring) : (s.modRing f).stage = s.stage := rfl
@[simp] theorem modRing_touched (s : State) (f : Ring → Ring) : (s.modRing f).touched = s.touched := rfl
@[simp] theorem modRing_sel (s : State) (f : Ring → Ring) : (s.modRing f).sel = s.sel := rfl
@[simp] theorem modRing_fresh (s : State) (f : Ring → Ring) : (s.modRing f).fresh = s.fresh := rfl

/-! ## store -/

@[simp] theorem store_now (s : State) (bs : List PByte) (b : Bool) (r : Option Release) (w : Option Nat) : (s.store bs b r w).now = s.now := rfl
@[simp] theorem store_mem (s : State) (bs : List PByte) (b : Bool) (r : Option Release) (w : Option Nat) :
    (s.store bs b r w).mem = bs.foldl (fun m x => Memory.write m x.addr x.val) s.mem := rfl
@[simp] theorem store_full (s : State) (bs : List PByte) (b : Bool) (r : Option Release) (w : Option Nat) : (s.store bs b r w).full = s.full := rfl
@[simp] theorem store_lineRel (s : State) (bs : List PByte) (b : Bool) (r : Option Release) (w : Option Nat) : (s.store bs b r w).lineRel = s.lineRel := rfl
@[simp] theorem store_wseq (s : State) (bs : List PByte) (b : Bool) (r : Option Release) (w : Option Nat) :
    (s.store bs b r w).wseq = s.wseq + 1 := rfl
@[simp] theorem store_paeBound (s : State) (bs : List PByte) (b : Bool) (r : Option Release) (w : Option Nat) : (s.store bs b r w).paeBound = s.paeBound := rfl
@[simp] theorem store_paeLast (s : State) (bs : List PByte) (b : Bool) (r : Option Release) (w : Option Nat) : (s.store bs b r w).paeLast = s.paeLast := rfl
@[simp] theorem store_lag (s : State) (bs : List PByte) (b : Bool) (r : Option Release) (w : Option Nat) : (s.store bs b r w).lag = s.lag := rfl
@[simp] theorem store_ids (s : State) (bs : List PByte) (b : Bool) (r : Option Release) (w : Option Nat) : (s.store bs b r w).ids = s.ids := rfl
@[simp] theorem store_arrivals (s : State) (bs : List PByte) (b : Bool) (r : Option Release) (w : Option Nat) : (s.store bs b r w).arrivals = s.arrivals := rfl
@[simp] theorem store_clusters (s : State) (bs : List PByte) (b : Bool) (r : Option Release) (w : Option Nat) : (s.store bs b r w).clusters = s.clusters := rfl
@[simp] theorem store_sems (s : State) (bs : List PByte) (b : Bool) (r : Option Release) (w : Option Nat) : (s.store bs b r w).sems = s.sems := rfl
@[simp] theorem store_tasks (s : State) (bs : List PByte) (b : Bool) (r : Option Release) (w : Option Nat) : (s.store bs b r w).tasks = s.tasks := rfl
@[simp] theorem store_points (s : State) (bs : List PByte) (b : Bool) (r : Option Release) (w : Option Nat) : (s.store bs b r w).points = s.points := rfl
@[simp] theorem store_images (s : State) (bs : List PByte) (b : Bool) (r : Option Release) (w : Option Nat) : (s.store bs b r w).images = s.images := rfl
@[simp] theorem store_hub (s : State) (bs : List PByte) (b : Bool) (r : Option Release) (w : Option Nat) : (s.store bs b r w).hub = s.hub := rfl
@[simp] theorem store_ring (s : State) (bs : List PByte) (b : Bool) (r : Option Release) (w : Option Nat) : (s.store bs b r w).ring = s.ring := rfl
@[simp] theorem store_links (s : State) (bs : List PByte) (b : Bool) (r : Option Release) (w : Option Nat) : (s.store bs b r w).links = s.links := rfl
@[simp] theorem store_fars (s : State) (bs : List PByte) (b : Bool) (r : Option Release) (w : Option Nat) : (s.store bs b r w).fars = s.fars := rfl
@[simp] theorem store_agenda (s : State) (bs : List PByte) (b : Bool) (r : Option Release) (w : Option Nat) : (s.store bs b r w).agenda = s.agenda := rfl
@[simp] theorem store_stage (s : State) (bs : List PByte) (b : Bool) (r : Option Release) (w : Option Nat) : (s.store bs b r w).stage = s.stage := rfl
@[simp] theorem store_touched (s : State) (bs : List PByte) (b : Bool) (r : Option Release) (w : Option Nat) : (s.store bs b r w).touched = s.touched := rfl
@[simp] theorem store_sel (s : State) (bs : List PByte) (b : Bool) (r : Option Release) (w : Option Nat) : (s.store bs b r w).sel = s.sel := rfl
@[simp] theorem store_fresh (s : State) (bs : List PByte) (b : Bool) (r : Option Release) (w : Option Nat) : (s.store bs b r w).fresh = s.fresh := rfl

/-! ## setLine -/

@[simp] theorem setLine_now (s : State) (a : Nat) (b : Bool) (r : Option Release) : (s.setLine a b r).now = s.now := rfl
@[simp] theorem setLine_mem (s : State) (a : Nat) (b : Bool) (r : Option Release) : (s.setLine a b r).mem = s.mem := rfl
@[simp] theorem setLine_marks (s : State) (a : Nat) (b : Bool) (r : Option Release) : (s.setLine a b r).marks = s.marks := rfl
@[simp] theorem setLine_ecc (s : State) (a : Nat) (b : Bool) (r : Option Release) : (s.setLine a b r).ecc = s.ecc := rfl
@[simp] theorem setLine_wseq (s : State) (a : Nat) (b : Bool) (r : Option Release) : (s.setLine a b r).wseq = s.wseq := rfl
@[simp] theorem setLine_hist (s : State) (a : Nat) (b : Bool) (r : Option Release) : (s.setLine a b r).hist = s.hist := rfl
@[simp] theorem setLine_paeBound (s : State) (a : Nat) (b : Bool) (r : Option Release) : (s.setLine a b r).paeBound = s.paeBound := rfl
@[simp] theorem setLine_paeLast (s : State) (a : Nat) (b : Bool) (r : Option Release) : (s.setLine a b r).paeLast = s.paeLast := rfl
@[simp] theorem setLine_lag (s : State) (a : Nat) (b : Bool) (r : Option Release) : (s.setLine a b r).lag = s.lag := rfl
@[simp] theorem setLine_ids (s : State) (a : Nat) (b : Bool) (r : Option Release) : (s.setLine a b r).ids = s.ids := rfl
@[simp] theorem setLine_arrivals (s : State) (a : Nat) (b : Bool) (r : Option Release) : (s.setLine a b r).arrivals = s.arrivals := rfl
@[simp] theorem setLine_clusters (s : State) (a : Nat) (b : Bool) (r : Option Release) : (s.setLine a b r).clusters = s.clusters := rfl
@[simp] theorem setLine_sems (s : State) (a : Nat) (b : Bool) (r : Option Release) : (s.setLine a b r).sems = s.sems := rfl
@[simp] theorem setLine_tasks (s : State) (a : Nat) (b : Bool) (r : Option Release) : (s.setLine a b r).tasks = s.tasks := rfl
@[simp] theorem setLine_points (s : State) (a : Nat) (b : Bool) (r : Option Release) : (s.setLine a b r).points = s.points := rfl
@[simp] theorem setLine_images (s : State) (a : Nat) (b : Bool) (r : Option Release) : (s.setLine a b r).images = s.images := rfl
@[simp] theorem setLine_hub (s : State) (a : Nat) (b : Bool) (r : Option Release) : (s.setLine a b r).hub = s.hub := rfl
@[simp] theorem setLine_ring (s : State) (a : Nat) (b : Bool) (r : Option Release) : (s.setLine a b r).ring = s.ring := rfl
@[simp] theorem setLine_links (s : State) (a : Nat) (b : Bool) (r : Option Release) : (s.setLine a b r).links = s.links := rfl
@[simp] theorem setLine_fars (s : State) (a : Nat) (b : Bool) (r : Option Release) : (s.setLine a b r).fars = s.fars := rfl
@[simp] theorem setLine_agenda (s : State) (a : Nat) (b : Bool) (r : Option Release) : (s.setLine a b r).agenda = s.agenda := rfl
@[simp] theorem setLine_stage (s : State) (a : Nat) (b : Bool) (r : Option Release) : (s.setLine a b r).stage = s.stage := rfl
@[simp] theorem setLine_touched (s : State) (a : Nat) (b : Bool) (r : Option Release) : (s.setLine a b r).touched = s.touched := rfl
@[simp] theorem setLine_sel (s : State) (a : Nat) (b : Bool) (r : Option Release) : (s.setLine a b r).sel = s.sel := rfl
@[simp] theorem setLine_fresh (s : State) (a : Nat) (b : Bool) (r : Option Release) : (s.setLine a b r).fresh = s.fresh := rfl

/-! ## markSector -/

@[simp] theorem markSector_now (s : State) (a : Nat) : (s.markSector a).now = s.now := rfl
@[simp] theorem markSector_mem (s : State) (a : Nat) : (s.markSector a).mem = s.mem := rfl
@[simp] theorem markSector_full (s : State) (a : Nat) : (s.markSector a).full = s.full := rfl
@[simp] theorem markSector_ecc (s : State) (a : Nat) : (s.markSector a).ecc = s.ecc := rfl
@[simp] theorem markSector_lineRel (s : State) (a : Nat) : (s.markSector a).lineRel = s.lineRel := rfl
@[simp] theorem markSector_wseq (s : State) (a : Nat) : (s.markSector a).wseq = s.wseq := rfl
@[simp] theorem markSector_hist (s : State) (a : Nat) : (s.markSector a).hist = s.hist := rfl
@[simp] theorem markSector_paeBound (s : State) (a : Nat) : (s.markSector a).paeBound = s.paeBound := rfl
@[simp] theorem markSector_paeLast (s : State) (a : Nat) : (s.markSector a).paeLast = s.paeLast := rfl
@[simp] theorem markSector_lag (s : State) (a : Nat) : (s.markSector a).lag = s.lag := rfl
@[simp] theorem markSector_ids (s : State) (a : Nat) : (s.markSector a).ids = s.ids := rfl
@[simp] theorem markSector_arrivals (s : State) (a : Nat) : (s.markSector a).arrivals = s.arrivals := rfl
@[simp] theorem markSector_clusters (s : State) (a : Nat) : (s.markSector a).clusters = s.clusters := rfl
@[simp] theorem markSector_sems (s : State) (a : Nat) : (s.markSector a).sems = s.sems := rfl
@[simp] theorem markSector_tasks (s : State) (a : Nat) : (s.markSector a).tasks = s.tasks := rfl
@[simp] theorem markSector_points (s : State) (a : Nat) : (s.markSector a).points = s.points := rfl
@[simp] theorem markSector_images (s : State) (a : Nat) : (s.markSector a).images = s.images := rfl
@[simp] theorem markSector_hub (s : State) (a : Nat) : (s.markSector a).hub = s.hub := rfl
@[simp] theorem markSector_ring (s : State) (a : Nat) : (s.markSector a).ring = s.ring := rfl
@[simp] theorem markSector_links (s : State) (a : Nat) : (s.markSector a).links = s.links := rfl
@[simp] theorem markSector_fars (s : State) (a : Nat) : (s.markSector a).fars = s.fars := rfl
@[simp] theorem markSector_agenda (s : State) (a : Nat) : (s.markSector a).agenda = s.agenda := rfl
@[simp] theorem markSector_stage (s : State) (a : Nat) : (s.markSector a).stage = s.stage := rfl
@[simp] theorem markSector_touched (s : State) (a : Nat) : (s.markSector a).touched = s.touched := rfl
@[simp] theorem markSector_sel (s : State) (a : Nat) : (s.markSector a).sel = s.sel := rfl
@[simp] theorem markSector_fresh (s : State) (a : Nat) : (s.markSector a).fresh = s.fresh := rfl

/-! ## modTaskOf -/

@[simp] theorem modTaskOf_now (s : State) (c : Nat) (g : Task → Task) : (s.modTaskOf c g).now = s.now := by
  unfold State.modTaskOf; split <;> rfl
@[simp] theorem modTaskOf_mem (s : State) (c : Nat) (g : Task → Task) : (s.modTaskOf c g).mem = s.mem := by
  unfold State.modTaskOf; split <;> rfl
@[simp] theorem modTaskOf_marks (s : State) (c : Nat) (g : Task → Task) : (s.modTaskOf c g).marks = s.marks := by
  unfold State.modTaskOf; split <;> rfl
@[simp] theorem modTaskOf_full (s : State) (c : Nat) (g : Task → Task) : (s.modTaskOf c g).full = s.full := by
  unfold State.modTaskOf; split <;> rfl
@[simp] theorem modTaskOf_ecc (s : State) (c : Nat) (g : Task → Task) : (s.modTaskOf c g).ecc = s.ecc := by
  unfold State.modTaskOf; split <;> rfl
@[simp] theorem modTaskOf_lineRel (s : State) (c : Nat) (g : Task → Task) : (s.modTaskOf c g).lineRel = s.lineRel := by
  unfold State.modTaskOf; split <;> rfl
@[simp] theorem modTaskOf_wseq (s : State) (c : Nat) (g : Task → Task) : (s.modTaskOf c g).wseq = s.wseq := by
  unfold State.modTaskOf; split <;> rfl
@[simp] theorem modTaskOf_hist (s : State) (c : Nat) (g : Task → Task) : (s.modTaskOf c g).hist = s.hist := by
  unfold State.modTaskOf; split <;> rfl
@[simp] theorem modTaskOf_paeBound (s : State) (c : Nat) (g : Task → Task) : (s.modTaskOf c g).paeBound = s.paeBound := by
  unfold State.modTaskOf; split <;> rfl
@[simp] theorem modTaskOf_paeLast (s : State) (c : Nat) (g : Task → Task) : (s.modTaskOf c g).paeLast = s.paeLast := by
  unfold State.modTaskOf; split <;> rfl
@[simp] theorem modTaskOf_lag (s : State) (c : Nat) (g : Task → Task) : (s.modTaskOf c g).lag = s.lag := by
  unfold State.modTaskOf; split <;> rfl
@[simp] theorem modTaskOf_ids (s : State) (c : Nat) (g : Task → Task) : (s.modTaskOf c g).ids = s.ids := by
  unfold State.modTaskOf; split <;> rfl
@[simp] theorem modTaskOf_arrivals (s : State) (c : Nat) (g : Task → Task) : (s.modTaskOf c g).arrivals = s.arrivals := by
  unfold State.modTaskOf; split <;> rfl
@[simp] theorem modTaskOf_clusters (s : State) (c : Nat) (g : Task → Task) : (s.modTaskOf c g).clusters = s.clusters := by
  unfold State.modTaskOf; split <;> rfl
@[simp] theorem modTaskOf_sems (s : State) (c : Nat) (g : Task → Task) : (s.modTaskOf c g).sems = s.sems := by
  unfold State.modTaskOf; split <;> rfl
@[simp] theorem modTaskOf_points (s : State) (c : Nat) (g : Task → Task) : (s.modTaskOf c g).points = s.points := by
  unfold State.modTaskOf; split <;> rfl
@[simp] theorem modTaskOf_images (s : State) (c : Nat) (g : Task → Task) : (s.modTaskOf c g).images = s.images := by
  unfold State.modTaskOf; split <;> rfl
@[simp] theorem modTaskOf_hub (s : State) (c : Nat) (g : Task → Task) : (s.modTaskOf c g).hub = s.hub := by
  unfold State.modTaskOf; split <;> rfl
@[simp] theorem modTaskOf_ring (s : State) (c : Nat) (g : Task → Task) : (s.modTaskOf c g).ring = s.ring := by
  unfold State.modTaskOf; split <;> rfl
@[simp] theorem modTaskOf_links (s : State) (c : Nat) (g : Task → Task) : (s.modTaskOf c g).links = s.links := by
  unfold State.modTaskOf; split <;> rfl
@[simp] theorem modTaskOf_fars (s : State) (c : Nat) (g : Task → Task) : (s.modTaskOf c g).fars = s.fars := by
  unfold State.modTaskOf; split <;> rfl
@[simp] theorem modTaskOf_agenda (s : State) (c : Nat) (g : Task → Task) : (s.modTaskOf c g).agenda = s.agenda := by
  unfold State.modTaskOf; split <;> rfl
@[simp] theorem modTaskOf_stage (s : State) (c : Nat) (g : Task → Task) : (s.modTaskOf c g).stage = s.stage := by
  unfold State.modTaskOf; split <;> rfl
@[simp] theorem modTaskOf_touched (s : State) (c : Nat) (g : Task → Task) : (s.modTaskOf c g).touched = s.touched := by
  unfold State.modTaskOf; split <;> rfl
@[simp] theorem modTaskOf_sel (s : State) (c : Nat) (g : Task → Task) : (s.modTaskOf c g).sel = s.sel := by
  unfold State.modTaskOf; split <;> rfl
@[simp] theorem modTaskOf_fresh (s : State) (c : Nat) (g : Task → Task) : (s.modTaskOf c g).fresh = s.fresh := by
  unfold State.modTaskOf; split <;> rfl

/-! ## touch and findErrors -/

@[simp] theorem touch_now (s : State) (n i k : Nat) : (s.touch n i k).now = s.now := by
  unfold State.touch; split <;> rfl
@[simp] theorem touch_mem (s : State) (n i k : Nat) : (s.touch n i k).mem = s.mem := by
  unfold State.touch; split <;> rfl
@[simp] theorem touch_marks (s : State) (n i k : Nat) : (s.touch n i k).marks = s.marks := by
  unfold State.touch; split <;> rfl
@[simp] theorem touch_full (s : State) (n i k : Nat) : (s.touch n i k).full = s.full := by
  unfold State.touch; split <;> rfl
@[simp] theorem touch_ecc (s : State) (n i k : Nat) : (s.touch n i k).ecc = s.ecc := by
  unfold State.touch; split <;> rfl
@[simp] theorem touch_lineRel (s : State) (n i k : Nat) : (s.touch n i k).lineRel = s.lineRel := by
  unfold State.touch; split <;> rfl
@[simp] theorem touch_wseq (s : State) (n i k : Nat) : (s.touch n i k).wseq = s.wseq := by
  unfold State.touch; split <;> rfl
@[simp] theorem touch_hist (s : State) (n i k : Nat) : (s.touch n i k).hist = s.hist := by
  unfold State.touch; split <;> rfl
@[simp] theorem touch_paeBound (s : State) (n i k : Nat) : (s.touch n i k).paeBound = s.paeBound := by
  unfold State.touch; split <;> rfl
@[simp] theorem touch_paeLast (s : State) (n i k : Nat) : (s.touch n i k).paeLast = s.paeLast := by
  unfold State.touch; split <;> rfl
@[simp] theorem touch_lag (s : State) (n i k : Nat) : (s.touch n i k).lag = s.lag := by
  unfold State.touch; split <;> rfl
@[simp] theorem touch_ids (s : State) (n i k : Nat) : (s.touch n i k).ids = s.ids := by
  unfold State.touch; split <;> rfl
@[simp] theorem touch_arrivals (s : State) (n i k : Nat) : (s.touch n i k).arrivals = s.arrivals := by
  unfold State.touch; split <;> rfl
@[simp] theorem touch_clusters (s : State) (n i k : Nat) : (s.touch n i k).clusters = s.clusters := by
  unfold State.touch; split <;> rfl
@[simp] theorem touch_sems (s : State) (n i k : Nat) : (s.touch n i k).sems = s.sems := by
  unfold State.touch; split <;> rfl
@[simp] theorem touch_tasks (s : State) (n i k : Nat) : (s.touch n i k).tasks = s.tasks := by
  unfold State.touch; split <;> rfl
@[simp] theorem touch_points (s : State) (n i k : Nat) : (s.touch n i k).points = s.points := by
  unfold State.touch; split <;> rfl
@[simp] theorem touch_images (s : State) (n i k : Nat) : (s.touch n i k).images = s.images := by
  unfold State.touch; split <;> rfl
@[simp] theorem touch_hub (s : State) (n i k : Nat) : (s.touch n i k).hub = s.hub := by
  unfold State.touch; split <;> rfl
@[simp] theorem touch_ring (s : State) (n i k : Nat) : (s.touch n i k).ring = s.ring := by
  unfold State.touch; split <;> rfl
@[simp] theorem touch_links (s : State) (n i k : Nat) : (s.touch n i k).links = s.links := by
  unfold State.touch; split <;> rfl
@[simp] theorem touch_fars (s : State) (n i k : Nat) : (s.touch n i k).fars = s.fars := by
  unfold State.touch; split <;> rfl
@[simp] theorem touch_agenda (s : State) (n i k : Nat) : (s.touch n i k).agenda = s.agenda := by
  unfold State.touch; split <;> rfl
@[simp] theorem touch_stage (s : State) (n i k : Nat) : (s.touch n i k).stage = s.stage := by
  unfold State.touch; split <;> rfl
@[simp] theorem touch_sel (s : State) (n i k : Nat) : (s.touch n i k).sel = s.sel := by
  unfold State.touch; split <;> rfl
@[simp] theorem touch_fresh (s : State) (n i k : Nat) : (s.touch n i k).fresh = s.fresh := by
  unfold State.touch; split <;> rfl
@[simp] theorem findErrors_now (s : State) (l : List Nat) : (s.findErrors l).now = s.now := by
  unfold State.findErrors; dsimp only; split <;> rfl
@[simp] theorem findErrors_mem (s : State) (l : List Nat) : (s.findErrors l).mem = s.mem := by
  unfold State.findErrors; dsimp only; split <;> rfl
@[simp] theorem findErrors_full (s : State) (l : List Nat) : (s.findErrors l).full = s.full := by
  unfold State.findErrors; dsimp only; split <;> rfl
@[simp] theorem findErrors_lineRel (s : State) (l : List Nat) : (s.findErrors l).lineRel = s.lineRel := by
  unfold State.findErrors; dsimp only; split <;> rfl
@[simp] theorem findErrors_wseq (s : State) (l : List Nat) : (s.findErrors l).wseq = s.wseq := by
  unfold State.findErrors; dsimp only; split <;> rfl
@[simp] theorem findErrors_hist (s : State) (l : List Nat) : (s.findErrors l).hist = s.hist := by
  unfold State.findErrors; dsimp only; split <;> rfl
@[simp] theorem findErrors_paeBound (s : State) (l : List Nat) : (s.findErrors l).paeBound = s.paeBound := by
  unfold State.findErrors; dsimp only; split <;> rfl
@[simp] theorem findErrors_paeLast (s : State) (l : List Nat) : (s.findErrors l).paeLast = s.paeLast := by
  unfold State.findErrors; dsimp only; split <;> rfl
@[simp] theorem findErrors_lag (s : State) (l : List Nat) : (s.findErrors l).lag = s.lag := by
  unfold State.findErrors; dsimp only; split <;> rfl
@[simp] theorem findErrors_ids (s : State) (l : List Nat) : (s.findErrors l).ids = s.ids := by
  unfold State.findErrors; dsimp only; split <;> rfl
@[simp] theorem findErrors_arrivals (s : State) (l : List Nat) : (s.findErrors l).arrivals = s.arrivals := by
  unfold State.findErrors; dsimp only; split <;> rfl
@[simp] theorem findErrors_clusters (s : State) (l : List Nat) : (s.findErrors l).clusters = s.clusters := by
  unfold State.findErrors; dsimp only; split <;> rfl
@[simp] theorem findErrors_sems (s : State) (l : List Nat) : (s.findErrors l).sems = s.sems := by
  unfold State.findErrors; dsimp only; split <;> rfl
@[simp] theorem findErrors_tasks (s : State) (l : List Nat) : (s.findErrors l).tasks = s.tasks := by
  unfold State.findErrors; dsimp only; split <;> rfl
@[simp] theorem findErrors_points (s : State) (l : List Nat) : (s.findErrors l).points = s.points := by
  unfold State.findErrors; dsimp only; split <;> rfl
@[simp] theorem findErrors_images (s : State) (l : List Nat) : (s.findErrors l).images = s.images := by
  unfold State.findErrors; dsimp only; split <;> rfl
@[simp] theorem findErrors_hub (s : State) (l : List Nat) : (s.findErrors l).hub = s.hub := by
  unfold State.findErrors; dsimp only; split <;> rfl
@[simp] theorem findErrors_ring (s : State) (l : List Nat) : (s.findErrors l).ring = s.ring := by
  unfold State.findErrors; dsimp only; split <;> rfl
@[simp] theorem findErrors_links (s : State) (l : List Nat) : (s.findErrors l).links = s.links := by
  unfold State.findErrors; dsimp only; split <;> rfl
@[simp] theorem findErrors_fars (s : State) (l : List Nat) : (s.findErrors l).fars = s.fars := by
  unfold State.findErrors; dsimp only; split <;> rfl
@[simp] theorem findErrors_agenda (s : State) (l : List Nat) : (s.findErrors l).agenda = s.agenda := by
  unfold State.findErrors; dsimp only; split <;> rfl
@[simp] theorem findErrors_stage (s : State) (l : List Nat) : (s.findErrors l).stage = s.stage := by
  unfold State.findErrors; dsimp only; split <;> rfl
@[simp] theorem findErrors_touched (s : State) (l : List Nat) : (s.findErrors l).touched = s.touched := by
  unfold State.findErrors; dsimp only; split <;> rfl
@[simp] theorem findErrors_sel (s : State) (l : List Nat) : (s.findErrors l).sel = s.sel := by
  unfold State.findErrors; dsimp only; split <;> rfl
@[simp] theorem findErrors_fresh (s : State) (l : List Nat) : (s.findErrors l).fresh = s.fresh := by
  unfold State.findErrors; dsimp only; split <;> rfl

/-! ## Reading back -/

@[simp] theorem cluster_setCluster (s : State) (c : Nat) (x : Cluster) : (s.setCluster c x).cluster c = x := Tbl.get_set ..
theorem cluster_setCluster_ne (s : State) (c d : Nat) (x : Cluster) (h : c ≠ d) : (s.setCluster c x).cluster d = s.cluster d :=
  Tbl.get_set_ne _ _ _ h
@[simp] theorem cluster_modCluster (s : State) (c : Nat) (f : Cluster → Cluster) : (s.modCluster c f).cluster c = f (s.cluster c) := Tbl.get_set ..
theorem cluster_modCluster_ne (s : State) (c d : Nat) (f : Cluster → Cluster) (h : c ≠ d) : (s.modCluster c f).cluster d = s.cluster d :=
  Tbl.get_set_ne _ _ _ h
@[simp] theorem region_setRegion (s : State) (c : Nat) (r : Region) : (s.setRegion c r).region c = r := by
  simp [State.region, State.setRegion]
theorem region_setRegion_ne (s : State) (c d : Nat) (r : Region) (h : c ≠ d) : (s.setRegion c r).region d = s.region d := by
  simp [State.region, State.setRegion, cluster_modCluster_ne, h]
@[simp] theorem region_modRegion (s : State) (c : Nat) (f : Region → Region) : (s.modRegion c f).region c = f (s.region c) := by
  simp [State.modRegion]
theorem region_modRegion_ne (s : State) (c d : Nat) (f : Region → Region) (h : c ≠ d) : (s.modRegion c f).region d = s.region d := by
  simp [State.modRegion, region_setRegion_ne, h]
@[simp] theorem task_setTask (s : State) (t : Nat) (x : Task) : (s.setTask t x).task t = x := Tbl.get_set ..
theorem task_setTask_ne (s : State) (t u : Nat) (x : Task) (h : t ≠ u) : (s.setTask t x).task u = s.task u :=
  Tbl.get_set_ne _ _ _ h
@[simp] theorem task_modTask (s : State) (t : Nat) (f : Task → Task) : (s.modTask t f).task t = f (s.task t) := Tbl.get_set ..
@[simp] theorem node_setNode (r : Region) (i : Nat) (n : Node) : (r.setNode i n).node i = n := Tbl.get_set ..
theorem node_setNode_ne (r : Region) (i j : Nat) (n : Node) (h : i ≠ j) : (r.setNode i n).node j = r.node j :=
  Tbl.get_set_ne _ _ _ h
theorem queue_setQueue_ne (n : Node) (k j : Nat) (q : Queue) (hk : k < 3) (hj : j < 3) (h : k ≠ j) :
    (n.setQueue k q).queue j = n.queue j := by
  match k, j, hk, hj with
  | 0, 0, _, _ | 1, 1, _, _ | 2, 2, _, _ => exact absurd rfl h
  | 0, 1, _, _ | 0, 2, _, _ | 1, 0, _, _ | 1, 2, _, _ | 2, 0, _, _ | 2, 1, _, _ => rfl
@[simp] theorem queue_setQueue (n : Node) (k : Nat) (q : Queue) : (n.setQueue k q).queue k = q := by
  match k with
  | 0 | 1 => rfl
  | _ + 2 => rfl
@[simp] theorem link_modLink (s : State) (m : Nat) (f : Link → Link) : (s.modLink m f).link m = f (s.link m) := Tbl.get_set ..
@[simp] theorem far_modFar (s : State) (k : Nat) (f : Far → Far) : (s.modFar k f).far k = f (s.far k) := Tbl.get_set ..
theorem link_modLink_ne (s : State) (m k : Nat) (f : Link → Link) (h : m ≠ k) : (s.modLink m f).link k = s.link k :=
  Tbl.get_set_ne _ _ _ h
theorem far_modFar_ne (s : State) (k j : Nat) (f : Far → Far) (h : k ≠ j) : (s.modFar k f).far j = s.far j :=
  Tbl.get_set_ne _ _ _ h
@[simp] theorem reg_setReg (t : Task) (n : Nat) (v : Word) (h : n ≠ 0) : (t.setReg n v).reg n = v := by
  simp [Task.setReg, Task.reg, h]
@[simp] theorem reg_zero (t : Task) : t.reg 0 = 0 := rfl
@[simp] theorem setReg_zero (t : Task) (v : Word) : t.setReg 0 v = t := rfl

end Sys2Proof.Machine
end

