-- ==== Sys2Proof/Laws/Memory.lean ====
section
/-!
SUPPORT. Memory: a write reads back, leaves every other address alone, and keeps the canonical form.
-/

namespace Sys2Proof.Machine

open Sys2Proof

theorem Memory.wfFrom_mono {lo lo' : Nat} {m : List Host.Cell} (h : Memory.wfFrom lo m = true) (hl : lo' ≤ lo) :
    Memory.wfFrom lo' m = true := by
  cases m with
  | nil => rfl
  | cons x t =>
    obtain ⟨b, w⟩ := x
    simp only [Memory.wfFrom, Bool.and_eq_true, decide_eq_true_eq] at h ⊢
    exact ⟨⟨by omega, h.1.2⟩, h.2⟩

theorem Memory.wfFrom_write {lo : Nat} (m : List Host.Cell) (a : Nat) (v : Byte) (h : Memory.wfFrom lo m = true) (ha : lo ≤ a) :
    Memory.wfFrom lo (Memory.write m a v) = true := by
  induction m generalizing lo with
  | nil =>
    by_cases hv : v = 0#8 <;> simp [Memory.write, Memory.wfFrom, hv, ha]
  | cons x t ih =>
    obtain ⟨b, w⟩ := x
    have hc := h
    simp only [Memory.wfFrom, Bool.and_eq_true, decide_eq_true_eq] at h
    obtain ⟨⟨h1, h2⟩, h3⟩ := h
    unfold Memory.write
    split
    · split
      · exact hc
      · rename_i hab hv
        have hb : a + 1 ≤ b := by omega
        simp only [Memory.wfFrom, Bool.and_eq_true, decide_eq_true_eq, bne_iff_ne]
        exact ⟨⟨ha, hv⟩, ⟨hb, by simpa using h2⟩, h3⟩
    · split
      · subst a
        split
        · exact Memory.wfFrom_mono h3 (by omega)
        · rename_i hv
          simp only [Memory.wfFrom, Bool.and_eq_true, decide_eq_true_eq, bne_iff_ne]
          exact ⟨⟨h1, hv⟩, h3⟩
      · have : b + 1 ≤ a := by omega
        simp only [Memory.wfFrom, Bool.and_eq_true, decide_eq_true_eq]
        exact ⟨⟨h1, h2⟩, ih h3 this⟩

/-- A write keeps the canonical form. -/
theorem Memory.wf_write (m : List Host.Cell) (a : Nat) (v : Byte) (h : Memory.wf m = true) :
    Memory.wf (Memory.write m a v) = true := Memory.wfFrom_write m a v h (Nat.zero_le a)

theorem Memory.wf_foldl_write (bs : List PByte) (m : List Host.Cell) (h : Memory.wf m = true) :
    Memory.wf (bs.foldl (fun m b => Memory.write m b.addr b.val) m) = true := by
  induction bs generalizing m with
  | nil => exact h
  | cons b t ih => exact ih _ (Memory.wf_write m b.addr b.val h)

theorem Memory.wfFrom_filter {lo : Nat} (m : List Host.Cell) (p : Host.Cell → Bool) (h : Memory.wfFrom lo m = true) :
    Memory.wfFrom lo (m.filter p) = true := by
  induction m generalizing lo with
  | nil => rfl
  | cons x t ih =>
    obtain ⟨b, w⟩ := x
    simp only [Memory.wfFrom, Bool.and_eq_true, decide_eq_true_eq] at h
    obtain ⟨⟨h1, h2⟩, h3⟩ := h
    by_cases hp : p (b, w)
    · simp only [List.filter_cons_of_pos hp, Memory.wfFrom, Bool.and_eq_true, decide_eq_true_eq]
      exact ⟨⟨h1, h2⟩, ih h3⟩
    · simp only [List.filter_cons_of_neg hp]
      exact Memory.wfFrom_mono (ih h3) (by omega)

/-- Taking cells out keeps the canonical form. -/
theorem Memory.wf_filter (m : List Host.Cell) (p : Host.Cell → Bool) (h : Memory.wf m = true) : Memory.wf (m.filter p) = true :=
  Memory.wfFrom_filter m p h

theorem Memory.read_below {lo : Nat} (m : List Host.Cell) (a : Nat) (h : Memory.wfFrom lo m = true) (ha : a < lo) :
    Memory.read m a = 0 := by
  induction m generalizing lo with
  | nil => rfl
  | cons x t ih =>
    obtain ⟨b, w⟩ := x
    simp only [Memory.wfFrom, Bool.and_eq_true, decide_eq_true_eq] at h
    have hb : b ≠ a := by omega
    simp only [Memory.read, hb, if_false]
    exact ih h.2 (by omega)

/-- A written byte reads back. -/
theorem Memory.read_write {m : List Host.Cell} (a : Nat) (v : Byte) (h : Memory.wf m = true) :
    Memory.read (Memory.write m a v) a = v := by
  have key : ∀ lo, Memory.wfFrom lo m = true → Memory.read (Memory.write m a v) a = v := by
    clear h
    induction m with
    | nil => intro _ _; by_cases hv : v = 0#8 <;> simp [Memory.write, Memory.read, hv]
    | cons x t ih =>
      obtain ⟨b, w⟩ := x
      intro lo h
      have h0 := h
      simp only [Memory.wfFrom, Bool.and_eq_true, decide_eq_true_eq] at h
      unfold Memory.write
      split
      · rename_i hab
        split
        · rename_i hv
          subst hv
          have hb : b ≠ a := by omega
          simp only [Memory.read, hb, if_false]
          exact Memory.read_below t a h.2 (by omega)
        · simp [Memory.read]
      · split
        · subst a
          split
          · rename_i hv
            subst hv
            exact Memory.read_below t b h.2 (by omega)
          · simp [Memory.read]
        · rename_i h1 h2
          have hb : b ≠ a := fun e => h2 e.symm
          simp only [Memory.read, hb, if_false]
          exact ih _ h.2
  exact key 0 h

/-- A write leaves every other address alone. -/
theorem Memory.read_write_ne (m : List Host.Cell) {a b : Nat} (v : Byte) (h : a ≠ b) :
    Memory.read (Memory.write m a v) b = Memory.read m b := by
  induction m with
  | nil => by_cases hv : v = 0#8 <;> simp [Memory.write, Memory.read, hv, h]
  | cons x t ih =>
    obtain ⟨c, w⟩ := x
    unfold Memory.write
    split
    · split
      · rfl
      · simp [Memory.read, h]
    · split
      · rename_i h1
        subst a
        split <;> simp [Memory.read, h]
      · by_cases hc : c = b
        · simp [Memory.read, hc]
        · simp only [Memory.read, hc, if_false]
          exact ih

/-- A store leaves every address alone that it does not name. -/
theorem read_store_ne (s : State) (bs : List PByte) (at_ : Bool) (r : Option Release) (w : Option Nat) (a : Nat)
    (h : ∀ b ∈ bs, b.addr ≠ a) : Memory.read (s.store bs at_ r w).mem a = Memory.read s.mem a := by
  rw [store_mem]
  generalize s.mem = m
  induction bs generalizing m with
  | nil => rfl
  | cons b t ih =>
    rw [List.foldl_cons, ih (fun x hx => h x (List.mem_cons_of_mem _ hx))]
    exact Memory.read_write_ne m _ (h b List.mem_cons_self)

/-- A store keeps the canonical form. -/
theorem wf_store (s : State) (bs : List PByte) (at_ : Bool) (r : Option Release) (w : Option Nat) (h : Memory.wf s.mem = true) :
    Memory.wf (s.store bs at_ r w).mem = true := Memory.wf_foldl_write bs s.mem h

end Sys2Proof.Machine
end

