-- ==== Sys2Proof/Laws/Commit.lean ====
section
/-!
SUPPORT. What the shared operations can do: pop, deliver and fill in a region; commit, discard, traps and kills in the state;
what they leave of memory and of the home order.
-/

namespace Sys2Proof.Machine

open Sys2Proof

/-! ## Regions -/

/-- Two regions differ in nodes, entries, pool entries and units at most. -/
def Region.sameBut (r r' : Region) : Prop :=
  r' = { r with nodes := r'.nodes, returning := r'.returning, writes := r'.writes, reads := r'.reads, busy := r'.busy }

theorem Region.sameBut.refl (r : Region) : r.sameBut r := rfl

theorem Region.sameBut.trans {r r' r'' : Region} (h : r.sameBut r') (k : r'.sameBut r'') : r.sameBut r'' := by
  unfold Region.sameBut at *
  rw [k, h]

theorem sameBut_foldl {α : Type} (g : Region → α → Region) (hg : ∀ (r : Region) (x : α), r.sameBut (g r x)) (l : List α) (r : Region) : r.sameBut (l.foldl g r) := by
  induction l generalizing r with
  | nil => exact .refl r
  | cons x l ih => exact (hg r x).trans (ih (g r x))

theorem sameBut_setNode (r : Region) (i : Nat) (n : Node) : r.sameBut (r.setNode i n) := rfl

/-- Removing a head. -/
theorem sameBut_pop (r : Region) (now i k : Nat) : r.sameBut (r.pop now i k) := by
  unfold Region.pop
  dsimp only
  split <;> split <;> rfl

/-- Putting a token into a target. -/
theorem sameBut_put (r : Region) (now : Nat) (tg : Target) (t : QTok) : r.sameBut (r.put now tg t) := by
  cases tg <;> rfl

theorem sameBut_deliver (r : Region) (now cell lat : Nat) (tg : Target) (tok : Token) (b : List Nat) (p : Option Nat) :
    r.sameBut (r.deliver now cell lat tg tok b p) := sameBut_put ..

/-- Filling the place of a result. -/
theorem sameBut_fill (r : Region) (now cell lat : Nat) (tg : Target) (id : Nat) (tok : Token) (b : List Nat) :
    r.sameBut (r.fill now cell lat tg id tok b) := by
  cases tg <;> rfl

/-! ## A firing -/

/-- What a firing does beyond its cell comes after the rest, and is all that its `post` does. -/
theorem commit_post (s : State) (f : Fire) :
    ∃ b, s.commit f = f.post (s.commit { f with post := fun u _ _ => u }) (s.ids + 1) b := ⟨_, rfl⟩

/-- A firing without an effect beyond its cell changes the region of its slot, in nodes, entries, pool entries and units at most,
the task's generators where it draws, and the count of operations. -/
theorem commit_cases (s : State) (f : Fire) (hp : f.post = fun u _ _ => u) : ∃ r : Region, (s.region s.sel.1).sameBut r ∧
    s.commit f = match f.gen with
      | some g => ({ s with ids := s.ids + 1 }.setRegion s.sel.1 r).modTaskOf s.sel.1 (fun t => { t with gens := t.gens.set s.sel.2 g })
      | none => { s with ids := s.ids + 1 }.setRegion s.sel.1 r := by
  unfold State.commit
  rw [hp]
  refine ⟨_, ?_, rfl⟩
  split
  · exact (((sameBut_foldl _ (fun r k => sameBut_pop ..) ..).trans (sameBut_setNode ..)).trans (sameBut_foldl _ (fun r o => sameBut_deliver ..) ..)).trans
      ((sameBut_foldl _ (fun r o => sameBut_deliver ..) ..).trans rfl)
  · exact (((sameBut_foldl _ (fun r k => sameBut_pop ..) ..).trans (sameBut_setNode ..)).trans (sameBut_foldl _ (fun r o => sameBut_deliver ..) ..)).trans
      (sameBut_foldl _ (fun r o => sameBut_deliver ..) ..)

/-- A node does nothing, removes its operand set, fires, or traps. -/
theorem fireNode_cases (plan : State → Plan) (s : State) : ∃ t, fireNode plan s = .next t ∧
    (t = s ∨ (∃ l, t = s.discard l) ∨ (∃ f, plan s = .fire f ∧ t = s.commit f) ∨ ∃ x, t = s.raise s.sel.1 x) := by
  refine ⟨_, rfl, ?_⟩
  split
  · unfold State.carryOut
    split
    · exact .inl rfl
    · exact .inl rfl
    · exact .inr (.inl ⟨_, rfl⟩)
    · rename_i f e
      split
      · exact .inr (.inr (.inl ⟨f, e, rfl⟩))
      · exact .inl rfl
    · split
      · exact .inr (.inr (.inr ⟨_, rfl⟩))
      · exact .inl rfl
  · exact .inl rfl

/-! ## Memory and the home order -/

/-- Two states have the same memory, poison marks and home order. -/
def State.sameMem (s t : State) : Prop :=
  t.mem = s.mem ∧ t.marks = s.marks ∧ t.ecc = s.ecc ∧ t.full = s.full ∧ t.wseq = s.wseq ∧ t.hist = s.hist

theorem State.sameMem.refl (s : State) : s.sameMem s := ⟨rfl, rfl, rfl, rfl, rfl, rfl⟩

theorem State.sameMem.trans {s t u : State} (h : s.sameMem t) (k : t.sameMem u) : s.sameMem u := by
  obtain ⟨a, b, c, d, e, f⟩ := h
  obtain ⟨a', b', c', d', e', f'⟩ := k
  exact ⟨a'.trans a, b'.trans b, c'.trans c, d'.trans d, e'.trans e, f'.trans f⟩

/-- What has the same memory keeps both invariants of memory. -/
theorem State.sameMem.keeps {s t : State} (h : s.sameMem t) (hm : s.memOk) (hh : s.histOk) : t.memOk ∧ t.histOk := by
  obtain ⟨a, -, -, -, e, f⟩ := h
  simp only [State.memOk, State.histOk, a, e, f]
  exact ⟨hm, hh⟩

theorem sameMem_modCluster (s : State) (c : Nat) (f : Cluster → Cluster) : s.sameMem (s.modCluster c f) := ⟨rfl, rfl, rfl, rfl, rfl, rfl⟩
theorem sameMem_modRegion (s : State) (c : Nat) (f : Region → Region) : s.sameMem (s.modRegion c f) := ⟨rfl, rfl, rfl, rfl, rfl, rfl⟩
theorem sameMem_modTask (s : State) (t : Nat) (f : Task → Task) : s.sameMem (s.modTask t f) := ⟨rfl, rfl, rfl, rfl, rfl, rfl⟩
theorem sameMem_modHub (s : State) (f : Hub → Hub) : s.sameMem (s.modHub f) := ⟨rfl, rfl, rfl, rfl, rfl, rfl⟩
theorem sameMem_modJob (s : State) (j : Nat) (f : Job → Job) : s.sameMem (s.modJob j f) := ⟨rfl, rfl, rfl, rfl, rfl, rfl⟩
theorem sameMem_modLink (s : State) (m : Nat) (f : Link → Link) : s.sameMem (s.modLink m f) := ⟨rfl, rfl, rfl, rfl, rfl, rfl⟩
theorem sameMem_modFar (s : State) (k : Nat) (f : Far → Far) : s.sameMem (s.modFar k f) := ⟨rfl, rfl, rfl, rfl, rfl, rfl⟩
theorem sameMem_modRing (s : State) (f : Ring → Ring) : s.sameMem (s.modRing f) := ⟨rfl, rfl, rfl, rfl, rfl, rfl⟩

theorem sameMem_modTaskOf (s : State) (c : Nat) (f : Task → Task) : s.sameMem (s.modTaskOf c f) := by
  unfold State.modTaskOf
  split
  · exact sameMem_modTask ..
  · exact .refl s

/-- A fold of steps that keep memory keeps memory. -/
theorem sameMem_foldl {α : Type} (g : State → α → State) (hg : ∀ (s : State) (x : α), s.sameMem (g s x)) (l : List α) (s : State) : s.sameMem (l.foldl g s) := by
  induction l generalizing s with
  | nil => exact .refl s
  | cons x l ih => exact (hg s x).trans (ih (g s x))

/-- Finding errors changes only the marks and the errors still to be found. -/
theorem findErrors_cases (s : State) (pas : List Nat) : s.findErrors pas = s ∨
    ∃ m e, s.findErrors pas = { s with marks := m, ecc := e } := by
  unfold State.findErrors
  dsimp only
  split
  · exact .inl rfl
  · exact .inr ⟨_, _, rfl⟩

theorem sameMem_discard (s : State) (l : List Nat) : s.sameMem (s.discard l) := sameMem_modRegion ..

/-- A firing itself touches no memory: only its effect beyond the cell can. -/
theorem sameMem_commit (s : State) (f : Fire) (hp : f.post = fun u _ _ => u) : s.sameMem (s.commit f) := by
  obtain ⟨r, -, e⟩ := commit_cases s f hp
  have h : State.sameMem s ({ s with ids := s.ids + 1 }.setRegion s.sel.1 r) := ⟨rfl, rfl, rfl, rfl, rfl, rfl⟩
  rw [e]
  split
  · exact h.trans (sameMem_modTaskOf ..)
  · exact h

theorem sameMem_freeze (s : State) (c : Nat) (x : TrapRec) : s.sameMem (s.freeze c x) := by
  unfold State.freeze
  dsimp only
  refine State.sameMem.trans ?_ (sameMem_modHub ..)
  have h : s.sameMem ((s.modRegion c (fun r => r.freeze x)).modTaskOf c (fun t => t.trapped x)) :=
    (sameMem_modRegion ..).trans (sameMem_modTaskOf ..)
  split
  · split
    · exact (h.trans (sameMem_modRegion ..)).trans (sameMem_modTask ..)
    · exact h
  · exact h

/-- Taking a trap touches no memory. -/
theorem sameMem_raise (s : State) (c : Nat) (x : TrapRec) : s.sameMem (s.raise c x) := by
  unfold State.raise
  dsimp only
  split
  · exact .refl s
  · split
    · exact sameMem_freeze ..
    · split
      · exact ((sameMem_modRegion ..).trans (sameMem_modHub ..)).trans (sameMem_freeze ..)
      · split
        · exact .refl s
        · exact sameMem_modRegion ..

theorem sameMem_raiseHeld (s : State) (c : Nat) : s.sameMem (s.raiseHeld c) := by
  unfold State.raiseHeld
  split
  · exact .refl s
  · exact ((sameMem_modCluster ..).trans (sameMem_modRegion ..)).trans (sameMem_raise ..)

theorem sameMem_unfreeze (s : State) (c : Nat) : s.sameMem (s.unfreeze c) := by
  unfold State.unfreeze
  split
  · exact .refl s
  · exact ((sameMem_modRegion ..).trans (sameMem_modCluster ..)).trans (sameMem_modTaskOf ..)

/-- Returning from a trap touches no memory. -/
theorem sameMem_resume (s : State) (c : Nat) : s.sameMem (s.resume c) := by
  unfold State.resume
  split
  · exact (((sameMem_unfreeze ..).trans (sameMem_unfreeze ..)).trans (sameMem_raiseHeld ..)).trans (sameMem_raiseHeld ..)
  · exact (sameMem_unfreeze ..).trans (sameMem_raiseHeld ..)

theorem sameMem_strip (s : State) (c : Nat) : s.sameMem (s.strip c) := (sameMem_modCluster ..).trans (sameMem_modHub ..)

theorem sameMem_kill1 (s : State) (c : Nat) : s.sameMem (s.kill1 c) := by
  unfold State.kill1
  split
  · exact .refl s
  · exact ((sameMem_strip ..).trans (sameMem_modTask ..)).trans (sameMem_modJob ..)

/-- A kill touches no memory. -/
theorem sameMem_kill (s : State) (c : Nat) : s.sameMem (s.kill c) := by
  unfold State.kill
  split
  · exact (sameMem_kill1 ..).trans (sameMem_kill1 ..)
  · exact sameMem_kill1 ..

/-- A store keeps the canonical form and the order of the writes. -/
theorem store_keeps (s : State) (bs : List PByte) (at_ : Bool) (r : Option Release) (w : Option Nat) (hm : s.memOk) (hh : s.histOk) :
    (s.store bs at_ r w).memOk ∧ (s.store bs at_ r w).histOk := by
  refine ⟨wf_store s bs at_ r w hm, List.pairwise_cons.mpr ⟨fun w hw => Nat.lt_succ_of_le (hh.2 w hw), hh.1⟩, fun w hw => ?_⟩
  rcases List.mem_cons.mp hw with rfl | hw
  · exact Nat.le_refl _
  · exact Nat.le_succ_of_le (hh.2 w hw)

theorem storeAll_keeps (s : State) (bs : List PByte) (at_ : Bool) (r : Option Release) (w : Option Nat) (hm : s.memOk) (hh : s.histOk) :
    (s.storeAll bs at_ r w).memOk ∧ (s.storeAll bs at_ r w).histOk := store_keeps s _ at_ r w hm hh

/-- Finding errors changes no byte and no order of writes. -/
theorem findErrors_keeps (s : State) (pas : List Nat) (hm : s.memOk) (hh : s.histOk) :
    (s.findErrors pas).memOk ∧ (s.findErrors pas).histOk := by
  rcases findErrors_cases s pas with e | ⟨m, x, e⟩ <;> rw [e] <;> exact ⟨hm, hh⟩

/-- The copy of a page keeps both: it writes bytes, and gives the writes of the old page to the new one with their numbers. -/
theorem copyPage_keeps (s : State) (src dst : Nat) (hm : s.memOk) (hh : s.histOk) :
    (s.copyPage src dst).memOk ∧ (s.copyPage src dst).histOk := by
  unfold State.copyPage
  generalize 4096 = n
  refine ⟨?_, ?_, fun w hw => ?_⟩
  · exact List.foldlRecOn (motive := fun m => Memory.wf m = true) _ _ hm (fun _ h _ _ => Memory.wf_write _ _ _ h)
  · exact List.pairwise_map.mpr hh.1
  · obtain ⟨v, hv, rfl⟩ := List.mem_map.mp hw
    exact hh.2 v hv

/-- A cold reset keeps both: it takes cells out, and its home order is empty. -/
theorem coldReset_keeps (s : State) (k : Nat) (hm : s.memOk) : (s.coldReset k).memOk ∧ (s.coldReset k).histOk :=
  ⟨Memory.wf_filter s.mem _ hm, List.Pairwise.nil, fun _ h => absurd h List.not_mem_nil⟩

end Sys2Proof.Machine
end

