-- ==== Sys2Proof/Laws/Num.lean ====
section
/-!
SUPPORT. The integer operations of the number formats as bit-vector operations.
-/

namespace Sys2Proof.Machine

open Sys2Proof

theorem wrap_eq (x : Int) (n : Nat) : Num.wrap x n = (BitVec.ofInt n x).toNat := by
  simp [Num.wrap, BitVec.toNat_ofInt]

theorem sval_eq (x n : Nat) (hn : 0 < n) : Num.sval x n = (BitVec.ofNat n x).toInt := by
  have h2 : 2 ^ n = 2 * 2 ^ (n - 1) := by
    rw [← Nat.pow_succ']; congr 1; omega
  simp only [Num.sval, BitVec.toInt_eq_toNat_cond, BitVec.toNat_ofNat]
  split <;> split <;> first | omega | (push_cast; omega)

end Sys2Proof.Machine
end

