-- ==== Sys2Proof/Laws/Fire.lean ====
section
/-!
SUPPORT. What a firing does: the plan of a node that is ready, the firing it leads to, and the lanes it works on.
-/

namespace Sys2Proof.Machine

open Sys2Proof

/-- A live node whose plan is a firing that every target accepts commits it. -/
theorem fireNode_fire {plan : State → Plan} {s : State} {x : Fire} (hl : s.live = true) (hp : plan s = .fire x)
    (ha : s.selRegion.acceptsAll s.now x = true) : fireNode plan s = .next (s.commit x) := by
  simp [fireNode, hl, hp, State.carryOut, ha]

/-- A ready format-A node's plan is its firing. -/
theorem cePlan_ready {f : FmtA} {u lat busy : Nat} {uL uR uP : Bool} {h : Heads} {s : State} (body : Heads → Fire)
    (hr : ReadyA f u uL uR uP h s) : cePlan u lat busy f uL uR uP s body =
      .fire { body h with pops := h.slots, lat := lat, busy := some (u, busy) } := by
  simp [cePlan, hr.unit, hr.heads, hr.pass, hr.phase]

/-- The targets of a ready format-A node accept. -/
theorem ReadyA.accepts {f : FmtA} {u : Nat} {uL uR uP : Bool} {h : Heads} {s : State} (hr : ReadyA f u uL uR uP h s) :
    s.selRegion.accepts s.now f.t0 = true ∧ s.selRegion.accepts s.now f.t1 = true :=
  ⟨hr.room _ (by simp), hr.room _ (by simp)⟩

/-- A ready format-A node with tokens for its two targets fires. -/
theorem fireNode_ce {f : FmtA} {u lat busy : Nat} {uL uR uP : Bool} {h : Heads} {s : State} {plan : State → Plan}
    {body : Heads → Fire} (hr : ReadyA f u uL uR uP h s) (hp : plan s = cePlan u lat busy f uL uR uP s body)
    (ho : ∀ o ∈ (body h).outs, o.1 = f.t0 ∨ o.1 = f.t1) (hl : (body h).later = [])
    (hn : ∀ t ∈ (body h).needs, t = f.t0 ∨ t = f.t1) :
    fireNode plan s = .next (s.commit { body h with pops := h.slots, lat := lat, busy := some (u, busy) }) := by
  refine fireNode_fire hr.live (hp.trans (cePlan_ready body hr)) ?_
  simp only [Region.acceptsAll, hl, List.all_nil, Bool.and_true, Bool.and_eq_true, List.all_eq_true]
  refine ⟨fun o h1 => ?_, fun t h1 => ?_⟩
  · rcases ho o h1 with e | e <;> rw [e] <;> simp [hr.accepts]
  · rcases hn t h1 with e | e <;> rw [e] <;> simp [hr.accepts]

/-- A ready format-A node whose result is one packet on both targets. -/
theorem fireNode_result {f : FmtA} {u lat busy : Nat} {uL uR uP : Bool} {h : Heads} {s : State} {plan : State → Plan}
    {ty : Ty} {es : List Nat} {cause : Option Nat} {gen : Option Word} {body : Heads → Fire} (hr : ReadyA f u uL uR uP h s)
    (hp : plan s = cePlan u lat busy f uL uR uP s body)
    (hb : body h = { s.result f ty es h.origin cause with gen := gen }) :
    fireNode plan s = .next (s.ceFired f u lat busy h (s.packet ty h cause es) gen) := by
  rw [fireNode_ce hr hp (by simp [hb, State.result]) (by simp [hb, State.result]) (by simp [hb, State.result]), hb]
  rfl

/-- A ready comparison. -/
theorem fireNode_flag {f : FmtA} {u lat busy : Nat} {uL uR uP : Bool} {h : Heads} {s : State} {plan : State → Plan}
    {v : Bool} {cause : Option Nat} {body : Heads → Fire} (hr : ReadyA f u uL uR uP h s)
    (hp : plan s = cePlan u lat busy f uL uR uP s body) (hb : body h = s.flag f v h.origin cause) :
    fireNode plan s = .next (s.ceFired f u lat busy h (s.verdict h cause v) none) := by
  rw [fireNode_ce hr hp (by simp [hb, State.flag]) (by simp [hb, State.flag]) (by simp [hb, State.flag]), hb]
  rfl

/-- A ready dot-block node that meets its own condition too. -/
theorem dotPlan_ready {f : FmtA} {uR : Bool} {h : Heads} {s : State} {ready : Heads → Bool} {body : Heads → Plan}
    (hr : ReadyA f 2 true uR false h s) (hc : ready h = true) : dotPlan f uR s ready body =
      match body h with
        | .fire x => .fire { x with pops := h.slots, busy := some (2, 1) }
        | p => p := by
  cases e : body h <;> simp only [dotPlan, hr.unit, hr.heads, hr.pass, hr.phase, hc, e, Bool.not_true, Bool.or_false,
    Bool.false_eq_true, if_false]

/-- The targets of a ready format-A node accept every firing that names no others. -/
theorem ReadyA.acceptsAll {f : FmtA} {u : Nat} {uL uR uP : Bool} {h : Heads} {s : State} (hr : ReadyA f u uL uR uP h s)
    (x : Fire) (h1 : ∀ o ∈ x.outs, o.1 = f.t0 ∨ o.1 = f.t1) (h2 : ∀ t ∈ x.later, t = f.t0 ∨ t = f.t1) (h3 : x.needs = []) :
    s.selRegion.acceptsAll s.now x = true := by
  simp only [Region.acceptsAll, h3, List.all_nil, Bool.and_true, Bool.and_eq_true, List.all_eq_true]
  refine ⟨fun o h => ?_, fun t h => ?_⟩
  · rcases h1 o h with e | e <;> rw [e] <;> simp [hr.accepts]
  · rcases h2 t h with e | e <;> rw [e] <;> simp [hr.accepts]

/-- The plan of a ready node without a phase is its firing. -/
theorem routePlan_ready {pm : Pm} {uL uR uP : Bool} {ts : List Target} {h : Heads} {s : State} (body : Heads → Fire)
    (hr : Ready pm uL uR uP ts h s) : routePlan pm uL uR uP s body = .fire { body h with pops := h.slots } := by
  simp [routePlan, hr.heads, hr.pass]

/-- The targets of a ready node accept every firing that names no others. -/
theorem Ready.acceptsAll {pm : Pm} {uL uR uP : Bool} {ts : List Target} {h : Heads} {s : State} (hr : Ready pm uL uR uP ts h s)
    (x : Fire) (h1 : ∀ o ∈ x.outs, o.1 ∈ ts) (h2 : ∀ t ∈ x.later, t ∈ ts) (h3 : ∀ t ∈ x.needs, t ∈ ts) :
    s.selRegion.acceptsAll s.now x = true := by
  simp only [Region.acceptsAll, Bool.and_eq_true, List.all_eq_true]
  exact ⟨⟨fun o h => hr.room _ (h1 o h), fun t h => hr.room _ (h2 t h)⟩, fun t h => hr.room _ (h3 t h)⟩

/-! ## Lanes -/

theorem elemBits_pos (t : Ty) : 0 < t.elemBits := by cases t <;> decide

/-- An element is below 2^n. -/
theorem elemsOf_lt {ty : Ty} {t : Token} {x : Nat} (h : x ∈ elemsOf ty t) : x < 2 ^ ty.elemBits := by
  simp only [elemsOf, List.mem_map] at h
  obtain ⟨y, -, rfl⟩ := h
  exact Nat.mod_lt _ (Nat.two_pow_pos _)

theorem leftElems_lt {ty : Ty} {l : Option Token} {x : Nat} (h : x ∈ leftElems ty l) : x < 2 ^ ty.elemBits := by
  cases l with
  | none => simp [leftElems] at h
  | some t => exact elemsOf_lt h

theorem wrap_lt (x : Int) (n : Nat) : Num.wrap x n < 2 ^ n := by
  rw [wrap_eq]; exact (BitVec.ofInt n x).isLt

theorem immElem_lt (ty : Ty) (imm : BitVec 21) : immElem ty imm < 2 ^ ty.elemBits := by
  have h := imm.isLt
  cases ty <;> simp only [immElem, Ty.elemBits, Num.sextTo] <;> first | exact wrap_lt _ _ | omega

theorem rightElems_lt {f : FmtA} {r : Option Token} {x : Nat} (h : x ∈ rightElems f r) : x < 2 ^ f.ty.elemBits := by
  unfold rightElems at h
  split at h
  · simp only [List.mem_singleton] at h
    subst h
    exact immElem_lt _ _
  · cases r with
    | none => simp at h
    | some t => exact elemsOf_lt h

theorem zipLanes_congr {α : Type} {p q : Nat → Nat → α} {a b : List Nat} (h : ∀ x ∈ a, ∀ y ∈ b, p x y = q x y) :
    zipLanes p a b = zipLanes q a b := by
  unfold zipLanes
  split
  · exact List.map_congr_left fun y hy => h _ (by simp) y hy
  · exact List.map_congr_left fun x hx => h x hx _ (by simp)
  · clear * - h
    induction a generalizing b with
    | nil => rfl
    | cons x t ih =>
      cases b with
      | nil => rfl
      | cons y u =>
        simp only [List.zipWith_cons_cons]
        rw [h x (by simp) y (by simp), ih fun x hx y hy => h x (List.mem_cons_of_mem _ hx) y (List.mem_cons_of_mem _ hy)]

end Sys2Proof.Machine
end

