-- ==== Sys2Proof/Laws/PerInstr.lean ====
section
/-!
SUPPORT. One lemma for each constructor of Instr: the opcode of its word stands in bits 63 to 56 (R66), and an event has none.
-/

namespace Sys2Proof.Laws

open Sys2Proof

theorem Target.code_lt (t : Target) : t.code < 2 ^ 10 := by
  cases t with
  | none => decide
  | left n => have := n.isLt; simp only [Target.code]; omega
  | right n => have := n.isLt; simp only [Target.code]; omega
  | pred n => have := n.isLt; simp only [Target.code]; omega
  | write n => have := n.isLt; simp only [Target.code]; omega
  | gate n => have := n.isLt; simp only [Target.code]; omega

theorem Ty.code_lt (t : Ty) : t.code < 2 ^ 4 := by cases t <;> decide

/-- The opcode stands in bits 63 to 56 of a word whose other fields keep to their places. -/
theorem headWord_opcode (op : Nat) (pm : Pm) (t0 t1 low : Nat) (h : op < 2 ^ 8) (h0 : t0 < 2 ^ 10) (h1 : t1 < 2 ^ 10) (hl : low < 2 ^ 34) :
    bitsOf (headWord op pm t0 t1 low) 63 56 = op := by
  have hp : pm.code < 4 := by cases pm <;> decide
  simp only [bitsOf, headWord, BitVec.toNat_ofNat]
  omega

namespace OpcodeByte

/-- The word of an instruction carries its opcode in bits 63 to 56; an event has opcode 0. -/
def Statement (i : Instr) : Prop := i.opcode = 0 ∨ bitsOf (encode i) 63 56 = i.opcode

theorem ofA (i : Instr) (f : FmtA) (h : ∃ r, i.aRule = some (f, r)) (ho : i.opcode < 2 ^ 8) : Statement i := by
  obtain ⟨r, h⟩ := h
  have a := Ty.code_lt f.ty
  have b := f.md.isLt
  have c := f.ph.isLt
  have d := f.imm.isLt
  have e : f.ir.toNat < 2 := by cases f.ir <;> decide
  refine .inr ?_
  simp only [encode, h]
  exact headWord_opcode _ _ _ _ _ ho (Target.code_lt _) (Target.code_lt _) (by omega)

theorem ofC (i : Instr) (f : FmtC) (h0 : i.aRule = none) (h : ∃ r, i.cRule = some (f, r)) (ho : i.opcode < 2 ^ 8) : Statement i := by
  obtain ⟨r, h⟩ := h
  have a := Ty.code_lt f.ty
  have b := f.cf.isLt
  have d := f.imm.isLt
  refine .inr ?_
  simp only [encode, h0, h]
  exact headWord_opcode _ _ _ _ _ ho (Target.code_lt _) (Target.code_lt _) (by omega)

theorem ofM (i : Instr) (f : FmtM) (h0 : i.aRule = none) (h1 : i.cRule = none) (h : i.mFmt = some f) (ho : i.opcode < 2 ^ 8) : Statement i := by
  have a := f.sz.isLt
  have b := f.sc.isLt
  have c := f.ord.isLt
  have d := f.lsid.isLt
  have e := f.off.isLt
  refine .inr ?_
  simp only [encode, h0, h1, h]
  exact headWord_opcode _ _ _ _ _ ho (Target.code_lt _) (Target.code_lt _) (by omega)

theorem ofE (i : Instr) (f : FmtE) (h0 : i.aRule = none) (h1 : i.cRule = none) (h2 : i.mFmt = none) (h : i.eFmt = some f)
    (ho : i.opcode < 2 ^ 8) : Statement i := by
  have a := f.wsem.isLt
  have b := f.wthr.isLt
  have c := f.ssem.isLt
  have d := f.sinc.isLt
  refine .inr ?_
  simp only [encode, h0, h1, h2, h]
  exact headWord_opcode _ _ _ _ _ ho (Target.code_lt _) f.flg.isLt (by omega)

theorem ofS (i : Instr) (f : FmtS) (h0 : i.aRule = none) (h1 : i.cRule = none) (h2 : i.mFmt = none) (h3 : i.eFmt = none)
    (h : i.sFmt = some f) (ho : i.opcode < 2 ^ 8) : Statement i := by
  have a := f.sysno.isLt
  refine .inr ?_
  simp only [encode, h0, h1, h2, h3, h]
  exact headWord_opcode _ _ _ _ _ ho (Target.code_lt _) (Target.code_lt _) (by omega)

theorem exitWord_opcode (op : Nat) (f : FmtB) (ho : op < 2 ^ 8) :
    bitsOf (headWord op f.pm 0x3FF 0x3FF (f.exn.toNat * 2 ^ 31 + f.off.toNat * 2 ^ 11)) 63 56 = op := by
  have a := f.exn.isLt
  have b := f.off.isLt
  exact headWord_opcode _ _ _ _ _ ho (by decide) (by decide) (by omega)

theorem trapWord_opcode (op : Nat) (f : FmtT) (ho : op < 2 ^ 8) : bitsOf (headWord op f.pm 0x3FF 0x3FF f.code.toNat) 63 56 = op := by
  have a := f.code.isLt
  exact headWord_opcode _ _ _ _ _ ho (by decide) (by decide) (by omega)

theorem add (f : FmtA) : Statement (.add f) := ofA _ f ⟨_, rfl⟩ (by decide : 0x01 < 2 ^ 8)
theorem sub (f : FmtA) : Statement (.sub f) := ofA _ f ⟨_, rfl⟩ (by decide : 0x02 < 2 ^ 8)
theorem adds (f : FmtA) : Statement (.adds f) := ofA _ f ⟨_, rfl⟩ (by decide : 0x03 < 2 ^ 8)
theorem addsu (f : FmtA) : Statement (.addsu f) := ofA _ f ⟨_, rfl⟩ (by decide : 0x04 < 2 ^ 8)
theorem subs (f : FmtA) : Statement (.subs f) := ofA _ f ⟨_, rfl⟩ (by decide : 0x05 < 2 ^ 8)
theorem subsu (f : FmtA) : Statement (.subsu f) := ofA _ f ⟨_, rfl⟩ (by decide : 0x06 < 2 ^ 8)
theorem mul (f : FmtA) : Statement (.mul f) := ofA _ f ⟨_, rfl⟩ (by decide : 0x07 < 2 ^ 8)
theorem mulh (f : FmtA) : Statement (.mulh f) := ofA _ f ⟨_, rfl⟩ (by decide : 0x08 < 2 ^ 8)
theorem mulhu (f : FmtA) : Statement (.mulhu f) := ofA _ f ⟨_, rfl⟩ (by decide : 0x09 < 2 ^ 8)
theorem div (f : FmtA) : Statement (.div f) := ofA _ f ⟨_, rfl⟩ (by decide : 0x0A < 2 ^ 8)
theorem divu (f : FmtA) : Statement (.divu f) := ofA _ f ⟨_, rfl⟩ (by decide : 0x0B < 2 ^ 8)
theorem rem (f : FmtA) : Statement (.rem f) := ofA _ f ⟨_, rfl⟩ (by decide : 0x0C < 2 ^ 8)
theorem remu (f : FmtA) : Statement (.remu f) := ofA _ f ⟨_, rfl⟩ (by decide : 0x0D < 2 ^ 8)
theorem neg (f : FmtA) : Statement (.neg f) := ofA _ f ⟨_, rfl⟩ (by decide : 0x0E < 2 ^ 8)
theorem abs (f : FmtA) : Statement (.abs f) := ofA _ f ⟨_, rfl⟩ (by decide : 0x0F < 2 ^ 8)
theorem min (f : FmtA) : Statement (.min f) := ofA _ f ⟨_, rfl⟩ (by decide : 0x10 < 2 ^ 8)
theorem max (f : FmtA) : Statement (.max f) := ofA _ f ⟨_, rfl⟩ (by decide : 0x11 < 2 ^ 8)
theorem minu (f : FmtA) : Statement (.minu f) := ofA _ f ⟨_, rfl⟩ (by decide : 0x12 < 2 ^ 8)
theorem maxu (f : FmtA) : Statement (.maxu f) := ofA _ f ⟨_, rfl⟩ (by decide : 0x13 < 2 ^ 8)
theorem addmin (f : FmtA) : Statement (.addmin f) := ofA _ f ⟨_, rfl⟩ (by decide : 0x14 < 2 ^ 8)
theorem land (f : FmtA) : Statement (.land f) := ofA _ f ⟨_, rfl⟩ (by decide : 0x15 < 2 ^ 8)
theorem lor (f : FmtA) : Statement (.lor f) := ofA _ f ⟨_, rfl⟩ (by decide : 0x16 < 2 ^ 8)
theorem lxor (f : FmtA) : Statement (.lxor f) := ofA _ f ⟨_, rfl⟩ (by decide : 0x17 < 2 ^ 8)
theorem andn (f : FmtA) : Statement (.andn f) := ofA _ f ⟨_, rfl⟩ (by decide : 0x18 < 2 ^ 8)
theorem lnot (f : FmtA) : Statement (.lnot f) := ofA _ f ⟨_, rfl⟩ (by decide : 0x19 < 2 ^ 8)
theorem shl (f : FmtA) : Statement (.shl f) := ofA _ f ⟨_, rfl⟩ (by decide : 0x1A < 2 ^ 8)
theorem shr (f : FmtA) : Statement (.shr f) := ofA _ f ⟨_, rfl⟩ (by decide : 0x1B < 2 ^ 8)
theorem sra (f : FmtA) : Statement (.sra f) := ofA _ f ⟨_, rfl⟩ (by decide : 0x1C < 2 ^ 8)
theorem rotl (f : FmtA) : Statement (.rotl f) := ofA _ f ⟨_, rfl⟩ (by decide : 0x1D < 2 ^ 8)
theorem clz (f : FmtA) : Statement (.clz f) := ofA _ f ⟨_, rfl⟩ (by decide : 0x1E < 2 ^ 8)
theorem ctz (f : FmtA) : Statement (.ctz f) := ofA _ f ⟨_, rfl⟩ (by decide : 0x1F < 2 ^ 8)
theorem popc (f : FmtA) : Statement (.popc f) := ofA _ f ⟨_, rfl⟩ (by decide : 0x20 < 2 ^ 8)
theorem sext (f : FmtA) : Statement (.sext f) := ofA _ f ⟨_, rfl⟩ (by decide : 0x21 < 2 ^ 8)
theorem zext (f : FmtA) : Statement (.zext f) := ofA _ f ⟨_, rfl⟩ (by decide : 0x22 < 2 ^ 8)
theorem bswap (f : FmtA) : Statement (.bswap f) := ofA _ f ⟨_, rfl⟩ (by decide : 0x23 < 2 ^ 8)
theorem sel (f : FmtA) : Statement (.sel f) := ofA _ f ⟨_, rfl⟩ (by decide : 0x24 < 2 ^ 8)
theorem ceq (f : FmtA) : Statement (.ceq f) := ofA _ f ⟨_, rfl⟩ (by decide : 0x25 < 2 ^ 8)
theorem cne (f : FmtA) : Statement (.cne f) := ofA _ f ⟨_, rfl⟩ (by decide : 0x26 < 2 ^ 8)
theorem clt (f : FmtA) : Statement (.clt f) := ofA _ f ⟨_, rfl⟩ (by decide : 0x27 < 2 ^ 8)
theorem cltu (f : FmtA) : Statement (.cltu f) := ofA _ f ⟨_, rfl⟩ (by decide : 0x28 < 2 ^ 8)
theorem cle (f : FmtA) : Statement (.cle f) := ofA _ f ⟨_, rfl⟩ (by decide : 0x29 < 2 ^ 8)
theorem cleu (f : FmtA) : Statement (.cleu f) := ofA _ f ⟨_, rfl⟩ (by decide : 0x2A < 2 ^ 8)
theorem ctst (f : FmtA) : Statement (.ctst f) := ofA _ f ⟨_, rfl⟩ (by decide : 0x2B < 2 ^ 8)
theorem movi (f : FmtA) : Statement (.movi f) := ofA _ f ⟨_, rfl⟩ (by decide : 0x2C < 2 ^ 8)
theorem movhi (f : FmtA) : Statement (.movhi f) := ofA _ f ⟨_, rfl⟩ (by decide : 0x2D < 2 ^ 8)
theorem lea (f : FmtA) : Statement (.lea f) := ofA _ f ⟨_, rfl⟩ (by decide : 0x2E < 2 ^ 8)
theorem fadd (f : FmtA) : Statement (.fadd f) := ofA _ f ⟨_, rfl⟩ (by decide : 0x40 < 2 ^ 8)
theorem fsub (f : FmtA) : Statement (.fsub f) := ofA _ f ⟨_, rfl⟩ (by decide : 0x41 < 2 ^ 8)
theorem fmul (f : FmtA) : Statement (.fmul f) := ofA _ f ⟨_, rfl⟩ (by decide : 0x42 < 2 ^ 8)
theorem fmac (f : FmtA) : Statement (.fmac f) := ofA _ f ⟨_, rfl⟩ (by decide : 0x43 < 2 ^ 8)
theorem fmin (f : FmtA) : Statement (.fmin f) := ofA _ f ⟨_, rfl⟩ (by decide : 0x44 < 2 ^ 8)
theorem fmax (f : FmtA) : Statement (.fmax f) := ofA _ f ⟨_, rfl⟩ (by decide : 0x45 < 2 ^ 8)
theorem fabs (f : FmtA) : Statement (.fabs f) := ofA _ f ⟨_, rfl⟩ (by decide : 0x46 < 2 ^ 8)
theorem fneg (f : FmtA) : Statement (.fneg f) := ofA _ f ⟨_, rfl⟩ (by decide : 0x47 < 2 ^ 8)
theorem feq (f : FmtA) : Statement (.feq f) := ofA _ f ⟨_, rfl⟩ (by decide : 0x48 < 2 ^ 8)
theorem flt (f : FmtA) : Statement (.flt f) := ofA _ f ⟨_, rfl⟩ (by decide : 0x49 < 2 ^ 8)
theorem fle (f : FmtA) : Statement (.fle f) := ofA _ f ⟨_, rfl⟩ (by decide : 0x4A < 2 ^ 8)
theorem funord (f : FmtA) : Statement (.funord f) := ofA _ f ⟨_, rfl⟩ (by decide : 0x4B < 2 ^ 8)
theorem fcvt (f : FmtA) : Statement (.fcvt f) := ofA _ f ⟨_, rfl⟩ (by decide : 0x4C < 2 ^ 8)
theorem fcvti (f : FmtA) : Statement (.fcvti f) := ofA _ f ⟨_, rfl⟩ (by decide : 0x4D < 2 ^ 8)
theorem icvtf (f : FmtA) : Statement (.icvtf f) := ofA _ f ⟨_, rfl⟩ (by decide : 0x4E < 2 ^ 8)
theorem frnd (f : FmtA) : Statement (.frnd f) := ofA _ f ⟨_, rfl⟩ (by decide : 0x4F < 2 ^ 8)
theorem frcp (f : FmtA) : Statement (.frcp f) := ofA _ f ⟨_, rfl⟩ (by decide : 0x50 < 2 ^ 8)
theorem frsq (f : FmtA) : Statement (.frsq f) := ofA _ f ⟨_, rfl⟩ (by decide : 0x51 < 2 ^ 8)
theorem fsqrt (f : FmtA) : Statement (.fsqrt f) := ofA _ f ⟨_, rfl⟩ (by decide : 0x52 < 2 ^ 8)
theorem fexp2 (f : FmtA) : Statement (.fexp2 f) := ofA _ f ⟨_, rfl⟩ (by decide : 0x53 < 2 ^ 8)
theorem flog2 (f : FmtA) : Statement (.flog2 f) := ofA _ f ⟨_, rfl⟩ (by decide : 0x54 < 2 ^ 8)
theorem ftanh (f : FmtA) : Statement (.ftanh f) := ofA _ f ⟨_, rfl⟩ (by decide : 0x55 < 2 ^ 8)
theorem bqnt (f : FmtA) : Statement (.bqnt f) := ofA _ f ⟨_, rfl⟩ (by decide : 0x56 < 2 ^ 8)
theorem bdeq (f : FmtA) : Statement (.bdeq f) := ofA _ f ⟨_, rfl⟩ (by decide : 0x57 < 2 ^ 8)
theorem xsacc (f : FmtA) : Statement (.xsacc f) := ofA _ f ⟨_, rfl⟩ (by decide : 0x58 < 2 ^ 8)
theorem xsfin (f : FmtA) : Statement (.xsfin f) := ofA _ f ⟨_, rfl⟩ (by decide : 0x59 < 2 ^ 8)
theorem psum (f : FmtA) : Statement (.psum f) := ofA _ f ⟨_, rfl⟩ (by decide : 0x5A < 2 ^ 8)
theorem pmax (f : FmtA) : Statement (.pmax f) := ofA _ f ⟨_, rfl⟩ (by decide : 0x5B < 2 ^ 8)
theorem pmin (f : FmtA) : Statement (.pmin f) := ofA _ f ⟨_, rfl⟩ (by decide : 0x5C < 2 ^ 8)
theorem plsh (f : FmtA) : Statement (.plsh f) := ofA _ f ⟨_, rfl⟩ (by decide : 0x5D < 2 ^ 8)
theorem pperm (f : FmtA) : Statement (.pperm f) := ofA _ f ⟨_, rfl⟩ (by decide : 0x5E < 2 ^ 8)
theorem pbcast (f : FmtA) : Statement (.pbcast f) := ofA _ f ⟨_, rfl⟩ (by decide : 0x5F < 2 ^ 8)
theorem pext (f : FmtA) : Statement (.pext f) := ofA _ f ⟨_, rfl⟩ (by decide : 0x60 < 2 ^ 8)
theorem pins (f : FmtA) : Statement (.pins f) := ofA _ f ⟨_, rfl⟩ (by decide : 0x61 < 2 ^ 8)
theorem pjoin (f : FmtA) : Statement (.pjoin f) := ofA _ f ⟨_, rfl⟩ (by decide : 0x62 < 2 ^ 8)
theorem psplit (f : FmtA) : Statement (.psplit f) := ofA _ f ⟨_, rfl⟩ (by decide : 0x63 < 2 ^ 8)
theorem plen (f : FmtA) : Statement (.plen f) := ofA _ f ⟨_, rfl⟩ (by decide : 0x64 < 2 ^ 8)
theorem pmask (f : FmtA) : Statement (.pmask f) := ofA _ f ⟨_, rfl⟩ (by decide : 0x65 < 2 ^ 8)
theorem lutx (f : FmtA) : Statement (.lutx f) := ofA _ f ⟨_, rfl⟩ (by decide : 0x70 < 2 ^ 8)
theorem fsmst (f : FmtA) : Statement (.fsmst f) := ofA _ f ⟨_, rfl⟩ (by decide : 0x71 < 2 ^ 8)
theorem bext (f : FmtA) : Statement (.bext f) := ofA _ f ⟨_, rfl⟩ (by decide : 0x72 < 2 ^ 8)
theorem bdep (f : FmtA) : Statement (.bdep f) := ofA _ f ⟨_, rfl⟩ (by decide : 0x73 < 2 ^ 8)
theorem hashx (f : FmtA) : Statement (.hashx f) := ofA _ f ⟨_, rfl⟩ (by decide : 0x74 < 2 ^ 8)
theorem mma (f : FmtA) : Statement (.mma f) := ofA _ f ⟨_, rfl⟩ (by decide : 0x78 < 2 ^ 8)
theorem ldst (f : FmtA) : Statement (.ldst f) := ofA _ f ⟨_, rfl⟩ (by decide : 0x79 < 2 ^ 8)
theorem mswap (f : FmtA) : Statement (.mswap f) := ofA _ f ⟨_, rfl⟩ (by decide : 0x7A < 2 ^ 8)
theorem mzero (f : FmtA) : Statement (.mzero f) := ofA _ f ⟨_, rfl⟩ (by decide : 0x7B < 2 ^ 8)
theorem mdrain (f : FmtA) : Statement (.mdrain f) := ofA _ f ⟨_, rfl⟩ (by decide : 0x7C < 2 ^ 8)
theorem tstat (f : FmtA) : Statement (.tstat f) := ofA _ f ⟨_, rfl⟩ (by decide : 0x7D < 2 ^ 8)
theorem tset (f : FmtA) : Statement (.tset f) := ofA _ f ⟨_, rfl⟩ (by decide : 0x7E < 2 ^ 8)
theorem mov (f : FmtC) : Statement (.mov f) := ofC _ f rfl ⟨_, rfl⟩ (by decide : 0x80 < 2 ^ 8)
theorem mov4 (f : FmtC) : Statement (.mov4 f) := ofC _ f rfl ⟨_, rfl⟩ (by decide : 0x81 < 2 ^ 8)
theorem steer (f : FmtC) : Statement (.steer f) := ofC _ f rfl ⟨_, rfl⟩ (by decide : 0x82 < 2 ^ 8)
theorem gate (f : FmtC) : Statement (.gate f) := ofC _ f rfl ⟨_, rfl⟩ (by decide : 0x83 < 2 ^ 8)
theorem merge (f : FmtC) : Statement (.merge f) := ofC _ f rfl ⟨_, rfl⟩ (by decide : 0x84 < 2 ^ 8)
theorem mrga (f : FmtC) : Statement (.mrga f) := ofC _ f rfl ⟨_, rfl⟩ (by decide : 0x85 < 2 ^ 8)
theorem carry (f : FmtC) : Statement (.carry f) := ofC _ f rfl ⟨_, rfl⟩ (by decide : 0x86 < 2 ^ 8)
theorem invar (f : FmtC) : Statement (.invar f) := ofC _ f rfl ⟨_, rfl⟩ (by decide : 0x87 < 2 ^ 8)
theorem loopgen (f : FmtC) : Statement (.loopgen f) := ofC _ f rfl ⟨_, rfl⟩ (by decide : 0x88 < 2 ^ 8)
theorem repeatN (f : FmtC) : Statement (.repeatN f) := ofC _ f rfl ⟨_, rfl⟩ (by decide : 0x89 < 2 ^ 8)
theorem cand (f : FmtC) : Statement (.cand f) := ofC _ f rfl ⟨_, rfl⟩ (by decide : 0x8A < 2 ^ 8)
theorem cor (f : FmtC) : Statement (.cor f) := ofC _ f rfl ⟨_, rfl⟩ (by decide : 0x8B < 2 ^ 8)
theorem cnot (f : FmtC) : Statement (.cnot f) := ofC _ f rfl ⟨_, rfl⟩ (by decide : 0x8C < 2 ^ 8)
theorem cxor (f : FmtC) : Statement (.cxor f) := ofC _ f rfl ⟨_, rfl⟩ (by decide : 0x8D < 2 ^ 8)
theorem cdat (f : FmtC) : Statement (.cdat f) := ofC _ f rfl ⟨_, rfl⟩ (by decide : 0x8E < 2 ^ 8)
theorem split (f : FmtC) : Statement (.split f) := ofC _ f rfl ⟨_, rfl⟩ (by decide : 0x8F < 2 ^ 8)
theorem omerge (f : FmtC) : Statement (.omerge f) := ofC _ f rfl ⟨_, rfl⟩ (by decide : 0x90 < 2 ^ 8)
theorem sink (f : FmtC) : Statement (.sink f) := ofC _ f rfl ⟨_, rfl⟩ (by decide : 0x91 < 2 ^ 8)
theorem ld (f : FmtM) : Statement (.ld f) := ofM _ f rfl rfl rfl (by decide : 0xA0 < 2 ^ 8)
theorem st (f : FmtM) : Statement (.st f) := ofM _ f rfl rfl rfl (by decide : 0xA1 < 2 ^ 8)
theorem ldp (f : FmtM) : Statement (.ldp f) := ofM _ f rfl rfl rfl (by decide : 0xA2 < 2 ^ 8)
theorem stp (f : FmtM) : Statement (.stp f) := ofM _ f rfl rfl rfl (by decide : 0xA3 < 2 ^ 8)
theorem ldfe (f : FmtM) : Statement (.ldfe f) := ofM _ f rfl rfl rfl (by decide : 0xA4 < 2 ^ 8)
theorem stfe (f : FmtM) : Statement (.stfe f) := ofM _ f rfl rfl rfl (by decide : 0xA5 < 2 ^ 8)
theorem lnemp (f : FmtM) : Statement (.lnemp f) := ofM _ f rfl rfl rfl (by decide : 0xA6 < 2 ^ 8)
theorem lnful (f : FmtM) : Statement (.lnful f) := ofM _ f rfl rfl rfl (by decide : 0xA7 < 2 ^ 8)
theorem amo (f : FmtM) : Statement (.amo f) := ofM _ f rfl rfl rfl (by decide : 0xA8 < 2 ^ 8)
theorem cas (f : FmtM) : Statement (.cas f) := ofM _ f rfl rfl rfl (by decide : 0xA9 < 2 ^ 8)
theorem fence (f : FmtM) : Statement (.fence f) := ofM _ f rfl rfl rfl (by decide : 0xAA < 2 ^ 8)
theorem pref (f : FmtM) : Statement (.pref f) := ofM _ f rfl rfl rfl (by decide : 0xAB < 2 ^ 8)
theorem rmw (f : FmtM) : Statement (.rmw f) := ofM _ f rfl rfl rfl (by decide : 0xAC < 2 ^ 8)
theorem sbind (f : FmtE) : Statement (.sbind f) := ofE _ f rfl rfl rfl rfl (by decide : 0xC0 < 2 ^ 8)
theorem sfree (f : FmtE) : Statement (.sfree f) := ofE _ f rfl rfl rfl rfl (by decide : 0xC1 < 2 ^ 8)
theorem tcopy (f : FmtE) : Statement (.tcopy f) := ofE _ f rfl rfl rfl rfl (by decide : 0xC2 < 2 ^ 8)
theorem tgath (f : FmtE) : Statement (.tgath f) := ofE _ f rfl rfl rfl rfl (by decide : 0xC3 < 2 ^ 8)
theorem tscat (f : FmtE) : Statement (.tscat f) := ofE _ f rfl rfl rfl rfl (by decide : 0xC4 < 2 ^ 8)
theorem board (f : FmtE) : Statement (.board f) := ofE _ f rfl rfl rfl rfl (by decide : 0xC5 < 2 ^ 8)
theorem migr (f : FmtE) : Statement (.migr f) := ofE _ f rfl rfl rfl rfl (by decide : 0xC6 < 2 ^ 8)
theorem msend (f : FmtE) : Statement (.msend f) := ofE _ f rfl rfl rfl rfl (by decide : 0xC7 < 2 ^ 8)
theorem swait (f : FmtE) : Statement (.swait f) := ofE _ f rfl rfl rfl rfl (by decide : 0xC8 < 2 ^ 8)
theorem ssig (f : FmtE) : Statement (.ssig f) := ofE _ f rfl rfl rfl rfl (by decide : 0xC9 < 2 ^ 8)
theorem sset (f : FmtE) : Statement (.sset f) := ofE _ f rfl rfl rfl rfl (by decide : 0xCA < 2 ^ 8)
theorem kick (f : FmtE) : Statement (.kick f) := ofE _ f rfl rfl rfl rfl (by decide : 0xCB < 2 ^ 8)
theorem rspeed (f : FmtE) : Statement (.rspeed f) := ofE _ f rfl rfl rfl rfl (by decide : 0xCC < 2 ^ 8)
theorem repl (f : FmtE) : Statement (.repl f) := ofE _ f rfl rfl rfl rfl (by decide : 0xCD < 2 ^ 8)
theorem exit (f : FmtB) : Statement (.exit f) := .inr (exitWord_opcode _ f (by decide : 0xE0 < 2 ^ 8))
theorem exiti (f : FmtB) : Statement (.exiti f) := .inr (exitWord_opcode _ f (by decide : 0xE1 < 2 ^ 8))
theorem call (f : FmtB) : Statement (.call f) := .inr (exitWord_opcode _ f (by decide : 0xE2 < 2 ^ 8))
theorem calli (f : FmtB) : Statement (.calli f) := .inr (exitWord_opcode _ f (by decide : 0xE3 < 2 ^ 8))
theorem ret (f : FmtB) : Statement (.ret f) := .inr (exitWord_opcode _ f (by decide : 0xE4 < 2 ^ 8))
theorem trap (f : FmtT) : Statement (.trap f) := .inr (trapWord_opcode _ f (by decide : 0xE5 < 2 ^ 8))
theorem yield (f : FmtB) : Statement (.yield f) := .inr (exitWord_opcode _ f (by decide : 0xE6 < 2 ^ 8))
theorem brk (f : FmtT) : Statement (.brk f) := .inr (trapWord_opcode _ f (by decide : 0xE7 < 2 ^ 8))
theorem sysrd (f : FmtS) : Statement (.sysrd f) := ofS _ f rfl rfl rfl rfl rfl (by decide : 0xF0 < 2 ^ 8)
theorem syswr (f : FmtS) : Statement (.syswr f) := ofS _ f rfl rfl rfl rfl rfl (by decide : 0xF1 < 2 ^ 8)
theorem tsget (f : FmtS) : Statement (.tsget f) := ofS _ f rfl rfl rfl rfl rfl (by decide : 0xF2 < 2 ^ 8)
theorem tret (f : FmtS) : Statement (.tret f) := ofS _ f rfl rfl rfl rfl rfl (by decide : 0xF3 < 2 ^ 8)
theorem tlbinv (f : FmtS) : Statement (.tlbinv f) := ofS _ f rfl rfl rfl rfl rfl (by decide : 0xF4 < 2 ^ 8)
theorem keyrev (f : FmtS) : Statement (.keyrev f) := ofS _ f rfl rfl rfl rfl rfl (by decide : 0xF5 < 2 ^ 8)
theorem ctxsv (f : FmtS) : Statement (.ctxsv f) := ofS _ f rfl rfl rfl rfl rfl (by decide : 0xF6 < 2 ^ 8)
theorem ctxld (f : FmtS) : Statement (.ctxld f) := ofS _ f rfl rfl rfl rfl rfl (by decide : 0xF7 < 2 ^ 8)
theorem cfgld (f : FmtS) : Statement (.cfgld f) := ofS _ f rfl rfl rfl rfl rfl (by decide : 0xF8 < 2 ^ 8)
theorem linkq (f : FmtS) : Statement (.linkq f) := ofS _ f rfl rfl rfl rfl rfl (by decide : 0xF9 < 2 ^ 8)
theorem evwait (f : FmtS) : Statement (.evwait f) := ofS _ f rfl rfl rfl rfl rfl (by decide : 0xFA < 2 ^ 8)
theorem operandDiscard : ∀ c n, Statement (.operandDiscard c n) := fun _ _ => .inl rfl
theorem shadowUsable : ∀ c, Statement (.shadowUsable c) := fun _ => .inl rfl
theorem teardownInjection : ∀ c, Statement (.teardownInjection c) := fun _ => .inl rfl
theorem nodeRetire : ∀ c n, Statement (.nodeRetire c n) := fun _ _ => .inl rfl
theorem nodeFlip : ∀ c n, Statement (.nodeFlip c n) := fun _ _ => .inl rfl
theorem purgeMarker : ∀ c n, Statement (.purgeMarker c n) := fun _ _ => .inl rfl
theorem blockBoundary : ∀ c, Statement (.blockBoundary c) := fun _ => .inl rfl
theorem blockStart : ∀ c, Statement (.blockStart c) := fun _ => .inl rfl
theorem awaitRead : ∀ c e, Statement (.awaitRead c e) := fun _ _ => .inl rfl
theorem popDelivery : ∀ c e, Statement (.popDelivery c e) := fun _ _ => .inl rfl
theorem peekDelivery : ∀ c e, Statement (.peekDelivery c e) := fun _ _ => .inl rfl
theorem gateDrop : ∀ c e, Statement (.gateDrop c e) := fun _ _ => .inl rfl
theorem gateHold : ∀ c e, Statement (.gateHold c e) := fun _ _ => .inl rfl
theorem streamFetch : ∀ c p, Statement (.streamFetch c p) := fun _ _ => .inl rfl
theorem portPush : ∀ c e, Statement (.portPush c e) := fun _ _ => .inl rfl
theorem squeezePush : ∀ c e, Statement (.squeezePush c e) := fun _ _ => .inl rfl
theorem memoryAccessPerform : ∀ c k age, Statement (.memoryAccessPerform c k age) := fun _ _ _ => .inl rfl
theorem fullEmptyWake : ∀ line, Statement (.fullEmptyWake line) := fun _ => .inl rfl
theorem parkRetry : ∀ c k, Statement (.parkRetry c k) := fun _ _ => .inl rfl
theorem tableWalk : ∀ c k, Statement (.tableWalk c k) := fun _ _ => .inl rfl
theorem mmaComplete : ∀ c cell, Statement (.mmaComplete c cell) := fun _ _ => .inl rfl
theorem shadowLoaded : ∀ c cell, Statement (.shadowLoaded c cell) := fun _ _ => .inl rfl
theorem mdrainComplete : ∀ c k, Statement (.mdrainComplete c k) := fun _ _ => .inl rfl
theorem engineWait : ∀ c k, Statement (.engineWait c k) := fun _ _ => .inl rfl
theorem tileClaim : ∀ c k, Statement (.tileClaim c k) := fun _ _ => .inl rfl
theorem descriptorRead : ∀ c k, Statement (.descriptorRead c k) := fun _ _ => .inl rfl
theorem byteModeSignal : ∀ c k, Statement (.byteModeSignal c k) := fun _ _ => .inl rfl
theorem engineCompletion : ∀ c k, Statement (.engineCompletion c k) := fun _ _ => .inl rfl
theorem inboxSend : ∀ c k, Statement (.inboxSend c k) := fun _ _ => .inl rfl
theorem inboxPublish : ∀ c k, Statement (.inboxPublish c k) := fun _ _ => .inl rfl
theorem migratePage : ∀ c k, Statement (.migratePage c k) := fun _ _ => .inl rfl
theorem trapRecord : Statement .trapRecord := .inl rfl
theorem handlerDispatch : Statement .handlerDispatch := .inl rfl
theorem trapHkill : ∀ value, Statement (.trapHkill value) := fun _ => .inl rfl
theorem budgetExpiry : ∀ c, Statement (.budgetExpiry c) := fun _ => .inl rfl
theorem probeSend : ∀ c n slot, Statement (.probeSend c n slot) := fun _ _ _ => .inl rfl
theorem probeHop : ∀ k, Statement (.probeHop k) := fun _ => .inl rfl
theorem forcedRecoveryPoint : ∀ c, Statement (.forcedRecoveryPoint c) := fun _ => .inl rfl
theorem softError : ∀ c unit cell slot, Statement (.softError c unit cell slot) := fun _ _ _ _ => .inl rfl
theorem umpireCompare : ∀ c k, Statement (.umpireCompare c k) := fun _ _ => .inl rfl
theorem umpireTimeout : ∀ c k, Statement (.umpireTimeout c k) := fun _ _ => .inl rfl
theorem jqDoor : ∀ value, Statement (.jqDoor value) := fun _ => .inl rfl
theorem jobLoad : Statement .jobLoad := .inl rfl
theorem taskEnd : ∀ t, Statement (.taskEnd t) := fun _ => .inl rfl
theorem dispatch : ∀ c, Statement (.dispatch c) := fun _ => .inl rfl
theorem eprioPromotion : ∀ t, Statement (.eprioPromotion t) := fun _ => .inl rfl
theorem preemptionRequest : ∀ c t, Statement (.preemptionRequest c t) := fun _ _ => .inl rfl
theorem preemptionSnapshot : ∀ c, Statement (.preemptionSnapshot c) := fun _ => .inl rfl
theorem lapStart : Statement .lapStart := .inl rfl
theorem tileInject : Statement .tileInject := .inl rfl
theorem boardingRegistration : ∀ c k, Statement (.boardingRegistration c k) := fun _ _ => .inl rfl
theorem tileCapture : ∀ c bad, Statement (.tileCapture c bad) := fun _ _ => .inl rfl
theorem windowClose : ∀ c k, Statement (.windowClose c k) := fun _ _ => .inl rfl
theorem registerWrite : ∀ sysno value link, Statement (.registerWrite sysno value link) := fun _ _ _ => .inl rfl
theorem seedWrite : ∀ t value, Statement (.seedWrite t value) := fun _ _ => .inl rfl
theorem linkRetrainGo : ∀ m, Statement (.linkRetrainGo m) := fun _ => .inl rfl
theorem linkRetrainEnd : ∀ m badLanes badSpares, Statement (.linkRetrainEnd m badLanes badSpares) := fun _ _ _ => .inl rfl
theorem flitReceive : ∀ m seqno good lane, Statement (.flitReceive m seqno good lane) := fun _ _ _ _ => .inl rfl
theorem linkqComplete : ∀ c k, Statement (.linkqComplete c k) := fun _ _ => .inl rfl
theorem ideRollover : ∀ f, Statement (.ideRollover f) := fun _ => .inl rfl
theorem ideAutoRollover : ∀ f, Statement (.ideAutoRollover f) := fun _ => .inl rfl
theorem ideSlotRetire : ∀ f, Statement (.ideSlotRetire f) := fun _ => .inl rfl
theorem macFailure : ∀ f, Statement (.macFailure f) := fun _ => .inl rfl
theorem drawerSlotPlace : ∀ f k, Statement (.drawerSlotPlace f k) := fun _ _ => .inl rfl
theorem drawerResponse : ∀ f k, Statement (.drawerResponse f k) := fun _ _ => .inl rfl
theorem peerRequest : ∀ f ch addr key, Statement (.peerRequest f ch addr key) := fun _ _ _ _ => .inl rfl
theorem linkStall : ∀ f k, Statement (.linkStall f k) := fun _ _ => .inl rfl
theorem slotTableSwitch : Statement .slotTableSwitch := .inl rfl
theorem channelCalibration : ∀ f ch, Statement (.channelCalibration f ch) := fun _ _ => .inl rfl
theorem channelDown : ∀ f ch, Statement (.channelDown f ch) := fun _ _ => .inl rfl
theorem channelRelock : ∀ f ch, Statement (.channelRelock f ch) := fun _ _ => .inl rfl
theorem tlbinvComplete : ∀ c k, Statement (.tlbinvComplete c k) := fun _ _ => .inl rfl
theorem keyrevAck : ∀ c k, Statement (.keyrevAck c k) := fun _ _ => .inl rfl
theorem ctxsvComplete : ∀ c k, Statement (.ctxsvComplete c k) := fun _ _ => .inl rfl
theorem ctxldComplete : ∀ c k, Statement (.ctxldComplete c k) := fun _ _ => .inl rfl
theorem evwaitWake : ∀ c k, Statement (.evwaitWake c k) := fun _ _ => .inl rfl
theorem hostAccess : ∀ op, Statement (.hostAccess op) := fun _ => .inl rfl
theorem patrolScrub : ∀ addr bad, Statement (.patrolScrub addr bad) := fun _ _ => .inl rfl
theorem telemetrySample : Statement .telemetrySample := .inl rfl
theorem throttle : ∀ c, Statement (.throttle c) := fun _ => .inl rfl
theorem coldReset : ∀ fail, Statement (.coldReset fail) := fun _ => .inl rfl
theorem attestationRequest : ∀ nonce, Statement (.attestationRequest nonce) := fun _ => .inl rfl
theorem modcAdvance : ∀ c, Statement (.modcAdvance c) := fun _ => .inl rfl
theorem cfgldComplete : ∀ c k, Statement (.cfgldComplete c k) := fun _ _ => .inl rfl
theorem clusterPowerGate : ∀ c, Statement (.clusterPowerGate c) := fun _ => .inl rfl

end OpcodeByte

end Sys2Proof.Laws
end

