-- ==== Sys2Proof/Laws/Reach.lean ====
section
/-!
SUPPORT. What a translation leaves behind, and what the way to some places can come to.
-/

namespace Sys2Proof.Machine

open Sys2Proof

/-- All that a walk changes: poison marks, errors that it finds, and TLBs. -/
structure State.walkOf (s t : State) : Prop where
  rest : t = { s with marks := t.marks, ecc := t.ecc, clusters := t.clusters }
  clus : ∀ d, t.cluster d = { s.cluster d with tlb := (t.cluster d).tlb }

theorem State.walkOf.refl (s : State) : s.walkOf s := ⟨rfl, fun _ => rfl⟩

theorem State.walkOf.trans {s t u : State} (h : s.walkOf t) (k : t.walkOf u) : s.walkOf u :=
  ⟨by rw [k.rest, h.rest], fun d => by rw [k.clus d, h.clus d]⟩

theorem walkOf_findErrors (s : State) (l : List Nat) : s.walkOf (s.findErrors l) := by
  rcases findErrors_cases s l with e | ⟨m, x, e⟩ <;> rw [e]
  · exact .refl s
  · exact ⟨rfl, fun _ => rfl⟩

theorem walkOf_tlbFill (s : State) (c : Nat) (e : TlbEntry) : s.walkOf (s.tlbFill c e) := by
  refine ⟨rfl, fun d => ?_⟩
  unfold State.tlbFill
  by_cases h : c = d
  · subst h; rw [cluster_modCluster]
  · rw [cluster_modCluster_ne _ _ _ _ h]

theorem walkOf_walked1 (s : State) (sp : Space) (a : Word) (k : AccKind) : s.walkOf (s.walked1 sp a k) := by
  unfold State.walked1
  split
  · exact .refl s
  · dsimp only
    split
    · split
      · exact (walkOf_findErrors ..).trans (walkOf_tlbFill ..)
      · exact walkOf_findErrors ..
    · exact walkOf_findErrors ..

theorem walkOf_foldl {α : Type} (g : State → α → State) (hg : ∀ (s : State) (x : α), s.walkOf (g s x)) (l : List α) (s : State) :
    s.walkOf (l.foldl g s) := by
  induction l generalizing s with
  | nil => exact .refl s
  | cons x l ih => exact (hg s x).trans (ih (g s x))

theorem walkOf_walked (s : State) (sp : Space) (a : Word) (n : Nat) (k : AccKind) : s.walkOf (s.walked sp a n k) :=
  walkOf_foldl _ (fun _ _ => walkOf_walked1 ..) _ _

theorem walkOf_walkRuns (s : State) (sp : Space) (k : AccKind) (runs : List (Word × Nat)) : s.walkOf (s.walkRuns sp k runs) :=
  walkOf_foldl _ (fun _ _ => walkOf_walked ..) _ _

section
variable {s t : State} (h : s.walkOf t)
include h
theorem State.walkOf.mem : t.mem = s.mem := by rw [h.rest]
theorem State.walkOf.hist : t.hist = s.hist := by rw [h.rest]
theorem State.walkOf.now : t.now = s.now := by rw [h.rest]
theorem State.walkOf.lag : t.lag = s.lag := by rw [h.rest]
theorem State.walkOf.hub : t.hub = s.hub := by rw [h.rest]
theorem State.walkOf.links : t.links = s.links := by rw [h.rest]
theorem State.walkOf.fars : t.fars = s.fars := by rw [h.rest]
theorem State.walkOf.tasks : t.tasks = s.tasks := by rw [h.rest]
theorem State.walkOf.region (d : Nat) : t.region d = s.region d := by
  show (t.cluster d).region = (s.cluster d).region
  rw [h.clus]
theorem State.walkOf.taskOf (d : Nat) : t.taskOf d = s.taskOf d := by
  have hk : (t.cluster d).task = (s.cluster d).task := by rw [h.clus]
  have hi : t.taskIdOf d = s.taskIdOf d := by simp only [State.taskIdOf, hk]
  simp only [State.taskOf, hi, State.task, h.tasks]
theorem State.walkOf.far (f : Nat) : t.far f = s.far f := by simp only [State.far, h.fars]
end

/-! ## The way to some places -/

/-- Places that take no slot, over modules that are open, are at hand. -/
theorem reach_near (s : State) (c : Nat) (w : Requester) (prio : Nat) (l : List (Word × Nat))
    (h : ∀ x ∈ l, isFar x.2 = false ∧ s.pathOpen c x.2 = true) : s.reach c w prio l = .go := by
  have hf : l.filter (fun x => isFar x.2) = [] := List.filter_eq_nil_iff.mpr (fun x hx => by simp [(h x hx).1])
  have hp : l.all (fun x => s.pathOpen c x.2) = true := List.all_eq_true.mpr (fun x hx => (h x hx).2)
  simp [State.reach, hf, hp]

/-- Where there are no requests yet, under a valid key, a way with a far place waits. -/
theorem reach_asks (s : State) (c : Nat) (w : Requester) (prio : Nat) (l : List (Word × Nat)) (x : Word × Nat) (hx : x ∈ l) (hf : isFar x.2 = true)
    (hk : s.hub.keyValid = true) (hn : ∀ f, (s.far f).reqs = []) : ∃ t, s.reach c w prio l = .wait t := by
  have hq (pa : Nat) : s.farReq c w pa = none := by simp [State.farReq, hn]
  have h1 : (l.filter (fun x => isFar x.2)).findSome? (fun x => s.reachFault c w x.1 x.2) = none := by
    rw [List.findSome?_eq_none_iff]
    intro y _
    simp [State.reachFault, hq, hk]
  have h2 : (l.filter (fun x => isFar x.2)).all (fun x => s.atHand c w x.2) = false := by
    rw [List.all_eq_false]
    exact ⟨x, List.mem_filter.mpr ⟨hx, hf⟩, by simp [State.atHand, hf, hq]⟩
  unfold State.reach
  dsimp only
  rw [h1]
  dsimp only
  rw [h2]
  split
  · exact ⟨_, rfl⟩
  · exact ⟨_, rfl⟩

/-- A way that waits changes requests only. -/
theorem reach_wait (s t : State) (c : Nat) (w : Requester) (prio : Nat) (l : List (Word × Nat)) (h : s.reach c w prio l = .wait t) :
    t = { s with ids := t.ids, fars := t.fars } := by
  have aux : ∀ (l : List (Word × Nat)) (i : Nat) (d : Tbl Far), ∃ i' d',
      l.foldl (fun st x => if (st.farReq c w x.2).isSome then st else st.askFar c w prio x.2) { s with ids := i, fars := d } =
        { s with ids := i', fars := d' } := by
    intro l
    induction l with
    | nil => exact fun i d => ⟨i, d, rfl⟩
    | cons x l ih =>
      intro i d
      rw [List.foldl_cons]
      split
      · exact ih i d
      · exact ih _ _
  unfold State.reach at h
  dsimp only at h
  split at h
  · cases h
  · split at h
    · cases h; rfl
    · split at h
      · cases h
      · cases h
        obtain ⟨i, d, e⟩ := aux (l.filter (fun x => isFar x.2)) s.ids s.fars
        exact e ▸ rfl

/-- Requests that are done with change nothing else. -/
theorem reached_only (s : State) (c : Nat) (w : Requester) : s.reached c w = { s with fars := (s.reached c w).fars } := by
  unfold State.reached
  split
  · rfl
  · rfl

end Sys2Proof.Machine
end

