-- ==== Sys2Proof/Tests/Slice0.lean ====
section
/-!
SUPPORT. Tests: words of the manual decode to their instructions; ill-formed terms are refused; the assumptions of the statements are met.
-/

open Sys2Proof Sys2Proof.Machine

set_option exponentiation.threshold 400

/-- Words of integer instructions, written from R64 to R75, and what they stand for. -/
theorem test_words_integer_1 :
    decode 0x01400C7C807ABCDE = .ok (.add { pm := .onTrue, t0 := .left 0, t1 := .write 31, ty := .i16, md := 0x0, ph := 1, ir := true, imm := 0x1abcde }) ∧
    decode 0x025BFC0080BABCDE = .ok (.sub { pm := .onTrue, t0 := .right 191, t1 := .write 0, ty := .i16, md := 0x0, ph := 2, ir := true, imm := 0x1abcde }) ∧
    decode 0x0364D6FC80FABCDE = .ok (.adds { pm := .onTrue, t0 := .pred 77, t1 := .right 191, ty := .i16, md := 0x0, ph := 3, ir := true, imm := 0x1abcde }) ∧
    decode 0x0471F500803ABCDE = .ok (.addsu { pm := .onTrue, t0 := .write 31, t1 := .right 64, ty := .i16, md := 0x0, ph := 0, ir := true, imm := 0x1abcde }) ∧
    decode 0x05725FFC807ABCDE = .ok (.subs { pm := .onTrue, t0 := .gate 5, t1 := .none, ty := .i16, md := 0x0, ph := 1, ir := true, imm := 0x1abcde }) ∧
    decode 0x06480C9480BABCDE = .ok (.subsu { pm := .onTrue, t0 := .left 128, t1 := .gate 5, ty := .i16, md := 0x0, ph := 2, ir := true, imm := 0x1abcde }) ∧
    decode 0x07940CFC44F00001 = .ok (.mul { pm := .onFalse, t0 := .right 64, t1 := .gate 31, ty := .i32, md := 0x4, ph := 3, ir := true, imm := 0x100001 }) ∧
    decode 0x086BF934803ABCDE = .ok (.mulh { pm := .onTrue, t0 := .pred 191, t1 := .pred 77, ty := .i16, md := 0x0, ph := 0, ir := true, imm := 0x1abcde }) ∧
    decode 0x09700AFC807ABCDE = .ok (.mulhu { pm := .onTrue, t0 := .write 0, t1 := .pred 191, ty := .i16, md := 0x0, ph := 1, ir := true, imm := 0x1abcde }) ∧
    decode 0x0AB3F00044B00001 = .ok (.div { pm := .onFalse, t0 := .gate 31, t1 := .left 0, ty := .i32, md := 0x4, ph := 2, ir := true, imm := 0x100001 }) ∧
    decode 0x0B4BF20080FABCDE = .ok (.divu { pm := .onTrue, t0 := .left 191, t1 := .left 128, ty := .i16, md := 0x0, ph := 3, ir := true, imm := 0x1abcde }) ∧
    decode 0x0C7FF2FC803ABCDE = .ok (.rem { pm := .onTrue, t0 := .none, t1 := .left 191, ty := .i16, md := 0x0, ph := 0, ir := true, imm := 0x1abcde }) ∧
    decode 0x0D400C7C807ABCDE = .ok (.remu { pm := .onTrue, t0 := .left 0, t1 := .write 31, ty := .i16, md := 0x0, ph := 1, ir := true, imm := 0x1abcde }) ∧
    decode 0x0E1BFC00C4800000 = .ok (.neg { pm := .always, t0 := .right 191, t1 := .write 0, ty := .i8, md := 0x4, ph := 2, ir := false, imm := 0x0 }) ∧
    decode 0x0F24D6FCC4C00000 = .ok (.abs { pm := .always, t0 := .pred 77, t1 := .right 191, ty := .i8, md := 0x4, ph := 3, ir := false, imm := 0x0 }) ∧
    decode 0x1071F500803ABCDE = .ok (.min { pm := .onTrue, t0 := .write 31, t1 := .right 64, ty := .i16, md := 0x0, ph := 0, ir := true, imm := 0x1abcde }) := by
  decide

/-- More of them. -/
theorem test_words_integer_2 :
    decode 0x11725FFC807ABCDE = .ok (.max { pm := .onTrue, t0 := .gate 5, t1 := .none, ty := .i16, md := 0x0, ph := 1, ir := true, imm := 0x1abcde }) ∧
    decode 0x12480C9480BABCDE = .ok (.minu { pm := .onTrue, t0 := .left 128, t1 := .gate 5, ty := .i16, md := 0x0, ph := 2, ir := true, imm := 0x1abcde }) ∧
    decode 0x13540CFC80FABCDE = .ok (.maxu { pm := .onTrue, t0 := .right 64, t1 := .gate 31, ty := .i16, md := 0x0, ph := 3, ir := true, imm := 0x1abcde }) ∧
    decode 0x14ABF93444300001 = .ok (.addmin { pm := .onFalse, t0 := .pred 191, t1 := .pred 77, ty := .i32, md := 0x4, ph := 0, ir := true, imm := 0x100001 }) ∧
    decode 0x15700AFC807ABCDE = .ok (.land { pm := .onTrue, t0 := .write 0, t1 := .pred 191, ty := .i16, md := 0x0, ph := 1, ir := true, imm := 0x1abcde }) ∧
    decode 0x1673F00080BABCDE = .ok (.lor { pm := .onTrue, t0 := .gate 31, t1 := .left 0, ty := .i16, md := 0x0, ph := 2, ir := true, imm := 0x1abcde }) ∧
    decode 0x174BF20080FABCDE = .ok (.lxor { pm := .onTrue, t0 := .left 191, t1 := .left 128, ty := .i16, md := 0x0, ph := 3, ir := true, imm := 0x1abcde }) ∧
    decode 0x187FF2FC803ABCDE = .ok (.andn { pm := .onTrue, t0 := .none, t1 := .left 191, ty := .i16, md := 0x0, ph := 0, ir := true, imm := 0x1abcde }) ∧
    decode 0x19400C7C40400000 = .ok (.lnot { pm := .onTrue, t0 := .left 0, t1 := .write 31, ty := .i32, md := 0x0, ph := 1, ir := false, imm := 0x0 }) ∧
    decode 0x1A9BFC0044B00001 = .ok (.shl { pm := .onFalse, t0 := .right 191, t1 := .write 0, ty := .i32, md := 0x4, ph := 2, ir := true, imm := 0x100001 }) ∧
    decode 0x1B64D6FC80FABCDE = .ok (.shr { pm := .onTrue, t0 := .pred 77, t1 := .right 191, ty := .i16, md := 0x0, ph := 3, ir := true, imm := 0x1abcde }) ∧
    decode 0x1C71F500803ABCDE = .ok (.sra { pm := .onTrue, t0 := .write 31, t1 := .right 64, ty := .i16, md := 0x0, ph := 0, ir := true, imm := 0x1abcde }) ∧
    decode 0x1D725FFC807ABCDE = .ok (.rotl { pm := .onTrue, t0 := .gate 5, t1 := .none, ty := .i16, md := 0x0, ph := 1, ir := true, imm := 0x1abcde }) ∧
    decode 0x1E480C9440800000 = .ok (.clz { pm := .onTrue, t0 := .left 128, t1 := .gate 5, ty := .i32, md := 0x0, ph := 2, ir := false, imm := 0x0 }) ∧
    decode 0x1F540CFC40C00000 = .ok (.ctz { pm := .onTrue, t0 := .right 64, t1 := .gate 31, ty := .i32, md := 0x0, ph := 3, ir := false, imm := 0x0 }) ∧
    decode 0x206BF93440000000 = .ok (.popc { pm := .onTrue, t0 := .pred 191, t1 := .pred 77, ty := .i32, md := 0x0, ph := 0, ir := false, imm := 0x0 }) := by
  decide

/-- More of them. -/
theorem test_words_integer_3 :
    decode 0x21300AFC00400040 = .ok (.sext { pm := .always, t0 := .write 0, t1 := .pred 191, ty := .i64, md := 0x0, ph := 1, ir := false, imm := 0x40 }) ∧
    decode 0x2233F00000800040 = .ok (.zext { pm := .always, t0 := .gate 31, t1 := .left 0, ty := .i64, md := 0x0, ph := 2, ir := false, imm := 0x40 }) ∧
    decode 0x234BF20040C00000 = .ok (.bswap { pm := .onTrue, t0 := .left 191, t1 := .left 128, ty := .i32, md := 0x0, ph := 3, ir := false, imm := 0x0 }) ∧
    decode 0x243FF2FD40200005 = .ok (.sel { pm := .always, t0 := .none, t1 := .left 191, ty := .f32, md := 0x0, ph := 0, ir := true, imm := 0x5 }) ∧
    decode 0x25400C7C807ABCDE = .ok (.ceq { pm := .onTrue, t0 := .left 0, t1 := .write 31, ty := .i16, md := 0x0, ph := 1, ir := true, imm := 0x1abcde }) ∧
    decode 0x265BFC0080BABCDE = .ok (.cne { pm := .onTrue, t0 := .right 191, t1 := .write 0, ty := .i16, md := 0x0, ph := 2, ir := true, imm := 0x1abcde }) ∧
    decode 0x2764D6FC80FABCDE = .ok (.clt { pm := .onTrue, t0 := .pred 77, t1 := .right 191, ty := .i16, md := 0x0, ph := 3, ir := true, imm := 0x1abcde }) ∧
    decode 0x2871F500803ABCDE = .ok (.cltu { pm := .onTrue, t0 := .write 31, t1 := .right 64, ty := .i16, md := 0x0, ph := 0, ir := true, imm := 0x1abcde }) ∧
    decode 0x29725FFC807ABCDE = .ok (.cle { pm := .onTrue, t0 := .gate 5, t1 := .none, ty := .i16, md := 0x0, ph := 1, ir := true, imm := 0x1abcde }) ∧
    decode 0x2A480C9480BABCDE = .ok (.cleu { pm := .onTrue, t0 := .left 128, t1 := .gate 5, ty := .i16, md := 0x0, ph := 2, ir := true, imm := 0x1abcde }) ∧
    decode 0x2B540CFC80FABCDE = .ok (.ctst { pm := .onTrue, t0 := .right 64, t1 := .gate 31, ty := .i16, md := 0x0, ph := 3, ir := true, imm := 0x1abcde }) ∧
    decode 0x2C6BF93400155555 = .ok (.movi { pm := .onTrue, t0 := .pred 191, t1 := .pred 77, ty := .i64, md := 0x0, ph := 0, ir := false, imm := 0x155555 }) ∧
    decode 0x2D300AFC405FFFFF = .ok (.movhi { pm := .always, t0 := .write 0, t1 := .pred 191, ty := .i32, md := 0x0, ph := 1, ir := false, imm := 0x1fffff }) ∧
    decode 0x2EB3F00000923456 = .ok (.lea { pm := .onFalse, t0 := .gate 31, t1 := .left 0, ty := .i64, md := 0x0, ph := 2, ir := false, imm := 0x123456 }) := by
  decide

/-- Words of float and packet instructions, written from R64 to R75, and what they stand for. -/
theorem test_words_float_packet_1 :
    decode 0x404BF2012F3FFFFF = .ok (.fadd { pm := .onTrue, t0 := .left 191, t1 := .left 128, ty := .f64, md := 0x2f, ph := 0, ir := true, imm := 0x1fffff }) ∧
    decode 0x417FF2FD2F7FFFFF = .ok (.fsub { pm := .onTrue, t0 := .none, t1 := .left 191, ty := .f64, md := 0x2f, ph := 1, ir := true, imm := 0x1fffff }) ∧
    decode 0x42400C7D2FBFFFFF = .ok (.fmul { pm := .onTrue, t0 := .left 0, t1 := .write 31, ty := .f64, md := 0x2f, ph := 2, ir := true, imm := 0x1fffff }) ∧
    decode 0x431BFC01D1E0FFFF = .ok (.fmac { pm := .always, t0 := .right 191, t1 := .write 0, ty := .bf16, md := 0x11, ph := 3, ir := true, imm := 0xffff }) ∧
    decode 0x44A4D6FD8320FFFF = .ok (.fmin { pm := .onFalse, t0 := .pred 77, t1 := .right 191, ty := .f16, md := 0x3, ph := 0, ir := true, imm := 0xffff }) ∧
    decode 0x45B1F5018360FFFF = .ok (.fmax { pm := .onFalse, t0 := .write 31, t1 := .right 64, ty := .f16, md := 0x3, ph := 1, ir := true, imm := 0xffff }) ∧
    decode 0x46325FFE80800000 = .ok (.fabs { pm := .always, t0 := .gate 5, t1 := .none, ty := .e2m1, md := 0x0, ph := 2, ir := false, imm := 0x0 }) ∧
    decode 0x47080C9680C00000 = .ok (.fneg { pm := .always, t0 := .left 128, t1 := .gate 5, ty := .e2m1, md := 0x0, ph := 3, ir := false, imm := 0x0 }) ∧
    decode 0x48940CFD8320FFFF = .ok (.feq { pm := .onFalse, t0 := .right 64, t1 := .gate 31, ty := .f16, md := 0x3, ph := 0, ir := true, imm := 0xffff }) ∧
    decode 0x49ABF9358360FFFF = .ok (.flt { pm := .onFalse, t0 := .pred 191, t1 := .pred 77, ty := .f16, md := 0x3, ph := 1, ir := true, imm := 0xffff }) ∧
    decode 0x4AB00AFD83A0FFFF = .ok (.fle { pm := .onFalse, t0 := .write 0, t1 := .pred 191, ty := .f16, md := 0x3, ph := 2, ir := true, imm := 0xffff }) ∧
    decode 0x4BB3F00183E0FFFF = .ok (.funord { pm := .onFalse, t0 := .gate 31, t1 := .left 0, ty := .f16, md := 0x3, ph := 3, ir := true, imm := 0xffff }) ∧
    decode 0x4C0BF2014F000006 = .ok (.fcvt { pm := .always, t0 := .left 191, t1 := .left 128, ty := .f32, md := 0xf, ph := 0, ir := false, imm := 0x6 }) ∧
    decode 0x4D7FF2FC16400035 = .ok (.fcvti { pm := .onTrue, t0 := .none, t1 := .left 191, ty := .i64, md := 0x16, ph := 1, ir := false, imm := 0x35 }) ∧
    decode 0x4E000C7D18800021 = .ok (.icvtf { pm := .always, t0 := .left 0, t1 := .write 31, ty := .f64, md := 0x18, ph := 2, ir := false, imm := 0x21 }) ∧
    decode 0x4F1BFC01A3C00000 = .ok (.frnd { pm := .always, t0 := .right 191, t1 := .write 0, ty := .f16, md := 0x23, ph := 3, ir := false, imm := 0x0 }) := by
  decide

/-- More of them. -/
theorem test_words_float_packet_2 :
    decode 0x50A4D6FD40000000 = .ok (.frcp { pm := .onFalse, t0 := .pred 77, t1 := .right 191, ty := .f32, md := 0x0, ph := 0, ir := false, imm := 0x0 }) ∧
    decode 0x51B1F50140400000 = .ok (.frsq { pm := .onFalse, t0 := .write 31, t1 := .right 64, ty := .f32, md := 0x0, ph := 1, ir := false, imm := 0x0 }) ∧
    decode 0x52B25FFD40800000 = .ok (.fsqrt { pm := .onFalse, t0 := .gate 5, t1 := .none, ty := .f32, md := 0x0, ph := 2, ir := false, imm := 0x0 }) ∧
    decode 0x53880C9540C00000 = .ok (.fexp2 { pm := .onFalse, t0 := .left 128, t1 := .gate 5, ty := .f32, md := 0x0, ph := 3, ir := false, imm := 0x0 }) ∧
    decode 0x54940CFD40000000 = .ok (.flog2 { pm := .onFalse, t0 := .right 64, t1 := .gate 31, ty := .f32, md := 0x0, ph := 0, ir := false, imm := 0x0 }) ∧
    decode 0x55ABF93540400000 = .ok (.ftanh { pm := .onFalse, t0 := .pred 191, t1 := .pred 77, ty := .f32, md := 0x0, ph := 1, ir := false, imm := 0x0 }) ∧
    decode 0x56300AFECA800015 = .ok (.bqnt { pm := .always, t0 := .write 0, t1 := .pred 191, ty := .mx8, md := 0xa, ph := 2, ir := false, imm := 0x15 }) ∧
    decode 0x5773F002D2C00015 = .ok (.bdeq { pm := .onTrue, t0 := .gate 31, t1 := .left 0, ty := .mx8, md := 0x12, ph := 3, ir := false, imm := 0x15 }) ∧
    decode 0x580BF20142000000 = .ok (.xsacc { pm := .always, t0 := .left 191, t1 := .left 128, ty := .f32, md := 0x2, ph := 0, ir := false, imm := 0x0 }) ∧
    decode 0x593FF2FDCE400000 = .ok (.xsfin { pm := .always, t0 := .none, t1 := .left 191, ty := .bf16, md := 0xe, ph := 1, ir := false, imm := 0x0 }) ∧
    decode 0x5A000C7D87800000 = .ok (.psum { pm := .always, t0 := .left 0, t1 := .write 31, ty := .f16, md := 0x7, ph := 2, ir := false, imm := 0x0 }) ∧
    decode 0x5B1BFC0000C00000 = .ok (.pmax { pm := .always, t0 := .right 191, t1 := .write 0, ty := .i64, md := 0x0, ph := 3, ir := false, imm := 0x0 }) ∧
    decode 0x5C64D6FD03000000 = .ok (.pmin { pm := .onTrue, t0 := .pred 77, t1 := .right 191, ty := .f64, md := 0x3, ph := 0, ir := false, imm := 0x0 }) ∧
    decode 0x5D31F5004040000F = .ok (.plsh { pm := .always, t0 := .write 31, t1 := .right 64, ty := .i32, md := 0x0, ph := 1, ir := false, imm := 0xf }) ∧
    decode 0x5E325FFD40800000 = .ok (.pperm { pm := .always, t0 := .gate 5, t1 := .none, ty := .f32, md := 0x0, ph := 2, ir := false, imm := 0x0 }) ∧
    decode 0x5F080C9440C00073 = .ok (.pbcast { pm := .always, t0 := .left 128, t1 := .gate 5, ty := .i32, md := 0x0, ph := 3, ir := false, imm := 0x73 }) := by
  decide

/-- More of them. -/
theorem test_words_float_packet_3 :
    decode 0x60140CFC00000007 = .ok (.pext { pm := .always, t0 := .right 64, t1 := .gate 31, ty := .i64, md := 0x0, ph := 0, ir := false, imm := 0x7 }) ∧
    decode 0x612BF93540400007 = .ok (.pins { pm := .always, t0 := .pred 191, t1 := .pred 77, ty := .f32, md := 0x0, ph := 1, ir := false, imm := 0x7 }) ∧
    decode 0x62B00AFC00800000 = .ok (.pjoin { pm := .onFalse, t0 := .write 0, t1 := .pred 191, ty := .i64, md := 0x0, ph := 2, ir := false, imm := 0x0 }) ∧
    decode 0x6333F00040C00003 = .ok (.psplit { pm := .always, t0 := .gate 31, t1 := .left 0, ty := .i32, md := 0x0, ph := 3, ir := false, imm := 0x3 }) ∧
    decode 0x640BF20100000000 = .ok (.plen { pm := .always, t0 := .left 191, t1 := .left 128, ty := .f64, md := 0x0, ph := 0, ir := false, imm := 0x0 }) ∧
    decode 0x653FF2FC006000A5 = .ok (.pmask { pm := .always, t0 := .none, t1 := .left 191, ty := .i64, md := 0x0, ph := 1, ir := true, imm := 0xa5 }) := by
  decide

/-- Words of lut and matrix instructions, written from R64 to R75, and what they stand for. -/
theorem test_words_lut_matrix :
    decode 0x70000C7C400007E0 = .ok (.lutx { pm := .always, t0 := .left 0, t1 := .write 31, ty := .i32, md := 0x0, ph := 0, ir := false, imm := 0x7e0 }) ∧
    decode 0x711BFC000040281F = .ok (.fsmst { pm := .always, t0 := .right 191, t1 := .write 0, ty := .i64, md := 0x0, ph := 1, ir := false, imm := 0x281f }) ∧
    decode 0x7264D6FC80BABCDE = .ok (.bext { pm := .onTrue, t0 := .pred 77, t1 := .right 191, ty := .i16, md := 0x0, ph := 2, ir := true, imm := 0x1abcde }) ∧
    decode 0x7371F50080FABCDE = .ok (.bdep { pm := .onTrue, t0 := .write 31, t1 := .right 64, ty := .i16, md := 0x0, ph := 3, ir := true, imm := 0x1abcde }) ∧
    decode 0x74325FFC003FFFFF = .ok (.hashx { pm := .always, t0 := .gate 5, t1 := .none, ty := .i64, md := 0x0, ph := 0, ir := true, imm := 0x1fffff }) ∧
    decode 0x78080C96C0000085 = .ok (.mma { pm := .always, t0 := .left 128, t1 := .gate 5, ty := .mx8, md := 0x0, ph := 0, ir := false, imm := 0x85 }) ∧
    decode 0x79540CFC0040003F = .ok (.ldst { pm := .onTrue, t0 := .right 64, t1 := .gate 31, ty := .i64, md := 0x0, ph := 1, ir := false, imm := 0x3f }) ∧
    decode 0x7A2BF93400800000 = .ok (.mswap { pm := .always, t0 := .pred 191, t1 := .pred 77, ty := .i64, md := 0x0, ph := 2, ir := false, imm := 0x0 }) ∧
    decode 0x7B300AFC00C00003 = .ok (.mzero { pm := .always, t0 := .write 0, t1 := .pred 191, ty := .i64, md := 0x0, ph := 3, ir := false, imm := 0x3 }) ∧
    decode 0x7C33F0000000003B = .ok (.mdrain { pm := .always, t0 := .gate 31, t1 := .left 0, ty := .i64, md := 0x0, ph := 0, ir := false, imm := 0x3b }) ∧
    decode 0x7D0BF200004001AA = .ok (.tstat { pm := .always, t0 := .left 191, t1 := .left 128, ty := .i64, md := 0x0, ph := 1, ir := false, imm := 0x1aa }) ∧
    decode 0x7E3FF2FC0080063F = .ok (.tset { pm := .always, t0 := .none, t1 := .left 191, ty := .i64, md := 0x0, ph := 2, ir := false, imm := 0x63f }) := by
  decide

/-- Words of router instructions, written from R64 to R75, and what they stand for. -/
theorem test_words_router_1 :
    decode 0x80400C7C00000000 = .ok (.mov { pm := .onTrue, t0 := .left 0, t1 := .write 31, ty := .i64, cf := 0, imm := 0x0 }) ∧
    decode 0x811BFC00000FFD03 = .ok (.mov4 { pm := .always, t0 := .right 191, t1 := .write 0, ty := .i64, cf := 0, imm := 0xffd03 }) ∧
    decode 0x8224D6FC00000000 = .ok (.steer { pm := .always, t0 := .pred 77, t1 := .right 191, ty := .i64, cf := 0, imm := 0x0 }) ∧
    decode 0x8331F50001000000 = .ok (.gate { pm := .always, t0 := .write 31, t1 := .right 64, ty := .i64, cf := 1, imm := 0x0 }) ∧
    decode 0x84325FFC00000000 = .ok (.merge { pm := .always, t0 := .gate 5, t1 := .none, ty := .i64, cf := 0, imm := 0x0 }) ∧
    decode 0x85880C9400000000 = .ok (.mrga { pm := .onFalse, t0 := .left 128, t1 := .gate 5, ty := .i64, cf := 0, imm := 0x0 }) ∧
    decode 0x86140CFC02000000 = .ok (.carry { pm := .always, t0 := .right 64, t1 := .gate 31, ty := .i64, cf := 2, imm := 0x0 }) ∧
    decode 0x876BF93401000000 = .ok (.invar { pm := .onTrue, t0 := .pred 191, t1 := .pred 77, ty := .i64, cf := 1, imm := 0x0 }) ∧
    decode 0x88300AFC43800001 = .ok (.loopgen { pm := .always, t0 := .write 0, t1 := .pred 191, ty := .i32, cf := 3, imm := 0x800001 }) ∧
    decode 0x89B3F00001ABCDEF = .ok (.repeatN { pm := .onFalse, t0 := .gate 31, t1 := .left 0, ty := .i64, cf := 1, imm := 0xabcdef }) ∧
    decode 0x8A4BF20000000000 = .ok (.cand { pm := .onTrue, t0 := .left 191, t1 := .left 128, ty := .i64, cf := 0, imm := 0x0 }) ∧
    decode 0x8B3FF2FC00000000 = .ok (.cor { pm := .always, t0 := .none, t1 := .left 191, ty := .i64, cf := 0, imm := 0x0 }) ∧
    decode 0x8C000C7C00000000 = .ok (.cnot { pm := .always, t0 := .left 0, t1 := .write 31, ty := .i64, cf := 0, imm := 0x0 }) ∧
    decode 0x8D1BFC0000000000 = .ok (.cxor { pm := .always, t0 := .right 191, t1 := .write 0, ty := .i64, cf := 0, imm := 0x0 }) ∧
    decode 0x8E24D6FCC00FF0F1 = .ok (.cdat { pm := .always, t0 := .pred 77, t1 := .right 191, ty := .i8, cf := 0, imm := 0xff0f1 }) ∧
    decode 0x8F31FFFC00000002 = .ok (.split { pm := .always, t0 := .write 31, t1 := .none, ty := .i64, cf := 0, imm := 0x2 }) := by
  decide

/-- More of them. -/
theorem test_words_router_2 :
    decode 0x90325FFC01000003 = .ok (.omerge { pm := .always, t0 := .gate 5, t1 := .none, ty := .i64, cf := 1, imm := 0x3 }) ∧
    decode 0x913FFFFC01000000 = .ok (.sink { pm := .always, t0 := .none, t1 := .none, ty := .i64, cf := 1, imm := 0x0 }) := by
  decide

/-- Words of memory instructions, written from R64 to R75, and what they stand for. -/
theorem test_words_memory :
    decode 0xA0540CFD94000018 = .ok (.ld { pm := .onTrue, t0 := .right 64, t1 := .gate 31, sz := 3, sc := 1, ord := 1, lsid := 0, off := 0x18 }) ∧
    decode 0xA1BFF9343BFFFFFF = .ok (.st { pm := .onFalse, t0 := .none, t1 := .pred 77, sz := 0, sc := 3, ord := 2, lsid := 31, off := 0x1fffff }) ∧
    decode 0xA2300AFE24200020 = .ok (.ldp { pm := .always, t0 := .write 0, t1 := .pred 191, sz := 4, sc := 2, ord := 1, lsid := 1, off := 0x20 }) ∧
    decode 0xA37FF00200F00000 = .ok (.stp { pm := .onTrue, t0 := .none, t1 := .left 0, sz := 4, sc := 0, ord := 0, lsid := 7, off := 0x100000 }) ∧
    decode 0xA48BF2012C400004 = .ok (.ldfe { pm := .onFalse, t0 := .left 191, t1 := .left 128, sz := 2, sc := 2, ord := 3, lsid := 2, off := 0x4 }) ∧
    decode 0xA53FF2FD98600008 = .ok (.stfe { pm := .always, t0 := .none, t1 := .left 191, sz := 3, sc := 1, ord := 2, lsid := 3, off := 0x8 }) ∧
    decode 0xA67FFC7EA0800080 = .ok (.lnemp { pm := .onTrue, t0 := .none, t1 := .write 31, sz := 5, sc := 2, ord := 0, lsid := 4, off := 0x80 }) ∧
    decode 0xA7BFFC0288A00000 = .ok (.lnful { pm := .onFalse, t0 := .none, t1 := .write 0, sz := 5, sc := 0, ord := 2, lsid := 5, off := 0x0 }) ∧
    decode 0xA824D6FDA8CBFFF8 = .ok (.amo { pm := .always, t0 := .pred 77, t1 := .right 191, sz := 3, sc := 2, ord := 2, lsid := 6, off := 0xbfff8 }) ∧
    decode 0xA971F5013D000010 = .ok (.cas { pm := .onTrue, t0 := .write 31, t1 := .right 64, sz := 2, sc := 3, ord := 3, lsid := 8, off := 0x10 }) ∧
    decode 0xAAB25FFC00000000 = .ok (.fence { pm := .onFalse, t0 := .gate 5, t1 := .none, sz := 0, sc := 0, ord := 0, lsid := 0, off := 0x0 }) ∧
    decode 0xAB3FFC9680001000 = .ok (.pref { pm := .always, t0 := .none, t1 := .gate 5, sz := 5, sc := 0, ord := 0, lsid := 0, off := 0x1000 }) ∧
    decode 0xAC540CFD81050040 = .ok (.rmw { pm := .onTrue, t0 := .right 64, t1 := .gate 31, sz := 3, sc := 0, ord := 0, lsid := 8, off := 0x50040 }) := by
  decide

/-- Words of engine instructions, written from R64 to R75, and what they stand for. -/
theorem test_words_engine :
    decode 0xC02BF07FFC000241 = .ok (.sbind { pm := .always, t0 := .pred 191, flg := 0x1f, wsem := 0xff, wthr := 0x0, ssem := 0x9, sinc := 1 }) ∧
    decode 0xC170002C0FFFBFC0 = .ok (.sfree { pm := .onTrue, t0 := .write 0, flg := 0xb, wsem := 0x3, wthr := 0xffe, ssem := 0xff, sinc := 0 }) ∧
    decode 0xC2B3F01FFC000140 = .ok (.tcopy { pm := .onFalse, t0 := .gate 31, flg := 0x7, wsem := 0xff, wthr := 0x0, ssem := 0x5, sinc := 0 }) ∧
    decode 0xC30BF80408004240 = .ok (.tgath { pm := .always, t0 := .left 191, flg := 0x201, wsem := 0x2, wthr := 0x1, ssem := 0x9, sinc := 0 }) ∧
    decode 0xC47FF017FC003FC0 = .ok (.tscat { pm := .onTrue, t0 := .none, flg := 0x5, wsem := 0xff, wthr := 0x0, ssem := 0xff, sinc := 0 }) ∧
    decode 0xC5800007FBFFC1FF = .ok (.board { pm := .onFalse, t0 := .left 0, flg := 0x1, wsem := 0xfe, wthr := 0xfff, ssem := 0x7, sinc := 63 }) ∧
    decode 0xC61BF003FC000001 = .ok (.migr { pm := .always, t0 := .right 191, flg := 0x0, wsem := 0xff, wthr := 0x0, ssem := 0x0, sinc := 1 }) ∧
    decode 0xC764D800040027C0 = .ok (.msend { pm := .onTrue, t0 := .pred 77, flg := 0x200, wsem := 0x1, wthr := 0x0, ssem := 0x9f, sinc := 0 }) ∧
    decode 0xC8B1F00020137FC0 = .ok (.swait { pm := .onFalse, t0 := .write 31, flg := 0x0, wsem := 0x8, wthr := 0x4d, ssem := 0xff, sinc := 0 }) ∧
    decode 0xC9325003FC000221 = .ok (.ssig { pm := .always, t0 := .gate 5, flg := 0x0, wsem := 0xff, wthr := 0x0, ssem := 0x8, sinc := 33 }) ∧
    decode 0xCA48080020030200 = .ok (.sset { pm := .onTrue, t0 := .left 128, flg := 0x200, wsem := 0x8, wthr := 0xc, ssem := 0x8, sinc := 0 }) ∧
    decode 0xCB94000FFC0000C1 = .ok (.kick { pm := .onFalse, t0 := .right 64, flg := 0x3, wsem := 0xff, wthr := 0x0, ssem := 0x3, sinc := 1 }) ∧
    decode 0xCC2BF00FFC003FC0 = .ok (.rspeed { pm := .always, t0 := .pred 191, flg := 0x3, wsem := 0xff, wthr := 0x0, ssem := 0xff, sinc := 0 }) ∧
    decode 0xCD70004FFC003FC0 = .ok (.repl { pm := .onTrue, t0 := .write 0, flg := 0x13, wsem := 0xff, wthr := 0x0, ssem := 0xff, sinc := 0 }) := by
  decide

/-- Words of block instructions, written from R64 to R75, and what they stand for. -/
theorem test_words_block :
    decode 0xE0BFFFFC40070000 = .ok (.exit { pm := .onFalse, exn := 0, off := 0x800e0 }) ∧
    decode 0xE13FFFFC80000000 = .ok (.exiti { pm := .always, exn := 1, off := 0x0 }) ∧
    decode 0xE27FFFFD40071000 = .ok (.call { pm := .onTrue, exn := 2, off := 0x800e2 }) ∧
    decode 0xE3BFFFFD80000000 = .ok (.calli { pm := .onFalse, exn := 3, off := 0x0 }) ∧
    decode 0xE43FFFFE00000000 = .ok (.ret { pm := .always, exn := 4, off := 0x0 }) ∧
    decode 0xE57FFFFC00000112 = .ok (.trap { pm := .onTrue, code := 0x112 }) ∧
    decode 0xE6BFFFFF40073000 = .ok (.yield { pm := .onFalse, exn := 6, off := 0x800e6 }) ∧
    decode 0xE73FFFFC00000F07 = .ok (.brk { pm := .always, code := 0xf07 }) := by
  decide

/-- Words of system instructions, written from R64 to R75, and what they stand for. -/
theorem test_words_system :
    decode 0xF033F00041400000 = .ok (.sysrd { pm := .always, t0 := .gate 31, t1 := .left 0, sysno := 0x105 }) ∧
    decode 0xF14BF20140C00000 = .ok (.syswr { pm := .onTrue, t0 := .left 191, t1 := .left 128, sysno := 0x503 }) ∧
    decode 0xF2BFF2FC00000000 = .ok (.tsget { pm := .onFalse, t0 := .none, t1 := .left 191, sysno := 0x0 }) ∧
    decode 0xF3000C7C00000000 = .ok (.tret { pm := .always, t0 := .left 0, t1 := .write 31, sysno := 0x0 }) ∧
    decode 0xF45BFC0000000000 = .ok (.tlbinv { pm := .onTrue, t0 := .right 191, t1 := .write 0, sysno := 0x0 }) ∧
    decode 0xF5A4D6FC00000000 = .ok (.keyrev { pm := .onFalse, t0 := .pred 77, t1 := .right 191, sysno := 0x0 }) ∧
    decode 0xF631F50000000000 = .ok (.ctxsv { pm := .always, t0 := .write 31, t1 := .right 64, sysno := 0x0 }) ∧
    decode 0xF7725FFC00000000 = .ok (.ctxld { pm := .onTrue, t0 := .gate 5, t1 := .none, sysno := 0x0 }) ∧
    decode 0xF8880C9580800000 = .ok (.cfgld { pm := .onFalse, t0 := .left 128, t1 := .gate 5, sysno := 0x602 }) ∧
    decode 0xF9140CFC00000000 = .ok (.linkq { pm := .always, t0 := .right 64, t1 := .gate 31, sysno := 0x0 }) ∧
    decode 0xFA6BF93401000000 = .ok (.evwait { pm := .onTrue, t0 := .pred 191, t1 := .pred 77, sysno := 0x4 }) := by
  decide

/-! ## Ill-formed terms, one for each check of WellFormed -/

/-- Format-A fields that every integer instruction accepts. -/
def Tests.fa : FmtA := { pm := .always, t0 := .right 1, t1 := .write 0, ty := .i64, md := 0, ph := 0, ir := false, imm := 0 }
/-- Format-C, format-M and format-E fields that many instructions accept. -/
def Tests.fc : FmtC := { pm := .always, t0 := .right 1, t1 := .none, ty := .i64, cf := 0, imm := 0 }
def Tests.fm : FmtM := { pm := .always, t0 := .left 1, t1 := .none, sz := 3, sc := 3, ord := 1, lsid := 0, off := 24 }
def Tests.fe : FmtE := { pm := .always, t0 := .none, flg := 0, wsem := 0xFF, wthr := 0, ssem := 9, sinc := 1 }
def Tests.fs : FmtS := { pm := .always, t0 := .left 9, t1 := .none, sysno := 0 }

open Tests in
theorem test_wellFormed_accepts : (Instr.add fa).wellFormed = true ∧ (Instr.steer fc).wellFormed = true ∧
    (Instr.ld fm).wellFormed = true ∧ (Instr.tcopy fe).wellFormed = true ∧ (Instr.tsget fs).wellFormed = true := by decide

open Tests in
/-- R64: instruction 192 does not exist; R70: the reserved codes of T2. -/
theorem test_wellFormed_refuses_targets : (Instr.add { fa with t0 := .right 192 }).targetFault = true ∧
    (Instr.mov4 { fc with imm := 0x3C0 }).targetFault = true ∧ (Instr.add { fa with t0 := .right 192 }).wellFormed = false := by decide

open Tests in
/-- R65: a target that the instruction does not drive. -/
theorem test_wellFormed_refuses_undriven : (Instr.st { fm with ord := 2 }).undrivenFault = true ∧
    (Instr.st { fm with ord := 2 }).wellFormed = false ∧ (Instr.st { fm with ord := 2, t0 := .none }).wellFormed = true := by decide

open Tests in
/-- R67, R70, R69, R71: bits an instruction does not define. -/
theorem test_wellFormed_refuses_fields : (Instr.add { fa with imm := 1 }).fieldFault = true ∧
    (Instr.steer { fc with cf := 1 }).fieldFault = true ∧ (Instr.amo { fm with off := 0xC0000 }).fieldFault = true ∧
    (Instr.tcopy { fe with wthr := 1 }).fieldFault = true ∧ (Instr.tcopy { fe with ssem := 0xFF }).fieldFault = true ∧
    (Instr.pmask { fa with ir := true, imm := 0x100 }).fieldFault = true := by decide

open Tests in
/-- R94, R128, R149, R185, R202, R201: types, modes, PM, ranges and combinations. -/
theorem test_wellFormed_refuses_combinations : (Instr.add { fa with ty := .f32 }).comboFault = true ∧
    (Instr.fadd { fa with ty := .f32, md := 0x38 }).comboFault = true ∧ (Instr.add { fa with md := 4 }).comboFault = true ∧
    (Instr.neg { fa with ir := true }).comboFault = true ∧ (Instr.sel { fa with pm := .onTrue }).comboFault = true ∧
    (Instr.sext { fa with imm := 65 }).comboFault = true ∧ (Instr.loopgen fc).comboFault = true ∧
    (Instr.ld { fm with ord := 2 }).comboFault = true ∧ (Instr.fence fm).comboFault = true ∧
    (Instr.swait fe).comboFault = true ∧ (Instr.cfgld { fs with sysno := 0x604 }).comboFault = true ∧
    (Instr.trap { pm := .always, code := 0x13 }).comboFault = true := by decide

/-- R1, R394: units that do not exist. -/
theorem test_wellFormed_refuses_units : (Instr.nodeRetire 64 0).wellFormed = false ∧ (Instr.nodeRetire 63 192).wellFormed = false ∧
    (Instr.linkRetrainGo 416).wellFormed = false ∧ (Instr.nodeRetire 63 191).wellFormed = true := by decide

/-- R78: the order of a word's checks, each under its own reason. -/
theorem test_decode_rejects : decode 0 = .error .opcode ∧ decode 0x2F00000000000000 = .error .opcode ∧
    decode 0x01D01C0000200001 = .error .predicate ∧ decode 0x010C0C0000200001 = .error .target ∧
    decode 0xA1001FFDB4000018 = .error .consumer ∧ decode 0xE03FFFFC00000001 = .error .reserved ∧
    decode 0x01101C03C0200001 = .error .combination ∧ decode 0x01101C03C0000001 = .error .reserved := by decide

/-- A table word is 64 bits; a longer one is none of ours (R66). -/
theorem test_table_word : decodeTableWord 64 0x0110_1C00_0020_0001 = some (.add { Tests.fa with ir := true, imm := 1 }) ∧
    decodeTableWord 72 0x0110_1C00_0020_0001 = none ∧ decodeTableWord 64 0 = none := by decide

/-! ## Small states -/

/-- A queue of tokens that have arrived. -/
def Tests.q (l : List Token) : Queue := { toks := l.map (fun t => { tok := t, at_ := 3 }) }
/-- A 1-lane i64 packet, and control tokens. -/
def Tests.num (n : Nat) : Token := mkPkt .i64 [n]
def Tests.yes : Token := .ctl true false 0
def Tests.no : Token := .ctl false false 0

open Tests in
/-- Task 1 in cluster 0 with a block of 192 nodes, in cycle 9; node i is selected, and holds these tokens and this state. -/
def Tests.at_ (i : Nat) (l r p : List Token) (st : NodeState) : State :=
  { now := 9, sel := (0, i), ids := 7
    tasks := [(1, { id := 1, place := .region 0 })]
    clusters := [(0, {
      task := some 1
      region := {
        blk := 0x4000
        img := some { nins := 192, nrd := 0, nwr := 32, ii := 1, nex := 1, smask := 0, priv := true, rpt := false, strict := false
                      save := 0, nlf := 0, reads := [], writes := [], luts := [], words := [] }
        nodes := [(i, { l := q l, r := q r, p := q p, st := st })] } })] }

/-- Every module is down, and the tables of job 0 lie behind another die. -/
def Tests.cut (s : State) : State :=
  { s with links := (List.range 416).map (fun n => (n, { up := false })), hub := { s.hub with jobs := s.hub.jobs.set 0 { root := 2 ^ 38 } } }

/-- Node 5 with two numbers and a true predicate. -/
abbrev Tests.two : State := Tests.at_ 5 [Tests.num 7] [Tests.num 64] [Tests.yes] .idle

/-- The operands of the selected node. -/
def Tests.hs (pm : Pm) (uL uR uP : Bool) (s : State) : Heads := (s.heads pm uL uR uP).getD ⟨false, [], none, none, none⟩

def Tests.isReadyA (f : FmtA) (u : Nat) (uL uR uP : Bool) (s : State) : Bool :=
  s.live && s.unitFree u && (s.heads f.pm uL uR uP).isSome && (Tests.hs f.pm uL uR uP s).pass && s.phase f.ph &&
    s.selRegion.accepts s.now f.t0 && s.selRegion.accepts s.now f.t1

theorem Tests.readyA {f : FmtA} {u : Nat} {uL uR uP : Bool} {s : State} (h : isReadyA f u uL uR uP s = true) :
    ReadyA f u uL uR uP (hs f.pm uL uR uP s) s := by
  simp only [isReadyA, Bool.and_eq_true] at h
  obtain ⟨⟨⟨⟨⟨⟨a, b⟩, c⟩, d⟩, e⟩, g⟩, k⟩ := h
  refine ⟨a, b, ?_, d, e, by simp [State.room, g, k]⟩
  obtain ⟨x, hx⟩ := Option.isSome_iff_exists.mp c
  simp [hs, hx]

def Tests.isReady (pm : Pm) (uL uR uP : Bool) (ts : List Target) (s : State) : Bool :=
  s.live && (s.heads pm uL uR uP).isSome && (Tests.hs pm uL uR uP s).pass && ts.all (fun t => s.selRegion.accepts s.now t)

theorem Tests.ready {pm : Pm} {uL uR uP : Bool} {ts : List Target} {s : State} (h : isReady pm uL uR uP ts s = true) :
    Ready pm uL uR uP ts (hs pm uL uR uP s) s := by
  simp only [isReady, Bool.and_eq_true, List.all_eq_true] at h
  obtain ⟨⟨⟨a, b⟩, c⟩, d⟩ := h
  refine ⟨a, ?_, c, d⟩
  obtain ⟨x, hx⟩ := Option.isSome_iff_exists.mp b
  simp [hs, hx]

/-! ## What the statements assume is met -/

open Tests in
theorem witness_DecodeAndEncodeAgree : (∃ i : Instr, i.encodable = true) ∧ ∃ (w : Word) (i : Instr), decode w = .ok i :=
  ⟨⟨.add fa, by decide⟩, 0x01101C0000200001, .add { fa with ir := true, imm := 1 }, by decide⟩

open Tests in
/-- Every kind of move: a slot with a word, an empty slot, an event, one that names no unit, an empty agenda, a word that does not
decode. -/
theorem witness_StepRunsDecoded :
    (∃ (s : State) (c i : Nat) (rest : List Move) (w : Word) (x : Instr), s.agenda = .node c i :: rest ∧ s.fetch c i = some w ∧ decode w = .ok x) ∧
    (∃ (s : State) (c i : Nat) (rest : List Move), s.agenda = .node c i :: rest ∧ s.fetch c i = none) ∧
    (∃ (s : State) (e : Instr) (rest : List Move), s.agenda = .event e :: rest ∧ e.opcode = 0 ∧ e.wellFormed = true) ∧
    (∃ (s : State) (e : Instr) (rest : List Move), s.agenda = .event e :: rest ∧ ¬(e.opcode = 0 ∧ e.wellFormed = true)) ∧
    (∃ s : State, s.agenda = []) ∧
    (∃ (s : State) (f : Fault), step s = .fault f ∧ ∃ c i rest w e, s.agenda = .node c i :: rest ∧ s.fetch c i = some w ∧ decode w = .error e) :=
  ⟨⟨State.reset.withFetchWord 64 0x01101C0000200001, 0, 0, [], 0x01101C0000200001, .add { fa with ir := true, imm := 1 }, by decide,
      by decide, by decide⟩, ⟨{ State.reset with agenda := [.node 0 0] }, 0, 0, [], by decide, by decide⟩,
    ⟨{ State.reset with agenda := [.event (.nodeRetire 0 0)] }, .nodeRetire 0 0, [], rfl, rfl, by decide⟩,
    ⟨{ State.reset with agenda := [.event (.nodeRetire 64 0)] }, .nodeRetire 64 0, [], rfl, by decide⟩, ⟨State.reset, rfl⟩,
    ⟨State.reset.withFetchWord 64 0x2F00000000000000, .undecodable, by rfl, 0, 0, [], 0x2F00000000000000, .opcode, by decide, by decide, by decide⟩⟩

open Tests in
theorem witness_StepKeepsMemory : ∃ s t : State, s.memOk ∧ s.histOk ∧ step s = .next t :=
  ⟨{ two with agenda := [.node 0 6] }, two, rfl, ⟨List.Pairwise.nil, nofun⟩, rfl⟩

open Tests in
/-- A firing that removes two operands and emits one token; its frame has no other hypothesis. -/
theorem witness_FiringMovesTokens : ∃ (f : Fire) (k : Nat), (∀ u n b, f.post u n b = u) ∧ f.pops.Nodup ∧ (∀ x ∈ f.pops, x < 3) ∧ k < 3 :=
  ⟨{ pops := [0, 2], outs := [(.left 0, num 1)] }, 2, fun _ _ _ => rfl, by decide, by decide, by decide⟩

open Tests in
/-- A firing discards under a false predicate; it waits for an operand, a unit, a phase or a target. -/
theorem witness_PredicatesAndFullTargets :
    (∃ i f lat op, intTwo i = some (f, lat, op)) ∧ State.reset.live = false ∧
    (at_ 5 [num 7] [] [] .idle).heads .always true true false = none ∧
    (let s := at_ 5 [num 7] [num 8] [no] .idle
     s.live = true ∧ s.unitFree 0 = true ∧ ∃ h, s.heads .onTrue true true false = some h ∧ h.pass = false) ∧
    (let s := two.modRegion 0 (fun r => { r with busy := [(4, 20)] })
     s.live = true ∧ s.unitFree 0 = false) ∧
    (let s := two.modRegion 0 (fun r => { r with img := r.img.map (fun m => { m with ii := 3 }) })
     s.live = true ∧ s.unitFree 0 = true ∧ s.phase 1 = false) ∧
    (let s := two.modNode 0 4 (fun n => { n with l := q (List.replicate 9 (num 1)) })
     s.selRegion.accepts s.now (.left 4) = false) :=
  ⟨⟨.add fa, fa, 1, _, rfl⟩, by decide, by decide, by decide, by decide, by decide, by decide⟩

open Tests in
theorem witness_IntegerResults :
    (∃ (i : Instr) (f : FmtA) (lat : Nat) (op : (n : Nat) → BitVec n → BitVec n → BitVec n) (h : Heads) (s : State), intTwo i = some (f, lat, op) ∧ ReadyA f 0 true (!f.ir) false h s) ∧
    (∃ i f op h s, intOne i = some (f, op) ∧ ReadyA f 0 true false false h s) ∧
    (∃ i f op h s, intDiv i = some (f, op) ∧ ReadyA f 0 true (!f.ir) false h s) :=
  ⟨⟨.shl fa, fa, 1, _, _, two, rfl, readyA (by decide)⟩, ⟨.neg fa, fa, _, _, two, rfl, readyA (by decide)⟩,
    ⟨.divu { fa with ir := true }, { fa with ir := true }, _, _, two, rfl, readyA (by decide)⟩⟩

/-- One and two, in f32. -/
abbrev Tests.flt : State := Tests.at_ 5 [mkPkt .f32 [0x3F800000]] [mkPkt .f32 [0x40000000]] [Tests.no] .idle
def Tests.ff : FmtA := { Tests.fa with ty := .f32 }

open Tests in
theorem witness_Comparisons :
    (∃ i f op h s, intCmp i = some (f, op) ∧ ReadyA f 0 true (!f.ir) false h s) ∧
    (∃ i f op h s, floatCmp i = some (f, op) ∧ ReadyA f 0 true (!f.ir) false h s) :=
  ⟨⟨.clt fa, fa, _, _, two, rfl, readyA (by decide)⟩, ⟨.flt ff, ff, _, _, flt, rfl, readyA (by decide)⟩⟩

open Tests in
/-- sel, addmin with and without an immediate, movi, lea with and without one. -/
theorem witness_SelectBoundConstantAddress :
    (∃ (f : FmtA) (h : Heads) (s : State), ReadyA f 0 true (!f.ir) true h s) ∧ (∃ (f : FmtA) (h : Heads) (s : State), ReadyA f 0 true true false h s ∧ f.ir = true) ∧
    (∃ (f : FmtA) (h : Heads) (s : State), ReadyA f 0 true true false h s ∧ f.ty = .i64 ∧ f.ir = false) ∧ (∃ (f : FmtA) (h : Heads) (s : State), f.ty = .i64 ∧ f.ir = true ∧ ReadyA f 0 true false false h s) :=
  ⟨⟨fa, _, two, readyA (by decide)⟩, ⟨{ fa with ir := true, imm := 0x1FFFFF }, _, two, readyA (by decide), rfl⟩,
    ⟨fa, _, two, readyA (by decide), rfl, rfl⟩, ⟨{ fa with ir := true, imm := 0x1FFFFF }, _, two, rfl, rfl, readyA (by decide)⟩⟩

open Tests in
/-- fadd, fmin, fabs and frcp; integers have no special value. -/
theorem witness_FloatArithmetic :
    (∃ i f op h s, floatTwo i = some (f, op) ∧ ReadyA f 0 true (!f.ir) false h s) ∧
    (∃ (f : FmtA) (h : Heads) (s : State), f.ty ∈ [Ty.f64, .f32, .f16, .bf16, .e4m3, .e5m2, .e2m1] ∧ ReadyA f 0 true false false h s) ∧
    (∃ i f h s, specialOf i = some f ∧ ReadyA f 0 true false false h s) :=
  ⟨⟨.fadd ff, ff, _, _, flt, rfl, readyA (by decide)⟩, ⟨ff, _, flt, by decide, readyA (by decide)⟩,
    ⟨.frcp ff, ff, _, flt, rfl, readyA (by decide)⟩⟩

/-- 1 and 2 as rationals; the greatest finite f32 code and a subnormal one of e2m1; three in the exact sum. -/
theorem witness_ExactValues :
    (∃ a b x y, ratOf a = some x ∧ ratOf b = some y) ∧
    (0x7F7FFFFF < 2 ^ (1 + Num.expBits .f32 + Num.fracBits .f32) ∧ Num.isNan (Num.decodeF .f32 0x7F7FFFFF) = false) ∧
    (1 < 2 ^ (1 + Num.expBits .e2m1 + Num.fracBits .e2m1) ∧ Num.isNan (Num.decodeF .e2m1 1) = false) ∧
    (∃ a b : Int, a.natAbs < 2 ^ 319 - 1 ∧ b.natAbs < 2 ^ 319 - 1 ∧ (a + b).natAbs < 2 ^ 319 - 1) :=
  ⟨⟨.fin false 1 0, .fin true 1 1, _, _, rfl, rfl⟩, by decide, by decide, ⟨2, -5, by decide⟩⟩

/-- The magnitude is `k` units of 2^q and something, the neighbour lies at `n` units, the format's top at `top`. -/
def Tests.grid (t : Ty) (k n : Nat) (q : ℤ) (ge : ℚ → Prop) (top : ℚ) : Prop :=
  Num.emin t - Num.fracBits t ≤ q ∧ (q = Num.emin t - Num.fracBits t ∨ 2 ^ Num.fracBits t ≤ k) ∧ k < 2 ^ (Num.fracBits t + 1) ∧
    ge (k * (2 : ℚ) ^ q) ∧ ¬ge ((k + 1) * (2 : ℚ) ^ q) ∧ (n = k ∨ n = k + 1) ∧ ratOf (Num.decodeF t (Num.maxCode t)) = some top

open Tests in
/-- 5/2 in e2m1, a tie that falls to even; a subnormal 1/4 of it; 31/4, beyond its greatest 6; the root of 2 as a root. -/
theorem witness_ExactValues_rounded :
    (grid .e2m1 2 2 0 (fun c => c ≤ (5 : ℕ) * (2 : ℚ) ^ (-1 : ℤ)) 6 ∧ (5 : ℕ) * (2 : ℚ) ^ (-1 : ℤ) = (2 + 1 / 2 : ℚ) * 2 ^ (0 : ℤ) ∧
      (2 : ℚ) ^ Num.emin .e2m1 ≤ 2 * 2 ^ (0 : ℤ)) ∧
    (grid .e2m1 0 0 (-1) (fun c => c ≤ (1 : ℕ) * (2 : ℚ) ^ (-2 : ℤ)) 6 ∧ (0 : ℚ) * 2 ^ (-1 : ℤ) < (2 : ℚ) ^ Num.emin .e2m1) ∧
    (grid .e2m1 3 4 1 (fun c => c ≤ (31 : ℕ) * (2 : ℚ) ^ (-2 : ℤ)) 6 ∧ (6 : ℚ) < 4 * 2 ^ (1 : ℤ)) ∧
    grid .e2m1 2 3 (-1) (fun c => c ^ 2 ≤ (1 : ℕ) * (2 : ℚ) ^ (1 : ℤ)) 6 := by
  have top : ratOf (Num.decodeF .e2m1 (Num.maxCode .e2m1)) = some 6 := by
    have h : Num.decodeF .e2m1 (Num.maxCode .e2m1) = .fin false 3 1 := by decide
    rw [h]; norm_num [ratOf]
  have e : Num.emin .e2m1 = 0 := by decide
  have b : Num.fracBits .e2m1 = 1 := by decide
  refine ⟨⟨?_, ?_, ?_⟩, ⟨?_, ?_⟩, ⟨?_, ?_⟩, ?_⟩ <;> (try simp only [grid, top, e, b]) <;> norm_num

open Tests in
theorem witness_Conversions : (∃ (f : FmtA) (h : Heads) (s : State), ReadyA f 0 true false false h s) ∧ (∃ v x, ratOf v = some x) :=
  ⟨⟨{ ff with imm := 5 }, _, flt, readyA (by decide)⟩, ⟨.fin true 3 (-1), _, rfl⟩⟩

open Tests in
/-- fmac and xsacc in the middle of a sum, with a poisoned lane; xsfin. -/
theorem witness_Accumulations :
    (∃ f h s m acc po, ReadyA f 0 true (!f.ir) true h s ∧ fmacOf s.selNode.st = (m, acc, po) ∧ 0 < m) ∧
    (∃ f h s acc po, ReadyA f 0 true false true h s ∧ xsOf' s.selNode.st = (acc, po) ∧ po = none) ∧
    (∃ (f : FmtA) (h : Heads) (s : State), ReadyA f 0 true false false h s) :=
  ⟨⟨ff, _, at_ 5 [mkPkt .f32 [0x3F800000]] [mkPkt .f32 [0x40000000]] [no] (.fmac 2 [1, 2] (some 7)), 2, [1, 2], some 7,
      readyA (by decide), rfl, by decide⟩,
    ⟨ff, _, at_ 5 [mkPkt .f32 [0x3F800000]] [] [yes] (.xsacc 9 none), 9, none, readyA (by decide), rfl, rfl⟩,
    ⟨ff, _, at_ 5 [.pkt .xs320 5 false 9] [] [] .idle, readyA (by decide)⟩⟩

open Tests in
/-- bqnt taking a token, bqnt emitting one; a group of zeros and one whose greatest element is 1; bdeq with a scale and without. -/
theorem witness_BlockFormats :
    (let s := at_ 5 [mkPkt .f32 [0x3F800000]] [] [] .idle
     s.live = true ∧ s.unitFree 0 = true ∧ s.phase 0 = true ∧ bqntOf s.selNode.st = ([], 0, none, []) ∧ (s.head 0).isSome) ∧
    (let s := at_ 5 [] [] [] (.bqnt [] 0 none [num 1])
     s.live = true ∧ s.unitFree 0 = true ∧ s.phase 0 = true ∧ bqntOf s.selNode.st = ([], 0, none, [num 1]) ∧
       s.selRegion.accepts s.now (.left 9) = true) ∧
    (∃ (vs : List Num.FVal) (xs : List ℚ), vs.map ratOf = xs.map some ∧ ∀ x ∈ xs, x = 0) ∧
    (∃ (vs : List Num.FVal) (xs : List ℚ), vs.map ratOf = xs.map some ∧ (∀ x ∈ xs, |x| < (2 : ℚ) ^ ((0 : ℤ) + 1)) ∧ ∃ x ∈ xs, (2 : ℚ) ^ (0 : ℤ) ≤ |x|) ∧
    (∃ f h s x0 left po, bdeqOf s.selNode.st = (x0, po, left) ∧ ReadyA f 0 true (left == 0) false h s ∧ left = 0) ∧
    (∃ f h s x0 left po, bdeqOf s.selNode.st = (x0, po, left) ∧ ReadyA f 0 true (left == 0) false h s ∧ left = 3) :=
  ⟨by decide, by decide, ⟨[], [], rfl, by simp⟩, ⟨[.fin false 1 0], [1], by simp [ratOf], by simp, by simp⟩,
    ⟨{ fa with ty := .mx8, imm := 5 }, _, at_ 5 [num 1] [num 127] [] .idle, 0, 0, none, rfl, readyA (by decide), rfl⟩,
    ⟨{ fa with ty := .mx8, imm := 5 }, _, at_ 5 [num 1] [] [] (.bdeq 127 none 3), 127, 3, none, rfl, readyA (by decide), rfl⟩⟩

open Tests in
theorem witness_PacketLanes :
    (∃ (f : FmtA) (h : Heads) (s : State), f.ty.isInt = true ∧ ReadyA f 0 true false false h s ∧ leftElems f.ty h.l ≠ []) ∧
    (∃ (f : FmtA) (h : Heads) (s : State) (es : List Nat), f.ty.isInt = false ∧ ReadyA f 0 true false false h s ∧ leftElems f.ty h.l = es ∧ es.length ≤ 8) ∧
    (∃ i f uR imm op h s, laneOps i = some (f, uR, imm, op) ∧ ReadyA f 0 true uR false h s) :=
  ⟨⟨fa, _, two, rfl, readyA (by decide), by decide⟩,
    ⟨ff, _, at_ 5 [mkPkt .f32 [1, 2, 3, 4, 5, 6, 7, 8]] [] [] .idle, _, rfl, readyA (by decide), rfl, by decide⟩,
    ⟨.pperm fa, fa, true, false, _, _, two, rfl, readyA (by decide)⟩⟩

open Tests in
/-- lutx and fsmst with an R operand; a cell whose LUTs read no LUT. -/
theorem witness_LutPatches :
    (∃ (f : FmtA) (h : Heads) (s : State), ReadyA f 1 true (f.imm.getLsbD 12) false h s ∧ f.imm.getLsbD 12 = true) ∧
    (∃ (f : FmtA) (h : Heads) (s : State), ReadyA f 1 true (!f.ir) false h s) ∧
    (∃ (s : State) (rank : Nat → Nat), (∀ k < 64, rank k < 64) ∧
      ∀ k < 64, ∀ sel ∈ (s.selTask.lut s.selCell k).sel, 0x40 ≤ sel.toNat → sel.toNat < 0x80 → rank (sel.toNat - 0x40) < rank k) :=
  ⟨⟨{ fa with imm := 0x1000 }, _, two, readyA (by decide), rfl⟩, ⟨fa, _, two, readyA (by decide)⟩,
    ⟨two, fun _ => 0, by simp, by
      intro k _ sel hsel h1 h2
      simp [two, at_, State.selTask, State.taskOf, State.task, State.taskIdOf, State.cluster, Tbl.get, Task.lut] at hsel
      subst hsel; exact absurd h2 (by decide)⟩⟩

/-- A state whose node 5 faces cell 1's dot block and the task's tiles. -/
def Tests.mat (tiles : Tbl Tile) (d : Dot) : State :=
  (Tests.at_ 5 [Tests.num 7] [Tests.num 3] [] .idle).modTask 1 (fun t => { t with tiles := tiles, dots := [(1, d)] })
/-- A ready bf16 tile of 8 rows in the cluster's own SRAM, and an active plane of one K-block. -/
def Tests.tileA : Tile := { base := 0xFE00000000000000, rows := 8, cols := 32, fmt := 7, state := .ready, owner := 1 }
def Tests.planeB : Plane := { fmt := .bf16, kb := 1, bytes := List.replicate 520 0x3F }
abbrev Tests.mul : State := Tests.mat [(2, Tests.tileA)] { active := some Tests.planeB }
/-- Tile 2 into accumulator 1. -/
abbrev Tests.mulF : FmtA := { Tests.fa with ty := .bf16, imm := 0x42, t0 := .left 9 }

open Tests in
theorem witness_MmaFires : ReadyA mulF 2 true false false (hs .always true false false mul) mul ∧
    (hs .always true false false mul).origin = none ∧ bitsOf mulF.imm 7 6 = 1 ∧ (mul.selTask.tile (bitsOf mulF.imm 5 0)).state = .ready ∧
    mul.selDot.active = some planeB ∧ mul.selDot.busy ≤ mul.now ∧ mul.selDot.draining 1 = false ∧
    mul.mmaFault mulF planeB (mul.selDot.acc 1) = .ok (tileA, 0xFE00000000000000) :=
  ⟨readyA (by decide), by decide, by decide, by decide, rfl, by decide, by decide, by decide⟩

open Tests in
/-- A tile of another owner. -/
theorem witness_MmaMismatchTraps : let s := mat [(2, { tileA with owner := 4 })] { active := some planeB }
    ReadyA mulF 2 true false false (hs .always true false false s) s ∧ (hs .always true false false s).origin = none ∧
    (s.selTask.tile (bitsOf mulF.imm 5 0)).state = .ready ∧ s.selDot.active = some planeB ∧ s.selDot.busy ≤ s.now ∧
    s.selDot.draining (bitsOf mulF.imm 7 6) = false ∧ (s.selTask.tile (bitsOf mulF.imm 5 0)).owner ≠ s.selTask.id ∧
    s.mmaFault mulF planeB (s.selDot.acc (bitsOf mulF.imm 7 6)) = .error (xlateFault 0x45 tileA.base 7 .read) :=
  ⟨readyA (by decide), by decide, by decide, rfl, by decide, by decide, by decide, by decide⟩

open Tests in
/-- A poisoned trigger; a tile of another owner, of f32, of 31 columns, and one whose rows are not the accumulator's. -/
theorem witness_MmaFires_poison_and_subcodes :
    (let s := (mat [(2, tileA)] { active := some planeB }).modNode 0 5 (fun n => { n with l := q [badPkt .i64 1 3] })
     ReadyA mulF 2 true false false (hs .always true false false s) s ∧ (hs .always true false false s).origin = some 3 ∧
     (s.selTask.tile (bitsOf mulF.imm 5 0)).state = .ready ∧ s.selDot.active = some planeB ∧ s.selDot.busy ≤ s.now ∧ s.selDot.draining 1 = false) ∧
    (let pair (t : Tile) (p : Plane) : Prop := t.fmt = mulF.ty.code ∧ (mulF.ty, p.fmt) ∈
       [(Ty.bf16, Ty.bf16), (.mx4, .mx4), (.mx8, .mx8), (.mx8, .mxi8), (.mxi8, .mx8), (.mxi8, .mxi8)]
     let shape (t : Tile) (p : Plane) : Prop := t.rows ∈ (List.range 16).map (fun k => 8 * (k + 1)) ∧ t.cols = 32 * p.kb
     let rows (t : Tile) (x : Acc) : Prop := mulF.imm.getLsbD 8 = true ∨ x.rows = 0 ∨ x.rows = t.rows
     bitsOf mulF.imm 5 0 = 2 ∧ mul.selTask.id = tileA.owner ∧ { tileA with owner := 4 }.owner ≠ mul.selTask.id ∧
     (∀ t ∈ [tileA, { tileA with fmt := 5 }, { tileA with cols := 31 }], mul.tileBase mul.sel.1 t .read = .ok 0xFE00000000000000) ∧
     ¬pair { tileA with fmt := 5 } planeB ∧ (pair { tileA with cols := 31 } planeB ∧ ¬shape { tileA with cols := 31 } planeB) ∧
     (pair tileA planeB ∧ shape tileA planeB ∧ ¬rows tileA { rows := 16 }) ∧ rows tileA { rows := 8 }) :=
  ⟨⟨readyA (by decide), by decide, by decide, rfl, by decide, by decide⟩, by decide⟩

/-- A K-block of finite elements under finite scales. -/
theorem witness_KBlockRoundsOnce : (127 < 0xFF ∧ 0 < 0xFF) ∧ [Num.FVal.fin false 1 0].map ratOf = ([1] : List ℚ).map some ∧
    [Num.FVal.fin true 3 1].map ratOf = ([-6] : List ℚ).map some ∧ ratOf (Num.decodeF .f32 (0x3F800000#32).toNat) = some 1 := by
  refine ⟨by decide, by simp [ratOf], by norm_num [ratOf], ?_⟩
  have h : Num.decodeF .f32 (0x3F800000#32).toNat = .fin false 8388608 (-23) := by decide
  rw [h]; norm_num [ratOf]

/-- A stationary tile of 32 rows and 8 columns. -/
def Tests.tileB : Tile := { Tests.tileA with rows := 32, cols := 8 }
abbrev Tests.loadF : FmtA := { Tests.fa with imm := 2 }

open Tests in
/-- ldst for the ring, ldst of a tile, mswap of a loaded plane, mzero of an accumulator at rest. -/
theorem witness_PlanesAndAccumulators :
    (let f : FmtA := { fa with imm := 0x40 }
     ReadyA f 2 true false false (hs .always true false false mul) mul ∧ f.imm.getLsbD 6 = true ∧ mul.selDot.shState = .empty) ∧
    (let s := mat [(2, tileB)] {}
     ReadyA loadF 2 true false false (hs .always true false false s) s ∧ loadF.imm.getLsbD 6 = false ∧ s.selDot.shState = .empty ∧
     bitsOf loadF.imm 5 0 = 2 ∧ (s.selTask.tile 2).state = .ready ∧ s.useTile s.sel.1 2 .read = .ok (tileB, 0xFE00000000000000) ∧
     tileB.cols = 8 ∧ tileB.rows ∈ [32, 64, 96, 128, 160, 192, 224, 256] ∧ tileB.fmt ∈ [7, 11, 12, 13]) ∧
    (let s := mat [] { shadow := planeB, shState := .loaded }
     ReadyA fa 2 true false false (hs .always true false false s) s ∧ s.selDot.shState = .loaded ∧ s.selDot.busy ≤ s.now) ∧
    (let f : FmtA := { fa with imm := 3 }
     ReadyA f 2 true false false (hs .always true false false mul) mul ∧ bitsOf f.imm 1 0 = 3 ∧ mul.selDot.multiplying 3 = false ∧
     mul.selDot.draining 3 = false) :=
  ⟨⟨readyA (by decide), by decide, by decide⟩,
    ⟨readyA (by decide), by decide, by decide, by decide, by decide, by decide, by decide, by decide, by decide⟩,
    ⟨readyA (by decide), by decide, by decide⟩, ⟨readyA (by decide), by decide, by decide, by decide⟩⟩

/-- Route 3: into tile 2 as f32, to nearest even; accumulator 0 with 8 rows. -/
abbrev Tests.drain : State := Tests.mat [(2, { Tests.tileA with rows := 8, cols := 8, fmt := 5, state := .empty })]
  { accs := [(0, { rows := 8, elems := [(0, 0x3F800000)] })], routes := [(3, 0x542)] }

open Tests in
/-- mdrain of a numbered route, of one that R names, and of an accumulator without rows; tstat and tset of a tile, an entry and a route. -/
theorem witness_PlanesTilesAndDrains :
    (let f : FmtA := { fa with imm := 0x18 }
     let t : Tile := { tileA with rows := 8, cols := 8, fmt := 5, state := .empty }
     ReadyA f 2 true (f.imm.getLsbD 2) false (hs .always true false false drain) drain ∧ bitsOf f.imm 1 0 = 0 ∧ bitsOf f.imm 5 3 = 3 ∧
     drain.selDot.routes.get 0 3 = 0x542 ∧ drain.selDot.multiplying 0 = false ∧ drain.selDot.draining 0 = false ∧
     bitsOf (0x542 : Word) 11 8 ∈ [5, 6, 7] ∧ bitsOf (0x542 : Word) 14 12 ≤ 5 ∧ (drain.selTask.tile 2).state = .empty ∧
     drain.useTile drain.sel.1 2 .write = .ok (t, 0xFE00000000000000) ∧ t.fmt = 5 ∧ t.cols = 8 ∧ (drain.selDot.acc 0).rows ≤ t.rows) ∧
    (let f : FmtA := { fa with imm := 4 }
     ReadyA f 2 true (f.imm.getLsbD 2) false (hs .always true true false drain) drain ∧
     (hs .always true true false drain).r.bind Token.origin = none ∧ (leftElems .i64 (hs .always true true false drain).r).headD 0 % 8 = 3) ∧
    (let f : FmtA := { fa with imm := 0x19 }
     ReadyA f 2 true (f.imm.getLsbD 2) false (hs .always true false false drain) drain ∧ bitsOf f.imm 1 0 = 1 ∧ bitsOf f.imm 5 3 = 3 ∧
     (drain.selDot.acc 1).rows = 0 ∧ drain.selDot.multiplying 1 = false ∧ drain.selDot.draining 1 = false) ∧
    (let f : FmtA := { fa with imm := 0x82 }
     ReadyA f 2 true false false (hs .always true false false drain) drain ∧ (hs .always true false false drain).origin = none ∧
     bitsOf f.imm 8 7 < 2 ∧ drain.tileMoving drain.sel.1 2 = false ∧ (drain.selTask.tile 2).owner = drain.selTask.id) ∧
    (let f : FmtA := { fa with imm := 0x103 }
     ReadyA f 2 true false false (hs .always true false false drain) drain ∧ bitsOf f.imm 8 7 = 2 ∧
     ∀ o ∈ drain.selDot.ops, o.kind = 2 → o.rno ≠ bitsOf f.imm 5 0 % 8) ∧
    (let s := (mat [(2, { tileA with owner := 4 })] {}).modRegion 0 (fun r => { r with img := r.img.map (fun m => { m with priv := false }) })
     ReadyA loadF 2 true false false (hs .always true false false s) s ∧ s.tileMoving s.sel.1 2 = false ∧
     (s.selTask.tile 2).owner ≠ s.selTask.id ∧ s.selRegion.priv = false) :=
  ⟨⟨readyA (by decide), by decide, by decide, by decide, by decide, by decide, by decide, by decide, by decide, by decide, by decide, by decide, by decide⟩,
    ⟨readyA (by decide), by decide, by decide⟩, ⟨readyA (by decide), by decide, by decide, by decide, by decide, by decide⟩,
    ⟨readyA (by decide), by decide, by decide, by decide, by decide⟩,
    ⟨readyA (by decide), by decide, by decide⟩, ⟨readyA (by decide), by decide, by decide, by decide⟩⟩

/-! ## Router operators -/

abbrev Tests.ctl3 : State := Tests.at_ 5 [Tests.yes] [Tests.no] [Tests.yes] .idle
/-- A poisoned control token. -/
def Tests.sick : Token := .ctl true true 9

open Tests in
/-- mov; mov4 with four targets; a control operator; cdat. -/
theorem witness_RouterOperators_copies :
    (Ready .always true false false [fc.t0, fc.t1] (hs .always true false false ctl3) ctl3 ∧ (hs .always true false false ctl3).l = some yes) ∧
    (let f : FmtC := { fc with imm := 0x041302 }
     mov4Target f false = some (.write 2) ∧ mov4Target f true = some (.right 4) ∧
     Ready .always true false false [f.t0, f.t1, .write 2, .right 4] (hs .always true false false ctl3) ctl3) ∧
    (logicOf (.cand fc) = some (fc, true, fun a b => a && b) ∧ Ready .always true true false [fc.t0, fc.t1] (hs .always true true false ctl3) ctl3) :=
  ⟨⟨ready (by decide), by decide⟩, ⟨by decide, by decide, ready (by decide)⟩, ⟨rfl, ready (by decide)⟩⟩

open Tests in
/-- steer with a clean and a poisoned P, gate, merge either way, mrga with both heads, the left one, the right one. -/
theorem witness_RouterOperators_selects :
    (Ready .always true false true [fc.t0] (hs .always true false true ctl3) ctl3 ∧ (hs .always true false true ctl3).p = some yes ∧
      (hs .always true false true ctl3).l = some yes) ∧
    (let s := at_ 5 [num 1] [] [sick] .idle
     Ready .always true false true [fc.t0, fc.t1] (hs .always true false true s) s ∧ (hs .always true false true s).p = some sick ∧ sick.origin = some 9) ∧
    (ctl3.live = true ∧ ctl3.head 2 = some yes ∧ yes.val = true ∧ ctl3.room [fc.t0, fc.t1] ∧ ctl3.head 0 = some yes) ∧
    (let s := at_ 5 [] [num 1] [no] .idle
     s.live = true ∧ s.head 2 = some no ∧ no.val = false ∧ no.origin = none ∧ s.room [fc.t0, fc.t1] ∧ s.head 1 = some (num 1)) ∧
    ((ctl3.headAt 0).isSome = true ∧ (ctl3.headAt 1).isSome = true ∧ Ready .always true false false [fc.t0, fc.t1] (hs .always true false false ctl3) ctl3) ∧
    (let s := at_ 5 [num 1] [] [] .idle
     (s.headAt 0).isSome = true ∧ s.headAt 1 = none ∧ Ready .always true false false [fc.t0, fc.t1] (hs .always true false false s) s) ∧
    (let s := at_ 5 [] [num 1] [] .idle
     s.headAt 0 = none ∧ (s.headAt 1).isSome = true ∧ Ready .always false true false [fc.t0, fc.t1] (hs .always false true false s) s) :=
  ⟨⟨ready (by decide), by decide, by decide⟩, ⟨ready (by decide), by decide, by decide⟩, by decide, by decide,
    ⟨by decide, by decide, ready (by decide)⟩, ⟨by decide, by decide, ready (by decide)⟩, ⟨by decide, by decide, ready (by decide)⟩⟩

open Tests in
/-- What passes under a poisoned P: a packet, a poisoned token, a control token. -/
theorem witness_RouterOperators_poison :
    (let h := hs .onTrue true false false (at_ 5 [num 1] [] [sick] .idle)
     h.p.bind Token.origin = some 9 ∧ h.l = some (.pkt .i64 1 false 1)) ∧
    (let h := hs .onTrue true false false (at_ 5 [badPkt .i64 1 3] [] [sick] .idle)
     h.p.bind Token.origin = some 9 ∧ h.l.bind Token.origin = some 3) ∧
    (let h := hs .onTrue true false false (at_ 5 [yes] [] [sick] .idle)
     h.p.bind Token.origin = some 9 ∧ h.l = some (.ctl true false 0)) ∧
    (let h := hs .onTrue true false false (at_ 5 [yes] [] [yes] .idle)
     h.p.bind Token.origin = none ∧ h.l = some yes) := by decide

open Tests in
/-- The rows of carry in turn, at the boundary of the run-ahead. -/
theorem witness_LoopOperators_carry :
    (let s := at_ 5 [num 1] [] [] .idle
     s.live = true ∧ s.selNode.st = .idle ∧ s.head 0 = some (num 1) ∧ s.room [fc.t0]) ∧
    (let s := at_ 5 [] [] [sick] (.carry 1 2 1)
     s.live = true ∧ s.head 1 = none ∧ s.head 2 = some sick ∧ s.room [fc.t1]) ∧
    (let s := at_ 5 [] [num 1] [] (.carry 1 4 1)
     s.live = true ∧ s.head 1 = some (num 1) ∧ s.head 2 = none ∧ 4 ≤ 1 + bitsOf (3 : BitVec 6) 1 0 ∧ s.room [fc.t0]) ∧
    (let s := at_ 5 [] [num 1] [yes] (.carry 1 2 1)
     s.live = true ∧ s.head 1 = some (num 1) ∧ s.head 2 = some yes ∧ yes.val = true ∧ yes.origin = none ∧ 2 ≤ 1 + 1 + bitsOf (0 : BitVec 6) 1 0 ∧
       s.room [fc.t0, fc.t1]) ∧
    (let s := at_ 5 [] [num 1] [no] (.carry 1 2 1)
     s.live = true ∧ s.head 1 = some (num 1) ∧ s.head 2 = some no ∧ no.val = false ∧ no.origin = none ∧ s.room [fc.t1]) ∧
    (let s := at_ 5 [] [num 1] [] (.carry 1 2 1)
     s.live = true ∧ s.head 1 = some (num 1) ∧ s.head 2 = none ∧ 1 + bitsOf (0 : BitVec 6) 1 0 < 2) ∧
    (let s := at_ 5 [] [] [] (.carry 2 2 2)
     s.live = true ∧ s.room [fc.t0, fc.t1]) ∧
    (let s := at_ 5 [] [num 1] [] (.carry 3 0 0)
     s.live = true ∧ s.head 1 = some (num 1) ∧ s.head 2 = none) ∧
    (let s := at_ 5 [] [.mark .purge] [.mark .purge] (.carry 3 0 0)
     s.live = true ∧ s.head 1 = none ∧ s.head 2 = none ∧ s.selNode.r.marker s.now = some .purge ∧ s.selNode.p.marker s.now = some .purge) := by
  decide

open Tests in
/-- carry with R under a poisoned P; P taken while R is blocked by the run-ahead or by a full T0; R taken while T1 is full. -/
theorem witness_LoopOperators_carry_blocked :
    (let s := at_ 5 [] [num 1] [sick] (.carry 1 2 1)
     s.live = true ∧ s.head 1 = some (num 1) ∧ s.head 2 = some sick ∧ sick.origin = some 9 ∧ 2 ≤ 1 + 1 + bitsOf (0 : BitVec 6) 1 0 ∧
       s.room [fc.t0, fc.t1]) ∧
    (let s := at_ 5 [] [num 1] [yes] (.carry 1 3 1)
     s.live = true ∧ s.head 1 = some (num 1) ∧ s.head 2 = some yes ∧ yes.val = true ∧ 1 + 1 + bitsOf (0 : BitVec 6) 1 0 < 3 ∧ s.room [fc.t1]) ∧
    (let s := at_ 5 [] [num 1] [sick] (.carry 1 2 1)
     let s := s.modNode 0 4 (fun n => { n with l := q (List.replicate 9 (num 1)) })
     s.live = true ∧ s.head 1 = some (num 1) ∧ s.head 2 = some sick ∧ sick.origin.isSome = true ∧ s.selRegion.accepts s.now (.left 4) = false ∧
       s.room [fc.t1]) ∧
    (let s := at_ 5 [] [num 1] [yes] (.carry 1 4 1)
     let s := s.modNode 0 4 (fun n => { n with l := q (List.replicate 9 (num 1)) })
     s.live = true ∧ s.head 1 = some (num 1) ∧ s.head 2 = some yes ∧ s.selRegion.accepts s.now (.left 4) = false ∧
       4 ≤ 1 + bitsOf (3 : BitVec 6) 1 0 ∧ s.room [fc.t0]) := by
  decide

open Tests in
/-- invar idle, holding under both modes, and at the purge marker. -/
theorem witness_LoopOperators_invar :
    (let s := at_ 5 [num 1] [] [] .idle
     s.live = true ∧ s.selNode.st = .idle ∧ s.head 0 = some (num 1) ∧ s.room [fc.t0, fc.t1] ∧ s.selNode.r.marker s.now = none) ∧
    (let s := at_ 5 [] [num 2] [yes] (.invar (num 1))
     fc.cf.getLsbD 0 = false ∧ s.selNode.st = .invar (num 1) ∧ (hs .always false true true s).r = some (num 2) ∧ (hs .always false true true s).p = some yes ∧
       Ready .always false true true [fc.t0, fc.t1] (hs .always false true true s) s) ∧
    (let s := at_ 5 [] [num 2] [] (.invar (num 1))
     (1 : BitVec 6).getLsbD 0 = true ∧ s.selNode.st = .invar (num 1) ∧ s.selNode.r.marker s.now = none ∧
       Ready .always false true false [fc.t0, fc.t1] (hs .always false true false s) s) ∧
    (let s := at_ 5 [] [.mark .purge] [] (.invar (num 1))
     s.live = true ∧ s.selNode.st = .invar (num 1) ∧ s.selNode.r.marker s.now = some .purge ∧ s.room [fc.t0, fc.t1]) :=
  ⟨by decide, ⟨by decide, by decide, by decide, by decide, ready (by decide)⟩, ⟨by decide, by decide, by decide, ready (by decide)⟩, by decide⟩

/-- Steps of 3 upward, and of -1 with the bound included. -/
abbrev Tests.up : FmtC := { Tests.fc with imm := 3 }
abbrev Tests.down : FmtC := { Tests.fc with imm := 0xFFFFFF, cf := 2 }

open Tests in
/-- A range with elements, its last element, an empty range, a poisoned bound; copies by R, by the immediate, none, the last. -/
theorem witness_LoopOperators_ranges :
    ((∀ i hi po, two.selNode.st ≠ .loopgen i hi po) ∧ Ready .always true true false [up.t0, up.t1] (hs .always true true false two) two ∧
      (hs .always true true false two).l.bind Token.origin = none ∧ (hs .always true true false two).r.bind Token.origin = none ∧
      (hs .always true true false two).p.bind Token.origin = none) ∧
    (inside up (boundOf up (some (num 7))) (boundOf up (some (num 64))) ∧ ¬ inside up (boundOf up (some (num 64))) (boundOf up (some (num 64))) ∧
      inside down (boundOf down (some (num 7))) (boundOf down (some (num 7))) ∧ inside up 61 64 ∧ ¬ inside up (61 + up.imm.toInt) 64) ∧
    (let s := at_ 5 [] [] [] (.loopgen 61 64 none)
     s.live = true ∧ s.selNode.st = .loopgen 61 64 none ∧ s.room [up.t0, up.t1]) ∧
    (let s := at_ 5 [num 1] [badPkt .i64 1 3] [] .idle
     Ready .always true true false [up.t0, up.t1] (hs .always true true false s) s ∧ (hs .always true true false s).l.bind Token.origin = none ∧
      (hs .always true true false s).r.bind Token.origin = some 3) ∧
    ((∀ t k po, two.selNode.st ≠ .rept t k po) ∧ Ready .always true true false [fc.t0, fc.t1] (hs .always true true false two) two ∧
      (hs .always true true false two).l = some (num 7) ∧ ((hs .always true true false two).r.map (fun x => (low64 x).toNat)).getD 0 = 64) ∧
    (let s := at_ 5 [] [] [] (.rept (num 7) 1 none)
     s.live = true ∧ s.selNode.st = .rept (num 7) 1 none ∧ s.room [fc.t0, fc.t1]) :=
  ⟨⟨nofun, ready (by decide), by decide, by decide, by decide⟩,
    ⟨by simp only [inside]; decide, by simp only [inside]; decide, by simp only [inside]; decide, by simp only [inside]; decide, by simp only [inside]; decide⟩,
    by decide, ⟨ready (by decide), by decide, by decide⟩, ⟨nofun, ready (by decide), by decide, by decide⟩, by decide⟩

open Tests in
/-- repeat under a poisoned count, under a poisoned P with a count of one, and in the middle of poisoned copies. -/
theorem witness_LoopOperators_poisoned_repeat :
    (let s := at_ 5 [num 7] [badPkt .i64 1 3] [] .idle
     (∀ t k po, s.selNode.st ≠ .rept t k po) ∧ fc.cf.getLsbD 0 = false ∧ Ready .always true true false [fc.t0, fc.t1] (hs .always true true false s) s ∧
      (hs .always true true false s).l = some (num 7) ∧ ((hs .always true true false s).r.bind Token.origin).isSome = true ∧
      (hs .always true true false s).origin = some 3) ∧
    (let s := at_ 5 [num 7] [num 1] [sick] .idle
     (∀ t k po, s.selNode.st ≠ .rept t k po) ∧ Ready .onTrue true true false [fc.t0, fc.t1] (hs .onTrue true true false s) s ∧
      (hs .onTrue true true false s).l = some (num 7) ∧ (hs .onTrue true true false s).r.bind Token.origin = none ∧
      ((hs .onTrue true true false s).p.bind Token.origin).isSome = true ∧ (hs .onTrue true true false s).origin = some 9 ∧
      ((hs .onTrue true true false s).r.map (fun x => (low64 x).toNat)).getD 0 = 1) ∧
    (let s := at_ 5 [] [] [] (.rept (num 7) 1 (some 9))
     s.live = true ∧ s.selNode.st = .rept (num 7) 1 (some 9) ∧ s.room [fc.t0, fc.t1]) :=
  ⟨⟨nofun, by decide, ready (by decide), by decide, by decide, by decide⟩,
    ⟨nofun, ready (by decide), by decide, by decide, by decide, by decide, by decide⟩, by decide⟩

/-- Task 1 with replication group 0 as given. -/
def Tests.grp (l p : List Token) (st : NodeState) (g : Group) : State :=
  (Tests.at_ 5 l [] p st).modTask 1 (fun t => { t with groups := [(0, g)] })
/-- A stream over this region and one replica in cluster 3; its return stream after two tokens. -/
def Tests.homeG : Group := { n := 2, clusters := [3], tasks := [8] }
/-- A control token in the replica inbox of cluster 0; an empty inbox in cluster 3. -/
def Tests.fed : State :=
  ((Tests.grp [] [] .idle { member := 1 }).initIcb (replicaIcb 0) 64 1).sendToken 0 5 (replicaIcb 0) 1 Tests.yes []
def Tests.deal : State := (Tests.grp [Tests.num 1] [Tests.yes] (.split 2 1) Tests.homeG).initIcb (replicaIcb 3) 64 8

open Tests in
/-- A home split dealing to itself and to its replica, the last token among them; omerge in the middle of a stream and at its
end; sink at a marker, at a token, at a poisoned token. -/
theorem witness_ElasticStreams :
    (let s := grp [num 1] [no] .idle homeG
     s.selGroup fc = homeG ∧ s.selNode.st = .idle ∧ Ready .always true false true [fc.t0] (hs .always true false true s) s ∧
       (hs .always true false true s).l = some (num 1) ∧ (hs .always true false true s).p = some no ∧ s.checkSends [] = .ok) ∧
    (deal.selNode.st = .split 2 1 ∧ Ready .always true false true [fc.t0] (hs .always true false true deal) deal ∧
       deal.checkSends [(replicaIcb 3, 1, num 1), (replicaIcb 3, 2, .mark .eos)] = .ok) ∧
    (fed.live = true ∧ (fed.selGroup fc).member ≠ 0 ∧ fed.selNode.st = .idle ∧ fed.room [fc.t0] ∧
       fed.inboxHead (fed.icbAt (replicaIcb fed.sel.1) (replicaIcb fed.sel.1 + 64)) = some (8, 1, [4, 0, 0, 0, 0, 0, 0, 0])) ∧
    (let s := grp [num 1] [no] .idle { homeG with streams := [{ n := 2, seen := 3 }] }
     (s.selGroup fc).member = 0 ∧ s.selNode.l.marker s.now = none ∧ 0 + 1 < 3 ∧
       Ready .always true false false [fc.t0, fc.t1] (hs .always true false false s) s) ∧
    (let s := grp [num 1] [no] (.omerge 2 false) { homeG with streams := [{ n := 2, seen := 3, ended := true }] }
     s.selNode.st = .omerge 2 false ∧ s.selNode.l.marker s.now = none ∧ Ready .always true false false [fc.t0, fc.t1] (hs .always true false false s) s) ∧
    (let s := at_ 5 [.mark .eos] [] [] .idle
     s.live = true ∧ s.selNode.l.marker s.now = some .eos) ∧
    (two.live = true ∧ two.head 0 = some (num 7) ∧ (num 7).origin = none) ∧
    (let s := at_ 5 [sick] [] [] .idle
     s.live = true ∧ s.head 0 = some sick ∧ sick.origin = some 9 ∧ (1 : BitVec 6).getLsbD 0 = true) :=
  ⟨⟨by decide, by decide, ready (by decide), by decide, by decide, by decide⟩, ⟨rfl, ready (by decide), by decide⟩, by decide,
    ⟨by decide, by decide, by decide, ready (by decide)⟩,
    ⟨by decide, by decide, ready (by decide)⟩, by decide, by decide, by decide⟩

/-! ## Memory -/

def Tests.isReadyM (pm : Pm) (uR : Bool) (pads : List Target) (s : State) : Bool :=
  Tests.isReady pm true uR false pads s && decide (s.inFlight < 8) && s.unitFree 3

theorem Tests.readyM {pm : Pm} {uR : Bool} {pads : List Target} {s : State} (h : isReadyM pm uR pads s = true) :
    ReadyM pm uR pads (hs pm true uR false s) s := by
  simp only [isReadyM, Bool.and_eq_true, decide_eq_true_eq] at h
  exact ⟨ready h.1.1, h.1.2, h.2⟩

open Tests in
/-- A load, a load from a poisoned address, a misaligned rmw, a store to a poisoned address. -/
theorem witness_MemoryIssues :
    (memOf (.ld fm) = some (fm, false, [fm.t0, fm.t1]) ∧
      (let s := at_ 5 [num 8] [] [] .idle
       ReadyM .always false [fm.t0, fm.t1] (hs .always true false false s) s ∧
         isWriteClass (.ld fm) = false ∧ (effAddr (.ld fm) (hs .always true false false s).l).toNat % alignOf (.ld fm) = 0) ∧
      (let s := at_ 5 [sick] [] [] .idle
       ReadyM .always false [fm.t0, fm.t1] (hs .always true false false s) s ∧
         (Heads.noAccess (hs .always true false false s) (.ld fm)).isSome = true)) ∧
    (let i : Instr := .rmw { fm with t0 := .none, ord := 0, sc := 0 }
     let s := at_ 5 [num 7] [num 1] [] .idle
     ReadyM .always true [.none, .none] (hs .always true true false s) s ∧ isWriteClass i = true ∧
       firstOrigin [(hs .always true true false s).l, (hs .always true true false s).p] = none ∧
       Heads.noAccess (hs .always true true false s) i = none ∧ (effAddr i (hs .always true true false s).l).toNat % alignOf i ≠ 0) ∧
    (let i : Instr := .st { fm with t0 := .none, ord := 2 }
     let s := at_ 5 [badPkt .i64 1 3] [num 1] [] .idle
     ReadyM .always true [.none] (hs .always true true false s) s ∧ isWriteClass i = true ∧
       firstOrigin [(hs .always true true false s).l, (hs .always true true false s).p] = some 3) :=
  ⟨⟨rfl, ⟨readyM (by decide), by decide, by decide⟩, readyM (by decide), by decide⟩,
    ⟨readyM (by decide), by decide, by decide, by decide, by decide⟩, ⟨readyM (by decide), by decide, by decide⟩⟩

open Tests in
theorem witness_FenceJoins : two.unitFree 3 = true ∧ Ready .always true true false [fm.t0, fm.t1] (hs .always true true false two) two :=
  ⟨by decide, ready (by decide)⟩

/-- Access 3 of node 5 of cluster 0, ready, at an SRAM line of its own cluster; its result goes to node 9. -/
def Tests.accOf (i : Instr) (addr : Word) (data : Option Token) : Access :=
  { id := 3, node := 5, ins := i, fired := 4, ready := 9, addr := addr, data := data, ops := [(0, { tok := Tests.num 7 })] }
def Tests.mem (a : Access) (cells : List Host.Cell) : State :=
  let s := (Tests.at_ 5 [] [] [] .idle).modRegion 0 (fun r => { r with
    accesses := [a]
    nodes := r.nodes.set 9 { l := { toks := [{ tok := .ctl true false 0, pend := some 3 }] } } })
  { s with mem := cells }
def Tests.isPerforms (c k : Nat) (a : Access) (pas : List Nat) (s : State) : Bool :=
  decide (s.mayPerform c k = some a) && !s.mirrored c && !s.frozenPark c a && a.skip.isNone &&
  s.walkOpen (s.accessSpace c a 0) a.abs (accessBytes a.ins a.data) &&
  decide (s.accessPlaces c a 0 = .ok pas) && !misplaced c a.ins (pas.headD 0) && decide (s.otherCopy (pas.headD 0) = none) &&
  s.paeTurn c a (pas.headD 0) && pas.all (fun p => s.pathOpen c p && s.atHand c (.access a.id) p) &&
  (placed a.addr pas).all (fun x => !isFar x.2 || decide (s.reachFault c (.access a.id) x.1 x.2 = none))

theorem Tests.performs {c k : Nat} {a : Access} {pas : List Nat} {s : State} (h : isPerforms c k a pas s = true) :
    Performs c k a 0 pas s := by
  simp only [isPerforms, Bool.and_eq_true, decide_eq_true_eq, Bool.not_eq_true', Option.isNone_iff_eq_none, List.all_eq_true] at h
  obtain ⟨⟨⟨⟨⟨⟨⟨⟨⟨⟨h1, h2⟩, h3⟩, h4⟩, hw⟩, h5⟩, h6⟩, h7⟩, h8⟩, h9⟩, h10⟩ := h
  exact ⟨h1, h2, h3, h4, hw, h5, h6, fun _ => h7, h8, h9,
    fun x hx hf => by simpa [hf] using h10 x hx⟩

/-- The last bytes of an SRAM line, and their physical addresses. -/
abbrev Tests.lineA : Nat := 0xFE0000000000007C
abbrev Tests.line4 : List Nat := [0xFE0000000000007C, 0xFE0000000000007D, 0xFE0000000000007E, 0xFE0000000000007F]
/-- Word accesses at it. -/
def Tests.fm4 : FmtM := { Tests.fm with t0 := .left 9, sz := 2, sc := 0, ord := 0, off := 0 }
def Tests.i32 (n : Nat) : Token := mkPkt .i32 [n]
abbrev Tests.word : List Host.Cell := [(0xFE0000000000007D, 2)]

open Tests in
theorem witness_LoadsPerform :
    (let a := accOf (.ld fm4) lineA none
     Performs 0 3 a 0 line4 (mem a word) ∧ (mem a word).histOk) ∧
    (let a := accOf (.pref { fm with sz := 5, sc := 0, ord := 0 }) 0x1000 none
     (mem a []).mayPerform 0 3 = some a ∧ (mem a []).mirrored 0 = false ∧ a.skip = none ∧
       (mem a []).walkOpen ((mem a []).accessSpace 0 a 0) a.abs 1 = true) ∧
    (let a := accOf (.pref { fm with sz := 5, sc := 0, ord := 0 }) 0x1000 none
     let s := cut (mem a [])
     s.mayPerform 0 3 = some a ∧ s.mirrored 0 = false ∧ a.skip = none ∧ s.walkOpen (s.accessSpace 0 a 0) a.abs 1 = false) ∧
    (let a : Access := { accOf (.pref { fm with sz := 5, sc := 0, ord := 0 }) lineA none with skip := some 6 }
     (mem a []).mayPerform 0 3 = some a ∧ (mem a []).mirrored 0 = false) :=
  ⟨⟨performs (by decide), List.Pairwise.nil, nofun⟩, by decide, by decide, by decide⟩

open Tests in
/-- A store of a word; one of poisoned data; one of a whole sector. -/
theorem witness_StorePerforms :
    (let a := accOf (.st { fm4 with t0 := .none, ord := 2 }) lineA (some (i32 0x01020304))
     Performs 0 3 a 0 line4 (mem a word) ∧ (mem a word).memOk ∧ line4.Nodup ∧ (∀ p ∈ line4, (mem a word).otherCopy p = none) ∧
       a.data.bind Token.origin = none ∧ (∀ p ∈ line4, sectorOf p = sectorOf lineA) ∧ ∃ j < 32, 32 * sectorOf lineA + j ∉ line4) ∧
    (let a := accOf (.st { fm4 with t0 := .none, ord := 2 }) lineA (some (badPkt .i32 1 3))
     Performs 0 3 a 0 line4 (mem a word) ∧ (a.data.bind Token.origin).isSome = true ∧ lineA ∈ line4) ∧
    (let a := accOf (.stp { fm4 with t0 := .none, ord := 2, sz := 5 }) (sectorOf lineA * 32) (some (mkPkt .i64 [1, 2, 3, 4]))
     Performs 0 3 a 0 ((List.range 32).map (sectorOf lineA * 32 + ·)) { mem a [] with marks := [sectorOf lineA] } ∧
       a.data.bind Token.origin = none ∧ ∀ j < 32, 32 * sectorOf lineA + j ∈ (List.range 32).map (sectorOf lineA * 32 + ·)) :=
  ⟨⟨performs (by decide), by decide, by decide, by decide, by decide, by decide, 0, by decide, by decide⟩, ⟨performs (by decide), by decide, by decide⟩,
    performs (by decide), by decide, by decide⟩

open Tests in
/-- amo add, a cas that matches and one that does not, rmw; a marked sector, a poisoned operand. -/
theorem witness_AtomicPerforms :
    (let a := accOf (.amo fm4) lineA (some (i32 5))
     Performs 0 3 a 0 line4 (mem a word) ∧ (memFmt a.ins).sz.toNat < 4 ∧ atomicOf a.ins 32 0x200 5 = some (some 0x205, 0x200, .i32) ∧
       leVal (line4.map (Memory.read (mem a word).mem)) = 0x200 ∧ line4.any (mem a word).marked = false ∧ a.data.bind Token.origin = none) ∧
    (let a := accOf (.cas fm4) lineA (some (mkPkt .i32 [0x200, 7]))
     Performs 0 3 a 0 line4 (mem a word) ∧ atomicOf a.ins 32 0x200 (0x200 + 7 * 2 ^ 32) = some (some 7, 0x200, .i32)) ∧
    (let a := accOf (.cas fm4) lineA (some (mkPkt .i32 [3, 7]))
     Performs 0 3 a 0 line4 (mem a word) ∧ atomicOf a.ins 32 0x200 (3 + 7 * 2 ^ 32) = some (none, 0x200, .i32)) ∧
    (let a := accOf (.rmw { fm4 with off := 0x10000 }) lineA (some (badPkt .i32 1 3))
     Performs 0 3 a 0 line4 (mem a word) ∧ (atomicOf a.ins 32 0x200 0).isSome = true ∧ a.data.bind Token.origin = some 3) ∧
    (let a := accOf (.amo fm4) lineA (some (i32 5))
     let s := { mem a word with marks := [sectorOf lineA] }
     Performs 0 3 a 0 line4 s ∧ line4.any s.marked = true) :=
  ⟨⟨performs (by decide), by decide, by decide, by decide, by decide, by decide⟩, ⟨performs (by decide), by decide⟩,
    ⟨performs (by decide), by decide⟩, ⟨performs (by decide), by decide, by decide⟩, ⟨performs (by decide), by decide⟩⟩

open Tests in
/-- ldfe at an empty and at a full line, stfe at an empty line, lnful and lnemp. -/
theorem witness_LineInstructionsPerform :
    (let a := accOf (.ldfe { fm4 with ord := 3 }) lineA none
     Performs 0 3 a 0 line4 (mem a []) ∧ lineA / 128 ∉ (mem a []).full ∧
     Performs 0 3 a 0 line4 { mem a [] with full := [lineA / 128] }) ∧
    (let a := accOf (.stfe { fm4 with t0 := .none, ord := 3 }) lineA (some (i32 1))
     Performs 0 3 a 0 line4 (mem a []) ∧ ¬ (lineA / 128 ∈ (mem a []).full) ∧
     Performs 0 3 a 0 line4 { mem a [] with full := [lineA / 128] }) ∧
    (let a := accOf (.lnful { fm4 with t0 := .none, sz := 5, ord := 2 }) lineA none
     Performs 0 3 a 0 [lineA] (mem a [])) ∧
    (let a := accOf (.lnemp { fm4 with t0 := .none, sz := 5, ord := 0 }) lineA none
     Performs 0 3 a 0 [lineA] { mem a [] with full := [lineA / 128] }) :=
  ⟨⟨performs (by decide), by decide, performs (by decide)⟩, ⟨performs (by decide), by decide, performs (by decide)⟩, performs (by decide),
    performs (by decide)⟩

open Tests in
/-- A load from an unmapped page. -/
theorem witness_AccessesFaultAndWait_rewind : let a := accOf (.ld fm4) 0x1000 none
    let s := mem a []
    s.mayPerform 0 3 = some a ∧ s.mirrored 0 = false ∧ a.skip = none ∧ s.frozenPark 0 a = false ∧ (∀ f, a.ins ≠ .pref f) ∧
    s.walkOpen (s.accessSpace 0 a 0) a.abs (accessBytes a.ins a.data) = true ∧ (∃ x, s.accessPlaces 0 a 0 = .error x) ∧
    (s.taskOf 0).ending = false ∧ a.old = false ∧ ((s.region 0).node a.node).retired = false :=
  ⟨by decide, by decide, by decide, by decide, nofun, by decide, ⟨_, rfl⟩, by decide, by decide, by decide⟩

/-! ## The engine, exits and system instructions -/

open Tests in
/-- A command with a clean operand, one that waits on a semaphore, one with a poisoned operand. -/
theorem witness_CommandsIssue :
    ((Instr.kick fe).eFmt = some fe ∧ two.unitFree 192 = true ∧ (two.cluster two.sel.1).eq.length < 64 ∧
      Ready .always true (usesRight (.kick fe)) false [fe.t0] (hs .always true (usesRight (.kick fe)) false two) two ∧
      (hs .always true (usesRight (.kick fe)) false two).origin = none ∧ namesRreg (.kick fe) = true ∧
      two.rregOpen two.sel.1 (.kick fe) (((hs .always true (usesRight (.kick fe)) false two).l.map low64).getD 0)
        (two.selNode.boundOf two.now (hs .always true (usesRight (.kick fe)) false two).slots) = true) ∧
    (let i : Instr := .msend { fe with wsem := 254, wthr := 0xFFF }
     Ready .always true (usesRight i) false [.none] (hs .always true (usesRight i) false two) two) ∧
    (let s := at_ 5 [badPkt .i64 1 3] [num 1] [] .idle
     Ready .always true (usesRight (.tcopy fe)) false [fe.t0] (hs .always true (usesRight (.tcopy fe)) false s) s ∧
       (hs .always true (usesRight (.tcopy fe)) false s).origin = some 3) :=
  ⟨⟨rfl, by decide, by decide, ready (by decide), by decide, rfl, by decide⟩, ready (by decide), ⟨ready (by decide), by decide⟩⟩

/-- A direct exit under PM = 01 whose offset is the least, and an indirect one. -/
def Tests.xf : FmtB := { pm := .onTrue, exn := 7, off := 0x80000 }

open Tests in
theorem witness_ExitsFire :
    (exitOf (.exit xf) = some (xf, .exit, false) ∧ Ready .onTrue false false false [] (hs .onTrue false false false two) two ∧
      (hs .onTrue false false false two).origin = none) ∧
    (let f : FmtB := { xf with pm := .always, off := 0 }
     exitOf (.calli f) = some (f, .calli, true) ∧ Ready .always true false false [] (hs .always true false false two) two) ∧
    (let s := at_ 5 [sick] [] [] .idle
     Ready .always true false false [] (hs .always true false false s) s ∧ (hs .always true false false s).origin = some 9) ∧
    (two.cluster 0).task.isSome = true ∧ (two.region 0).sel = none ∧
    (let y : Sel := { kind := .exit, addr := 0, exn := 0, node := 9, cycle := 9 }
     ((two.modRegion 0 (fun r => { r with sel := some y })).region 0).sel = some y) ∧
    (let s := two.modRegion 0 (fun r => { r with shadow := some { blk := 0x4000, usable := 9 } })
     (s.region 0).sel = none ∧ ∃ sh, (s.region 0).shadow = some sh ∧ sh.blk = (0x4000 : Word).toNat ∧ sh.blk ≠ (0x4020 : Word).toNat) :=
  ⟨⟨rfl, ready (by decide), by decide⟩, ⟨rfl, ready (by decide)⟩, ⟨ready (by decide), by decide⟩, by decide, by decide, by decide, by decide, _, rfl, by decide, by decide⟩

/-- A trap record of node 5. -/
def Tests.trapR : TrapRec := { stamp := 9, src := 5, code := 5, sub := 0xFFFF, step := 15 }

open Tests in
/-- An unfrozen region; one frozen in the same cycle by a higher SRC; one frozen before. -/
theorem witness_TrapsTaken :
    (Ready .always true false false [] (hs .always true false false two) two ∧ (hs .always true false false two).origin = none) ∧
    ((two.cluster 0).task = some 1 ∧ (two.task 1).twin = none ∧ (two.task 1).isTwin = false ∧ (two.region 0).frozen = none) ∧
    (let s := two.raise 0 { trapR with src := 6 }
     ∃ y, (s.region 0).frozen = some y ∧ y.stamp = s.now ∧ trapR.src < y.src) ∧
    (let s := two.raise 0 { trapR with stamp := 3 }
     ∃ y, (s.region 0).frozen = some y ∧ y.stamp ≠ s.now) ∧
    (trapR.code < 256 ∧ trapR.sub < 65536 ∧ trapR.step < 16) :=
  ⟨⟨ready (by decide), by decide⟩, by decide, ⟨_, rfl, by decide, by decide⟩, ⟨_, rfl, by decide⟩, by decide⟩

open Tests in
/-- A register of the region; one at the hub while no module is up; a poisoned operand. -/
theorem witness_SystemRegisters :
    (Ready .always true false false [fs.t0, fs.t1] (hs .always true false false two) two ∧ (hs .always true false false two).origin = none ∧
      two.regOpen 0 fs.sysno.toNat = true) ∧
    (Ready .always true false false [fs.t0, fs.t1] (hs .always true false false (cut two)) (cut two) ∧ (cut two).regOpen 0 0x100 = false ∧
      two.regOpen 0 0x100 = true) ∧
    (let s := at_ 5 [badPkt .i64 1 3] [] [] .idle
     Ready .always true false false [fs.t0, fs.t1] (hs .always true false false s) s ∧ (hs .always true false false s).origin = some 3) ∧
    (two.cluster 0).task.isSome = true :=
  ⟨⟨ready (by decide), by decide, by decide⟩, ⟨ready (by decide), by decide, by decide⟩, ⟨ready (by decide), by decide⟩, by decide⟩

open Tests in
/-- Operands, and a frozen task in cluster 7 whose record stands at 0x40. -/
def Tests.sysS (l r : Nat) : State :=
  ((at_ 5 [num l] [num r] [] .idle).modHub (fun h => { h with awaiting := [({ trapR with pclus := 7, task := 2 }, 0x40)] })).modCluster 7 (fun x =>
    { x with task := some 2, region := { frozen := some { trapR with pclus := 7, task := 2 } } })

open Tests in
/-- keyrev; ctxsv and ctxld where they may act and where they may not; linkq that waits and one that answers; tret. -/
theorem witness_SystemInstructionsFire :
    (laterOf (.keyrev fs) = some (fs, true) ∧ Ready .always true true false [fs.t0, fs.t1] (hs .always true true false two) two ∧
      (hs .always true true false two).origin = none ∧ two.starts (.keyrev fs) 7 64) ∧
    (let s := sysS 7 0x40000
     Ready .always true true false [fs.t0, fs.t1] (hs .always true true false s) s ∧ s.mayCtxsv (bitsOf (7 : Word) 5 0) 0x40000 = true) ∧
    ¬ (sysS 7 0x40001).mayCtxsv 7 0x40001 = true ∧
    (bitsOf (63 : Word) 5 0 = 63 ∧ ((sysS 63 0x40000).cluster 63).task = none) ∧ ¬ ((sysS 0 0x40000).cluster 0).task = none ∧
    (∃ m, linkOf (two.sel.1 / 16) (bitsOf (0 : Word) 6 0) = some m ∧ (two.link m).quiesced = (0 : Word).getLsbD 8) ∧
    (∃ m, linkOf (two.sel.1 / 16) (bitsOf (0x100 : Word) 6 0) = some m ∧ (two.link m).quiesced ≠ (0x100 : Word).getLsbD 8) ∧
    (linkOf (two.sel.1 / 16) (bitsOf (0x7F : Word) 6 0) = none) ∧
    ((sysS 0x41 0).awaited (BitVec.ofNat 64 (bitsOf (0x41 : Word) 63 6 * 64)) = some { trapR with pclus := 7, task := 2 }) ∧
    bitsOf (0x41 : Word) 5 2 = 0 ∧ bitsOf (0x41 : Word) 1 0 = 1 ∧ bitsOf (0x40 : Word) 1 0 = 0 ∧ bitsOf (0x42 : Word) 1 0 = 2 ∧
    trapR.code ∉ [6, 0xD, 0x10] ∧ bitsOf (0x44 : Word) 5 2 ≠ 0 ∧ two.hubOpen 0 = true ∧
    (Ready .always true false false [fs.t0, fs.t1] (hs .always true false false (cut two)) (cut two) ∧ (cut two).hubOpen 0 = false) :=
  ⟨⟨rfl, ready (by decide), by decide, trivial⟩, ⟨ready (by decide), by decide⟩, by decide, by decide, by decide, ⟨_, rfl, by decide⟩,
    ⟨_, rfl, by decide⟩, by decide, by decide, by decide, by decide, by decide, by decide, by decide, by decide, by decide, ready (by decide), by decide⟩

/-! ## Commands -/

/-- Command 3 of node 5 in cluster 0 at a step, with its operands. -/
def Tests.cmdOf (i : Instr) (step : Nat) (l r : Word) : Cmd :=
  { id := 3, task := 1, node := 5, ins := i, fired := 2, l := l, r := r, step := step, arrived := 4 }
/-- Task 1 of job 2 with a window of 16 semaphores from number 8 of cluster 0, and these commands in cluster 0's queue. -/
def Tests.eng (l : List Cmd) (cells : List Host.Cell) : State :=
  { ((Tests.two.modCluster 0 (fun x => { x with eq := l })).modTask 1 (fun t => { t with job := 2, semn := 16, sbase := 8 })).modJob 2
      (fun j => { j with no := 2 }) with mem := cells }
/-- Bytes at an address. -/
def Tests.at0 (a : Nat) (l : List Nat) : List Host.Cell := l.mapIdx (fun k b => (a + k, BitVec.ofNat 8 b))

def Tests.swaitF : FmtE := { Tests.fe with wsem := 1, wthr := 4094, ssem := 0xFF, sinc := 0 }
abbrev Tests.waitC : Cmd := Tests.cmdOf (.swait Tests.swaitF) 2 0 0

open Tests in
/-- A wait that is met, one that is not, one behind an earlier waiter. -/
theorem witness_CommandSteps_wait :
    (eng [waitC] []).cmdReady 0 3 2 = some waitC ∧ waitC.mate = none ∧ ((eng [waitC] []).cluster 0).mayPass waitC waitC.afterWait = true ∧
    (eng [waitC] []).waitKey waitC = some 9 ∧ (eng [waitC] []).semOpen 0 ((eng [waitC] []).task 1) 1 = true ∧ waitC.threshold = 4094 ∧ 4094 ≤ semMax ∧
    (eng [waitC] []).sems.get {} 9 = {} ∧ (eng [waitC] []).waiterBefore waitC 9 = false ∧
    (eng [waitC, { waitC with id := 2, node := 6, arrived := 1 }] []).waiterBefore waitC 9 = true := by decide

/-- A tcopy from tile 2 to tile 3; its descriptor names them. -/
def Tests.tileF : FmtE := { Tests.fe with flg := 3, ssem := 0xFF, sinc := 0 }
abbrev Tests.claimC : Cmd := Tests.cmdOf (.tcopy Tests.tileF) 3 0xFE00000000000100 0
abbrev Tests.claimS (st : TileState) : State :=
  (Tests.eng [Tests.claimC] (Tests.at0 0xFE00000000000100 [2] ++ Tests.at0 0xFE00000000000108 [3])).modTask 1 (fun t =>
    { t with tiles := [(2, { Tests.tileA with state := st }), (3, { Tests.tileA with state := .empty })] })

open Tests in
/-- A claim that is granted, one that waits; a descriptor that is read, one that is not aligned, one in a poisoned sector, and an
early trap. -/
theorem witness_CommandSteps_claim :
    (let s := claimS .ready
     s.cmdReady 0 3 3 = some claimC ∧ (s.cluster 0).mayPass claimC 4 = true ∧
     (∃ d, HasDesc 0 claimC (span 0xFE00000000000100 32) d s ∧ cmdTiles claimC.ins d = [(2, false), (3, true)]) ∧
     s.useTile 0 2 .read = .ok ({ tileA with state := .ready }, 0xFE00000000000000) ∧ (∃ p, s.useTile 0 3 .write = .ok p) ∧
     s.claimBefore 0 claimC [(2, false), (3, true)] = false ∧ s.tilesReady claimC [(2, false), (3, true)] = true) ∧
    (claimS .filling).tilesReady claimC [(2, false), (3, true)] = false ∧
    (let q : Cmd := { claimC with step := 4 }
     (eng [q] []).cmdReady 0 3 4 = some q ∧ ((eng [q] []).cluster 0).mayPass q 5 = true ∧ q.early = none ∧
       (∃ d, HasDesc 0 q (span 0xFE00000000000100 32) d (eng [q] [])) ∧
       ∃ x, ({ eng [q] [] with marks := [sectorOf 0xFE00000000000100] } : State).descBytes 0 q = .error x) ∧
    (let q : Cmd := { claimC with step := 4, l := 0xFE00000000000110 }
     (eng [q] []).cmdReady 0 3 4 = some q ∧ (eng [q] []).walkOpen ((eng [q] []).cmdSpace 0 q) q.l (descSize q.ins) = true ∧
       ∃ x, (eng [q] []).descPlaces 0 q = .error x) ∧
    (let q : Cmd := { claimC with step := 4, l := 0x1000, root := 2 ^ 38 }
     let s := cut (eng [q] [])
     s.cmdReady 0 3 4 = some q ∧ q.early = none ∧ s.walkOpen (s.cmdSpace 0 q) q.l (descSize q.ins) = false) ∧
    (let q : Cmd := { claimC with step := 4, early := some trapR }
     (eng [q] []).cmdReady 0 3 4 = some q ∧ q.mate = none) :=
  ⟨⟨by decide, by decide, ⟨_, ⟨by decide, by decide, rfl, rfl⟩, by decide⟩, by decide, ⟨_, rfl⟩, by decide, by decide⟩, by decide,
    ⟨by decide, by decide, rfl, ⟨_, by decide, by decide, rfl, rfl⟩, ⟨_, rfl⟩⟩, ⟨by decide, by decide, ⟨_, rfl⟩⟩, by decide, by decide⟩

theorem Tests.working {c k : Nat} {q : Cmd} {s : State}
    (h : decide (s.cmdReady c k 5 = some q) && (s.cluster c).mayPass q 6 && decide (q.mate = none) = true) : Working c k q s := by
  simp only [Bool.and_eq_true, decide_eq_true_eq] at h
  exact ⟨h.1.1, h.1.2, h.2⟩

open Tests in
/-- rspeed; sset and ssig at the top of the window; sbind of a free and of a bound port; sfree of a bound one. -/
theorem witness_SemaphoreVoteAndPortCommands :
    (let q := cmdOf (.rspeed { fe with flg := 3, ssem := 0xFF, sinc := 0 }) 5 0 0
     Working 0 3 q (eng [q] [])) ∧
    (let q := cmdOf (.sset { fe with ssem := 15, sinc := 0 }) 5 0 (BitVec.ofNat 64 semMax)
     Working 0 3 q (eng [q] []) ∧ ((eng [q] []).task 1).semKey 15 = some 23 ∧ q.r.toNat ≤ semMax ∧
       (eng [q] []).semOpen 0 ((eng [q] []).task 1) 15 = true) ∧
    (let q := cmdOf (.ssig { fe with ssem := 0, sinc := 63 }) 5 0 0
     Working 0 3 q (eng [q] []) ∧ ((eng [q] []).task 1).semKey 0 = some 8 ∧ ((eng [q] []).sems.get {} 8).val + 63 ≤ semMax ∧
       ((eng [q] []).cluster 0).mayPass q 7 = true ∧ (eng [q] []).semOpen 0 ((eng [q] []).task 1) 0 = true) ∧
    (let q := cmdOf (.sbind { fe with flg := 0xF, ssem := 0xFF, sinc := 0 }) 5 0 0
     let q1 : Cmd := { q with desc := List.replicate 8 0 ++ [4, 0, 0, 0] ++ List.replicate 52 0 }
     Working 0 3 q1 (eng [q1] []) ∧ ((eng [q1] []).task 1).ports.find 15 = none ∧ (Desc.ofBytes q1.desc).valid = true) ∧
    (let q := cmdOf (.sbind { fe with flg := 0xF, ssem := 0xFF, sinc := 0 }) 5 0 0
     let s := (eng [q] []).modTask 1 (fun t => { t with ports := [(15, {})] })
     Working 0 3 q s ∧ (s.task 1).ports.find 15 ≠ none ∧ q.dead = false ∧ q.done = 0) ∧
    (let q := cmdOf (.sfree { fe with flg := 0xF, ssem := 0xFF, sinc := 0 }) 5 0 0
     let s := (eng [q] []).modTask 1 (fun t => { t with ports := [(15, {})] })
     Working 0 3 q s ∧ ∀ x, (s.task 1).ports.find 15 = some x → x.write = false ∨ x.desc.mode ≠ 1) :=
  ⟨working (by decide), ⟨working (by decide), by decide, by decide, by decide⟩,
    ⟨working (by decide), by decide, by decide, by decide, by decide⟩,
    ⟨working (by decide), by decide, by decide⟩, ⟨working (by decide), by decide, by decide, by decide⟩,
    ⟨working (by decide), by rintro x h; cases h; exact .inl rfl⟩⟩

/-- A tcopy of 3 bytes onto itself, one byte further; gathers and scatters of one element. -/
abbrev Tests.copyC : Cmd := { Tests.cmdOf (.tcopy { Tests.tileF with flg := 0 }) 5 0 0 with
  desc := leBytes 8 0xFE00000000000200 ++ leBytes 8 0xFE00000000000201 ++ leBytes 16 3 }
abbrev Tests.copyS : State := Tests.eng [Tests.copyC] (Tests.at0 0xFE00000000000200 [1, 2, 3])
/-- Table at 0xFE..200 with elements of 4 bytes, index -1 of 8 bytes at 0xFE..300, one element, buffer at 0xFE..400. -/
abbrev Tests.gathC (i : FmtE → Instr) : Cmd := { Tests.cmdOf (i { Tests.tileF with flg := 0 }) 5 0 0 with
  desc := leBytes 8 0xFE00000000000200 ++ leBytes 8 0xFE00000000000300 ++ leBytes 8 0xFE00000000000400 ++ leBytes 4 1 ++ leBytes 4 0xA }
abbrev Tests.gathS (i : FmtE → Instr) : State := Tests.eng [Tests.gathC i] (Tests.at0 0xFE000000000001FC [7, 8, 9, 10] ++ Tests.at0 0xFE00000000000300 (List.replicate 8 255))

/-- Bytes of a tcopy in byte mode that is longer than 2 KiB. -/
abbrev Tests.longC : Cmd := { Tests.cmdOf (.tcopy { Tests.tileF with flg := 0, ssem := 2 }) 5 0 0 with
  desc := leBytes 8 0xFE00000000001000 ++ leBytes 8 0xFE00000000002000 ++ leBytes 16 2049 }

abbrev Tests.longS : State := Tests.eng [Tests.longC] []

/-- A byte of the first slice of cluster 0 is its own physical address. -/
theorem Tests.sramX (s : State) (sp : Space) (k : AccKind) (x : Nat) (h : x < 0x30000) :
    s.xlateRaw sp (BitVec.ofNat 64 (0xFE00000000000000 + x)) k = .ok (0xFE00000000000000 + x, none) := by
  have ht : (BitVec.ofNat 64 (0xFE00000000000000 + x)).toNat = 0xFE00000000000000 + x := by
    rw [BitVec.toNat_ofNat]; omega
  have b1 : bitsOf (BitVec.ofNat 64 (0xFE00000000000000 + x)) 63 56 = 0xFE := by simp only [bitsOf, ht]; omega
  have b2 : bitsOf (BitVec.ofNat 64 (0xFE00000000000000 + x)) 55 30 = 0 := by simp only [bitsOf, ht]; omega
  have b3 : bitsOf (BitVec.ofNat 64 (0xFE00000000000000 + x)) 29 24 = 0 := by simp only [bitsOf, ht]; omega
  have b4 : bitsOf (BitVec.ofNat 64 (0xFE00000000000000 + x)) 23 18 = 0 := by simp only [bitsOf, ht]; omega
  have b5 : bitsOf (BitVec.ofNat 64 (0xFE00000000000000 + x)) 17 0 = x := by simp only [bitsOf, ht]; omega
  have hx : ¬ 0x30000 ≤ x := by omega
  simp [State.xlateRaw, State.sram, b1, b2, b3, b4, b5, hx, sliceAddr, sramBase, Except.map]

/-- A run of it translates, takes no slot and passes no link. -/
theorem Tests.sramRun (s : State) (sp : Space) (k : AccKind) (x : Nat) : ∀ n, x + n ≤ 0x30000 →
    s.xlateBytes sp (BitVec.ofNat 64 (0xFE00000000000000 + x)) n k = .ok (span (0xFE00000000000000 + x) n) ∧
    s.placesTo sp (BitVec.ofNat 64 (0xFE00000000000000 + x)) n = (span (0xFE00000000000000 + x) n, none) := by
  have e (j : Nat) : BitVec.ofNat 64 (0xFE00000000000000 + x) + BitVec.ofNat 64 j = BitVec.ofNat 64 (0xFE00000000000000 + (x + j)) := by
    rw [← BitVec.ofNat_add, Nat.add_assoc]
  intro n h
  refine ⟨?_, ?_⟩
  · have aux : ∀ n l, x + n ≤ 0x30000 → (List.range n).foldr (fun j acc =>
        match s.xlateRaw sp (BitVec.ofNat 64 (0xFE00000000000000 + x) + BitVec.ofNat 64 j) k with
        | .error f => .error f
        | .ok (pa, _) => acc.map (pa :: ·)) (.ok l) = (.ok (span (0xFE00000000000000 + x) n ++ l) : Except XFault (List Nat)) := by
      intro n
      induction n with
      | zero => intro l _; rfl
      | succ n ih =>
        intro l h
        rw [List.range_succ, List.foldr_append, List.foldr_cons, List.foldr_nil, e, sramX s sp k (x + n) (by omega)]
        refine (ih _ (by omega)).trans ?_
        simp [span, List.range_succ, Nat.add_assoc]
    have := aux n [] h
    rwa [List.append_nil] at this
  · induction n with
    | zero => rfl
    | succ n ih =>
      rw [State.placesTo, ih (by omega), e, sramX s sp .write (x + n) (by omega)]
      simp [span, List.range_succ, Nat.add_assoc]

theorem Tests.sramPages (x n : Nat) (hx : x + n ≤ 0x30000) (p : Word) (hp : p ∈ pageStarts (BitVec.ofNat 64 (0xFE00000000000000 + x)) n) :
    2 ≤ bitsOf p 63 56 := by
  have ht : (BitVec.ofNat 64 (0xFE00000000000000 + x)).toNat = 0xFE00000000000000 + x := by rw [BitVec.toNat_ofNat]; omega
  unfold pageStarts at hp
  split_ifs at hp with h0
  · simp at hp
  · rcases List.mem_cons.mp hp with rfl | hp
    · simp only [bitsOf, ht]; omega
    · obtain ⟨j, hj, rfl⟩ := List.mem_map.mp hp
      have hj := List.mem_range.mp hj
      rw [ht] at hj ⊢
      have e : (BitVec.ofNat 64 (((0xFE00000000000000 + x) / 4096 + j + 1) * 4096)).toNat = ((0xFE00000000000000 + x) / 4096 + j + 1) * 4096 := by
        rw [BitVec.toNat_ofNat]; omega
      simp only [bitsOf, e]; omega

/-- Its translation walks nowhere. -/
theorem Tests.sramOpen (s : State) (sp : Space) (x n : Nat) (hx : x + n ≤ 0x30000) :
    s.walkOpen sp (BitVec.ofNat 64 (0xFE00000000000000 + x)) n = true :=
  List.all_eq_true.mpr (fun p hp => by simp [sramPages x n hx p hp])

theorem Tests.sramWalked (s : State) (sp : Space) (k : AccKind) (x n : Nat) (hx : x + n ≤ 0x30000) :
    s.walked sp (BitVec.ofNat 64 (0xFE00000000000000 + x)) n k = s :=
  List.foldlRecOn _ _ (motive := fun (st : State) => st = s) rfl (fun st e p hp => by simp [e, State.walked1, sramPages x n hx p hp])

theorem Tests.sramNear (s : State) (c x n : Nat) (hc : c < 16) (hk : (s.cluster 0).skip ≠ some s.now) (hx : x + n ≤ 0x30000) (p : Nat)
    (hp : p ∈ span (0xFE00000000000000 + x) n) :
    isFar p = false ∧ s.pathOpen c p = true := by
  obtain ⟨j, hj, rfl⟩ : ∃ j, j < n ∧ 0xFE00000000000000 + x + j = p := by simpa [span] using hp
  have hr : rangeOf (0xFE00000000000000 + x + j) = none := by
    unfold rangeOf; split_ifs <;> first | omega | rfl
  have hs : isSram (0xFE00000000000000 + x + j) = true := decide_eq_true (show sramBase ≤ _ by unfold sramBase; omega)
  have hm : sramClus (0xFE00000000000000 + x + j) = 0 := by simp only [sramClus, sramBase]; omega
  refine ⟨by simp [isFar, hr], ?_⟩
  simp [State.pathOpen, hs, hm, State.clusOpen, State.dieOpen, State.meshOpen, Nat.div_eq_of_lt hc, show c < 64 by omega, hk]

theorem Tests.placed_mem {a : Word} {pas : List Nat} {x : Word × Nat} (h : x ∈ placed a pas) : x.2 ∈ pas := by
  obtain ⟨w, p⟩ := x
  rw [placed, ← List.map_uncurry_zip_eq_zipWith] at h
  obtain ⟨y, hy, e⟩ := List.mem_map.mp h
  obtain ⟨y1, y2⟩ := y
  simp only [Function.uncurry, Prod.mk.injEq] at e
  exact e.2 ▸ (List.of_mem_zip hy).2

/-- A read of a run of it is at hand at once. -/
theorem Tests.sramGot (s : State) (c : Nat) (q : Cmd) (x n : Nat) (hc : c < 16) (hk : (s.cluster 0).skip ≠ some s.now) (hx : x + n ≤ 0x30000) :
    ∃ u bs, s.cmdGet c q (BitVec.ofNat 64 (0xFE00000000000000 + x)) n = .got u (span (0xFE00000000000000 + x) n) bs := by
  have hr := (sramRun s (s.cmdSpace c q) .read x n hx).1
  refine ⟨s.walked (s.cmdSpace c q) (BitVec.ofNat 64 (0xFE00000000000000 + x)) n .read, s.peek (s.readCuts (s.cmdSpace c q) (span (0xFE00000000000000 + x) n)), ?_⟩
  simp only [State.cmdGet, State.cmdRead, hr, Except.map, State.cmdReach, sramOpen s _ x n hx]
  have hw : ((s.walked (s.cmdSpace c q) (BitVec.ofNat 64 (0xFE00000000000000 + x)) n .read).cluster 0).skip ≠
      some (s.walked (s.cmdSpace c q) (BitVec.ofNat 64 (0xFE00000000000000 + x)) n .read).now := by
    rw [sramWalked s _ _ _ _ hx]; exact hk
  rw [reach_near _ _ _ _ _ (fun y hy => sramNear _ _ x n hc hw hx _ (placed_mem hy))]
  rfl

/-- A tcopy of 3 bytes to drawer memory at virtual address 0x1000, whose response has come. -/
abbrev Tests.awayC : Cmd := { Tests.cmdOf (.tcopy { Tests.tileF with flg := 0 }) 5 0 0 with
  desc := leBytes 8 0xFE00000000000200 ++ leBytes 8 0x1000 ++ leBytes 16 3, buf := [(1, false), (2, false), (3, true)] }
def Tests.answered (id : Nat) (w : Requester) (a : Nat) : FarReq :=
  { id := id, clus := 0, who := w, addr := a, peer := false, key := 0, prio := 2, eligible := 0, slot := some (0, 0), answered := true }
abbrev Tests.awayS : State :=
  { (Tests.eng [Tests.awayC] []).modCluster 0 (fun x => { x with
      tlb := [{ asid := 0, va := 0x1000, log := 12, pa := 0x200000001000, r := true, w := true, x := false, u := true }] }) with
    fars := [(0, { reqs := [Tests.answered 1 (.cmd 3) 0x200000001000] })] }

open Tests in
/-- tcopy onto itself and to drawer memory; tgath and tscat of one element, tgath of a poisoned index; byte mode beyond 2 KiB. -/
theorem witness_CopyGatherScatter :
    (Working 0 3 copyC copyS ∧ copyC.done = 0 ∧ (span 0xFE00000000000201 3).Nodup ∧ copyC.buf = [] ∧ copyS.memOk ∧
      (∃ u src bs, copyS.cmdGet 0 copyC (wordAt copyC.desc 0) (fieldAt copyC.desc 16 4) = .got u src bs) ∧
      (∀ (u : State) (sp : Space), u.placesTo sp (wordAt copyC.desc 8) 3 = (span 0xFE00000000000201 3, none)) ∧
      (∀ (u : State) (sp : Space), u.walkOpen sp (wordAt copyC.desc 8) 3 = true) ∧
      (∀ p ∈ span 0xFE00000000000201 3, isFar p = false ∧ copyS.pathOpen 0 p = true)) ∧
    (Working 0 3 awayC awayS ∧ awayS.memOk ∧ oneWrite (span 0x200000001000 3) = 3 ∧ (∀ p ∈ span 0x200000001000 3, isFar p = true) ∧
      awayC.buf.length = fieldAt awayC.desc 16 4 ∧ awayS.walkOpen (awayS.cmdSpace 0 awayC) (wordAt awayC.desc 8) (fieldAt awayC.desc 16 4) = true ∧
      awayS.placesTo (awayS.cmdSpace 0 awayC) (wordAt awayC.desc 8) (fieldAt awayC.desc 16 4) = (span 0x200000001000 3, none) ∧
      (awayS.walked (awayS.cmdSpace 0 awayC) (wordAt awayC.desc 8) (fieldAt awayC.desc 16 4) .write).cmdReach 0 awayC
        (placed (wordAt awayC.desc 8) (span 0x200000001000 3)) = .go) ∧
    (let q := gathC .tgath
     let s := gathS .tgath
     Working 0 3 q s ∧ s.memOk ∧ (s.moves q).count = 1 ∧
       ∃ u ip is, s.cmdGet 0 q (s.moves q).idx (s.moves q).isz = .got u ip is ∧ is.any (·.2) = false ∧
         (BitVec.ofNat (8 * (s.moves q).isz) (leVal (is.map (·.1)))).toInt = -1 ∧
         ∃ v src bs, u.cmdGet 0 q ((s.moves q).base + BitVec.ofInt 64 (-1 * (s.moves q).e)) (s.moves q).e = .got v src bs ∧
           v.walkOpen (v.cmdSpace 0 q) (s.moves q).buf (s.moves q).e = true ∧
           v.xlateBytes (v.cmdSpace 0 q) (s.moves q).buf (s.moves q).e .write = .ok (span 0xFE00000000000400 4) ∧
           (v.walked (v.cmdSpace 0 q) (s.moves q).buf (s.moves q).e .write).cmdReach 0 q (placed (s.moves q).buf (span 0xFE00000000000400 4)) = .go) ∧
    Working 0 3 (gathC .tscat) (gathS .tscat) ∧
    (let q := gathC .tgath
     let s : State := { gathS .tgath with marks := [sectorOf 0xFE00000000000300] }
     Working 0 3 q s ∧ ∃ u ip is, s.cmdGet 0 q (s.moves q).idx (s.moves q).isz = .got u ip is ∧ is.any (·.2) = true ∧
       u.walkOpen (u.cmdSpace 0 q) (s.moves q).buf (s.moves q).e = true ∧ u.xlateBytes (u.cmdSpace 0 q) (s.moves q).buf (s.moves q).e .write = .ok (span 0xFE00000000000400 4)) ∧
    (Working 0 3 longC longS ∧ longC.signalled = 0 ∧ 2048 < fieldAt longC.desc 16 4 ∧ (longS.task 1).semKey 2 = some 10 ∧
      (longS.sems.get {} 10).val + 2048 ≤ semMax ∧ longS.semOpen 0 (longS.task 1) 2 = true ∧
      (∀ (u : State) (sp : Space), u.walkOpen sp (wordAt longC.desc 8) 2048 = true) ∧ (span 0xFE00000000002000 2048).Nodup ∧
      (∀ p ∈ span 0xFE00000000002000 2048, longS.otherCopy p = none ∧ isFar p = false ∧ longS.pathOpen 0 p = true) ∧
      (∃ u src bs, longS.cmdGet 0 longC (wordAt longC.desc 0) (fieldAt longC.desc 16 4) = .got u src bs) ∧
      ∀ (u : State) (sp : Space), u.placesTo sp (wordAt longC.desc 8) 2048 = (span 0xFE00000000002000 2048, none)) ∧
    (copyS.cmdSpace 0 copyC).lag = 0 :=
  ⟨⟨working (by decide), by decide, by decide, by decide, by decide, ⟨_, _, _, rfl⟩, fun u sp => (sramRun u sp .write 0x201 3 (by decide)).2,
      fun u sp => sramOpen u sp 0x201 3 (by decide), fun p hp => sramNear _ 0 0x201 3 (by decide) (by decide) (by decide) p hp⟩,
    ⟨working (by decide), by decide, by decide, by decide, by decide, by decide, by decide, rfl⟩,
    ⟨working (by decide), by decide, by decide, ⟨_, _, _, rfl, by decide, by decide, ⟨_, _, _, rfl, by decide, by decide, rfl⟩⟩⟩,
    working (by decide), ⟨working (by decide), ⟨_, _, _, rfl, by decide, by decide, by decide⟩⟩,
    ⟨working (by decide), by decide, by decide, by decide, by decide, by decide, fun u sp => sramOpen u sp 0x2000 2048 (by decide),
      List.nodup_range.map (fun a b h => by simpa using h),
      fun p hp => ⟨rfl, sramNear _ 0 0x2000 2048 (by decide) (by decide) (by decide) p hp⟩,
      (sramGot longS 0 longC 0x1000 2049 (by decide) (by decide) (by decide)).imp (fun _ h => ⟨_, h⟩),
      fun u sp => (sramRun u sp .write 0x2000 2048 (by decide)).2⟩, by decide⟩

/-- A kick of a task into virtual region 63 with priority 3, and its arguments. -/
abbrev Tests.kickC : Cmd := { Tests.cmdOf (.kick { Tests.fe with ssem := 0xFF, sinc := 0 }) 5 0 0 with
  desc := leBytes 8 0x8000 ++ [3, 63, 0, 0, 0, 0, 0, 0] ++ (List.range 8).flatMap (fun j => leBytes 8 (j + 1)) }
/-- A request for one replica in group 1 with a capacity. -/
abbrev Tests.replC (cap : Nat) : Cmd := { Tests.cmdOf (.repl { Tests.fe with flg := 5, ssem := 0xFF, sinc := 0 }) 5 0 0 with
  desc := leBytes 8 0x8000 ++ leBytes 24 cap }

open Tests in
/-- A card into a queue of 255 and one of 256; a task; no replica, an inadmissible capacity, a replica in cluster 1. -/
theorem witness_LaunchCommands :
    (let q := cmdOf (.kick { fe with flg := 1, ssem := 0xFF, sinc := 0 }) 5 0x8000 0
     let full (n : Nat) : State := (eng [q] []).modHub (fun h => { h with queue := List.replicate n { addr := 0, root := 0, asid := 0 } })
     Working 0 3 q (full 255) ∧ Working 0 3 q (full 256) ∧ (full 255).hubOpen 0 = true ∧ (cut (full 0)).hubOpen 0 = false ∧
       ∀ n, (full n).hub.queue.length = n) ∧
    (let s := eng [kickC] []
     let d := s.dieOfVreg (s.task kickC.task).job 63
     let x := d.1.kickedTask kickC d.2 []
     Working 0 3 kickC s ∧ fieldAt kickC.desc 9 1 % 64 = 63 ∧ s.vregBusy (s.task kickC.task).job 63 = false ∧
       s.gangBusy (s.task kickC.task).job (fieldAt kickC.desc 10 2) = false ∧ x.id ≠ s.taskIdOf 0 ∧
       ((d.1.addTask x.id x).queueNew x.id 0).isSome = true) ∧
    (let s := (eng [kickC] []).setTask 9 { id := 9, job := 2, vreg := some 63 }
     s.gangBusy (s.task kickC.task).job (fieldAt kickC.desc 10 2) = false ∧ s.vregBusy (s.task kickC.task).job 63 = true) ∧
    (let q : Cmd := { kickC with desc := leBytes 8 0x8000 ++ [3, 63, 5, 0, 0, 0, 0, 0] }
     let s := (eng [q] []).setTask 9 { id := 9, job := 2, gang := 5, started := true }
     Working 0 3 q s ∧ s.gangBusy (s.task q.task).job (fieldAt q.desc 10 2) = true) ∧
    (Working 0 3 (replC 65) (eng [replC 65] []) ∧ fieldAt (replC 65).desc 8 4 % 16 ≠ 0 ∧ (replC 65).dead = false) ∧
    (Working 0 3 (replC 64) (eng [replC 64] []) ∧ fieldAt (replC 64).desc 8 4 = 64 ∧
      (∃ rest, (eng [replC 64] []).replicaSpots 0 = 1 :: rest) ∧ ((eng [replC 64] []).cluster 0).mayPass (replC 64) 7 = true ∧ (((eng [replC 64] []).task 1).groups.get {} 1).tasks = []) ∧
    ({ eng [replC 64] [] with clusters := (List.range 64).map (fun c => (c, { task := some 1 })) } : State).replicaSpots 0 = [] ∧
    (let q : Cmd := { replC 64 with ins := .repl { fe with t0 := .left 9, flg := 5, ssem := 0xFF, sinc := 0 }, val := true, result := 1, rreg := some 7 }
     let u := ((eng [q] []).modTask 1 (fun t => { t with pends := [{ reg := 7, cmd := 3 }] })).modRegion 0 (fun r => { r with
       nodes := r.nodes.set 9 { l := { toks := [{ tok := .ctl true false 0, pend := some 3 }] } } })
     (u.cluster 0).task = some 1 ∧ q.dead = false ∧ q.mate = none ∧ (u.region 0).placeAt (.left 9) 3 ∧ (u.region 0).awaits 7 = false ∧
       ∃ p, (u.task 1).pends.find? (fun p => p.cmd == q.id) = some p ∧ 1 ≤ p.reg) :=
  ⟨⟨working (by decide), working (by decide), by decide, by decide, fun n => List.length_replicate⟩,
    ⟨working (by decide), by decide, by decide, by decide, by decide, by decide⟩, by decide, ⟨working (by decide), by decide⟩,
    ⟨working (by decide), by decide, by decide⟩, ⟨working (by decide), by decide, ⟨_, rfl⟩, by decide, by decide⟩, by decide,
    ⟨by decide, by decide, by decide, ⟨_, List.mem_singleton.mpr rfl, rfl⟩, by decide, _, rfl, by decide⟩⟩

/-- A send of some bytes to the inbox at 0xFE..800, whose buffer has 64 bytes. -/
abbrev Tests.sendC (len done : Nat) : Cmd := { Tests.cmdOf (.msend { Tests.tileF with flg := 0 }) 5 0 0 with
  done := done, inbox := some (0xFE00000000000800, 0xFE00000000000840), desc := leBytes 8 0xFE00000000000800 ++ leBytes 8 0xFE00000000000200 ++ leBytes 16 len }
abbrev Tests.sendS (q : Cmd) : State := (Tests.eng [q] []).initIcb 0xFE00000000000800 64 1
abbrev Tests.box : Icb := { pa := 0xFE00000000000800, buf := 0xFE00000000000840, cap := 64, sem := 0xFF, tail := 0, commit := 0, head := 0, owner := 1 }

/-- A migr of the page at 0 and the next, to the far tier, at its first page; the tables of the pages, the first in frame 0x8000 and the
second in frame 0x200000003000; the free-frame stacks, at 0x6000 and 0x7000; the frame at hand. -/
abbrev Tests.migrC (result : Nat) : Cmd := { Tests.cmdOf (.migr { Tests.tileF with flg := 0 }) 5 0 0 with
  root := 0x1000, priv := true, result := BitVec.ofNat 64 result, desc := leBytes 8 0 ++ leBytes 4 2 ++ [1] ++ List.replicate 19 0 }
abbrev Tests.pages : List Host.Cell :=
  Tests.at0 0x1000 [1, 0x20] ++ Tests.at0 0x2000 [1, 0x30] ++ Tests.at0 0x3000 [1, 0x40] ++ Tests.at0 0x4000 [1, 0x50] ++
  Tests.at0 0x5000 [0x37, 0x80] ++ [(0x5008, 0xB7), (0x5009, 0x30), (0x500D, 0x20)] ++ [(0x7000, 1)] ++
  [(0x7009, 0x10), (0x700D, 0x20)] ++ Tests.at0 0x8000 [7, 8]
abbrev Tests.migrS (result : Nat) (l : List Migr) : State :=
  { (Tests.eng [Tests.migrC result] Tests.pages).modHub (fun h => { h with migStack0 := 0x6000, migStack1 := 0x7000, migs := l }) with
    fars := (List.range 2).map (fun f =>
      (f, { reqs := (List.range 8).map (fun k => Tests.answered k (.cmd 3) (0x200000001000 + 512 * k + 256 * f)) })) }
abbrev Tests.migr1 : Migr := { cmd := 3, clus := 0, va := 0, oldPa := 0x8000, newPa := 0x200000001000, pte := 0x5000 }

open Tests in
/-- The longest body that fits, one byte more; a second sender that waits; publication, and one that waits; a page that starts to
move, one that is in its tier, one that ends its move. -/
theorem witness_MessagesAndMigration :
    (Working 0 3 (sendC 48 0) (sendS (sendC 48 0)) ∧ fieldAt (sendC 48 0).desc 16 4 = 48 ∧
      (∃ x, (sendS (sendC 48 0)).xlateRaw ((sendC 48 0).space 0) (wordAt (sendC 48 0).desc 0) .atomic = .ok x ∧
        (sendS (sendC 48 0)).pathOpen 0 x.1 = true) ∧
      (sendS (sendC 48 0)).walkOpen ((sendC 48 0).space 0) (wordAt (sendC 48 0).desc 0) 1 = true ∧
      (sendS (sendC 48 0)).icb ((sendC 48 0).space 0) (wordAt (sendC 48 0).desc 0) = some box ∧ 16 + 48 ≤ box.cap ∧
      box.fits (msgSize 48) = true ∧ (sendS (sendC 48 0)).sendBefore (sendC 48 0) box.pa = false ∧
      (∃ u pas body, (sendS (sendC 48 0)).cmdGet 0 (sendC 48 0) (wordAt (sendC 48 0).desc 8) 48 = .got u pas body) ∧
      (sendS (sendC 48 0)).memOk ∧ box.pa + 24 ≤ box.buf) ∧
    (Working 0 3 (sendC 49 0) (sendS (sendC 49 0)) ∧ box.cap < 16 + 49 ∧ (sendC 49 0).dead = false) ∧
    (let s := (sendS (sendC 8 0)).modCluster 0 (fun x => { x with eq := x.eq ++ [{ sendC 8 0 with id := 2, node := 6, arrived := 1 }] })
     Working 0 3 (sendC 8 0) s ∧ s.sendBefore (sendC 8 0) box.pa = true) ∧
    ((sendS (sendC 8 1)).cmdReady 0 3 5 = some (sendC 8 1) ∧ (sendC 8 1).inbox = some (box.pa, box.buf) ∧
      (sendS (sendC 8 1)).icbAt box.pa box.buf = box ∧ (sendS (sendC 8 1)).pathOpen 0 box.pa = true ∧ box.commit = (sendC 8 1).result.toNat ∧ box.sem = 0xFF ∧ (sendS (sendC 8 1)).memOk) ∧
    (let q : Cmd := { sendC 8 1 with result := 16 }
     (sendS q).cmdReady 0 3 5 = some q ∧ (sendS q).icbAt box.pa box.buf = box ∧ box.commit ≠ q.result.toNat) ∧
    (let q := migrC 0
     let s := migrS 0 []
     Working 0 3 q s ∧ s.hub.migs = [] ∧ s.migrOpen 0 q = true ∧ (∀ p ∈ s.stackWords q.tier, s.pathOpen 0 p = true) ∧
       s.pagesFault 0 q (fieldAt q.desc 8 4) = none ∧ q.result.toNat < fieldAt q.desc 8 4 ∧
       s.pageLeaf (q.space 0) (q.page q.result.toNat) = .ok { at_ := 0x5000, e := 0x8037, lvl := 0 } ∧ (pteTier 0x8037).toNat ≠ q.tier ∧
       pteC64 0x8037 = false ∧ rangeOf (ptePa 0x8037) ≠ some 3 ∧ s.paeLast < s.migStamp ∧
       s.topFrame 0 q (q.page q.result.toNat) = .ok (0x200000001000, 0) ∧
       s.cmdReach 0 q (pageWindows (q.page q.result.toNat) (ptePa 0x8037) 0x200000001000) = .go ∧ s.memOk ∧
       ∀ x ∈ span (ptePa 0x8037) 4096, x ∉ span (s.stackOf q.tier) 8 ∧ x ∉ span 0x5000 8) ∧
    (let q := migrC 1
     let s := migrS 1 []
     Working 0 3 q s ∧ q.result.toNat < fieldAt q.desc 8 4 ∧ s.migrOpen 0 q = true ∧
       s.pageLeaf (q.space 0) (q.page q.result.toNat) = .ok { at_ := 0x5008, e := 0x2000000030B7, lvl := 0 } ∧
       (pteTier 0x2000000030B7).toNat = q.tier) ∧
    (let q := migrC 0
     let s := migrS 0 [migr1]
     Working 0 3 q s ∧ s.hub.migs.find? (fun m => m.cmd == q.id && m.clus == 0) = some migr1 ∧ s.paeLast < s.migStamp ∧ s.memOk ∧
       s.leNow (s.stackOf (1 - q.tier)) 8 + 1 = 1 ∧ (∀ p ∈ migr1.pte :: s.stackWords (1 - q.tier), s.pathOpen 0 p = true) ∧
       ∀ x ∈ span migr1.pte 8, x ∉ span (s.stackOf (1 - q.tier)) 8 ∧ x ∉ span (s.stackOf (1 - q.tier) + 8 * 1) 8) :=
  ⟨⟨working (by decide), by decide, ⟨_, rfl, by decide⟩, by decide, by decide, by decide, by decide, by decide, ⟨_, _, _, rfl⟩, by decide, by decide⟩,
    ⟨working (by decide), by decide, by decide⟩, ⟨working (by decide), by decide⟩, by decide, by decide,
    ⟨working (by decide), by decide, by decide, by decide, by decide, by decide, by decide, by decide, by decide, by decide, by decide, by decide, rfl,
      by decide, by
        have e : ptePa 0x8037 = 0x8000 := by decide
        rw [e]
        intro x hx
        obtain ⟨j, hj, rfl⟩ : ∃ j, j < 4096 ∧ 0x8000 + j = x := by simpa [span] using hx
        refine ⟨fun h => ?_, fun h => ?_⟩
        · obtain ⟨i, hi, e⟩ : ∃ i, i < 8 ∧ 0x7000 + i = 0x8000 + j := by simpa [span] using (show 0x8000 + j ∈ span 0x7000 8 from h)
          omega
        · obtain ⟨i, hi, e⟩ : ∃ i, i < 8 ∧ 0x5000 + i = 0x8000 + j := by simpa [span] using h
          omega⟩,
    ⟨working (by decide), by decide, by decide, by decide, by decide⟩,
    ⟨working (by decide), by decide, by decide, by decide, by decide, by decide, by decide⟩⟩

/-! ## Blocks and ports -/

/-- A block of one node, which adds 1 to g3 and writes g4 through write entry 0. -/
def Tests.img0 : Image :=
  { nins := 1, nrd := 1, nwr := 1, ii := 1, nex := 1, smask := 1, priv := true, rpt := false, strict := false, save := 0, nlf := 0
    reads := [{ reg := 3, mode := .plain, t0 := .left 0, t1 := .none }], writes := [{ reg := 4, opt := false }], luts := []
    words := [0x01300FFC00200001] }
/-- A loop: carry, an addition, a comparison. -/
def Tests.img1 : Image := { Tests.img0 with nins := 3, words := [0x86001FFC00000000, 0x0110000800200001, 0x27200FFC00200001] }
/-- Task 1 in cluster 0 with a block. -/
def Tests.blk (im : Image) (g : Region → Region) : State :=
  { now := 9, tasks := [(1, { id := 1, place := .region 0 })]
    clusters := [(0, { task := some 1, region := g { blk := 0x4000, img := some im, words := (List.range im.words.length).zip im.words } })] }
def Tests.selX (k : ExitKind) (a : Word) : Sel := { kind := k, addr := a, exn := 0, node := 0, cycle := 3 }
def Tests.shd : Shadow := { blk := 0x8000, usable := 5, ready := true, img := some Tests.img0 }

/-- A block whose exit has been selected, one with a store under SMASK still out. -/
abbrev Tests.ending : State := Tests.blk Tests.img0 (fun r => { r with sel := some (Tests.selX .exit 0x8000), shadow := some Tests.shd })
abbrev Tests.storing : State := Tests.ending.modRegion 0 (fun r => { r with
  accesses := [{ Tests.accOf (.st { Tests.fm with t0 := .none, ord := 0, lsid := 0 }) 0 none with fired := 2 }] })
/-- The wave at node 0: its marker there, its predicate refusing, it retired, a purge marker instead. -/
abbrev Tests.wave (n : Node) : State := Tests.ending.modRegion 0 (fun r => { r with inject := some 8, step := 1, nodes := [(0, n)] })
abbrev Tests.marked : State := Tests.wave { l := Tests.q [.mark .teardown] }
abbrev Tests.looped : State := Tests.blk Tests.img1 (fun r => { r with nodes := [(1, { l := Tests.q [.mark .purge] })] })
/-- An addition whose target is full for good: the node behind it lacks an operand. -/
def Tests.addTo (t : Target) (ir : Bool) : Instr := .add { pm := .always, t0 := t, t1 := .none, ty := .i64, md := 0, ph := 0, ir := ir, imm := 0 }
def Tests.imgJ : Image := { Tests.img0 with nins := 2, reads := [{ reg := 3, mode := .plain, t0 := .left 0, t1 := .right 1 }]
                                            words := [encode (Tests.addTo (.left 1) true), encode (Tests.addTo (.write 0) false)] }
abbrev Tests.jammed : State := (Tests.blk Tests.imgJ (fun r => { r with inject := some 4, step := 1, nodes := [
  (0, { l := Tests.q [Tests.num 1, .mark .teardown] }), (1, { l := Tests.q (List.replicate 8 (Tests.num 2)), r := Tests.q [.mark .teardown] })] }))

open Tests in
/-- A refused operand set; teardown that waits and that goes; a node that retires, one without its marker, one whose target stays
full; a flip before the wave is over, one without a shadow, one with a back queue that lacks its marker, and one that goes; purge
markers without a loop, on a loop, and at the initial value of a carry. -/
theorem witness_TeardownWave :
    (let s := blk { img0 with words := [0x01700FFC00200001] } (fun r => { r with nodes := [(0, { l := q [num 1], p := q [no] })] })
     (s.at 0 0).live = true ∧ ∃ x, s.instrOf 0 0 = some x ∧ planOf x (s.at 0 0) = .discard [0, 2]) ∧
    ((storing.region 0).sel = some (selX .exit 0x8000) ∧ storing.running 0 = true ∧ (storing.region 0).step = 0 ∧ (storing.region 0).inject = none ∧
      ∃ a ∈ (storing.region 0).accesses, a.old = false ∧ isWriteClass a.ins = true ∧ a.fired < 3 ∧ img0.smask.getLsbD (memFmt a.ins).lsid.toNat = true) ∧
    ((ending.region 0).sel = some (selX .exit 0x8000) ∧ ending.running 0 = true ∧ (ending.region 0).step = 0 ∧ (ending.region 0).inject = none ∧
      Nat.max 3 (ending.region 0).storeAt < ending.now ∧ (ending.region 0).storesBefore 3 = false) ∧
    (marked.running 0 = true ∧ (marked.region 0).inject.isSome = true ∧ ((marked.region 0).node 0).retired = false ∧ (marked.instrOf 0 0).isSome = true ∧
      ((marked.region 0).node 0).firedAt ≠ some marked.now ∧ marked.markersIn 0 0 = true ∧ marked.loadsOut 0 0 = false ∧ marked.holdsWork 0 0 = false) ∧
    ((wave {}).markersIn 0 0 = false ∧ ((wave {}).instrOf 0 0).isSome = true) ∧
    (jammed.running 0 = true ∧ ((jammed.region 0).node 0).retired = false ∧ (jammed.instrOf 0 0).isSome = true ∧ jammed.markersIn 0 0 = true ∧
      jammed.loadsOut 0 0 = false ∧ jammed.holdsWork 0 0 = true ∧ jammed.canAct 0 0 = false ∧ jammed.stirs 0 = false) ∧
    (let s := wave { retired := true }
     s.running 0 = true ∧ (s.region 0).inject.isSome = true ∧ (s.node 0 0).retired = true ∧ (s.node 0 0).flipped = false ∧
       (s.node 0 0).setAt ≤ s.now ∧ queuesOf img0 0 true = [] ∧ (s.region 0).shadowIn s.now = true) ∧
    (let s := wave { retired := true, setAt := 10 }
     s.now < (s.node 0 0).setAt) ∧
    (let s := (wave { retired := true }).modRegion 0 (fun r => { r with img := some img1 })
     queuesOf img1 0 true ≠ [] ∧ ∃ k ∈ queuesOf img1 0 true,
       (((((s.region 0).clearSlots s.now 0 false (queuesOf img1 0 true)).1).node 0).queue k).marker s.now ≠ some .teardown) ∧
    (((wave { retired := true }).modRegion 0 (fun r => { r with shadow := none })).region 0).shadowIn 9 = false ∧
    (let s := wave { l := q [.mark .purge] }
     s.running 0 = true ∧ (s.node 0 0).retired = false ∧ (∃ x, s.instrOf 0 0 = some x ∧ 0 ∉ ownPurge x ∧ purgeWaits x (s.node 0 0).st 0 = false) ∧
       s.purgeHeads 0 0 = [0] ∧ purgeGroups img0 0 = []) ∧
    (looped.running 0 = true ∧ (looped.node 0 1).retired = false ∧ (∃ x, looped.instrOf 0 1 = some x ∧ 0 ∉ ownPurge x ∧
       purgeWaits x (looped.node 0 1).st 0 = false ∧ ∀ tg ∈ drivenTargets x, (looped.region 0).accepts looped.now tg = true) ∧
       looped.purgeHeads 0 1 = [0] ∧ purgeGroups img1 1 = [[0]] ∧ ∀ x, looped.instrOf 0 1 = some x → purgeAlone x 0 = false) ∧
    (let s := blk img1 (fun r => { r with nodes := [(0, { l := q [.mark .purge] })] })
     s.running 0 = true ∧ (s.node 0 0).retired = false ∧ (∃ x, s.instrOf 0 0 = some x ∧ 0 ∉ ownPurge x ∧
       purgeWaits x (s.node 0 0).st 0 = false ∧ purgeAlone x 0 = true) ∧ s.purgeHeads 0 0 = [0]) :=
  ⟨⟨by decide, ⟨_, rfl, rfl⟩⟩, by decide, by decide, by decide, by decide, by decide, by decide, by decide, by decide, by decide,
    ⟨by decide, by decide, ⟨_, rfl, by decide, by decide⟩, by decide, by decide⟩,
    ⟨by decide, by decide, ⟨_, rfl, by decide, by decide, by decide⟩, by decide, by decide, by rintro x h; cases h; rfl⟩,
    ⟨by decide, by decide, ⟨_, rfl, by decide, by decide, by decide⟩, by decide⟩⟩

/-- A read-only, executable page of 64 KiB at 0, kept by the TLB of cluster 0. -/
def Tests.page : TlbEntry := { asid := 0, va := 0, log := 16, pa := 0, r := true, w := true, x := true, u := true }
/-- The shadow to be loaded: its image stands in the block cache, or its address translates nowhere. -/
abbrev Tests.loading (tlb : List TlbEntry) : State :=
  ((Tests.blk Tests.img0 (fun r => { r with shadow := some { blk := 0x8000, usable := 9 } })).modCluster 0 (fun x =>
    { x with tlb := tlb, cache := [(0x8000, { Tests.img0 with priv := false })] })).modHub (fun h => { h with keyValid := true })
/-- A boundary at a step, with a token for the write entry. -/
abbrev Tests.bound (k : ExitKind) (a : Word) (step : Nat) : State := Tests.blk Tests.img0 (fun r => { r with
  step := step, until_ := 9, sel := some (Tests.selX k a), shadow := some { blk := 0x8000, usable := 400 }
  writes := [(0, { last := some (Tests.num 77) })] })
abbrev Tests.starts : State := Tests.blk Tests.img1 (fun r => { r with step := 10, until_ := 8, shadow := some Tests.shd })
abbrev Tests.awaits : State :=
  (Tests.blk { Tests.img0 with reads := [{ reg := 3, mode := .await, t0 := .left 0, t1 := .none }] } (fun r => { r with reads := [(0, { waits := some 4 })] }))

open Tests in
/-- A load that finds an image and one that fails; step 3, step 2 with a store out, step 7 at the end of a task; a start; an await
entry that waits and one that goes; the tick; BUDGET spent and not. -/
theorem witness_BlocksStartAndEnd :
    (((loading [page]).region 0).shadow = some { blk := 0x8000, usable := 9 } ∧ (loading [page]).running 0 = true ∧
      ((loading [page]).region 0).callsZero 0x8000 = false ∧
      (((loading [page]).modRegion 0 (fun r => { r with sel := some (selX .calli 0) })).region 0).callsZero 0 = true ∧ ∃ u im, (loading [page]).fetchBlock 0 0x8000 = .ends u (.ok im)) ∧
    (∃ u f, (loading []).fetchBlock 0 0x8000 = .ends u (.error f)) ∧
    (∃ u, (loading [{ page with pa := 0x200000000000 }]).fetchBlock 0 0x8000 = .wait u) ∧
    (let s := bound .exit 0x8000 3
     s.running 0 = true ∧ (s.taskOf 0).ending = false ∧ s.mirrored 0 = false ∧ (s.region 0).step = 3 ∧ img0.strict = false ∧
       (s.region 0).sel = some (selX .exit 0x8000) ∧ (s.taskOf 0).pends = [] ∧ (s.region 0).regWrites.filterMap (s.writePoison 0) = [] ∧
       (((s.region 0).regWrites.map (fun w => w.2.reg)).filter (· ≠ 0)).Nodup ∧ (s.region 0).regWrites ≠ [] ∧ 0 < s.now ∧
       ∃ w ∈ ((s.modRegion 0 (fun r => { r with writes := [] })).region 0).regWrites, w.2.reg ≠ 0 ∧ w.2.opt = false) ∧
    (let s := (bound .exit 0x8000 2).modRegion 0 (fun r => { r with accesses := [{ accOf (.st { fm with t0 := .none, ord := 0, lsid := 0 }) 0 none with fired := 2 }] })
     s.running 0 = true ∧ (s.region 0).step = 2 ∧ (s.region 0).storesOut = true) ∧
    (let s := bound .ret 0 7
     s.running 0 = true ∧ (s.region 0).step = 7 ∧ (s.region 0).target = none) ∧
    ((starts.region 0).shadow = some shd ∧ starts.running 0 = true ∧ (starts.region 0).step = 10 ∧ (starts.region 0).until_ < starts.now ∧
      shd.ready = true ∧ shd.usable ≤ starts.now ∧ shd.fail = none ∧ shd.img = some img0 ∧ starts.portFaults 0 img0 = none) ∧
    (((awaits.region 0).reads.get {} 0).waits = some 4 ∧ awaits.running 0 = true ∧ (awaits.region 0).inject = none ∧ (awaits.region 0).step = 0 ∧
      ((awaits.region 0).reads.get {} 0).done = false ∧ (∀ p ∈ (awaits.taskOf 0).pends, p.cmd ≠ 4)) ∧
    (∃ p ∈ ((awaits.modTask 1 (fun t => { t with pends := [{ reg := 3, cmd := 4 }] })).taskOf 0).pends, p.cmd = 4) ∧
    (starts.cluster 0).tick ≠ some starts.now ∧
    (let s := blk img0 (fun r => { r with expired := true })
     (s.region 0).expired = true ∧ s.working 0 = true ∧ (s.taskOf 0).budget = 0 ∧ ((s.modTask 1 (fun t => { t with budget := 1 })).taskOf 0).budget ≠ 0) :=
  ⟨⟨by decide, by decide, by decide, by decide, ⟨_, _, rfl⟩⟩, ⟨_, _, rfl⟩, ⟨_, rfl⟩, by decide, by decide, by decide, by decide, by decide, by decide,
    by decide, by decide⟩

/-- Step 5 of a call that saves 2 registers at depth 14, and of the ret that takes them back. -/
abbrev Tests.img2 : Image := { Tests.img0 with save := 2 }
abbrev Tests.calling : State := ((Tests.bound .call 0x8000 5).modRegion 0 (fun r => { r with img := some Tests.img2 })).modTask 1
  (fun t => { t with depth := 14, regs := [(1, 0x9000), (16, 5), (17, 6)] })
abbrev Tests.returning (mem : List Host.Cell) : State := { (Tests.bound .ret 0x8000 5).modTask 1 (fun t => { t with depth := 15 }) with mem := mem }
abbrev Tests.line14 : List Host.Cell := Tests.at0 (parkLine 0 14) [2, 15] ++ [(parkLine 0 14 + 8, 5), (parkLine 0 14 + 16, 6)]

open Tests in
theorem witness_CallsParkAndReturnsUnpark :
    (calling.running 0 = true ∧ (calling.taskOf 0).ending = false ∧ calling.memOk ∧ (calling.region 0).step = 5 ∧ (calling.region 0).img = some img2 ∧
      img2.strict = false ∧ img2.save ≤ 15 ∧ (calling.region 0).sel = some (selX .call 0x8000) ∧ (calling.region 0).until_ ≠ 0 ∧
      (calling.region 0).until_ ≤ calling.now ∧ (∃ sh, (calling.region 0).shadow = some sh ∧ sh.ready = false) ∧
      (calling.taskOf 0).depth < 15 ∧ (calling.taskOf 0).nopark = false ∧ 0 < calling.now ∧ (calling.cluster 0).task.isSome = true) ∧
    (let s := returning line14
     s.running 0 = true ∧ (s.taskOf 0).ending = false ∧ (s.region 0).step = 5 ∧ (s.region 0).sel = some (selX .ret 0x8000) ∧
       (s.region 0).until_ ≠ 0 ∧ (s.region 0).until_ ≤ s.now ∧ 0 < (s.taskOf 0).depth ∧ (s.taskOf 0).depth ≤ 15 ∧ (s.taskOf 0).nopark = false ∧
       s.leNow (parkLine 0 14) 8 = 15 * 256 + 2 ∧ 2 < 16 ∧
       ∀ j < 128, s.marked (parkLine 0 14 + j) = false) :=
  ⟨⟨by decide, by decide, by decide, by decide, by decide, by decide, by decide, by decide, by decide, by decide, ⟨_, rfl, rfl⟩, by decide, by decide,
    by decide, by decide⟩, by decide, by decide, by decide, by decide, by decide, by decide, by decide, by decide, by decide, by decide, by decide,
    fun _ _ => rfl⟩

/-- A dense i32 stream of 5 values, two to an element, at 0xFE..100; a port bound to it; an element that waits in it. -/
def Tests.dense : Desc := { base := 0xFE00000000000100, cnt := [5, 1, 1, 1], str := [4, 0, 0, 0], ety := 1, lanes := 2 }
def Tests.elem : Elem := { tok := mkPkt .i32 [1, 2], from_ := 0, next := 2, last := false }
def Tests.rport (l : List Elem) : Port := { desc := Tests.dense, fetched := l }
/-- A block with one entry for port 3, and one write entry for it. -/
def Tests.strm (m : RdMode) (p : Port) (gate : List Token) (push : List Token) : State :=
  (Tests.blk { Tests.img0 with reads := [{ reg := 115, mode := m, t0 := .left 0, t1 := .pred 0 }], writes := [{ reg := 115, opt := false }] }
    (fun r => { r with reads := [(0, { gate := gate.map (fun t => { tok := t, at_ := 3 }) })]
                       writes := [(0, { toks := push.map (fun t => { tok := t, at_ := 3 }) })] })).modTask 1 (fun t => { t with ports := [(3, p)] })
def Tests.rent (m : RdMode) : ReadEntry := { reg := 115, mode := m, t0 := .left 0, t1 := .pred 0 }
/-- A port of drawer memory, with and without a key. -/
def Tests.away (key : Bool) : State :=
  ((Tests.strm .pop { Tests.rport [] with desc := { Tests.dense with base := 0x100 } } [] []).modCluster 0 (fun x =>
    { x with tlb := [{ Tests.page with pa := 0x200000000000 }] })).modHub (fun h => { h with keyValid := key })
def Tests.squeezed : Desc := { Tests.dense with mode := 1, lanes := 1 }

open Tests in
/-- pop and peek of an element, of one that the replay buffer has no room for, of an ended port, of a full target, of a fault; gates true and false and at an ended port; a fetch,
one that waits, one that no key lets go and one that faults; a push of two lanes, a squeeze push past the end of the zeros, a push
that waits. -/
theorem witness_PortEvents :
    (let s := strm .pop (rport [elem]) [] []
     s.entryAt 0 0 = some (rent .pop, 3, rport [elem]) ∧ (s.region 0).entryAccepts s.now (rent .pop) = true ∧ (rport [elem]).head = some elem ∧
       s.overflows 0 (rport [elem]) elem = false) ∧
    (let p : Port := { rport [{ elem with from_ := 4 }] with ord := 4, replay := List.replicate 228 { elem with tok := mkPkt .i64 [1, 2, 3, 4, 5, 6, 7, 8] } }
     let s := (strm .peek p [] []).modTask 1 (fun t => { t with vreg := some 0 })
     s.entryAt 0 0 = some (rent .peek, 3, p) ∧ (s.region 0).entryAccepts s.now (rent .peek) = true ∧ p.head = some { elem with from_ := 4 } ∧
       s.overflows 0 p { elem with from_ := 4 } = true) ∧
    (let p : Port := { rport [] with ended := true, ord := 5 }
     (strm .peek p [] []).entryAt 0 0 = some (rent .peek, 3, p)) ∧
    (let s := (strm .pop (rport [elem]) [] []).modNode 0 0 (fun n => { n with l := q (List.replicate 9 (num 1)) })
     s.entryAt 0 0 = some (rent .pop, 3, rport [elem]) ∧ (s.region 0).entryAccepts s.now (rent .pop) = false) ∧
    (let p : Port := { rport [] with fault := some { code := 3, sub := 8, ord := 0, addr := 0, info := 0 } }
     let s := strm .peek p [] []
     s.entryAt 0 0 = some (rent .peek, 3, p) ∧ (s.region 0).entryAccepts s.now (rent .peek) = true ∧ p.head = none ∧ p.faulted.isSome = true) ∧
    (let s := strm .gateDrop (rport [elem]) [sick] []
     s.entryAt 0 0 = some (rent .gateDrop, 3, rport [elem]) ∧ (∃ g, s.gateHead 0 0 = some g ∧ g.tok.asCtl = .ctl true true 9) ∧
       (s.region 0).entryAccepts s.now (rent .gateDrop) = true) ∧
    (let p : Port := { rport [] with ended := true, ord := 5 }
     let s := strm .gateDrop p [no] []
     s.entryAt 0 0 = some (rent .gateDrop, 3, p) ∧ (s.gateHead 0 0).isSome = true) ∧
    (let s := strm .gateHold (rport [elem]) [no] []
     s.entryAt 0 0 = some (rent .gateHold, 3, rport [elem]) ∧ (∃ g, s.gateHead 0 0 = some g ∧ g.tok.asCtl = .ctl false false 0)) ∧
    dense.squeeze = false ∧
    (let p := rport []
     let s := strm .pop p [] []
     (s.taskOf 0).ports.find 3 = some p ∧ s.running 0 = true ∧ p.ready ≤ s.now ∧ p.window < 16 ∧ s.mirrored 0 = false ∧ p.nextScan < p.desc.total ∧
       p.stopped p.nextScan (p.desc.run p.nextScan) = false ∧ p.needs = p.desc.run p.nextScan ∧
       (∃ u, (s.walkedRun (s.portSpace 0 p) p.desc p.nextScan p.needs .read).runReach 0 3 p p.nextScan .read p.needs = .ok (true, u)) ∧
       (∃ x, s.readElem 0 p p.nextScan = .ok x)) ∧
    (let p : Port := { rport [] with desc := { dense with base := 0x100 } }
     (∃ u, (away true).runReach 0 3 p p.nextScan .read p.needs = .ok (false, u)) ∧
       (∃ f, (away false).runReach 0 3 p p.nextScan .read p.needs = .error f) ∧
       ∃ u, (away true).runReach 0 3 p p.ord .write 2 = .ok (false, u)) ∧
    (let p : Port := { rport [] with desc := { dense with base := 2 } }
     let s := strm .pop p [] []
     let s0 := s.walkedRun (s.portSpace 0 p) p.desc p.nextScan p.needs .read
     0 < p.needs ∧ p.desc.mode = 0 ∧ s0.valueOpen (s.portSpace 0 p) p.desc p.nextScan .read = true ∧
       ∃ x, s0.locate (s.portSpace 0 p) p.desc p.nextScan .read = .error (x, false)) ∧
    (let p : Port := { desc := dense, write := true, ord := 3 }
     let s := strm .pop p [] [mkPkt .i32 [8, 9]]
     (∃ t, s.pushAt 0 0 = some (3, p, t) ∧ elemsOf .i32 t.tok = [8, 9] ∧ p.ord + 2 ≤ p.desc.total) ∧
       (∃ u, (s.walkedRun (s.portSpace 0 p) p.desc p.ord 2 .write).runReach 0 3 p p.ord .write 2 = .ok (true, u)) ∧
       ∃ pl, s.pushPlaces (s.portSpace 0 p) p.desc p.ord 2 = .ok pl ∧ pl.flatten.Nodup ∧ ∀ a ∈ pl.flatten, s.otherCopy a = none) ∧
    (let p : Port := { desc := squeezed, write := true, ord := 1 }
     let s := strm .pop p [] [mkPkt .i32 [8, 4]]
     (∃ t, s.pushAt 0 0 = some (3, p, t) ∧ t.tok.origin = none ∧ lanesOf .i32 t.tok = [8, 4] ∧ 4 < p.desc.total) ∧
       (∃ u, (s.walkedRun (s.portSpace 0 p) p.desc p.ord 4 .write).runReach 0 3 p p.ord .write 4 = .ok (true, u)) ∧
       ∃ pl, s.pushPlaces (s.portSpace 0 p) p.desc p.ord 4 = .ok pl ∧ pl.flatten.Nodup) :=
  ⟨by decide, ⟨rfl, rfl, rfl, by decide +kernel⟩, by decide, by decide, by decide, ⟨by decide, ⟨_, rfl, by decide⟩, by decide⟩,
    by decide, ⟨by decide, ⟨_, rfl, by decide⟩⟩, by decide,
    ⟨by decide, by decide, by decide, by decide, by decide, by decide, by decide, by decide, ⟨_, rfl⟩, ⟨_, rfl⟩⟩,
    ⟨⟨_, rfl⟩, ⟨_, rfl⟩, ⟨_, rfl⟩⟩, ⟨by decide, by decide, by decide, ⟨_, rfl⟩⟩,
    ⟨⟨_, rfl, by decide, by decide⟩, ⟨_, rfl⟩, ⟨_, rfl, by decide, by decide⟩⟩,
    ⟨⟨_, rfl, by decide, by decide, by decide⟩, ⟨_, rfl⟩, ⟨_, rfl, by decide⟩⟩⟩

/-! ## Operations that end later -/

/-- Operation 4 of cell 1, ended in cycle 8; node 9 awaits its token. -/
def Tests.opOf (kind : Nat) : DotOp := { id := 4, node := 5, kind := kind, acc := 1, tile := 2, t0 := .left 9, done := 8, route := 0xFF4542, rows := 8 }
abbrev Tests.drains (o : DotOp) : State :=
  (Tests.mat [(2, { Tests.tileA with rows := 8, cols := 8, fmt := 5, state := .draining })] { ops := [o] }).modNode 0 9 (fun n =>
    { n with l := { toks := [{ tok := .ctl true false 0, pend := some 4 }] } })

open Tests in
/-- An mma, a shadow load, a drain as f32 in the mode toward zero. -/
theorem witness_DotOperationsEnd :
    ((drains (opOf 0)).cluster 0).task.isSome = true ∧ (drains (opOf 0)).dotEnded 0 1 0 = some (opOf 0) ∧
    ((drains (opOf 0)).region 0).placeAt (.left 9) 4 ∧ (drains (opOf 1)).dotEnded 0 1 1 = some (opOf 1) ∧
    (let o := opOf 2
     let s := drains o
     s.dotEnded 0 1 2 = some o ∧ o.wrote = false ∧ (s.region 0).frozen = none ∧ bitsOf o.route 23 16 = 0xFF ∧ routeTy o.route = some .f32 ∧
       bitsOf o.route 14 12 < 5 ∧ 0 < o.rows ∧ s.tileBase 0 ((s.taskOf 0).tile o.tile) .write = .ok 0xFE00000000000000 ∧ s.memOk) :=
  ⟨by decide, by decide, ⟨_, .head _, rfl⟩, by decide, by decide, by decide, by decide, by decide, by decide, by decide, by decide, by decide, by decide⟩

open Tests in
/-- A parked load of a line that has become full, one that tries again now and one that does so later; a miss that the tables map. -/
theorem witness_AccessesFaultAndWait_waits :
    (let a : Access := { accOf (.ldfe { fm4 with ord := 3 }) lineA none with parked := some 6 }
     let s := { mem a word with full := [lineA / 128] }
     a.skip = none ∧ (s.region 0).halted = false ∧ s.walkOpen (s.accessSpace 0 a s.lag) a.abs (accessBytes a.ins a.data) = true ∧ s.accessPlaces 0 a s.lag = .ok line4 ∧ misplaced 0 a.ins (line4.headD 0) = false ∧
       (∀ p ∈ line4, isFar p = false ∧ s.pathOpen 0 p = true) ∧ line4.headD 0 / 128 ∈ s.full ∧ s.lag = 0 ∧
       s.waiters (lineA / 128) = [(0, a)]) ∧
    (let a : Access := { accOf (.ldfe { fm4 with ord := 3 }) lineA none with retry := some 9 }
     let s := { mem a word with full := [lineA / 128] }
     (s.region 0).accesses.find? (fun a => a.id == 3) = some a ∧ 9 ≤ s.now ∧ s.now < 10) ∧
    State.reset.waiters 4 = [] ∧
    (let a := accOf (.ld fm4) 0x1000 none
     let s := mem a (at0 0 [1, 0x10] ++ at0 0x1000 [1, 0x20] ++ at0 0x2000 [1, 0x30] ++ at0 0x3000 [1, 0x40] ++ at0 0x4008 [0x33, 0x50])
     s.mayPerform 0 3 = some a ∧ a.skip = none ∧ 0 < accessBytes a.ins a.data ∧ a.abs.toNat % 4096 + accessBytes a.ins a.data ≤ 4096 ∧
       s.walkOpen (s.accessSpace 0 a s.lag) a.abs (accessBytes a.ins a.data) = true ∧ ∃ pa e, s.accessHome 0 a s.lag = .ok (pa, some e)) ∧
    (let a := accOf (.ld fm4) 0x1000 none
     let s := cut (mem a [])
     s.mayPerform 0 3 = some a ∧ s.walkOpen (s.accessSpace 0 a s.lag) a.abs (accessBytes a.ins a.data) = false) ∧
    (let a := accOf (.ld fm4) 0x1000 none
     (mem a []).mayPerform 0 3 = some a ∧ a.abs.toNat % 4096 + accessBytes a.ins a.data ≤ 4096 ∧
       ∃ x, (mem a []).walk ((mem a []).accessSpace 0 a 0) a.abs (accessKind a.ins) = .error x) :=
  ⟨by decide, by decide, by decide, ⟨by decide, by decide, by decide, by decide, by decide, ⟨_, _, rfl⟩⟩, by decide, ⟨by decide, by decide, ⟨_, rfl⟩⟩⟩

/-! ### A save area that the TLB maps -/

/-- 512 GiB at virtual address 0: of HBM, or of drawer memory. -/
def Tests.big (pa : Nat) : TlbEntry := { asid := 0, va := 0, log := 39, pa := pa, r := true, w := true, x := false, u := false }

/-- The parts of a state that translation through a TLB hit reads. -/
def Tests.Mapped (pa : Nat) (s : State) (sp : Space) : Prop := sp.asid = 0 ∧ sp.priv = true ∧ (s.cluster sp.clus).tlb = [Tests.big pa]

theorem Tests.bigHit {pa : Nat} {s : State} {sp : Space} (h : Mapped pa s sp) (x : Nat) (hx : x < 2 ^ 38) :
    s.tlbHit sp.clus sp.asid (BitVec.ofNat 64 x) = some (big pa) := by
  have ht : (BitVec.ofNat 64 x).toNat = x := by rw [BitVec.toNat_ofNat]; omega
  have hd : x / 2 ^ 39 = 0 := Nat.div_eq_of_lt (by omega)
  simp only [State.tlbHit, h.1, h.2.2, List.find?_cons, ht, big, hd]; rfl

theorem Tests.bigRange {pa : Nat} (hpa : pa = 0 ∨ pa = 2 ^ 45) (x : Nat) (hx : x < 2 ^ 38) :
    (rangeOf (pa + x) == some 0 || rangeOf (pa + x) == some 1) = true := by
  rcases hpa with rfl | rfl
  · have : rangeOf (0 + x) = some 0 := by unfold rangeOf; rw [if_pos (by omega)]
    rw [this]; rfl
  · have : rangeOf (2 ^ 45 + x) = some 1 := by unfold rangeOf; rw [if_neg (by omega), if_pos (by omega)]
    rw [this]; rfl

theorem Tests.bigRaw {pa : Nat} {s : State} {sp : Space} (h : Mapped pa s sp) (k : AccKind) (hk : k = .read ∨ k = .write)
    (x : Nat) (hx : x < 2 ^ 38) : s.xlateRaw sp (BitVec.ofNat 64 x) k = .ok (pa + x, none) := by
  have ht : (BitVec.ofNat 64 x).toNat = x := by rw [BitVec.toNat_ofNat]; omega
  have b1 : bitsOf (BitVec.ofNat 64 x) 63 56 = 0 := by simp only [bitsOf, ht]; omega
  have hm : x % 2 ^ 39 = x := Nat.mod_eq_of_lt (by omega)
  have hp : permits (big pa) true k = true := by rcases hk with rfl | rfl <;> rfl
  have hl : (big pa).log = 39 := rfl
  have hq : (big pa).pa = pa := rfl
  simp only [State.xlateRaw, b1, bigHit h x hx, h.2.1, hp, ht, hl, hm, hq]
  simp

theorem Tests.bigX {pa : Nat} {s : State} {sp : Space} (h : Mapped pa s sp) (k : AccKind) (hk : k = .read ∨ k = .write)
    (hpa : pa = 0 ∨ pa = 2 ^ 45) (x : Nat) (hx : x < 2 ^ 38) : s.areaByte sp (BitVec.ofNat 64 x) k = .ok (pa + x) := by
  simp only [State.areaByte, bigRaw h k hk x hx, bigRange hpa x hx]
  rfl

theorem Tests.bigPages {pa : Nat} {s : State} {sp : Space} (h : Mapped pa s sp) (x n : Nat) (hx : x + n ≤ 2 ^ 38) (p : Word)
    (hp : p ∈ pageStarts (BitVec.ofNat 64 x) n) : (s.tlbHit sp.clus sp.asid p).isSome = true := by
  have ht : (BitVec.ofNat 64 x).toNat = x := by rw [BitVec.toNat_ofNat]; omega
  suffices hs : ∃ y < 2 ^ 38, p = BitVec.ofNat 64 y by obtain ⟨y, hy, rfl⟩ := hs; simp [bigHit h y hy]
  unfold pageStarts at hp
  split_ifs at hp with h0
  · simp at hp
  · rcases List.mem_cons.mp hp with rfl | hp
    · exact ⟨x, by omega, rfl⟩
    · obtain ⟨j, hj, rfl⟩ := List.mem_map.mp hp
      have hj := List.mem_range.mp hj
      rw [ht] at hj ⊢
      exact ⟨_, by omega, rfl⟩

/-- Its translation walks nowhere. -/
theorem Tests.bigOpen {pa : Nat} {s : State} {sp : Space} (h : Mapped pa s sp) (x n : Nat) (hx : x + n ≤ 2 ^ 38) :
    s.walkOpen sp (BitVec.ofNat 64 x) n = true :=
  List.all_eq_true.mpr (fun p hp => by simp [bigPages h x n hx p hp])

theorem Tests.bigWalked {pa : Nat} {s : State} {sp : Space} (h : Mapped pa s sp) (x n : Nat) (hx : x + n ≤ 2 ^ 38) (k : AccKind) :
    s.walked sp (BitVec.ofNat 64 x) n k = s :=
  List.foldlRecOn _ _ (motive := fun (st : State) => st = s) rfl (fun st e p hp => by simp [e, State.walked1, bigPages h x n hx p hp])

theorem Tests.bigOpens {pa : Nat} {s : State} {sp : Space} (h : Mapped pa s sp) (runs : List (Word × Nat))
    (hr : ∀ r ∈ runs, r.1.toNat + r.2 ≤ 2 ^ 38) : s.runsOpen sp runs = true :=
  List.all_eq_true.mpr (fun r hm => by
    have := bigOpen h r.1.toNat r.2 (hr r hm)
    rwa [BitVec.ofNat_toNat, BitVec.setWidth_eq] at this)

theorem Tests.bigRun {pa : Nat} {s : State} {sp : Space} (h : Mapped pa s sp) (k : AccKind) (hk : k = .read ∨ k = .write)
    (hpa : pa = 0 ∨ pa = 2 ^ 45) (x n : Nat) (hx : x + n ≤ 2 ^ 38) : s.areaRun sp (BitVec.ofNat 64 x) n k = .ok (span (pa + x) n) := by
  have aux : ∀ n l, x + n ≤ 2 ^ 38 → (List.range n).foldr (fun j acc =>
      match s.areaByte sp (BitVec.ofNat 64 x + BitVec.ofNat 64 j) k with
      | .error f => .error f
      | .ok pa => acc.map (pa :: ·)) (.ok l) = (.ok (span (pa + x) n ++ l) : Except XFault (List Nat)) := by
    intro n
    induction n with
    | zero => intro l _; rfl
    | succ n ih =>
      intro l hx
      rw [List.range_succ, List.foldr_append, List.foldr_cons, List.foldr_nil, ← BitVec.ofNat_add, bigX h k hk hpa (x + n) (by omega)]
      refine (ih _ (by omega)).trans ?_
      simp [span, List.range_succ, Nat.add_assoc]
  have := aux n [] hx
  rwa [List.append_nil] at this

theorem Tests.bigRuns {pa : Nat} {s : State} {sp : Space} (h : Mapped pa s sp) (k : AccKind) (hk : k = .read ∨ k = .write)
    (hpa : pa = 0 ∨ pa = 2 ^ 45) : ∀ runs : List (Word × Nat), (∀ r ∈ runs, r.1.toNat + r.2 ≤ 2 ^ 38) →
      s.areaRuns sp k runs = (runs.map (fun r => span (pa + r.1.toNat) r.2), none) := by
  intro runs
  induction runs with
  | nil => exact fun _ => rfl
  | cons r l ih =>
    intro hr
    have h1 := bigRun h k hk hpa r.1.toNat r.2 (hr r (List.mem_cons_self ..))
    rw [BitVec.ofNat_toNat, BitVec.setWidth_eq] at h1
    simp only [State.areaRuns, h1, ih (fun q hq => hr q (List.mem_cons_of_mem _ hq)), List.map_cons]

theorem Tests.runPlaces {pa : Nat} (x : Word × Nat) : ∀ runs : List (Word × Nat),
    x ∈ (List.zipWith (fun (x : Word × Nat) pas => placed x.1 pas) runs (runs.map (fun r => span (pa + r.1.toNat) r.2))).flatten →
    ∃ r ∈ runs, x.2 ∈ span (pa + r.1.toNat) r.2 := by
  intro runs
  induction runs with
  | nil => intro h; simp at h
  | cons r l ih =>
    intro h
    simp only [List.map_cons, List.zipWith_cons_cons, List.flatten_cons, List.mem_append] at h
    rcases h with h | h
    · exact ⟨r, List.mem_cons_self .., placed_mem h⟩
    · obtain ⟨q, hq, e⟩ := ih h
      exact ⟨q, List.mem_cons_of_mem _ hq, e⟩

theorem Tests.le_len (n v : Nat) : (leBytes n v).length = n := by rw [leBytes, List.length_map, List.length_range]
theorem Tests.le64_len (w : Word) : (le64 w).length = 8 := le_len 8 _
theorem Tests.bits_len (n : Nat) (f : Nat → Bool) : (bitBytes n f).length = n / 8 := by rw [bitBytes, List.length_map, List.length_range]
theorem Tests.tile_len (t : Tile) : t.bytes.length = 32 := by simp only [Tile.bytes, List.length_append, le64_len, le_len]
theorem Tests.lut_len (c l : Nat) (x : Lut) : (x.bytes c l).length = 16 := by simp only [Lut.bytes, List.length_append, le_len]
theorem Tests.rec_len (x : TrapRec) : x.bytes.length = 64 := by simp only [TrapRec.bytes, List.length_append, le64_len, le_len]
theorem Tests.flat_len {α : Type} (n k : Nat) (f : Nat → List α) (h : ∀ j, (f j).length = k) : ((List.range n).map f).flatten.length = n * k := by
  rw [List.length_flatten, List.map_map, show (List.length ∘ f) = fun _ => k from funext h, List.map_const', List.sum_replicate, List.length_range]
  rfl

theorem Tests.desc_len (d : Desc) : d.bytes.length = 64 := by
  simp only [Desc.bytes, List.length_append, le64_len, le_len, flat_len 4 4 _ (fun _ => le_len _ _), List.length_replicate]

/-- The pieces of a CSA stay within 512 KiB, those of a BSA of a task that has used no dot block within 11 MiB. -/
theorem Tests.csaLen (s : State) (t : Task) (c : Nat) (why : Option TrapRec) : ∀ p ∈ s.csaPieces t c 1 why, p.1 + p.2.length ≤ 2 ^ 19 := by
  intro p hp
  have hh : (csaHeader s.now t c 1 why).length = 256 := by
    cases why <;> simp only [csaHeader, List.length_append, le_len, rec_len, List.length_replicate, List.length_cons, List.length_nil]
  simp only [State.csaPieces, if_neg (by decide : ¬ (1 : Nat) = 0), List.mem_append, List.mem_cons, List.not_mem_nil, or_false, List.mem_filterMap, List.mem_range,
    portPiece, Option.map_eq_some_iff] at hp
  rcases hp with ((rfl | rfl | rfl | rfl | rfl | rfl | rfl | rfl | rfl | rfl | rfl | rfl | rfl | rfl | rfl | rfl) | ⟨k, hk, x, -, rfl⟩) | rfl
  · simp only [hh]; omega
  · simp only [State.openBytes, List.length_map, List.length_range]; omega
  · simp only [State.openBytes, List.length_map, List.length_range]; omega
  · simp only [State.openBytes, List.length_map, List.length_range]; omega
  · simp only [State.openBytes, List.length_map, List.length_range]; omega
  · simp only [State.openBytes, List.length_map, List.length_range]; omega
  · rw [flat_len 112 8 _ (fun _ => le64_len _)]; omega
  · rw [flat_len 128 8 _ (fun _ => le64_len _)]; omega
  · rw [flat_len 64 32 _ (fun _ => tile_len _)]; omega
  · rw [flat_len 192 8 _ (fun _ => le64_len _)]; omega
  · simp only [le64_len]; omega
  · rw [flat_len 128 8 _ (fun _ => le64_len _)]; omega
  · rw [flat_len 48 192 _ (fun _ => bits_len _ _)]; omega
  · rw [flat_len 48 64 _ (fun _ => flat_len 8 8 _ (fun _ => le64_len _))]; omega
  · rw [flat_len 48 1024 _ (fun _ => flat_len 64 16 _ (fun _ => lut_len _ _ _))]; omega
  · rw [flat_len 48 4 _ (fun _ => le_len _ _)]; omega
  · simp only [List.length_append, desc_len, le64_len]; omega
  · simp only [State.openBytes, List.length_map, List.length_range]; omega

/-- What a save into areas in the first 256 GiB of a mapping writes stays in it. -/
theorem Tests.partsLen (s : State) (t : Task) (c : Nat) (why : Option TrapRec) (x y : Nat) (hx : x ≤ 2 ^ 37) (hy : y ≤ 2 ^ 37) (hd : t.dots = []) (ho : t.redo = none)
    (hl : t.lim ≤ 48) : ∀ r ∈ (s.savedParts t c 1 why (BitVec.ofNat 64 x) (BitVec.ofNat 64 y)).map (fun p => (p.1, p.2.length)),
      r.1.toNat + r.2 ≤ 2 ^ 38 := by
  intro r hr
  obtain ⟨p, hp, rfl⟩ := List.mem_map.mp hr
  simp only [State.savedParts, bsaPieces, ho, Option.isSome_none, Bool.false_eq_true, if_false, hd, List.flatMap_nil, List.map_nil, List.append_nil, List.mem_append, List.mem_map, List.mem_singleton,
    List.mem_range] at hp
  have e (a b n : Nat) (ha : a ≤ 2 ^ 37) (hb : b + n ≤ 2 ^ 24) : (BitVec.ofNat 64 a + BitVec.ofNat 64 b).toNat + n ≤ 2 ^ 38 := by
    rw [← BitVec.ofNat_add, BitVec.toNat_ofNat]; omega
  have hm (l : List Nat) : (s.markedNow l).length = l.length := by simp [State.markedNow]
  rcases hp with ⟨q, hq, rfl⟩ | rfl | ⟨k, hk, rfl⟩
  · have := csaLen s t c why q hq
    simpa [Piece.clean] using e x q.1 q.2.length hx (by omega)
  · simpa [hm, parkSpan, span] using e x 0x2100 1920 hx (by omega)
  · have := e y (0x180000 + 0x30000 * k) (t.lim * 4096) hy (by omega)
    simpa [hm, sliceSpan, span] using this

/-- A save into areas in the first 256 GiB of HBM, which the TLB maps, is done. -/
theorem Tests.saves {s : State} {sp : Space} (h : Mapped 0 s sp) (t : Task) (c : Nat) (hc : c < 16) (why : Option TrapRec) (x y : Nat) (hx : x ≤ 2 ^ 37)
    (hy : y ≤ 2 ^ 37) (hd : t.dots = []) (ho : t.redo = none) (hl : t.lim ≤ 48) : ∃ u, s.saveAreas sp t c 1 why (BitVec.ofNat 64 x) (BitVec.ofNat 64 y) = .done u () := by
  have hp := partsLen s t c why x y hx hy hd ho hl
  have hr := bigRuns h .write (.inr rfl) (.inl rfl) _ hp
  simp only [State.saveAreas, hr, State.areaReach, bigOpens h _ hp, Bool.not_true, Bool.false_eq_true, if_false]
  rw [reach_near _ _ _ _ _ (fun z hz => ?_)]
  · exact ⟨_, rfl⟩
  · obtain ⟨r, hr, hz⟩ := runPlaces z _ hz
    have hb := hp r hr
    obtain ⟨j, hj, e⟩ : ∃ j, j < r.2 ∧ 0 + r.1.toNat + j = z.2 := by simpa [span] using hz
    have h0 : rangeOf z.2 = some 0 := by unfold rangeOf; rw [if_pos (by omega)]
    have h1 : isSram z.2 = false := decide_eq_false (show ¬ sramBase ≤ _ by unfold sramBase; omega)
    have h2 : z.2 / 2 ^ 38 % 4 = 0 := by rw [Nat.div_eq_of_lt (by omega)]
    exact ⟨by simp [isFar, h0], by
      simp only [State.pathOpen, h0, h1, State.dieOpen, State.meshOpen, Nat.div_eq_of_lt hc, show c < 64 by omega, h2]; rfl⟩

/-- Into drawer memory it waits for its slots. -/
theorem Tests.savesWait {s : State} {sp : Space} (h : Mapped (2 ^ 45) s sp) (t : Task) (c : Nat) (why : Option TrapRec) (x y : Nat)
    (hx : x ≤ 2 ^ 37) (hy : y ≤ 2 ^ 37) (hd : t.dots = []) (ho : t.redo = none) (hl : t.lim ≤ 48)
    (hk : s.hub.keyValid = true) (hf : s.fars = []) :
    ∃ u, s.saveAreas sp t c 1 why (BitVec.ofNat 64 x) (BitVec.ofNat 64 y) = .wait u := by
  have hp := partsLen s t c why x y hx hy hd ho hl
  have hr := bigRuns h .write (.inr rfl) (.inr rfl) _ hp
  have hw := walkOf_walkRuns s sp .write ((s.savedParts t c 1 why (BitVec.ofNat 64 x) (BitVec.ofNat 64 y)).map (fun p => (p.1, p.2.length)))
  have hx' : ∃ z ∈ (List.zipWith (fun (x : Word × Nat) pas => placed x.1 pas)
      ((s.savedParts t c 1 why (BitVec.ofNat 64 x) (BitVec.ofNat 64 y)).map (fun p => (p.1, p.2.length)))
      (((s.savedParts t c 1 why (BitVec.ofNat 64 x) (BitVec.ofNat 64 y)).map (fun p => (p.1, p.2.length))).map
        (fun r => span (2 ^ 45 + r.1.toNat) r.2))).flatten, isFar z.2 = true := by
    refine ⟨(BitVec.ofNat 64 x + BitVec.ofNat 64 0, 2 ^ 45 + (BitVec.ofNat 64 x).toNat), ?_, ?_⟩
    · have h0 : (csaHeader s.now t c 1 why).length = 256 := by
        cases why <;> simp only [csaHeader, List.length_append, le_len, rec_len, List.length_replicate, List.length_cons, List.length_nil]
      simp only [State.savedParts, State.csaPieces, List.cons_append, List.map_cons, List.zipWith_cons_cons, List.flatten_cons, List.mem_append]
      refine .inl ?_
      simp only [Piece.clean, placed, List.length_map, h0, span, List.length_range]
      rw [show List.range 256 = 0 :: (List.range 255).map Nat.succ from List.range_succ_eq_map ..]
      simp
    · have e : (BitVec.ofNat 64 x).toNat = x := by rw [BitVec.toNat_ofNat]; omega
      have : rangeOf (2 ^ 45 + x) = some 1 := by unfold rangeOf; rw [if_neg (by omega), if_pos (by omega)]
      show isFar (2 ^ 45 + (BitVec.ofNat 64 x).toNat) = true
      unfold isFar
      rw [e, this]; rfl
  obtain ⟨z, hz, hfz⟩ := hx'
  obtain ⟨u, hu⟩ := reach_asks (s.walkRuns sp .write ((s.savedParts t c 1 why (BitVec.ofNat 64 x) (BitVec.ofNat 64 y)).map
    (fun p => (p.1, p.2.length)))) c .area ((s.walkRuns sp .write ((s.savedParts t c 1 why (BitVec.ofNat 64 x) (BitVec.ofNat 64 y)).map
    (fun p => (p.1, p.2.length)))).taskOf c).eprio _ z hz hfz (by rw [hw.hub]; exact hk) (fun f => by rw [hw.far]; simp [State.far, hf, Tbl.get])
  simp only [State.saveAreas, hr, State.areaReach, bigOpens h _ hp, Bool.not_true, Bool.false_eq_true, if_false]
  rw [hu]
  exact ⟨_, rfl⟩

/-- Operation 4 of node 5 in cluster 0, fired in cycle 6; task 2 stands in cluster 7, and cluster 9 is free; the memory that cluster 7
maps, and cluster 0. -/
def Tests.opS (i : Instr) (a b : Word) : SysOp := { id := 4, node := 5, ins := i, fired := 6, a := a, b := b }
def Tests.sysE (o : SysOp) (pa : Nat) (r : Region) : State :=
  ((((blk img0 (fun r => { r with sysops := [o] })).modCluster 7 (fun x => { x with task := some 2, tlb := [Tests.big pa], region := r })).modCluster 0
    (fun x => { x with tlb := [Tests.big pa] })).setTask 2 { id := 2, place := .region 7 }).modHub (fun h => { h with keyValid := true })
/-- Task 3, saved by a ctxsv of region 0 at 0x40000. -/
abbrev Tests.sysL (o : SysOp) (pa : Nat) : State :=
  { (sysE o pa {}).setTask 3 { id := 3, place := .saved } with
    mem := [(0x40000, 1), (0x40008, 3)], images := [(imageKey 3 0 0, { id := 3 })] }

def Tests.areaKind {α : Type} : Area α → Nat
  | .done .. => 0
  | .wait _ => 1
  | .fault .. => 2
  | .poison _ => 3
theorem Tests.areaDone {α : Type} {x : Area α} (h : areaKind x = 0) : ∃ s y, x = .done s y := by cases x <;> simp_all [areaKind]
theorem Tests.areaWait {α : Type} {x : Area α} (h : areaKind x = 1) : ∃ s, x = .wait s := by cases x <;> simp_all [areaKind]
theorem Tests.areaFault {α : Type} {x : Area α} (h : areaKind x = 2) : ∃ s y, x = .fault s y := by cases x <;> simp_all [areaKind]
theorem Tests.areaPoison {α : Type} {x : Area α} (h : areaKind x = 3) : ∃ s, x = .poison s := by cases x <;> simp_all [areaKind]

/-- A read finds a slot table where no sector is marked, and none where one is. -/
theorem Tests.table0 (s : State) (sp : Space) (pas : List Nat) (hm : s.marks = []) (he : s.ecc = []) (hh : s.hist = []) :
    ∃ t, s.slotTable sp pas = some t := by
  have h : s.cutMarked (s.readCuts sp pas) = false := by
    simp [State.cutMarked, State.markAt, hh, State.marked, State.damaged, hm, he]
  exact ⟨_, by simp only [State.slotTable, h]; rfl⟩

theorem Tests.table1 (s : State) (sp : Space) (pas : List Nat) (hh : s.hist = []) (a : Nat) (ha : a ∈ pas) (hm : s.marked a = true) :
    s.slotTable sp pas = none := by
  have h : s.cutMarked (s.readCuts sp pas) = true :=
    List.any_eq_true.mpr ⟨(a, s.cutOf sp.lag sp.bound true pas a), List.mem_map.mpr ⟨a, ha, rfl⟩, by simp [State.markAt, hh, hm]⟩
  simp only [State.slotTable, h]; rfl

/-- A run whose first byte does not translate, and one in drawer memory that the TLB maps, with and without a key. -/
theorem Tests.noRun (s : State) (sp : Space) (a : Word) (n : Nat) (x : XFault) (h : s.xlateRaw sp (a + BitVec.ofNat 64 0) .read = .error x) :
    s.xlateBytes sp a (n + 1) .read = .error x := by
  unfold State.xlateBytes
  rw [List.range_succ_eq_map, List.foldr_cons, h]

theorem Tests.bigBytes {pa : Nat} {s : State} {sp : Space} (h : Mapped pa s sp) (x n : Nat) (hx : x + n ≤ 2 ^ 38) :
    s.xlateBytes sp (BitVec.ofNat 64 x) n .read = .ok (span (pa + x) n) := by
  have aux : ∀ n l, x + n ≤ 2 ^ 38 → (List.range n).foldr (fun j acc =>
      match s.xlateRaw sp (BitVec.ofNat 64 x + BitVec.ofNat 64 j) .read with
      | .error f => .error f
      | .ok (pa, _) => acc.map (pa :: ·)) (.ok l) = (.ok (span (pa + x) n ++ l) : Except XFault (List Nat)) := by
    intro n
    induction n with
    | zero => intro l _; rfl
    | succ n ih =>
      intro l hx
      rw [List.range_succ, List.foldr_append, List.foldr_cons, List.foldr_nil, ← BitVec.ofNat_add, bigRaw h .read (.inl rfl) (x + n) (by omega)]
      refine (ih _ (by omega)).trans ?_
      simp [span, List.range_succ, Nat.add_assoc]
  have := aux n [] hx
  rwa [List.append_nil] at this

theorem Tests.reach_nokey (s : State) (c : Nat) (w : Requester) (prio : Nat) (l : List (Word × Nat)) (x : Word × Nat) (hx : x ∈ l)
    (hf : isFar x.2 = true) (hk : s.hub.keyValid = false) (hn : s.fars = []) : ∃ y, s.reach c w prio l = .fault y := by
  have hr : ∀ a pa, (s.reachFault c w a pa).isSome = true := by
    intro a pa
    have : s.farReq c w pa = none := by simp [State.farReq, State.far, hn, Tbl.get]
    simp [State.reachFault, this, hk]
  have h : ((l.filter (fun x => isFar x.2)).findSome? (fun x => s.reachFault c w x.1 x.2)).isSome = true :=
    List.findSome?_isSome_iff.mpr ⟨x, List.mem_filter.mpr ⟨hx, hf⟩, hr _ _⟩
  obtain ⟨y, hy⟩ := Option.isSome_iff_exists.mp h
  exact ⟨y, by simp only [State.reach, hy]⟩

theorem Tests.far_head (a : Word) (n : Nat) : ∃ z ∈ placed a (span (2 ^ 45) (n + 1)), isFar z.2 = true := by
  refine ⟨(a + BitVec.ofNat 64 0, 2 ^ 45), ?_, show isFar (2 ^ 45) = true by decide⟩
  simp [placed, span, List.range_succ_eq_map]

/-- A `cfgld` of a supervisor from drawer memory. -/
abbrev Tests.cfgF : SysOp := Tests.opS (.cfgld { Tests.fs with sysno := 0x603 }) 0 0
abbrev Tests.cfgFar (v : Bool) : State :=
  ((Tests.sysE Tests.cfgF (2 ^ 45) {}).modHub (fun h => { h with keyValid := v })).modTask 1 (fun t => { t with supb := true })

open Tests in
/-- A save of a free region, of one that runs, of one that is not still or has a forced recovery point, one that is done, one that waits;
a restore into a region that is taken, one that is done, one whose header waits, faults or names nothing; a table that is misaligned, one
behind a closed module, one that translates nowhere, a good one, a poisoned one, one without a key, one that waits for its slots; a module that is up, down, and training; a latched class, a deadline. -/
theorem witness_SystemOperationsEnd :
    (∀ i a b, (sysE (opS i a b) 0 {}).sysopAt 0 4 = some (opS i a b) ∧ (opS i a b).fired < (sysE (opS i a b) 0 {}).now) ∧
    (let o := opS (.ctxsv fs) 7 0x40000
     ((sysE o 0 {}).cluster o.a.toNat).task = some 2 ∧ ((sysE o 0 {}).task 2).ending = false ∧ ((sysE o 0 {}).region o.a.toNat).stoppedBy = none ∧
       ((sysE (opS (.ctxsv fs) 8 0x40000) 0 {}).cluster 8).task = none ∧
       ((sysE o 0 { stoppedBy := some 7, forced := true }).region o.a.toNat).forced = true ∧
       (sysE o 0 { stoppedBy := some 7, accesses := [accOf (.ld fm4) 0 none] }).still o.a.toNat = false) ∧
    (let o := opS (.ctxsv fs) 7 0x40000
     let s (pa : Nat) := sysE o pa { stoppedBy := some 7 }
     ((s 0).region o.a.toNat).stoppedBy.isSome = true ∧ ((s 0).region o.a.toNat).forced = false ∧ (s 0).still o.a.toNat = true ∧ o.a.toNat ≠ 0 ∧
       (∃ s1, (s 0).saveAreas { (s 0).space 7 with priv := true } ((s 0).context 7 true 0) 7 ((s 0).context 7 true 0).snap.isSome.toNat ((s 0).region 7).frozen o.b ((s 0).bsaOf 2) = .done s1 ()) ∧
       ∃ s1, (s (2 ^ 45)).saveAreas { (s (2 ^ 45)).space 7 with priv := true } ((s (2 ^ 45)).context 7 true 0) 7 ((s (2 ^ 45)).context 7 true 0).snap.isSome.toNat ((s (2 ^ 45)).region 7).frozen o.b
         ((s (2 ^ 45)).bsaOf 2) = .wait s1) ∧
    (((sysL (opS (.ctxld fs) 7 0x40000) 0).cluster 7).task.isSome = true) ∧
    (let o (a : Word) := opS (.ctxld fs) 9 a
     ((sysL (o 0x40000) 0).cluster 9).task = none ∧ (∃ u y, (sysL (o 0x40000) 0).imageAt 0 0x40000 = .done u y) ∧
       (∃ u, (sysL (o 0x40000) 0).imageAt 0 0x80000 = .poison u) ∧ (∃ u x, (sysL (o 0x40000) 0).imageAt 0 0xFE00000000000100 = .fault u x) ∧
       ∃ u, (sysL (o 0x40000) (2 ^ 45)).imageAt 0 0x40000 = .wait u) ∧
    ((0xFE00000000000004 : Word).toNat % 4096 ≠ 0 ∧
      (let op := opS (.cfgld { fs with sysno := 0x603 }) 0x1000 0
       let s := cut ((sysE op 0 {}).modCluster 0 (fun x => { x with tlb := [] }))
       op.a.toNat % 4096 = 0 ∧ s.walkOpen (s.opSpace 0 op) op.a 12288 = false) ∧
      (let op := opS (.cfgld { fs with sysno := 0x603 }) 0x8000000000 0
       let s := sysE op 0 {}
       op.a.toNat % 4096 = 0 ∧ s.walkOpen (s.opSpace 0 op) op.a 12288 = true ∧ ∃ x, s.xlateBytes (s.opSpace 0 op) op.a 12288 .read = .error x) ∧
      (let op := opS (.cfgld { fs with sysno := 0x603 }) 0xFE00000000000000 0
       let s := sysE op 0 {}
       ∀ m : List Nat, let s1 : State := { s with marks := m }
         op.a.toNat % 4096 = 0 ∧ s1.walkOpen (s1.opSpace 0 op) op.a 12288 = true ∧
         s1.xlateBytes (s1.opSpace 0 op) op.a 12288 .read = .ok (span 0xFE00000000000000 12288) ∧
         (s1.walked (s1.opSpace 0 op) op.a 12288 .read).reach 0 (.sysop op.id) (s1.taskOf 0).eprio (placed op.a (span 0xFE00000000000000 12288)) = .go ∧
         (m = [] → ∃ t, s1.slotTable (s1.opSpace 0 op) (span 0xFE00000000000000 12288) = some t) ∧
         (m = [sectorOf 0xFE00000000000000] → s1.slotTable (s1.opSpace 0 op) (span 0xFE00000000000000 12288) = none)) ∧
      (let op := cfgF
       ∀ v : Bool, let s1 := cfgFar v
         op.a.toNat % 4096 = 0 ∧ s1.walkOpen (s1.opSpace 0 op) op.a 12288 = true ∧
         s1.xlateBytes (s1.opSpace 0 op) op.a 12288 .read = .ok (span (2 ^ 45) 12288) ∧
         (v = false → ∃ x, (s1.walked (s1.opSpace 0 op) op.a 12288 .read).reach 0 (.sysop op.id) (s1.taskOf 0).eprio
           (placed op.a (span (2 ^ 45) 12288)) = .fault x) ∧
         (v = true → ∃ u, (s1.walked (s1.opSpace 0 op) op.a 12288 .read).reach 0 (.sysop op.id) (s1.taskOf 0).eprio
           (placed op.a (span (2 ^ 45) 12288)) = .wait u))) ∧
    (let s := sysE (opS (.linkq fs) 19 0x100) 0 {}
     (s.link 19).training = false ∧ (s.link 19).cur ≠ 3 ∧ (((s.modLink 19 (fun l => { l with cur := 3 })).link 19).cur = 3) ∧
       ((s.modLink 19 (fun l => { l with training := true })).link 19).training = true) ∧
    (let o := opS (.evwait { fs with sysno := 2 }) 9 0
     let s := (sysE o 0 {}).modTask 1 (fun t => { t with latches := [2] })
     (s.cluster 0).task.isSome = true ∧ 2 ∈ (s.taskOf 0).latches ∧ 2 ∉ ((sysE o 0 {}).taskOf 0).latches ∧ o.a.toNat ≤ s.now ∧ s.now < 10 ∧
       o.a ≠ 0xFFFFFFFFFFFFFFFF) := by
  refine ⟨fun _ _ _ => ⟨rfl, (by decide : 6 < 9)⟩, by decide, ⟨by decide, by decide, by decide, by decide, ?_, ?_⟩, by decide,
    ⟨by decide, areaDone (by decide +kernel), areaPoison (by decide +kernel), areaFault (by decide +kernel), areaWait (by decide +kernel)⟩,
    ⟨by decide, by decide, ⟨by decide, by decide +kernel, ⟨_, noRun _ _ _ 12287 _ rfl⟩⟩, fun m => ⟨by decide, sramOpen _ _ 0 12288 (by decide),
      (sramRun _ _ .read 0 12288 (by decide)).1, ?_, fun h => table0 _ _ _ h rfl rfl,
      fun h => table1 _ _ _ rfl 0xFE00000000000000 (List.mem_map.mpr ⟨0, by simp, rfl⟩) (by subst h; decide)⟩,
      fun v => ?_⟩, by decide, by decide⟩
  · exact saves (s := sysE (opS (.ctxsv fs) 7 0x40000) 0 { stoppedBy := some 7 })
      (sp := { (sysE (opS (.ctxsv fs) 7 0x40000) 0 { stoppedBy := some 7 }).space 7 with priv := true }) ⟨rfl, rfl, rfl⟩ _ 7 (by decide) _ 0x40000 0
      (by decide) (by decide) rfl rfl (by decide)
  · exact savesWait (s := sysE (opS (.ctxsv fs) 7 0x40000) (2 ^ 45) { stoppedBy := some 7 })
      (sp := { (sysE (opS (.ctxsv fs) 7 0x40000) (2 ^ 45) { stoppedBy := some 7 }).space 7 with priv := true }) ⟨rfl, rfl, rfl⟩ _ 7 _ 0x40000 0
      (by decide) (by decide) rfl rfl (by decide) rfl rfl
  · rw [show (opS (.cfgld { fs with sysno := 0x603 }) 0xFE00000000000000 0).a = BitVec.ofNat 64 (0xFE00000000000000 + 0) from rfl,
      sramWalked _ _ _ 0 12288 (by decide)]
    exact reach_near _ _ _ _ _ (fun y hy => sramNear { sysE (opS (.cfgld { fs with sysno := 0x603 }) 0xFE00000000000000 0) 0 {} with marks := m } 0 0 12288 (by decide)
      (show (none : Option Nat) ≠ some 9 by decide) (by decide) _ (placed_mem hy))
  · have hm (v : Bool) : Mapped (2 ^ 45) (cfgFar v) ((cfgFar v).opSpace 0 cfgF) := ⟨rfl, rfl, rfl⟩
    have hw := bigWalked (hm v) 0 12288 (by decide) .read
    obtain ⟨z, hz, hf⟩ := far_head 0 12287
    refine ⟨by decide, bigOpen (hm v) 0 12288 (by decide), bigBytes (hm v) 0 12288 (by decide), fun h => ?_, fun h => ?_⟩
    · subst h
      rw [show cfgF.a = BitVec.ofNat 64 0 from rfl, hw]
      exact reach_nokey _ _ _ _ _ z hz hf rfl rfl
    · subst h
      rw [show cfgF.a = BitVec.ofNat 64 0 from rfl, hw]
      exact reach_asks _ _ _ _ _ z hz hf rfl (fun _ => rfl)

/-- Task 1 frozen in cluster 0. -/
abbrev Tests.ice : State := Tests.blk Tests.img0 (fun r => { r with frozen := some Tests.trapR })

open Tests in
/-- A doorbell below 32, one at a full queue, one that queues; GO on a frozen task and on one that runs; a module that trains, one
that carries flits, one with a bad map and a quiesced one with a good map; a rollover while one is under way; no firmware image, and one
with no header. -/
theorem witness_RegistersFromOutside :
    ((State.reset.modHub (fun h => { h with queue := List.replicate 256 { addr := 0x40, root := 0, asid := 0 } })).hub.queue.length = 256) ∧
    (
    State.reset.hub.queue.length < 256 ∧
    (0 = bitsOf (0x100 : Word) 5 0 ∧ (0x100 : Word).getLsbD 8 = true ∧ (ice.region 0).frozen.isSome = true ∧ (ice.cluster 0).task = some 1 ∧
      (ice.task 1).twin = none) ∧ (two.region 0).frozen = none ∧
    (let s := two.modLink 3 (fun l => { l with quiesced := true, training := true })
     (s.link 3).training = true ∧ (s.link 3).quiesced = true ∧ (s.link 3).mapBad = false) ∧
    ((two.link 3).mapBad = false ∧ (two.link 3).quiesced = false) ∧
    (let s := two.modLink 3 (fun l => { l with training := true, map := 0x7F7F0505 })
     (s.link 3).training = true ∧ (s.link 3).quiesced = false ∧ (s.link 3).mapBad = true) ∧
    (let s := two.modLink 3 (fun l => { l with quiesced := true })
     (s.link 3).training = false ∧ (s.link 3).quiesced = true ∧ (s.link 3).mapBad = false) ∧
    ((two.modFar 1 (fun d => { d with roll := true })).far 1).roll = true ∧ (two.far 1).roll = false ∧ isSram 0xFE00000000000000 = true ∧
    rangeOf 0 = some 0) ∧ (∀ x ∈ State.reset.hub.firmware, x.accepted = true) ∧
    (let x : Firmware := { header := [], body := [], key := [], sig := [] }
     let s := State.reset.modHub (fun h => { h with firmware := [x] })
     ∃ x ∈ s.hub.firmware, x.accepted = false) :=
  ⟨List.length_replicate, by decide, nofun, _, .head _, rfl⟩

/-! ## Traps at the hub, the scheduler and recovery -/

/-- A handler control block at 0x400: a handler at 0x8000, a ring of 16 records at 0xFE..0000. -/
def Tests.hcbCells : List Host.Cell := [(0x401, 0x80), (0x42F, 0xFE), (0x430, 16)]
def Tests.rec1 : TrapRec := { Tests.trapR with task := 1 }
/-- Task 1 frozen in cluster 0, its record at the hub. -/
abbrev Tests.hubT (en : Bool) (tail : Nat) : State :=
  ({ Tests.ice with mem := Tests.hcbCells }).modHub (fun h => { h with trapEn := en, hcb := 0x400, ringTail := tail, records := [Tests.rec1] })
abbrev Tests.hubH : State := (Tests.hubT true 1).modHub (fun h => { h with records := [], written := [(Tests.rec1, 0xFE00000000000000, [5])] })

open Tests in
/-- No record, one whose cluster does not reach the hub, one while the hub does not reach its ring; EN = 0; a trap in a handler, a bad
control block; a full ring; a record that is written; a handler. -/
theorem witness_TrapRecordsAndHandlers :
    State.reset.hub.records = [] ∧ (∀ x ∈ (cut (hubT true 0)).hub.records, (cut (hubT true 0)).hubOpen x.pclus = false) ∧
    (let s := { (hubT true 0).modHub (fun h => { h with hcb := 2 ^ 38 }) with links := (List.range 416).map (fun n => (n, { up := n == 96 })) }
     s.hub.records.find? (fun x => s.hubOpen x.pclus) = some rec1 ∧ s.hub.trapEn = true ∧ s.ringOpen = false) ∧
    (let s := hubT false 0
     s.hub.records.find? (fun x => s.hubOpen x.pclus) = some rec1 ∧ s.hub.trapEn = false ∧ (s.region rec1.pclus).frozen.isSome = true ∧ (s.cluster rec1.pclus).task = some 1 ∧ 1 = rec1.task ∧
       (s.task 1).twin = none) ∧
    (let s := (hubT true 0).modTask 1 (fun t => { t with handler := some 2 })
     s.hub.trapEn = true ∧ s.ringOpen = true ∧ (s.task rec1.task).handler.isSome = true) ∧
    ((hubT true 0).modHub (fun h => { h with hcb := 0x440 })).hcbGood = none ∧
    ((hubT true 16).ringOpen = true ∧ ∃ h, (hubT true 16).hcbGood = some h ∧ (hubT true 16).hub.ringUse = h.ringn) ∧
    (let s := hubT true 0
     s.hub.trapEn = true ∧ s.ringOpen = true ∧ (s.task rec1.task).handler = none ∧ s.memOk ∧ ∃ h, s.hcbGood = some h ∧ s.hub.ringUse ≠ h.ringn ∧
       ∃ pas, s.xlateSpan h.space (h.ring + BitVec.ofNat 64 (64 * (s.hub.ringTail % h.ringn))) 64 .write = .ok pas ∧ pas.Nodup ∧ ∀ p ∈ pas, s.otherCopy p = none) ∧
    (hubH.hub.written = [(rec1, 0xFE00000000000000, [5])] ∧ (∃ h, hubH.hcbGood = some h) ∧ hubH.hub.handlers = [] ∧
      (∀ d, (hubH.cluster d).favour = none) ∧ (dieClusters (rec1.pclus / 16) ++ List.range 64).find? hubH.idle = some 1) := by
  refine ⟨by decide, by decide, by decide +kernel, by decide, by decide, by decide, ⟨by decide, _, rfl, by decide⟩,
    ⟨by decide, by decide, by decide, by decide, _, rfl, by decide, _, rfl, by decide, fun _ _ => rfl⟩,
    by decide, ⟨_, rfl⟩, by decide, fun d => ?_, by decide⟩
  rcases d with _ | d <;> rfl

/-- A card of n entries at 0xFE..400 whose header asks for 255 semaphores and gives areas at 1 MiB and a table at 512. -/
def Tests.cardCells (n : Nat) : List Host.Cell :=
  (if n = 0 then [] else [(0xFE00000000000400, BitVec.ofNat 8 n)]) ++
  [(0xFE00000000000402, 255), (0xFE0000000000040A, 0x10), (0xFE00000000000412, 0x10), (0xFE00000000000418, 0xE0)
  , (0xFE0000000000041F, 0xFE), (0xFE00000000000421, 2), (0xFE00000000000427, 0xFE), (0xFE00000000000441, 0x80)]
abbrev Tests.cardS (n : Nat) : State :=
  { State.reset with mem := Tests.cardCells n, hub := { queue := [{ addr := 0xFE00000000000400, root := 0, asid := 0 }] } }

/-- What the checks of a card say, and where its window goes. -/
def Tests.cardGood (s : State) (k : Card) : Option (Option (Nat × Nat)) :=
  match s.readCard k with
  | .ok (h, bs) =>
    let es := entriesOf bs
    if cardReason h es (es.map (fun e => s.chooseDie e.affin)) (k.kicked && !k.priv) s.hub.mirEn = none then some (s.window 0 (fieldAt h 2 1)) else none
  | .error _ => none

theorem Tests.card_good {s : State} {k : Card} {w : Option (Nat × Nat)} (h : cardGood s k = some w) : ∃ b bs, s.readCard k = .ok (b, bs) ∧
    cardReason b (entriesOf bs) ((entriesOf bs).map (fun e => s.chooseDie e.affin)) (k.kicked && !k.priv) s.hub.mirEn = none ∧
      s.window 0 (fieldAt b 2 1) = w := by
  unfold cardGood at h
  split at h
  · rename_i b bs hr
    dsimp only at h
    split at h
    · rename_i hc
      exact ⟨b, bs, hr, hc, by simpa using h⟩
    · cases h
  · cases h

theorem Tests.card_read {s : State} {k : Card} (h : (match s.readCard k with | .ok _ => true | .error _ => false) = true) : ∃ x, s.readCard k = .ok x := by
  split at h
  · exact ⟨_, ‹_›⟩
  · cases h

def Tests.cardBad (s : State) (k : Card) : Option (Nat × Word) :=
  match s.readCard k with
  | .error (r, h) => some (r, wordAt h 24)
  | .ok _ => none

theorem Tests.card_bad {s : State} {k : Card} {r : Nat} {w : Word} (h : cardBad s k = some (r, w)) : ∃ b, s.readCard k = .error (r, b) ∧ wordAt b 24 = w := by
  unfold cardBad at h
  split at h
  · rename_i b hr
    cases h
    exact ⟨b, hr, rfl⟩
  · cases h

open Tests in
/-- An empty queue; a card of no entries with a completion record; one that a job of a user may not kick; a good card that gets a
window, one that waits for it, and one that has been read. -/
theorem witness_JobsLoad :
    State.reset.hub.queue = [] ∧
    (let k : Card := { addr := 0xFE00000000000400, root := 0, asid := 0 }
     (cardS 0).hub.queue = [k] ∧ k.onend = [] ∧ (cardS 0).hub.card = none ∧ (cardS 0).cardOpen k = true ∧ (cut (cardS 0)).cardOpen k = false ∧
       (cardS 0).memOk ∧
       ∃ h, (cardS 0).readCard k = .error (1, h) ∧ wordAt h 24 = 0xFE000000000000E0) ∧
    (∃ pas, (cardS 0).xlateSpan { task := 0, clus := 64, root := 0, asid := 0, priv := true }
      0xFE000000000000E0 16 .write = .ok pas ∧ pas.Nodup ∧ ∀ p ∈ pas, (cardS 0).otherCopy p = none) ∧ (cardS 1).hub.mirEn = false ∧
    (let k : Card := { addr := 0xFE00000000000400, root := 0, asid := 0 }
     let s := { cardS 1 with mem := (cardS 1).mem.filter (fun x => x.1 != 0xFE0000000000040A) }
     k.onend = [] ∧ s.hub.card = none ∧ s.cardOpen k = true ∧ cardGood s k = none ∧ ∃ x, s.readCard k = .ok x) ∧
    (let k : Card := { addr := 0xFE00000000000400, root := 0, asid := 0 }
     (cardS 1).hub.card = none ∧ (cardS 1).cardOpen k = true ∧ ∃ h bs, (cardS 1).readCard k = .ok (h, bs) ∧
       cardReason h (entriesOf bs) ((entriesOf bs).map (fun e => (cardS 1).chooseDie e.affin)) (k.kicked && !k.priv) (cardS 1).hub.mirEn = none ∧
       (cardS 1).window 0 (fieldAt h 2 1) = some (0, 0)) ∧
    (let k : Card := { addr := 0xFE00000000000400, root := 0, asid := 0 }
     let s := (cardS 1).modHub (fun y => { y with jobs := (List.range 64).map (fun c => (c, { sclus := c, semn := 255 })) })
     ∃ h bs, s.readCard k = .ok (h, bs) ∧
       cardReason h (entriesOf bs) ((entriesOf bs).map (fun e => s.chooseDie e.affin)) (k.kicked && !k.priv) s.hub.mirEn = none ∧
       s.window 0 (fieldAt h 2 1) = none) ∧
    (let k : Card := { addr := 0xFE00000000000400, root := 0, asid := 0 }
     let s := (cardS 0).modHub (fun y => { y with card := some ([], []) })
     s.hub.queue = [k] ∧ s.headCard k = .ok ([], [])) :=
  ⟨by decide, ⟨by decide, by decide, by decide, by decide +kernel, by decide +kernel, by decide, card_bad (by decide +kernel)⟩,
    ⟨_, rfl, by decide, fun _ _ => rfl⟩, by decide,
    ⟨by decide, by decide, by decide +kernel, by decide +kernel, card_read (by decide +kernel)⟩, ⟨by decide, by decide +kernel, card_good (by decide +kernel)⟩,
    card_good (by decide +kernel), by decide, rfl⟩

/-- Task 2 on the bench of cluster 5. -/
abbrev Tests.benched : State :=
  { State.reset with tasks := [(2, { id := 2, entry := 0x8000, prio := 2, eprio := 3, place := .bench 5 })], clusters := [(5, { bench := [2], gated := true })] }
/-- Task 2 in the pool of die 0, all of whose clusters run tasks of lower priority. -/
abbrev Tests.crowd : State :=
  { State.reset with
    tasks := (2, { id := 2, job := 7, eprio := 3, place := .pool 0, age := 1 }) :: (4, { id := 4, job := 7, place := .pool 0, age := 2 }) :: (List.range 16).map (fun c => (16 + c, { id := 16 + c, place := .region c }))
    clusters := (List.range 16).map (fun c => (c, { task := some (16 + c) }))
    hub := { pools := [(0, [2])] } }
/-- Task 1 in cluster 0, asked in cycle 4 to give its region up in favour of task 2. -/
abbrev Tests.asked1 (g : Region → Region) : State :=
  (((Tests.blk Tests.img0 g).modCluster 0 (fun x => { x with asks := [{ task := 2, at_ := 4 }], tlb := [Tests.big 0] })).setTask 2 { id := 2, place := .pool 0 }).modHub
    (fun h => { h with pwait := 5 })

open Tests in
/-- A task that ends, one that does not; a dispatch from a bench to a gated cluster; a request; age requests; a handler's request behind one; a region
that stops, and one that is saved. -/
theorem witness_SchedulerEvents :
    (let s := (blk img0 id).modTask 1 (fun t => { t with ending := true })
     (s.task 1).ending = true ∧ (s.task 1).place ≠ .ended ∧ s.quiet 1 = true ∧ s.endOpen 1 = true ∧ (s.tasks.map (·.1)).Nodup ∧ (s.task 1).place = .region 0 ∧
       (s.cluster 0).task = some 1) ∧
    (two.task 1).ending = false ∧ (two.cluster 0).task.isSome = true ∧
    (benched.choose 5 = some (2, 16) ∧ (benched.cluster 5).bench ≠ [] ∧ (benched.cluster 5).task = none ∧ (benched.cluster 5).freeAt ≤ benched.now ∧
      (benched.cluster 5).favour = none ∧ benched.unit 2 = [2] ∧ 5 ∈ benched.spotsFor 2 ∧ (benched.task 2).started = false ∧ (benched.task 2).handler = none) ∧
    ((crowd.task 2).queued = true ∧ (∀ d ∈ crowd.spotsFor 2, crowd.idle d = false) ∧ crowd.asked 2 = false ∧
      (∃ c u, crowd.victimFor 2 = some (c, u))) ∧
    (let s := crowd.modCluster 3 (fun k => { k with asks := [{ task := 4, at_ := 5, byAge := true }, { task := 2, at_ := 6, byAge := true }] })
     s.gainer 3 = some 2 ∧ ∀ a ∈ (s.cluster 3).asks, s.stands a = true → a.byAge = true ∧ a.member = false) ∧
    (let s := (crowd.setTask 5 { id := 5, handler := some 0, place := .waiting, eprio := 4 }).modCluster 3 (fun k => { k with
       asks := [{ task := 4, at_ := 5, byAge := true }, { task := 5, at_ := 6 }] })
     ((s.cluster 3).asks.filter (fun a => s.stands a && !a.member)).find? (fun a => (s.task a.task).handler.isSome) = some { task := 5, at_ := 6 }) ∧
    ((asked1 id).wanted 0 = some (2, 4) ∧ ((asked1 id).modHub (fun h => { h with pwait := 6 })).now < 4 + 6) ∧
    (((asked1 (fun r => { r with sel := some (selX .exit 0x8000) })).region 0).afterExit 4 = true ∧
      (asked1 (fun r => { r with forced := true, stoppedBy := some 6 })).otherSave 0 = true) ∧
    (let s := asked1 id
     4 + s.hub.pwait ≤ s.now ∧ (s.region 0).afterExit 4 = false ∧ (s.region 0).restoring = none ∧ (s.region 0).frozen = none ∧ s.otherSave 0 = false ∧
       (s.region 0).stoppedBy = none ∧ s.enginesQuiet 0 (s.taskIdOf 0) = true) ∧
    (let s := asked1 (fun r => { r with stoppedBy := some 6 })
     s.wanted 0 = some (2, 4) ∧ 4 + s.hub.pwait ≤ s.now ∧ (s.region 0).afterExit 4 = false ∧ (s.region 0).restoring = none ∧
       (s.region 0).frozen = none ∧ s.otherSave 0 = false ∧
       (s.region 0).stoppedBy.isSome = true ∧ s.still 0 = true ∧ (s.cluster 0).task = some 1 ∧ (s.cluster 0).bench.length < 64 ∧ (s.task 1).gang = 0 ∧
       (s.task 1).twin = none ∧ (s.task 1).repl = false ∧ s.gainer 0 ≠ some 1 ∧
       ∃ s1, s.saveAreas { s.space 0 with priv := true } (s.context 0 true 0) 0 1 (some (s.preemptRecord 0)) (s.csaOf 1) (s.bsaOf 1) = .done s1 ()) :=
  ⟨by decide, by decide, by decide, by decide, ⟨by decide, by decide, by decide, _, _, rfl⟩, by decide, by decide, by decide, by decide, by decide,
    ⟨by decide, by decide, by decide, by decide, by decide, by decide, by decide, by decide, by decide, by decide, by decide, by decide, by decide, by decide,
      saves (s := asked1 (fun r => { r with stoppedBy := some 6 })) (sp := { (asked1 (fun r => { r with stoppedBy := some 6 })).space 0 with priv := true })
        ⟨rfl, rfl, rfl⟩ _ 0 (by decide) _ 0 0 (by decide) (by decide) rfl rfl (by decide)⟩⟩

/-- Two additions, the first of which feeds both operands of the second: the second has eight left operands and waits for a right
one, the first cannot send one. -/
def Tests.img3 : Image := { Tests.img0 with nins := 2, nrd := 0, reads := [], words := [encode (.add { Tests.fa with t0 := .left 1, t1 := .right 1 }), encode (.add Tests.fa)] }
abbrev Tests.dead (p : List Probe) : State :=
  (Tests.blk Tests.img3 (fun r => { r with nodes := [(0, { l := Tests.q [Tests.num 1], r := Tests.q [Tests.num 1] }),
    (1, { l := { Tests.q (List.replicate 8 (Tests.num 1)) with stood := 8 } })] })).modHub (fun h => { h with probeDelay := 8, probes := p })
def Tests.probe0 : Probe := { from_ := (0, 1, 0), head := 0, here := (0, 1, 0), tasks := [1], last := [(1, (0, 1, 0))] }

open Tests in
/-- A probe that is sent, one that hops, one that comes back, one of two tasks that does, one whose head has changed; a queue that has not stood long. -/
theorem witness_ProbesFindDeadlocks :
    (let s := dead []
     s.hub.probeDelay ≠ 0 ∧ s.hub.probeDelay ≤ (s.queueAt (0, 1, 0)).stood ∧ (s.queueAt (0, 1, 0)).probedAt = none ∧
       ((s.queueAt (0, 1, 0)).front s.now).isSome = true ∧ s.running 0 = true ∧ (s.node 0 1).retired = false ∧ (s.queueAt (0, 0, 0)).stood < s.hub.probeDelay) ∧
    (let s := dead [probe0]
     s.hub.probes[0]? = some probe0 ∧ s.probeStale probe0 = false ∧ s.probeNext 0 1 = some (0, 0, 0) ∧ (0, 0, 0) ≠ probe0.from_) ∧
    (let p : Probe := { probe0 with here := (0, 0, 0), passed := 1, last := [(1, (0, 0, 0))] }
     let s := dead [p]
     s.hub.probes[0]? = some p ∧ s.probeStale p = false ∧ s.probeNext 0 0 = some (0, 1, 0) ∧ (0, 1, 0) = p.from_ ∧ (s.task 1).place = .region 0) ∧
    (let p : Probe := { probe0 with here := (0, 0, 0), passed := 4, tasks := [3, 1], last := [(3, (9, 0, 1)), (1, (0, 0, 0))] }
     let s := ((dead [p]).setTask 3 { id := 3, place := .region 9, age := 1 }).modTask 1 (fun t => { t with age := 2 })
     s.hub.probes[0]? = some p ∧ s.probeStale p = false ∧ s.probeNext 0 0 = some p.from_ ∧ (∀ w ∈ p.tasks, w ≠ 1 → (s.task w).older (s.task 1) = true) ∧
       p.last.find? (fun x => x.1 == 1) = some (1, (0, 0, 0)) ∧ (s.task 1).place = .region 0) ∧
    (let p : Probe := { probe0 with head := 3 }
     (dead [p]).hub.probes[0]? = some p ∧ ((dead [p]).queueAt p.from_).pops ≠ p.head) := by decide

/-- A read port of a task that takes recovery points, whose replay buffer is full. -/
def Tests.fullPort : Port := { Tests.rport [Tests.elem] with replay := [{ Tests.elem with tok := .pkt .i64 2047 false 0 }] }
abbrev Tests.fullS (g : Region → Region) : State :=
  ((((Tests.strm .pop Tests.fullPort [] []).modTask 1 (fun t => { t with vreg := some 0 })).modCluster 0 (fun x => { x with tlb := [Tests.big 0] }))).modRegion 0 g
abbrev Tests.stoppedS : State := Tests.fullS (fun r => { r with forced := true, stoppedBy := some 7 })

theorem Tests.takes {s : State} {c : Nat} {x : Task} (h : ∃ u, s.saveAreas { s.space c with priv := true } x c 1 none
    (csaAt (s.job x.job) (128 + x.vreg.getD 0)) (bsaAt (s.job x.job) (128 + x.vreg.getD 0)) = .done u ()) : ∃ s1, s.takePoint c x true = .done s1 () := by
  obtain ⟨u, hu⟩ := h
  unfold State.takePoint
  simp only [Bool.toNat_true, hu]
  exact ⟨_, rfl⟩

/-- Task 1 by what the replay rule says of it. -/
abbrev Tests.rolls (have_ rolled : Bool) : State := (Tests.blk Tests.img0 id).modTask 1 (fun t => { t with rpHave := have_, rpElig := true, rolled := rolled })

open Tests in
/-- A full buffer, one of a twin; a point that is taken and one that waits; an error with no task, in a token, in one of a gate and of a
write entry, in an accumulator, in a plane, and in
control state of each kind of task. -/
theorem witness_RecoveryPointsAndSoftErrors :
    (let s := fullS id
     s.running 0 = true ∧ (s.region 0).forced = false ∧ s.takesPoints 0 = true ∧ s.bufferFull 0 = true ∧ s.enginesQuiet 0 (s.taskIdOf 0) = true) ∧
    (let s := ((fullS id).modTask 1 (fun t => { t with twin := some 2, isTwin := true, place := .region 0 })).setTask 2 { id := 1, place := .region 1, vreg := some 0, twin := some 1 }
     let s := s.modCluster 1 (fun x => { x with task := some 2, region := { img := some img0 } })
     s.running 1 = true ∧ (s.region 1).forced = false ∧ s.takesPoints 1 = true ∧ s.twinCluster 1 = some 0 ∧ s.bufferFull 0 = true ∧
       s.enginesQuiet 1 (s.taskIdOf 1) = true) ∧
    (let s := stoppedS
     (s.region 0).forced = true ∧ (s.region 0).stoppedBy = some 7 ∧ (s.cluster 0).task = some 1 ∧ s.twinCluster 0 = none ∧ s.still 0 = true ∧
       ∃ s1, s.takePoint 0 (s.context 0 true 0) true = .done s1 ()) ∧
    (fullS (fun r => { r with forced := true, stoppedBy := some 7, accesses := [accOf (.ld fm4) 0 none] })).still 0 = false ∧
    State.reset.clusters = [] ∧ (two.cluster 0).task.isSome = true ∧
    (5 = 4 * 1 + 5 / 4 % 4 ∧ ((two.node 0 5).queue (5 % 4)).toks[5 / 16]? = some { tok := .pkt .i64 1 false 64, at_ := 3 }) ∧
    (let s := two.modRegion 0 (fun r => { r with reads := [(31, { gate := [{ tok := yes, at_ := 3 }] })], writes := [(30, { toks := [{ tok := num 1, at_ := 3 }] })] })
     31 = 31 % 32 ∧ ((s.region 0).reads.get {} 31).gate[31 / 32]? = some { tok := .ctl true false 0, at_ := 3 } ∧
       30 = 30 % 32 ∧ ((s.region 0).writes.get {} 30).toks[30 / 32]? = some { tok := .pkt .i64 1 false 1, at_ := 3 }) ∧
    (((mul.taskOf 0).dot 1).active = some planeB) ∧
    (((rolls false false).taskOf 0).mayRoll = false) ∧ (((rolls true true).taskOf 0).mayRoll = true ∧ ((rolls true true).taskOf 0).rolled = true) ∧
    (((rolls true false).taskOf 0).mayRoll = true ∧ ((rolls true false).taskOf 0).rolled = false ∧ ((rolls true false).taskOf 0).twin = none) := by
  refine ⟨by decide, by decide, ⟨by decide, by decide, by decide, by decide, by decide, takes ?_⟩, by decide, by decide, by decide, by decide, by decide, rfl,
    by decide, by decide, by decide⟩
  rw [show csaAt _ _ = BitVec.ofNat 64 0x2000000 by decide, show bsaAt _ _ = BitVec.ofNat 64 0x54000000 by decide]
  exact saves (s := stoppedS) ⟨rfl, rfl, rfl⟩ _ 0 (by decide) none 0x2000000 0x54000000 (by norm_num) (by norm_num) rfl rfl (by decide)

/-- Task 1 in cluster 0 and its twin 2 in cluster 1, with items at the umpire. -/
abbrev Tests.pair (l : List Item) : State :=
  { ((Tests.blk Tests.img0 id).modTask 1 (fun t => { t with twin := some 2 })).setTask 2 { id := 1, place := .region 1, twin := some 1, isTwin := true } with
    hub := { items := l, uwait := 4 } }
def Tests.item (t : Nat) (body : List Word) (at_ : Nat) : Item := { task := t, node := 5, ord := 0, body := body, at_ := at_, what := 3, id := 2 }

open Tests in
/-- Items that agree, items that differ, items compared too soon; an item alone, past UWAIT and before; a second mismatch and a first. -/
theorem witness_UmpireComparesCopies :
    (let s := { pair [item 1 [3, 0x20, 1] 2, item 2 [3, 0x20, 1] 1] with now := 14 }
     let x := item 1 [3, 0x20, 1] 2
     s.hub.items[0]? = some x ∧ x.task = s.taskIdOf 0 ∧ (s.taskOf 0).isTwin = false ∧ (s.region 0).halted = false ∧
       s.matchOf 0 x = some (item 2 [3, 0x20, 1] 1) ∧ s.twinCluster 0 = some 1 ∧ Nat.max x.at_ 1 + 12 ≤ s.now ∧ x.what = 3) ∧
    (let s := { pair [item 1 [3, 0x20, 1] 2, item 2 [3, 0x40, 1] 1] with now := 14 }
     let x := item 1 [3, 0x20, 1] 2
     s.matchOf 0 x = some (item 2 [3, 0x40, 1] 1) ∧ x.body ≠ (item 2 [3, 0x40, 1] 1).body) ∧
    (pair []).now < Nat.max 2 1 + 12 ∧
    (let x := item 1 [3, 0x20, 1] 5
     let s := pair [x]
     s.hub.items[0]? = some x ∧ x.task = s.taskIdOf 0 ∧ (s.taskOf 0).isTwin = false ∧ (s.taskOf 0).twin = some 2 ∧ (s.region 0).halted = false ∧
       x.at_ + s.hub.uwait ≤ s.now) ∧
    (pair []).now < (item 1 [] 6).at_ + (pair []).hub.uwait ∧
    ((rolls true false).taskOf 0).mismatched = false ∧ ((rolls true false).taskOf 0).mayRoll = true ∧ ((rolls false false).taskOf 0).mayRoll = false := by decide

/-! ## The weight ring -/

/-- Layer 5, three tiles from index 2 on, at 0x8000 of die 0, LAST. -/
def Tests.lapE : LapEntry := { layer := 5, first := 2, count := 3, src := 0x8000, last := true }
def Tests.lapCells : List Host.Cell := [(0x1000, 5), (0x1004, 2), (0x1006, 3), (0x1009, 0x80), (0x1010, 1)]
/-- The ring, in a lap of that entry or in none. -/
abbrev Tests.ringS (now : Nat) (r : Ring) : State :=
  { State.reset with now := now, mem := Tests.lapCells, ring := { r with lapBase := 0x1000 }, tasks := [(1, { id := 1, place := .pool 0 })] }
abbrev Tests.inLap : Ring := { en := true, running := true, list := [Tests.lapE], pos := 0, next := 8 }

/-- A window at stop 2 of the range, in the lap at position 0. -/
def Tests.win : Window := { cmd := 3, task := 1, layer := 5, first := 2, count := 3, dkind := 0, dest := 0xFE00000002000000, cells := 0, lap := some (0, 0) }
def Tests.tileR (k : Nat) : RingTile := { lap := 0, pos := k, layer := 5, index := 2 + k, src := 0x8000 * (k + 1), start := 0, tail := 7 }

/-- A cycle in which a frame begins at the feeder of die 0. -/
def Tests.go : Nat := 8 + Config.frameStart % 4

theorem Tests.go_phase : framePhase 0 Tests.go = 0 := by
  have : ringPos 0 = 0 := rfl
  simp only [framePhase, Tests.go]
  omega

theorem Tests.slots (die now : Nat) : ∃ rest, beatSlots die now 0 0 = 0 :: rest := by
  have : framePhase die now < 4 := Nat.mod_lt _ (by omega)
  simp only [beatSlots]
  interval_cases framePhase die now <;> exact ⟨_, rfl⟩

open Tests in
/-- A lap that starts, one that may not yet, a list whose first entry is bad, the ring off; a lap under way; a tile that is not due, seams
that carry nothing, a full buffer, a tile that goes. -/
theorem witness_RingLaps :
    (let s := ringS go { en := true }
     s.readLap s.ring.lapBase 65536 = ([lapE], false) ∧ (s.ring.running = true → s.ring.pos = lapTiles s.ring.list) ∧ s.ring.en = true ∧ [lapE] ≠ [] ∧
       s.ring.atStart (s.ring.refDie [lapE]) s.now = true ∧ s.tasks.find 1 = some { id := 1, place := .pool 0 }) ∧
    (let s := ringS (go + 1) { en := true }
     s.readLap s.ring.lapBase 65536 = ([lapE], false) ∧ s.ring.atStart (s.ring.refDie [lapE]) s.now = false) ∧
    (let s := { ringS go { en := true } with mem := [] }
     s.readLap s.ring.lapBase 65536 = ([], true) ∧ s.ring.en = true ∧ s.ring.atStart (s.ring.refDie []) s.now = true) ∧
    (let s := ringS go { inLap with en := false, pos := 3 }
     s.ring.en = false ∧ (s.ring.running = true → s.ring.pos = lapTiles s.ring.list) ∧ s.ring.atStart (s.ring.refDie []) s.now = true) ∧
    (let s := ringS 8 inLap
     s.ring.running = true ∧ s.ring.pos ≠ lapTiles s.ring.list ∧ tileAt s.ring.list 0 s.ring.pos = some (0, lapE, 0) ∧
       (∀ x ∈ s.ring.tiles, s.now ≤ x.start + x.tail + 101) ∧ s.backlog ≤ 262144 ∧ s.ring.blk = 0 ∧
       s.ring.next + ringDelay (feederPos s.ring.die) (feederPos (lapE.src / 2 ^ 38)) ≤ s.now ∧ s.seam < 4 ∧ s.mustPause s.ring.pos 5 2 = false ∧
       s.histOk ∧ lapE.src % 32 = 0 ∧ ∃ rest, beatSlots 0 s.now s.ring.cur (Nat.max s.ring.cur s.ringSpeed) = 0 :: rest) ∧
    (ringS 7 inLap).now < inLap.next ∧
    4 ≤ ({ ringS 8 inLap with links := (List.range 32).map (fun k => (k, { quiesced := true })) } : State).seam ∧
    (let s := { ringS 8 inLap with clusters := [(2, { windows := [win], copies := (List.range 8).map (fun k =>
        { tile := { tileR k with lap := 4 }, cmd := 3, task := 1, n := 0, due := [20] }) })] }
     s.backlog ≤ 262144 ∧ s.seam < 4 ∧ (s.cluster 2).wants s.ring.lap s.ring.pos 5 2 = true) := by
  refine ⟨⟨by decide +kernel, by decide, rfl, by decide, ?_, by decide⟩, ⟨by decide +kernel, ?_⟩, ⟨by decide +kernel, rfl, ?_⟩, ⟨rfl, by decide, ?_⟩,
    ⟨by decide, by decide, by decide, by decide, by decide, by decide, by decide, by decide +kernel, by decide, by decide, by decide, ?_⟩,
    by decide, by decide +kernel, ⟨by decide, by decide +kernel, by decide⟩⟩
  · exact (Bool.and_eq_true _ _).mpr ⟨beq_iff_eq.mpr go_phase, rfl⟩
  · have h : framePhase 0 (go + 1) = 1 := by
      have : ringPos 0 = 0 := rfl
      simp only [framePhase, go]
      omega
    exact congrArg (fun n => (n == 0 && _)) h
  · exact (Bool.and_eq_true _ _).mpr ⟨beq_iff_eq.mpr go_phase, rfl⟩
  · exact (Bool.and_eq_true _ _).mpr ⟨beq_iff_eq.mpr go_phase, by simp [go, lapTiles, lapE]⟩
  · exact slots 0 8

open Tests in
/-- A stop whose buffer is full and whose window is wanted. -/
theorem witness_RingLaps_pause :
    let s := { ringS 8 inLap with clusters := [(2, { windows := [win], copies := (List.range 8).map (fun k =>
        { tile := { tileR k with lap := 4 }, cmd := 3, task := 1, n := 0, due := [20] }) })]
                                  ring := { (ringS 8 inLap).ring with tiles := (List.range 24).map (fun _ => { tileR 0 with start := 8 }) } }
    (∀ x ∈ s.ring.tiles, s.now ≤ x.start + x.tail + 101) ∧ s.backlog ≤ 262144 ∧ s.ring.blk = 0 ∧ s.mustPause s.ring.pos 5 2 = true := by decide

/-- Command 3 of task 1, a boarding of the range, in cluster 2; its region. -/
def Tests.boardC (flg : Nat) (l : List Nat) : Cmd := { Tests.cmdOf (.board { Tests.tileF with flg := BitVec.ofNat _ flg }) 5 0 0 with desc := l.map (BitVec.ofNat 8) }
def Tests.descB (layer count : Nat) : List Nat := [layer, 0, 0, 0, 2, 0, count, 0, 0, 0, 0, 0, 0, 0, 0, 0, 0, 0, 0, 2, 0, 0, 0, 0xFE] ++ List.replicate 40 0
abbrev Tests.boardS (q : Cmd) (now : Nat) (r : Ring) : State :=
  { (Tests.ringS now r) with tasks := [(1, { id := 1, place := .region 2 })], clusters := [(2, { task := some 1, eq := [q] })] }

open Tests in
/-- A boarding that takes the occurrence to come; an empty range; sixteen windows; a bad destination; tiles that are held; a range of
another layer; no occurrence left, with NOWAIT and without. -/
theorem witness_BoardingAndCapture_register :
    (let q := boardC 0 (descB 5 3)
     let s := boardS q 8 inLap
     let w := boardWindow s.now q
     s.cmdReady 2 3 5 = some q ∧ (∀ x ∈ (s.cluster 2).windows, x.cmd ≠ q.id) ∧ (s.cluster 2).boardNext q = true ∧ q.dead = false ∧ q.done = 0 ∧
       w.count ≠ 0 ∧ (s.cluster 2).windows.length < 16 ∧ s.leaving 2 = false ∧ s.boardFault 2 q w = none ∧ s.boardTilesFree q w = true ∧ s.claimBefore 2 q (s.waitsTiles 2 q) = false ∧
       s.ring.en = true ∧ occurrences w.layer w.first w.count s.ring.list 0 ≠ [] ∧ s.nextOccurrence 2 w = some (0, 0) ∧ q.mate = none) ∧
    (boardWindow 8 (boardC 0 (descB 5 0))).count = 0 ∧
    (let q := boardC 0 (descB 5 3)
     let s := (boardS q 8 inLap).modCluster 2 (fun x => { x with windows := List.replicate 16 { win with cmd := 9 } })
     s.cmdReady 2 3 5 = some q ∧ (∀ x ∈ (s.cluster 2).windows, x.cmd ≠ q.id) ∧ 16 ≤ (s.cluster 2).windows.length) ∧
    (let q := boardC 0 (descB 5 7)
     ∃ x, (boardS q 8 inLap).boardFault 2 q (boardWindow 8 q) = some x) ∧
    (let q := boardC 0 ((descB 5 3).set 8 1)
     let s := (boardS q 8 inLap).modTask 1 (fun t => { t with tiles := (List.range 3).map (fun n =>
        (n, { tileA with base := 0xFE00000002000000, state := .filling, owner := 1 })) })
     s.boardFault 2 q (boardWindow 8 q) = none ∧ s.boardTilesFree q (boardWindow 8 q) = false) ∧
    (let q := { boardC 0 ((descB 5 3).set 8 1) with arrived := 2 }
     let y := { q with id := 2, node := 9, arrived := 1 }
     let s := ((boardS q 8 inLap).modCluster 2 (fun x => { x with eq := [y, q] })).modTask 1 (fun t => { t with tiles := (List.range 3).map (fun n =>
        (n, { tileA with base := 0xFE00000002000000, state := .empty, owner := 1 })) })
     s.cmdReady 2 3 5 = some q ∧ (s.cluster 2).boardNext q = true ∧ s.boardFault 2 q (boardWindow 8 q) = none ∧ s.claimBefore 2 q (s.waitsTiles 2 q) = true) ∧
    (let q := boardC 0 (descB 6 3)
     (boardS q 8 inLap).boardFault 2 q (boardWindow 8 q) = none ∧ (boardS q 8 inLap).boardTilesFree q (boardWindow 8 q) = true ∧
       occurrences 6 2 3 (boardS q 8 inLap).ring.list 0 = []) ∧
    (let q := boardC 1 (descB 5 3)
     let s := boardS q 8 { inLap with pos := 3 }
     s.nextOccurrence 2 (boardWindow 8 q) = none ∧ (cmdFmt q.ins).flg.getLsbD 0 = true ∧ (cmdFmt (boardC 0 []).ins).flg.getLsbD 0 = false) :=
  ⟨by decide, by decide, by decide, ⟨_, rfl⟩, by decide, by decide, by decide, by decide⟩

/-- The window stands at stop 2, and a tile has passed it. -/
abbrev Tests.pass (w : Window) (copies : List Copy) (tiles : List RingTile) : State :=
  { boardS (boardC 0 (descB 5 3)) 400 { inLap with pos := 3, tiles := tiles } with
    clusters := [(2, { task := some 1, eq := [boardC 0 (descB 5 3)], windows := [w], copies := copies })] }
def Tests.copy0 : Copy := { tile := { Tests.tileR 1 with seen := [2] }, cmd := 3, task := 1, n := 1, due := [400] }

open Tests in
/-- A plane whose word is invalid, a tile that is taken, one that fails and one that fails again; a copy that lands; a window that waits, and one of tiles that
closes. -/
theorem witness_BoardingAndCapture :
    (let w := { win with dkind := 2, dest := 0, cells := 1 }
     let x := { tileR 1 with start := 300 }
     let s := pass w [] [x]
     w.takes 0 1 5 3 = some 1 ∧ (s.openWindows 2).passed 2 = [x] ∧ (s.fedBy x).planeTile 0x10000 = none ∧
       s.windowCmd 2 w.cmd = some (boardC 0 (descB 5 3)) ∧ (s.cluster 2).task.isSome = true ∧ (s.region 2).frozen = none ∧ (s.taskOf 2).twin = none ∧
       (s.taskOf 2).isTwin = false) ∧
    (let x := { tileR 1 with start := 300 }
     let s := pass win [] [x]
     (s.cluster 2).windows = [win] ∧ (s.cluster 2).copies = [] ∧ (s.openWindows 2).passed 2 = [x] ∧
       win.takes 0 1 5 3 = some 1 ∧ (s.linesOf win 1).1 ≠ [] ∧ 0 < (s.linesOf win 1).2 ∧ s.windowCmd 2 win.cmd = some (boardC 0 (descB 5 3))) ∧
    (let x := { tileR 1 with start := 389 }
     let s := pass win [] [x]
     (s.openWindows 2).passed 2 = [x] ∧ 1 ∉ win.failed ∧ x.checkAt 2 = s.now) ∧
    (let w := { win with failed := [1], again := [1] }
     let x := { tileR 1 with start := 389, lap := 1 }
     let s := pass w [] [x]
     w.takes 1 1 5 3 = some 1 ∧ (s.openWindows 2).passed 2 = [x] ∧ 1 ∈ w.failed ∧ x.checkAt 2 = s.now ∧ (s.cluster 2).task.isSome = true ∧
       (s.region 2).frozen = none ∧ (s.taskOf 2).twin = none ∧ (s.taskOf 2).isTwin = false) ∧
    (let s := pass win [copy0] []
     let q := boardC 0 (descB 5 3)
     (s.openWindows 2).passed 2 = [] ∧ (s.cluster 2).windows = [win] ∧ (s.cluster 2).copies = [copy0] ∧ copy0.cmd = win.cmd ∧ copy0.due = 400 :: [] ∧ 400 ≤ s.now ∧
       (copy0.after s.now).due = [] ∧ ({ copy0 with due := [400, 401] }.after s.now).due ≠ [] ∧
       s.windowCmd 2 win.cmd = some q ∧ q.mate = none ∧ byteMode q.ins = false ∧ s.hub.migs = [] ∧ win.dkind = 0 ∧
       s.sram (q.space 2) (win.dest + BitVec.ofNat 64 (32768 * copy0.n)) .write = .ok 0xFE00000002008000 ∧ s.memOk) ∧
    (pass win [] []).windowCmd 2 win.cmd = some (boardC 0 (descB 5 3)) ∧ win.written.length ≠ win.count ∧
    ({ boardC 0 (descB 5 3) with stopped := true }).stopped = true := by decide +kernel

/-- A window of command q at stop 2, every tile of it written; task 1's semaphores are those of a cluster. -/
def Tests.full (w : Window) : Window := { w with written := [0, 2, 1] }
def Tests.signalC (ss si : Nat) (t0 : Target) : Cmd := { Tests.boardC 0 (Tests.descB 5 3) with
  ins := .board { Tests.tileF with t0 := t0, ssem := BitVec.ofNat 8 ss, sinc := BitVec.ofNat 6 si } }
abbrev Tests.closing (w : Window) (q : Cmd) (sclus : Nat) : State :=
  { Tests.ringS 400 { Tests.inLap with pos := 3 } with
    tasks := [(1, { id := 1, place := .region 2, semn := 4, sclus := sclus, sbase := 8 })]
    clusters := [(2, { task := some 1, eq := [q], windows := [w], region := { nodes := [(4, { l := { toks := [{ tok := Tests.yes, at_ := 9, pend := some 3 }] } })] } })] }

def Tests.isClosing (w : Window) (q : Cmd) (s : State) : Bool :=
  decide ((s.cluster 2).windows.find? (fun w => w.cmd == 3) = some w) && decide (s.windowCmd 2 w.cmd = some q) && w.written.length == w.count && !q.stopped &&
    q.mate.isNone && !q.dead && (s.cluster 2).mayPass q 7

open Tests in
/-- A full window with no semaphore, of tiles, of planes and of memory, the place of its token kept; one that signals by a number and one by its bytes; one whose
semaphore lies behind modules that are down. -/
theorem witness_BoardingAndCapture_close :
    (let w := full { win with dkind := 1, dest := 0 }
     let q := signalC 0xFF 0 (.left 4)
     let s := closing w q 0
     isClosing w q s = true ∧ (cmdFmt q.ins).ssem = 0xFF ∧ w.dkind = 1 ∧ (s.region 2).placeAt (.left 4) q.id) ∧
    (let w := full { win with dkind := 2, dest := 0, cells := 7 }
     let q := signalC 0xFF 0 .none
     let s := closing w q 0
     isClosing w q s = true ∧ w.dkind = 2 ∧ (s.cluster 2).task.isSome = true ∧ w.cellNos ≠ []) ∧
    (let w := full win
     let q := signalC 2 5 (.left 4)
     let s := closing w q 2
     isClosing w q s = true ∧ (cmdFmt q.ins).ssem ≠ 0xFF ∧ fieldAt q.desc 6 2 ≠ 0 ∧ (cmdFmt q.ins).sinc.toNat = 5 ∧ (s.task q.task).semKey 2 = some 522 ∧
       s.semOpen 2 (s.task q.task) 2 = true ∧ (s.sems.get {} 522).val + 5 ≤ semMax) ∧
    (let w := full win
     let q := { signalC 2 0 .none with done := 98304, signalled := 65536 }
     let s := closing w q 2
     isClosing w q s = true ∧ (cmdFmt q.ins).sinc = 0 ∧ (s.task q.task).semKey 2 = some 522 ∧ s.semOpen 2 (s.task q.task) 2 = true ∧
       (s.sems.get {} 522).val + (q.done - q.signalled) ≤ semMax) ∧
    (let w := full win
     let q := signalC 2 5 .none
     let s := cut (closing w q 16)
     isClosing w q s = true ∧ (cmdFmt q.ins).ssem ≠ 0xFF ∧ fieldAt q.desc 6 2 ≠ 0 ∧ s.semOpen 2 (s.task q.task) 2 = false ∧ (∃ y ∈ (s.cluster 2).eq, y.id = q.id)) :=
  ⟨⟨by decide, by decide, by decide, ⟨_, List.mem_singleton.mpr rfl, rfl⟩⟩, by decide, by decide, by decide, by decide +kernel⟩

/-- A step that is no reset. -/
theorem witness_TimeStamps_step :
    (∀ k, State.reset.agenda.head? ≠ some (.event (.coldReset k))) ∧ ∃ t, step State.reset = .next t :=
  ⟨fun k => by simp [State.reset], _, rfl⟩

/-! ## Links, far memory and upkeep -/

abbrev Tests.linkS (l : Link) : State := { State.reset with links := [(3, l)] }

open Tests in
/-- A module that carries flits, in its two directions; one that does not; the sixteenth failure in a row; a retrain at half width whose lanes train, one whose
lane 40 does not, one by itself, one that is not training. -/
theorem witness_FlitsAndRetrains :
    (let l : Link := { wires := [(0, { sent := 5, expect := 5 }), (1, { sent := 7, expect := 2, fails := 3 })] }
     let s := linkS l
     moduleOf (3 % 416) = 3 ∧ wireOf 3 = 0 ∧ moduleOf (419 % 416) = 3 ∧ wireOf 419 = 1 ∧ (s.link 3).carries = true ∧
       ((s.link 3).wire 0).fails + 1 < 16 ∧ 5 = ((s.link 3).wire 0).expect ∧ ((s.link 3).wire 0).sent ≤ 5 ∧ 4 ≠ ((s.link 3).wire 0).expect ∧
       ((s.link 3).wire 1).fails + 1 < 16 ∧ 2 < ((s.link 3).wire 1).sent ∧ s.wrote 0x501 3 = false ∧
       (s.touch 0x501 3 64).wrote 0x501 3 = true) ∧
    ((linkS { up := false }).link 3).carries = false ∧
    (let l : Link := { wires := [(0, { sent := 5, expect := 4, fails := 15 })] }
     ((linkS l).link 3).carries = true ∧ 15 ≤ (((linkS l).link 3).wire 0).fails ∧ 4 = (((linkS l).link 3).wire 0).expect ∧
       4 < (((linkS l).link 3).wire 0).sent) ∧
    (let l : Link := { twUsed := 2, training := true, quiesced := true }
     ((linkS l).link 3).training = true ∧ l.auto = false ∧ (∀ n ∈ neededLanes l.twUsed, l.laneTrains 0x7 0 n = true) ∧
       (∃ n ∈ neededLanes l.twUsed, l.laneTrains 0x10000000000 0 n = false)) ∧
    (let l : Link := { training := true, auto := true }
     l.auto = true ∧ l.twUsed ≠ 3 ∧ (∀ n ∈ neededLanes l.twUsed, l.laneTrains 0 0 n = true)) ∧
    ((linkS {}).link 3).training = false :=
  ⟨by decide, by decide, by decide, ⟨by decide, by decide, by decide, 40, by decide, by decide⟩, by decide, by decide⟩

/-- Request 8 of far die 1, of access 4 of cluster 0. -/
def Tests.req1 : FarReq := { id := 8, clus := 0, who := .access 4, addr := 0x200000001100, peer := false, key := 0, prio := 2, eligible := 100 }
def Tests.acc4 : Access := { Tests.accOf (.ld { Tests.fm4 with sz := 0 }) 0x1100 none with id := 4, abs := 0x1100, priv := true }
abbrev Tests.farS (now : Nat) (r : FarReq) (g : Far → Far) : State :=
  ({ Tests.mem Tests.acc4 [] with now := now, fars := [(1, g { reqs := [r] })], hub := { keyValid := true } } : State).modCluster 0
    (fun x => { x with tlb := [Tests.big (2 ^ 45)] })
/-- Channel 0 idle and channel 1 held for requests like it, its pair kept free. -/
def Tests.held (d : Far) : Far := { d with out := [(384, 0xC0000), (385, 0x40000)], inn := [(1, 0x80000)] }
def Tests.sent1 (res : Bool) : FarReq := { Tests.req1 with slot := some (1, 160), reserved := res }

open Tests in
/-- A request that goes as best effort, one that goes as reserved, one that finds nothing, one that is too early, one that nobody wants;
a response that comes, one that finds no channel; a stall before and after a slot, and its end. -/
theorem witness_FarRequests :
    (let s := farS 160 req1 id
     (s.far 1).reqs.find? (fun x => x.id == 8) = some req1 ∧ req1.slot = none ∧ s.reqWanted req1 = true ∧ req1.stalled = false ∧ s.hub.keyValid = true ∧
       req1.eligible ≤ s.now ∧ s.now % 80 = 0 ∧ s.farLive 1 = true ∧ s.pathOpen 0 req1.addr = true ∧ s.reqBefore 1 req1 = false ∧
       (s.far 1).pick s.now s.hub.partKey req1 = some (0, false)) ∧
    (cut (farS 160 req1 id)).pathOpen 0 req1.addr = false ∧
    (let x := { req1 with id := 7, who := .cmd 4 }
     let y := { req1 with who := .cmd 4 }
     let s := { (farS 160 y id).modCluster 0 (fun k => { k with eq := [{ cmdOf (.tcopy tileF) 5 0 0 with id := 4 }] }) with fars := [(1, { reqs := [x, y] })] }
     s.reqWanted y = true ∧ s.reqBefore 1 y = true ∧ s.reqBefore 1 x = false) ∧
    (let s := farS 160 req1 held
     s.farLive 1 = true ∧ (s.far 1).pick s.now s.hub.partKey req1 = some (1, true)) ∧
    (let s := farS 160 req1 (fun d => { d with taken := (List.range 192).map (fun ch => (ch, 160)) })
     s.farLive 1 = true ∧ (s.far 1).pick s.now s.hub.partKey req1 = none) ∧
    (farS 80 req1 id).now < req1.eligible ∧ (farS 80 { req1 with who := .access 5 } id).reqWanted { req1 with who := .access 5 } = false ∧
    (let s := farS 1280 (sent1 false) id
     (s.far 1).reqs.find? (fun x => x.id == 8) = some (sent1 false) ∧ (sent1 false).slot = some (1, 160) ∧ (sent1 false).answered = false ∧
       160 + 80 * 14 ≤ s.now ∧ s.now % 80 = 0 ∧ s.farLive 1 = true ∧ (s.far 1).answerOn s.now 1 160 (sent1 false) = some 1) ∧
    (let s := farS 1280 (sent1 true) (fun d => { d with down := [193] })
     s.farLive 1 = true ∧ (s.far 1).answerOn s.now 1 160 (sent1 true) = none) ∧
    (sent1 false).key.toNat ∈ ({ farS 1280 (sent1 false) id with hub := { keyValid := true, revoked := [0] } } : State).hub.revoked ∧
    (farS 739 req1 id).now < req1.eligible + 640 ∧ req1.eligible + 640 ≤ (farS 740 req1 id).now ∧
    req1.eligible + 5000000 ≤ (farS 5000100 req1 id).now ∧ 160 + 80 * (sent1 false).back + 640 ≤ (farS 1920 (sent1 false) id).now :=
  ⟨by decide +kernel, by decide +kernel, by decide +kernel, by decide, by decide, by decide +kernel, by decide +kernel, by decide, by decide, by decide, by decide⟩

open Tests in
/-- An access whose request has found no slot for 2 ms, and one of a package without a key. -/
theorem witness_FarRequests_fault :
    let s := farS 200 { req1 with stalled := true } id
    let u := (farS 200 req1 id).modHub (fun h => { h with keyValid := false })
    (s.mayPerform 0 4 = some acc4 ∧ s.mirrored 0 = false ∧ s.frozenPark 0 acc4 = false ∧ acc4.skip = none ∧
      s.walkOpen (s.accessSpace 0 acc4 0) acc4.abs (accessBytes acc4.ins acc4.data) = true ∧ s.accessPlaces 0 acc4 0 = .ok [0x200000001100] ∧
      isFar 0x200000001100 = true ∧ misplaced 0 acc4.ins 0x200000001100 = false ∧ accessKind acc4.ins ≠ .atomic ∧ s.paeTurn 0 acc4 0x200000001100 = true ∧
      s.farReq 0 (.access acc4.id) 0x200000001100 = some { req1 with stalled := true } ∧ s.hub.keyValid = true) ∧
    (u.mayPerform 0 4 = some acc4 ∧ u.mirrored 0 = false ∧ u.frozenPark 0 acc4 = false ∧
      u.walkOpen (u.accessSpace 0 acc4 0) acc4.abs (accessBytes acc4.ins acc4.data) = true ∧ u.accessPlaces 0 acc4 0 = .ok [0x200000001100] ∧
      u.paeTurn 0 acc4 0x200000001100 = true ∧ u.farReq 0 (.access acc4.id) 0x200000001100 = some req1 ∧ u.hub.keyValid = false) := by decide +kernel

/-- A far die at a time. -/
abbrev Tests.dieS (now : Nat) (d : Far) : State := { State.reset with now := now, fars := [(1, d)] }

open Tests in
/-- A table that switches in, one read in the same cycle; a peer request in its slot, in a slot of another use, in one that is owed, in one that is taken; a
response owed that goes, one whose channel is down and one whose slot is taken; a calibration in an idle slot, one too soon; a rollover by flits of each
direction, one that is not due; a slot that retires, one whose flits are held, one that is written. -/
theorem witness_FarTablesChannelsAndKeys :
    (let s := dieS 640 { nextOut := some [(0, 0xC0000)], readyOut := 3, nextInn := some [], readyInn := 640 }
     s.now % 640 = 0 ∧ (s.far 1).nextOut = some [(0, 0xC0000)] ∧ (s.far 1).readyOut < s.now ∧ (s.far 1).nextInn = some [] ∧
       (s.far 1).out = [] ∧ (s.far 0).nextOut = none) ∧
    (let s := dieS 640 { nextInn := some [(0, 0xC0000)], readyInn := 3 }
     (s.far 1).nextInn = some [(0, 0xC0000)] ∧ (s.far 1).readyInn < s.now) ∧
    (let s := dieS 160 { inn := [(386, 0x40007)] }
     2 < 192 ∧ s.now % 80 = 0 ∧ s.farLive 1 = true ∧ (s.far 1).innUse s.now 2 = 1 ∧ (s.far 1).owed s.now 2 = false ∧ (2, s.now) ∉ (s.far 1).takenIn ∧
       (((s.far 1).inn.get 0 ((s.far 1).innIndex s.now 2)).setWidth 16).toNat = 7 ∧ 7 ∉ s.hub.revoked ∧ (s.far 1).outAt % 80 = 0 ∧ (s.far 1).outAt ≤ s.now ∧
       (s.far 1).innUse s.now 3 ≠ 1) ∧
    (let s := dieS 160 { inn := [(386, 0x40007)], takenIn := [(2, 160)] }
     (2, s.now) ∈ (s.far 1).takenIn) ∧
    ((dieS 1280 { reqs := [{ sent1 true with slot := some (2, 160) }] }).far 1).owed 1280 2 = true ∧
    (let d : Far := { owes := [{ ch := 2, due := 160 }] }
     d.owes.find? (fun x => x.ch == 2 && decide (x.due ≤ 240)) = some { ch := 2, due := 160 } ∧ 240 % 80 = 0 ∧ 2 ∉ d.down ∧ (2, 240) ∉ d.taken ∧
       2 ∈ { d with down := [2] }.down ∧ (2, 240) ∈ { d with taken := [(2, 240)] }.taken) ∧
    (let s := dieS (2 ^ 25) { out := [(771, 0xC0000)] }
     3 < 384 ∧ (s.far 1).calAt.get 0 3 + 2 ^ 25 ≤ s.now ∧ (∃ n, (s.far 1).calSlot s.now 3 = some n) ∧
       (dieS (2 ^ 25 - 1) {}).now < (s.far 1).calAt.get 0 3 + 2 ^ 25) ∧
    ((dieS 9 { flits := 2 ^ 40 }).far 1).flits = 2 ^ 40 ∧ ((dieS 9 { flits := 2 ^ 40 }).far 1).roll = false ∧
    (2 ^ 40 ≤ ((dieS 9 { flitsIn := 2 ^ 40 }).far 1).flitsIn) ∧ ((dieS 9 {}).far 1).flits < 2 ^ 40 ∧ ((dieS 9 {}).far 1).flitsIn < 2 ^ 40 ∧
    (let s := dieS 9 { retiring := true, roll := true }
     (s.far 1).retiring = true ∧ (s.far 1).oldFlits s.now = 0 ∧ s.wrote 0x411 1 = false ∧ (s.touch 0x411 1 64).wrote 0x411 1 = true) ∧
    ((dieS 9 { retiring := true, roll := true, holds := [{ until_ := 10, old := true }] }).far 1).oldFlits 9 ≠ 0 :=
  ⟨by decide, by decide, by decide +kernel, by decide, by decide +kernel, by decide, ⟨by decide, by decide, ⟨_, rfl⟩, by decide⟩, by decide, by decide, by decide,
    by decide, by decide, by decide, by decide⟩

open Tests in
/-- A byte that the host sees and one it does not; a sector with an error, one without; a sample; an island that may skip; a cluster with
a task and one without; nonces of 32 bytes and of 31. -/
theorem witness_HostAndUpkeep :
    (let s := { State.reset with hub := { hbmBase := 1, hbmSize := 1 } }
     s.memOk ∧ s.hostVisible 0x40000000 = true ∧ 0x40000000 < 2 ^ 40 ∧ s.hostVisible 0x3FFFFFFF = false) ∧
    (let s := { State.reset with ecc := [2] }
     0x47 / 32 ∈ s.ecc ∧ 0x60 / 32 ∉ s.ecc) ∧
    State.reset.now % 2 ^ 20 = 0 ∧ (State.reset.cluster 5).tick ≠ some State.reset.now ∧ (two.cluster 0).task.isSome = true ∧
    (two.cluster 1).task = none ∧ (List.replicate 32 (0 : Byte)).length = 32 ∧ (List.replicate 31 (0 : Byte)).length ≠ 32 := by decide
end

section
/-!
SYSTEM REGISTERS (R202, R203, R399): what a ready sysrd or syswr commits, what a task register reads as after a write, and what a
write leaves as it is.
-/

namespace Sys2Proof.Machine

open Sys2Proof

/-! ## Firings that a closed module holds back (R399) -/

/-- A firing whose way is open is carried out; one whose way is closed waits. -/
theorem heldBack_fire (x : Fire) (isOpen : Bool) : Plan.heldBack (.fire x) isOpen = if isOpen then .fire x else .wait := rfl

/-- A node whose plan is to wait changes nothing. -/
theorem fireNode_wait {plan : State → Plan} {s : State} (hp : plan s = .wait) : fireNode plan s = .next s := by
  simp [fireNode, hp, State.carryOut]

/-- A node whose firing is held back waits. -/
theorem fireNode_heldBack_closed {plan : State → Plan} {s : State} {x : Fire} {isOpen : Bool}
    (hp : plan s = Plan.heldBack (.fire x) isOpen) (ho : isOpen = false) : fireNode plan s = .next s :=
  fireNode_wait (by rw [hp, heldBack_fire, ho]; rfl)

/-- A ready node whose way is open commits its firing, which names no target but the node's own. -/
theorem fireNode_heldBack_open {pm : Pm} {uL uR uP : Bool} {ts : List Target} {h : Heads} {plan : State → Plan} {s : State}
    {x : Fire} {isOpen : Bool} (hr : Ready pm uL uR uP ts h s) (hp : plan s = Plan.heldBack (.fire x) isOpen) (ho : isOpen = true)
    (h1 : ∀ o ∈ x.outs, o.1 ∈ ts) (h2 : ∀ t ∈ x.later, t ∈ ts) (h3 : ∀ t ∈ x.needs, t ∈ ts) :
    fireNode plan s = .next (s.commit x) :=
  fireNode_fire hr.live (by rw [hp, heldBack_fire, ho]; rfl) (hr.acceptsAll x h1 h2 h3)

/-- A ready system node with clean operands fires. -/
theorem sysPlan_clean {f : FmtS} {uR : Bool} {ts : List Target} {h : Heads} {s : State} (body : Heads → Fire)
    (hr : Ready f.pm true uR false ts h s) (ho : h.origin = none) :
    sysPlan f uR s body = .fire { body h with pops := h.slots } := by
  simp [sysPlan, routePlan_ready _ hr, ho]

/-- A ready system node with a poisoned operand raises T_POISON with sink kind 7 (R202, R384). -/
theorem sysPlan_poisoned {f : FmtS} {uR : Bool} {ts : List Target} {h : Heads} {s : State} {o : Origin} (body : Heads → Fire)
    (hr : Ready f.pm true uR false ts h s) (ho : h.origin = some o) :
    sysPlan f uR s body = .fire { poisonFire h.slots o 7 with needs := [f.t0, f.t1] } := by
  simp [sysPlan, routePlan_ready _ hr, ho, poisonFire]

/-- Lane 0 as the instructions read it is lane 0 as the statements write it. -/
theorem laneZero_eq_laneOf (t : Option Token) : laneZero t = laneOf t := by
  cases t with
  | none => rfl
  | some x =>
    simp only [laneZero, laneOf, leftElems, elemsOf, Ty.elemBits]
    cases lanesOf .i64 x with
    | nil => rfl
    | cons a l => exact BitVec.eq_of_toNat_eq (by simp)

/-! ## The firings of sysrd and syswr (R203) -/

/-- The firing of a ready sysrd whose register is reached. -/
def sysrdFire (f : FmtS) (h : Heads) (s : State) : Fire :=
  { pops := h.slots
    outs := sysOuts f (packetOr .i64 h.origin [(s.readReg s.sel.1 f.sysno.toNat).toNat])
    lat := if f.sysno.toNat < 256 then 2 else 20
    post := fun s' _ _ => if f.sysno.toNat < 256 then s' else s'.irrevoke s.sel.1 }

/-- The firing of a ready syswr with clean operands whose register is reached. -/
def syswrFire (f : FmtS) (h : Heads) (s : State) : Fire :=
  { pops := h.slots
    outs := sysOuts f (ctlTok true)
    lat := if f.sysno.toNat < 256 then 2 else 20
    post := privileged (fun s' => s'.writeReg s.sel.1 f.sysno.toNat (laneZero h.l)) }

section
variable {f : FmtS} {h : Heads} {s : State} (hr : Ready f.pm true false false [f.t0, f.t1] h s)
include hr

theorem planSysrd_ready :
    planSysrd f s = Plan.heldBack (.fire (sysrdFire f h s)) (s.regOpen s.sel.1 f.sysno.toNat) := by
  unfold planSysrd
  rw [routePlan_ready _ hr]
  cases ho : h.origin <;> simp [sysrdFire, packetOr, ho]

theorem planSyswr_clean (ho : h.origin = none) :
    planSyswr f s = Plan.heldBack (.fire (syswrFire f h s)) (s.regOpen s.sel.1 f.sysno.toNat) := by
  unfold planSyswr
  rw [sysPlan_clean _ hr ho]
  rfl

theorem planSyswr_poisoned {o : Origin} (ho : h.origin = some o) :
    planSyswr f s = Plan.heldBack (.fire { poisonFire h.slots o 7 with needs := [f.t0, f.t1] })
      (s.regOpen s.sel.1 f.sysno.toNat) := by
  unfold planSyswr
  rw [sysPlan_poisoned _ hr ho]

theorem exec_sysrd_closed (hc : s.regOpen s.sel.1 f.sysno.toNat = false) : exec (.sysrd f) s = .next s :=
  fireNode_heldBack_closed (planSysrd_ready hr) hc

theorem exec_syswr_closed (hc : s.regOpen s.sel.1 f.sysno.toNat = false) : exec (.syswr f) s = .next s := by
  cases ho : h.origin with
  | none => exact fireNode_heldBack_closed (planSyswr_clean hr ho) hc
  | some o => exact fireNode_heldBack_closed (planSyswr_poisoned hr ho) hc

theorem exec_sysrd_open (hc : s.regOpen s.sel.1 f.sysno.toNat = true) :
    exec (.sysrd f) s = .next (s.commit (sysrdFire f h s)) :=
  fireNode_heldBack_open hr (planSysrd_ready hr) hc (by simp [sysrdFire, sysOuts]) (by simp [sysrdFire]) (by simp [sysrdFire])

theorem exec_syswr_clean (hc : s.regOpen s.sel.1 f.sysno.toNat = true) (ho : h.origin = none) :
    exec (.syswr f) s = .next (s.commit (syswrFire f h s)) :=
  fireNode_heldBack_open hr (planSyswr_clean hr ho) hc (by simp [syswrFire, sysOuts]) (by simp [syswrFire]) (by simp [syswrFire])

theorem exec_syswr_poisoned {o : Origin} (hc : s.regOpen s.sel.1 f.sysno.toNat = true) (ho : h.origin = some o) :
    exec (.syswr f) s = .next ((s.commit { pops := h.slots }).raisePoison o 7) :=
  fireNode_heldBack_open hr (planSyswr_poisoned hr ho) hc (by simp [poisonFire]) (by simp [poisonFire]) (by simp)
end

/-- A read of a package register is irrevocable (R387), one of a task register is not. -/
theorem commit_sysrdFire (f : FmtS) (h : Heads) (s : State) : s.commit (sysrdFire f h s) =
    let u := s.commit { pops := h.slots, outs := sysOuts f (packetOr .i64 h.origin [(s.readReg s.sel.1 f.sysno.toNat).toNat])
                        lat := if f.sysno.toNat < 256 then 2 else 20 }
    if f.sysno.toNat < 256 then u else u.irrevoke s.sel.1 := rfl

/-- The write of a syswr comes after its completion stands in the targets. -/
theorem commit_syswrFire (f : FmtS) (h : Heads) (s : State) : s.commit (syswrFire f h s) =
    ((s.commit { pops := h.slots, outs := sysOuts f (ctlTok true)
                 lat := if f.sysno.toNat < 256 then 2 else 20 }).irrevoke s.sel.1).writeReg s.sel.1 f.sysno.toNat (laneOf h.l) := by
  rw [← laneZero_eq_laneOf]
  rfl

/-! ## Fields cut out of a word -/

/-- Bits h to l of a word, put back at their place, are the word under their mask. -/
theorem ofNat_bitsOf_eq_and_mask (v : Word) (h l : Nat) :
    BitVec.ofNat 64 (bitsOf v h l * 2 ^ l) = v &&& BitVec.ofNat 64 ((2 ^ (h + 1 - l) - 1) * 2 ^ l) := by
  refine BitVec.eq_of_getLsbD_eq fun i hi => ?_
  rw [BitVec.getLsbD_and, BitVec.getLsbD_ofNat, BitVec.getLsbD_ofNat, Nat.testBit_mul_two_pow, Nat.testBit_mul_two_pow]
  by_cases hl : l ≤ i
  · simp [bitsOf, Nat.testBit_mod_two_pow, Nat.testBit_div_two_pow, BitVec.getLsbD, hl, hi, Bool.and_comm]
  · simp [hl]

/-- Bits h to 0 of a word are the word under their mask. -/
theorem ofNat_bitsOf_zero_eq_and_mask (v : Word) (h : Nat) :
    BitVec.ofNat 64 (bitsOf v h 0) = v &&& BitVec.ofNat 64 (2 ^ (h + 1) - 1) := by
  simpa only [Nat.pow_zero, Nat.mul_one, Nat.sub_zero] using ofNat_bitsOf_eq_and_mask v h 0

/-- The two fields of LINK_SEL are the word under the mask of both (R396). -/
theorem fields_linkSel (v : Word) : fields [(bitsOf v 6 0, 0), (bitsOf v 9 8, 8)] = v &&& 0x37F := by
  have hmod : BitVec.ofNat 64 (bitsOf v 6 0) = v &&& 0x7F := ofNat_bitsOf_zero_eq_and_mask v 6
  have hdie : BitVec.ofNat 64 (bitsOf v 9 8 * 2 ^ 8) = v &&& 0x300 := ofNat_bitsOf_eq_and_mask v 9 8
  have hdisj : (v &&& 0x7F) &&& (v &&& 0x300) = 0 := by
    rw [show (v &&& 0x7F) &&& (v &&& 0x300) = v &&& (0x7F &&& 0x300) by ac_rfl]
    exact BitVec.and_zero
  calc fields [(bitsOf v 6 0, 0), (bitsOf v 9 8, 8)]
      = BitVec.ofNat 64 (bitsOf v 6 0) + BitVec.ofNat 64 (bitsOf v 9 8 * 2 ^ 8) := by simp [fields, BitVec.ofNat_add]
    _ = (v &&& 0x7F) ||| (v &&& 0x300) := by rw [hmod, hdie, BitVec.add_eq_or_of_and_eq_zero _ _ hdisj]
    _ = v &&& 0x37F := BitVec.and_or_distrib_left.symm

/-! ## Writes of task registers (R203, R228, R307, R396) -/

/-- A task register reads out of the task that holds the region. -/
theorem readReg_task (s : State) (c : Nat) {n : Nat} (h : n < 256) : s.readReg c n = (s.taskOf c).sysreg n := if_pos h

/-- The unassigned task registers from 0x36 up read zero (R203). -/
theorem sysreg_unassigned (t : Task) {n : Nat} (h : 0x36 ≤ n) : t.sysreg n = 0 := by
  unfold Task.sysreg
  rw [if_neg (by omega)]
  split <;> simp_all

/-- A write of a task register that takes none leaves the task as it is. -/
theorem writeReg_task_readOnly (t : Task) {n : Nat} (v : Word) (clear : Bool → Nat → Bool) (h : n ∉ [1, 2, 3, 4, 0x35]) :
    t.writeReg n v clear = t := by
  unfold Task.writeReg
  split <;> simp_all

theorem modTaskOf_some {s : State} {c t : Nat} (h : (s.cluster c).task = some t) (g : Task → Task) :
    s.modTaskOf c g = s.modTask t g := by
  simp [State.modTaskOf, h]

theorem taskOf_modTaskOf {s : State} {c : Nat} (h : (s.cluster c).task.isSome = true) (g : Task → Task) :
    (s.modTaskOf c g).taskOf c = g (s.taskOf c) := by
  obtain ⟨t, ht⟩ := Option.isSome_iff_exists.mp h
  have hid : s.taskIdOf c = t := by simp [State.taskIdOf, ht]
  rw [modTaskOf_some ht, State.taskOf, State.taskOf, show (s.modTask t g).taskIdOf c = t from hid, hid, task_modTask]

@[simp] theorem taskOf_modRegion (s : State) (d c : Nat) (f : Region → Region) : (s.modRegion d f).taskOf c = s.taskOf c := by
  have hk : ((s.modRegion d f).cluster c).task = (s.cluster c).task := by
    by_cases h : d = c
    · subst h; simp [State.modRegion, State.setRegion]
    · simp [State.modRegion, State.setRegion, cluster_modCluster_ne _ _ _ _ h]
  simp [State.taskOf, State.taskIdOf, State.task, hk]

@[simp] theorem taskOf_touch (s : State) (n o k c : Nat) : (s.touch n o k).taskOf c = s.taskOf c := by
  simp [State.taskOf, State.taskIdOf, State.task, State.cluster]

/-- A change that does not alter the task of a region alters no task. -/
theorem task_modTaskOf_fixed {s : State} {c : Nat} {g : Task → Task} (hg : ∀ t, g t = t) (k : Nat) :
    (s.modTaskOf c g).task k = s.task k := by
  unfold State.modTaskOf
  split
  next t _ =>
    by_cases hk : t = k
    · rw [← hk, task_modTask, hg]
    · exact task_setTask_ne _ _ _ _ hk
  · rfl

/-- A write of a task register writes it in the task that holds the region (R203). -/
theorem taskOf_writeReg {s : State} {c n : Nat} (hc : (s.cluster c).task.isSome = true) (hn : n < 256) (v : Word) :
    (s.writeReg c n v).taskOf c = (s.taskOf c).writeReg n v (fun old k => s.w1c n c old v k) := by
  unfold State.writeReg
  rw [if_pos hn]
  dsimp only
  split <;> simp [taskOf_modTaskOf hc]

/-- R8: a flag stays set after a write unless the write clears it and this cycle has not set it. -/
theorem w1c_eq (s : State) (n o : Nat) (old : Bool) (v : Word) (k : Nat) :
    s.w1c n o old v k = (old && ((n, o, k) ∈ s.touched || !v.getLsbD k)) := by
  simp [State.w1c]

/-- What a task register reads as after a write of the same number. -/
theorem readReg_writeReg {s : State} {c n : Nat} (hc : (s.cluster c).task.isSome = true) (hn : n < 256) (v : Word) :
    (s.writeReg c n v).readReg c n = ((s.taskOf c).writeReg n v (fun old k => s.w1c n c old v k)).sysreg n := by
  rw [readReg_task _ _ hn, taskOf_writeReg hc hn]

/-- What a register reads as comes from the tasks, clusters, hub, ring, modules, far dies and clock alone. -/
theorem readReg_congr {s u : State} (htask : u.task = s.task) (hclus : u.clusters = s.clusters) (hhub : u.hub = s.hub)
    (hring : u.ring = s.ring) (hlinks : u.links = s.links) (hfars : u.fars = s.fars) (hnow : u.now = s.now) (c n : Nat) :
    u.readReg c n = s.readReg c n := by
  have hof : u.taskOf c = s.taskOf c := by unfold State.taskOf State.taskIdOf State.cluster; rw [hclus, htask]
  have hlink : u.link = s.link := by unfold State.link; rw [hlinks]
  have hfar : u.far = s.far := by unfold State.far; rw [hfars]
  have hjob : u.job = s.job := by unfold State.job; rw [hhub]
  have hvote : u.vote = s.vote := by unfold State.vote State.region State.cluster; rw [hclus, htask]
  have hseam : u.seam = s.seam := by unfold State.seam State.seamUnits; rw [hlink]
  have hpkg : u.packageReg c n = s.packageReg c n := by
    unfold State.packageReg
    rw [hof, hlink, hfar, hjob, hvote, hseam, hhub, hring, hnow]
  rw [State.readReg, State.readReg, hof, hpkg]

/-- After a write of a read-only or unassigned task register every register reads as before (R203). -/
theorem readReg_writeReg_readOnly (s : State) (c : Nat) {n : Nat} (v : Word) (hn : n < 256) (hro : n ∉ [1, 2, 3, 4, 0x35]) (m : Nat) :
    (s.writeReg c n v).readReg c m = s.readReg c m := by
  have hne : n ≠ 3 := fun e => hro (by simp [e])
  have hw : s.writeReg c n v =
      (s.modTaskOf c (fun t => t.writeReg n v (fun old k => s.w1c n c old v k))).touch n c 64 := by
    rw [State.writeReg, if_pos hn, if_neg hne]
  have htask : (s.writeReg c n v).task = s.task := by
    funext k
    rw [hw, State.task, touch_tasks]
    exact task_modTaskOf_fixed (fun t => writeReg_task_readOnly t v _ hro) k
  exact readReg_congr htask (by simp [hw]) (by simp [hw]) (by simp [hw]) (by simp [hw]) (by simp [hw]) (by simp [hw]) c m

/-! ## Writes of package registers (R203, R326, R356) -/

/-- MIG_STACK0 keeps an address of 8-byte words (R356). -/
theorem readReg_writeReg_migStack0 (s : State) (c : Nat) (v : Word) :
    (s.writeReg c 0x220 v).readReg c 0x220 = v &&& 0xFFFFFFFFFFF8 :=
  ofNat_bitsOf_eq_and_mask v 47 3

/-- SCHED_PWAIT keeps the low half of the word (R326). -/
theorem readReg_writeReg_pwait (s : State) (c : Nat) (v : Word) :
    (s.writeReg c 0x102 v).readReg c 0x102 = v &&& 0xFFFFFFFF :=
  ofNat_bitsOf_zero_eq_and_mask v 31

/-- Settles O36: a firing that is reached commits what its plan gives, a closed way makes it wait; a read after a write goes through
the task that holds the region, or through the hub. -/
theorem systemRegisters : Obligations.SystemRegisters := by
  refine ⟨fun f h s hr => ⟨fun hc => ⟨exec_sysrd_closed hr hc, exec_syswr_closed hr hc⟩, fun hc => ?_, fun hc ho => ?_,
    fun o hc ho => exec_syswr_poisoned hr hc ho⟩, fun s c v hc => ⟨?_, ?_, ?_, ?_, ⟨?_, ?_, ?_, ?_⟩, ?_, ?_, ?_, ?_⟩⟩
  · rw [exec_sysrd_open hr hc, commit_sysrdFire]; rfl
  · rw [exec_syswr_clean hr hc ho, commit_syswrFire]; rfl
  · exact readReg_writeReg hc (by decide) v
  · exact readReg_writeReg hc (by decide) v
  · exact (readReg_writeReg hc (by decide) v).trans (ofNat_bitsOf_zero_eq_and_mask v 31)
  · exact (readReg_writeReg hc (by decide) v).trans (fields_linkSel v)
  · rw [taskOf_writeReg hc (by decide)]; rfl
  · rw [taskOf_writeReg hc (by decide)]; exact w1c_eq ..
  · rw [taskOf_writeReg hc (by decide)]; exact w1c_eq ..
  · rw [taskOf_writeReg hc (by decide)]; exact w1c_eq ..
  · exact fun n m hn hro => readReg_writeReg_readOnly s c v hn hro m
  · exact fun n h1 h2 => (readReg_task s c h2).trans (sysreg_unassigned _ h1)
  · exact readReg_writeReg_migStack0 s c v
  · exact readReg_writeReg_pwait s c v

end Sys2Proof.Machine
end

section
/-!
STEPS (log entries 1 and 53): what a step does by the head of the agenda, and that nothing but a word that does not decode stops it.
-/

namespace Sys2Proof.Machine

open Sys2Proof

/-! ## No meaning stops (log entry 53) -/

/-- Every instruction and every event leads to a next state: a node's firing by its plan, an event by its own guards. -/
theorem exec_next (i : Instr) (s : State) : ∃ t : State, exec i s = .next t := by
  cases i with
  | mmaComplete c cell =>
    show ∃ t, execMmaComplete c cell s = .next t
    unfold execMmaComplete
    split <;> exact ⟨_, rfl⟩
  | shadowLoaded c cell =>
    show ∃ t, execShadowLoaded c cell s = .next t
    unfold execShadowLoaded
    split <;> exact ⟨_, rfl⟩
  | mdrainComplete c k =>
    show ∃ t, execMdrainComplete c k s = .next t
    unfold execMdrainComplete
    split
    next => exact ⟨_, rfl⟩
    next o _ =>
      generalize (if o.wrote then s else s.drainStore c k o) = u
      dsimp only
      repeat' split
      all_goals exact ⟨_, rfl⟩
  | memoryAccessPerform c k age =>
    show ∃ t, execMemoryAccessPerform c k age s = .next t
    unfold execMemoryAccessPerform
    repeat' split
    all_goals exact ⟨_, rfl⟩
  | parkRetry c k =>
    show ∃ t, execParkRetry c k s = .next t
    unfold execParkRetry
    repeat' split
    all_goals exact ⟨_, rfl⟩
  | tableWalk c k =>
    show ∃ t, execTableWalk c k s = .next t
    unfold execTableWalk
    split <;> exact ⟨_, rfl⟩
  | teardownInjection c =>
    show ∃ t, execTeardownInjection c s = .next t
    unfold execTeardownInjection
    dsimp only
    repeat' split
    all_goals exact ⟨_, rfl⟩
  | shadowUsable c =>
    show ∃ t, execShadowUsable c s = .next t
    unfold execShadowUsable
    repeat' split
    all_goals exact ⟨_, rfl⟩
  | blockStart c =>
    show ∃ t, execBlockStart c s = .next t
    unfold execBlockStart
    dsimp only
    repeat' split
    all_goals exact ⟨_, rfl⟩
  | awaitRead c e =>
    show ∃ t, execAwaitRead c e s = .next t
    unfold execAwaitRead
    dsimp only
    repeat' split
    all_goals exact ⟨_, rfl⟩
  | _ => exact ⟨_, rfl⟩

theorem exec_ne_fault (i : Instr) (s : State) (f : Fault) : exec i s ≠ .fault f := by
  obtain ⟨t, h⟩ := exec_next i s
  simp [h]

/-! ## A step, by the head of the agenda (log entry 1) -/

section
variable {s : State} {rest : List Move}

theorem step_empty (h : s.agenda = []) : step s = .next s.tick := by simp only [step, h]

theorem step_node_decoded {c i : Nat} {w : Word} {x : Instr} (h : s.agenda = .node c i :: rest) (hf : s.fetch c i = some w)
    (hd : decode w = .ok x) : step s = exec x { s with agenda := rest, sel := (c, i) } := by
  simp only [step, h, hf, hd]

theorem step_node_undecodable {c i : Nat} {w : Word} {e : Reject} (h : s.agenda = .node c i :: rest) (hf : s.fetch c i = some w)
    (hd : decode w = .error e) : step s = .fault .undecodable := by
  simp only [step, h, hf, hd]

theorem step_node_absent {c i : Nat} (h : s.agenda = .node c i :: rest) (hf : s.fetch c i = none) :
    step s = .next { s with agenda := rest } := by
  simp only [step, h, hf]

theorem step_event_known {e : Instr} (h : s.agenda = .event e :: rest) (hk : e.opcode = 0 ∧ e.wellFormed = true) :
    step s = exec e { s with agenda := rest } := by
  simp only [step, h, if_pos hk]

theorem step_event_unknown {e : Instr} (h : s.agenda = .event e :: rest) (hk : ¬(e.opcode = 0 ∧ e.wellFormed = true)) :
    step s = .next { s with agenda := rest } := by
  simp only [step, h, if_neg hk]

end

/-- A step stops only at a slot whose word does not decode. -/
theorem step_fault_iff (s : State) (f : Fault) : step s = .fault f ↔ f = .undecodable ∧
    ∃ c i rest w e, s.agenda = .node c i :: rest ∧ s.fetch c i = some w ∧ decode w = .error e := by
  constructor
  · intro h
    cases ha : s.agenda with
    | nil => rw [step_empty ha] at h; cases h
    | cons m rest =>
      cases m with
      | node c i =>
        cases hf : s.fetch c i with
        | none => rw [step_node_absent ha hf] at h; cases h
        | some w =>
          cases hd : decode w with
          | ok x => rw [step_node_decoded ha hf hd] at h; exact (exec_ne_fault _ _ _ h).elim
          | error e =>
            rw [step_node_undecodable ha hf hd] at h
            cases h
            exact ⟨rfl, c, i, rest, w, e, rfl, hf, hd⟩
      | event e =>
        by_cases hk : e.opcode = 0 ∧ e.wellFormed = true
        · rw [step_event_known ha hk] at h; exact (exec_ne_fault _ _ _ h).elim
        · rw [step_event_unknown ha hk] at h; cases h
  · rintro ⟨rfl, c, i, rest, w, e, ha, hf, hd⟩
    exact step_node_undecodable ha hf hd

/-- The end of a stage begins the next one, or the next cycle, and changes nothing that the package holds. -/
theorem tick_stage (s : State) : s.tick.stage = (if s.stage < lastStage then s.stage + 1 else 0) ∧
    s.tick.now = (if s.stage < lastStage then s.now else s.now + 1) ∧ s.tick.mem = s.mem ∧ s.tick.clusters = s.clusters ∧
    s.tick.tasks = s.tasks := by
  unfold State.tick
  dsimp only
  split <;> exact ⟨rfl, rfl, rfl, rfl, rfl⟩

/-- Settles O3: by the head of the agenda; that nothing else stops rests on every meaning leading to a next state. -/
theorem stepRunsDecoded : Obligations.StepRunsDecoded :=
  ⟨fun _ _ _ _ _ _ ha hf hd => step_node_decoded ha hf hd, fun _ _ _ _ ha hf => step_node_absent ha hf,
    fun _ _ _ ha ho hw => step_event_known ha ⟨ho, hw⟩, fun _ _ _ ha hk => step_event_unknown ha hk,
    fun s ha => ⟨s.tick, step_empty ha, tick_stage s⟩, exec_next, step_fault_iff⟩

end Sys2Proof.Machine
end

section
/-!
TOKENS IN PLACE (R22 to R25): what stands at a target, what a delivery and a removal do to it, and what neither changes.
-/

namespace Sys2Proof.Machine

open Sys2Proof

/-! ## Nodes that differ in their queues alone -/

/-- Two nodes differ in their operand queues at most. -/
def Node.sameBut (n n' : Node) : Prop := n' = { n with l := n'.l, r := n'.r, p := n'.p }

theorem Node.sameBut.trans {n n' n'' : Node} (h : n.sameBut n') (k : n'.sameBut n'') : n.sameBut n'' := by
  unfold Node.sameBut at *
  rw [k, h]

theorem sameBut_setQueue (n : Node) (k : Nat) (q : Queue) : n.sameBut (n.setQueue k q) := by
  unfold Node.setQueue
  split <;> rfl

/-- The nodes of two regions differ in their operand queues at most. -/
def Region.sameNodes (r r' : Region) : Prop := ∀ j, (r.node j).sameBut (r'.node j)

theorem Region.sameNodes.refl (r : Region) : r.sameNodes r := fun _ => rfl

theorem Region.sameNodes.trans {r r' r'' : Region} (h : r.sameNodes r') (k : r'.sameNodes r'') : r.sameNodes r'' :=
  fun j => (h j).trans (k j)

theorem sameNodes_foldl {α : Type} (g : Region → α → Region) (hg : ∀ (r : Region) (x : α), r.sameNodes (g r x)) (l : List α)
    (r : Region) : r.sameNodes (l.foldl g r) := by
  induction l generalizing r with
  | nil => exact .refl r
  | cons x l ih => exact (hg r x).trans (ih (g r x))

theorem sameNodes_setQueue (r : Region) (i k : Nat) (q : Queue) : r.sameNodes (r.setNode i ((r.node i).setQueue k q)) := by
  intro j
  by_cases h : i = j
  · subst h; rw [node_setNode]; exact sameBut_setQueue ..
  · rw [node_setNode_ne _ _ _ _ h]; rfl

theorem sameNodes_put (r : Region) (now : Nat) (tg : Target) (t : QTok) : r.sameNodes (r.put now tg t) := by
  cases tg with
  | left n => exact sameNodes_setQueue _ _ _ _
  | right n => exact sameNodes_setQueue _ _ _ _
  | pred n => exact sameNodes_setQueue _ _ _ _
  | _ => exact .refl r

/-- Removing a head is a change of one queue, and of the pool. -/
theorem pop_eq (r : Region) (now i k : Nat) : ∃ ret, r.pop now i k =
    { r.setNode i ((r.node i).setQueue k (((r.node i).queue k).take now)) with returning := ret } := by
  unfold Region.pop
  dsimp only
  split <;> split <;> exact ⟨_, rfl⟩

theorem sameNodes_pop (r : Region) (now i k : Nat) : r.sameNodes (r.pop now i k) := by
  obtain ⟨ret, e⟩ := pop_eq r now i k
  rw [e]
  exact sameNodes_setQueue _ _ _ _

/-! ## What stands at a place -/

/-- A place where tokens stand: a queue of a node, a write entry, the gate of a read entry. -/
inductive Holder where
  | slot (i k : Nat)
  | write (e : Nat)
  | gate (e : Nat)
deriving DecidableEq

/-- The place a target names. -/
def holderOf : Target → Option Holder
  | .none => none
  | .left n => some (.slot n.toNat 0)
  | .right n => some (.slot n.toNat 1)
  | .pred n => some (.slot n.toNat 2)
  | .write e => some (.write e.toNat)
  | .gate e => some (.gate e.toNat)

/-- The tokens at a place. A node has the slots 0 to 2. -/
def Region.heldAt (r : Region) : Holder → List QTok
  | .slot i k => if k < 3 then ((r.node i).queue k).toks else []
  | .write e => (r.writes.get {} e).toks
  | .gate e => (r.reads.get {} e).gate

/-- Of a token in its place: what it is, when it is available, and whose result it waits for. -/
def QTok.seen (q : QTok) : Token × Nat × Option Nat := (q.tok, q.at_, q.pend)

def Region.seenAt (r : Region) (p : Holder) : List (Token × Nat × Option Nat) := (r.heldAt p).map QTok.seen

theorem seenAt_slot (r : Region) (i : Nat) {k : Nat} (hk : k < 3) :
    r.seenAt (.slot i k) = ((r.node i).queue k).toks.map QTok.seen := by
  simp [Region.seenAt, Region.heldAt, hk]

/-- `Region.gets` speaks of the tokens at the place of its target. -/
theorem gets_iff (r : Region) (tg : Target) (tok : Token) (at_ : Nat) :
    r.gets tg tok at_ ↔ ∀ p, holderOf tg = some p → (tok, at_, none) ∈ r.seenAt p := by
  cases tg <;> simp [Region.gets, holderOf, Region.seenAt, Region.heldAt, QTok.seen, Node.queue]

/-- Regions with the same nodes and entries hold the same tokens. -/
theorem seenAt_congr {r r' : Region} (hn : ∀ j, r'.node j = r.node j) (hw : r'.writes = r.writes) (hr : r'.reads = r.reads)
    (p : Holder) : r'.seenAt p = r.seenAt p := by
  cases p <;> simp only [Region.seenAt, Region.heldAt, hn, hw, hr]

/-- A change of one queue is seen at its slot alone. -/
theorem seenAt_setQueue (r : Region) (i : Nat) {k : Nat} (hk : k < 3) (q : Queue) (p : Holder) :
    (r.setNode i ((r.node i).setQueue k q)).seenAt p = if p = .slot i k then q.toks.map QTok.seen else r.seenAt p := by
  cases p with
  | slot j m =>
    by_cases hm : m < 3
    · rw [seenAt_slot _ _ hm, seenAt_slot _ _ hm]
      by_cases hj : i = j
      · subst hj
        rw [node_setNode]
        by_cases hkm : k = m
        · subst hkm; simp
        · rw [queue_setQueue_ne _ _ _ _ hk hm hkm, if_neg (by simp [Ne.symm hkm])]
      · rw [node_setNode_ne _ _ _ _ hj, if_neg (by simp [Ne.symm hj])]
    · have hne : Holder.slot j m ≠ .slot i k := by
        intro e
        injection e
        omega
      simp [Region.seenAt, Region.heldAt, hm, hne]
  | write e => rfl
  | gate e => rfl

/-- A change of a node that leaves its queues is not seen. -/
theorem seenAt_setNode (r : Region) (i : Nat) (n : Node) (h : n.queue = (r.node i).queue) (p : Holder) :
    (r.setNode i n).seenAt p = r.seenAt p := by
  cases p with
  | slot j m =>
    by_cases hj : i = j
    · subst hj; simp only [Region.seenAt, Region.heldAt, node_setNode, h]
    · simp only [Region.seenAt, Region.heldAt, node_setNode_ne _ _ _ _ hj]
  | write e => rfl
  | gate e => rfl

theorem seenAt_putSlot (r : Region) (now i : Nat) {k : Nat} (hk : k < 3) (t : QTok) (p : Holder) :
    (r.putSlot now i k t).seenAt p = r.seenAt p ++ if p = .slot i k then [t.seen] else [] := by
  rw [Region.putSlot, seenAt_setQueue _ _ hk]
  split
  next h => rw [h, seenAt_slot _ _ hk, Queue.put, List.map_append]; rfl
  next => rw [List.append_nil]

/-- A token put into a target stands behind what stood there, and nowhere else. -/
theorem seenAt_put (r : Region) (now : Nat) (tg : Target) (t : QTok) (p : Holder) :
    (r.put now tg t).seenAt p = r.seenAt p ++ if holderOf tg = some p then [t.seen] else [] := by
  cases tg with
  | none => simp [Region.put, holderOf]
  | left n => simpa [Region.put, holderOf, eq_comm] using seenAt_putSlot r now n.toNat (by decide : 0 < 3) t p
  | right n => simpa [Region.put, holderOf, eq_comm] using seenAt_putSlot r now n.toNat (by decide : 1 < 3) t p
  | pred n => simpa [Region.put, holderOf, eq_comm] using seenAt_putSlot r now n.toNat (by decide : 2 < 3) t p
  | write e =>
    cases p with
    | write e' =>
      by_cases h : e.toNat = e'
      · subst h; simp [Region.put, Region.putWrite, Region.seenAt, Region.heldAt, holderOf]
      · simp [Region.put, Region.putWrite, Region.seenAt, Region.heldAt, holderOf, Tbl.get_set_ne _ _ _ h, h]
    | slot i k => simp [Region.put, Region.putWrite, Region.seenAt, Region.heldAt, holderOf, Region.node]
    | gate e' => simp [Region.put, Region.putWrite, Region.seenAt, Region.heldAt, holderOf]
  | gate e =>
    cases p with
    | gate e' =>
      by_cases h : e.toNat = e'
      · subst h; simp [Region.put, Region.putGate, Region.seenAt, Region.heldAt, holderOf]
      · simp [Region.put, Region.putGate, Region.seenAt, Region.heldAt, holderOf, Tbl.get_set_ne _ _ _ h, h]
    | slot i k => simp [Region.put, Region.putGate, Region.seenAt, Region.heldAt, holderOf, Region.node]
    | write e' => simp [Region.put, Region.putGate, Region.seenAt, Region.heldAt, holderOf]

theorem seenAt_deliver (r : Region) (now cell lat : Nat) (tg : Target) (tok : Token) (b : List Nat) (id : Option Nat) (p : Holder) :
    (r.deliver now cell lat tg tok b id).seenAt p =
      r.seenAt p ++ if holderOf tg = some p then [(tok, arrival now cell lat tg, id)] else [] := seenAt_put ..

/-- The removal of a head takes the first token of its slot. -/
theorem seenAt_pop (r : Region) (now i : Nat) {k : Nat} (hk : k < 3) (p : Holder) :
    (r.pop now i k).seenAt p = if p = .slot i k then (r.seenAt p).tail else r.seenAt p := by
  obtain ⟨ret, e⟩ := pop_eq r now i k
  have hc : (r.pop now i k).seenAt p = (r.setNode i ((r.node i).setQueue k (((r.node i).queue k).take now))).seenAt p :=
    seenAt_congr (fun j => by rw [e]; rfl) (by rw [e]) (by rw [e]) p
  rw [hc, seenAt_setQueue _ _ hk]
  split
  next h =>
    rw [h, seenAt_slot _ _ hk, Queue.take]
    split
    next ht => rw [ht]; rfl
    next ht => rw [ht]; rfl
  next => rfl

/-- The removal of some heads of a node takes the first token of each of their slots. -/
theorem seenAt_pops (now i : Nat) (ks : List Nat) (hn : ks.Nodup) (h3 : ∀ k ∈ ks, k < 3) (r : Region) (p : Holder) :
    (ks.foldl (fun r k => r.pop now i k) r).seenAt p =
      if ∃ k ∈ ks, p = .slot i k then (r.seenAt p).tail else r.seenAt p := by
  induction ks generalizing r with
  | nil => simp
  | cons k ks ih =>
    obtain ⟨hk, hn⟩ := List.nodup_cons.mp hn
    rw [List.foldl_cons, ih hn (fun x hx => h3 x (List.mem_cons_of_mem _ hx)), seenAt_pop _ _ _ (h3 k List.mem_cons_self)]
    by_cases hp : p = .slot i k
    · have hno : ¬∃ x ∈ ks, p = .slot i x := by
        rintro ⟨x, hx, e⟩
        rw [hp] at e
        injection e with _ e
        exact hk (e ▸ hx)
      rw [if_neg hno, if_pos hp, if_pos ⟨k, List.mem_cons_self, hp⟩]
    · simp [hp]

/-- Deliveries to some targets, one after another, put their tokens behind what stands at a place in the order of the list. -/
theorem seenAt_delivers {α : Type} (now cell lat : Nat) (tg : α → Target) (tok : α → Token) (b : List Nat) (id : Option Nat)
    (l : List α) (r : Region) (p : Holder) :
    (l.foldl (fun r x => r.deliver now cell lat (tg x) (tok x) b id) r).seenAt p =
      r.seenAt p ++ (l.filter (fun x => holderOf (tg x) == some p)).map (fun x => (tok x, arrival now cell lat (tg x), id)) := by
  induction l generalizing r with
  | nil => simp
  | cons x l ih =>
    rw [List.foldl_cons, ih, seenAt_deliver]
    by_cases h : holderOf (tg x) = some p <;> simp [h]

/-- A token delivered to some targets stands at each of them. -/
theorem gets_delivers (now cell lat : Nat) (tok : Token) (l : List Target) (r : Region) {tg : Target} (h : tg ∈ l) :
    (l.foldl (fun r x => r.deliver now cell lat x tok [] none) r).gets tg tok (arrival now cell lat tg) := by
  rw [gets_iff]
  intro p hp
  rw [show (l.foldl (fun r x => r.deliver now cell lat x tok [] none) r).seenAt p = _ from
    seenAt_delivers now cell lat id (fun _ => tok) [] none l r p]
  refine List.mem_append_right _ (List.mem_map.mpr ⟨tg, List.mem_filter.mpr ⟨h, by simp [hp]⟩, rfl⟩)

/-- What stands at a target goes on standing there as tokens are delivered. -/
theorem gets_put {r : Region} {now : Nat} {tg u : Target} {t : QTok} {tok : Token} {at_ : Nat} (h : r.gets tg tok at_) :
    (r.put now u t).gets tg tok at_ := by
  rw [gets_iff] at h ⊢
  intro p hp
  rw [seenAt_put]
  exact List.mem_append_left _ (h p hp)

/-- A token that a read entry delivers is there two cycles later (R214). -/
theorem gets_deliverEntry (r : Region) (now : Nat) (tg : Target) (tok : Token) (b : List Nat) :
    (r.deliverEntry now tg tok b).gets tg tok (now + 2) := by
  rw [gets_iff]
  intro p hp
  rw [Region.deliverEntry, seenAt_put, if_pos hp]
  simp [QTok.seen]

end Sys2Proof.Machine
end

section
/-!
READING RULES: what a part of the state reads as after an update of another part.
-/

namespace Sys2Proof.Machine

open Sys2Proof

/-! ## Reading a part of the state after an update of another -/

@[simp] theorem cluster_setRegion (s : State) (c : Nat) (r : Region) :
    (s.setRegion c r).cluster c = { s.cluster c with region := r } := by simp [State.setRegion]

theorem cluster_setRegion_ne (s : State) (c d : Nat) (r : Region) (h : c ≠ d) : (s.setRegion c r).cluster d = s.cluster d :=
  cluster_modCluster_ne _ _ _ _ h

@[simp] theorem cluster_modRegion (s : State) (c : Nat) (f : Region → Region) :
    (s.modRegion c f).cluster c = { s.cluster c with region := f (s.region c) } := cluster_setRegion ..

theorem cluster_modRegion_ne (s : State) (c d : Nat) (f : Region → Region) (h : c ≠ d) :
    (s.modRegion c f).cluster d = s.cluster d := cluster_setRegion_ne _ _ _ _ h

@[simp] theorem cluster_modTaskOf (s : State) (c d : Nat) (g : Task → Task) : (s.modTaskOf c g).cluster d = s.cluster d := by
  simp [State.cluster]

@[simp] theorem region_modTaskOf (s : State) (c d : Nat) (g : Task → Task) : (s.modTaskOf c g).region d = s.region d := by
  simp [State.region]

@[simp] theorem cluster_touch (s : State) (n o k d : Nat) : (s.touch n o k).cluster d = s.cluster d := by simp [State.cluster]

@[simp] theorem region_touch (s : State) (n o k d : Nat) : (s.touch n o k).region d = s.region d := by simp [State.region]

@[simp] theorem task_touch (s : State) (n o k t : Nat) : (s.touch n o k).task t = s.task t := by simp [State.task]

@[simp] theorem task_modRegion (s : State) (c t : Nat) (f : Region → Region) : (s.modRegion c f).task t = s.task t := rfl

@[simp] theorem task_modCluster (s : State) (c t : Nat) (f : Cluster → Cluster) : (s.modCluster c f).task t = s.task t := rfl

@[simp] theorem region_modTask (s : State) (c t : Nat) (f : Task → Task) : (s.modTask t f).region c = s.region c := rfl

@[simp] theorem cluster_modTask (s : State) (c t : Nat) (f : Task → Task) : (s.modTask t f).cluster c = s.cluster c := rfl

@[simp] theorem cluster_modHub (s : State) (c : Nat) (f : Hub → Hub) : (s.modHub f).cluster c = s.cluster c := rfl

@[simp] theorem region_modHub (s : State) (c : Nat) (f : Hub → Hub) : (s.modHub f).region c = s.region c := rfl

@[simp] theorem task_modHub (s : State) (t : Nat) (f : Hub → Hub) : (s.modHub f).task t = s.task t := rfl

theorem task_modTask_ne (s : State) {t u : Nat} (f : Task → Task) (h : t ≠ u) : (s.modTask t f).task u = s.task u :=
  task_setTask_ne _ _ _ _ h

@[simp] theorem taskIdOf_modRegion (s : State) (c d : Nat) (f : Region → Region) :
    (s.modRegion c f).taskIdOf d = s.taskIdOf d := by
  by_cases h : c = d
  · subst h; simp [State.taskIdOf]
  · simp [State.taskIdOf, cluster_modRegion_ne _ _ _ _ h]

@[simp] theorem taskIdOf_modTaskOf (s : State) (c d : Nat) (g : Task → Task) : (s.modTaskOf c g).taskIdOf d = s.taskIdOf d := by
  simp [State.taskIdOf]

/-- A change of the task of a region leaves every other task. -/
theorem task_modTaskOf_ne (s : State) (c : Nat) {n : Nat} (g : Task → Task) (h : n ≠ s.taskIdOf c) :
    (s.modTaskOf c g).task n = s.task n := by
  unfold State.modTaskOf
  split
  next t ht => exact task_modTask_ne _ _ (fun e => h (by simp [State.taskIdOf, ht, e]))
  next => rfl

/-- What a change of the task of a region keeps of a task, it keeps of every task. -/
theorem task_modTaskOf_induction {P : Task → Prop} (s : State) (c n : Nat) (g : Task → Task) (h0 : P (s.task n))
    (h1 : P (g (s.task n))) : P ((s.modTaskOf c g).task n) := by
  unfold State.modTaskOf
  split
  next t _ =>
    by_cases hn : t = n
    · subst hn; rw [task_modTask]; exact h1
    · rw [task_modTask_ne _ _ hn]; exact h0
  next => exact h0

/-- A region holds a task where its task number is of one. -/
theorem taskIdOf_some {s : State} {c t : Nat} (h : (s.cluster c).task = some t) : s.taskIdOf c = t := by
  simp [State.taskIdOf, h]

end Sys2Proof.Machine
end

section
/-!
A FIRING (R22 to R24): the tokens that it moves, and its frame.
-/

namespace Sys2Proof.Machine

open Sys2Proof

/-! ## The region after a firing -/

/-- The node that has fired. -/
def State.firedNode (s : State) (f : Fire) (n : Node) : Node :=
  let old := s.node s.sel.1 s.sel.2
  let base := if keepsBound old.st f then old.bound else []
  { n with
    st := f.st.getD n.st
    firedAt := some s.now
    setAt := s.now + 1
    bound := if f.defer then n.bound else
      if keepsBound old.st f && f.st != some .idle then union (union base f.extra) (old.boundOf s.now f.pops) else [] }

theorem queue_firedNode (s : State) (f : Fire) (n : Node) : (s.firedNode f n).queue = n.queue := rfl

/-- The region of the selected node once its operands are gone. -/
def State.poppedRegion (s : State) (f : Fire) : Region :=
  f.pops.foldl (fun r k => r.pop s.now s.sel.2 k) (s.region s.sel.1)

/-- The region of the selected node once it has fired, before its tokens go out. -/
def State.emptiedRegion (s : State) (f : Fire) : Region :=
  (s.poppedRegion f).setNode s.sel.2 (s.firedNode f ((s.poppedRegion f).node s.sel.2))

/-- The region of the selected node with its tokens under way. -/
def State.sentRegion (s : State) (f : Fire) : Region :=
  f.later.foldl (fun r t => r.deliver s.now (s.sel.2 / 4) f.lat t (.ctl true false 0) [] (some (s.ids + 1)))
    (f.outs.foldl (fun r o => r.deliver s.now (s.sel.2 / 4) f.lat o.1 o.2
      (union (union (if keepsBound (s.node s.sel.1 s.sel.2).st f then (s.node s.sel.1 s.sel.2).bound else []) f.extra)
        ((s.node s.sel.1 s.sel.2).boundOf s.now f.pops)) none) (s.emptiedRegion f))

/-- The region of the selected node after its firing. -/
def State.firedRegion (s : State) (f : Fire) : Region :=
  match f.busy with
  | some (u, k) => { s.sentRegion f with busy := (s.sentRegion f).busy.set (4 * (s.sel.2 / 4) + u) (s.now + k) }
  | none => s.sentRegion f

/-- A firing without an effect beyond its cell writes its region, and its generator where it draws. -/
theorem commit_eq (s : State) (f : Fire) (hp : f.post = fun u _ _ => u) : s.commit f = match f.gen with
    | some g => ({ s with ids := s.ids + 1 }.setRegion s.sel.1 (s.firedRegion f)).modTaskOf s.sel.1
        (fun t => { t with gens := t.gens.set s.sel.2 g })
    | none => { s with ids := s.ids + 1 }.setRegion s.sel.1 (s.firedRegion f) := by
  unfold State.commit
  rw [hp]
  rfl

theorem region_commit (s : State) (f : Fire) (hp : f.post = fun u _ _ => u) :
    (s.commit f).region s.sel.1 = s.firedRegion f := by
  rw [commit_eq s f hp]
  split <;> simp

/-- The units do not matter to what stands in the region. -/
theorem seenAt_firedRegion (s : State) (f : Fire) (p : Holder) : (s.firedRegion f).seenAt p = (s.sentRegion f).seenAt p := by
  unfold State.firedRegion
  split
  · exact seenAt_congr (fun _ => rfl) rfl rfl p
  · rfl

theorem seenAt_emptiedRegion (s : State) (f : Fire) (hn : f.pops.Nodup) (h3 : ∀ k ∈ f.pops, k < 3) (p : Holder) :
    (s.emptiedRegion f).seenAt p = if ∃ k ∈ f.pops, p = .slot s.sel.2 k then ((s.region s.sel.1).seenAt p).tail
      else (s.region s.sel.1).seenAt p := by
  rw [State.emptiedRegion, seenAt_setNode _ _ _ (queue_firedNode ..), State.poppedRegion, seenAt_pops _ _ _ hn h3]

/-- What stands at a place after a firing: what stood there but for the heads that it used, then its tokens, then the places of
its results to come (R22, R23). -/
theorem seenAt_commit (s : State) (f : Fire) (hp : f.post = fun u _ _ => u) (hn : f.pops.Nodup) (h3 : ∀ k ∈ f.pops, k < 3)
    (p : Holder) : ((s.commit f).region s.sel.1).seenAt p =
      (if ∃ k ∈ f.pops, p = .slot s.sel.2 k then ((s.region s.sel.1).seenAt p).tail else (s.region s.sel.1).seenAt p) ++
      (f.outs.filter (fun o => holderOf o.1 == some p)).map (fun o => (o.2, arrival s.now (s.sel.2 / 4) f.lat o.1, none)) ++
      (f.later.filter (fun tg => holderOf tg == some p)).map
        (fun tg => (.ctl true false 0, arrival s.now (s.sel.2 / 4) f.lat tg, some (s.ids + 1))) := by
  rw [region_commit s f hp, seenAt_firedRegion, State.sentRegion,
    seenAt_delivers s.now (s.sel.2 / 4) f.lat (fun tg => tg) (fun _ => .ctl true false 0) [] (some (s.ids + 1)) f.later,
    seenAt_delivers s.now (s.sel.2 / 4) f.lat Prod.fst Prod.snd _ none f.outs, seenAt_emptiedRegion s f hn h3]

/-- The nodes of a region differ after a firing in their queues alone, but for the one that has fired. -/
theorem sameNodes_firedRegion (s : State) (f : Fire) : (s.emptiedRegion f).sameNodes (s.firedRegion f) := by
  have h : (s.emptiedRegion f).sameNodes (s.sentRegion f) :=
    (sameNodes_foldl _ (fun _ _ => sameNodes_put _ _ _ _) _ _).trans (sameNodes_foldl _ (fun _ _ => sameNodes_put _ _ _ _) _ _)
  unfold State.firedRegion
  split <;> exact h

theorem sameNodes_poppedRegion (s : State) (f : Fire) : (s.region s.sel.1).sameNodes (s.poppedRegion f) :=
  sameNodes_foldl _ (fun _ _ => sameNodes_pop _ _ _ _) _ _

/-- The node that has fired: its state is written where the firing gives one, and it has fired in this cycle. -/
theorem node_commit (s : State) (f : Fire) (hp : f.post = fun u _ _ => u) :
    ((s.commit f).node s.sel.1 s.sel.2).firedAt = some s.now ∧
    ((s.commit f).node s.sel.1 s.sel.2).st = f.st.getD (s.node s.sel.1 s.sel.2).st := by
  have h := sameNodes_firedRegion s f s.sel.2
  rw [State.emptiedRegion, node_setNode] at h
  rw [State.node, region_commit s f hp, h]
  refine ⟨rfl, ?_⟩
  show f.st.getD ((s.poppedRegion f).node s.sel.2).st = _
  rw [sameNodes_poppedRegion s f s.sel.2]
  rfl

/-- Another node of the region has neither fired nor changed its state. -/
theorem node_commit_ne (s : State) (f : Fire) (hp : f.post = fun u _ _ => u) {j : Nat} (hj : j ≠ s.sel.2) :
    (((s.commit f).region s.sel.1).node j).st = ((s.region s.sel.1).node j).st ∧
    (((s.commit f).region s.sel.1).node j).firedAt = ((s.region s.sel.1).node j).firedAt := by
  have h := sameNodes_firedRegion s f j
  rw [State.emptiedRegion, node_setNode_ne _ _ _ _ hj.symm] at h
  rw [region_commit s f hp, h, sameNodes_poppedRegion s f j]
  exact ⟨rfl, rfl⟩

/-! ## Slots and write entries as the statements name them -/

theorem holderOf_slot (tg : Target) (j k : Nat) : (holderOf tg == some (.slot j k)) = (slotOf tg == some (j, k)) := by
  cases tg <;> simp [holderOf, slotOf]

theorem arrival_slot {tg : Target} {j k : Nat} (h : slotOf tg = some (j, k)) (now cell lat : Nat) :
    arrival now cell lat tg = now + lat + hops cell (j / 4) := by
  cases tg <;> simp_all [slotOf, arrival]

/-- Of some tokens with their targets, those of one write entry. -/
theorem filter_map_write {α β : Type} (l : List α) (tg : α → Target) (g : α → β) (h : α → β) (e : Nat)
    (hg : ∀ x, holderOf (tg x) = some (.write e) → g x = h x) :
    (l.filter (fun x => holderOf (tg x) == some (.write e))).map g = l.filterMap (fun x => match tg x with
      | .write n => if n.toNat = e then some (h x) else none
      | _ => none) := by
  rw [← List.filterMap_eq_map, List.filterMap_filter]
  refine List.filterMap_congr fun x _ => ?_
  have hx := hg x
  cases ht : tg x with
  | write n =>
    by_cases hn : n.toNat = e
    · simp [holderOf, hn, hx (by simp [ht, holderOf, hn])]
    · simp [holderOf, hn]
  | _ => simp [holderOf]

/-! ## What a firing moves, as the statement has it -/

section
variable (s : State) (f : Fire) (hp : f.post = fun u _ _ => u)
include hp

/-- A slot after a firing: its head is gone where the firing used it, then come the firing's tokens and the places of its results to
come. -/
theorem slot_commit (hn : f.pops.Nodup) (h3 : ∀ k ∈ f.pops, k < 3) (j : Nat) {k : Nat} (hk : k < 3) :
    (((s.commit f).node s.sel.1 j).queue k).toks.map QTok.seen =
      (if j = s.sel.2 ∧ k ∈ f.pops then ((s.node s.sel.1 j).queue k).toks.tail
        else ((s.node s.sel.1 j).queue k).toks).map QTok.seen ++
      (f.outs.filter (fun o => slotOf o.1 == some (j, k))).map
        (fun o => (o.2, s.now + f.lat + hops (s.sel.2 / 4) (j / 4), none)) ++
      (f.later.filter (fun tg => slotOf tg == some (j, k))).map
        (fun _ => (.ctl true false 0, s.now + f.lat + hops (s.sel.2 / 4) (j / 4), some (s.ids + 1))) := by
  have h := seenAt_commit s f hp hn h3 (.slot j k)
  rw [seenAt_slot _ _ hk, seenAt_slot _ _ hk] at h
  simp only [holderOf_slot] at h
  refine h.trans (congr_arg₂ _ (congr_arg₂ _ ?_ ?_) ?_)
  · by_cases hx : j = s.sel.2 ∧ k ∈ f.pops
    · rw [if_pos hx, if_pos ⟨k, hx.2, by rw [hx.1]⟩, List.map_tail]; rfl
    · rw [if_neg hx, if_neg (by rintro ⟨x, hx', e⟩; injection e with e1 e2; exact hx ⟨e1, e2 ▸ hx'⟩)]; rfl
  · refine List.map_congr_left fun o ho => ?_
    rw [arrival_slot (by simpa using (List.mem_filter.mp ho).2)]
  · refine List.map_congr_left fun o ho => ?_
    rw [arrival_slot (by simpa using (List.mem_filter.mp ho).2)]

/-- A write entry after a firing: the firing's tokens stand behind those that were there, then the places of its results to come. -/
theorem write_commit (hn : f.pops.Nodup) (h3 : ∀ k ∈ f.pops, k < 3) (e : Nat) :
    ((((s.commit f).region s.sel.1).writes.get {} e).toks.map QTok.seen) =
      (((s.region s.sel.1).writes.get {} e).toks.map QTok.seen) ++
      f.outs.filterMap (fun o => match o.1 with
        | .write x => if x.toNat = e then some (o.2, s.now + f.lat + 2, none) else none
        | _ => none) ++
      f.later.filterMap (fun tg => match tg with
        | .write x => if x.toNat = e then some (.ctl true false 0, s.now + f.lat + 2, some (s.ids + 1)) else none
        | _ => none) := by
  have h := seenAt_commit s f hp hn h3 (.write e)
  have harr : ∀ tg, holderOf tg = some (.write e) → arrival s.now (s.sel.2 / 4) f.lat tg = s.now + f.lat + 2 := by
    intro tg ht
    cases tg <;> simp_all [holderOf, arrival]
  rw [if_neg (by simp), filter_map_write f.outs Prod.fst _ (fun o => (o.2, s.now + f.lat + 2, none)) e
      (fun o ho => by rw [harr _ ho]),
    filter_map_write f.later (fun tg => tg) _ (fun _ => (.ctl true false 0, s.now + f.lat + 2, some (s.ids + 1))) e
      (fun tg ht => by rw [harr _ ht])] at h
  exact h

/-- The frame of a firing: of the package its region and its task; of the region nodes, entries, pools and units; of the task the
generators. -/
theorem commit_frame : s.commit f = { s with ids := s.ids + 1, clusters := (s.commit f).clusters, tasks := (s.commit f).tasks } ∧
    (∀ d, d ≠ s.sel.1 → (s.commit f).cluster d = s.cluster d) ∧
    (∃ r, (s.region s.sel.1).sameBut r ∧ (s.commit f).cluster s.sel.1 = { s.cluster s.sel.1 with region := r }) ∧
    (∀ n, (s.commit f).task n = { s.task n with gens := ((s.commit f).task n).gens }) ∧
    (∀ n, n ≠ s.taskIdOf s.sel.1 → (s.commit f).task n = s.task n) ∧ (f.gen = none → (s.commit f).tasks = s.tasks) := by
  obtain ⟨r, hr, e⟩ := commit_cases s f hp
  generalize hu : ({ s with ids := s.ids + 1 } : State).setRegion s.sel.1 r = u at e
  have hs : u = { s with ids := s.ids + 1, clusters := u.clusters } := by rw [← hu]; rfl
  have ht : ∀ n, u.task n = s.task n := fun n => by rw [← hu]; rfl
  have hc : u.cluster s.sel.1 = { s.cluster s.sel.1 with region := r } := by rw [← hu]; exact cluster_setRegion ..
  have hd : ∀ d, d ≠ s.sel.1 → u.cluster d = s.cluster d := fun d h => by rw [← hu]; exact cluster_setRegion_ne _ _ _ _ h.symm
  cases hg : f.gen with
  | none =>
    rw [hg] at e
    replace e : s.commit f = u := e
    rw [e]
    exact ⟨by rw [hs], hd, ⟨r, hr, hc⟩, fun n => by rw [ht], fun n _ => ht n, fun _ => by rw [hs]⟩
  | some g =>
    rw [hg] at e
    replace e : s.commit f = u.modTaskOf s.sel.1 (fun t => { t with gens := t.gens.set s.sel.2 g }) := e
    rw [e]
    refine ⟨?_, fun d h => by rw [cluster_modTaskOf, hd d h], ⟨r, hr, by rw [cluster_modTaskOf, hc]⟩, fun n => ?_, fun n hn => ?_,
      fun h => absurd h (by simp)⟩
    · unfold State.modTaskOf
      split
      · rw [hs]; rfl
      · rw [hs]
    · exact task_modTaskOf_induction (P := fun y => y = { s.task n with gens := y.gens }) u s.sel.1 n _ (by rw [ht]) (by rw [ht])
    · rw [task_modTaskOf_ne _ _ _ (by rw [State.taskIdOf, hc]; exact hn), ht]

end

/-- Settles O6: the tokens from what stands at a place after a firing, the frame from what a firing writes. -/
theorem firingMovesTokens : Obligations.FiringMovesTokens := by
  refine ⟨fun s f j k hpost hn h3 hk => ?_, fun s f hpost => ?_⟩
  all_goals have hp : f.post = fun u _ _ => u := funext fun u => funext fun n => funext fun b => hpost u n b
  · exact ⟨slot_commit s f hp hn h3 j hk, (node_commit s f hp).1, (node_commit s f hp).2, write_commit s f hp hn h3⟩
  · obtain ⟨hs, hd, ⟨r, hr, hc⟩, ht, hne, hgen⟩ := commit_frame s f hp
    have hreg : (s.commit f).region s.sel.1 = r := by rw [State.region, hc]
    refine ⟨hs, hd, ?_, ht, hne, hgen, fun j hj => node_commit_ne s f hp hj⟩
    rw [hc, hreg]
    exact congrArg (fun x => { s.cluster s.sel.1 with region := x }) hr

end Sys2Proof.Machine
end

section
/-!
PREDICATES AND TARGETS (R22, R26, R27): what a node does that cannot fire.
-/

namespace Sys2Proof.Machine

open Sys2Proof

/-! ## Nodes of the vector unit -/

/-- A plan of the vector unit that uses L, and R where uR says so, and that emits on both targets. -/
def CePlan (f : FmtA) (uR : Bool) (plan : State → Plan) : Prop :=
  ∃ (lat busy : Nat) (body : State → Heads → Fire), (∀ s, plan s = cePlan 0 lat busy f true uR false s (body s)) ∧
    ∀ s h, (body s h).outs.map Prod.fst = [f.t0, f.t1]

theorem intPlan_ce (lat : Nat) (op : Nat → Nat → Nat → Nat) (f : FmtA) : CePlan f (!f.ir) (intPlan lat op f) :=
  ⟨lat, 1, _, fun _ => rfl, fun _ _ => rfl⟩

theorem int1Plan_ce (op : Nat → Nat → Nat) (f : FmtA) : CePlan f false (int1Plan op f) :=
  ⟨1, 1, _, fun _ => rfl, fun _ _ => rfl⟩

theorem divPlan_ce (op : Nat → Nat → Nat → Nat) (f : FmtA) : CePlan f (!f.ir) (divPlan op f) :=
  ⟨_, _, _, fun _ => rfl, fun _ _ => rfl⟩

theorem cmpPlan_ce (op : Nat → Nat → Nat → Bool) (f : FmtA) : CePlan f (!f.ir) (cmpPlan op f) :=
  ⟨1, 1, _, fun _ => rfl, fun _ _ => rfl⟩

theorem fcmpPlan_ce (op : Num.FVal → Num.FVal → Bool) (f : FmtA) : CePlan f (!f.ir) (fcmpPlan op f) :=
  ⟨1, 1, _, fun _ => rfl, fun _ _ => rfl⟩

theorem fbinPlan_ce (op : Nat → Num.FVal → Num.FVal → Num.FVal × Bool) (f : FmtA) : CePlan f (!f.ir) (fbinPlan op f) :=
  ⟨4, 1, _, fun _ => rfl, fun _ _ => rfl⟩

theorem specialPlan_ce (op : Num.FVal → Num.FVal × Bool) (f : FmtA) : CePlan f false (specialPlan op f) :=
  ⟨_, _, _, fun _ => rfl, fun _ _ => rfl⟩

/-- An instruction whose meaning is a firing of the vector unit. -/
def CeInstr (i : Instr) (f : FmtA) (uR : Bool) : Prop := ∃ plan, CePlan f uR plan ∧ exec i = fireNode plan

theorem intTwo_ce {i : Instr} {f : FmtA} {lat : Nat} {op : (n : Nat) → BitVec n → BitVec n → BitVec n}
    (h : intTwo i = some (f, lat, op)) : CeInstr i f (!f.ir) := by
  unfold intTwo at h
  split at h
  case h_22 => cases h
  all_goals
    obtain ⟨rfl, -⟩ := Prod.mk.inj (Option.some.inj h)
    exact ⟨_, intPlan_ce .., rfl⟩

theorem intOne_ce {i : Instr} {f : FmtA} {op : (n : Nat) → BitVec n → BitVec n}
    (h : intOne i = some (f, op)) : CeInstr i f false := by
  unfold intOne at h
  split at h
  case h_11 => cases h
  all_goals
    obtain ⟨rfl, -⟩ := Prod.mk.inj (Option.some.inj h)
    exact ⟨_, int1Plan_ce .., rfl⟩

theorem intCmp_ce {i : Instr} {f : FmtA} {op : (n : Nat) → BitVec n → BitVec n → Bool}
    (h : intCmp i = some (f, op)) : CeInstr i f (!f.ir) := by
  unfold intCmp at h
  split at h
  case h_8 => cases h
  all_goals
    obtain ⟨rfl, -⟩ := Prod.mk.inj (Option.some.inj h)
    exact ⟨_, cmpPlan_ce .., rfl⟩

theorem intDiv_ce {i : Instr} {f : FmtA} {op : (n : Nat) → BitVec n → BitVec n → BitVec n}
    (h : intDiv i = some (f, op)) : CeInstr i f (!f.ir) := by
  unfold intDiv at h
  split at h
  case h_5 => cases h
  all_goals
    obtain ⟨rfl, -⟩ := Prod.mk.inj (Option.some.inj h)
    exact ⟨_, divPlan_ce .., rfl⟩

theorem floatTwo_ce {i : Instr} {f : FmtA} {op : Nat → Num.FVal → Num.FVal → Num.FVal × Bool}
    (h : floatTwo i = some (f, op)) : CeInstr i f (!f.ir) := by
  unfold floatTwo at h
  split at h
  case h_4 => cases h
  all_goals
    obtain ⟨rfl, -⟩ := Prod.mk.inj (Option.some.inj h)
    exact ⟨_, fbinPlan_ce .., rfl⟩

theorem floatCmp_ce {i : Instr} {f : FmtA} {op : Num.FVal → Num.FVal → Bool}
    (h : floatCmp i = some (f, op)) : CeInstr i f (!f.ir) := by
  unfold floatCmp at h
  split at h
  case h_5 => cases h
  all_goals
    obtain ⟨rfl, -⟩ := Prod.mk.inj (Option.some.inj h)
    exact ⟨_, fcmpPlan_ce .., rfl⟩

theorem specialOf_ce {i : Instr} {f : FmtA} (h : specialOf i = some f) : CeInstr i f false := by
  unfold specialOf at h
  split at h
  case h_7 => cases h
  all_goals
    obtain rfl := Option.some.inj h
    exact ⟨_, specialPlan_ce .., rfl⟩

/-! ## What keeps a node from firing (R22, R26, R27) -/

theorem fireNode_idle (plan : State → Plan) {s : State} (h : s.live = false) : fireNode plan s = .next s := by
  simp [fireNode, h]

theorem fireNode_discard {plan : State → Plan} {s : State} {l : List Nat} (h : s.live = true) (hp : plan s = .discard l) :
    fireNode plan s = .next (s.discard l) := by
  simp [fireNode, h, hp, State.carryOut]

/-- A firing waits while a target of its tokens does not accept. -/
theorem fireNode_blocked {plan : State → Plan} {s : State} {x : Fire} {tg : Target} (hp : plan s = .fire x)
    (hm : tg ∈ x.outs.map Prod.fst) (ha : s.selRegion.accepts s.now tg = false) : fireNode plan s = .next s := by
  obtain ⟨o, ho, rfl⟩ := List.mem_map.mp hm
  have hno : s.selRegion.acceptsAll s.now x = false := by
    rw [Region.acceptsAll, List.all_eq_false.mpr ⟨o, ho, by simp [ha]⟩]
    rfl
  simp [fireNode, hp, State.carryOut, hno]

section
variable {u lat busy : Nat} {f : FmtA} {uL uR uP : Bool} {s : State} {body : Heads → Fire} {h : Heads}

theorem cePlan_busy (hu : s.unitFree u = false) : cePlan u lat busy f uL uR uP s body = .wait := by simp [cePlan, hu]

theorem cePlan_empty (hh : s.heads f.pm uL uR uP = none) : cePlan u lat busy f uL uR uP s body = .wait := by
  simp [cePlan, hh]

theorem cePlan_refused (hu : s.unitFree u = true) (hh : s.heads f.pm uL uR uP = some h) (hp : h.pass = false) :
    cePlan u lat busy f uL uR uP s body = .discard h.slots := by simp [cePlan, hu, hh, hp]

theorem cePlan_offPhase (hh : s.heads f.pm uL uR uP = some h) (hp : h.pass = true) (hf : s.phase f.ph = false) :
    cePlan u lat busy f uL uR uP s body = .wait := by simp [cePlan, hh, hp, hf]

/-- A node with an operand set that its predicate takes waits or fires. -/
theorem cePlan_taken (hh : s.heads f.pm uL uR uP = some h) (hp : h.pass = true) :
    cePlan u lat busy f uL uR uP s body = .wait ∨ cePlan u lat busy f uL uR uP s body =
      .fire { body h with pops := h.slots, lat := lat, busy := some (u, busy) } := by
  unfold cePlan
  rw [hh]
  by_cases hu : s.unitFree u = true <;> by_cases hf : s.phase f.ph = true <;> simp [hu, hf, hp]

end

/-- What an instruction of the vector unit does that cannot fire: it waits, or its operand set is discarded. -/
theorem CeInstr.blocked {i : Instr} {f : FmtA} {uR : Bool} (hi : CeInstr i f uR) (h : Heads) (s : State) :
    (s.live = false → exec i s = .next s) ∧
    (s.heads f.pm true uR false = none → exec i s = .next s) ∧
    (s.live = true → s.heads f.pm true uR false = some h →
      (s.unitFree 0 = false → exec i s = .next s) ∧
      (s.unitFree 0 = true → h.pass = false → exec i s = .next (s.discard h.slots)) ∧
      (s.unitFree 0 = true → h.pass = true → s.phase f.ph = false → exec i s = .next s) ∧
      (h.pass = true → (s.selRegion.accepts s.now f.t0 = false ∨ s.selRegion.accepts s.now f.t1 = false) → exec i s = .next s)) := by
  obtain ⟨plan, ⟨lat, busy, body, hplan, houts⟩, he⟩ := hi
  rw [he]
  refine ⟨fireNode_idle plan, fun hh => fireNode_wait ((hplan s).trans (cePlan_empty hh)), fun hl hh => ⟨?_, ?_, ?_, ?_⟩⟩
  · exact fun hu => fireNode_wait ((hplan s).trans (cePlan_busy hu))
  · exact fun hu hp => fireNode_discard hl ((hplan s).trans (cePlan_refused hu hh hp))
  · exact fun _ hp hf => fireNode_wait ((hplan s).trans (cePlan_offPhase hh hp hf))
  · intro hp ha
    rcases cePlan_taken (u := 0) (lat := lat) (busy := busy) (body := body s) hh hp with hw | hfire
    · exact fireNode_wait ((hplan s).trans hw)
    · have hm := houts s h
      rcases ha with ha | ha
      · exact fireNode_blocked ((hplan s).trans hfire) (by simp [hm]) ha
      · exact fireNode_blocked ((hplan s).trans hfire) (by simp [hm]) ha

/-- Settles O7: every instruction named is a firing of the vector unit on both its targets. -/
theorem predicatesAndFullTargets : Obligations.PredicatesAndFullTargets := by
  intro i f uR h s hi
  refine CeInstr.blocked ?_ h s
  rcases hi with ⟨lat, op, hi, rfl⟩ | ⟨op, hi, rfl⟩ | ⟨op, hi, rfl⟩ | ⟨op, hi, rfl⟩ | ⟨op, hi, rfl⟩ | ⟨op, hi, rfl⟩ | ⟨hi, rfl⟩
  · exact intTwo_ce hi
  · exact intOne_ce hi
  · exact intCmp_ce hi
  · exact intDiv_ce hi
  · exact floatTwo_ce hi
  · exact floatCmp_ce hi
  · exact specialOf_ce hi

end Sys2Proof.Machine
end

section
/-!
TRAPS (R201, R371, R374): software traps, and what taking a trap changes.
-/

namespace Sys2Proof.Machine

open Sys2Proof

/-! ## TCAUSE (R374) -/

/-- Five fields as one number. -/
theorem toNat_fields5 (a b c d e i j k l m : Nat) : (fields [(a, i), (b, j), (c, k), (d, l), (e, m)]).toNat =
    (a * 2 ^ i + b * 2 ^ j + c * 2 ^ k + d * 2 ^ l + e * 2 ^ m) % 2 ^ 64 := by
  simp [fields]

/-- The fields of TCAUSE as one number. -/
theorem toNat_cause (x : TrapRec) : x.cause.toNat =
    (x.code * 2 ^ 0 + x.sub * 2 ^ 8 + x.sw.toNat * 2 ^ 24 + x.held.toNat * 2 ^ 25 + x.step * 2 ^ 26) % 2 ^ 64 :=
  toNat_fields5 ..

theorem cause_code (x : TrapRec) : bitsOf x.cause 7 0 = x.code % 256 := by
  rw [bitsOf, toNat_cause]
  omega

section
variable {x : TrapRec} (hcode : x.code < 256) (hsub : x.sub < 65536) (hstep : x.step < 16)
include hcode hsub hstep

theorem toNat_cause_fit : x.cause.toNat =
    x.code + x.sub * 2 ^ 8 + x.sw.toNat * 2 ^ 24 + x.held.toNat * 2 ^ 25 + x.step * 2 ^ 26 := by
  have hsw := x.sw.toNat_le
  have hheld := x.held.toNat_le
  rw [toNat_cause]
  omega

theorem cause_sub : bitsOf x.cause 23 8 = x.sub := by
  rw [bitsOf, toNat_cause_fit hcode hsub hstep]
  omega

theorem cause_step : bitsOf x.cause 29 26 = x.step := by
  have hsw := x.sw.toNat_le
  have hheld := x.held.toNat_le
  rw [bitsOf, toNat_cause_fit hcode hsub hstep]
  omega

theorem cause_sw : x.cause.getLsbD 24 = x.sw := by
  rw [BitVec.getLsbD, toNat_cause_fit hcode hsub hstep, Nat.testBit_eq_decide_div_mod_eq]
  cases x.sw <;> simp <;> omega

theorem cause_held : x.cause.getLsbD 25 = x.held := by
  have hsw := x.sw.toNat_le
  rw [BitVec.getLsbD, toNat_cause_fit hcode hsub hstep, Nat.testBit_eq_decide_div_mod_eq]
  cases x.held <;> simp <;> omega

end

/-! ## Taking a trap (R33, R371) -/

/-- A fault of a home copy is raised as it stands. -/
theorem homeRecord_home {s : State} {c : Nat} (x : TrapRec) (h : (s.taskOf c).isTwin = false) : s.homeRecord c x = (c, x) := by
  simp [State.homeRecord, h]

section
variable {s : State} {c t : Nat} (ht : (s.cluster c).task = some t) (htwin : (s.task t).twin = none)

theorem taskOf_some {s : State} {c t : Nat} (ht : (s.cluster c).task = some t) : s.taskOf c = s.task t := by
  rw [State.taskOf, taskIdOf_some ht]

include ht htwin in
/-- The freeze of a region whose task has no twin. -/
theorem freeze_eq (x : TrapRec) : s.freeze c x = ((s.modRegion c (fun r => r.freeze x)).modTask t (fun y => y.trapped x)).modHub
    (fun h => { h with records := h.records ++ [x] }) := by
  have hk : ((s.modRegion c (fun r => r.freeze x)).cluster c).task = some t := by rw [cluster_modRegion]; exact ht
  rw [State.freeze, taskOf_some ht, htwin, modTaskOf_some hk]

/-- A region stands frozen by a trap: its record, its task's registers, the hub's list, and all that the freeze leaves. -/
structure State.TakesTrap (s u : State) (c t : Nat) (x : TrapRec) : Prop where
  frozen : (u.region c).frozen = some x
  tcause : (u.task t).tcause = x.cause
  tinfo : (u.task t).tinfo = [x.a, x.b, x.c, x.d]
  record : x ∈ u.hub.records
  mem : u.mem = s.mem
  tasks : ∀ v, v ≠ t → u.task v = s.task v
  clusters : ∀ d, d ≠ c → u.cluster d = s.cluster d
  nodes : (u.region c).nodes = (s.region c).nodes
  regs : ∀ n, (u.task t).reg n = (s.task t).reg n

include ht htwin in
theorem freeze_takesTrap (x : TrapRec) : s.TakesTrap (s.freeze c x) c t x := by
  rw [freeze_eq ht htwin]
  exact {
    frozen := by simp [Region.freeze]
    tcause := by simp [Task.trapped]
    tinfo := by simp [Task.trapped]
    record := by simp
    mem := rfl
    tasks := fun v hv => by rw [task_modHub, task_modTask_ne _ _ hv.symm, task_modRegion]
    clusters := fun d hd => by rw [cluster_modHub, cluster_modTask, cluster_modRegion_ne _ _ _ _ hd.symm]
    nodes := by simp [Region.freeze]
    regs := fun n => by simp [Task.trapped, Task.reg] }

include ht htwin in
theorem freeze_held (x : TrapRec) : ((s.freeze c x).region c).held = (s.region c).held := by
  rw [freeze_eq ht htwin]
  simp [Region.freeze]

/-- The state in which the trap of a lower SRC replaces the one that froze the region in this cycle. -/
def State.yields (s : State) (c : Nat) (y : TrapRec) : State :=
  (s.modRegion c (fun r => { r with held := if y.rewinds then r.held else r.held ++ [y] })).modHub
    (fun h => { h with records := h.records.filter (fun z => z != y) })

variable (htw : (s.task t).isTwin = false)
include ht htw

theorem raise_free {x : TrapRec} (hf : (s.region c).frozen = none) : s.raise c x = s.freeze c x := by
  simp [State.raise, homeRecord_home x (taskOf_some ht ▸ htw), ht, hf]

theorem raise_lower {x y : TrapRec} (hf : (s.region c).frozen = some y) (hb : y.stamp = s.now ∧ x.src < y.src) :
    s.raise c x = (s.yields c y).freeze c x := by
  simp [State.raise, homeRecord_home x (taskOf_some ht ▸ htw), ht, hf, hb, State.yields]

theorem raise_higher {x y : TrapRec} (hf : (s.region c).frozen = some y) (hb : ¬(y.stamp = s.now ∧ x.src < y.src)) :
    s.raise c x = if x.rewinds then s else s.modRegion c (fun r => { r with held := r.held ++ [x] }) := by
  simp only [State.raise, homeRecord_home x (taskOf_some ht ▸ htw), ht, hf, if_neg hb]

include htwin

/-- A trap that freezes an unfrozen region, or that comes before the one of the same cycle, is taken. -/
theorem raise_takesTrap {x : TrapRec}
    (h : (s.region c).frozen = none ∨ ∃ y, (s.region c).frozen = some y ∧ y.stamp = s.now ∧ x.src < y.src) :
    s.TakesTrap (s.raise c x) c t x := by
  rcases h with hf | ⟨y, hf, hb⟩
  · rw [raise_free ht htw hf]
    exact freeze_takesTrap ht htwin x
  · rw [raise_lower ht htw hf hb]
    have ht' : ((s.yields c y).cluster c).task = some t := by simp [State.yields, ht]
    have k := freeze_takesTrap ht' (show ((s.yields c y).task t).twin = none from htwin) x
    exact { k with
      mem := k.mem
      tasks := fun v hv => k.tasks v hv
      clusters := fun d hd => by rw [k.clusters d hd, State.yields, cluster_modHub, cluster_modRegion_ne _ _ _ _ hd.symm]
      nodes := by rw [k.nodes]; simp [State.yields]
      regs := k.regs }

/-- The trap that gives way is held, but for one that rewinds (R371). -/
theorem raise_lower_held {x y : TrapRec} (hf : (s.region c).frozen = some y) (hb : y.stamp = s.now ∧ x.src < y.src) :
    ((s.raise c x).region c).held = if y.rewinds then (s.region c).held else (s.region c).held ++ [y] := by
  rw [raise_lower ht htw hf hb]
  have ht' : ((s.yields c y).cluster c).task = some t := by simp [State.yields, ht]
  rw [freeze_held ht' (show ((s.yields c y).task t).twin = none from htwin)]
  simp [State.yields]

end

/-! ## Software traps (R201) -/

/-- STEP and BLOCK of a record are those of a region that has nothing to restore (R372). -/
theorem stepOf_running {s : State} {c : Nat} (h : (s.region c).restoring = none) : s.stepOf c = (s.region c).step := by
  simp [State.stepOf, State.restores, h]

theorem blockOf_running {s : State} {c : Nat} (h : (s.region c).restoring = none) : s.blockOf c = (s.region c).blk := by
  simp [State.blockOf, State.restores, h]

/-- The record of a software trap of node i (R201). -/
def State.softRecord (s : State) (c i code sub : Nat) : TrapRec :=
  { s.record c (srcNode c i) code sub 0 0 0 with sw := true }

section
variable {f : FmtT} {h : Heads} {s : State} (hr : Ready f.pm (f.pm == .always) false false [] h s) (code sub : Nat)
include hr

/-- A software trap is raised after its operands have gone. -/
theorem fireNode_softTrap (ho : h.origin = none) : fireNode (softTrap f code sub) s =
    .next ((s.commit { pops := h.slots }).raise s.sel.1
      ((s.commit { pops := h.slots }).softRecord s.sel.1 s.sel.2 code sub)) := by
  have hp : softTrap f code sub s = .fire { pops := h.slots
                                            post := fun u _ _ => u.raise s.sel.1 (u.softRecord s.sel.1 s.sel.2 code sub) } := by
    rw [softTrap, routePlan_ready _ hr, ho]
    rfl
  exact fireNode_fire hr.live hp (hr.acceptsAll _ (by simp) (by simp) (by simp))

/-- A software trap whose operand is poisoned raises T_POISON in its stead. -/
theorem fireNode_softTrap_poisoned {o : Origin} (ho : h.origin = some o) :
    fireNode (softTrap f code sub) s = .next ((s.commit { pops := h.slots }).raisePoison o 1) := by
  have hp : softTrap f code sub s = .fire (poisonFire h.slots o 1) := by
    rw [softTrap, routePlan_ready _ hr, ho]
    rfl
  exact fireNode_fire hr.live hp (hr.acceptsAll _ (by simp [poisonFire]) (by simp [poisonFire]) (by simp [poisonFire]))

end

/-- The removal of the operands of a firing leaves what its record names. -/
theorem record_commit_pops (s : State) (l : List Nat) :
    (s.commit { pops := l }).now = s.now ∧ (s.commit { pops := l }).taskIdOf s.sel.1 = s.taskIdOf s.sel.1 ∧
    (s.selRegion.restoring = none → (s.commit { pops := l }).blockOf s.sel.1 = s.selRegion.blk ∧
      (s.commit { pops := l }).stepOf s.sel.1 = s.selRegion.step) := by
  obtain ⟨hs, -, ⟨r, hr, hc⟩, -⟩ := commit_frame s { pops := l } rfl
  have hreg : (s.commit { pops := l }).region s.sel.1 = r := by rw [State.region, hc]
  refine ⟨by rw [hs], by rw [State.taskIdOf, State.taskIdOf, hc], fun hn => ?_⟩
  have hn' : ((s.commit { pops := l }).region s.sel.1).restoring = none := by rw [hreg, hr]; exact hn
  rw [blockOf_running hn', stepOf_running hn', hreg, hr]
  exact ⟨rfl, rfl⟩

/-- Settles O35: the software traps by their firing, the rest by the cases of a raise. -/
theorem trapsTaken : Obligations.TrapsTaken := by
  refine ⟨fun brk f h s hr => ⟨fun ho => ?_, fun o ho => ?_⟩, fun s c x t ht htwin htw => ⟨fun hx => ?_, fun y hy hb => ?_,
    cause_code x, fun hcode hsub hstep => ⟨cause_sub hcode hsub hstep, cause_sw hcode hsub hstep, cause_held hcode hsub hstep,
      cause_step hcode hsub hstep⟩⟩⟩
  · obtain ⟨hnow, htask, hrun⟩ := record_commit_pops s h.slots
    have hbits : bitsOf f.code 15 8 = f.code.toNat / 256 := by
      have := f.code.isLt
      simp only [bitsOf]
      omega
    have hlow : bitsOf f.code 7 0 = f.code.toNat % 256 := by simp [bitsOf]
    cases brk with
    | true => exact ⟨_, hnow, rfl, rfl, rfl, rfl, rfl, htask, hrun, rfl, rfl, fireNode_softTrap hr _ _ ho⟩
    | false => exact ⟨_, hnow, rfl, rfl, rfl, rfl, rfl, htask, hrun, hlow, hbits, fireNode_softTrap hr _ _ ho⟩
  · cases brk with
    | true => exact fireNode_softTrap_poisoned hr _ _ ho
    | false => exact fireNode_softTrap_poisoned hr _ _ ho
  · have k := raise_takesTrap ht htwin htw hx
    refine ⟨k.frozen, k.tcause, k.tinfo, k.record, fun y hy => ?_, k.mem, k.tasks, k.clusters, k.nodes, k.regs⟩
    rcases hx with hf | ⟨z, hf, hb⟩
    · simp [hf] at hy
    · obtain rfl : z = y := by simpa [hf] using hy
      exact raise_lower_held ht htwin htw hf hb
  · exact raise_higher ht htw hy (by rintro ⟨h1, h2⟩; rcases hb with hb | hb <;> omega)

end Sys2Proof.Machine
end

section
/-!
STRANDING (R225): what the removal of tokens from a region changes, and what it leaves as it is.
-/

namespace Sys2Proof.Machine

open Sys2Proof

/-! ## Folds and tables -/

/-- What one step of a fold brings about, and the others keep, holds at the end. -/
theorem foldl_reaches {α β : Type} {P : β → Prop} (g : β → α → β) (keeps : ∀ b x, P b → P (g b x)) {l : List α} {y : α} (hy : y ∈ l)
    (reach : ∀ b, P (g b y)) (b : β) : P (l.foldl g b) := by
  obtain ⟨l1, l2, rfl⟩ := List.append_of_mem hy
  rw [List.foldl_append, List.foldl_cons]
  exact List.foldlRecOn l2 g (reach _) (fun b hb x _ => keeps b x hb)

theorem Tbl.get_mapV {α β : Type} (f : Nat → α → β) (d : α) (t : Tbl α) (k : Nat) :
    (t.mapV f).get (f k d) k = f k (t.get d k) := by
  induction t with
  | nil => rfl
  | cons x t ih =>
    obtain ⟨j, v⟩ := x
    by_cases h : j = k
    · subst h; simp [Tbl.mapV, Tbl.get]
    · simp [Tbl.mapV, Tbl.get, h, ih]

theorem Tbl.mem_mapV {α β : Type} {f : Nat → α → β} {t : Tbl α} {y : Nat × β} (h : y ∈ t.mapV f) : ∃ x ∈ t, y = (x.1, f x.1 x.2) := by
  induction t with
  | nil => simp [Tbl.mapV] at h
  | cons x t ih =>
    rcases List.mem_cons.mp h with rfl | h
    · exact ⟨x, List.mem_cons_self, rfl⟩
    · obtain ⟨z, hz, e⟩ := ih h
      exact ⟨z, List.mem_cons_of_mem _ hz, e⟩

theorem Tbl.mem_set {α : Type} {t : Tbl α} {k : Nat} {v : α} {y : Nat × α} (h : y ∈ t.set k v) : y = (k, v) ∨ y ∈ t := by
  induction t with
  | nil => exact .inl (List.mem_singleton.mp h)
  | cons x t ih =>
    unfold Tbl.set at h
    split at h
    · rcases List.mem_cons.mp h with h | h
      · exact .inl h
      · exact .inr (List.mem_cons_of_mem _ h)
    · rcases List.mem_cons.mp h with h | h
      · exact .inr (h ▸ List.mem_cons_self)
      · exact (ih h).imp_right (List.mem_cons_of_mem _)

/-- What a table holds under a number is listed, or is the default. -/
theorem Tbl.get_mem {α : Type} (d : α) (t : Tbl α) (k : Nat) : t.get d k = d ∨ (k, t.get d k) ∈ t := by
  induction t with
  | nil => exact .inl rfl
  | cons x t ih =>
    obtain ⟨j, v⟩ := x
    by_cases h : j = k
    · subst h; simp [Tbl.get]
    · simp only [Tbl.get, h, if_false]
      exact ih.imp_right (List.mem_cons_of_mem _)

theorem Tbl.find_drop {α : Type} (t : Tbl α) (k : Nat) : (t.drop k).find k = none := by
  induction t with
  | nil => rfl
  | cons x t ih =>
    obtain ⟨j, v⟩ := x
    by_cases h : j = k <;> simp [Tbl.drop, Tbl.find, h, ih]

/-! ## Regions that differ in tokens and in what is stranded -/

/-- Two regions differ in nodes, entries, pool entries, units and the counts of STRANDED at most. -/
def Region.sameButStrand (r r' : Region) : Prop :=
  r' = { r with nodes := r'.nodes, returning := r'.returning, writes := r'.writes, reads := r'.reads, busy := r'.busy
                strandedHere := r'.strandedHere, strandedAt := r'.strandedAt }

theorem Region.sameButStrand.trans {r r' r'' : Region} (h : r.sameButStrand r') (k : r'.sameButStrand r'') : r.sameButStrand r'' := by
  unfold Region.sameButStrand at *
  rw [k, h]

theorem Region.sameBut.strand {r r' : Region} (h : r.sameBut r') : r.sameButStrand r' := by
  unfold Region.sameButStrand
  rw [h]

/-- Two regions hold the same tokens, in nodes and entries that are the same. -/
structure Region.sameTokens (r r' : Region) : Prop where
  nodes : r'.nodes = r.nodes
  writes : r'.writes = r.writes
  reads : r'.reads = r.reads

theorem Region.sameTokens.node {r r' : Region} (h : r.sameTokens r') (j : Nat) : r'.node j = r.node j := by
  rw [Region.node, h.nodes]; rfl

theorem Region.sameTokens.seenAt {r r' : Region} (h : r.sameTokens r') (p : Holder) : r'.seenAt p = r.seenAt p :=
  seenAt_congr h.node h.writes h.reads p

theorem Region.sameTokens.gets {r r' : Region} (h : r.sameTokens r') {tg : Target} {tok : Token} {at_ : Nat} (hg : r.gets tg tok at_) :
    r'.gets tg tok at_ := by
  rw [gets_iff] at hg ⊢
  exact fun p hp => h.seenAt p ▸ hg p hp

/-! ## Stranding (R225) -/

/-- What STRANDED counts for a region is written in the region, in its task and in the list of what the cycle has set. -/
theorem strand_cases (s : State) (c slot n : Nat) : s.strand c slot n = s ∨ ∃ (h : Nat) (a : Option Nat) (g : Task → Task),
    (∀ t, g t = { t with strd := (g t).strd, stranded := (g t).stranded }) ∧ s.strand c slot n =
      ((s.modRegion c (fun r => { r with strandedHere := h, strandedAt := a })).modTaskOf c g).touch 1 c 3 := by
  unfold State.strand
  split
  · exact .inl rfl
  · exact .inr ⟨_, _, _, fun _ => rfl, rfl⟩

/-- All that the removal of tokens from region c changes: its tokens and units, and what is counted as stranded. -/
structure State.TokensOnly (c : Nat) (s t : State) : Prop where
  rest : t = { s with clusters := t.clusters, tasks := t.tasks, touched := t.touched }
  others : ∀ d, d ≠ c → t.cluster d = s.cluster d
  here : t.cluster c = { s.cluster c with region := t.region c }
  region : (s.region c).sameButStrand (t.region c)
  task : ∀ n, t.task n = { s.task n with strd := (t.task n).strd, stranded := (t.task n).stranded }

theorem State.TokensOnly.refl (c : Nat) (s : State) : s.TokensOnly c s := ⟨rfl, fun _ _ => rfl, rfl, rfl, fun _ => rfl⟩

theorem State.TokensOnly.trans {c : Nat} {s t u : State} (h : s.TokensOnly c t) (k : t.TokensOnly c u) : s.TokensOnly c u where
  rest := by rw [k.rest, h.rest]
  others d hd := (k.others d hd).trans (h.others d hd)
  here := by rw [k.here, h.here]
  region := h.region.trans k.region
  task n := by rw [k.task n, h.task n]

theorem tokensOnly_foldl {α : Type} {c : Nat} (g : State → α → State) (hg : ∀ (s : State) (x : α), s.TokensOnly c (g s x)) (l : List α)
    (s : State) : s.TokensOnly c (l.foldl g s) := by
  induction l generalizing s with
  | nil => exact .refl c s
  | cons x l ih => exact (hg s x).trans (ih (g s x))

theorem tokensOnly_modRegion {s : State} {c : Nat} {f : Region → Region} (hf : (s.region c).sameButStrand (f (s.region c))) :
    s.TokensOnly c (s.modRegion c f) where
  rest := rfl
  others d hd := cluster_modRegion_ne _ _ _ _ hd.symm
  here := by rw [region_modRegion, cluster_modRegion]
  region := by rw [region_modRegion]; exact hf
  task _ := rfl

theorem tokensOnly_strand (s : State) (c slot n : Nat) : s.TokensOnly c (s.strand c slot n) := by
  rcases strand_cases s c slot n with e | ⟨h, a, g, hg, e⟩ <;> rw [e]
  · exact .refl c s
  · refine .trans (tokensOnly_modRegion (f := fun r => { r with strandedHere := h, strandedAt := a }) rfl) ⟨?_, fun d _ => ?_, ?_, ?_,
      fun n => ?_⟩
    · generalize s.modRegion c _ = u
      unfold State.touch State.modTaskOf
      split <;> split <;> rfl
    · rw [cluster_touch, cluster_modTaskOf]
    · rw [cluster_touch, cluster_modTaskOf, region_touch, region_modTaskOf]; rfl
    · rw [region_touch, region_modTaskOf]; rfl
    · rw [task_touch]
      generalize s.modRegion c _ = u
      exact task_modTaskOf_induction (P := fun y => y = { u.task n with strd := y.strd, stranded := y.stranded }) u c n g rfl (hg _)

/-- Stranding moves no token. -/
theorem sameTokens_strand (s : State) (c slot n : Nat) : (s.region c).sameTokens ((s.strand c slot n).region c) := by
  rcases strand_cases s c slot n with e | ⟨h, a, g, -, e⟩ <;> rw [e]
  · exact ⟨rfl, rfl, rfl⟩
  · rw [region_touch, region_modTaskOf, region_modRegion]
    exact ⟨rfl, rfl, rfl⟩

section
variable {c : Nat} {s t : State} (h : s.TokensOnly c t)
include h

theorem State.TokensOnly.mem : t.mem = s.mem := by rw [h.rest]

theorem State.TokensOnly.now : t.now = s.now := by rw [h.rest]

theorem State.TokensOnly.clusterTask : (t.cluster c).task = (s.cluster c).task := by rw [h.here]

theorem State.TokensOnly.taskOf : t.taskOf c = { s.taskOf c with strd := (t.taskOf c).strd, stranded := (t.taskOf c).stranded } := by
  have hid : t.taskIdOf c = s.taskIdOf c := by rw [State.taskIdOf, h.clusterTask, State.taskIdOf]
  rw [State.taskOf, hid, h.task]
  rfl

end

/-! ## Gates (R223) -/

/-- Gate tokens of one read entry are discarded and counted. -/
def State.dropGate (st : State) (now c : Nat) (all : Bool) (e : Nat) : State :=
  let g := (st.region c).reads.get {} e
  let go (t : QTok) : Bool := t.pend.isNone && (all || t.at_ ≤ now)
  if !g.gate.any go then st
  else (st.modRegion c (fun r => { r with reads := r.reads.set e { g with gate := g.gate.filter (fun t => !go t) } })).strand c (192 + e)
    (g.gate.filter (fun t => go t && strandable t)).length

theorem dropGates_eq (s : State) (c : Nat) (all : Bool) :
    s.dropGates c all = (List.range 32).foldl (fun st e => st.dropGate s.now c all e) s := rfl

/-- The discard at a gate changes nothing, or what stands at that gate, of which no token that has arrived is left. -/
theorem dropGate_cases (s : State) (now c : Nat) (all : Bool) (e : Nat) :
    (s.dropGate now c all e = s ∧ ∀ t ∈ ((s.region c).reads.get {} e).gate, (t.pend.isNone && (all || t.at_ ≤ now)) = false) ∨
    ((s.region c).reads.get {} e).gate ≠ [] ∧ ∃ l : List QTok, (∀ t ∈ l, (t.pend.isNone && (all || t.at_ ≤ now)) = false) ∧
      (∀ t ∈ l, t ∈ ((s.region c).reads.get {} e).gate) ∧ ∃ n, s.dropGate now c all e =
        (s.modRegion c (fun r => { r with reads := r.reads.set e { (s.region c).reads.get {} e with gate := l } })).strand c (192 + e) n := by
  unfold State.dropGate
  dsimp only
  split
  next h =>
    refine .inl ⟨rfl, fun t ht => ?_⟩
    rw [Bool.not_eq_true', List.any_eq_false] at h
    simpa using h t ht
  next h =>
    refine .inr ⟨fun e => h (by simp [e]), _, fun t ht => ?_, fun t ht => (List.mem_filter.mp ht).1, _, rfl⟩
    simpa only [Bool.not_eq_true'] using (List.mem_filter.mp ht).2

theorem tokensOnly_dropGate (s : State) (now c : Nat) (all : Bool) (e : Nat) : s.TokensOnly c (s.dropGate now c all e) := by
  rcases dropGate_cases s now c all e with ⟨h, -⟩ | ⟨-, l, -, -, n, h⟩ <;> rw [h]
  · exact .refl c s
  · refine State.TokensOnly.trans ?_ (tokensOnly_strand ..)
    exact tokensOnly_modRegion rfl

theorem tokensOnly_dropGates (s : State) (c : Nat) (all : Bool) : s.TokensOnly c (s.dropGates c all) :=
  dropGates_eq s c all ▸ tokensOnly_foldl _ (fun st e => tokensOnly_dropGate st s.now c all e) _ s

/-- The gate of an entry after the discard at a gate: nothing has come to it, and no token that has arrived is left where it is that
gate. -/
theorem gate_dropGate (s : State) (now c : Nat) (all : Bool) (e k : Nat) :
    (∀ t ∈ (((s.dropGate now c all e).region c).reads.get {} k).gate, t ∈ ((s.region c).reads.get {} k).gate) ∧
    (e = k → ∀ t ∈ (((s.dropGate now c all e).region c).reads.get {} k).gate, (t.pend.isNone && (all || t.at_ ≤ now)) = false) := by
  rcases dropGate_cases s now c all e with ⟨h, hl⟩ | ⟨-, l, hl, hs, n, h⟩
  · rw [h]
    exact ⟨fun _ ht => ht, fun he => he ▸ hl⟩
  · rw [h, (sameTokens_strand ..).reads, region_modRegion]
    by_cases he : e = k
    · subst he
      simp only [Tbl.get_set]
      exact ⟨hs, fun _ => hl⟩
    · simp only [Tbl.get_set_ne _ _ _ he]
      exact ⟨fun _ ht => ht, fun h => absurd h he⟩

/-- No token that has arrived is left at a gate. -/
theorem gate_dropGates (s : State) (c : Nat) (all : Bool) {e : Nat} (he : e < 32) :
    ∀ t ∈ (((s.dropGates c all).region c).reads.get {} e).gate, (t.pend.isNone && (all || t.at_ ≤ s.now)) = false := by
  rw [dropGates_eq]
  refine foldl_reaches (P := fun st => ∀ t ∈ ((st.region c).reads.get {} e).gate, (t.pend.isNone && (all || t.at_ ≤ s.now)) = false)
    (fun st e => st.dropGate s.now c all e) (fun st k h t ht => h t ((gate_dropGate st s.now c all k e).1 t ht)) (List.mem_range.mpr he)
    (fun st => (gate_dropGate st s.now c all e e).2 rfl) s

/-- The discard at gates moves no token of a node or write entry, and starts no read entry again. -/
structure Region.gatesOnly (r r' : Region) : Prop where
  nodes : r'.nodes = r.nodes
  writes : r'.writes = r.writes
  done : (∀ y ∈ r.reads, y.2.done = true) → ∀ y ∈ r'.reads, y.2.done = true

theorem gatesOnly_dropGate (s : State) (now c : Nat) (all : Bool) (e : Nat) :
    (s.region c).gatesOnly ((s.dropGate now c all e).region c) := by
  rcases dropGate_cases s now c all e with ⟨h, -⟩ | ⟨hne, l, -, -, n, h⟩
  · rw [h]
    exact ⟨rfl, rfl, id⟩
  · have k := sameTokens_strand (s.modRegion c (fun r => { r with
      reads := r.reads.set e { (s.region c).reads.get {} e with gate := l } })) c (192 + e) n
    rw [← h, region_modRegion] at k
    refine ⟨k.nodes, k.writes, fun hd y hy => ?_⟩
    rw [k.reads] at hy
    rcases Tbl.mem_set hy with rfl | hy
    · rcases Tbl.get_mem {} (s.region c).reads e with hdef | hm
      · exact absurd (by rw [hdef]) hne
      · exact hd (e, (s.region c).reads.get {} e) hm
    · exact hd y hy

theorem gatesOnly_dropGates (s : State) (c : Nat) (all : Bool) : (s.region c).gatesOnly ((s.dropGates c all).region c) := by
  rw [dropGates_eq]
  refine List.foldlRecOn (motive := fun (st : State) => (s.region c).gatesOnly (st.region c)) _ _ ⟨rfl, rfl, id⟩ fun st h e _ => ?_
  have k := gatesOnly_dropGate st s.now c all e
  exact ⟨k.nodes.trans h.nodes, k.writes.trans h.writes, fun hd => k.done (h.done hd)⟩

/-- What stands at a target other than a gate goes on standing there as gates are emptied. -/
theorem Region.gatesOnly.gets {r r' : Region} (h : r.gatesOnly r') {tg : Target} (hg : ∀ e, tg ≠ .gate e) {tok : Token} {at_ : Nat}
    (hr : r.gets tg tok at_) : r'.gets tg tok at_ := by
  have hn : ∀ j, r'.node j = r.node j := fun j => by rw [Region.node, h.nodes]; rfl
  cases tg with
  | gate e => exact absurd rfl (hg e)
  | none => trivial
  | write e => rw [Region.gets, h.writes]; exact hr
  | left n => rw [Region.gets, hn]; exact hr
  | right n => rw [Region.gets, hn]; exact hr
  | pred n => rw [Region.gets, hn]; exact hr

/-! ## A region that runs (R33) -/

/-- A region that is neither frozen nor stopped works in this cycle. -/
theorem working_of_running {s : State} {c : Nat} (h : s.running c = true) : s.working c = true := by
  simp only [State.running, Bool.and_eq_true, Option.isNone_iff_eq_none] at h
  obtain ⟨⟨⟨⟨ht, hw⟩, hs⟩, hf⟩, hb⟩ := h
  simp [State.working, Region.goesOn, ht, hw, hs, hf, hb]

/-- A region that runs holds a task. -/
theorem task_of_running {s : State} {c : Nat} (h : s.running c = true) : ∃ t, (s.cluster c).task = some t := by
  simp only [State.running, Bool.and_eq_true] at h
  obtain ⟨⟨⟨⟨ht, -⟩, -⟩, -⟩, -⟩ := h
  exact Option.isSome_iff_exists.mp ht

end Sys2Proof.Machine
end

section
/-!
THE TEARDOWN WAVE (R221 to R225, R231).
-/

namespace Sys2Proof.Machine

open Sys2Proof

/-! ## Discard and injection (R27, R221, R223) -/

theorem execOperandDiscard_refused {s : State} {c i : Nat} {x : Instr} {pops : List Nat} (hl : (s.at c i).live = true)
    (hx : s.instrOf c i = some x) (hp : planOf x (s.at c i) = .discard pops) :
    exec (.operandDiscard c i) s = .next ((s.at c i).discard pops) := by
  show execOperandDiscard c i s = _
  simp [execOperandDiscard, hl, State.planAt, hx, hp]

/-- A store under SMASK that is older than the selected exit counts for the injection. -/
theorem storesBefore_of_mem {r : Region} {im : Image} {t : Nat} (hi : r.img = some im)
    (h : ∃ a ∈ r.accesses, a.old = false ∧ isWriteClass a.ins = true ∧ a.fired < t ∧ im.smask.getLsbD (memFmt a.ins).lsid.toNat = true) :
    r.storesBefore t = true := by
  obtain ⟨a, ha, ho, hw, hf, hm⟩ := h
  simp only [Region.storesBefore, hi, List.any_eq_true]
  exact ⟨a, ha, by simp [ho, hw, hf, hm]⟩

/-- The region in I, before its gates are emptied (R223). -/
def Region.injected (r : Region) (now : Nat) : Region := { r.stopReads now with inject := some now, step := 1 }

section
variable {c : Nat} {s : State} {x : Sel} (hs : (s.region c).sel = some x)
include hs

theorem execTeardownInjection_stores (hb : (s.region c).storesBefore x.cycle = true) : exec (.teardownInjection c) s = .next s := by
  show execTeardownInjection c s = _
  simp [execTeardownInjection, hs, hb]

theorem execTeardownInjection_go (hr : s.running c = true) (h0 : (s.region c).step = 0) (hj : (s.region c).inject = none)
    (hn : Nat.max x.cycle (s.region c).storeAt < s.now) (hb : (s.region c).storesBefore x.cycle = false) :
    exec (.teardownInjection c) s = .next ((s.modRegion c (fun r => r.injected s.now)).dropGates c false) := by
  show execTeardownInjection c s = _
  have hn' : ¬s.now ≤ Nat.max x.cycle (s.region c).storeAt := by omega
  simp only [execTeardownInjection, hs, hr, h0, hj, hb, decide_eq_false hn']
  rfl

end

/-- The two deliveries of a read entry (R214). -/
def Region.deliverBoth (r : Region) (now : Nat) (x : ReadEntry) (tok : Token) : Region :=
  (r.deliverEntry now x.t0 tok []).deliverEntry now x.t1 tok []

theorem gets_deliverBoth (r : Region) (now : Nat) (x : ReadEntry) (tok : Token) : ∀ tg ∈ [x.t0, x.t1],
    (r.deliverBoth now x tok).gets tg tok (now + 2) := by
  intro tg ht
  rcases List.mem_cons.mp ht with rfl | ht
  · exact gets_put (gets_deliverEntry ..)
  · rw [List.mem_singleton.mp ht]
    exact gets_deliverEntry ..

theorem sameBut_deliverBoth (r : Region) (now : Nat) (x : ReadEntry) (tok : Token) : r.sameBut (r.deliverBoth now x tok) :=
  (sameBut_put ..).trans (sameBut_put ..)

/-- In I every read entry has put its markers on the entry bus. -/
theorem gets_injected {r : Region} {im : Image} (hi : r.img = some im) (now : Nat) {y : ReadEntry} (hy : y ∈ im.reads) {tg : Target}
    (ht : tg ∈ [y.t0, y.t1]) (hg : ∀ e, tg ≠ .gate e) : (r.injected now).gets tg (.mark .teardown) (now + 2) := by
  have h : (im.reads.foldl (fun r x => r.deliverBoth now x (.mark .teardown)) r).gets tg (.mark .teardown) (now + 2) :=
    foldl_reaches (P := fun r : Region => r.gets tg (.mark .teardown) (now + 2)) (fun r x => r.deliverBoth now x (.mark .teardown))
      (fun r x h => gets_put (gets_put h)) hy (fun r => gets_deliverBoth r now y _ tg ht) r
  refine Region.gatesOnly.gets (r := im.reads.foldl (fun r x => r.deliverBoth now x (.mark .teardown)) r) ⟨?_, ?_, ?_⟩ hg h
  · rw [Region.injected, Region.stopReads, hi]; rfl
  · rw [Region.injected, Region.stopReads, hi]; rfl
  · intro _ y hy
    rw [Region.injected, Region.stopReads, hi] at hy
    obtain ⟨z, -, rfl⟩ := Tbl.mem_mapV hy
    rfl

theorem done_injected {r : Region} {im : Image} (hi : r.img = some im) (now : Nat) : ∀ y ∈ (r.injected now).reads, y.2.done = true := by
  intro y hy
  rw [Region.injected, Region.stopReads, hi] at hy
  obtain ⟨z, -, rfl⟩ := Tbl.mem_mapV hy
  rfl

/-! ## Clearing queues (R224, R225) -/

/-- Two regions differ in the tokens of their nodes, and what these take of pools, at most. -/
def Region.queuesOnly (r r' : Region) : Prop := r.sameBut r' ∧ r.sameNodes r'

theorem Region.queuesOnly.refl (r : Region) : r.queuesOnly r := ⟨.refl r, .refl r⟩

theorem Region.queuesOnly.trans {r r' r'' : Region} (h : r.queuesOnly r') (k : r'.queuesOnly r'') : r.queuesOnly r'' :=
  ⟨h.1.trans k.1, h.2.trans k.2⟩

theorem queuesOnly_pop (r : Region) (now i k : Nat) : r.queuesOnly (r.pop now i k) := ⟨sameBut_pop .., sameNodes_pop _ _ _ _⟩

theorem queuesOnly_clearTo (now i slot : Nat) (whole : Bool) (n : Nat) (r : Region) :
    r.queuesOnly (r.clearTo now i slot whole n).1 := by
  induction n generalizing r with
  | zero => exact .refl r
  | succ n ih =>
    unfold Region.clearTo
    split
    · exact .refl r
    · split
      · dsimp only
        split
        · exact queuesOnly_pop ..
        · exact .refl r
      · split
        · exact .refl r
        · exact (queuesOnly_pop ..).trans (ih _)

theorem queuesOnly_clearSlots (r : Region) (now i : Nat) (whole : Bool) (slots : List Nat) :
    r.queuesOnly (r.clearSlots now i whole slots).1 := by
  unfold Region.clearSlots
  refine List.foldlRecOn (motive := fun x : Region × Nat => r.queuesOnly x.1) slots _ (.refl r) fun x h k _ => ?_
  exact h.trans (queuesOnly_clearTo ..)

/-- A node without the places that wait for a result. -/
def Node.unpend (n : Node) (now id : Nat) : Node :=
  { n with l := n.l.unpend now id, r := n.r.unpend now id, p := n.p.unpend now id }

theorem node_unpend (r : Region) (now id j : Nat) : (r.unpend now id).node j = (r.node j).unpend now id :=
  Tbl.get_mapV (fun _ n => Node.unpend n now id) {} r.nodes j

theorem queuesOnly_unpend (r : Region) (now id : Nat) : r.queuesOnly (r.unpend now id) := by
  refine ⟨rfl, fun j => ?_⟩
  rw [node_unpend]
  rfl

theorem Region.queuesOnly.node {r r' : Region} (h : r.queuesOnly r') (j : Nat) :
    r'.node j = { r.node j with l := (r'.node j).l, r := (r'.node j).r, p := (r'.node j).p } := h.2 j

/-! ## Retiring (R224) -/

/-- The forward queues of node i, its queues once it has retired. -/
def State.forward (s : State) (c i : Nat) : List Nat :=
  match (s.region c).img with
  | some im => queuesOf im i false
  | none => []

/-- The region with the results that a retiring node loses, and its forward queues, taken out. -/
def State.retiringRegion (s : State) (c i : Nat) : Region :=
  (((s.orphans c i).foldl (fun r id => r.unpend s.now id) (s.region c)).clearSlots s.now i true (s.forward c i)).1

/-- The region of a node that has retired, before its markers go out. -/
def State.retiredRegion (s : State) (c i : Nat) : Region :=
  (s.retiringRegion c i).setNode i { (s.retiringRegion c i).node i with retired := true, st := .idle, setAt := s.now + 1 }

theorem retire_eq {s : State} {c i : Nat} {x : Instr} (hx : s.instrOf c i = some x) : ∃ n, s.retire c i =
    (s.setRegion c ((drivenTargets x).foldl (fun (r : Region) t => r.deliver s.now (i / 4) 1 t (.mark .teardown) [] none)
      (s.retiredRegion c i))).strand c i n := by
  unfold State.retire
  rw [hx]
  exact ⟨_, rfl⟩

/-- A node that retires is idle, and its markers are on their way. -/
theorem retire_spec {s : State} {c i : Nat} {x : Instr} (hx : s.instrOf c i = some x) :
    ((s.retire c i).node c i).retired = true ∧ ((s.retire c i).node c i).st = .idle ∧ (s.retire c i).mem = s.mem ∧
    ∀ tg ∈ drivenTargets x, ((s.retire c i).region c).gets tg (.mark .teardown) (arrival s.now (i / 4) 1 tg) := by
  obtain ⟨n, e⟩ := retire_eq hx
  generalize hr : (drivenTargets x).foldl (fun (r : Region) t => r.deliver s.now (i / 4) 1 t (.mark .teardown) [] none)
      (s.retiredRegion c i) = r at e
  have hsame : r.sameTokens ((s.retire c i).region c) := by
    have h := sameTokens_strand (s.setRegion c r) c i n
    rwa [region_setRegion, ← e] at h
  have hnode : (s.retiredRegion c i).sameNodes r :=
    hr ▸ sameNodes_foldl _ (fun _ _ => sameNodes_put _ _ _ _) _ _
  have hi := hnode i
  rw [State.retiredRegion, node_setNode] at hi
  refine ⟨?_, ?_, ?_, fun tg ht => hsame.gets (hr ▸ gets_delivers s.now (i / 4) 1 _ _ _ ht)⟩
  · rw [State.node, hsame.node, hi]
  · rw [State.node, hsame.node, hi]
  · rw [e, (tokensOnly_strand ..).mem, setRegion_mem]

section
variable {c i : Nat} {s : State} {x : Instr} (hw : s.running c = true) (hj : (s.region c).inject.isSome = true)
  (hn : ((s.region c).node i).retired = false) (hx : s.instrOf c i = some x) (hf : ((s.region c).node i).firedAt ≠ some s.now)

/-- A node without forward queues waits for no marker. -/
theorem markersIn_of_noForward {s : State} {c i : Nat} (h : s.noForward c i = true) : s.markersIn c i = true := by
  unfold State.noForward at h
  unfold State.markersIn
  split at h
  next im hi => simp [hi, List.isEmpty_iff.mp h]
  next hi => simp [hi]

theorem fetch_of_instrOf {s : State} {c i : Nat} {x : Instr} (hx : s.instrOf c i = some x) : (s.fetch c i).isNone = false := by
  unfold State.instrOf at hx
  cases h : s.fetch c i with
  | none => simp [h] at hx
  | some w => rfl

theorem execNodeRetire_loads (hl : s.loadsOut c i = true) : exec (.nodeRetire c i) s = .next s := by
  show execNodeRetire c i s = _
  simp [execNodeRetire, hl]

theorem execNodeRetire_unmarked (hm : s.markersIn c i = false) : exec (.nodeRetire c i) s = .next s := by
  have hnf : s.noForward c i = false := by
    cases h : s.noForward c i with
    | false => rfl
    | true => rw [markersIn_of_noForward h] at hm; cases hm
  show execNodeRetire c i s = _
  simp [execNodeRetire, hm, hnf]

include hw hj hn hx hf

theorem execNodeRetire_go (hm : s.markersIn c i = true) (hl : s.loadsOut c i = false)
    (hc : s.holdsWork c i = false ∨ (s.canAct c i = false ∧ s.stirs c = false)) :
    exec (.nodeRetire c i) s = .next (s.retire c i) := by
  have hwait : (s.holdsWork c i && (s.canAct c i || s.stirs c)) = false := by
    rcases hc with h | ⟨h1, h2⟩
    · rw [h]; rfl
    · rw [h1, h2, Bool.or_false, Bool.and_false]
  obtain ⟨n, hn'⟩ := Option.isSome_iff_exists.mp hj
  have hg : (!s.working c || (s.region c).inject.isNone || ((s.region c).node i).retired || (s.fetch c i).isNone) = false := by
    rw [working_of_running hw, hn', hn, fetch_of_instrOf hx]
    rfl
  have hd : (((s.region c).node i).firedAt == some s.now || !s.markersIn c i) = false := by
    rw [hm, beq_eq_false_iff_ne.mpr hf]
    rfl
  show execNodeRetire c i s = _
  simp only [execNodeRetire, hg, hd, hl, hwait, Bool.false_eq_true, if_false, ite_self]

end

/-! ## Flipping (R224) -/

section
variable {c i : Nat} {s : State} {im : Image}

theorem execNodeFlip_early (h : s.now < (s.node c i).setAt) : exec (.nodeFlip c i) s = .next s := by
  show execNodeFlip c i s = _
  simp [execNodeFlip, Nat.not_le.mpr h]

theorem execNodeFlip_go (hw : s.running c = true) (hj : (s.region c).inject.isSome = true) (hr : (s.node c i).retired = true)
    (hn : (s.node c i).flipped = false) (h : (s.node c i).setAt ≤ s.now) : exec (.nodeFlip c i) s = .next (s.flip c i) := by
  show execNodeFlip c i s = _
  simp [execNodeFlip, working_of_running hw, hj, hr, hn, h]

/-- The region of a node that flips: the node is empty and its slot holds the successor's word. -/
def Region.flipped (r : Region) (i : Nat) : Region :=
  { r.setNode i { retired := true, flipped := true, bound := (r.node i).bound } with
    words := match r.nextImage.bind (fun im => im.words[i]?) with
      | some w => r.words.set i w
      | none => r.words.drop i }

theorem flipped_node (r : Region) (i : Nat) : ((r.flipped i).node i).flipped = true := by
  have h : (r.flipped i).node i = { retired := true, flipped := true, bound := (r.node i).bound } := node_setNode ..
  rw [h]

theorem flipped_words (r : Region) (i : Nat) : (r.flipped i).words.find i = r.nextImage.bind (fun im => im.words[i]?) := by
  unfold Region.flipped
  cases h : r.nextImage.bind (fun im => im.words[i]?) with
  | none => simp [Tbl.find_drop]
  | some w => simp

/-- The region with the back queues of node i cleared of what has reached them. -/
def State.backCleared (s : State) (c i : Nat) (im : Image) : Region :=
  ((s.region c).clearSlots s.now i false (queuesOf im i true)).1

/-- The state in which a retired node has discarded what has reached its back queues. -/
def State.backDiscarded (s : State) (c i : Nat) (im : Image) : State :=
  (s.setRegion c (s.backCleared c i im)).strand c i ((s.region c).clearSlots s.now i false (queuesOf im i true)).2

/-- Every back queue of node i holds its marker, and the shadow can be taken. -/
def Region.mayFlip (r : Region) (now i : Nat) (im : Image) : Bool :=
  (queuesOf im i true).all (fun k => ((r.node i).queue k).marker now == some .teardown) && r.shadowIn now

/-- The state once node i has flipped; the last node of a cell brings the successor's LUTs (R63). -/
def State.flippedTo (u : State) (c i : Nat) (r : Region) : State :=
  match r.nextImage with
  | some im => if r.nodes.all (fun y => y.1 / 4 != i / 4 || y.2.flipped)
      then (u.setRegion c r).modTaskOf c (fun t => t.patch im (i / 4)) else u.setRegion c r
  | none => u.setRegion c r

theorem flippedTo_mem (u : State) (c i : Nat) (r : Region) : (u.flippedTo c i r).mem = u.mem := by
  unfold State.flippedTo
  split
  · split
    · rw [modTaskOf_mem, setRegion_mem]
    · rfl
  · rfl

theorem flippedTo_region (u : State) (c i : Nat) (r : Region) : (u.flippedTo c i r).region c = r := by
  unfold State.flippedTo
  split
  · split <;> simp
  · simp

/-- What a flip comes to: the back queues are cleared, and the node flips where it can. -/
theorem flip_eq (hi : (s.region c).img = some im) : s.flip c i =
    if !(s.backCleared c i im).mayFlip s.now i im then s.backDiscarded c i im
    else (s.backDiscarded c i im).flippedTo c i ((s.backCleared c i im).flipped i) := by
  rw [Region.mayFlip, Bool.not_and]
  unfold State.flip
  rw [hi]
  rfl

/-- The shadow, and whether it can be taken, do not hang on tokens. -/
theorem Region.queuesOnly.shadow {r r' : Region} (h : r.queuesOnly r') (now : Nat) :
    r'.shadowIn now = r.shadowIn now ∧ r'.nextImage = r.nextImage ∧ r'.words = r.words := by
  rw [h.1]
  exact ⟨rfl, rfl, rfl⟩

end

/-! ## Purge markers (R231) -/

section
variable {c i k : Nat} {s : State} {x : Instr} {im : Image}

theorem purgeHeads_lt (hh : s.purgeHeads c i = [k]) : k < 3 := by
  have h : k ∈ s.purgeHeads c i := by rw [hh]; exact List.mem_singleton_self k
  have h2 := (List.mem_filter.mp h).1
  simp only [List.mem_cons, List.not_mem_nil, or_false] at h2
  omega

/-- No purge marker waits at a slot of the node other than k. -/
theorem marker_of_purgeHeads (hh : s.purgeHeads c i = [k]) {j : Nat} (hj : j < 3) (hne : j ≠ k) :
    ((s.node c i).queue j).marker s.now ≠ some .purge := by
  intro h
  have hm : j ∈ s.purgeHeads c i := List.mem_filter.mpr ⟨by simp; omega, by simp [h]⟩
  rw [hh] at hm
  exact hne (List.mem_singleton.mp hm)

/-- A group none of whose slots has a purge marker at its head does nothing. -/
theorem purgeGroup_idle {g : List Nat} (h : ∀ j ∈ g, j ∉ s.purgeHeads c i) : s.purgeGroup c i x g = s := by
  have he : g.filter (fun j => (s.purgeHeads c i).contains j) = [] := by simpa [List.filter_eq_nil_iff] using h
  unfold State.purgeGroup
  simp [he]

/-- The groups on which purge markers act do not hold a slot whose marker the node takes alone. -/
theorem not_mem_purgeSets (ha : purgeGroups im i = [] ∨ purgeAlone x k = true) (st : NodeState) :
    ∀ g ∈ purgeSets im i x st, k ∉ g := by
  intro g hg hk
  obtain ⟨g0, h0, rfl⟩ := List.mem_map.mp (List.mem_filter.mp hg).1
  rcases ha with ha | ha
  · simp [ha] at h0
  · simpa [ha] using (List.mem_filter.mp hk).2

theorem execPurgeMarker_eq (hw : s.running c = true) (hn : (s.node c i).retired = false) (hx : s.instrOf c i = some x)
    (hi : (s.region c).img = some im) : exec (.purgeMarker c i) s =
      .next ((purgeSets im i x (s.node c i).st).foldl (fun st g => st.purgeGroup c i x g)
        (s.modRegion c (fun r => ((s.purgeHeads c i).filter (fun k =>
          !((purgeSets im i x (s.node c i).st).flatten ++ ownPurge x).contains k && !purgeWaits x (s.node c i).st k)).foldl
            (fun r k => r.pop s.now i k) r))) := by
  show execPurgeMarker c i s = _
  simp only [execPurgeMarker, hx, hi, working_of_running hw, hn]
  rfl

variable (hown : k ∉ ownPurge x) (hwait : purgeWaits x (s.node c i).st k = false) (hh : s.purgeHeads c i = [k])

/-- The queues of a node but one are as they were once that one has lost its head. -/
theorem queue_pop_ne {r : Region} {now i k j : Nat} (hk : k < 3) (hj : j < 3) (hne : j ≠ k) :
    ((r.pop now i k).node i).queue j = (r.node i).queue j := by
  obtain ⟨ret, e⟩ := pop_eq r now i k
  have hnode : (r.pop now i k).node i = (r.node i).setQueue k (((r.node i).queue k).take now) := by
    rw [e]; exact node_setNode ..
  rw [hnode, queue_setQueue_ne _ _ _ _ hk hj hne.symm]

include hh in
/-- Once the only purge marker of a node has been removed, what comes up behind it is not looked at for another slot. -/
theorem not_mem_purgeHeads_pop {j : Nat} (hne : j ≠ k) : j ∉ (s.modRegion c (fun r => r.pop s.now i k)).purgeHeads c i := by
  intro hm
  have hj : j < 3 := by
    have h2 := (List.mem_filter.mp hm).1
    simp only [List.mem_cons, List.not_mem_nil, or_false] at h2
    omega
  have h : ((((s.modRegion c (fun r => r.pop s.now i k)).node c i).queue j).marker s.now == some .purge) = true :=
    (List.mem_filter.mp hm).2
  rw [State.node, region_modRegion, queue_pop_ne (purgeHeads_lt hh) hj hne] at h
  exact marker_of_purgeHeads hh hj hne (eq_of_beq h)

/-- The queue that loses its head. -/
theorem toks_pop (r : Region) (now i k : Nat) :
    (((r.pop now i k).node i).queue k).toks = ((r.node i).queue k).toks.tail := by
  obtain ⟨ret, e⟩ := pop_eq r now i k
  have hnode : (r.pop now i k).node i = (r.node i).setQueue k (((r.node i).queue k).take now) := by
    rw [e]; exact node_setNode ..
  rw [hnode, queue_setQueue, Queue.take]
  split
  next h => rw [h]; rfl
  next h => rw [h]; rfl

section
variable (hw : s.running c = true) (hn : (s.node c i).retired = false) (hx : s.instrOf c i = some x) (hi : (s.region c).img = some im)
include hw hn hx hi hown hwait hh

/-- A purge marker that acts on no group is removed alone (R231). -/
theorem execPurgeMarker_loose (ha : purgeGroups im i = [] ∨ purgeAlone x k = true) :
    exec (.purgeMarker c i) s = .next (s.modRegion c (fun r => r.pop s.now i k)) := by
  have hsets := not_mem_purgeSets (x := x) ha (s.node c i).st
  have hk : k ∉ (purgeSets im i x (s.node c i).st).flatten ++ ownPurge x := by
    rw [List.mem_append, List.mem_flatten]
    rintro (⟨g, hg, hkg⟩ | h)
    · exact hsets g hg hkg
    · exact hown h
  have hloose : (s.purgeHeads c i).filter (fun k =>
      !((purgeSets im i x (s.node c i).st).flatten ++ ownPurge x).contains k && !purgeWaits x (s.node c i).st k) = [k] := by
    rw [hh, List.filter_cons_of_pos (by simpa [hwait] using hk), List.filter_nil]
  rw [execPurgeMarker_eq hw hn hx hi, hloose]
  refine congrArg _ (List.foldlRecOn (motive := fun st => st = s.modRegion c (fun r => r.pop s.now i k)) _ _ rfl
    fun st hst g hg => ?_)
  rw [hst]
  exact purgeGroup_idle fun j hj => not_mem_purgeHeads_pop hh fun e => hsets g hg (e ▸ hj)

omit hown hwait hw hn hx hi in
/-- A group of one slot whose marker has come passes it on where every target accepts (R231). -/
theorem purgeGroup_pass (ha : ∀ tg ∈ drivenTargets x, (s.region c).accepts s.now tg = true) : s.purgeGroup c i x [k] =
    s.modRegion c (fun r => (drivenTargets x).foldl (fun (r : Region) t => r.deliver s.now (i / 4) 1 t (.mark .purge) [] none)
      (r.pop s.now i k)) := by
  have hall : (drivenTargets x).all ((s.region c).accepts s.now) = true := List.all_eq_true.mpr ha
  unfold State.purgeGroup
  simp [hh, hall]

/-- A purge marker that acts on its slot alone is passed on (R231). -/
theorem execPurgeMarker_pass (hg : purgeGroups im i = [[k]]) (hal : purgeAlone x k = false)
    (ha : ∀ tg ∈ drivenTargets x, (s.region c).accepts s.now tg = true) : exec (.purgeMarker c i) s =
    .next ((s.modRegion c (fun r => r)).modRegion c (fun r => (drivenTargets x).foldl
      (fun (r : Region) t => r.deliver s.now (i / 4) 1 t (.mark .purge) [] none) (r.pop s.now i k))) := by
  have hsets : purgeSets im i x (s.node c i).st = [[k]] := by
    simp [purgeSets, hg, hown, hal, hwait]
  have hsame : (s.modRegion c (fun r => r)).region c = s.region c := region_modRegion ..
  have hloose : (s.purgeHeads c i).filter (fun j =>
      !(([[k]] : List (List Nat)).flatten ++ ownPurge x).contains j && !purgeWaits x (s.node c i).st j) = [] := by
    rw [hh]
    simp
  rw [execPurgeMarker_eq hw hn hx hi, hsets, hloose]
  refine congrArg _ (purgeGroup_pass (s := s.modRegion c (fun r => r)) ?_ ?_)
  · rw [← hh, State.purgeHeads, State.purgeHeads, State.node, State.node, hsame]
    rfl
  · rw [hsame]
    exact ha

end

end

/-! ## The clauses of the statement -/

/-- The injection: read entries have stopped, and gates hold nothing that has arrived (R221, R223). -/
theorem teardownInjection_spec {c : Nat} {s : State} {x : Sel} {im : Image} (hs : (s.region c).sel = some x)
    (hi : (s.region c).img = some im) (hr : s.running c = true) (h0 : (s.region c).step = 0) (hj : (s.region c).inject = none)
    (hn : Nat.max x.cycle (s.region c).storeAt < s.now) (hb : (s.region c).storesBefore x.cycle = false) :
    ∃ t : State, exec (.teardownInjection c) s = .next t ∧ (t.region c).inject = some s.now ∧ (t.region c).step = 1 ∧ t.mem = s.mem ∧
      (∀ e < 32, ∀ g ∈ ((t.region c).reads.get {} e).gate, g.pend.isSome = true ∨ s.now < g.at_) ∧
      (∀ y ∈ (t.region c).reads, y.2.done = true) ∧
      (∀ y ∈ im.reads, ∀ tg ∈ [y.t0, y.t1], (∀ e, tg ≠ .gate e) → (t.region c).gets tg (.mark .teardown) (s.now + 2)) := by
  refine ⟨_, execTeardownInjection_go hs hr h0 hj hn hb, ?_⟩
  generalize hu : s.modRegion c (fun r => r.injected s.now) = u
  have hur : u.region c = (s.region c).injected s.now := by rw [← hu, region_modRegion]
  have hnow : u.now = s.now := by rw [← hu]; rfl
  have hgates := gatesOnly_dropGates u c false
  have htok := tokensOnly_dropGates u c false
  refine ⟨?_, ?_, ?_, fun e he g hg => ?_, hgates.done (hur ▸ done_injected hi s.now), fun y hy tg ht hgt => hgates.gets hgt ?_⟩
  · rw [htok.region, hur]; rfl
  · rw [htok.region, hur]; rfl
  · rw [htok.mem, ← hu, modRegion_mem]
  · have h := gate_dropGates u c false he g hg
    rw [hnow] at h
    cases hp : g.pend with
    | some k => exact .inl rfl
    | none => exact .inr (by simpa [hp] using h)
  · rw [hur]
    exact gets_injected hi s.now hy ht hgt

/-- A flip: the back queues are cleared, and the node takes the successor's word once each has its marker and the shadow is in. -/
theorem nodeFlip_spec {c i : Nat} {s : State} {im : Image} (hw : s.running c = true) (hj : (s.region c).inject.isSome = true)
    (hr : (s.node c i).retired = true) (hn : (s.node c i).flipped = false) (hi : (s.region c).img = some im)
    (h : (s.node c i).setAt ≤ s.now) : ∃ t : State, exec (.nodeFlip c i) s = .next t ∧ t.mem = s.mem ∧
      ((∃ k ∈ queuesOf im i true, (((s.backCleared c i im).node i).queue k).marker s.now ≠ some .teardown) ∨
          (s.region c).shadowIn s.now = false → (t.node c i).flipped = false ∧ (t.region c).words = (s.region c).words) ∧
      ((∀ k ∈ queuesOf im i true, (((s.backCleared c i im).node i).queue k).marker s.now = some .teardown) →
        (s.region c).shadowIn s.now = true →
        (t.node c i).flipped = true ∧ (t.region c).words.find i = (s.region c).nextImage.bind (fun im => im.words[i]?)) := by
  have hq : (s.region c).queuesOnly (s.backCleared c i im) := queuesOnly_clearSlots ..
  obtain ⟨hshadow, hnext, hwords⟩ := hq.shadow s.now
  have hmem : (s.backDiscarded c i im).mem = s.mem := by rw [State.backDiscarded, (tokensOnly_strand ..).mem, setRegion_mem]
  have hsame : (s.backCleared c i im).sameTokens ((s.backDiscarded c i im).region c) := by
    have h := sameTokens_strand (s.setRegion c (s.backCleared c i im)) c i ((s.region c).clearSlots s.now i false (queuesOf im i true)).2
    rwa [region_setRegion] at h
  have hdw : ((s.backDiscarded c i im).region c).words = (s.backCleared c i im).words := by
    rw [State.backDiscarded, (tokensOnly_strand ..).region, region_setRegion]
  refine ⟨_, execNodeFlip_go hw hj hr hn h, ?_⟩
  rw [flip_eq hi]
  cases hm : (s.backCleared c i im).mayFlip s.now i im with
  | false =>
    refine ⟨hmem, fun _ => ⟨?_, hdw.trans hwords⟩, fun ha hs => ?_⟩
    · show (((s.backDiscarded c i im).region c).node i).flipped = false
      rw [hsame.node, hq.node]
      exact hn
    · rw [Region.mayFlip, hshadow, hs, Bool.and_true, List.all_eq_false] at hm
      obtain ⟨k, hk, hne⟩ := hm
      exact absurd (ha k hk) (by simpa using hne)
  | true =>
    obtain ⟨hall, hin⟩ := Bool.and_eq_true_iff.mp hm
    refine ⟨(flippedTo_mem ..).trans hmem, fun ha => ?_, fun _ _ => ⟨?_, ?_⟩⟩
    · rcases ha with ⟨k, hk, hne⟩ | hs
      · exact absurd (eq_of_beq (List.all_eq_true.mp hall k hk)) hne
      · rw [hshadow, hs] at hin
        cases hin
    · show ((((s.backDiscarded c i im).flippedTo c i ((s.backCleared c i im).flipped i)).region c).node i).flipped = true
      rw [flippedTo_region]
      exact flipped_node ..
    · show (((s.backDiscarded c i im).flippedTo c i ((s.backCleared c i im).flipped i)).region c).words.find i = _
      rw [flippedTo_region, flipped_words, hnext]

/-- Settles O43: each event of the wave by what it does where its guards hold. -/
theorem teardownWave : Obligations.TeardownWave := by
  refine ⟨fun c i s pops hl ⟨x, hx, hp⟩ => execOperandDiscard_refused hl hx hp,
    fun c s x im hs hi hr h0 hj => ⟨fun hst => execTeardownInjection_stores hs (storesBefore_of_mem hi hst),
      teardownInjection_spec hs hi hr h0 hj⟩,
    fun c i s x hw hj hn hx hf => ⟨fun h => ?_, fun hm hl hc => ?_⟩,
    fun c i s im r1 hw hj hr hn hi hr1 => ⟨execNodeFlip_early, fun h => hr1 ▸ nodeFlip_spec hw hj hr hn hi h⟩,
    fun c i k s x im hw hn hx hi hown hwait hh => ⟨fun ha => ?_, fun hg hal ha => ?_⟩⟩
  · rcases h with hm | hl
    · exact execNodeRetire_unmarked hm
    · exact execNodeRetire_loads hl
  · exact ⟨_, execNodeRetire_go hw hj hn hx hf hm hl hc, retire_spec hx⟩
  · refine ⟨_, execPurgeMarker_loose hown hwait hh hw hn hx hi ha, ?_, rfl⟩
    rw [State.node, region_modRegion, toks_pop]
    rfl
  · refine ⟨_, execPurgeMarker_pass hown hwait hh hw hn hx hi hg hal ha, rfl, fun tg ht => ?_⟩
    rw [region_modRegion]
    exact gets_delivers s.now (i / 4) 1 _ _ _ ht

end Sys2Proof.Machine
end

section
/-!
BLOCK BOUNDARIES (R212 to R219, R229).
-/

namespace Sys2Proof.Machine

open Sys2Proof

/-! ## Loads of the shadow (R212) -/

/-- What a load of the shadow leaves, by how far its fetch has come. -/
def Loaded.held (c : Nat) (sh : Shadow) : Loaded → State
  | .wait s1 => s1
  | .ends s1 (.error f) => s1.modRegion c (fun r => { r with shadow := some { sh with ready := true, img := none, fail := some f } })
  | .ends s1 (.ok im) => (s1.modRegion c (fun r => { r with
      shadow := some { sh with ready := true, img := some im, usable := sh.usable + 8 + Image.size im } })).keepImage c sh.blk im

/-- A fetch that ends leaves the memory. -/
theorem fetchBlock_ends_mem {s s1 : State} {c blk : Nat} {got : Except LoadFail Image} (h : s.fetchBlock c blk = .ends s1 got) :
    s1.mem = s.mem := by
  unfold State.fetchBlock at h
  dsimp only at h
  split at h
  next => injection h with h; rw [← h]
  next =>
    split at h
    next => cases h
    next =>
      split at h
      next => injection h with h; rw [← h, reached_only]; exact (walkOf_walkRuns ..).mem
      next => cases h
      next => injection h with h; rw [← h, findErrors_mem, reached_only]; exact (walkOf_walkRuns ..).mem

/-- A block cache that keeps an image changes neither memory nor regions. -/
theorem keepImage_cases (s : State) (c blk : Nat) (im : Image) :
    (s.keepImage c blk im).mem = s.mem ∧ (s.keepImage c blk im).region c = s.region c := by
  unfold State.keepImage
  split
  · split
    · exact ⟨rfl, by simp [State.region]⟩
    · exact ⟨rfl, rfl⟩
  · exact ⟨rfl, rfl⟩

section
variable {c : Nat} {s : State} {sh : Shadow} (hs : (s.region c).shadow = some sh) (hr : s.running c = true) (hn : sh.ready = false)
  (hu : sh.usable ≤ s.now)
include hs hr hn hu

/-- A `calli` to 0 fails without a fetch (R199). -/
theorem execShadowUsable_zero (hz : (s.region c).callsZero sh.blk = true) : exec (.shadowUsable c) s = .next (s.modRegion c (fun r =>
    { r with shadow := some { sh with ready := true, img := none, fail := some { code := 1, sub := 0x500 } } })) := by
  show execShadowUsable c s = _
  have hu' : ¬s.now < sh.usable := by omega
  simp only [execShadowUsable, hs, hr, hn, hz, decide_eq_false hu']
  rfl

section
variable (hz : (s.region c).callsZero sh.blk = false)
include hz

theorem execShadowUsable_fetch : exec (.shadowUsable c) s = .next ((s.fetchBlock c sh.blk).held c sh) := by
  show execShadowUsable c s = _
  have hu' : ¬s.now < sh.usable := by omega
  simp only [execShadowUsable, hs, hr, hn, hz, decide_eq_false hu']
  rcases s.fetchBlock c sh.blk with s1 | ⟨s1, f | im⟩ <;> rfl

theorem execShadowUsable_wait {s1 : State} (hg : s.fetchBlock c sh.blk = .wait s1) : exec (.shadowUsable c) s = .next s1 := by
  rw [execShadowUsable_fetch hs hr hn hu hz, hg, Loaded.held]

theorem execShadowUsable_image {s1 : State} {im : Image} (hg : s.fetchBlock c sh.blk = .ends s1 (.ok im)) :
    ∃ t : State, exec (.shadowUsable c) s = .next t ∧
      (t.region c).shadow = some { sh with ready := true, img := some im, usable := sh.usable + 8 + Image.size im } ∧ t.mem = s.mem := by
  obtain ⟨km, kr⟩ := keepImage_cases (s1.modRegion c (fun r => { r with
    shadow := some { sh with ready := true, img := some im, usable := sh.usable + 8 + Image.size im } })) c sh.blk im
  refine ⟨_, execShadowUsable_fetch hs hr hn hu hz, ?_, ?_⟩ <;> rw [hg, Loaded.held]
  · rw [kr, region_modRegion]
  · exact km.trans (fetchBlock_ends_mem hg :)

theorem execShadowUsable_failure {s1 : State} {f : LoadFail} (hg : s.fetchBlock c sh.blk = .ends s1 (.error f)) :
    ∃ t : State, exec (.shadowUsable c) s = .next t ∧
      (t.region c).shadow = some { sh with ready := true, img := none, fail := some f } ∧ t.mem = s.mem :=
  ⟨_, execShadowUsable_fetch hs hr hn hu hz, by rw [hg, Loaded.held, region_modRegion],
    by rw [hg, Loaded.held]; exact (fetchBlock_ends_mem hg :)⟩

end
end

/-! ## Await entries (R217) -/

theorem gets_readReg (r : Region) (now e : Nat) (x : ReadEntry) (v : Word) {tg : Target} (ht : tg ∈ [x.t0, x.t1])
    (hg : ∀ g, tg ≠ .gate g) : (r.readReg now e x v).gets tg (mkPkt .i64 [v.toNat]) (now + 2) := by
  have h := gets_deliverBoth r now x (mkPkt .i64 [v.toNat]) tg ht
  cases tg with
  | gate g => exact absurd rfl (hg g)
  | _ => exact h

section
variable {c e q : Nat} {s : State} {im : Image} {x : ReadEntry} (hi : (s.region c).img = some im) (hx : im.reads[e]? = some x)
  (hq : ((s.region c).reads.get {} e).waits = some q) (hr : s.running c = true) (hj : (s.region c).inject = none)
  (h0 : (s.region c).step = 0) (hd : ((s.region c).reads.get {} e).done = false)
include hi hx hq

theorem execAwaitRead_pending (h : ∃ p ∈ (s.taskOf c).pends, p.cmd = q) : exec (.awaitRead c e) s = .next s := by
  show execAwaitRead c e s = _
  have hp : (s.taskOf c).pends.all (fun p => p.cmd != q) = false := by
    obtain ⟨p, hp, rfl⟩ := h
    exact List.all_eq_false.mpr ⟨p, hp, by simp⟩
  simp [execAwaitRead, hi, hx, hq, hp]

include hr hj h0 hd

theorem execAwaitRead_landed (h : ∀ p ∈ (s.taskOf c).pends, p.cmd ≠ q) :
    exec (.awaitRead c e) s = .next (s.modRegion c (fun r => r.readReg s.now e x ((s.taskOf c).reg x.reg.toNat))) := by
  show execAwaitRead c e s = _
  have hp : (s.taskOf c).pends.all (fun p => p.cmd != q) = true := List.all_eq_true.mpr (fun p hp => by simp [h p hp])
  simp [execAwaitRead, hi, hx, hq, hp, working_of_running hr, hj, h0, hd]

end

theorem done_readReg (r : Region) (now e : Nat) (x : ReadEntry) (v : Word) : ((r.readReg now e x v).reads.get {} e).done = true := by
  rw [Region.readReg, Tbl.get_set]

/-! ## BUDGET (R229) -/

/-- A trap's record does not depend on whether BUDGET has expired. -/
theorem record_expired (s : State) (c src code sub : Nat) (a b cc : Word) (x : Bool) :
    (s.modRegion c (fun r => { r with expired := x })).record c src code sub a b cc = s.record c src code sub a b cc := by
  simp only [State.record, State.stepOf, State.blockOf, State.restores, region_modRegion, taskOf_modRegion, taskIdOf_modRegion]
  rfl

section
variable {c : Nat} {s : State} (he : (s.region c).expired = true) (hw : s.working c = true)
include he hw

theorem execBudgetExpiry_changed (hb : (s.taskOf c).budget ≠ 0) :
    exec (.budgetExpiry c) s = .next (s.modRegion c (fun r => { r with expired := false })) := by
  show execBudgetExpiry c s = _
  simp only [execBudgetExpiry, he, hw, if_neg hb]
  rfl

theorem execBudgetExpiry_spent (hb : (s.taskOf c).budget = 0) : exec (.budgetExpiry c) s =
    .next ((s.modRegion c (fun r => { r with expired := false })).raise c (s.record c (srcSeq c) 8 0 0 0 0)) := by
  show execBudgetExpiry c s = _
  simp [execBudgetExpiry, he, hw, hb, record_expired]

end

/-! ## What a cycle removes (R24, R28, R219, R223) -/

theorem tokensOnly_ite {s t : State} {c : Nat} (h : s.TokensOnly c t) (b : Prop) [Decidable b] : s.TokensOnly c (if b then t else s) := by
  split
  · exact h
  · exact .refl c s

theorem tokensOnly_pop (s : State) (c i slot : Nat) : s.TokensOnly c (s.modRegion c (fun r => r.pop s.now i slot)) :=
  tokensOnly_modRegion (Region.sameBut.strand (sameBut_pop ..))

theorem tokensOnly_dropEosAt (s : State) (c i slot : Nat) : s.TokensOnly c (s.dropEosAt c i slot) :=
  tokensOnly_ite ((tokensOnly_pop s c i slot).trans (tokensOnly_strand ..)) _

theorem tokensOnly_dropEos (s : State) (c : Nat) : s.TokensOnly c (s.dropEos c) := by
  unfold State.dropEos
  refine tokensOnly_foldl _ (fun st x => ?_) _ _
  exact ((tokensOnly_dropEosAt st c x.1 0).trans (tokensOnly_dropEosAt _ c x.1 1)).trans (tokensOnly_dropEosAt _ c x.1 2)

theorem tokensOnly_absorbWrites (s : State) (c : Nat) : s.TokensOnly c (s.absorbWrites c) := by
  unfold State.absorbWrites
  refine tokensOnly_foldl _ (fun st x => State.TokensOnly.trans ?_ (tokensOnly_strand ..)) _ _
  exact tokensOnly_modRegion rfl

theorem tokensOnly_dropLateGates (s : State) (c : Nat) : s.TokensOnly c (s.dropLateGates c) :=
  tokensOnly_ite (tokensOnly_dropGates s c false) _

theorem sameBut_grantOne (r : Region) (now : Nat) (x : Nat × Nat) : r.sameBut (r.grantOne now x) := by
  unfold Region.grantOne
  dsimp only
  split
  · exact .refl r
  · exact sameBut_setNode ..

theorem tokensOnly_grantPermits (s : State) (c : Nat) : s.TokensOnly c (s.grantPermits c) := by
  unfold State.grantPermits
  exact tokensOnly_modRegion (Region.sameBut.strand (sameBut_foldl _ (fun r x => sameBut_grantOne r s.now x) _ _))

/-! ## The tick (R29, R229) -/

/-- BUDGET expires in this cycle. -/
theorem region_spend (s : State) (c : Nat) :
    (s.spend c).region c = { s.region c with expired := (s.region c).expired || (s.taskOf c).budget == 1 } := by
  unfold State.spend
  dsimp only
  split
  next h => simp [h]
  next h =>
    split
    next h1 => simp [region_modRegion, h1]
    next h1 => rw [region_modTaskOf, beq_eq_false_iff_ne.mpr h1, Bool.or_false]

theorem cluster_spend (s : State) (c : Nat) : (s.spend c).cluster c = { s.cluster c with region := (s.spend c).region c } := by
  unfold State.spend
  dsimp only
  split
  · rfl
  · split
    · simp [region_modRegion]
    · simp; rfl

theorem mem_spend (s : State) (c : Nat) : (s.spend c).mem = s.mem := by
  unfold State.spend
  dsimp only
  split
  · rfl
  · split
    · exact modTaskOf_mem ..
    · exact modTaskOf_mem ..

theorem budget_spend {s : State} {c : Nat} (h : (s.cluster c).task.isSome = true) :
    ((s.spend c).taskOf c).budget = if (s.taskOf c).budget = 0 then 0 else (s.taskOf c).budget - 1 := by
  unfold State.spend
  dsimp only
  split
  next h0 => exact h0
  next h0 =>
    split
    · rw [taskOf_modRegion, taskOf_modTaskOf h]
    · rw [taskOf_modTaskOf h]

theorem taskOf_modCluster {s : State} {c : Nat} {f : Cluster → Cluster} (h : (f (s.cluster c)).task = (s.cluster c).task) :
    (s.modCluster c f).taskOf c = s.taskOf c := by
  rw [State.taskOf, State.taskIdOf, cluster_modCluster, h]
  rfl

/-- What the tick does first: MODC advances and BUDGET falls. -/
def State.ticked (s : State) (c : Nat) : State :=
  ((s.modCluster c (fun k => { k with tick := some s.now })).modRegion c (fun r => r.cycle s.now)).spend c

theorem execModcAdvance_tick {s : State} {c : Nat} (hr : s.running c = true) (ht : (s.cluster c).tick ≠ some s.now) :
    ∃ t : State, exec (.modcAdvance c) s = .next t ∧ (s.ticked c).TokensOnly c t := by
  refine ⟨_, ?_, (((tokensOnly_dropEos _ c).trans (tokensOnly_absorbWrites _ c)).trans (tokensOnly_dropLateGates _ c)).trans
    (tokensOnly_grantPermits _ c)⟩
  show execModcAdvance c s = _
  simp only [execModcAdvance, working_of_running hr, beq_eq_false_iff_ne.mpr ht]
  rfl

section
variable (s : State) (c : Nat)

theorem mem_ticked : (s.ticked c).mem = s.mem := mem_spend ..

theorem region_ticked : (s.ticked c).region c =
    { (s.region c).cycle s.now with expired := (s.region c).expired || (s.taskOf c).budget == 1 } := by
  rw [State.ticked, region_spend, region_modRegion, taskOf_modRegion, taskOf_modCluster rfl, State.region, cluster_modCluster]
  rfl

theorem tick_ticked : ((s.ticked c).cluster c).tick = some s.now := by
  rw [State.ticked, cluster_spend, cluster_modRegion, cluster_modCluster]

theorem budget_ticked (h : (s.cluster c).task.isSome = true) :
    ((s.ticked c).taskOf c).budget = if (s.taskOf c).budget = 0 then 0 else (s.taskOf c).budget - 1 := by
  rw [State.ticked, budget_spend, taskOf_modRegion, taskOf_modCluster rfl]
  rw [cluster_modRegion, cluster_modCluster]
  exact h
end

/-! ## The start of a block (R213, R215) -/

/-- What stands at a target other than a gate does not depend on the read entries. -/
theorem gets_reads {r : Region} {l : Tbl ReadRun} {tg : Target} (hg : ∀ g, tg ≠ .gate g) {tok : Token} {at_ : Nat} (h : r.gets tg tok at_) :
    { r with reads := l }.gets tg tok at_ := by
  cases tg with
  | gate g => exact absurd rfl (hg g)
  | _ => exact h

theorem gets_readReg_keeps {r : Region} {now e : Nat} {x : ReadEntry} {v : Word} {tg : Target} (hg : ∀ g, tg ≠ .gate g) {tok : Token} {at_ : Nat}
    (h : r.gets tg tok at_) : (r.readReg now e x v).gets tg tok at_ := gets_reads hg (gets_put (gets_put h))

theorem sameBut_readReg (r : Region) (now e : Nat) (x : ReadEntry) (v : Word) : r.sameBut (r.readReg now e x v) :=
  Region.sameBut.trans (sameBut_deliverBoth r now x _) rfl

/-- What a read entry does at the start of a block: nothing, a delivery of its register, or a wait for a write. -/
theorem startRead_cases (s : State) (c e : Nat) (x : ReadEntry) : s.startRead c e x = s ∨
    s.startRead c e x = s.modRegion c (fun r => r.readReg s.now e x ((s.taskOf c).reg x.reg.toNat)) ∨
    ∃ q, s.startRead c e x = s.modRegion c (fun r => { r with reads := r.reads.set e { r.reads.get {} e with waits := some q } }) := by
  unfold State.startRead
  dsimp only
  split
  · exact .inr (.inl rfl)
  · split
    · exact .inr (.inl rfl)
    · exact .inr (.inr ⟨_, rfl⟩)
  · exact .inl rfl

theorem startRead_plain {s : State} {c e : Nat} {x : ReadEntry} (h : x.mode = .plain) :
    s.startRead c e x = s.modRegion c (fun r => r.readReg s.now e x ((s.taskOf c).reg x.reg.toNat)) := by
  simp [State.startRead, h]

theorem tokensOnly_startRead (s : State) (c e : Nat) (x : ReadEntry) : s.TokensOnly c (s.startRead c e x) := by
  rcases startRead_cases s c e x with h | h | ⟨q, h⟩ <;> rw [h]
  · exact .refl c s
  · exact tokensOnly_modRegion (sameBut_readReg ..).strand
  · exact tokensOnly_modRegion rfl

theorem gets_startRead {s : State} {c e : Nat} {x : ReadEntry} {tg : Target} (hg : ∀ g, tg ≠ .gate g) {tok : Token} {at_ : Nat}
    (h : (s.region c).gets tg tok at_) : ((s.startRead c e x).region c).gets tg tok at_ := by
  rcases startRead_cases s c e x with k | k | ⟨q, k⟩ <;> rw [k]
  · exact h
  · rw [region_modRegion]; exact gets_readReg_keeps hg h
  · rw [region_modRegion]; exact gets_reads hg h

/-- The read entries of a block start, the lower first. -/
def State.startReads (s : State) (c : Nat) (l : List (Nat × ReadEntry)) : State := l.foldl (fun st x => st.startRead c x.1 x.2) s

theorem tokensOnly_startReads (s : State) (c : Nat) (l : List (Nat × ReadEntry)) : s.TokensOnly c (s.startReads c l) :=
  tokensOnly_foldl (fun (st : State) x => st.startRead c x.1 x.2) (fun st x => tokensOnly_startRead st c x.1 x.2) l s

/-- A plain entry delivers its register, whatever the entries around it do. -/
theorem gets_startReads (s : State) (c : Nat) {l : List (Nat × ReadEntry)} {e : Nat} {x : ReadEntry} (hx : (e, x) ∈ l)
    (hm : x.mode = .plain) {tg : Target} (ht : tg ∈ [x.t0, x.t1]) (hg : ∀ g, tg ≠ .gate g) :
    ((s.startReads c l).region c).gets tg (mkPkt .i64 [((s.taskOf c).reg x.reg.toNat).toNat]) (s.now + 2) := by
  obtain ⟨l1, l2, rfl⟩ := List.append_of_mem hx
  have h1 : s.TokensOnly c (s.startReads c l1) := tokensOnly_startReads s c l1
  rw [State.startReads, List.foldl_append, List.foldl_cons]
  refine List.foldlRecOn (motive := fun (st : State) => (st.region c).gets tg _ _) l2 _ ?_ fun st h y _ => gets_startRead hg h
  rw [startRead_plain hm, region_modRegion]
  have hv : ((s.startReads c l1).taskOf c).reg x.reg.toNat = (s.taskOf c).reg x.reg.toNat := by
    rw [h1.taskOf]; rfl
  rw [← hv, ← h1.now]
  exact gets_readReg _ _ _ _ _ ht hg

theorem regs_patches (im : Image) (l : List Nat) (t : Task) : (l.foldl (fun x cell => x.patch im cell) t).regs = t.regs :=
  List.foldlRecOn (motive := fun x : Task => x.regs = t.regs) l _ rfl fun _ h _ _ => h

/-- The state at a block start before its entries deliver. -/
def State.armed (s : State) (c : Nat) (sh : Shadow) (im : Image) : State :=
  ((s.modRegion c (fun r => r.armed s.now sh.blk im (s.finalBound (s.taskIdOf c)))).modCluster c (fun k =>
    { k with eq := k.eq.map (fun q => if q.task = s.taskIdOf c then { q with age := q.age + 1 } else q) })).modTaskOf c (fun x =>
      { (List.range Instr.nCells).foldl (fun x cell => x.patch im cell) x with
        supb := im.priv, bound := s.finalBound (s.taskIdOf c)
        groups := ((List.range Instr.nCells).foldl (fun x cell => x.patch im cell) x).groups.mapV (fun _ g => { g with streams := [] }) })

theorem startBlock_eq (s : State) (c : Nat) (sh : Shadow) (im : Image) : s.startBlock c sh im =
    (match imagePreload im sh.blk with
      | some a => ((s.armed c sh im).startReads c ((List.range im.reads.length).zip im.reads)).startLoad c a
      | none => (s.armed c sh im).startReads c ((List.range im.reads.length).zip im.reads)) := rfl

section
variable (s : State) (c : Nat) (sh : Shadow) (im : Image)

theorem region_armed : (s.armed c sh im).region c = (s.region c).armed s.now sh.blk im (s.finalBound (s.taskIdOf c)) := by
  rw [State.armed, region_modTaskOf, State.region, cluster_modCluster, cluster_modRegion]

theorem mem_armed : (s.armed c sh im).mem = s.mem := modTaskOf_mem ..

theorem now_armed : (s.armed c sh im).now = s.now := modTaskOf_now ..

theorem taskOf_armed (ht : (s.cluster c).task.isSome = true) : ((s.armed c sh im).taskOf c).supb = im.priv ∧
    ∀ n, ((s.armed c sh im).taskOf c).reg n = (s.taskOf c).reg n := by
  rw [State.armed, taskOf_modTaskOf (by rw [cluster_modCluster, cluster_modRegion]; exact ht), taskOf_modCluster rfl, taskOf_modRegion]
  refine ⟨rfl, fun n => ?_⟩
  simp only [Task.reg, regs_patches]

end

/-- The load of a shadow changes the shadow and requests alone. -/
structure State.ShadowOnly (c : Nat) (s t : State) : Prop where
  mem : t.mem = s.mem
  taskOf : t.taskOf c = s.taskOf c
  region : t.region c = { s.region c with shadow := (t.region c).shadow }

theorem shadowOnly_startLoad (s : State) (c : Nat) (a : Word) : s.ShadowOnly c (s.startLoad c a) := by
  unfold State.startLoad
  dsimp only
  refine ⟨?_, ?_, ?_⟩
  · rw [reached_only]; rfl
  · rw [taskOf_modRegion, reached_only]; rfl
  · rw [region_modRegion, reached_only]; rfl

theorem Region.gets_shadow {r : Region} {x : Option Shadow} {tg : Target} {tok : Token} {at_ : Nat} (h : r.gets tg tok at_) :
    { r with shadow := x }.gets tg tok at_ := by
  cases tg <;> exact h

theorem shadowOnly_startBlock (s : State) (c : Nat) (sh : Shadow) (im : Image) :
    ((s.armed c sh im).startReads c ((List.range im.reads.length).zip im.reads)).ShadowOnly c (s.startBlock c sh im) := by
  rw [startBlock_eq]
  split
  · exact shadowOnly_startLoad ..
  · exact ⟨rfl, rfl, rfl⟩

theorem execBlockStart_starts {s : State} {c : Nat} {sh : Shadow} {im : Image} (hs : (s.region c).shadow = some sh) (hr : s.running c = true)
    (h10 : (s.region c).step = 10) (hu : (s.region c).until_ < s.now) (hd : sh.ready = true) (hus : sh.usable ≤ s.now) (hf : sh.fail = none)
    (hi : sh.img = some im) (hp : s.portFaults c im = none) : exec (.blockStart c) s = .next (s.startBlock c sh im) := by
  show execBlockStart c s = _
  have h1 : ¬s.now ≤ (s.region c).until_ := by omega
  have h2 : ¬s.now < sh.usable := by omega
  simp only [execBlockStart, hs, hr, h10, hd, hf, hi, hp, decide_eq_false h1, decide_eq_false h2]
  rfl

theorem mem_zip_range {α : Type} {l : List α} {e : Nat} {x : α} (h : l[e]? = some x) : (e, x) ∈ (List.range l.length).zip l := by
  obtain ⟨he, -⟩ := List.getElem?_eq_some_iff.mp h
  exact List.mem_of_getElem? (i := e) (List.getElem?_zip_eq_some.mpr ⟨by simp [he], h⟩)

/-- What a block start leaves: the region runs the image of the shadow, the registers are as they were. -/
theorem startBlock_leaves {s : State} {c : Nat} (sh : Shadow) (im : Image) (ht : (s.cluster c).task.isSome = true) :
    let t := s.startBlock c sh im
    (t.region c).img = some im ∧ (t.region c).blk = sh.blk ∧ (t.region c).step = 0 ∧ (t.region c).sel = none ∧
      (t.region c).words = (List.range im.nins).zip im.words ∧ (t.taskOf c).supb = im.priv ∧ t.mem = s.mem := by
  have h1 := tokensOnly_startReads (s.armed c sh im) c ((List.range im.reads.length).zip im.reads)
  have h2 := shadowOnly_startBlock s c sh im
  have hR := h1.region
  rw [region_armed] at hR
  dsimp only
  rw [h2.region, h2.taskOf, h2.mem, h1.mem, h1.taskOf, hR]
  exact ⟨rfl, rfl, rfl, rfl, rfl, (taskOf_armed s c sh im ht).1, mem_armed s c sh im⟩

theorem gets_startBlock {s : State} {c : Nat} (sh : Shadow) {im : Image} (ht : (s.cluster c).task.isSome = true) {e : Nat} {x : ReadEntry}
    (hx : im.reads[e]? = some x) (hm : x.mode = .plain) {tg : Target} (hg : tg ∈ [x.t0, x.t1]) (hn : ∀ g, tg ≠ .gate g) :
    ((s.startBlock c sh im).region c).gets tg (mkPkt .i64 [((s.taskOf c).reg x.reg.toNat).toNat]) (s.now + 2) := by
  rw [(shadowOnly_startBlock s c sh im).region, ← (taskOf_armed s c sh im ht).2, ← now_armed s c sh im]
  exact Region.gets_shadow (gets_startReads _ c (mem_zip_range hx) hm hg hn)

/-! ## Steps of a boundary (R213) -/

theorem execBlockBoundary_steps {s : State} {c : Nat} (h : (s.region c).step ≠ 0) :
    exec (.blockBoundary c) s = .next (State.boundary c 12 s) := by
  show execBlockBoundary c s = _
  rw [execBlockBoundary, if_neg h]

theorem boundary_succ {s : State} {c : Nat} (hr : s.running c = true) (he : (s.taskOf c).ending = false) (n : Nat) :
    State.boundary c (n + 1) s = State.boundary c n (s.boundaryStep c) := by
  simp [State.boundary, hr, he]

theorem boundary_ended {s : State} {c : Nat} (he : (s.taskOf c).ending = true) (n : Nat) : State.boundary c n s = s := by
  cases n <;> simp [State.boundary, he]

/-- A boundary whose step waits stays where it is. -/
theorem boundary_waits {s : State} {c : Nat} (h : s.boundaryStep c = s) (n : Nat) : State.boundary c n s = s := by
  induction n with
  | zero => rfl
  | succ n ih => simp [State.boundary, h, ih]

/-- All that steps 4 to 7 change where no register result is due: how far the boundary is. -/
structure State.StepsOnly (c : Nat) (s t : State) : Prop where
  mem : t.mem = s.mem
  now : t.now = s.now
  here : t.cluster c = { s.cluster c with region := t.region c }
  region : t.region c = { s.region c with step := (t.region c).step, until_ := (t.region c).until_, before5 := (t.region c).before5 }
  task : t.taskOf c = s.taskOf c

theorem State.StepsOnly.trans {c : Nat} {s t u : State} (h : s.StepsOnly c t) (k : t.StepsOnly c u) : s.StepsOnly c u where
  mem := k.mem.trans h.mem
  now := k.now.trans h.now
  here := by rw [k.here, h.here]
  region := by rw [k.region, h.region]
  task := k.task.trans h.task

theorem stepsOnly_modRegion {s : State} {c : Nat} {f : Region → Region} (hf : f (s.region c) = { s.region c with
    step := (f (s.region c)).step, until_ := (f (s.region c)).until_, before5 := (f (s.region c)).before5 }) :
    s.StepsOnly c (s.modRegion c f) where
  mem := rfl
  now := rfl
  here := by rw [region_modRegion, cluster_modRegion]
  region := by rw [region_modRegion]; exact hf
  task := taskOf_modRegion ..

/-- A region runs by what a boundary leaves of its cluster. -/
theorem running_congr {s t : State} {c : Nat} (hn : t.now = s.now) (hk : t.cluster c = { s.cluster c with region := t.region c })
    (hf : (t.region c).frozen = (s.region c).frozen) (hb : (t.region c).stoppedBy = (s.region c).stoppedBy) : t.running c = s.running c := by
  unfold State.running
  rw [hn, hk]
  dsimp only
  rw [hf, hb]
  rfl

theorem State.StepsOnly.running {c : Nat} {s t : State} (h : s.StepsOnly c t) : t.running c = s.running c :=
  running_congr h.now h.here (by rw [h.region]) (by rw [h.region])

section
variable {c : Nat} {s t : State} (h : s.StepsOnly c t)
include h

theorem State.StepsOnly.img : (t.region c).img = (s.region c).img := by rw [h.region]

theorem State.StepsOnly.sel : (t.region c).sel = (s.region c).sel := by rw [h.region]

theorem State.StepsOnly.shadow : (t.region c).shadow = (s.region c).shadow := by rw [h.region]

/-- Steps follow one another where the region runs and its task has not ended. -/
theorem State.StepsOnly.boundary (hr : s.running c = true) (he : (s.taskOf c).ending = false) (n : Nat) :
    State.boundary c (n + 1) t = State.boundary c n (t.boundaryStep c) :=
  boundary_succ (h.running.trans hr) (by rw [h.task]; exact he) n

end

/-! ## Write entries that land (R219) -/

/-- All that the landing of write entries changes. -/
structure State.LandsOnly (c : Nat) (s t : State) : Prop where
  mem : t.mem = s.mem
  now : t.now = s.now
  here : t.cluster c = { s.cluster c with region := t.region c }
  region : t.region c = { s.region c with emptyWrite := (t.region c).emptyWrite }
  task : t.taskOf c = { s.taskOf c with regs := (t.taskOf c).regs, nowr := (t.taskOf c).nowr }

theorem State.LandsOnly.refl (c : Nat) (s : State) : s.LandsOnly c s := ⟨rfl, rfl, rfl, rfl, rfl⟩

theorem State.LandsOnly.trans {c : Nat} {s t u : State} (h : s.LandsOnly c t) (k : t.LandsOnly c u) : s.LandsOnly c u where
  mem := k.mem.trans h.mem
  now := k.now.trans h.now
  here := by rw [k.here, h.here]
  region := by rw [k.region, h.region]
  task := by rw [k.task, h.task]

section
variable {c : Nat} {s t : State} (h : s.LandsOnly c t)
include h

theorem State.LandsOnly.running : t.running c = s.running c := running_congr h.now h.here (by rw [h.region]) (by rw [h.region])

theorem State.LandsOnly.writes : (t.region c).writes = (s.region c).writes := by rw [h.region]

theorem State.LandsOnly.clusterTask : (t.cluster c).task = (s.cluster c).task := by rw [h.here]

end

/-- What a change of a region's task keeps of it. -/
theorem taskOf_modTaskOf_induction {P : Task → Prop} (s : State) (c : Nat) (g : Task → Task) (h0 : P (s.taskOf c)) (h1 : P (g (s.taskOf c))) :
    P ((s.modTaskOf c g).taskOf c) := by
  rw [State.taskOf, taskIdOf_modTaskOf]
  exact task_modTaskOf_induction s c _ g h0 h1

theorem landsOnly_modTaskOf {s : State} {c : Nat} {g : Task → Task} (hg : ∀ t, g t = { t with regs := (g t).regs, nowr := (g t).nowr }) :
    s.LandsOnly c (s.modTaskOf c g) where
  mem := modTaskOf_mem ..
  now := modTaskOf_now ..
  here := by rw [region_modTaskOf, cluster_modTaskOf]; rfl
  region := by rw [region_modTaskOf]
  task := taskOf_modTaskOf_induction (P := fun t => t = { s.taskOf c with regs := t.regs, nowr := t.nowr }) s c g rfl (hg _)

/-- An expected write that is empty (R219). -/
def State.nowrite (s : State) (c : Nat) : State :=
  ((s.modTaskOf c (fun t => { t with nowr := true })).modRegion c (fun r => { r with emptyWrite := true })).touch 1 c 4

theorem landsOnly_nowrite (s : State) (c : Nat) : s.LandsOnly c (s.nowrite c) := by
  refine .trans (landsOnly_modTaskOf (g := fun t => { t with nowr := true }) (fun _ => rfl)) ?_
  unfold State.nowrite
  generalize s.modTaskOf c _ = u
  refine ⟨by simp, by simp, ?_, ?_, ?_⟩
  · rw [region_touch, cluster_touch, region_modRegion, cluster_modRegion]
  · rw [region_touch, region_modRegion]
  · rw [taskOf_touch, taskOf_modRegion]

theorem Task.setReg_only (t : Task) (n : Nat) (v : Word) : t.setReg n v = { t with regs := (t.setReg n v).regs, nowr := (t.setReg n v).nowr } := by
  unfold Task.setReg
  split <;> rfl

/-- What a register write entry does in landing: nothing, its value, or NOWR. -/
theorem landWrite_cases (s : State) (c : Nat) (x : Nat × WriteEntry) : s.landWrite c x = s ∨
    (∃ v, s.landWrite c x = s.modTaskOf c (fun k => k.setReg x.2.reg.toNat v)) ∨ s.landWrite c x = s.nowrite c := by
  unfold State.landWrite
  split
  · exact .inl rfl
  · split
    · split
      · exact .inl rfl
      · exact .inr (.inl ⟨_, rfl⟩)
    · split
      · exact .inl rfl
      · exact .inr (.inr rfl)

theorem landsOnly_landWrite (s : State) (c : Nat) (x : Nat × WriteEntry) : s.LandsOnly c (s.landWrite c x) := by
  rcases landWrite_cases s c x with h | ⟨v, h⟩ | h <;> rw [h]
  · exact .refl c s
  · exact landsOnly_modTaskOf (fun t => t.setReg_only _ _)
  · exact landsOnly_nowrite s c

/-- The write entries of a list land, the first first. -/
def State.landWrites (s : State) (c : Nat) (l : List (Nat × WriteEntry)) : State := l.foldl (fun st x => st.landWrite c x) s

theorem landsOnly_landWrites (s : State) (c : Nat) (l : List (Nat × WriteEntry)) : s.LandsOnly c (s.landWrites c l) :=
  List.foldlRecOn (motive := fun st => s.LandsOnly c st) l _ (.refl c s) fun st h x _ => h.trans (landsOnly_landWrite st c x)

theorem reg_setReg_ne (t : Task) {n m : Nat} (v : Word) (h : n ≠ m) : (t.setReg n v).reg m = t.reg m := by
  unfold Task.setReg
  split
  · rfl
  · rw [Task.reg, Task.reg, Tbl.get_set_ne _ _ _ h]

theorem taskOf_nowrite {P : Task → Prop} (s : State) (c : Nat) (h0 : P (s.taskOf c)) (h1 : P { s.taskOf c with nowr := true }) :
    P ((s.nowrite c).taskOf c) := by
  rw [State.nowrite, taskOf_touch, taskOf_modRegion]
  exact taskOf_modTaskOf_induction s c _ h0 h1

/-- A register that no entry of a list names stays as it is. -/
theorem reg_landWrites_ne (s : State) (c n : Nat) (l : List (Nat × WriteEntry)) (h : ∀ w ∈ l, w.2.reg.toNat ≠ n) :
    ((s.landWrites c l).taskOf c).reg n = (s.taskOf c).reg n := by
  refine List.foldlRecOn (motive := fun (st : State) => (st.taskOf c).reg n = (s.taskOf c).reg n) l _ rfl fun st ih w hw => ?_
  rcases landWrite_cases st c w with e | ⟨v, e⟩ | e <;> rw [e]
  · exact ih
  · exact taskOf_modTaskOf_induction (P := fun t => t.reg n = _) st c _ ih ((reg_setReg_ne _ v (h w hw)).trans ih)
  · exact taskOf_nowrite (P := fun t => t.reg n = _) st c ih ih

/-- NOWR stays set as entries land. -/
theorem nowr_landWrites {s : State} {c : Nat} (l : List (Nat × WriteEntry)) (h : (s.taskOf c).nowr = true) :
    ((s.landWrites c l).taskOf c).nowr = true := by
  refine List.foldlRecOn (motive := fun (st : State) => (st.taskOf c).nowr = true) l _ h fun st ih w _ => ?_
  rcases landWrite_cases st c w with e | ⟨v, e⟩ | e <;> rw [e]
  · exact ih
  · refine taskOf_modTaskOf_induction (P := fun t => t.nowr = true) st c _ ih ?_
    unfold Task.setReg
    split <;> exact ih
  · exact taskOf_nowrite (P := fun t => t.nowr = true) st c ih rfl

theorem landed_eq (t : Token) : landed t = low64 t := by cases t <;> rfl

theorem landWrite_clean {s : State} {c : Nat} {w : Nat × WriteEntry} {tok : Token} (hr : w.2.reg ≠ 0)
    (hl : ((s.region c).writes.get {} w.1).last = some tok) (ho : tok.origin = none) :
    s.landWrite c w = s.modTaskOf c (fun k => k.setReg w.2.reg.toNat (low64 tok)) := by
  simp only [State.landWrite, if_neg hr, hl, ho, landed_eq]
  rfl

theorem landWrite_empty {s : State} {c : Nat} {w : Nat × WriteEntry} (hr : w.2.reg ≠ 0)
    (hl : ((s.region c).writes.get {} w.1).last = none) (ho : w.2.opt = false) : s.landWrite c w = s.nowrite c := by
  simp only [State.landWrite, if_neg hr, hl, ho]
  rfl

theorem landWrites_split (s : State) (c : Nat) (l1 l2 : List (Nat × WriteEntry)) (w : Nat × WriteEntry) :
    s.landWrites c (l1 ++ w :: l2) = ((s.landWrites c l1).landWrite c w).landWrites c l2 := by
  rw [State.landWrites, List.foldl_append]
  rfl

/-- Of entries that name different registers, each leaves the value it holds. -/
theorem reg_landWrites {s : State} {c : Nat} (ht : (s.cluster c).task.isSome = true) {l : List (Nat × WriteEntry)}
    (hn : ((l.map (fun w => w.2.reg)).filter (· ≠ 0)).Nodup) {w : Nat × WriteEntry} (hw : w ∈ l) {tok : Token} (hr : w.2.reg ≠ 0)
    (hl : ((s.region c).writes.get {} w.1).last = some tok) (ho : tok.origin = none) :
    ((s.landWrites c l).taskOf c).reg w.2.reg.toNat = low64 tok := by
  obtain ⟨l1, l2, rfl⟩ := List.append_of_mem hw
  have h1 := landsOnly_landWrites s c l1
  have hne : ∀ y ∈ l2, y.2.reg.toNat ≠ w.2.reg.toNat := by
    intro y hy e
    have e' : y.2.reg = w.2.reg := BitVec.eq_of_toNat_eq e
    rw [List.map_append, List.map_cons, List.filter_append, List.filter_cons_of_pos (by simpa using hr)] at hn
    refine (List.nodup_cons.mp (List.nodup_append.mp hn).2.1).1 (List.mem_filter.mpr ⟨?_, by simpa using hr⟩)
    exact e' ▸ List.mem_map_of_mem hy
  rw [landWrites_split, reg_landWrites_ne _ _ _ _ hne, landWrite_clean hr (h1.writes ▸ hl) ho,
    taskOf_modTaskOf (h1.clusterTask ▸ ht), reg_setReg _ _ _ (fun e => hr (BitVec.eq_of_toNat_eq e))]

theorem nowr_landWrites_empty {s : State} {c : Nat} (ht : (s.cluster c).task.isSome = true) {l : List (Nat × WriteEntry)}
    {w : Nat × WriteEntry} (hw : w ∈ l) (hr : w.2.reg ≠ 0) (hl : ((s.region c).writes.get {} w.1).last = none) (ho : w.2.opt = false) :
    ((s.landWrites c l).taskOf c).nowr = true := by
  obtain ⟨l1, l2, rfl⟩ := List.append_of_mem hw
  have h1 := landsOnly_landWrites s c l1
  rw [landWrites_split, landWrite_empty hr (h1.writes ▸ hl) ho]
  refine nowr_landWrites l2 ?_
  rw [State.nowrite, taskOf_touch, taskOf_modRegion, taskOf_modTaskOf (h1.clusterTask ▸ ht)]

/-- An entry that raises no poison holds a clean value, or is for `g0`. -/
theorem origin_of_writePoison {s : State} {c : Nat} {w : Nat × WriteEntry} {tok : Token} (h : s.writePoison c w = none) (hr : w.2.reg ≠ 0)
    (hl : ((s.region c).writes.get {} w.1).last = some tok) : tok.origin = none := by
  unfold State.writePoison at h
  rw [hl, Option.bind_some] at h
  cases ho : tok.origin with
  | none => rfl
  | some o => rw [ho] at h; dsimp only at h; rw [if_neg hr] at h; cases h

/-! ## Steps 3 to 7 of a clean exit (R213) -/

theorem stepsOnly_toStep (s : State) (c n : Nat) : s.StepsOnly c (s.toStep c n) := stepsOnly_modRegion rfl

theorem step_toStep (s : State) (c n : Nat) : ((s.toStep c n).region c).step = n := by rw [State.toStep, region_modRegion]

/-- Step 3 of a task that is not mirrored, with no poison at its write entries. -/
theorem boundaryStep_3 {s : State} {c : Nat} (h : (s.region c).step = 3) (hm : s.mirrored c = false)
    (hp : (s.region c).regWrites.filterMap (s.writePoison c) = []) :
    s.boundaryStep c = (s.landWrites c (s.region c).regWrites).toStep c 4 := by
  simp only [State.boundaryStep, h, State.step3, hm, State.landAll, hp]
  rfl

/-- With no register result to land, step 4 leaves the task as it is. -/
theorem stepsOnly_landDue {s : State} {c : Nat} (hp : (s.taskOf c).pends = []) : s.StepsOnly c (s.landDue c) where
  mem := modTaskOf_mem ..
  now := modTaskOf_now ..
  here := by rw [State.landDue, region_modTaskOf, cluster_modTaskOf]; rfl
  region := by rw [State.landDue, region_modTaskOf]
  task := by
    have hf : (s.taskOf c).pends.filter (fun p => p.val.isNone) = (s.taskOf c).pends := by rw [hp]; rfl
    refine taskOf_modTaskOf_induction (P := fun t => t = s.taskOf c) s c _ rfl ?_
    rw [hp, List.filter_nil, List.foldl_nil, ← hp, hf]

theorem boundaryStep_4 {s : State} {c : Nat} (h : (s.region c).step = 4) (hp : (s.taskOf c).pends = []) :
    s.StepsOnly c (s.boundaryStep c) ∧ ((s.boundaryStep c).region c).step = 5 ∧ ((s.boundaryStep c).region c).until_ = 0 := by
  have h4 : s.boundaryStep c = s.step4 c := by simp [State.boundaryStep, h]
  rw [h4, State.step4]
  exact ⟨(stepsOnly_landDue hp).trans (stepsOnly_modRegion rfl), by rw [region_modRegion], by rw [region_modRegion]⟩

theorem boundaryStep_5_arms {s : State} {c : Nat} {im : Image} {x : Sel} (h : (s.region c).step = 5) (hi : (s.region c).img = some im)
    (hx : (s.region c).sel = some x) (hk : x.kind = .exit) (hu : (s.region c).until_ = 0) :
    s.boundaryStep c = s.modRegion c (fun r => { r with until_ := s.now }) := by
  simp [State.boundaryStep, h, State.step5, hi, hx, hu, hk, State.parkTime]

theorem boundaryStep_5_passes {s : State} {c : Nat} {im : Image} {x : Sel} (h : (s.region c).step = 5) (hi : (s.region c).img = some im)
    (hx : (s.region c).sel = some x) (hk : x.kind = .exit) (hu : (s.region c).until_ = s.now) (hn : 0 < s.now) :
    s.boundaryStep c = s.toStep c 6 := by
  have h0 : s.now ≠ 0 := by omega
  simp [State.boundaryStep, h, State.step5, hi, hx, hu, hk, h0]

theorem boundaryStep_6 {s : State} {c : Nat} {im : Image} (h : (s.region c).step = 6) (hi : (s.region c).img = some im)
    (hs : im.strict = false) : s.boundaryStep c = s.toStep c 7 := by
  simp [State.boundaryStep, h, State.step6, hi, hs]

theorem boundaryStep_7_waits {s : State} {c : Nat} {sh : Shadow} (h : (s.region c).step = 7) (ht : (s.region c).target ≠ none)
    (hs : (s.region c).shadow = some sh) (hr : sh.ready = false) : s.boundaryStep c = s := by
  simp only [State.boundaryStep, h, State.step7]
  cases k : (s.region c).target with
  | none => exact absurd k ht
  | some a => simp [hs, hr]

theorem boundaryStep_7_ends {s : State} {c : Nat} (h : (s.region c).step = 7) (ht : (s.region c).target = none) :
    s.boundaryStep c = s.modTaskOf c (fun t => { t with ending := true }) := by
  simp [State.boundaryStep, h, State.step7, ht]

theorem boundaryStep_2_waits {s : State} {c : Nat} (h : (s.region c).step = 2) (ho : (s.region c).storesOut = true) : s.boundaryStep c = s := by
  simp [State.boundaryStep, h, ho]

theorem target_exit {r : Region} {x : Sel} (hx : r.sel = some x) (hk : x.kind = .exit) : r.target ≠ none := by
  simp [Region.target, hx, Sel.successor, hk]

/-- From step 4 on, a clean exit whose successor is not loaded comes to step 7 and waits there. -/
theorem boundary_to7 {s : State} {c : Nat} {im : Image} {x : Sel} {sh : Shadow} (hr : s.running c = true) (he : (s.taskOf c).ending = false)
    (h4 : (s.region c).step = 4) (hi : (s.region c).img = some im) (hst : im.strict = false) (hx : (s.region c).sel = some x)
    (hk : x.kind = .exit) (hn : 0 < s.now) (hs : (s.region c).shadow = some sh) (hd : sh.ready = false) (hp : (s.taskOf c).pends = []) (n : Nat) :
    s.StepsOnly c (State.boundary c (n + 4) s) ∧ ((State.boundary c (n + 4) s).region c).step = 7 := by
  obtain ⟨k1, s1, u1⟩ := boundaryStep_4 h4 hp
  rw [boundary_succ hr he]
  generalize s.boundaryStep c = t1 at k1 s1 u1 ⊢
  have e2 := boundaryStep_5_arms s1 (k1.img.trans hi) (k1.sel.trans hx) hk u1
  have k2 : s.StepsOnly c (t1.modRegion c (fun r => { r with until_ := t1.now })) := k1.trans (stepsOnly_modRegion rfl)
  rw [k1.boundary hr he, e2]
  have s2 : ((t1.modRegion c (fun r => { r with until_ := t1.now })).region c).step = 5 ∧
      ((t1.modRegion c (fun r => { r with until_ := t1.now })).region c).until_ = (t1.modRegion c (fun r => { r with until_ := t1.now })).now := by
    rw [region_modRegion]; exact ⟨s1, rfl⟩
  generalize t1.modRegion c (fun r => { r with until_ := t1.now }) = t2 at k2 s2 ⊢
  have e3 := boundaryStep_5_passes s2.1 (k2.img.trans hi) (k2.sel.trans hx) hk s2.2 (by rw [k2.now]; exact hn)
  have k3 : s.StepsOnly c (t2.toStep c 6) := k2.trans (stepsOnly_toStep ..)
  rw [k2.boundary hr he, e3]
  have e4 := boundaryStep_6 (step_toStep t2 c 6) (k3.img.trans hi) hst
  have k4 : s.StepsOnly c ((t2.toStep c 6).toStep c 7) := k3.trans (stepsOnly_toStep ..)
  rw [k3.boundary hr he, e4]
  rw [boundary_waits (boundaryStep_7_waits (step_toStep ..) (target_exit (k4.sel.trans hx) hk) (k4.shadow.trans hs) hd)]
  exact ⟨k4, step_toStep ..⟩

/-- Steps 3 to 7 of a clean exit whose successor is not loaded: the write entries land, and nothing else changes but how far the
boundary is. -/
theorem boundary_lands {s : State} {c : Nat} {im : Image} {x : Sel} {sh : Shadow} (hr : s.running c = true) (he : (s.taskOf c).ending = false)
    (hm : s.mirrored c = false) (h3 : (s.region c).step = 3) (hi : (s.region c).img = some im) (hst : im.strict = false)
    (hx : (s.region c).sel = some x) (hk : x.kind = .exit) (hn : 0 < s.now) (hs : (s.region c).shadow = some sh) (hd : sh.ready = false)
    (hp : (s.taskOf c).pends = []) (hb : (s.region c).regWrites.filterMap (s.writePoison c) = []) :
    ∃ t : State, exec (.blockBoundary c) s = .next t ∧ (s.landWrites c (s.region c).regWrites).StepsOnly c t ∧ (t.region c).step = 7 := by
  have k := landsOnly_landWrites s c (s.region c).regWrites
  refine ⟨_, execBlockBoundary_steps (by omega), ?_⟩
  rw [boundary_succ hr he, boundaryStep_3 h3 hm hb]
  generalize s.landWrites c (s.region c).regWrites = u at k ⊢
  have j := stepsOnly_toStep u c 4
  have hu : u.region c = { s.region c with emptyWrite := (u.region c).emptyWrite } := k.region
  have ht : (u.toStep c 4).taskOf c = { s.taskOf c with regs := (u.taskOf c).regs, nowr := (u.taskOf c).nowr } := j.task.trans k.task
  obtain ⟨h1, h2⟩ := boundary_to7 (s := u.toStep c 4) (j.running.trans (k.running.trans hr)) (by rw [ht]; exact he) (step_toStep u c 4)
    (by rw [j.img, hu]; exact hi) hst (by rw [j.sel, hu]; exact hx) hk (by rw [j.now, k.now]; exact hn) (by rw [j.shadow, hu]; exact hs) hd
    (by rw [ht]; exact hp) 7
  exact ⟨j.trans h1, h2⟩

theorem execBlockBoundary_stores {s : State} {c : Nat} (h : (s.region c).step = 2) (ho : (s.region c).storesOut = true) :
    exec (.blockBoundary c) s = .next s := by
  rw [execBlockBoundary_steps (by omega), boundary_waits (boundaryStep_2_waits h ho)]

/-- Step 7 of a task with no successor ends the task (R198). -/
theorem execBlockBoundary_ends {s : State} {c : Nat} (hr : s.running c = true) (he : (s.taskOf c).ending = false) (h : (s.region c).step = 7)
    (ht : (s.region c).target = none) :
    exec (.blockBoundary c) s = .next (s.modTaskOf c (fun t => { t with ending := true })) := by
  obtain ⟨n, hn⟩ := task_of_running hr
  rw [execBlockBoundary_steps (by omega), boundary_succ hr he, boundaryStep_7_ends h ht, boundary_ended]
  rw [taskOf_modTaskOf (by rw [hn]; rfl)]

/-! ## What the tick leaves (R29, R229) -/

theorem execModcAdvance_leaves {s : State} {c : Nat} (hr : s.running c = true) (ht : (s.cluster c).tick ≠ some s.now) :
    ∃ t : State, exec (.modcAdvance c) s = .next t ∧ (t.region c).modc = ((s.region c).modc + 1) % 12 ∧
      (t.cluster c).tick = some s.now ∧ t.mem = s.mem ∧
      (t.taskOf c).budget = (if (s.taskOf c).budget = 0 then 0 else (s.taskOf c).budget - 1) ∧
      ((t.region c).expired = true ↔ ((s.region c).expired = true ∨ (s.taskOf c).budget = 1)) := by
  obtain ⟨t, e, k⟩ := execModcAdvance_tick hr ht
  obtain ⟨n, hn⟩ := task_of_running hr
  have hR := k.region
  rw [region_ticked] at hR
  refine ⟨t, e, by rw [hR]; rfl, by rw [k.here]; exact tick_ticked s c, k.mem.trans (mem_ticked s c), ?_, ?_⟩
  · rw [k.taskOf]
    exact budget_ticked s c (by rw [hn]; rfl)
  · rw [hR]
    simp

/-! ## The obligation -/

/-- Settles O44, by the events it names: a load of the shadow, the steps of a boundary, a block start, an await entry, the tick and the
expiry of BUDGET. -/
theorem blocksStartAndEnd : Obligations.BlocksStartAndEnd := by
  refine ⟨?load, ?lands, ?steps, ?starts, ?await, ?tick, ?budget⟩
  case load =>
    intro c s sh hs hr hn hu
    refine ⟨execShadowUsable_zero hs hr hn hu, fun hz => ⟨fun s1 hg => ?_, fun s1 im hg => ?_, fun s1 f hg => ?_⟩⟩
    · exact execShadowUsable_wait hs hr hn hu hz hg
    · exact execShadowUsable_image hs hr hn hu hz hg
    · exact execShadowUsable_failure hs hr hn hu hz hg
  case lands =>
    intro c s im x sh hr he hm h3 hi hst hx hk hn hs hd hp hb hnd
    obtain ⟨t, e, k, h7⟩ := boundary_lands hr he hm h3 hi hst hx hk hn hs hd hp hb
    obtain ⟨n, htask⟩ := task_of_running hr
    have hsome : (s.cluster c).task.isSome = true := by rw [htask]; rfl
    refine ⟨t, e, h7, k.mem.trans (landsOnly_landWrites ..).mem, ?_, ?_, ?_⟩ <;> rw [k.task]
    · intro w hw tok hl hr0
      exact reg_landWrites hsome hnd hw hr0 hl (origin_of_writePoison (List.filterMap_eq_nil_iff.mp hb w hw) hr0 hl)
    · exact fun n h => reg_landWrites_ne s c n _ h
    · rintro ⟨w, hw, hr0, hl, ho⟩
      exact nowr_landWrites_empty hsome hw hr0 hl ho
  case steps =>
    intro c s hr he
    refine ⟨execBlockBoundary_stores, fun h7 ht => ⟨_, execBlockBoundary_ends hr he h7 ht, ?_, modTaskOf_mem ..⟩⟩
    obtain ⟨n, hn⟩ := task_of_running hr
    rw [taskOf_modTaskOf (by rw [hn]; rfl)]
  case starts =>
    intro c s sh im hs hr h10 hu hd hus hf hi hp
    obtain ⟨n, hn⟩ := task_of_running hr
    have hsome : (s.cluster c).task.isSome = true := by rw [hn]; rfl
    obtain ⟨himg, hblk, hstep, hsel, hwords, hsupb, hmem⟩ := startBlock_leaves sh im hsome
    exact ⟨_, execBlockStart_starts hs hr h10 hu hd hus hf hi hp, himg, hblk, hstep, hsel, hwords, hsupb, hmem,
      fun e x hx hm tg htg hg => gets_startBlock sh hsome hx hm htg hg⟩
  case await =>
    intro c e q s im x hi hx hq hr hj h0 hd
    refine ⟨execAwaitRead_pending hi hx hq, fun h => ⟨_, execAwaitRead_landed hi hx hq hr hj h0 hd h, ?_, fun tg ht hg => ?_⟩⟩ <;>
      rw [region_modRegion]
    · exact done_readReg ..
    · exact gets_readReg _ _ _ _ _ ht hg
  case tick => exact fun c s hr ht => execModcAdvance_leaves hr ht
  case budget => exact fun c s he hw => ⟨execBudgetExpiry_changed he hw, execBudgetExpiry_spent he hw⟩

end Sys2Proof.Machine
end

section
/-!
EXACT VALUES (R37, R41, R42, R46): sums and products, the codes of a format in the order of their magnitudes, and its grid.
-/

namespace Sys2Proof.Machine

open Sys2Proof Sys2Proof.Num

/-! ## Exact sums and products (R46 step 3, R42) -/

theorem ratOf_fin (neg : Bool) (m : Nat) (e : ℤ) :
    ratOf (.fin neg m e) = some ((if neg then -1 else 1) * (m : ℚ) * 2 ^ e) := rfl

/-- Only a finite value has a rational value. -/
theorem fin_of_ratOf {v : FVal} {x : ℚ} (h : ratOf v = some x) :
    ∃ neg m e, v = .fin neg m e ∧ x = (if neg then -1 else 1) * (m : ℚ) * 2 ^ e := by
  cases v with
  | fin neg m e => exact ⟨neg, m, e, rfl, (Option.some.inj h).symm⟩
  | nan _ => cases h
  | inf _ => cases h

/-- A signed integer as sign and magnitude. -/
theorem ratOf_natAbs (i e : ℤ) : ratOf (.fin (i < 0) i.natAbs e) = some ((i : ℚ) * 2 ^ e) := by
  rcases lt_or_ge i 0 with h | h
  · rw [ratOf_fin, Nat.cast_natAbs, abs_of_neg h]; simp [h]
  · rw [ratOf_fin, Nat.cast_natAbs, abs_of_nonneg h]; simp [h.not_gt]

/-- A magnitude in units of a smaller power of two is the same value. -/
theorem scaled_mul_zpow (neg : Bool) (m : Nat) {e e0 : ℤ} (h : e0 ≤ e) :
    (scaled neg m e e0 : ℚ) * 2 ^ e0 = (if neg then -1 else 1) * (m : ℚ) * 2 ^ e := by
  have hp : (2 : ℚ) ^ (e - e0).toNat * 2 ^ e0 = 2 ^ e := by
    rw [← zpow_natCast, ← zpow_add₀ two_ne_zero, Int.toNat_of_nonneg (by omega), sub_add_cancel]
  have hv : (scaled neg m e e0 : ℚ) = (if neg then -1 else 1) * (m * 2 ^ (e - e0).toNat) := by
    cases neg <;> simp [scaled]
  rw [hv, ← hp]
  ring

theorem addF_exact (mode : Nat) {a b : FVal} {x y : ℚ} (ha : ratOf a = some x) (hb : ratOf b = some y) :
    ratOf (addF mode a b).1 = some (x + y) ∧ (addF mode a b).2 = false := by
  obtain ⟨s, m, e, rfl, rfl⟩ := fin_of_ratOf ha
  obtain ⟨u, k, d, rfl, rfl⟩ := fin_of_ratOf hb
  have hsum : ((scaled s m e (min e d) + scaled u k d (min e d) : ℤ) : ℚ) * 2 ^ min e d =
      (if s then -1 else 1) * (m : ℚ) * 2 ^ e + (if u then -1 else 1) * (k : ℚ) * 2 ^ d := by
    rw [Int.cast_add, add_mul, scaled_mul_zpow _ _ (min_le_left ..), scaled_mul_zpow _ _ (min_le_right ..)]
  rw [← hsum]
  by_cases h0 : scaled s m e (min e d) + scaled u k d (min e d) = 0
  · simp [addF, h0, ratOf_fin]
  · simp only [addF, beq_iff_eq, h0, if_false]
    exact ⟨ratOf_natAbs _ _, trivial⟩

theorem mulF_exact {a b : FVal} {x y : ℚ} (ha : ratOf a = some x) (hb : ratOf b = some y) :
    ratOf (mulF a b).1 = some (x * y) ∧ (mulF a b).2 = false := by
  obtain ⟨s, m, e, rfl, rfl⟩ := fin_of_ratOf ha
  obtain ⟨u, k, d, rfl, rfl⟩ := fin_of_ratOf hb
  refine ⟨?_, rfl⟩
  rw [mulF, ratOf_fin, zpow_add₀ two_ne_zero]
  cases s <;> cases u <;> simp <;> ring

/-- A finite code of xs320 is none of the three specials (R41). -/
theorem xs_finite {a : ℤ} (h : a.natAbs < 2 ^ 319 - 1) : a ≠ xsNan ∧ a ≠ xsPosInf ∧ a ≠ xsNegInf := by
  simp only [xsNan, xsPosInf, xsNegInf]
  omega

theorem xs_specials : xsPosInf ≠ xsNan ∧ xsNegInf ≠ xsNan ∧ xsPosInf ≠ xsNegInf := by
  simp only [xsNan, xsPosInf, xsNegInf]
  omega

theorem xsAdd_finite {a b : ℤ} (ha : a.natAbs < 2 ^ 319 - 1) (hb : b.natAbs < 2 ^ 319 - 1) (hab : (a + b).natAbs < 2 ^ 319 - 1) :
    xsAdd a b = a + b := by
  obtain ⟨han, hap, ham⟩ := xs_finite ha
  obtain ⟨hbn, hbp, hbm⟩ := xs_finite hb
  rw [xsAdd, if_neg (by tauto), if_neg (by tauto), if_neg (by tauto), if_neg (by tauto), if_neg (by omega), if_neg (by omega)]

theorem ratOf_xsVal {a : ℤ} (h : a.natAbs < 2 ^ 319 - 1) : ratOf (xsVal a) = some ((a : ℚ) * 2 ^ (-149 : ℤ)) := by
  obtain ⟨hn, hp, hm⟩ := xs_finite h
  rw [xsVal, if_neg hn, if_neg hp, if_neg hm, ratOf_natAbs]

theorem xsAdd_nan (b : ℤ) : xsAdd xsNan b = xsNan := if_pos (.inl rfl)

theorem xsAdd_posInf {b : ℤ} (h : b.natAbs < 2 ^ 319 - 1) : xsAdd xsPosInf b = xsPosInf := by
  obtain ⟨hbn, -, hbm⟩ := xs_finite h
  obtain ⟨hpn, -, hpm⟩ := xs_specials
  rw [xsAdd, if_neg (by tauto), if_neg (by tauto), if_pos (.inl rfl)]

theorem xsAdd_opposite : xsAdd xsPosInf xsNegInf = xsNan := by
  obtain ⟨hpn, hmn, -⟩ := xs_specials
  rw [xsAdd, if_neg (by tauto), if_pos (.inl ⟨rfl, rfl⟩)]

/-! ## The magnitudes of codes (R37) -/

/-- The integer significand of a code without its sign. -/
def codeSig (t : Ty) (c : Nat) : Nat := if c < 2 ^ fracBits t then c else 2 ^ fracBits t + c % 2 ^ fracBits t

/-- The exponent of the unit of a code without its sign. -/
def codeUnit (t : Ty) (c : Nat) : ℤ := max ((c / 2 ^ fracBits t : Nat) : ℤ) 1 - bias t - fracBits t

/-- The magnitude of a code on the grid of a format that has no upper end (R46 step 1). -/
def codeMag (t : Ty) (c : Nat) : ℚ := codeSig t c * 2 ^ codeUnit t c

theorem codeSig_add_mul (t : Ty) {a r : Nat} (ha : 1 ≤ a) (hr : r < 2 ^ fracBits t) :
    codeSig t (a * 2 ^ fracBits t + r) = 2 ^ fracBits t + r := by
  have h : 2 ^ fracBits t ≤ a * 2 ^ fracBits t := Nat.le_mul_of_pos_left _ ha
  rw [codeSig, if_neg (by omega), Nat.mul_add_mod', Nat.mod_eq_of_lt hr]

theorem codeUnit_add_mul (t : Ty) {a r : Nat} (ha : 1 ≤ a) (hr : r < 2 ^ fracBits t) :
    codeUnit t (a * 2 ^ fracBits t + r) = a - bias t - fracBits t := by
  rw [codeUnit, mul_comm, Nat.mul_add_div (by positivity), Nat.div_eq_of_lt hr, add_zero, max_eq_left (by exact_mod_cast ha)]

theorem codeUnit_lt (t : Ty) {c : Nat} (h : c < 2 ^ fracBits t) : codeUnit t c = emin t - fracBits t := by
  rw [codeUnit, Nat.div_eq_of_lt h]; rfl

theorem codeMag_add_mul (t : Ty) {a r : Nat} (ha : 1 ≤ a) (hr : r < 2 ^ fracBits t) :
    codeMag t (a * 2 ^ fracBits t + r) = (2 ^ fracBits t + r : Nat) * 2 ^ ((a : ℤ) - bias t - fracBits t) := by
  rw [codeMag, codeSig_add_mul t ha hr, codeUnit_add_mul t ha hr]

theorem codeMag_lt (t : Ty) {c : Nat} (h : c < 2 ^ fracBits t) : codeMag t c = c * 2 ^ (emin t - fracBits t) := by
  rw [codeMag, codeUnit_lt t h, codeSig, if_pos h]

/-- The least normal magnitude is that of the code with exponent 1 and no fraction. -/
theorem codeMag_normal (t : Ty) : codeMag t (2 ^ fracBits t) = 2 ^ emin t := by
  have h := codeMag_add_mul t le_rfl (Nat.two_pow_pos (fracBits t))
  rw [one_mul, add_zero, Nat.cast_pow, Nat.cast_ofNat, ← zpow_natCast, ← zpow_add₀ two_ne_zero] at h
  simpa [emin] using h

/-- A normal code, taken apart into its exponent and its fraction. -/
theorem code_parts (t : Ty) {c : Nat} (h : 2 ^ fracBits t ≤ c) :
    ∃ a r, 1 ≤ a ∧ r < 2 ^ fracBits t ∧ c = a * 2 ^ fracBits t + r :=
  ⟨c / 2 ^ fracBits t, c % 2 ^ fracBits t, (Nat.one_le_div_iff (by positivity)).mpr h, Nat.mod_lt _ (by positivity),
    (Nat.div_add_mod' ..).symm⟩

/-- The next code lies one unit further. -/
theorem codeMag_succ (t : Ty) (c : Nat) : codeMag t (c + 1) = codeMag t c + 2 ^ codeUnit t c := by
  rcases lt_or_ge c (2 ^ fracBits t) with h | h
  · have hlow : codeMag t c + 2 ^ codeUnit t c = ((c + 1 : Nat) : ℚ) * 2 ^ (emin t - fracBits t) := by
      rw [codeMag_lt t h, codeUnit_lt t h]; push_cast; ring
    rw [hlow]
    rcases (Nat.succ_le_of_lt h).lt_or_eq with h' | h'
    · exact codeMag_lt t h'
    · rw [← Nat.succ_eq_add_one, h', codeMag_normal, Nat.cast_pow, Nat.cast_ofNat, ← zpow_natCast, ← zpow_add₀ two_ne_zero]
      congr 1; ring
  · obtain ⟨a, r, ha, hr, rfl⟩ := code_parts t h
    rw [codeMag_add_mul t ha hr, codeUnit_add_mul t ha hr]
    rcases (Nat.succ_le_of_lt hr).lt_or_eq with h' | h'
    · rw [add_assoc, codeMag_add_mul t ha h']
      push_cast; ring
    · have hr1 : (r : ℚ) + 1 = 2 ^ fracBits t := by exact_mod_cast h'
      have hu : (2 : ℚ) ^ (((a + 1 : Nat) : ℤ) - bias t - fracBits t) = 2 * 2 ^ ((a : ℤ) - bias t - fracBits t) := by
        rw [show ((a + 1 : Nat) : ℤ) - bias t - fracBits t = 1 + ((a : ℤ) - bias t - fracBits t) by push_cast; ring,
          zpow_add₀ two_ne_zero, zpow_one]
      rw [show a * 2 ^ fracBits t + r + 1 = (a + 1) * 2 ^ fracBits t + 0 by rw [add_assoc, ← Nat.succ_eq_add_one r, h']; ring,
        codeMag_add_mul t (by omega) (Nat.two_pow_pos _), hu]
      push_cast
      rw [← hr1]; ring

/-- Codes stand in the order of their magnitudes. -/
theorem codeMag_strictMono (t : Ty) : StrictMono (codeMag t) :=
  strictMono_nat_of_lt_succ fun c => by
    rw [codeMag_succ]
    exact lt_add_of_pos_right _ (by positivity)

/-! ## The grid of a format (R46 step 1) -/

/-- `k` units of 2^q are a number of the grid that is written with the unit of its binade, or with the least unit. -/
structure OnGrid (t : Ty) (k : Nat) (q : ℤ) : Prop where
  low : emin t - fracBits t ≤ q
  normal : q = emin t - fracBits t ∨ 2 ^ fracBits t ≤ k
  high : k < 2 ^ (fracBits t + 1)

theorem OnGrid.ofCode (t : Ty) (c : Nat) : OnGrid t (codeSig t c) (codeUnit t c) := by
  rcases lt_or_ge c (2 ^ fracBits t) with h | h
  · rw [codeUnit_lt t h, codeSig, if_pos h]
    exact ⟨le_rfl, .inl rfl, by rw [pow_succ]; omega⟩
  · obtain ⟨a, r, ha, hr, rfl⟩ := code_parts t h
    rw [codeSig_add_mul t ha hr, codeUnit_add_mul t ha hr]
    exact ⟨by simp only [emin]; omega, .inr (by omega), by rw [pow_succ]; omega⟩

/-- The code of a number of the grid below two binades has its magnitude. -/
theorem OnGrid.codeMag_codeOf {t : Ty} {k : Nat} {q : ℤ} (h : OnGrid t k q) : codeMag t (codeOf t k q) = k * 2 ^ q := by
  obtain ⟨hlow, hnorm, hhigh⟩ := h
  simp only [codeOf, if_pos hhigh]
  split
  next hk =>
    obtain rfl : q = emin t - fracBits t := hnorm.resolve_right (by omega)
    exact codeMag_lt t hk
  next hk =>
    have hr : k - 2 ^ fracBits t < 2 ^ fracBits t := by rw [pow_succ] at hhigh; omega
    have ha : 1 ≤ (q + fracBits t + bias t).toNat := by simp only [emin] at hlow; omega
    rw [codeMag_add_mul t ha hr, Int.toNat_of_nonneg (by omega), Nat.add_sub_cancel' (by omega)]
    congr 2
    ring

/-- The number above a number of the grid has its magnitude in its code, a carry into the next binade included. -/
theorem OnGrid.codeMag_codeOf_succ {t : Ty} {k : Nat} {q : ℤ} (h : OnGrid t k q) : codeMag t (codeOf t (k + 1) q) = (k + 1 : Nat) * 2 ^ q := by
  obtain ⟨hlow, hnorm, hhigh⟩ := h
  rcases (Nat.succ_le_of_lt hhigh).lt_or_eq with hk | hk
  · exact OnGrid.codeMag_codeOf ⟨hlow, hnorm.imp_right (by omega), hk⟩
  · have hpow : 2 ^ fracBits t < 2 ^ (fracBits t + 1) := Nat.pow_lt_pow_succ one_lt_two
    have hhalf : (k + 1) / 2 = 2 ^ fracBits t := by rw [Nat.succ_eq_add_one] at hk; rw [hk, pow_succ]; omega
    have hcode : codeOf t (k + 1) q = codeOf t (2 ^ fracBits t) (q + 1) := by
      have hlt : ¬k + 1 < 2 ^ (fracBits t + 1) := by omega
      simp only [codeOf, if_neg hlt, if_pos hpow, hhalf]
    have hgrid : OnGrid t (2 ^ fracBits t) (q + 1) := ⟨by omega, .inr le_rfl, hpow⟩
    rw [hcode, hgrid.codeMag_codeOf, zpow_add₀ two_ne_zero, show k + 1 = 2 ^ fracBits t * 2 by rw [← pow_succ]; exact hk]
    push_cast; ring

/-- The unit that the rounding of a value works with is that of the number of the grid next below it. -/
theorem OnGrid.unit {t : Ty} {k m : Nat} {q e : ℤ} (h : OnGrid t k q) (hm : m ≠ 0) (h1 : (k : ℚ) * 2 ^ q ≤ m * 2 ^ e)
    (h2 : (m : ℚ) * 2 ^ e < (k + 1) * 2 ^ q) : max (e + (Nat.log2 m : ℤ)) (emin t) - fracBits t = q := by
  obtain ⟨hlow, hnorm, hhigh⟩ := h
  have hlt {a b : ℤ} (hab : (2 : ℚ) ^ a < 2 ^ b) : a < b := (zpow_lt_zpow_iff_right₀ one_lt_two).mp hab
  have hfrom : (2 : ℚ) ^ (e + (Nat.log2 m : ℤ)) ≤ m * 2 ^ e := by
    rw [zpow_add₀ two_ne_zero, mul_comm, zpow_natCast]
    gcongr
    exact_mod_cast Nat.log2_self_le hm
  have hto : (m : ℚ) * 2 ^ e < 2 ^ (e + (Nat.log2 m : ℤ) + 1) := by
    rw [add_assoc, zpow_add₀ two_ne_zero, mul_comm]
    gcongr
    exact_mod_cast Nat.lt_log2_self
  have hbelow {n : Nat} (hk : k < 2 ^ n) : e + (Nat.log2 m : ℤ) < n + q := hlt <| hfrom.trans_lt <| h2.trans_le <| by
    rw [zpow_add₀ two_ne_zero, zpow_natCast]
    gcongr
    exact_mod_cast hk
  have htop := hbelow hhigh
  rcases lt_or_ge k (2 ^ fracBits t) with hk | hk
  · have := hbelow hk
    have := hnorm.resolve_right (by omega)
    omega
  · have hfull : (2 : ℚ) ^ ((fracBits t : ℤ) + q) ≤ k * 2 ^ q := by
      rw [zpow_add₀ two_ne_zero, zpow_natCast]
      gcongr
      exact_mod_cast hk
    have := hlt (hfull.trans_lt (h1.trans_lt hto))
    push_cast at htop
    omega

end Sys2Proof.Machine
end

section
/-!
ROUNDING TO A FORMAT (R43, R45 to R47, R49): the neighbour that a mode names, the values that codes stand for, and what rounding gives.
-/

namespace Sys2Proof.Machine

open Sys2Proof Sys2Proof.Num

/-! ## The neighbour that a mode names (R43, R45) -/

/-- A mode takes the neighbour away from zero of a magnitude that lies the part `f` of a unit beyond `k` units. -/
def TakesUpper (mode z k : Nat) (neg : Bool) (f : ℚ) : Prop :=
  0 < f ∧ (mode = 0 ∧ (1 / 2 < f ∨ 1 / 2 ≤ f ∧ k % 2 = 1) ∨ mode = 2 ∧ neg = false ∨ mode = 3 ∧ neg = true ∨
    mode = 4 ∧ 1 / 2 ≤ f ∨ mode = 5 ∧ ((z : ℚ) + 1) / 2 ^ 24 ≤ f)

theorem roundsUp_iff {mode : Nat} (hm : mode < 6) (neg : Bool) (z k rem sh : Nat) :
    roundsUp mode neg z k rem sh = true ↔ TakesUpper mode z k neg ((rem : ℚ) / 2 ^ sh) := by
  have hp : (0 : ℚ) < 2 ^ sh := by positivity
  have hpos : 0 < (rem : ℚ) / 2 ^ sh ↔ 0 < rem := by rw [div_pos_iff_of_pos_right hp, Nat.cast_pos]
  have hhalf : 1 / 2 ≤ (rem : ℚ) / 2 ^ sh ↔ 2 ^ sh ≤ 2 * rem := by
    rw [div_le_div_iff₀ two_pos hp, one_mul, mul_comm (rem : ℚ)]; exact_mod_cast Iff.rfl
  have hmore : 1 / 2 < (rem : ℚ) / 2 ^ sh ↔ 2 ^ sh < 2 * rem := by
    rw [div_lt_div_iff₀ two_pos hp, one_mul, mul_comm (rem : ℚ)]; exact_mod_cast Iff.rfl
  have hdraw : ((z : ℚ) + 1) / 2 ^ 24 ≤ (rem : ℚ) / 2 ^ sh ↔ z < rem * 2 ^ 24 / 2 ^ sh := by
    rw [div_le_div_iff₀ (by positivity) hp, ← Nat.succ_le_iff, Nat.le_div_iff_mul_le (by positivity), ← Nat.cast_le (α := ℚ),
      Nat.cast_mul, Nat.cast_mul, Nat.cast_pow, Nat.cast_pow, Nat.cast_succ, Nat.cast_ofNat]
  rw [TakesUpper, hpos, hhalf, hmore, hdraw]
  unfold roundsUp
  generalize rem * 2 ^ 24 / 2 ^ sh = d
  rcases Nat.eq_zero_or_pos rem with h0 | h0
  · simp [h0]
  · have hne : (rem == 0) = false := by simpa using h0.ne'
    match mode, hm with
    | 0, _ => simp [hne, h0]; omega
    | 1, _ | 2, _ | 3, _ | 4, _ | 5, _ => simp [hne, h0]

/-- A magnitude in units that are no larger than its own is a number of them. -/
theorem units_of_le {q e : ℤ} (h : q ≤ e) (m : Nat) : (m : ℚ) * 2 ^ (e - q) = (m * 2 ^ (e - q).toNat : Nat) := by
  rw [Nat.cast_mul, Nat.cast_pow, Nat.cast_ofNat, ← zpow_natCast, Int.toNat_of_nonneg (by omega)]

/-- A magnitude in units that are larger than its own is a quotient. -/
theorem units_of_lt {q e : ℤ} (h : e < q) (m : Nat) : (m : ℚ) * 2 ^ (e - q) = m / (2 ^ (q - e).toNat : Nat) := by
  rw [div_eq_mul_inv, Nat.cast_pow, Nat.cast_ofNat, ← zpow_natCast, ← zpow_neg, Int.toNat_of_nonneg (by omega), neg_sub]

/-- Rounding to units of 2^q takes one of the two neighbours, as the mode names it. -/
theorem roundAt_eq {mode : Nat} (hm : mode < 6) {neg : Bool} {z m k n : Nat} {e q : ℤ} (h1 : (k : ℚ) ≤ m * 2 ^ (e - q))
    (h2 : (m : ℚ) * 2 ^ (e - q) < k + 1) (hup : TakesUpper mode z k neg (m * 2 ^ (e - q) - k) → n = k + 1)
    (hdown : ¬TakesUpper mode z k neg (m * 2 ^ (e - q) - k) → n = k) : roundAt mode neg z m e q = n := by
  have hfloor : ⌊(m : ℚ) * 2 ^ (e - q)⌋₊ = k := (Nat.floor_eq_iff (by positivity)).mpr ⟨h1, h2⟩
  rw [roundAt]
  split
  next hq =>
    rw [units_of_le hq, Nat.floor_natCast] at hfloor
    rw [hfloor, hdown]
    rw [units_of_le hq, hfloor, sub_self]
    exact fun h => lt_irrefl 0 h.1
  next hq =>
    rw [units_of_lt (not_le.mp hq), Nat.floor_div_eq_div] at hfloor
    have hrest : (m : ℚ) * 2 ^ (e - q) - k = (m % 2 ^ (q - e).toNat : Nat) / 2 ^ (q - e).toNat := by
      have hdiv : (m : ℚ) = 2 ^ (q - e).toNat * k + (m % 2 ^ (q - e).toNat : Nat) := by
        rw [← hfloor]
        exact_mod_cast (Nat.div_add_mod m (2 ^ (q - e).toNat)).symm
      rw [units_of_lt (not_le.mp hq), Nat.cast_pow, Nat.cast_ofNat, sub_eq_iff_eq_add, div_add' _ _ _ (by positivity)]
      congr 1
      rw [add_comm, mul_comm (k : ℚ)]
      exact hdiv
    rw [hrest, ← roundsUp_iff hm] at hup hdown
    dsimp only
    rw [hfloor]
    split
    next h => exact (hup h).symm
    next h => exact (hdown h).symm

/-- A magnitude that is a number of units stays as it is. -/
theorem roundAt_self (mode : Nat) (neg : Bool) (z m : Nat) (e : ℤ) : roundAt mode neg z m e e = m := by
  simp [roundAt]

/-! ## Codes that stand for values (R37) -/

/-- The formats with a sign, an exponent and a fraction. -/
def floatFormats : List Ty := [.f64, .f32, .f16, .bf16, .e4m3, .e5m2, .e2m1]

/-- The largest magnitude lies below the code of infinity; e4m3 and e2m1 have no infinity. -/
theorem maxCode_cases {t : Ty} (ht : t ∈ floatFormats) :
    hasInf t = true ∧ maxCode t = infCode t - 1 ∧ infCode t < signBit t ∧ 0 < infCode t ∧ t ≠ .e4m3 ∨
      t = .e4m3 ∨ t = .e2m1 := by
  simp only [floatFormats, List.mem_cons, List.not_mem_nil, or_false] at ht
  rcases ht with rfl | rfl | rfl | rfl | rfl | rfl | rfl <;> decide

theorem signBit_eq (t : Ty) : signBit t = 2 ^ expBits t * 2 ^ fracBits t := pow_add ..

section
variable {t : Ty} {neg : Bool} {c : Nat} (hc : c < signBit t)
include hc

theorem exponent_lt : c / 2 ^ fracBits t < 2 ^ expBits t :=
  Nat.div_lt_of_lt_mul (by rw [mul_comm, ← signBit_eq]; exact hc)

theorem sign_withSign : (withSign t neg c / signBit t % 2 == 1) = neg := by
  have hp : 0 < signBit t := Nat.two_pow_pos _
  cases neg with
  | true => rw [withSign, if_pos rfl, Nat.add_div_left _ hp, Nat.div_eq_of_lt hc]; rfl
  | false => simp [withSign, Nat.div_eq_of_lt hc]

theorem exponent_withSign : withSign t neg c / 2 ^ fracBits t % 2 ^ expBits t = c / 2 ^ fracBits t := by
  have h := Nat.mod_eq_of_lt (exponent_lt hc)
  cases neg with
  | true => rw [withSign, if_pos rfl, signBit_eq, mul_comm, Nat.mul_add_div (Nat.two_pow_pos _), Nat.add_mod_left, h]
  | false => exact h

omit hc in
theorem fraction_withSign : withSign t neg c % 2 ^ fracBits t = c % 2 ^ fracBits t := by
  cases neg with
  | true => rw [withSign, if_pos rfl, signBit_eq, Nat.mul_add_mod']
  | false => rfl

end

theorem maxCode_lt_signBit {t : Ty} (ht : t ∈ floatFormats) : maxCode t < signBit t := by
  rcases maxCode_cases ht with ⟨-, h1, h2, -⟩ | rfl | rfl
  · omega
  · decide
  · decide

/-- A code up to that of the largest magnitude stands for its magnitude, under either sign. -/
theorem decodeF_withSign {t : Ty} (ht : t ∈ floatFormats) (neg : Bool) {c : Nat} (hc : c ≤ maxCode t) :
    decodeF t (withSign t neg c) = .fin neg (codeSig t c) (codeUnit t c) := by
  have hs : c < signBit t := hc.trans_lt (maxCode_lt_signBit ht)
  have hnan : (t == .e4m3 && c / 2 ^ fracBits t == 15 && c % 2 ^ fracBits t == 7) = false := by
    by_cases h : t = .e4m3
    · subst h
      simp only [maxCode, fracBits] at hc ⊢
      simp
      omega
    · simp [h]
  have hinf : (hasInf t && c / 2 ^ fracBits t == 2 ^ expBits t - 1) = false := by
    rcases maxCode_cases ht with ⟨-, hmax, -, h0, -⟩ | rfl | rfl
    · have h : c / 2 ^ fracBits t < 2 ^ expBits t - 1 := Nat.div_lt_of_lt_mul (by rw [mul_comm]; change c < infCode t; omega)
      simp [h.ne]
    · rfl
    · rfl
  simp only [decodeF, sign_withSign hs, exponent_withSign hs, fraction_withSign, hnan, hinf]
  rcases lt_or_ge c (2 ^ fracBits t) with h | h
  · simp [Nat.div_eq_of_lt h, Nat.mod_eq_of_lt h, codeSig, codeUnit_lt t h, h]
  · have h1 : 1 ≤ c / 2 ^ fracBits t := (Nat.one_le_div_iff (Nat.two_pow_pos _)).mpr h
    have h0 : (c / 2 ^ fracBits t == 0) = false := by simp; omega
    simp only [h0, codeSig, codeUnit, if_neg h.not_gt]
    rw [max_eq_left (by exact_mod_cast h1)]
    rfl

theorem ratOf_decodeF {t : Ty} (ht : t ∈ floatFormats) {c : Nat} (hc : c ≤ maxCode t) :
    ratOf (decodeF t c) = some (codeMag t c) := by
  have h := decodeF_withSign ht false hc
  rw [withSign, if_neg Bool.false_ne_true] at h
  rw [h, ratOf_fin, codeMag]
  simp

/-- Every code is a sign before a code below the sign bit. -/
theorem code_withSign {t : Ty} {code : Nat} (h : code < 2 ^ (1 + expBits t + fracBits t)) :
    ∃ neg c, c < signBit t ∧ code = withSign t neg c := by
  have h2 : code < signBit t + signBit t := by rw [signBit, ← two_mul, ← pow_succ']; convert h using 2; ring
  rcases lt_or_ge code (signBit t) with hlt | hge
  · exact ⟨false, code, hlt, rfl⟩
  · exact ⟨true, code - signBit t, by omega, (Nat.add_sub_cancel' hge).symm⟩

/-- A code above that of the largest magnitude stands for infinity or for no number. -/
theorem decodeF_above {t : Ty} (ht : t ∈ floatFormats) {neg : Bool} {c : Nat} (hs : c < signBit t) (hc : maxCode t < c)
    (hn : isNan (decodeF t (withSign t neg c)) = false) : hasInf t = true ∧ c = infCode t ∧ decodeF t (withSign t neg c) = .inf neg := by
  rcases maxCode_cases ht with ⟨hi, hmax, -, h0, h43⟩ | rfl | rfl
  · have hge : (2 ^ expBits t - 1) * 2 ^ fracBits t ≤ c := by change infCode t ≤ c; omega
    have hex : c / 2 ^ fracBits t = 2 ^ expBits t - 1 := by
      have := (Nat.le_div_iff_mul_le (Nat.two_pow_pos (fracBits t))).mpr hge
      have := exponent_lt hs
      omega
    have hd : decodeF t (withSign t neg c) = if c % 2 ^ fracBits t == 0 then .inf neg else
        .nan (t != .e5m2 && c % 2 ^ fracBits t < 2 ^ (fracBits t - 1)) := by
      simp [decodeF, sign_withSign hs, exponent_withSign hs, fraction_withSign, hex, hi, h43]
    by_cases hfr : c % 2 ^ fracBits t = 0
    · refine ⟨hi, ?_, by simp [hd, hfr]⟩
      rw [infCode, ← hex, ← Nat.div_add_mod' c (2 ^ fracBits t), hfr]
      simp
    · simp [hd, hfr, isNan] at hn
  · obtain rfl : c = 127 := by simp only [maxCode, signBit, expBits, fracBits] at hs hc; omega
    have hd : ∀ neg, isNan (decodeF .e4m3 (withSign .e4m3 neg 127)) = true := by decide
    rw [hd neg] at hn
    cases hn
  · simp only [maxCode, signBit, expBits, fracBits] at hs hc; omega

/-! ## Rounding to a format (R46, R47) -/

theorem roundTo_zero (t : Ty) (mode z : Nat) (sat ftz neg : Bool) (e : ℤ) : roundTo t mode sat ftz z (.fin neg 0 e) = withSign t neg 0 := rfl

/-- What rounds a nonzero value, once the unit and the number of units are known. -/
theorem roundTo_fin {t : Ty} {mode z m n : Nat} {sat ftz neg : Bool} {e q : ℤ} (hm : m ≠ 0)
    (hq : max (e + (Nat.log2 m : ℤ)) (emin t) - fracBits t = q) (hn : roundAt mode neg z m e q = n) :
    roundTo t mode sat ftz z (.fin neg m e) =
      if maxCode t < codeOf t n q then overflow t mode sat neg
      else if ftz && codeOf t n q < 2 ^ fracBits t then withSign t neg 0
      else withSign t neg (codeOf t n q) := by
  have hm' : (m == 0) = false := by simpa using hm
  simp only [roundTo, hm', hq, hn]
  rfl

/-- The table of R46. -/
theorem overflow_eq (t : Ty) {mode : Nat} (hm : mode < 6) (sat neg : Bool) : overflow t mode sat neg =
    if sat = true ∨ t = .e2m1 ∨ mode = 1 ∨ mode = 2 ∧ neg = true ∨ mode = 3 ∧ neg = false then withSign t neg (maxCode t)
    else if t = .e4m3 then (if mode = 3 then 0xFF else 0x7F)
    else withSign t neg (infCode t) := by
  by_cases hs : sat = true ∨ t = .e2m1
  · simp [overflow, hs, or_assoc.symm]
  · obtain ⟨h1, h2⟩ := not_or.mp hs
    interval_cases mode <;> cases neg <;> simp [overflow, h1, h2]

/-- The code of a value stands for it under every rounding (R46, R49). -/
theorem roundTo_decodeF {t : Ty} (ht : t ∈ floatFormats) (mode z : Nat) {code : Nat} (hcode : code < 2 ^ (1 + expBits t + fracBits t))
    (hn : isNan (decodeF t code) = false) : roundTo t mode false false z (decodeF t code) = code := by
  obtain ⟨neg, c, hs, rfl⟩ := code_withSign hcode
  rcases lt_or_ge (maxCode t) c with hc | hc
  · obtain ⟨hi, rfl, hd⟩ := decodeF_above ht hs hc hn
    simp [hd, roundTo, infinite, hi]
  · rw [decodeF_withSign ht neg hc]
    have hg := OnGrid.ofCode t c
    by_cases h0 : codeSig t c = 0
    · obtain rfl : c = 0 := (codeMag_strictMono t).injective (by rw [codeMag, h0]; simp [codeMag, codeSig])
      rw [h0, roundTo_zero]
    · have hq := hg.unit h0 le_rfl (mul_lt_mul_of_pos_right (lt_add_one _) (by positivity))
      have hback : codeOf t (codeSig t c) (codeUnit t c) = c := (codeMag_strictMono t).injective hg.codeMag_codeOf
      rw [roundTo_fin h0 hq (roundAt_self ..), hback, if_neg hc.not_gt]
      rfl

/-- The three cases of a rounded magnitude, once its code is known: overflow, a subnormal one under FTZ, and the code itself. -/
theorem rounded_of_code {t : Ty} (ht : t ∈ floatFormats) {mode c : Nat} {sat ftz neg : Bool} {y top : ℚ} (hy : codeMag t c = y)
    (htop : ratOf (decodeF t (maxCode t)) = some top) {code : Nat} (hcode : code =
      if maxCode t < c then overflow t mode sat neg else if ftz && c < 2 ^ fracBits t then withSign t neg 0 else withSign t neg c) :
    (y ≤ top → ftz = true → y < (2 : ℚ) ^ emin t → code = withSign t neg 0) ∧
    (y ≤ top → ftz = false ∨ (2 : ℚ) ^ emin t ≤ y →
      ∃ c ≤ maxCode t, ratOf (decodeF t c) = some y ∧ code = withSign t neg c) ∧
    (top < y → code = overflow t mode sat neg) := by
  have hmono := codeMag_strictMono t
  obtain rfl : codeMag t (maxCode t) = top := Option.some.inj ((ratOf_decodeF ht le_rfl).symm.trans htop)
  subst hy
  rw [← codeMag_normal, hmono.le_iff_le, hmono.lt_iff_lt, hmono.lt_iff_lt, hmono.le_iff_le]
  refine ⟨fun hc hf hlt => ?_, fun hc hf => ⟨c, hc, ratOf_decodeF ht hc, ?_⟩, fun hc => ?_⟩
  · rw [hcode, if_neg hc.not_gt, if_pos (by simp [hf, hlt])]
  · rw [hcode, if_neg hc.not_gt, if_neg (by rcases hf with hf | hf <;> simp [hf])]
  · rw [hcode, if_pos hc]

/-- Rounding a finite value gives what the mode, the table and FTZ name (R43, R45 to R47). -/
theorem roundTo_rounded {t : Ty} (ht : t ∈ floatFormats) {mode : Nat} (hm : mode < 6) (z m : Nat) (sat ftz neg : Bool) (e : ℤ) :
    Rounded t mode sat ftz z neg (fun c => c ≤ (m : ℚ) * 2 ^ e) (fun c => (m : ℚ) * 2 ^ e ≤ c) (roundTo t mode sat ftz z (.fin neg m e)) := by
  intro k n q up hlow hnorm hhigh at_ hat hge hlt hup hn1 hn0 top htop
  have hp : (0 : ℚ) < 2 ^ q := by positivity
  have hg : OnGrid t k q := ⟨hlow, hnorm, hhigh⟩
  have hv : (m : ℚ) * 2 ^ e = m * 2 ^ (e - q) * 2 ^ q := by rw [mul_assoc, ← zpow_add₀ two_ne_zero, sub_add_cancel]
  have hle (y : ℚ) : at_ y ≤ m * 2 ^ e ↔ y ≤ m * 2 ^ (e - q) := by rw [hat, hv, mul_le_mul_iff_left₀ hp]
  have hgt (y : ℚ) : ¬(m : ℚ) * 2 ^ e ≤ at_ y ↔ y < m * 2 ^ (e - q) := by rw [not_le, hat, hv, mul_lt_mul_iff_left₀ hp]
  have hup' : up ↔ TakesUpper mode z k neg (m * 2 ^ (e - q) - k) := by
    simp only [hup, hle, hgt, TakesUpper, add_zero, lt_sub_iff_add_lt', le_sub_iff_add_le']
  rw [hup'] at hn1 hn0
  rw [hle] at hge
  have hlt' : (m : ℚ) * 2 ^ (e - q) < k + 1 := lt_of_not_ge fun h => hlt ((hle _).mpr h)
  have hcode : codeMag t (codeOf t n q) = at_ n := by
    rw [hat]
    by_cases h : TakesUpper mode z k neg (m * 2 ^ (e - q) - k)
    · rw [hn1 h]; exact hg.codeMag_codeOf_succ
    · rw [hn0 h]; exact hg.codeMag_codeOf
  rw [← overflow_eq t hm]
  refine rounded_of_code ht hcode htop ?_
  by_cases h0 : m = 0
  · subst h0
    rw [Nat.cast_zero, zero_mul] at hge hn0
    obtain rfl : k = 0 := Nat.le_zero.mp (by exact_mod_cast hge)
    have hn : n = 0 := hn0 fun h => by simpa using h.1
    simp [roundTo_zero, hn, codeOf]
  · refine roundTo_fin h0 (hg.unit h0 ?_ ?_) (roundAt_eq hm hge hlt' hn1 hn0)
    · rw [hv]; gcongr
    · rw [hv]; gcongr

/-! ## The statement -/

/-- Settles O13: sums and products by their signed integers, codes and roundings by the order of the codes' magnitudes. -/
theorem exactValues : Obligations.ExactValues := by
  refine ⟨fun mode a b x y ha hb => ?_, fun a b ha hb hab => ?_, fun t mode z code ht hcode hn => ?_,
    fun t mode z m sat ftz neg e ht hm _ => ?_⟩
  · obtain ⟨hsum, hvalid⟩ := addF_exact mode ha hb
    exact ⟨hsum, hvalid, mulF_exact ha hb⟩
  · refine ⟨xsAdd_finite ha hb hab, ?_, xsAdd_opposite, xsAdd_nan b, xsAdd_posInf hb⟩
    rw [ratOf_xsVal hab, Int.cast_add]
  · exact roundTo_decodeF ht mode z hcode hn
  · exact roundTo_rounded ht hm z m sat ftz neg e

end Sys2Proof.Machine
end

section
/-!
WRITES FROM OUTSIDE A BLOCK (R8, R45, R315, R375, R397, R398, R401, R406): what a register write, a doorbell, a kill, a retrain, a
rollover and a cold reset change, and what they leave.
-/

namespace Sys2Proof.Machine

open Sys2Proof

/-! ## Parts of the state after an update of another -/

@[simp] theorem link_touch (s : State) (n o k m : Nat) : (s.touch n o k).link m = s.link m := by simp [State.link]

@[simp] theorem job_modTask (s : State) (t j : Nat) (f : Task → Task) : (s.modTask t f).job j = s.job j := rfl

@[simp] theorem job_modJob (s : State) (j : Nat) (f : Job → Job) : (s.modJob j f).job j = f (s.job j) := Tbl.get_set ..

@[simp] theorem task_modJob (s : State) (j t : Nat) (f : Job → Job) : (s.modJob j f).task t = s.task t := rfl

@[simp] theorem region_modJob (s : State) (j c : Nat) (f : Job → Job) : (s.modJob j f).region c = s.region c := rfl

/-! ## A kill from outside (R375, R379) -/

/-- A task without a twin is killed in its own region alone. -/
theorem kill_single {s : State} {c t : Nat} (ht : (s.cluster c).task = some t) (htwin : (s.task t).twin = none) :
    s.kill c = ((s.strip c).modTask t (fun x => { x with ending := true, killed := true, ports := [] })).modJob (s.task t).job
      (fun j => { j with kill := true }) := by
  have hc : s.twinCluster c = none := by simp [State.twinCluster, State.taskOf, State.taskIdOf, ht, htwin]
  simp [State.kill, hc, State.kill1, ht]

/-- A region that is stripped is what its wreck is (R379). -/
theorem region_strip (s : State) (c : Nat) : (s.strip c).region c = (s.region c).wreck s.now := by
  rw [State.strip, region_modHub, State.region, cluster_modCluster]
  rfl

/-- The killed task ends, its job knows of it, and its region holds no token and no trap. -/
theorem kill_leaves {s : State} {c t : Nat} (ht : (s.cluster c).task = some t) (htwin : (s.task t).twin = none) :
    ((s.kill c).task t).ending = true ∧ ((s.kill c).task t).killed = true ∧ ((s.kill c).job (s.task t).job).kill = true ∧
    ((s.kill c).region c).frozen = none ∧ ((s.kill c).region c).nodes = [] := by
  have hr : (s.kill c).region c = (s.region c).wreck s.now := by
    rw [kill_single ht htwin, region_modJob, region_modTask, region_strip]
  rw [hr, kill_single ht htwin, job_modJob, task_modJob, task_modTask]
  exact ⟨rfl, rfl, rfl, rfl, rfl⟩

theorem hkill_idle {s : State} {v : Word} (h : v.getLsbD 8 = false ∨ (s.region (bitsOf v 5 0)).frozen = none) :
    s.hkill v = s.modHub (fun h => { h with hkPclus := bitsOf v 5 0 }) := by
  have hgo : ¬((v.getLsbD 8 && (s.region (bitsOf v 5 0)).frozen.isSome) = true) := by rcases h with h | h <;> simp [h, -BitVec.getLsbD_eq_getElem]
  exact if_neg hgo

theorem hkill_frozen {s : State} {v : Word} (hgo : v.getLsbD 8 = true) (hf : (s.region (bitsOf v 5 0)).frozen.isSome = true) :
    s.hkill v = (s.modHub (fun h => { h with hkPclus := bitsOf v 5 0 })).kill (bitsOf v 5 0) := by
  simp [State.hkill, hgo, hf]

/-! ## A doorbell (R315) -/

/-- Bits 63 to 5 of a word, put back at their place, are the word without its low five. -/
theorem doorbell_addr (v : Word) : BitVec.ofNat 64 (bitsOf v 63 5 * 32) = v &&& ~~~0x1F := ofNat_bitsOf_eq_and_mask v 63 5

/-- The address is 0 where its bits are. -/
theorem doorbell_addr_eq_zero (v : Word) : BitVec.ofNat 64 (bitsOf v 63 5 * 32) = 0 ↔ bitsOf v 63 5 = 0 := by
  have hlt : bitsOf v 63 5 < 2 ^ 59 := Nat.mod_lt _ (by decide)
  rw [← BitVec.toNat_inj, BitVec.toNat_ofNat, Nat.mod_eq_of_lt (by omega)]
  simp

/-- The card that a doorbell enqueues, with the address space latched. -/
def State.doorCard (s : State) (v : Word) : Card :=
  { addr := BitVec.ofNat 64 (bitsOf v 63 5 * 32), root := s.hub.xlRoot, asid := s.hub.xlAsid, bound := s.hub.hostBound }

section
variable {s : State} {v : Word}

theorem doorbell_zero (h : bitsOf v 63 5 = 0) :
    s.doorbell v = (s.modHub (fun h => { h with badAdr := true })).touch 0x105 0 10 :=
  if_pos ((doorbell_addr_eq_zero v).mpr h)

variable (h : bitsOf v 63 5 ≠ 0)
include h

theorem doorbell_full (hq : 256 ≤ s.hub.queue.length) :
    s.doorbell v = (s.modHub (fun h => { h with ovf := true })).touch 0x105 0 9 :=
  (if_neg fun e => h ((doorbell_addr_eq_zero v).mp e)).trans (if_pos hq)

theorem doorbell_enqueues (hq : s.hub.queue.length < 256) :
    s.doorbell v = s.modHub (fun h => { h with queue := h.queue ++ [s.doorCard v] }) :=
  (if_neg fun e => h ((doorbell_addr_eq_zero v).mp e)).trans (if_neg hq.not_ge)

end

/-! ## GO on a module (R397, R398) -/

section
variable {s : State} {m : Nat}

theorem linkGo_others {j : Nat} (h : j ≠ m) : (s.linkGo m).link j = s.link j := by
  unfold State.linkGo
  dsimp only
  split
  · rw [link_touch, link_touch, link_modLink_ne _ _ _ _ h.symm]
  · split
    · rw [link_touch, link_modLink_ne _ _ _ _ h.symm]
    · split
      · rfl
      · exact link_modLink_ne _ _ _ _ h.symm

theorem linkGo_badMap (h : (s.link m).mapBad = true) : (s.linkGo m).link m = { s.link m with badmap := true, fail := true } := by
  simp [State.linkGo, h]

variable (h : (s.link m).mapBad = false)
include h

theorem linkGo_busy (hq : (s.link m).quiesced = false) : (s.linkGo m).link m = { s.link m with fail := true } := by
  simp [State.linkGo, h, hq]

variable (hq : (s.link m).quiesced = true)
include hq

theorem linkGo_training (ht : (s.link m).training = true) : s.linkGo m = s := by
  simp [State.linkGo, h, hq, ht]

theorem linkGo_starts (ht : (s.link m).training = false) : (s.linkGo m).link m = { s.link m with
    go := true, training := true, trainEnd := s.now + 12500, mapUsed := (s.link m).map, twUsed := (s.link m).tw } := by
  simp [State.linkGo, h, hq, ht]

end

/-! ## A key rollover (R401) -/

theorem rollover_busy {s : State} {f : Nat} (h : (s.far f).roll = true) : (s.rollover f).far f = s.far f := by
  rw [State.rollover, far_modFar, if_pos h]

theorem rollover_starts {s : State} {f : Nat} (h : (s.far f).roll = false) :
    ((s.rollover f).far f).roll = true ∧ ((s.rollover f).far f).txslot = !(s.far f).txslot ∧ ((s.rollover f).far f).retiring = true ∧
    ((s.rollover f).far f).oldfl = (s.far f).inFlight ∧ ∀ x ∈ ((s.rollover f).far f).holds, x.old = true ∧ s.now < x.until_ := by
  rw [State.rollover, far_modFar, if_neg (by simp [h])]
  refine ⟨rfl, rfl, rfl, rfl, fun x hx => ?_⟩
  obtain ⟨y, hy, rfl⟩ := List.mem_map.mp hx
  exact ⟨rfl, by simpa using (List.mem_filter.mp hy).2⟩

/-! ## A cold reset (R406, R407) -/

/-- An address of which no cell is left reads 0. -/
theorem Memory.read_filter_eq_zero (m : List Host.Cell) (p : Host.Cell → Bool) (a : Nat) (h : ∀ v, p (a, v) = false) :
    Memory.read (m.filter p) a = 0 := by
  induction m with
  | nil => rfl
  | cons x m ih =>
    obtain ⟨b, v⟩ := x
    by_cases hb : b = a
    · subst hb
      rw [List.filter_cons_of_neg (by simp [h])]
      exact ih
    · rw [List.filter_cons]
      split
      · rw [Memory.read, if_neg hb]; exact ih
      · exact ih

/-- A cold reset that no step fails has cleared all near memory. -/
theorem coldReset_clears {s : State} {k a : Nat} (h : s.resetStep k = 0) (ha : isSram a = true ∨ rangeOf a = some 0) :
    Memory.read (s.coldReset k).mem a = 0 := by
  refine Memory.read_filter_eq_zero _ _ _ fun _ => ?_
  rcases ha with ha | ha <;> simp [h, ha]

theorem resetStep_named {s : State} {k : Nat} (h : k = 1 ∨ ∀ x ∈ s.hub.firmware, x.accepted = true) : s.resetStep k = k :=
  if_pos (h.imp_right List.all_eq_true.mpr)

theorem resetStep_rejected {s : State} {k : Nat} (hk : k ≠ 1) (h : ∃ x ∈ s.hub.firmware, x.accepted = false) : s.resetStep k = 2 := by
  obtain ⟨x, hx, hr⟩ := h
  exact if_neg fun e => by simpa [hr] using List.all_eq_true.mp (e.resolve_left hk) x hx

/-! ## Package registers (R203) -/

theorem linkGo_mem (s : State) (m : Nat) : (s.linkGo m).mem = s.mem := by
  unfold State.linkGo
  dsimp only
  split
  · simp
  · split
    · simp
    · split
      · rfl
      · rfl

theorem doorbell_mem (s : State) (v : Word) : (s.doorbell v).mem = s.mem := by
  unfold State.doorbell
  dsimp only
  split
  · simp
  · split
    · simp
    · rfl

theorem hkill_mem (s : State) (v : Word) : (s.hkill v).mem = s.mem := by
  unfold State.hkill
  dsimp only
  split
  · exact (sameMem_kill ..).1
  · rfl

theorem writeLink_mem (s : State) (m n : Nat) (v : Word) : (s.writeLink m n v).mem = s.mem := by
  unfold State.writeLink
  dsimp only
  split
  · split
    · rw [linkGo_mem]; simp
    · simp
  all_goals simp

/-- No register but PKG_RESET has an effect on memory. -/
theorem writePackage_mem (s : State) (m : Option Nat) {n : Nat} (v : Word) (h : n ≠ 0x7F0) : (s.writePackage m n v).mem = s.mem := by
  unfold State.writePackage
  generalize hu : (if 0x500 ≤ n ∧ n < 0x600 then s else s.touch n (if n = 0x411 then 1 else 0) 64) = u
  have hm : u.mem = s.mem := by
    subst hu
    split
    · rfl
    · exact touch_mem ..
  dsimp only
  rw [← hm]
  split
  case h_4 => exact doorbell_mem ..
  case h_15 | h_16 =>
    split
    · rfl
    · rfl
  case h_17 | h_18 | h_19 | h_20 =>
    split
    · exact writeLink_mem ..
    · rfl
  case h_25 => exact hkill_mem ..
  case h_27 => exact absurd rfl h
  all_goals rfl

/-- A write of the whole register hides no flag of it that this cycle has set. -/
theorem w1c_touch_whole (s : State) (n o : Nat) (old : Bool) (v : Word) {k : Nat} (h : k ≠ 64) :
    (s.touch n o 64).w1c n o old v k = (old && ((n, o, k) ∈ s.touched || !v.getLsbD k)) := by
  rw [w1c_eq]
  unfold State.touch
  split
  · rfl
  · simp [h]

/-- What a write of a package register changes in the hub and the ring, for the registers with plain fields and for TRAP_STAT. -/
theorem writePackage_fields (s : State) (m : Option Nat) (v : Word) :
    (s.writePackage m 0x100 v).hub = { s.hub with starve := bitsOf v 39 0 } ∧
    (s.writePackage m 0x101 v).hub = { s.hub with probeDelay := bitsOf v 31 0 } ∧
    (s.writePackage m 0x102 v).hub = { s.hub with pwait := bitsOf v 31 0 } ∧
    (s.writePackage m 0x201 v).hub = { s.hub with xlAsid := bitsOf v 15 0 } ∧
    ((s.writePackage m 0x301 v).ring.cap = bitsOf v 1 0 ∧ (s.writePackage m 0x301 v).ring.en = v.getLsbD 2) ∧
    (s.writePackage m 0x400 v).hub = { s.hub with partKey := v.setWidth 16, keyValid := v.getLsbD 16 } ∧
    (s.writePackage m 0x702 v).hub = { s.hub with
      double := s.hub.double && ((0x702, 0, 0) ∈ s.touched || !v.getLsbD 0), lost := s.hub.lost && ((0x702, 0, 1) ∈ s.touched || !v.getLsbD 1)
      full := s.hub.full && ((0x702, 0, 2) ∈ s.touched || !v.getLsbD 2) } ∧
    (s.writePackage m 0x710 v).hub = { s.hub with mirEn := v.getLsbD 0, uwait := bitsOf v 31 8 } := by
  refine ⟨?_, ?_, ?_, ?_, ⟨rfl, rfl⟩, ?_, ?_, ?_⟩
  case refine_6 =>
    simp only [State.writePackage, modHub_hub]
    rw [if_neg (by decide), if_neg (by decide), touch_hub, w1c_touch_whole _ _ _ _ _ (by decide), w1c_touch_whole _ _ _ _ _ (by decide),
      w1c_touch_whole _ _ _ _ _ (by decide)]
  all_goals simp only [State.writePackage, modHub_hub]; rw [if_neg (by decide), touch_hub]

/-- Settles O49: each write by the equations of what it starts. -/
theorem registersFromOutside : Obligations.RegistersFromOutside := by
  refine ⟨fun n m v s => ?_, fun v s => ⟨fun h => ?_, fun h hq => ?_, fun h hq => ?_⟩,
    fun v s c t hc => ⟨fun h => ?_, fun hgo hf ht htwin => ?_⟩, fun k v s => ?_, fun e m s hm => ?_, fun f s => ?_, fun k s => ?_⟩
  · rcases lt_or_ge n 0x100 with hn | hn
    · exact ⟨s, congrArg _ (if_pos hn), fun _ => rfl, by omega, by omega, by omega, by omega, by omega, by omega, by omega, by omega,
        fun _ => rfl⟩
    · obtain ⟨h100, h101, h102, h201, h301, h400, h702, h710⟩ := writePackage_fields s (linkOf (m / 104) (m % 104)) v
      refine ⟨s.writePackage (linkOf (m / 104) (m % 104)) n v, congrArg _ (if_neg hn.not_gt), by omega, ?_, ?_, ?_, ?_, ?_, ?_, ?_, ?_,
        writePackage_mem s _ v⟩ <;> rintro rfl <;> assumption
  · exact congrArg _ (doorbell_zero h)
  · exact congrArg _ (doorbell_full h hq)
  · exact ⟨s.doorCard v, doorbell_addr v, rfl, rfl, rfl, congrArg _ (doorbell_enqueues h hq)⟩
  · subst hc
    exact congrArg _ (hkill_idle h)
  · subst hc
    obtain ⟨hend, hkill, hjob, hfrozen, hnodes⟩ := kill_leaves (s := s.modHub (fun h => { h with hkPclus := bitsOf v 5 0 })) ht htwin
    rw [← hkill_frozen hgo hf] at hend hkill hjob hfrozen hnodes
    exact ⟨s.hkill v, rfl, hend, hkill, hjob, hfrozen, hnodes, hkill_mem ..⟩
  · refine ⟨_, rfl, ?_, ?_, rfl, fun j hj => task_modTask_ne _ _ hj.symm⟩
    · rw [task_modTask]; rfl
    · rw [task_modTask]; rfl
  · subst hm
    refine ⟨_, rfl, fun j hj => linkGo_others hj, linkGo_badMap, linkGo_busy, fun h hq ht => by rw [linkGo_training h hq ht],
      fun ht hq h => ?_⟩
    rw [linkGo_starts h hq ht]
    exact ⟨rfl, rfl, by simp [Link.carries]⟩
  · exact ⟨_, rfl, rfl, rollover_busy, rollover_starts⟩
  · refine ⟨s.coldReset k, rfl, rfl, rfl, rfl, rfl, rfl, rfl, rfl, resetStep_named, fun ⟨hk, hx⟩ => ?_, fun h0 a => coldReset_clears h0⟩
    have h2 := resetStep_rejected hk hx
    exact ⟨h2, by simp [State.coldReset, h2]⟩

end Sys2Proof.Machine
end

section
/-!
FIELDS (R3, R64, R66 to R74): the codes of a word's fields, and what stands where in the word of each format.
-/

namespace Sys2Proof

open Sys2Proof.Decode Sys2Proof.Laws

/-! ## Codes (R64, R66, R74) -/

theorem Decode.pmOf_eq_some_iff {n : Nat} {pm : Pm} : pmOf n = some pm ↔ pm.code = n := by
  constructor
  · intro h
    unfold pmOf at h
    split at h <;> cases h <;> rfl
  · rintro rfl
    cases pm <;> rfl

theorem Ty.ofCode_eq_some_iff {n : Nat} {t : Ty} : Ty.ofCode n = some t ↔ t.code = n := by
  constructor
  · intro h
    unfold Ty.ofCode at h
    split at h <;> cases h <;> rfl
  · rintro rfl
    cases t <;> rfl

theorem Target.ofCode_code {t : Target} (h : t.ok = true) : Target.ofCode t.code = some t := by
  cases t with
  | none => rfl
  | left n | right n | pred n =>
    have hn : n.toNat < 192 := by simpa [Target.ok] using h
    simp (disch := omega) [Target.ofCode, Target.code, if_pos, if_neg]
  | write n | gate n =>
    simp (disch := omega) [Target.ofCode, Target.code, if_pos, if_neg]

theorem Target.ofCode_eq_some_iff {n : Nat} {t : Target} : Target.ofCode n = some t ↔ t.ok = true ∧ t.code = n := by
  refine ⟨fun h => ?_, fun ⟨hok, hn⟩ => hn ▸ ofCode_code hok⟩
  unfold Target.ofCode at h
  split_ifs at h <;> cases h <;> simp [Target.ok, Target.code] <;> omega

/-! ## Fields of a word (R3) -/

theorem Decode.field_toNat (w : Word) (l n : Nat) : (field w l n).toNat = w.toNat / 2 ^ l % 2 ^ n := by
  simp [field, Nat.shiftRight_eq_div_pow]

theorem Decode.eq_field_iff {w : Word} {l n : Nat} {x : BitVec n} : x = field w l n ↔ x.toNat = w.toNat / 2 ^ l % 2 ^ n := by
  rw [← BitVec.toNat_inj, field_toNat]

theorem eq_getLsbD_iff {w : Word} {l : Nat} {b : Bool} : b = w.getLsbD l ↔ b.toNat = w.toNat / 2 ^ l % 2 := by
  rw [BitVec.getLsbD, Nat.testBit_eq_decide_div_mod_eq]
  rcases Nat.mod_two_eq_zero_or_one (w.toNat / 2 ^ l) with h | h <;> cases b <;> simp [h]

/-- A word is the head fields with the format bits below them exactly when each stands in its place (R66). -/
theorem headWord_eq_iff {op t0 t1 low : Nat} {pm : Pm} {w : Word} (ho : op < 2 ^ 8) (h0 : t0 < 2 ^ 10) (h1 : t1 < 2 ^ 10)
    (hl : low < 2 ^ 34) : headWord op pm t0 t1 low = w ↔
      op = bitsOf w 63 56 ∧ pm.code = bitsOf w 55 54 ∧ t0 = bitsOf w 53 44 ∧ t1 = bitsOf w 43 34 ∧ low = bitsOf w 33 0 := by
  have hp : pm.code < 4 := by cases pm <;> decide
  have hw := w.isLt
  rw [← BitVec.toNat_inj]
  simp only [bitsOf, headWord, BitVec.toNat_ofNat]
  omega

theorem opcodeByte_lt {w : Word} : bitsOf w 63 56 < 2 ^ 8 := Nat.mod_lt _ (by decide)

/-- A check that refuses a word unless a condition holds. -/
theorem ite_eq_ok_iff {ε α : Type} {c : Prop} [Decidable c] {x : Except ε α} {e : ε} {a : α} :
    (if c then x else .error e) = .ok a ↔ c ∧ x = .ok a := by
  split_ifs with h <;> simp [h]

/-! ## The format bits (R67 to R73)

What an instruction puts below T1, as `encode` writes it: it fits, and stands in a word exactly when the word's fields are its own. -/

def FmtA.low (f : FmtA) : Nat := f.ty.code * 2 ^ 30 + f.md.toNat * 2 ^ 24 + f.ph.toNat * 2 ^ 22 + f.ir.toNat * 2 ^ 21 + f.imm.toNat
def FmtC.low (f : FmtC) : Nat := f.ty.code * 2 ^ 30 + f.cf.toNat * 2 ^ 24 + f.imm.toNat
def FmtM.low (f : FmtM) : Nat := f.sz.toNat * 2 ^ 31 + f.sc.toNat * 2 ^ 28 + f.ord.toNat * 2 ^ 26 + f.lsid.toNat * 2 ^ 21 + f.off.toNat
def FmtE.low (f : FmtE) : Nat := f.wsem.toNat * 2 ^ 26 + f.wthr.toNat * 2 ^ 14 + f.ssem.toNat * 2 ^ 6 + f.sinc.toNat
def FmtB.low (f : FmtB) : Nat := f.exn.toNat * 2 ^ 31 + f.off.toNat * 2 ^ 11
def FmtS.low (f : FmtS) : Nat := f.sysno.toNat * 2 ^ 22

theorem FmtA.low_lt (f : FmtA) : f.low < 2 ^ 34 := by
  have ht := Ty.code_lt f.ty
  have hr := f.ir.toNat_lt
  simp only [FmtA.low]
  omega

theorem FmtC.low_lt (f : FmtC) : f.low < 2 ^ 34 := by
  have ht := Ty.code_lt f.ty
  simp only [FmtC.low]
  omega

theorem FmtM.low_lt (f : FmtM) : f.low < 2 ^ 34 := by simp only [FmtM.low]; omega
theorem FmtE.low_lt (f : FmtE) : f.low < 2 ^ 34 := by simp only [FmtE.low]; omega
theorem FmtB.low_lt (f : FmtB) : f.low < 2 ^ 34 := by simp only [FmtB.low]; omega
theorem FmtS.low_lt (f : FmtS) : f.low < 2 ^ 34 := by simp only [FmtS.low]; omega

theorem FmtA.low_eq_iff {f : FmtA} {w : Word} : f.low = bitsOf w 33 0 ↔ f.ty.code = bitsOf w 33 30 ∧ f.md = field w 24 6 ∧
    f.ph = field w 22 2 ∧ f.ir = w.getLsbD 21 ∧ f.imm = field w 0 21 := by
  have ht := Ty.code_lt f.ty
  have hr := f.ir.toNat_lt
  simp only [FmtA.low, bitsOf, eq_field_iff, eq_getLsbD_iff]
  omega

theorem FmtC.low_eq_iff {f : FmtC} {w : Word} :
    f.low = bitsOf w 33 0 ↔ f.ty.code = bitsOf w 33 30 ∧ f.cf = field w 24 6 ∧ f.imm = field w 0 24 := by
  have ht := Ty.code_lt f.ty
  simp only [FmtC.low, bitsOf, eq_field_iff]
  omega

theorem FmtM.low_eq_iff {f : FmtM} {w : Word} : f.low = bitsOf w 33 0 ↔ f.sz = field w 31 3 ∧ f.sc = field w 28 3 ∧
    f.ord = field w 26 2 ∧ f.lsid = field w 21 5 ∧ f.off = field w 0 21 := by
  simp only [FmtM.low, bitsOf, eq_field_iff]
  omega

theorem FmtE.low_eq_iff {f : FmtE} {w : Word} : f.low = bitsOf w 33 0 ↔ f.wsem = field w 26 8 ∧ f.wthr = field w 14 12 ∧
    f.ssem = field w 6 8 ∧ f.sinc = field w 0 6 := by
  simp only [FmtE.low, bitsOf, eq_field_iff]
  omega

theorem FmtB.low_eq_iff {f : FmtB} {w : Word} :
    f.low = bitsOf w 33 0 ↔ bitsOf w 10 0 = 0 ∧ f.exn = field w 31 3 ∧ f.off = field w 11 20 := by
  simp only [FmtB.low, bitsOf, eq_field_iff]
  omega

theorem FmtT.code_eq_iff {f : FmtT} {w : Word} : f.code.toNat = bitsOf w 33 0 ↔ bitsOf w 33 16 = 0 ∧ f.code = field w 0 16 := by
  simp only [bitsOf, eq_field_iff]
  omega

theorem FmtS.low_eq_iff {f : FmtS} {w : Word} : f.low = bitsOf w 33 0 ↔ bitsOf w 21 0 = 0 ∧ f.sysno = field w 22 12 := by
  simp only [FmtS.low, bitsOf, eq_field_iff]
  omega

end Sys2Proof
end

section
/-!
OPCODES (R65, R75): what the tables of the seven formats make, and that they make every instruction that has an opcode.
-/

namespace Sys2Proof

open Sys2Proof.Decode Sys2Proof.Laws

/-- An instruction with its word and its targets, whose legality is what the word's checks say. -/
structure Instr.Plain (i : Instr) (w : Word) (t0 t1 : Target) : Prop where
  encode_eq : encode i = w
  targets : i.targets01 = (t0, t1)
  encodable_eq : i.encodable = i.wellFormed
  unitsOk : i.unitsOk = true

/-- An opcode of a format that has both targets. -/
structure TwoTargets (op : Nat) : Prop where
  known : known op = true
  notE : opE op = none
  notB : opB op = none
  notT : opT op = none

/-! ## What each table makes

An opcode of a table is in no other that the decoder asks before it, and its instruction has the word of its format. -/

variable {op : Nat}

theorem Decode.opA_makes {mk : FmtA → Instr} (h : opA op = some mk) :
    TwoTargets op ∧ ∀ f, (mk f).Plain (headWord op f.pm f.t0.code f.t1.code f.low) f.t0 f.t1 := by
  unfold opA at h
  split at h <;> cases h <;> exact ⟨⟨rfl, rfl, rfl, rfl⟩, fun f => ⟨rfl, rfl, Bool.and_true _, rfl⟩⟩

theorem Decode.opC_makes {mk : FmtC → Instr} (h : opC op = some mk) :
    (opA op = none ∧ TwoTargets op) ∧ ∀ f, (mk f).Plain (headWord op f.pm f.t0.code f.t1.code f.low) f.t0 f.t1 := by
  unfold opC at h
  split at h <;> cases h <;> exact ⟨⟨rfl, rfl, rfl, rfl, rfl⟩, fun f => ⟨rfl, rfl, Bool.and_true _, rfl⟩⟩

theorem Decode.opM_makes {mk : FmtM → Instr} (h : opM op = some mk) :
    (opA op = none ∧ opC op = none ∧ TwoTargets op) ∧
      ∀ f, (mk f).Plain (headWord op f.pm f.t0.code f.t1.code f.low) f.t0 f.t1 := by
  unfold opM at h
  split at h <;> cases h <;> exact ⟨⟨rfl, rfl, rfl, rfl, rfl, rfl⟩, fun f => ⟨rfl, rfl, Bool.and_true _, rfl⟩⟩

theorem Decode.opS_makes {mk : FmtS → Instr} (h : opS op = some mk) :
    (opA op = none ∧ opC op = none ∧ opM op = none ∧ TwoTargets op) ∧
      ∀ f, (mk f).Plain (headWord op f.pm f.t0.code f.t1.code f.low) f.t0 f.t1 := by
  unfold opS at h
  split at h <;> cases h <;> exact ⟨⟨rfl, rfl, rfl, rfl, rfl, rfl, rfl⟩, fun f => ⟨rfl, rfl, Bool.and_true _, rfl⟩⟩

theorem Decode.opE_makes {mk : FmtE → Instr} (h : opE op = some mk) :
    known op = true ∧ ∀ f, (mk f).Plain (headWord op f.pm f.t0.code f.flg.toNat f.low) f.t0 .none := by
  unfold opE at h
  split at h <;> cases h <;> exact ⟨rfl, fun f => ⟨rfl, rfl, Bool.and_true _, rfl⟩⟩

theorem Decode.opT_makes {mk : FmtT → Instr} (h : opT op = some mk) :
    (known op = true ∧ opE op = none ∧ opB op = none) ∧
      ∀ f, (mk f).Plain (headWord op f.pm 0x3FF 0x3FF f.code.toNat) .none .none := by
  unfold opT at h
  split at h <;> cases h <;> exact ⟨⟨rfl, rfl, rfl⟩, fun f => ⟨rfl, rfl, Bool.and_true _, rfl⟩⟩

/-! The offset alone decides the legality of an exit: the indirect ones have none (R72). -/

@[simp] theorem Instr.encodable_exit (f : FmtB) : (exit f).encodable = true := rfl
@[simp] theorem Instr.encodable_call (f : FmtB) : (call f).encodable = true := rfl
@[simp] theorem Instr.encodable_yield (f : FmtB) : (yield f).encodable = true := rfl
@[simp] theorem Instr.encodable_exiti (f : FmtB) : (exiti f).encodable = (f.off == 0) := rfl
@[simp] theorem Instr.encodable_calli (f : FmtB) : (calli f).encodable = (f.off == 0) := rfl
@[simp] theorem Instr.encodable_ret (f : FmtB) : (ret f).encodable = (f.off == 0) := rfl

theorem Decode.field_off_eq_zero_iff {w : Word} : field w 11 20 = 0#20 ↔ bitsOf w 30 11 = 0 := by
  rw [← BitVec.toNat_inj, field_toNat]; rfl

theorem Decode.opB_makes {mk : FmtB → Instr} (h : opB op = some mk) :
    (known op = true ∧ opE op = none) ∧ (∀ f, encode (mk f) = headWord op f.pm 0x3FF 0x3FF f.low) ∧
      ∀ w pm, exitWord w pm mk = if bitsOf w 10 0 = 0 ∧ (mk ⟨pm, field w 31 3, field w 11 20⟩).encodable = true then
        .ok (mk ⟨pm, field w 31 3, field w 11 20⟩) else .error .reserved := by
  unfold opB at h
  split at h <;> cases h <;> refine ⟨⟨rfl, rfl⟩, fun f => rfl, fun w pm => ?_⟩
  case h_1 | h_3 | h_6 => simp [exitWord]
  all_goals simp [exitWord, ← not_and_or, -not_and, field_off_eq_zero_iff]

/-! ## Every opcode is in one of the tables -/

/-- An instruction that a table makes under an opcode. -/
inductive Made (op : Nat) : Instr → Prop
  | a {mk} (f : FmtA) : opA op = some mk → Made op (mk f)
  | c {mk} (f : FmtC) : opC op = some mk → Made op (mk f)
  | m {mk} (f : FmtM) : opM op = some mk → Made op (mk f)
  | e {mk} (f : FmtE) : opE op = some mk → Made op (mk f)
  | b {mk} (f : FmtB) : opB op = some mk → Made op (mk f)
  | t {mk} (f : FmtT) : opT op = some mk → Made op (mk f)
  | s {mk} (f : FmtS) : opS op = some mk → Made op (mk f)

theorem Instr.opcode_lt (i : Instr) : i.opcode < 2 ^ 8 := by
  unfold Instr.opcode
  split <;> decide

/-- What has a word has an opcode (R76). -/
theorem Instr.opcode_ne_zero {i : Instr} (he : i.encodable = true) : i.opcode ≠ 0 := by
  simp only [Instr.encodable, Bool.and_eq_true] at he
  obtain ⟨-, he⟩ := he
  split at he
  case h_4 => simpa using he
  all_goals simp [Instr.opcode]

open OpcodeByte Instr in
/-- An instruction that has an opcode is made under it, and its word carries it. -/
theorem Instr.made_opcode (i : Instr) (h : i.opcode ≠ 0) : Made i.opcode i ∧ OpcodeByte.Statement i := by
  cases i with
  | add f | sub f | adds f | addsu f | subs f | subsu f | mul f | mulh f | mulhu f | div f | divu f | rem f | remu f | neg f | abs f
  | min f | max f | minu f | maxu f | addmin f | land f | lor f | lxor f | andn f | lnot f | shl f | shr f | sra f | rotl f | clz f
  | ctz f | popc f | sext f | zext f | bswap f | sel f | ceq f | cne f | clt f | cltu f | cle f | cleu f | ctst f | movi f | movhi f
  | lea f | fadd f | fsub f | fmul f | fmac f | fmin f | fmax f | fabs f | fneg f | feq f | flt f | fle f | funord f | fcvt f | fcvti f
  | icvtf f | frnd f | frcp f | frsq f | fsqrt f | fexp2 f | flog2 f | ftanh f | bqnt f | bdeq f | xsacc f | xsfin f | psum f | pmax f
  | pmin f | plsh f | pperm f | pbcast f | pext f | pins f | pjoin f | psplit f | plen f | pmask f | lutx f | fsmst f | bext f | bdep f
  | hashx f | mma f | ldst f | mswap f | mzero f | mdrain f | tstat f | tset f => exact ⟨.a f rfl, ofA _ f ⟨_, rfl⟩ (opcode_lt _)⟩
  | mov f | mov4 f | steer f | gate f | merge f | mrga f | carry f | invar f | loopgen f | repeatN f | cand f | cor f | cnot f | cxor f
  | cdat f | split f | omerge f | sink f => exact ⟨.c f rfl, ofC _ f rfl ⟨_, rfl⟩ (opcode_lt _)⟩
  | ld f | st f | ldp f | stp f | ldfe f | stfe f | lnemp f | lnful f | amo f | cas f | fence f | pref f | rmw f =>
    exact ⟨.m f rfl, ofM _ f rfl rfl rfl (opcode_lt _)⟩
  | sbind f | sfree f | tcopy f | tgath f | tscat f | board f | migr f | msend f | swait f | ssig f | sset f | kick f | rspeed f
  | repl f => exact ⟨.e f rfl, ofE _ f rfl rfl rfl rfl (opcode_lt _)⟩
  | exit f | exiti f | call f | calli f | ret f | yield f => exact ⟨.b f rfl, .inr (exitWord_opcode _ f (opcode_lt _))⟩
  | trap f | brk f => exact ⟨.t f rfl, .inr (trapWord_opcode _ f (opcode_lt _))⟩
  | sysrd f | syswr f | tsget f | tret f | tlbinv f | keyrev f | ctxsv f | ctxld f | cfgld f | linkq f | evwait f =>
    exact ⟨.s f rfl, ofS _ f rfl rfl rfl rfl rfl (opcode_lt _)⟩
  | _ => exact absurd rfl h

end Sys2Proof
end

section
/-!
ENCODE AND DECODE (R66 to R78): format by format the words that decode are the words of the encodable instructions, each to its own.
-/

namespace Sys2Proof

open Sys2Proof.Decode Sys2Proof.Laws

/-! ## The checks after the targets (R78) -/

section
variable {i x : Instr} {w : Word} {t0 t1 : Target}

theorem Decode.judge_eq_ok_iff : judge x = .ok i ↔
    x = i ∧ x.targetFault = false ∧ x.undrivenFault = false ∧ x.fieldFault = false ∧ x.comboFault = false := by
  unfold judge
  split_ifs <;> simp [*]

/-- The checks after the targets pass an instruction on exactly when it has a word. -/
theorem Instr.Plain.judge_iff (hx : x.Plain w t0 t1) : judge x = .ok i ↔ i = x ∧ i.encodable = true := by
  rw [judge_eq_ok_iff, eq_comm]
  refine and_congr_right fun h => ?_
  rw [h, hx.encodable_eq]
  simp [Instr.wellFormed, hx.unitsOk, and_assoc]

theorem Instr.Plain.targets_ok (hx : x.Plain w t0 t1) (he : x.encodable = true) : t0.ok = true ∧ t1.ok = true := by
  have h : x.targetFault = false := by
    rw [hx.encodable_eq] at he
    simp_all [Instr.wellFormed]
  simp_all [Instr.targetFault, hx.targets]

end

/-! ## The decoder by the parts of a word (R66, R78) -/

section
variable {w : Word} {i : Instr}

theorem Decode.withTy_eq_ok_iff {mk : Ty → Instr} :
    withTy w mk = .ok i ↔ ∃ t : Ty, t.code = bitsOf w 33 30 ∧ judge (mk t) = .ok i := by
  simp only [← Ty.ofCode_eq_some_iff, withTy]
  cases Ty.ofCode (bitsOf w 33 30) with
  | some t => simp
  | none => cases judge (mk .i64) with
    | ok j => simp
    | error e => cases e <;> simp

theorem Decode.mustBeNone_eq_none_iff {n : Nat} : mustBeNone n = none ↔ 0x3FF = n := by
  simp [mustBeNone, eq_comm]

theorem Decode.known_of_decode (h : decode w = .ok i) : known (bitsOf w 63 56) = true := by
  by_contra hk
  simp [decode, Bool.eq_false_of_not_eq_true hk] at h

/-- Of a word whose format has both targets, PM and the targets are read before the fields of the format. -/
theorem decode_twoTargets (h : TwoTargets (bitsOf w 63 56)) : decode w = .ok i ↔ ∃ (pm : Pm) (t0 t1 : Target),
    pm.code = bitsOf w 55 54 ∧ (t0.ok = true ∧ t0.code = bitsOf w 53 44) ∧ (t1.ok = true ∧ t1.code = bitsOf w 43 34) ∧
      body w (bitsOf w 63 56) pm t0 t1 = .ok i := by
  simp only [← pmOf_eq_some_iff, ← Target.ofCode_eq_some_iff, decode, h.known, h.notE, h.notB, h.notT]
  cases pmOf (bitsOf w 55 54) with
  | none => simp
  | some pm => cases Target.ofCode (bitsOf w 53 44) with
    | none => simp
    | some t0 => cases Target.ofCode (bitsOf w 43 34) <;> simp

theorem decode_command {mk : FmtE → Instr} (h : opE (bitsOf w 63 56) = some mk) : decode w = .ok i ↔ ∃ (pm : Pm) (t0 : Target),
    pm.code = bitsOf w 55 54 ∧ (t0.ok = true ∧ t0.code = bitsOf w 53 44) ∧
      judge (mk ⟨pm, t0, field w 34 10, field w 26 8, field w 14 12, field w 6 8, field w 0 6⟩) = .ok i := by
  simp only [← pmOf_eq_some_iff, ← Target.ofCode_eq_some_iff, decode, (opE_makes h).1, h]
  cases pmOf (bitsOf w 55 54) with
  | none => simp
  | some pm => cases Target.ofCode (bitsOf w 53 44) <;> simp

theorem decode_exit {mk : FmtB → Instr} (h : opB (bitsOf w 63 56) = some mk) : decode w = .ok i ↔
    ∃ pm : Pm, pm.code = bitsOf w 55 54 ∧ 0x3FF = bitsOf w 53 44 ∧ 0x3FF = bitsOf w 43 34 ∧ exitWord w pm mk = .ok i := by
  obtain ⟨⟨hk, he⟩, -⟩ := opB_makes h
  simp only [← pmOf_eq_some_iff, ← mustBeNone_eq_none_iff, decode, hk, he, h]
  cases pmOf (bitsOf w 55 54) with
  | none => simp
  | some pm => cases mustBeNone (bitsOf w 53 44) with
    | some e => simp
    | none => cases mustBeNone (bitsOf w 43 34) <;> simp

theorem decode_trap {mk : FmtT → Instr} (h : opT (bitsOf w 63 56) = some mk) : decode w = .ok i ↔
    ∃ pm : Pm, pm.code = bitsOf w 55 54 ∧ 0x3FF = bitsOf w 53 44 ∧ 0x3FF = bitsOf w 43 34 ∧ trapWord w pm mk = .ok i := by
  obtain ⟨⟨hk, he, hb⟩, -⟩ := opT_makes h
  simp only [← pmOf_eq_some_iff, ← mustBeNone_eq_none_iff, decode, hk, he, hb, h]
  cases pmOf (bitsOf w 55 54) with
  | none => simp
  | some pm => cases mustBeNone (bitsOf w 53 44) with
    | some e => simp
    | none => cases mustBeNone (bitsOf w 43 34) <;> simp

end

/-! ## One format at a time -/

/-- A word decodes to what a maker makes exactly when it is the word of that instruction. -/
def DecodesBy {F : Type} (w : Word) (mk : F → Instr) : Prop :=
  ∀ i, decode w = .ok i ↔ ∃ f, i = mk f ∧ i.encodable = true ∧ encode i = w

section
variable {w : Word}

/-- A format decodes as it encodes when the decoder reads each of its fields from where the encoder puts it. -/
theorem decodesBy_of_fields {F : Type} {mk : F → Instr} {reads : F → Prop}
    (hd : ∀ i, decode w = .ok i ↔ ∃ f, reads f ∧ i = mk f ∧ i.encodable = true)
    (he : ∀ f, (mk f).encodable = true → (encode (mk f) = w ↔ reads f)) : DecodesBy w mk := by
  intro i
  rw [hd]
  refine exists_congr fun f => ⟨?_, ?_⟩
  · rintro ⟨hr, rfl, hi⟩
    exact ⟨rfl, hi, (he f hi).2 hr⟩
  · rintro ⟨rfl, hi, hw⟩
    exact ⟨(he f hi).1 hw, rfl, hi⟩

/-- A format with both targets: what stands above its own bits is read by the head of the decoder. -/
theorem decodesBy_of_body {F : Type} {mk : F → Instr} {pm : F → Pm} {t0 t1 : F → Target} {low : F → Nat}
    (ho : TwoTargets (bitsOf w 63 56)) (hl : ∀ f, low f < 2 ^ 34)
    (hp : ∀ f, (mk f).Plain (headWord (bitsOf w 63 56) (pm f) (t0 f).code (t1 f).code (low f)) (t0 f) (t1 f))
    (hb : ∀ p a b i, body w (bitsOf w 63 56) p a b = .ok i ↔
      ∃ f, (pm f = p ∧ t0 f = a ∧ t1 f = b ∧ low f = bitsOf w 33 0) ∧ i = mk f ∧ i.encodable = true) : DecodesBy w mk := by
  refine decodesBy_of_fields (reads := fun f => (pm f).code = bitsOf w 55 54 ∧ ((t0 f).ok = true ∧ (t0 f).code = bitsOf w 53 44) ∧
    ((t1 f).ok = true ∧ (t1 f).code = bitsOf w 43 34) ∧ low f = bitsOf w 33 0) (fun i => ?_) (fun f he => ?_)
  · rw [decode_twoTargets ho]
    constructor
    · rintro ⟨p, a, b, hpm, h0, h1, h⟩
      obtain ⟨f, ⟨rfl, rfl, rfl, hlow⟩, hi⟩ := (hb p a b i).1 h
      exact ⟨f, ⟨hpm, h0, h1, hlow⟩, hi⟩
    · rintro ⟨f, ⟨hpm, h0, h1, hlow⟩, hi⟩
      exact ⟨_, _, _, hpm, h0, h1, (hb _ _ _ i).2 ⟨f, ⟨rfl, rfl, rfl, hlow⟩, hi⟩⟩
  · obtain ⟨h0, h1⟩ := (hp f).targets_ok he
    rw [(hp f).encode_eq, headWord_eq_iff opcodeByte_lt (Target.code_lt _) (Target.code_lt _) (hl f)]
    simp [h0, h1]

theorem decodesBy_opA {mk : FmtA → Instr} (h : opA (bitsOf w 63 56) = some mk) : DecodesBy w mk := by
  obtain ⟨ho, hp⟩ := opA_makes h
  refine decodesBy_of_body ho FmtA.low_lt hp fun p a b i => ?_
  simp only [body, h, withTy_eq_ok_iff, (hp _).judge_iff]
  constructor
  · rintro ⟨t, ht, hi⟩
    exact ⟨_, ⟨rfl, rfl, rfl, FmtA.low_eq_iff.2 ⟨ht, rfl, rfl, rfl, rfl⟩⟩, hi⟩
  · rintro ⟨⟨⟩, ⟨rfl, rfl, rfl, hlow⟩, hi⟩
    obtain ⟨ht, rfl, rfl, rfl, rfl⟩ := FmtA.low_eq_iff.1 hlow
    exact ⟨_, ht, hi⟩

theorem decodesBy_opC {mk : FmtC → Instr} (h : opC (bitsOf w 63 56) = some mk) : DecodesBy w mk := by
  obtain ⟨⟨hA, ho⟩, hp⟩ := opC_makes h
  refine decodesBy_of_body ho FmtC.low_lt hp fun p a b i => ?_
  simp only [body, hA, h, withTy_eq_ok_iff, (hp _).judge_iff]
  constructor
  · rintro ⟨t, ht, hi⟩
    exact ⟨_, ⟨rfl, rfl, rfl, FmtC.low_eq_iff.2 ⟨ht, rfl, rfl⟩⟩, hi⟩
  · rintro ⟨⟨⟩, ⟨rfl, rfl, rfl, hlow⟩, hi⟩
    obtain ⟨ht, rfl, rfl⟩ := FmtC.low_eq_iff.1 hlow
    exact ⟨_, ht, hi⟩

theorem decodesBy_opM {mk : FmtM → Instr} (h : opM (bitsOf w 63 56) = some mk) : DecodesBy w mk := by
  obtain ⟨⟨hA, hC, ho⟩, hp⟩ := opM_makes h
  refine decodesBy_of_body ho FmtM.low_lt hp fun p a b i => ?_
  simp only [body, hA, hC, h, (hp _).judge_iff]
  constructor
  · intro hi
    exact ⟨_, ⟨rfl, rfl, rfl, FmtM.low_eq_iff.2 ⟨rfl, rfl, rfl, rfl, rfl⟩⟩, hi⟩
  · rintro ⟨⟨⟩, ⟨rfl, rfl, rfl, hlow⟩, hi⟩
    obtain ⟨rfl, rfl, rfl, rfl, rfl⟩ := FmtM.low_eq_iff.1 hlow
    exact hi

theorem decodesBy_opS {mk : FmtS → Instr} (h : opS (bitsOf w 63 56) = some mk) : DecodesBy w mk := by
  obtain ⟨⟨hA, hC, hM, ho⟩, hp⟩ := opS_makes h
  refine decodesBy_of_body ho FmtS.low_lt hp fun p a b i => ?_
  simp only [body, hA, hC, hM, h, bne_iff_ne, ne_eq, ite_not, ite_eq_ok_iff, (hp _).judge_iff]
  constructor
  · rintro ⟨hz, hi⟩
    exact ⟨_, ⟨rfl, rfl, rfl, FmtS.low_eq_iff.2 ⟨hz, rfl⟩⟩, hi⟩
  · rintro ⟨⟨⟩, ⟨rfl, rfl, rfl, hlow⟩, hi⟩
    obtain ⟨hz, rfl⟩ := FmtS.low_eq_iff.1 hlow
    exact ⟨hz, hi⟩

/-- A command has FLG where the other formats have T1 (R71). -/
theorem decodesBy_opE {mk : FmtE → Instr} (h : opE (bitsOf w 63 56) = some mk) : DecodesBy w mk := by
  obtain ⟨-, hp⟩ := opE_makes h
  refine decodesBy_of_fields (reads := fun f => f.pm.code = bitsOf w 55 54 ∧ (f.t0.ok = true ∧ f.t0.code = bitsOf w 53 44) ∧
    f.flg = field w 34 10 ∧ f.low = bitsOf w 33 0) (fun i => ?_) (fun f he => ?_)
  · simp only [decode_command h, (hp _).judge_iff]
    constructor
    · rintro ⟨p, a, hpm, h0, hi⟩
      exact ⟨_, ⟨hpm, h0, rfl, FmtE.low_eq_iff.2 ⟨rfl, rfl, rfl, rfl⟩⟩, hi⟩
    · rintro ⟨⟨⟩, ⟨hpm, h0, rfl, hlow⟩, hi⟩
      obtain ⟨rfl, rfl, rfl, rfl⟩ := FmtE.low_eq_iff.1 hlow
      exact ⟨_, _, hpm, h0, hi⟩
  · rw [(hp f).encode_eq, headWord_eq_iff opcodeByte_lt (Target.code_lt _) f.flg.isLt f.low_lt, eq_field_iff]
    simp [((hp f).targets_ok he).1, bitsOf]

theorem decodesBy_opB {mk : FmtB → Instr} (h : opB (bitsOf w 63 56) = some mk) : DecodesBy w mk := by
  obtain ⟨-, hw, hx⟩ := opB_makes h
  refine decodesBy_of_fields (reads := fun f => f.pm.code = bitsOf w 55 54 ∧ 0x3FF = bitsOf w 53 44 ∧ 0x3FF = bitsOf w 43 34 ∧
    f.low = bitsOf w 33 0) (fun i => ?_) (fun f _ => ?_)
  · simp only [decode_exit h, hx, ite_eq_ok_iff, Except.ok.injEq]
    constructor
    · rintro ⟨p, hpm, h0, h1, ⟨hz, he⟩, rfl⟩
      exact ⟨_, ⟨hpm, h0, h1, FmtB.low_eq_iff.2 ⟨hz, rfl, rfl⟩⟩, rfl, he⟩
    · rintro ⟨⟨⟩, ⟨hpm, h0, h1, hlow⟩, rfl, he⟩
      obtain ⟨hz, rfl, rfl⟩ := FmtB.low_eq_iff.1 hlow
      exact ⟨_, hpm, h0, h1, ⟨hz, he⟩, rfl⟩
  · rw [hw, headWord_eq_iff opcodeByte_lt (by decide) (by decide) f.low_lt]
    exact and_iff_right rfl

theorem decodesBy_opT {mk : FmtT → Instr} (h : opT (bitsOf w 63 56) = some mk) : DecodesBy w mk := by
  obtain ⟨-, hp⟩ := opT_makes h
  refine decodesBy_of_fields (reads := fun f => f.pm.code = bitsOf w 55 54 ∧ 0x3FF = bitsOf w 53 44 ∧ 0x3FF = bitsOf w 43 34 ∧
    f.code.toNat = bitsOf w 33 0) (fun i => ?_) (fun f _ => ?_)
  · simp only [decode_trap h, trapWord, bne_iff_ne, ne_eq, ite_not, ite_eq_ok_iff, (hp _).judge_iff]
    constructor
    · rintro ⟨p, hpm, h0, h1, hz, hi⟩
      exact ⟨_, ⟨hpm, h0, h1, FmtT.code_eq_iff.2 ⟨hz, rfl⟩⟩, hi⟩
    · rintro ⟨⟨⟩, ⟨hpm, h0, h1, hlow⟩, hi⟩
      obtain ⟨hz, rfl⟩ := FmtT.code_eq_iff.1 hlow
      exact ⟨_, hpm, h0, h1, hz, hi⟩
  · have hc : f.code.toNat < 2 ^ 34 := by omega
    rw [(hp f).encode_eq, headWord_eq_iff opcodeByte_lt (by decide) (by decide) hc]
    exact and_iff_right rfl

end

/-! ## All formats -/

/-- The word of an instruction carries its opcode, and the opcode tells the format. -/
theorem decode_encode (i : Instr) (he : i.encodable = true) : decode (encode i) = .ok i := by
  have h0 := Instr.opcode_ne_zero he
  obtain ⟨hm, hs⟩ := i.made_opcode h0
  rw [← hs.resolve_left h0] at hm
  generalize hw : encode i = w at hm ⊢
  cases hm with
  | a f h => exact (decodesBy_opA h _).2 ⟨f, rfl, he, hw⟩
  | c f h => exact (decodesBy_opC h _).2 ⟨f, rfl, he, hw⟩
  | m f h => exact (decodesBy_opM h _).2 ⟨f, rfl, he, hw⟩
  | e f h => exact (decodesBy_opE h _).2 ⟨f, rfl, he, hw⟩
  | b f h => exact (decodesBy_opB h _).2 ⟨f, rfl, he, hw⟩
  | t f h => exact (decodesBy_opT h _).2 ⟨f, rfl, he, hw⟩
  | s f h => exact (decodesBy_opS h _).2 ⟨f, rfl, he, hw⟩

theorem DecodesBy.encode_of_decode {F : Type} {w : Word} {mk : F → Instr} {i : Instr} (h : DecodesBy w mk) (hd : decode w = .ok i) :
    i.encodable = true ∧ encode i = w := by
  obtain ⟨f, -, hi⟩ := (h i).1 hd
  exact hi

/-- A word that decodes has an opcode of one of the formats. -/
theorem encode_of_decode {w : Word} {i : Instr} (hd : decode w = .ok i) : i.encodable = true ∧ encode i = w := by
  have hk : known (bitsOf w 63 56) = true := known_of_decode hd
  simp only [known, Bool.or_eq_true, Option.isSome_iff_exists] at hk
  rcases hk with (((((⟨mk, h⟩ | ⟨mk, h⟩) | ⟨mk, h⟩) | ⟨mk, h⟩) | ⟨mk, h⟩) | ⟨mk, h⟩) | ⟨mk, h⟩
  · exact (decodesBy_opA h).encode_of_decode hd
  · exact (decodesBy_opC h).encode_of_decode hd
  · exact (decodesBy_opM h).encode_of_decode hd
  · exact (decodesBy_opE h).encode_of_decode hd
  · exact (decodesBy_opB h).encode_of_decode hd
  · exact (decodesBy_opT h).encode_of_decode hd
  · exact (decodesBy_opS h).encode_of_decode hd

/-- Settles O1: each format is decoded from where it is encoded, and every opcode is of one format. -/
theorem decodeAndEncodeAgree : Obligations.DecodeAndEncodeAgree :=
  ⟨decode_encode, fun _ _ => encode_of_decode⟩

/-- Settles O2: by running the decoder on the five words. -/
theorem decodedWords : Obligations.DecodedWords := by
  unfold Obligations.DecodedWords
  decide

end Sys2Proof
end

section
/-!
INTEGER LANES (R35, R36, R96, R99 to R106): the model's operations on patterns of n bits are the operations on bit vectors, and what
a ready integer instruction delivers.
-/

namespace Sys2Proof.Machine

open Sys2Proof

/-! ## Patterns of n bits as bit vectors (R35, R36) -/

theorem sval_toNat {n : Nat} (hn : 0 < n) (a : BitVec n) : Num.sval a.toNat n = a.toInt := by
  rw [sval_eq _ _ hn, BitVec.ofNat_toNat, BitVec.setWidth_eq]

theorem clamp_eq {x lo hi : Int} (h : lo ≤ hi) : Num.clamp x lo hi = max lo (min hi x) := by
  unfold Num.clamp
  split <;> [skip; split] <;> omega

theorem sat_signed (x : Int) (n : Nat) : Num.sat x n true = (satS n x).toNat := by
  have hp : (0 : Int) < 2 ^ (n - 1) := by positivity
  rw [satS, ← clamp_eq (by omega), ← wrap_eq]
  rfl

theorem sat_unsigned (x : Int) (n : Nat) : Num.sat x n false = (satU n x).toNat := by
  have hp : (0 : Int) < 2 ^ n := by positivity
  rw [satU, ← clamp_eq (by omega), ← wrap_eq]
  rfl

theorem fit_eq (f : FmtA) (x : Int) (n : Nat) : Num.fit (satOf f.md) x n = (kept f n x).toNat := by
  cases h : f.md.getLsbD 2
  · rw [kept, satOf, h, if_neg Bool.false_ne_true, ← wrap_eq]
    rfl
  · rw [kept, satOf, h, if_pos rfl, ← sat_signed]
    rfl

/-- A pattern of m bits sign-extended to n bits (R7). -/
theorem sextTo_toNat {m : Nat} (hm : 0 < m) (a : BitVec m) (n : Nat) : Num.sextTo a.toNat m n = (a.signExtend n).toNat := by
  rw [Num.sextTo, sval_toNat hm, wrap_eq]
  rfl

/-! ## The operations of R99 to R102 and R105, on bit vectors -/

section
variable {n : Nat} (a b : BitVec n)

theorem add_toNat (hn : 0 < n) : Num.wrap (Num.sval a.toNat n + Num.sval b.toNat n) n = (a + b).toNat := by
  rw [sval_toNat hn, sval_toNat hn, wrap_eq, BitVec.ofInt_add, BitVec.ofInt_toInt, BitVec.ofInt_toInt]

theorem sub_toNat (hn : 0 < n) : Num.wrap (Num.sval a.toNat n - Num.sval b.toNat n) n = (a - b).toNat := by
  rw [sval_toNat hn, sval_toNat hn, wrap_eq, sub_eq_add_neg, BitVec.ofInt_add, BitVec.ofInt_neg, BitVec.ofInt_toInt,
    BitVec.ofInt_toInt, BitVec.sub_eq_add_neg]

theorem adds_toNat (hn : 0 < n) : Num.sat (Num.sval a.toNat n + Num.sval b.toNat n) n true = (satS n (a.toInt + b.toInt)).toNat := by
  rw [sval_toNat hn, sval_toNat hn, sat_signed]

theorem subs_toNat (hn : 0 < n) : Num.sat (Num.sval a.toNat n - Num.sval b.toNat n) n true = (satS n (a.toInt - b.toInt)).toNat := by
  rw [sval_toNat hn, sval_toNat hn, sat_signed]

theorem mul_toNat (f : FmtA) (hn : 0 < n) :
    fitTo f (Num.sval a.toNat n * Num.sval b.toNat n) n = (kept f n (a.toInt * b.toInt)).toNat := by
  rw [sval_toNat hn, sval_toNat hn, fitTo, fit_eq]

theorem mulh_toNat (hn : 0 < n) : Num.wrap (Num.sval a.toNat n * Num.sval b.toNat n / (2 ^ n : Int)) n =
    (BitVec.ofInt n (a.toInt * b.toInt / 2 ^ n)).toNat := by
  rw [sval_toNat hn, sval_toNat hn, wrap_eq]

theorem mulhu_toNat : a.toNat * b.toNat / 2 ^ n = (BitVec.ofNat n (a.toNat * b.toNat / 2 ^ n)).toNat := by
  have h : a.toNat * b.toNat < 2 ^ n * 2 ^ n := Nat.mul_lt_mul'' a.isLt b.isLt
  exact (Nat.mod_eq_of_lt (Nat.div_lt_of_lt_mul h)).symm

theorem min_toNat (hn : 0 < n) :
    (if Num.sval a.toNat n ≤ Num.sval b.toNat n then a.toNat else b.toNat) = (if a.sle b then a else b).toNat := by
  simp only [sval_toNat hn, apply_ite BitVec.toNat, BitVec.sle_iff_toInt_le]

theorem max_toNat (hn : 0 < n) :
    (if Num.sval a.toNat n ≤ Num.sval b.toNat n then b.toNat else a.toNat) = (if a.sle b then b else a).toNat := by
  simp only [sval_toNat hn, apply_ite BitVec.toNat, BitVec.sle_iff_toInt_le]

theorem div_toNat (f : FmtA) (hn : 0 < n) :
    fitTo f (Int.tdiv (Num.sval a.toNat n) (Num.sval b.toNat n)) n = (kept f n (a.toInt.tdiv b.toInt)).toNat := by
  rw [sval_toNat hn, sval_toNat hn, fitTo, fit_eq]

theorem rem_toNat (hn : 0 < n) : Num.wrap (Int.tmod (Num.sval a.toNat n) (Num.sval b.toNat n)) n =
    (BitVec.ofInt n (a.toInt - b.toInt * a.toInt.tdiv b.toInt)).toNat := by
  rw [sval_toNat hn, sval_toNat hn, wrap_eq, Int.tmod_def]

theorem neg_toNat (f : FmtA) (hn : 0 < n) : fitTo f (-Num.sval a.toNat n) n = (kept f n (-a.toInt)).toNat := by
  rw [sval_toNat hn, fitTo, fit_eq]

theorem abs_toNat (f : FmtA) (hn : 0 < n) :
    fitTo f ((Num.sval a.toNat n).natAbs : Int) n = (kept f n (if a.toInt < 0 then -a.toInt else a.toInt)).toNat := by
  rw [sval_toNat hn, fitTo, fit_eq]
  congr 2
  split <;> omega

theorem land_not_toNat : Nat.land a.toNat (2 ^ n - 1 - b.toNat) = (a &&& ~~~b).toNat := by
  rw [BitVec.toNat_and, BitVec.toNat_not]
  rfl

/-- A shift right by the width or more gives 0 (R101). -/
theorem shr_toNat : (if n ≤ b.toNat then 0 else a.toNat / 2 ^ b.toNat) = (a >>> b).toNat := by
  rw [BitVec.ushiftRight_eq', BitVec.toNat_ushiftRight, Nat.shiftRight_eq_div_pow]
  split
  next h => exact (Nat.div_eq_of_lt (a.isLt.trans_le (Nat.pow_le_pow_right two_pos h))).symm
  next => rfl

/-- A signed value over a power of two that exceeds it is its sign. -/
theorem toInt_ediv_pow_of_le {k : Nat} (h : n ≤ k) : a.toInt / 2 ^ k = if a.toInt < 0 then -1 else 0 := by
  have hlo := @BitVec.le_toInt n a
  have hhi := @BitVec.toInt_lt n a
  have hp : (2 : Int) ^ (n - 1) ≤ 2 ^ k := pow_le_pow_right₀ (by norm_num) (by omega)
  split
  · rw [Int.ediv_eq_iff_of_pos (by positivity)]; omega
  · exact Int.ediv_eq_zero_of_lt (by omega) (by omega)

/-- An arithmetic shift by the width or more leaves the sign alone (R101). -/
theorem sra_toNat (hn : 0 < n) :
    Num.wrap (Num.sval a.toNat n / (2 ^ (if n ≤ b.toNat then n else b.toNat) : Int)) n = (a.sshiftRight b.toNat).toNat := by
  rw [sval_toNat hn, wrap_eq, BitVec.sshiftRight, Int.shiftRight_eq_div_pow, Nat.cast_pow, Nat.cast_ofNat]
  split
  next h => rw [toInt_ediv_pow_of_le a le_rfl, toInt_ediv_pow_of_le a h]
  next => rfl

/-- A rotation brings the high bits in at the bottom (R101). -/
theorem rotl_toNat (hn : 0 < n) :
    a.toNat * 2 ^ (b.toNat % n) % 2 ^ n + a.toNat / 2 ^ (n - b.toNat % n) = (a.rotateLeft b.toNat).toNat := by
  have hr : b.toNat % n < n := Nat.mod_lt _ hn
  rw [BitVec.toNat_rotateLeft, Nat.shiftLeft_eq, Nat.shiftRight_eq_div_pow]
  generalize b.toNat % n = r at hr ⊢
  have hn2 : 2 ^ n = 2 ^ r * 2 ^ (n - r) := by rw [← pow_add]; congr 1; omega
  have hlow : a.toNat / 2 ^ (n - r) < 2 ^ r := Nat.div_lt_of_lt_mul (by rw [mul_comm, ← hn2]; exact a.isLt)
  rw [mul_comm a.toNat, hn2, Nat.mul_mod_mul_left]
  exact Nat.two_pow_add_eq_or_of_lt hlow _

theorem satS_zero : satS n 0 = 0#n := by
  have h1 : (0 : Int) < 2 ^ (n - 1) := by positivity
  rw [satS, min_eq_right (by omega), max_eq_right (by omega)]
  rfl

/-- Saturation does not see how far beyond the range a value lies. -/
theorem satS_of_large {x y : Int} (hxy : x < 0 ↔ y < 0) (hx : (2 : Int) ^ n ≤ |x|) (hy : (2 : Int) ^ n ≤ |y|) : satS n x = satS n y := by
  have hp : (2 : Int) ^ (n - 1) ≤ 2 ^ n := pow_le_pow_right₀ (by norm_num) (by omega)
  have h1 : (0 : Int) < 2 ^ (n - 1) := by positivity
  rw [satS, satS]
  congr 1
  rcases abs_cases x with ⟨hx1, -⟩ | ⟨hx1, -⟩ <;> rcases abs_cases y with ⟨hy1, -⟩ | ⟨hy1, -⟩ <;> omega

theorem two_pow_le_abs_toInt_mul {k : Nat} (ha : a.toInt ≠ 0) (h : n ≤ k) : (2 : Int) ^ n ≤ |a.toInt * 2 ^ k| := by
  rw [abs_mul, abs_of_pos (by positivity : (0 : Int) < 2 ^ k)]
  calc (2 : Int) ^ n ≤ 2 ^ k := pow_le_pow_right₀ (by norm_num) h
    _ ≤ |a.toInt| * 2 ^ k := le_mul_of_one_le_left (by positivity) (Int.one_le_abs ha)

theorem ofInt_mul_two_pow (k : Nat) : BitVec.ofInt n (a.toInt * 2 ^ k) = a <<< k := by
  apply BitVec.eq_of_toInt_eq
  rw [BitVec.toInt_shiftLeft, BitVec.toInt_ofInt, BitVec.toInt_eq_toNat_bmod, Nat.shiftLeft_eq]
  push_cast
  exact Int.bmod_mul_bmod ..

/-- A shift left by the width or more leaves nothing, and under SAT the bound of the sign (R101). -/
theorem shlOp_toNat (f : FmtA) (hn : 0 < n) : shlOp f n a.toNat b.toNat =
    (if f.md.getLsbD 2 then satS n (a.toInt * 2 ^ b.toNat) else a <<< b).toNat := by
  rw [shlOp, fitTo, fit_eq, sval_toNat hn, kept, ofInt_mul_two_pow, ← BitVec.shiftLeft_eq', sat_signed]
  split
  next => rfl
  next h =>
    replace h := not_lt.mp h
    cases hs : f.md.getLsbD 2 with
    | false =>
      rw [satOf, hs, BitVec.shiftLeft_eq', BitVec.shiftLeft_eq_zero h]
      rfl
    | true =>
      rw [satOf, hs, if_pos rfl]
      by_cases h0 : a.toInt = 0
      · obtain rfl : a = 0#n := BitVec.eq_of_toInt_eq (by simp [h0])
        simp [satS_zero]
      · have ha : a.toNat ≠ 0 := fun hz => h0 (by simp [BitVec.toInt_eq_toNat_bmod, hz])
        have hp : (0 : Int) < 2 ^ (2 * n) := by positivity
        have hbig : (2 : Int) ^ n ≤ 2 ^ (2 * n) := pow_le_pow_right₀ (by norm_num) (by omega)
        simp only [ha, Bool.not_true, Bool.false_or, decide_false, Bool.false_eq_true, if_false]
        rw [satS_of_large ?_ ?_ (two_pow_le_abs_toInt_mul a h0 h)]
        · have hsign : a.toInt * 2 ^ b.toNat < 0 ↔ a.toInt < 0 :=
            ⟨fun h => neg_of_mul_neg_left h (by positivity), fun h => mul_neg_of_neg_of_pos h (by positivity)⟩
          rw [hsign]
          split
          next hneg => exact iff_of_true (neg_neg_of_pos hp) hneg
          next hpos => exact iff_of_false hp.not_gt hpos
        · split
          next => rwa [abs_neg, abs_of_pos hp]
          next => rwa [abs_of_pos hp]

/-! ### Counts of bits (R102) -/

theorem leading_eq_findIdx (l : List Bool) : leading l = l.findIdx id := by
  induction l with
  | nil => rfl
  | cons b t ih => cases b <;> simp [leading, List.findIdx_cons, ih]

theorem leading_eq_iff {l : List Bool} {k : Nat} (h : k < l.length) :
    leading l = k ↔ l[k] = true ∧ ∀ j (hj : j < k), l[j] = false := by
  rw [leading_eq_findIdx, List.findIdx_eq h]
  rfl

@[simp] theorem length_patBits (n a : Nat) : (patBits n a).length = n := by simp [patBits]

theorem getElem_patBits {j : Nat} (h : j < (patBits n a.toNat).length) : (patBits n a.toNat)[j] = a.getLsbD j := by
  simp [patBits, BitVec.getLsbD]

theorem reverse_patBits : (patBits n a.toNat).reverse = patBits n a.reverse.toNat := by
  refine List.ext_getElem (by simp) fun j h1 h2 => ?_
  rw [List.getElem_reverse, getElem_patBits, getElem_patBits, BitVec.getLsbD_reverse, BitVec.getMsbD]
  simp at h1 ⊢
  omega

theorem ctz_toNat : leading (patBits n a.toNat) = a.ctz.toNat := by
  by_cases h : a = 0#n
  · have hc : a.ctz = BitVec.ofNat n n := BitVec.clz_eq_iff_eq_zero.mpr (BitVec.reverse_eq_zero_iff.mpr h)
    have hall : ∀ x ∈ patBits n a.toNat, id x = false := by simp [patBits, h]
    rw [leading_eq_findIdx, List.findIdx_eq_length.mpr hall, length_patBits, hc, BitVec.toNat_ofNat,
      Nat.mod_eq_of_lt Nat.lt_two_pow_self]
  · have hlt : a.ctz.toNat < (patBits n a.toNat).length := by
      have h1 := BitVec.ctz_lt_iff_ne_zero.mpr h
      rw [BitVec.lt_def] at h1
      simpa using h1
    refine (leading_eq_iff hlt).mpr ⟨?_, fun j hj => ?_⟩
    · rw [getElem_patBits]; exact BitVec.getLsbD_true_ctz_of_ne_zero h
    · rw [getElem_patBits]; exact BitVec.getLsbD_false_of_lt_ctz hj

theorem clz_toNat : leading (patBits n a.toNat).reverse = a.clz.toNat := by
  rw [reverse_patBits, ctz_toNat, BitVec.clz_eq_reverse_ctz]

theorem patBits_succ (k m : Nat) : patBits (k + 1) m = patBits k m ++ [m.testBit k] := by
  simp [patBits, List.range_succ]

theorem cpopNatRec_eq (k acc : Nat) : a.cpopNatRec k acc = acc + ((patBits k a.toNat).filter id).length := by
  induction k generalizing acc with
  | zero => simp [patBits]
  | succ k ih =>
    rw [BitVec.cpopNatRec_succ, ih, patBits_succ, List.filter_append, List.length_append, BitVec.getLsbD, List.filter_singleton]
    cases a.toNat.testBit k
    · simp
    · simp; omega

theorem popc_toNat : ((patBits n a.toNat).filter id).length = a.cpop.toNat := by
  rw [BitVec.toNat_cpop, cpopNatRec_eq, zero_add]

/-! ### Extensions, bytes and constants (R102, R105) -/

theorem sextTo_low_toNat (w : Nat) : Num.sextTo a.toNat w n = ((a.setWidth w).signExtend n).toNat := by
  rcases Nat.eq_zero_or_pos w with rfl | hw
  · rw [BitVec.eq_nil (a.setWidth 0)]
    simp [Num.sextTo, Num.sval, Num.wrap, Nat.mod_one, BitVec.signExtend]
  · rw [Num.sextTo, sval_eq _ _ hw, BitVec.ofNat_toNat, wrap_eq, BitVec.signExtend]

theorem zext_toNat (w : Nat) : a.toNat % 2 ^ w = ((a.setWidth w).setWidth n).toNat := by
  rw [BitVec.toNat_setWidth, BitVec.toNat_setWidth, Nat.mod_eq_of_lt ((Nat.mod_le ..).trans_lt a.isLt)]

/-- Every byte taken in multiplies the bound by 256. -/
theorem foldl_byte_lt (k m acc : Nat) (l : List Nat) (h : acc < 256 ^ k) :
    l.foldl (fun acc j => acc * 256 + m / 256 ^ j % 256) acc < 256 ^ (k + l.length) := by
  induction l generalizing acc k with
  | nil => exact h
  | cons j t ih =>
    rw [List.foldl_cons, List.length_cons, ← add_assoc, add_right_comm]
    exact ih _ _ (by rw [pow_succ]; omega)

theorem bswapOp_toNat : bswapOp n a.toNat = (bytesBack n a).toNat := by
  have hlt : bswapOp n a.toNat < 2 ^ n := by
    refine (foldl_byte_lt 0 a.toNat 0 (List.range (n / 8)) (by simp)).trans_le ?_
    rw [zero_add, List.length_range, show 256 = 2 ^ 8 by rfl, ← pow_mul]
    exact Nat.pow_le_pow_right two_pos (by omega)
  have hbyte (k : Nat) : (a >>> (8 * k)).toNat = a.toNat / 256 ^ k := by
    rw [BitVec.toNat_ushiftRight, Nat.shiftRight_eq_div_pow, pow_mul]
    rfl
  simp only [bytesBack, hbyte]
  exact (Nat.mod_eq_of_lt hlt).symm

theorem movhi_toNat (i : BitVec 21) : (a.toNat * 2 ^ 21 + i.toNat) % 2 ^ n = (a <<< 21 ||| i.setWidth n).toNat := by
  rw [BitVec.toNat_or, BitVec.toNat_shiftLeft, BitVec.toNat_setWidth, ← Nat.or_mod_two_pow, Nat.shiftLeft_eq,
    mul_comm, Nat.two_pow_add_eq_or_of_lt i.isLt]

end

/-! ## What a ready integer instruction delivers -/

theorem map_zipLanes {α β : Type} (g : α → β) (op : Nat → Nat → α) (a b : List Nat) :
    (zipLanes op a b).map g = zipLanes (fun x y => g (op x y)) a b := by
  unfold zipLanes
  split
  · rw [List.map_map]; rfl
  · rw [List.map_map]; rfl
  · rw [List.map_zipWith]

section
variable {i : Instr} {f : FmtA} {h : Heads} {s : State}

theorem ofNat_toNat_of_lt {n x : Nat} (hx : x < 2 ^ n) : (BitVec.ofNat n x).toNat = x := Nat.mod_eq_of_lt hx

/-- The lanes of an operation on patterns are those of the operation on bit vectors that agrees with it. -/
theorem eq_lane2_of_lanes {p : Nat → Nat → Nat → Nat} {op : (n : Nat) → BitVec n → BitVec n → BitVec n}
    (hop : ∀ a b : BitVec f.ty.elemBits, p f.ty.elemBits a.toNat b.toNat = (op f.ty.elemBits a b).toNat) {x y : Nat}
    (hx : x ∈ leftElems f.ty h.l) (hy : y ∈ rightElems f h.r) : p f.ty.elemBits x y = lane2 f.ty.elemBits op x y := by
  rw [lane2, ← hop, ofNat_toNat_of_lt (leftElems_lt hx), ofNat_toNat_of_lt (rightElems_lt hy)]

theorem fireNode_intPlan {lat : Nat} {p : Nat → Nat → Nat → Nat} {op : (n : Nat) → BitVec n → BitVec n → BitVec n}
    (he : exec i = fireNode (intPlan lat p f)) (hr : ReadyA f 0 true (!f.ir) false h s)
    (hop : ∀ a b : BitVec f.ty.elemBits, p f.ty.elemBits a.toNat b.toNat = (op f.ty.elemBits a b).toNat) :
    exec i s = .next (s.ceFired f 0 lat 1 h
      (s.packet f.ty h none (zipLanes (lane2 f.ty.elemBits op) (leftElems f.ty h.l) (rightElems f h.r))) none) := by
  rw [he, fireNode_result hr rfl rfl, zipLanes_congr fun x hx y hy => eq_lane2_of_lanes hop hx hy]

theorem fireNode_int1Plan {p : Nat → Nat → Nat} {op : (n : Nat) → BitVec n → BitVec n}
    (he : exec i = fireNode (int1Plan p f)) (hr : ReadyA f 0 true false false h s)
    (hop : ∀ a : BitVec f.ty.elemBits, p f.ty.elemBits a.toNat = (op f.ty.elemBits a).toNat) :
    exec i s = .next (s.ceFired f 0 1 1 h (s.packet f.ty h none ((leftElems f.ty h.l).map (lane1 f.ty.elemBits op))) none) := by
  rw [he, fireNode_result hr rfl rfl]
  congr 3
  refine List.map_congr_left fun x hx => ?_
  rw [lane1, ← hop, ofNat_toNat_of_lt (leftElems_lt hx)]

/-- Some divisor of the lanes is 0 (R36). -/
theorem zeroDivisor_iff (a b : List Nat) :
    (zipLanes (fun _ y => y == 0) a b).any id = true ↔ ∃ y ∈ zipLanes (fun _ y => y) a b, y = 0 := by
  rw [← map_zipLanes (· == 0) (fun _ y => y)]
  simp

theorem fireNode_divPlan {p : Nat → Nat → Nat → Nat} {op : (n : Nat) → BitVec n → BitVec n → BitVec n}
    (he : exec i = fireNode (divPlan p f)) (hr : ReadyA f 0 true (!f.ir) false h s)
    (hop : ∀ a b : BitVec f.ty.elemBits, p f.ty.elemBits a.toNat b.toNat = (op f.ty.elemBits a b).toNat) :
    exec i s = .next (s.ceFired f 0 (if f.ty = .i64 then 20 else 12) (if f.ty = .i64 then 16 else 8) h
      (s.packet f.ty h
        (if ∃ b ∈ zipLanes (fun _ b => b) (leftElems f.ty h.l) (rightElems f h.r), b = 0 then some 3 else none)
        (zipLanes (fun a b => if b = 0 then 0 else lane2 f.ty.elemBits op a b) (leftElems f.ty h.l) (rightElems f h.r))) none) := by
  have hlanes : zipLanes (fun x y => if y = 0 then 0 else p f.ty.elemBits x y) (leftElems f.ty h.l) (rightElems f h.r) =
      zipLanes (fun a b => if b = 0 then 0 else lane2 f.ty.elemBits op a b) (leftElems f.ty h.l) (rightElems f h.r) :=
    zipLanes_congr fun x hx y hy => by rw [eq_lane2_of_lanes hop hx hy]
  rw [he, fireNode_result hr rfl rfl, hlanes]
  simp only [beq_iff_eq, zeroDivisor_iff]

end

/-- Settles O8: each operation on patterns is its operation on bit vectors. -/
theorem integerResults : Obligations.IntegerResults := by
  refine ⟨fun i f lat op h s hi hr => ?_, fun i f op h s hi hr => ?_, fun i f op h s hi hr => ?_⟩
  · have hn := elemBits_pos f.ty
    unfold intTwo at hi
    split at hi
    case h_22 => cases hi
    all_goals
      obtain ⟨rfl, rfl, rfl⟩ := hi
      refine fireNode_intPlan rfl hr fun a b => ?_
    case h_1 => exact add_toNat a b hn
    case h_2 => exact sub_toNat a b hn
    case h_3 => exact adds_toNat a b hn
    case h_4 => exact sat_unsigned ..
    case h_5 => exact subs_toNat a b hn
    case h_6 => exact sat_unsigned ..
    case h_7 => exact mul_toNat a b _ hn
    case h_8 => exact mulh_toNat a b hn
    case h_9 => exact mulhu_toNat a b
    case h_10 => exact min_toNat a b hn
    case h_11 => exact max_toNat a b hn
    case h_12 => exact (apply_ite BitVec.toNat ..).symm
    case h_13 => exact (apply_ite BitVec.toNat ..).symm
    case h_14 => exact (BitVec.toNat_and a b).symm
    case h_15 => exact (BitVec.toNat_or a b).symm
    case h_16 => exact (BitVec.toNat_xor a b).symm
    case h_17 => exact land_not_toNat a b
    case h_18 => exact shlOp_toNat a b _ hn
    case h_19 => exact shr_toNat a b
    case h_20 => exact sra_toNat a b hn
    case h_21 => exact rotl_toNat a b hn
  · have hn := elemBits_pos f.ty
    unfold intOne at hi
    split at hi
    case h_11 => cases hi
    all_goals
      obtain ⟨rfl, rfl⟩ := hi
      refine fireNode_int1Plan rfl hr fun a => ?_
    case h_1 => exact neg_toNat a _ hn
    case h_2 => exact abs_toNat a _ hn
    case h_3 => exact BitVec.toNat_not.symm
    case h_4 => exact clz_toNat a
    case h_5 => exact ctz_toNat a
    case h_6 => exact popc_toNat a
    case h_7 => exact sextTo_low_toNat a _
    case h_8 => exact zext_toNat a _
    case h_9 => exact bswapOp_toNat a
    case h_10 => exact movhi_toNat a _
  · have hn := elemBits_pos f.ty
    unfold intDiv at hi
    split at hi
    case h_5 => cases hi
    all_goals
      obtain ⟨rfl, rfl⟩ := hi
      refine fireNode_divPlan rfl hr fun a b => ?_
    case h_1 => exact div_toNat a b _ hn
    case h_2 => exact (BitVec.toNat_udiv).symm
    case h_3 => exact rem_toNat a b hn
    case h_4 => exact (BitVec.toNat_umod).symm

end Sys2Proof.Machine
end

section
/-!
COMPARISONS, CHOICES AND CONSTANTS (R100, R103 to R106, R110): the order of the floating-point values, and what a ready comparison, sel,
addmin, movi and lea deliver.
-/

namespace Sys2Proof.Machine

open Sys2Proof Sys2Proof.Num

/-! ## The order of values (R110) -/

/-- The place of a value that is no NaN in the order of the extended rational numbers. -/
def place : FVal → WithBot (WithTop ℚ)
  | .nan _ => ⊥
  | .inf neg => if neg then ⊥ else ((⊤ : WithTop ℚ) : WithBot (WithTop ℚ))
  | .fin neg m e => (((if neg then -1 else 1) * (m : ℚ) * 2 ^ e : ℚ) : WithTop ℚ)

theorem place_of_ratOf {v : FVal} {x : ℚ} (h : ratOf v = some x) : place v = ((x : WithTop ℚ) : WithBot (WithTop ℚ)) := by
  obtain ⟨neg, m, e, rfl, rfl⟩ := fin_of_ratOf h
  rfl

theorem isNan_of_ratOf {v : FVal} {x : ℚ} (h : ratOf v = some x) : isNan v = false := by
  obtain ⟨neg, m, e, rfl, -⟩ := fin_of_ratOf h
  rfl

theorem ltF_fin_iff (s u : Bool) (m k : Nat) (e d : ℤ) : ltF (.fin s m e) (.fin u k d) = true ↔
    (if s then -1 else 1) * (m : ℚ) * 2 ^ e < (if u then -1 else 1) * (k : ℚ) * 2 ^ d := by
  rw [← scaled_mul_zpow s m (min_le_left e d), ← scaled_mul_zpow u k (min_le_right e d), mul_lt_mul_iff_left₀ (by positivity), Int.cast_lt]
  exact decide_eq_true_iff

/-- The comparison of values is that of their places. -/
theorem ltF_iff {a b : FVal} (ha : isNan a = false) (hb : isNan b = false) : ltF a b = true ↔ place a < place b := by
  cases a with
  | nan _ => cases ha
  | inf x =>
    cases b with
    | nan _ => cases hb
    | inf y => cases x <;> cases y <;> simp [ltF, place]
    | fin u k d => cases x <;> simp [ltF, place]
  | fin s m e =>
    cases b with
    | nan _ => cases hb
    | inf y =>
      cases y with
      | false => exact iff_of_true rfl (WithBot.coe_lt_coe.mpr (WithTop.coe_lt_top _))
      | true => simp [ltF, place]
    | fin u k d => rw [ltF_fin_iff, place, place, WithBot.coe_lt_coe, WithTop.coe_lt_coe]

theorem ltF_eq_false_iff {a b : FVal} (ha : isNan a = false) (hb : isNan b = false) : ltF a b = false ↔ place b ≤ place a := by
  rw [← not_lt, ← ltF_iff ha hb, Bool.not_eq_true]

theorem eqF_iff {a b : FVal} (ha : isNan a = false) (hb : isNan b = false) : eqF a b = true ↔ place a = place b := by
  rw [le_antisymm_iff (α := WithBot (WithTop ℚ)), ← ltF_eq_false_iff ha hb, ← ltF_eq_false_iff hb ha, eqF, ha, hb]
  simp [and_comm]

theorem ltF_eqF_of_nan {a b : FVal} (h : isNan a = true ∨ isNan b = true) : ltF a b = false ∧ eqF a b = false := by
  rcases h with h | h
  · cases a <;> simp_all [ltF, eqF, isNan]
  · cases b <;> cases a <;> simp_all [ltF, eqF, isNan]

/-- A finite value lies between the infinities. -/
theorem ltF_inf {a : FVal} {x : ℚ} (h : ratOf a = some x) : ltF a (.inf false) = true ∧ ltF (.inf true) a = true := by
  obtain ⟨neg, m, e, rfl, -⟩ := fin_of_ratOf h
  exact ⟨rfl, rfl⟩

/-! ## What a ready comparison delivers (R104, R110) -/

theorem headD_lt {l : List Nat} {m : Nat} (hm : 0 < m) (h : ∀ x ∈ l, x < m) : l.headD 0 < m := by
  cases l with
  | nil => exact hm
  | cons x t => exact h x (by simp)

theorem fireNode_cmpPlan {i : Instr} {f : FmtA} {h : Heads} {s : State} {p : Nat → Nat → Nat → Bool}
    {op : (n : Nat) → BitVec n → BitVec n → Bool} (he : exec i = fireNode (cmpPlan p f)) (hr : ReadyA f 0 true (!f.ir) false h s)
    (hop : ∀ a b : BitVec f.ty.elemBits, p f.ty.elemBits a.toNat b.toNat = op f.ty.elemBits a b) :
    exec i s = .next (s.ceFired f 0 1 1 h (s.verdict h none
      (op f.ty.elemBits (BitVec.ofNat _ ((leftElems f.ty h.l).headD 0)) (BitVec.ofNat _ ((rightElems f h.r).headD 0)))) none) := by
  rw [he, fireNode_flag hr rfl rfl, ← hop, ofNat_toNat_of_lt (headD_lt (Nat.two_pow_pos _) fun _ => leftElems_lt),
    ofNat_toNat_of_lt (headD_lt (Nat.two_pow_pos _) fun _ => rightElems_lt)]

theorem pxCause_eq (f : FmtA) (bad : List Bool) : pxCause f bad = invalid5 f bad := rfl

theorem fireNode_fcmpPlan {i : Instr} {f : FmtA} {h : Heads} {s : State} {op : FVal → FVal → Bool} {a b : FVal}
    (he : exec i = fireNode (fcmpPlan op f)) (hr : ReadyA f 0 true (!f.ir) false h s)
    (ha : a = readF f.ty (f.md.getLsbD 1) ((leftElems f.ty h.l).headD 0))
    (hb : b = readF f.ty (f.md.getLsbD 1) ((rightElems f h.r).headD 0)) :
    exec i s = .next (s.ceFired f 0 1 1 h (s.verdict h (invalid5 f [sig a, sig b]) (op a b)) none) := by
  subst ha hb
  rw [he, fireNode_flag hr rfl rfl]
  simp only [pxCause_eq, invalid5, List.any_cons, List.any_nil, Bool.or_false, id]
  rfl

/-- Settles O9: comparisons of patterns are those of bit vectors, and those of values are those of their places. -/
theorem comparisons : Obligations.Comparisons := by
  refine ⟨fun i f op h s hi hr => ?_, fun i f op h s a b hi hr ha hb => ?_, fun a b x y hx hy => ?_,
    fun a b => ltF_eqF_of_nan⟩
  · have hn := elemBits_pos f.ty
    unfold intCmp at hi
    split at hi
    case h_8 => cases hi
    all_goals
      obtain ⟨rfl, hop⟩ := Prod.mk.inj (Option.some.inj hi)
      refine fireNode_cmpPlan (op := op) rfl hr fun a b => ?_
      subst hop
    case h_1 => exact Bool.eq_iff_iff.mpr (by simp [BitVec.toNat_eq])
    case h_2 => exact Bool.eq_iff_iff.mpr (by simp [BitVec.toNat_eq])
    case h_3 => simp only [sval_toNat hn, BitVec.slt_eq_decide]
    case h_4 => rfl
    case h_5 => simp only [sval_toNat hn, BitVec.sle_eq_decide]
    case h_6 => rfl
    case h_7 => exact Bool.eq_iff_iff.mpr (by simp [BitVec.toNat_eq])
  · unfold floatCmp at hi
    split at hi
    case h_5 => cases hi
    all_goals
      obtain ⟨rfl, hop⟩ := Prod.mk.inj (Option.some.inj hi)
      refine fireNode_fcmpPlan (op := op) ?_ hr ha hb
      subst hop
      rfl
  · have ha := isNan_of_ratOf hx
    have hb := isNan_of_ratOf hy
    refine ⟨?_, ?_, ltF_inf hx⟩
    · rw [ltF_iff ha hb, place_of_ratOf hx, place_of_ratOf hy, WithBot.coe_lt_coe, WithTop.coe_lt_coe]
    · rw [eqF_iff ha hb, place_of_ratOf hx, place_of_ratOf hy, WithBot.coe_inj, WithTop.coe_inj]

/-! ## sel, addmin, movi and lea (R100, R103, R105, R106) -/

theorem flush_eq (h : Heads) : h.flush = h.p.any (fun t => t.val || t.origin.isSome) := by
  unfold Heads.flush
  cases h.p <;> rfl

theorem rightElems_of_ir_false {f : FmtA} (h : f.ir = false) (r : Option Token) : rightElems f r = leftElems f.ty r := by
  rw [rightElems.eq_def, h, if_neg Bool.false_ne_true]
  rfl

/-- The bounded sum of patterns is that of bit vectors (R100). -/
theorem addminOp_eq (f : FmtA) {n : Nat} (hn : 0 < n) (a k c : Nat) :
    addminOp f n a k c = (addBounded f n (BitVec.ofNat n a) (BitVec.ofNat n k) (BitVec.ofNat n c)).toNat := by
  simp only [addminOp, addBounded, fitTo, fit_eq, sval_toNat hn, sval_eq _ _ hn, wrap_eq, BitVec.sle_iff_toInt_le]
  split
  next h => rw [min_eq_left h, BitVec.ofInt_toInt]
  next h => rw [min_eq_right (not_le.mp h).le, BitVec.ofInt_toInt]

/-- A field of a word, and the same read as signed. -/
theorem bitsOf_toNat {w : Nat} (x : BitVec w) (lo n : Nat) : bitsOf x (lo + n) lo = (x.extractLsb' lo (n + 1)).toNat := by
  rw [BitVec.extractLsb'_toNat, Nat.shiftRight_eq_div_pow, bitsOf, show lo + n + 1 - lo = n + 1 by omega]

theorem sval_bitsOf {w : Nat} (x : BitVec w) (lo n : Nat) : sval (bitsOf x (lo + n) lo) (n + 1) = (x.extractLsb' lo (n + 1)).toInt := by
  rw [bitsOf_toNat, sval_toNat n.succ_pos]

/-- A lane of an address formed from a base, a scaled index and an offset (R106). -/
theorem lea_toNat {n : Nat} (hn : 0 < n) (a b : BitVec n) (i : BitVec 21) :
    wrap (sval a.toNat n + sval b.toNat n * 2 ^ bitsOf i 2 0 + sval (bitsOf i 20 3) 18) n =
      (a + (b <<< (i.toNat % 8)) + (i.extractLsb' 3 18).signExtend n).toNat := by
  have hoff : sval (bitsOf i 20 3) 18 = (i.extractLsb' 3 18).toInt := sval_bitsOf i 3 17
  have hscale : bitsOf i 2 0 = i.toNat % 8 := by simp [bitsOf]
  rw [hoff, hscale, sval_toNat hn, sval_toNat hn, wrap_eq, BitVec.ofInt_add, BitVec.ofInt_add, ofInt_mul_two_pow, BitVec.ofInt_toInt]
  rfl

theorem exec_lea_imm {f : FmtA} (h : f.ir = true) :
    exec (.lea f) = fireNode (int1Plan (fun n a => wrap (sval a n + sval f.imm.toNat 21) n) f) :=
  congrArg fireNode (funext fun _ => if_pos h)

theorem exec_lea_indexed {f : FmtA} (h : f.ir = false) : exec (.lea f) = fireNode (intPlan 1 (fun n a b =>
    wrap (sval a n + sval b n * 2 ^ bitsOf f.imm 2 0 + sval (bitsOf f.imm 20 3) 18) n) f) :=
  congrArg fireNode (funext fun _ => if_neg (by simp [h]))

/-- The number of lanes of addmin whose costs and bounds both stand on R, and each of them (R100). -/
theorem length_addminLanes (f : FmtA) (n : Nat) (a r : List Nat) :
    (addminLanes f n a r).length = if r.length < 2 then a.length else Nat.min a.length (r.length / 2) := by
  simp [addminLanes]

theorem getElem_addminLanes (f : FmtA) {n : Nat} (hn : 0 < n) (a r : List Nat) {k : Nat} (hk : k < (addminLanes f n a r).length) :
    (addminLanes f n a r)[k]! = (addBounded f n (BitVec.ofNat n (a.getD k 0)) (BitVec.ofNat n (r.getD k 0))
      (BitVec.ofNat n (r.getD ((addminLanes f n a r).length + k) 0))).toNat := by
  rw [getElem!_pos (addminLanes f n a r) k hk, length_addminLanes, ← addminOp_eq f hn]
  simp [addminLanes]

/-- Settles O10. -/
theorem selectBoundConstantAddress : Obligations.SelectBoundConstantAddress := by
  refine ⟨fun f h s hr => ?_, fun f h s hr hi => ?_, fun f h s hr hi => ?_, fun f h s hr => ?_, fun f h s ht hi hr => ?_,
    fun f h s ht hi hr => ?_⟩
  · change fireNode (planSel f) s = _
    rw [fireNode_result hr rfl rfl, flush_eq]
    congr 3
    cases hi : f.ir with
    | true => simp 
    | false => simp [rightElems_of_ir_false hi]
  · change fireNode (planAddmin f) s = _
    rw [fireNode_result hr rfl rfl, if_pos hi]
    simp only [addminImm, addminOp_eq _ (elemBits_pos f.ty)]
  · refine ⟨addminLanes f f.ty.elemBits (leftElems f.ty h.l) (leftElems f.ty h.r), ?_, length_addminLanes .., fun k hk =>
      getElem_addminLanes f (elemBits_pos f.ty) _ _ hk⟩
    change fireNode (planAddmin f) s = _
    rw [fireNode_result hr rfl rfl, hi, if_neg Bool.false_ne_true]
  · change fireNode (planMovi f) s = _
    rw [fireNode_result hr rfl rfl, sextTo_toNat (by decide)]
  · have hfire := fireNode_int1Plan (op := fun n a => a + f.imm.signExtend n) (exec_lea_imm hi) hr fun a => by
      rw [sval_toNat (elemBits_pos _), sval_toNat (by decide), wrap_eq, BitVec.ofInt_add, BitVec.ofInt_toInt]
      rfl
    rw [ht] at hfire
    exact hfire
  · have hr' : ReadyA f 0 true (!f.ir) false h s := by rw [hi]; exact hr
    have hfire := fireNode_intPlan (op := fun n a b => a + (b <<< (f.imm.toNat % 8)) + (f.imm.extractLsb' 3 18).signExtend n)
      (exec_lea_indexed hi) hr' fun a b => lea_toNat (elemBits_pos _) a b f.imm
    rw [ht, rightElems_of_ir_false hi, ht] at hfire
    exact hfire

end Sys2Proof.Machine
end

section
/-!
FLOATING-POINT LANES (R38, R45 to R48, R107, R109): a lane is computed exactly and rounded once with the draw of its place; the lesser and
the greater of two values, and the sign bit.
-/

namespace Sys2Proof.Machine

open Sys2Proof Sys2Proof.Num

/-! ## One draw a lane (R45) -/

theorem drawLanes_eq {α β : Type} (mode : Nat) (step : Nat → α → β) (g : Nat) (l : List α) :
    drawLanes mode step g l = (l.mapIdx (fun k x => step (drawn24 mode g k) x), if mode = 5 then genNext^[l.length] g else g) := by
  induction l generalizing g with
  | nil => simp [drawLanes]
  | cons x t ih =>
    by_cases h : mode = 5
    · subst h
      simp [drawLanes, draw, ih, drawn24, List.mapIdx_cons]
    · simp [drawLanes, draw, ih, drawn24, List.mapIdx_cons, h]

theorem newGen_iterate (mode g n : Nat) : newGen mode (if mode = 5 then genNext^[n] g else g) = stepped mode g n := by
  by_cases h : mode = 5 <;> simp [newGen, stepped, h]

theorem mapIdx_map {α β γ : Type} (g : Nat → β → γ) (f : α → β) (l : List α) :
    (l.map f).mapIdx g = l.mapIdx (fun k x => g k (f x)) := by
  simp [List.mapIdx_eq_zipIdx_map, List.zipIdx_map]

/-- The lanes of a firing that rounds: each value once, with the draw of its place, and an invalid one poisons under PX (R46, R48). -/
theorem roundLanes_eq (s : State) (f : FmtA) (ty : Ty) (vs : List (FVal × Bool)) (po : Option Origin) :
    roundLanes s f ty vs po = { s.result f ty (s.rounded f ty (vs.map (·.1))) po (invalid5 f (vs.map (·.2))) with
      gen := stepped (s.mode f.md) s.gen vs.length } := by
  rw [roundLanes, drawLanes_eq]
  simp only [newGen_iterate, pxCause_eq, State.rounded, mapIdx_map]
  rfl

/-- Lanes of which none is invalid. -/
theorem roundLanes_valid {α : Type} (s : State) (f : FmtA) (ty : Ty) (v : α → FVal) (es : List α) (po : Option Origin) :
    roundLanes s f ty (es.map fun e => (v e, false)) po =
      { s.result f ty (s.rounded f ty (es.map v)) po none with gen := stepped (s.mode f.md) s.gen es.length } := by
  rw [roundLanes_eq, List.map_map, List.map_map, List.length_map]
  have hvalid : invalid5 f (es.map ((·.2) ∘ fun e => (v e, false))) = none := by simp [invalid5, Function.comp_def]
  rw [hvalid]
  rfl

/-- Settles O11: the three operations are one plan, whose lanes are rounded once. -/
theorem floatArithmetic : Obligations.FloatArithmetic := by
  intro i f op h s vs hi hr hvs
  have he : exec i = fireNode (fbinPlan op f) := by
    unfold floatTwo at hi
    split at hi
    case h_4 => cases hi
    all_goals
      obtain ⟨rfl, hop⟩ := Prod.mk.inj (Option.some.inj hi)
      subst hop
      rfl
  subst hvs
  rw [he, fireNode_result hr rfl (roundLanes_eq ..)]
  rfl

/-! ## Values as codes give them (R37, R47) -/

@[simp] theorem isNan_flushIn (t : Ty) (ftz : Bool) (v : FVal) : isNan (flushIn t ftz v) = isNan v := by
  cases v with
  | fin neg m e => rw [flushIn]; split <;> rfl
  | nan _ => rfl
  | inf _ => rfl

@[simp] theorem sig_flushIn (t : Ty) (ftz : Bool) (v : FVal) : sig (flushIn t ftz v) = sig v := by
  cases v with
  | fin neg m e => rw [flushIn]; split <;> rfl
  | nan _ => rfl
  | inf _ => rfl

theorem sig_of_not_nan {v : FVal} (h : isNan v = false) : sig v = false := by
  cases v with
  | nan _ => cases h
  | inf _ => rfl
  | fin _ _ _ => rfl

/-- A finite value that a code stands for is a number of the grid of its format. -/
theorem OnGrid.of_decodeF {t : Ty} {code m : Nat} {neg : Bool} {e : ℤ} (h : decodeF t code = .fin neg m e) : OnGrid t m e := by
  have hfr : code % 2 ^ fracBits t < 2 ^ fracBits t := Nat.mod_lt _ (Nat.two_pow_pos _)
  have hpow : 2 ^ (fracBits t + 1) = 2 * 2 ^ fracBits t := pow_succ' ..
  simp only [decodeF] at h
  split at h
  · cases h
  · split at h
    · split at h <;> cases h
    · split at h
      next =>
        obtain ⟨-, rfl, rfl⟩ := FVal.fin.inj h
        exact ⟨le_rfl, .inl rfl, by omega⟩
      next hex =>
        obtain ⟨-, rfl, rfl⟩ := FVal.fin.inj h
        refine ⟨?_, .inr (by omega), by omega⟩
        simp only [beq_iff_eq] at hex
        simp only [emin]
        omega

theorem OnGrid.of_readF {t : Ty} {ftz : Bool} {code m : Nat} {neg : Bool} {e : ℤ} (h : readF t ftz code = .fin neg m e) :
    m = 0 ∨ OnGrid t m e := by
  rw [readF] at h
  cases hd : decodeF t code with
  | nan _ => rw [hd] at h; cases h
  | inf _ => rw [hd] at h; cases h
  | fin neg' m' e' =>
    rw [hd, flushIn] at h
    split at h
    · exact .inl (FVal.fin.inj h).2.1.symm
    · rw [h] at hd; exact .inr (.of_decodeF hd)

/-- A number of the grid is written in one way. -/
theorem OnGrid.unique {t : Ty} {m k : Nat} {e d : ℤ} (h1 : OnGrid t m e) (h2 : OnGrid t k d) (hm : m ≠ 0)
    (h : (m : ℚ) * 2 ^ e = k * 2 ^ d) : m = k ∧ e = d := by
  have hp (e : ℤ) : (0 : ℚ) < 2 ^ e := by positivity
  have hk : k ≠ 0 := fun h0 => by simp [h0, hm, (hp e).ne'] at h
  have hd : e = d := (h1.unit hk h.le (by rw [← h]; exact mul_lt_mul_of_pos_right (lt_add_one _) (hp e))).symm.trans
    (h2.unit hk le_rfl (mul_lt_mul_of_pos_right (lt_add_one _) (hp d)))
  subst hd
  exact ⟨by exact_mod_cast mul_right_cancel₀ (hp e).ne' h, rfl⟩

/-- Two equal values of a format that are not negative round to one code. -/
theorem roundTo_eq_of_eqF {t : Ty} {ftz : Bool} {c d : Nat} {x y : FVal} (hx : readF t ftz c = x) (hy : readF t ftz d = y)
    (hxy : eqF x y = true) (nx : isNan x = false) (ny : isNan y = false) (sx : isNeg x = false) (sy : isNeg y = false) :
    roundTo t 0 false false 0 x = roundTo t 0 false false 0 y := by
  rw [eqF_iff nx ny] at hxy
  cases x with
  | nan _ => cases nx
  | inf s =>
    obtain rfl : s = false := sx
    cases y with
    | nan _ => cases ny
    | inf u => obtain rfl : u = false := sy; rfl
    | fin u k d => exact absurd (WithBot.coe_inj.mp hxy) (WithTop.coe_ne_top).symm
  | fin s m e =>
    obtain rfl : s = false := sx
    cases y with
    | nan _ => cases ny
    | inf u => obtain rfl : u = false := sy; exact absurd (WithBot.coe_inj.mp hxy) WithTop.coe_ne_top
    | fin u k d =>
      obtain rfl : u = false := sy
      have hval : (m : ℚ) * 2 ^ e = k * 2 ^ d := by
        have h := WithTop.coe_inj.mp (WithBot.coe_inj.mp hxy)
        simpa using h
      have hzero : m = 0 ↔ k = 0 := by
        have he : (2 : ℚ) ^ e ≠ 0 := by positivity
        have hd : (2 : ℚ) ^ d ≠ 0 := by positivity
        constructor <;> rintro rfl <;> simpa [he, hd] using hval
      by_cases hm : m = 0
      · rw [hzero.mp hm, hm, roundTo_zero, roundTo_zero]
      · obtain ⟨rfl, rfl⟩ := ((OnGrid.of_readF hx).resolve_left hm).unique ((OnGrid.of_readF hy).resolve_left (hm ∘ hzero.mpr)) hm hval
        rfl

/-! ## fmin, fmax, fabs and fneg (R107, R109) -/

/-- The operand that the table of R109 names, rounded; where both are equal and neither is negative, either rounds to the same code. -/
theorem roundTo_fmm (great : Bool) {t : Ty} {ftz : Bool} {c d : Nat} {x y : FVal} (hx : readF t ftz c = x) (hy : readF t ftz d = y) :
    roundTo t 0 false false 0 (fmm great x y).1 =
      if isNan x || isNan y then nanCode t
      else roundTo t 0 false false 0 (if ltF x y || (eqF x y && isNeg x) then (if great then y else x) else (if great then x else y)) := by
  cases nx : isNan x
  case true => simp [fmm, nx, roundTo]
  cases ny : isNan y
  case true => simp [fmm, nx, ny, roundTo]
  have heq : eqF x y = (!ltF x y && !ltF y x) := by simp [eqF, nx, ny]
  by_cases hties : eqF x y = true ∧ isNeg x = false ∧ isNeg y = false
  · obtain ⟨he, sx, sy⟩ := hties
    have hr := roundTo_eq_of_eqF hx hy he nx ny sx sy
    simp only [fmm, nx, ny, Bool.or_self, Bool.false_eq_true, if_false]
    split <;> split <;> split <;> simp [hr]
  · simp only [fmm, nx, ny, Bool.or_self, Bool.false_eq_true, if_false, lessEq]
    rw [heq] at hties ⊢
    congr 1
    rcases Bool.eq_false_or_eq_true (ltF x y) with hlt | hlt
    · cases great <;> simp [hlt]
    rcases Bool.eq_false_or_eq_true (ltF y x) with hgt | hgt
    · cases great <;> simp [hlt, hgt]
    rcases Bool.eq_false_or_eq_true (isNeg x) with sx | sx
    · cases great <;> simp [hlt, hgt, sx]
    have sy : isNeg y = true := by simpa [hlt, hgt, sx] using hties
    cases great <;> simp [hlt, hgt, sx, sy]

theorem fmm_invalid (great : Bool) {t : Ty} {ftz : Bool} {c d : Nat} :
    (fmm great (readF t ftz c) (readF t ftz d)).2 = (sig (decodeF t c) || sig (decodeF t d)) := by
  simp only [fmm, readF, isNan_flushIn, sig_flushIn]
  split
  next => rfl
  next h =>
    simp only [Bool.or_eq_true, not_or, Bool.not_eq_true] at h
    rw [sig_of_not_nan h.1, sig_of_not_nan h.2]
    rfl

theorem signBit_eq_two_pow {t : Ty} (ht : t ∈ floatFormats) : signBit t = 2 ^ (t.elemBits - 1) := by
  simp only [floatFormats, List.mem_cons, List.not_mem_nil, or_false] at ht
  rcases ht with rfl | rfl | rfl | rfl | rfl | rfl | rfl <;> rfl

/-- Clearing and inverting the sign bit of a code (R107). -/
theorem fabs_toNat {t : Ty} (ht : t ∈ floatFormats) {a : Nat} (ha : a < 2 ^ t.elemBits) :
    a % signBit t = (BitVec.ofNat t.elemBits a &&& ~~~BitVec.twoPow _ (t.elemBits - 1)).toNat := by
  have hn := elemBits_pos t
  rw [signBit_eq_two_pow ht]
  generalize t.elemBits = n at *
  refine Nat.eq_of_testBit_eq fun i => ?_
  rw [Nat.testBit_mod_two_pow, ← BitVec.getLsbD, BitVec.getLsbD_and, BitVec.getLsbD_not, BitVec.getLsbD_twoPow, BitVec.getLsbD_ofNat]
  by_cases hi : i < n
  · by_cases h1 : n - 1 = i
    · simp [h1]
    · have h2 : i < n - 1 := by omega
      simp [hi, h1, h2]
  · simp [hi, Nat.testBit_lt_two_pow (ha.trans_le (Nat.pow_le_pow_right two_pos (not_lt.mp hi)))]

theorem fneg_toNat {t : Ty} (ht : t ∈ floatFormats) (a : Nat) :
    (a + signBit t) % (2 * signBit t) = (BitVec.ofNat t.elemBits a ^^^ BitVec.twoPow _ (t.elemBits - 1)).toNat := by
  have hn := elemBits_pos t
  rw [signBit_eq_two_pow ht]
  generalize t.elemBits = n at *
  rw [← pow_succ', show n - 1 + 1 = n by omega, add_comm]
  refine Nat.eq_of_testBit_eq fun i => ?_
  rw [Nat.testBit_mod_two_pow, ← BitVec.getLsbD, BitVec.getLsbD_xor, BitVec.getLsbD_twoPow, BitVec.getLsbD_ofNat]
  by_cases hi : i < n
  · by_cases h1 : n - 1 = i
    · subst h1
      simp [hi, Nat.testBit_two_pow_add_eq]
    · have h2 : i < n - 1 := by omega
      simp [hi, h1, Nat.testBit_two_pow_add_gt h2]
  · have h1 : n - 1 ≠ i := by omega
    simp [hi, h1]

/-- Settles O12. -/
theorem floatMinMaxSign : Obligations.FloatMinMaxSign := by
  refine ⟨fun great f h s hr => ?_, fun f h s ht hr => ⟨?_, ?_⟩⟩
  · have he : exec (if great then .fmax f else .fmin f) = fireNode (fmmPlan great f) := by cases great <;> rfl
    rw [he, fireNode_result hr rfl rfl, map_zipLanes, map_zipLanes]
    simp only [roundTo_fmm great rfl rfl, fmm_invalid]
    rfl
  · change fireNode (planFabs f) s = _
    rw [fireNode_result hr rfl rfl, List.map_congr_left fun a ha => fabs_toNat ht (leftElems_lt ha)]
  · change fireNode (planFneg f) s = _
    rw [fireNode_result hr rfl rfl, List.map_congr_left fun a _ => fneg_toNat ht a]

end Sys2Proof.Machine
end

section
/-!
SPECIAL FUNCTIONS (R96, R114): the table of special inputs, and that the reciprocal, the reciprocal root and the root are rounded as
their exact values would be: a value cut off to many bits, with a last bit that says whether something was cut off, lies on the same side
of every number a rounding looks at.
-/

namespace Sys2Proof.Machine

open Sys2Proof Sys2Proof.Num

/-! ## The table of special inputs (R114) -/

/-- What a special function gives for a value: what the table says, else the function itself. -/
def specialOp (i : Instr) (v : FVal) : FVal × Bool := (specialCase i v).getD (specialVal i v, false)

theorem exec_special {i : Instr} {f : FmtA} (hi : specialOf i = some f) : exec i = fireNode (specialPlan (specialOp i) f) := by
  unfold specialOf at hi
  split at hi
  case h_7 => cases hi
  all_goals
    obtain rfl := Option.some.inj hi
    refine congrArg (fun op => fireNode (specialPlan op _)) (funext fun v => ?_)
    rcases v with x | n | ⟨n, m, e⟩
    · rfl
    · cases n <;> rfl
    · cases m <;> cases n <;> rfl

/-! ## A value with a sticky last bit -/

theorem fracBits_le (t : Ty) : fracBits t ≤ 52 := by cases t <;> decide

/-- How a value compares with the multiples of 2^u, by integers: `j` units are at most the value where `P j ≤ Q`, and at least where
`Q ≤ P j`. -/
structure Measured (ge le : ℚ → Prop) (u : ℤ) (P : ℕ → ℕ) (Q : ℕ) : Prop where
  mono : StrictMono P
  ge_iff : ∀ j : ℕ, ge (j * 2 ^ u) ↔ P j ≤ Q
  le_iff : ∀ j : ℕ, le (j * 2 ^ u) ↔ Q ≤ P j
  down : ∀ c d : ℚ, 0 ≤ c → c ≤ d → ge d → ge c

section
variable {ge le : ℚ → Prop} {u : ℤ} {P : ℕ → ℕ} {Q r : ℕ} (h : Measured ge le u P Q) (h1 : P r ≤ Q) (h2 : Q < P (r + 1))
include h h1 h2

/-- The sticky value compares with every multiple of 2^u as the value does. -/
theorem Measured.sticky_iff (j : ℕ) :
    (ge (j * 2 ^ u) ↔ (j : ℚ) * 2 ^ u ≤ (2 * r + (P r != Q).toNat : ℕ) * 2 ^ (u - 1)) ∧
    (le (j * 2 ^ u) ↔ ((2 * r + (P r != Q).toNat : ℕ) : ℚ) * 2 ^ (u - 1) ≤ j * 2 ^ u) := by
  have hp : (0 : ℚ) < 2 ^ (u - 1) := by positivity
  have hu : (j : ℚ) * 2 ^ u = (2 * j : ℕ) * 2 ^ (u - 1) := by
    rw [show u = 1 + (u - 1) by ring, zpow_add₀ two_ne_zero, show 1 + (u - 1) - 1 = u - 1 by ring]
    push_cast; ring
  rw [h.ge_iff, h.le_iff, hu, mul_le_mul_iff_left₀ hp, mul_le_mul_iff_left₀ hp, Nat.cast_le, Nat.cast_le]
  have hge : P j ≤ Q ↔ j ≤ r :=
    ⟨fun hj => Nat.lt_succ_iff.mp (h.mono.lt_iff_lt.mp (hj.trans_lt h2)), fun hj => (h.mono.le_iff_le.mpr hj).trans h1⟩
  rw [hge]
  rcases h1.eq_or_lt with he | hlt
  · rw [← he, h.mono.le_iff_le]
    simp
  · have hle : Q ≤ P j ↔ r < j :=
      ⟨fun hj => h.mono.lt_iff_lt.mp (hlt.trans_le hj), fun hj => h2.le.trans (h.mono.le_iff_le.mpr hj)⟩
    rw [hle]
    simp only [bne_iff_ne.mpr hlt.ne, Bool.toNat_true]
    omega

/-- A sticky value with many bits is rounded as the value itself. -/
theorem Measured.rounded (hbig : 2 ^ 77 ≤ r) {t : Ty} (ht : t ∈ floatFormats) {mode : Nat} (hm : mode < 6) (z : Nat) (sat ftz neg : Bool) :
    Rounded t mode sat ftz z neg ge le (roundTo t mode sat ftz z (sticky neg r (P r != Q) u)) := by
  intro k n q up hlow hnorm hhigh at_ hat hge hlt hup
  have hq : u + 24 ≤ q := by
    by_contra hq
    refine hlt (h.down _ ((2 ^ 77 : ℕ) * 2 ^ u) ?_ ?_ ((h.ge_iff _).mpr ((h.mono.le_iff_le.mpr hbig).trans h1)))
    · rw [hat]; positivity
    · have hk : (k : ℚ) + 1 ≤ 2 ^ 53 := by
        have : k + 1 ≤ 2 ^ 53 := hhigh.trans_le (Nat.pow_le_pow_right two_pos (by have := fracBits_le t; omega))
        exact_mod_cast this
      rw [hat]
      calc ((k : ℚ) + 1) * 2 ^ q ≤ 2 ^ 53 * 2 ^ (u + 24) := by gcongr <;> [norm_num; omega]
        _ = (2 ^ 77 : ℕ) * 2 ^ u := by rw [zpow_add₀ two_ne_zero]; push_cast; norm_num; ring
  have hpoint (y : ℚ) (i : ℕ) (hy : y = i / 2 ^ 24) : at_ y = (i * 2 ^ (q - 24 - u).toNat : ℕ) * 2 ^ u := by
    have hpow : (2 : ℚ) ^ q = 2 ^ (24 : ℤ) * 2 ^ (q - 24 - u).toNat * 2 ^ u := by
      rw [← zpow_natCast 2 (q - 24 - u).toNat, Int.toNat_of_nonneg (by omega), ← zpow_add₀ two_ne_zero, ← zpow_add₀ two_ne_zero]
      congr 1; ring
    rw [hat, hy, hpow]
    push_cast
    norm_num
    ring
  have hiff (y : ℚ) (i : ℕ) (hy : y = i / 2 ^ 24) := hpoint y i hy ▸ h.sticky_iff h1 h2 (i * 2 ^ (q - 24 - u).toNat)
  have h0 := hiff k (k * 2 ^ 24) (by push_cast; ring)
  have hone := hiff (k + 1) ((k + 1) * 2 ^ 24) (by push_cast; ring)
  have hhalf := hiff (k + 1 / 2) (k * 2 ^ 24 + 2 ^ 23) (by push_cast; ring)
  have hdraw := hiff (k + (z + 1) / 2 ^ 24) (k * 2 ^ 24 + (z + 1)) (by push_cast; ring)
  refine roundTo_rounded ht hm z _ sat ftz neg _ k n q up hlow hnorm hhigh at_ hat (h0.1.mp hge) (fun hc => hlt (hone.1.mpr hc)) (hup.trans ?_)
  rw [h0.2, hhalf.1, hhalf.2, hdraw.1]

end

/-! ## The reciprocal and the roots (R114) -/

/-- The root found bit by bit is the integer part of the root. -/
theorem isqrtAux_spec (n b r : Nat) (h1 : r * r ≤ n) (h2 : n < (r + 2 ^ b) * (r + 2 ^ b)) :
    isqrtAux n b r * isqrtAux n b r ≤ n ∧ n < (isqrtAux n b r + 1) * (isqrtAux n b r + 1) := by
  induction b generalizing r with
  | zero => exact ⟨h1, h2⟩
  | succ b ih =>
    rw [isqrtAux]
    split
    next h => exact ih _ h (by rwa [add_assoc, ← two_mul, ← pow_succ'])
    next h => exact ih _ h1 (not_le.mp h)

theorem isqrt_spec (n : Nat) : isqrt n * isqrt n ≤ n ∧ n < (isqrt n + 1) * (isqrt n + 1) := by
  refine isqrtAux_spec n _ 0 (Nat.zero_le _) ?_
  rw [zero_add, ← pow_add]
  exact Nat.lt_log2_self.trans_le (Nat.pow_le_pow_right two_pos (by omega))

theorem isqrt_ge {n k : Nat} (h : k * k ≤ n) : k ≤ isqrt n :=
  Nat.lt_succ_iff.mp (Nat.mul_self_lt_mul_self_iff.mp (h.trans_lt (isqrt_spec n).2))

section
variable {m : Nat} (hm : 0 < m) (e : ℤ)
include hm

/-- 1 / (m × 2^e) against multiples of 2^(-e - s): `j` units are at most it where `j m ≤ 2^s`. -/
theorem measured_recip (s : Nat) : Measured (fun c => c * ((m : ℚ) * 2 ^ e) ≤ 1) (fun c => 1 ≤ c * ((m : ℚ) * 2 ^ e)) (-e - s)
    (fun j => j * m) (2 ^ s) := by
  have hval (j : ℕ) : (j : ℚ) * 2 ^ (-e - s : ℤ) * (m * 2 ^ e) = (j * m : ℕ) / (2 ^ s : ℕ) := by
    have hp : (2 : ℚ) ^ (-e - s : ℤ) * 2 ^ e = (2 ^ s)⁻¹ := by
      rw [← zpow_add₀ two_ne_zero, ← zpow_natCast, ← zpow_neg]; congr 1; ring
    rw [mul_mul_mul_comm, hp]
    push_cast
    rfl
  refine ⟨fun a b hab => Nat.mul_lt_mul_of_pos_right hab hm, fun j => ?_, fun j => ?_, fun c d hc hcd hd => ?_⟩
  · rw [hval, div_le_one (by positivity), Nat.cast_le]
  · rw [hval, one_le_div (by positivity), Nat.cast_le]
  · exact (mul_le_mul_of_nonneg_right hcd (by positivity)).trans hd

/-- 1 / the root of m × 2^e against multiples of 2^w, where -e = s + 2 w: `j` units are at most it where `j² m ≤ 2^s`. -/
theorem measured_rsqrt {s : Nat} {w : ℤ} (hw : -e - s = 2 * w) :
    Measured (fun c => c ^ 2 * ((m : ℚ) * 2 ^ e) ≤ 1) (fun c => 1 ≤ c ^ 2 * ((m : ℚ) * 2 ^ e)) w (fun j => j * j * m) (2 ^ s) := by
  have hval (j : ℕ) : ((j : ℚ) * 2 ^ w) ^ 2 * (m * 2 ^ e) = (j * j * m : ℕ) / (2 ^ s : ℕ) := by
    have hp : ((2 : ℚ) ^ w) ^ 2 * 2 ^ e = (2 ^ s)⁻¹ := by
      rw [← zpow_natCast, ← zpow_mul, ← zpow_add₀ two_ne_zero, ← zpow_natCast, ← zpow_neg]; congr 1; push_cast; omega
    rw [mul_pow, mul_mul_mul_comm, hp]
    push_cast
    rw [sq]
    rfl
  refine ⟨fun a b hab => Nat.mul_lt_mul_of_pos_right (Nat.mul_self_lt_mul_self hab) hm, fun j => ?_, fun j => ?_,
    fun c d hc hcd hd => ?_⟩
  · rw [hval, div_le_one (by positivity), Nat.cast_le]
  · rw [hval, one_le_div (by positivity), Nat.cast_le]
  · exact (mul_le_mul_of_nonneg_right (pow_le_pow_left₀ hc hcd 2) (by positivity)).trans hd

omit hm in
/-- The root of m × 2^e against multiples of 2^w, where e = s + 2 w: `j` units are at most it where `j² ≤ m 2^s`. -/
theorem measured_sqrt {s : Nat} {w : ℤ} (hw : e - s = 2 * w) :
    Measured (fun c => c ^ 2 ≤ (m : ℚ) * 2 ^ e) (fun c => (m : ℚ) * 2 ^ e ≤ c ^ 2) w (fun j => j * j) (m * 2 ^ s) := by
  have hp : (0 : ℚ) < (2 ^ w) ^ 2 := by positivity
  have hval : (m : ℚ) * 2 ^ e = (m * 2 ^ s : ℕ) * (2 ^ w) ^ 2 := by
    rw [show e = s + w * 2 by omega, zpow_add₀ two_ne_zero, zpow_mul]
    push_cast
    rw [mul_assoc]
    rfl
  have hsq (j : ℕ) : ((j : ℚ) * 2 ^ w) ^ 2 = (j * j : ℕ) * (2 ^ w) ^ 2 := by rw [mul_pow, sq (j : ℚ), Nat.cast_mul]
  refine ⟨fun a b hab => Nat.mul_self_lt_mul_self hab, fun j => ?_, fun j => ?_, fun c d hc hcd hd => ?_⟩
  · rw [hval, hsq, mul_le_mul_iff_left₀ hp, Nat.cast_le]
  · rw [hval, hsq, mul_le_mul_iff_left₀ hp, Nat.cast_le]
  · exact (pow_le_pow_left₀ hc hcd 2).trans hd

section
variable {t : Ty} (ht : t ∈ floatFormats) {mode : Nat} (hmode : mode < 6) (z : Nat) (sat ftz : Bool)
include ht hmode

theorem recip_rounded (neg : Bool) : Rounded t mode sat ftz z neg (fun c => c * ((m : ℚ) * 2 ^ e) ≤ 1)
    (fun c => 1 ≤ c * ((m : ℚ) * 2 ^ e)) (roundTo t mode sat ftz z (recip neg m e)) := by
  rw [recip]
  generalize hs : Nat.log2 m + 200 = s
  have hbig : 2 ^ 77 ≤ 2 ^ s / m := (Nat.le_div_iff_mul_le hm).mpr <| by
    calc 2 ^ 77 * m ≤ 2 ^ 77 * 2 ^ (Nat.log2 m + 1) := Nat.mul_le_mul_left _ Nat.lt_log2_self.le
      _ ≤ 2 ^ s := by rw [← pow_add]; exact Nat.pow_le_pow_right two_pos (by omega)
  have hcut : (2 ^ s % m != 0) = (2 ^ s / m * m != 2 ^ s) := by
    have hdiv := Nat.div_add_mod' (2 ^ s) m
    rw [Bool.eq_iff_iff, bne_iff_ne, bne_iff_ne]
    omega
  have hhi : 2 ^ s < (2 ^ s / m + 1) * m := by rw [mul_comm]; exact Nat.lt_mul_div_succ _ hm
  rw [hcut]
  exact (measured_recip hm e s).rounded (Nat.div_mul_le_self ..) hhi hbig ht hmode z sat ftz neg

theorem rsqrt_rounded : Rounded t mode sat ftz z false (fun c => c ^ 2 * ((m : ℚ) * 2 ^ e) ≤ 1)
    (fun c => 1 ≤ c ^ 2 * ((m : ℚ) * 2 ^ e)) (roundTo t mode sat ftz z (rsqrtF m e)) := by
  rw [rsqrtF]
  generalize hs : (if (-e - (Nat.log2 m + 400 : ℕ)) % 2 = 0 then Nat.log2 m + 400 else Nat.log2 m + 400 + 1) = s
  have hbounds : Nat.log2 m + 400 ≤ s ∧ -e - s = 2 * ((-e - s) / 2) := by
    rw [← hs]; split <;> omega
  obtain ⟨hge, heven⟩ := hbounds
  have hbig : 2 ^ 77 ≤ isqrt (2 ^ s / m) := isqrt_ge <| (Nat.le_div_iff_mul_le hm).mpr <| by
    calc 2 ^ 77 * 2 ^ 77 * m ≤ 2 ^ 77 * 2 ^ 77 * 2 ^ (Nat.log2 m + 1) := Nat.mul_le_mul_left _ Nat.lt_log2_self.le
      _ ≤ 2 ^ s := by rw [← pow_add, ← pow_add]; exact Nat.pow_le_pow_right two_pos (by omega)
  obtain ⟨hlo, hhi⟩ := isqrt_spec (2 ^ s / m)
  exact (measured_rsqrt hm e heven).rounded ((Nat.le_div_iff_mul_le hm).mp hlo) ((Nat.div_lt_iff_lt_mul hm).mp hhi) hbig ht hmode z
    sat ftz false

theorem sqrt_rounded : Rounded t mode sat ftz z false (fun c => c ^ 2 ≤ (m : ℚ) * 2 ^ e) (fun c => (m : ℚ) * 2 ^ e ≤ c ^ 2)
    (roundTo t mode sat ftz z (sqrtF m e)) := by
  rw [sqrtF]
  generalize hs : (if (e - 320) % 2 = 0 then 320 else 321 : ℕ) = s
  have hbounds : 320 ≤ s ∧ e - s = 2 * ((e - s) / 2) := by
    rw [← hs]; split <;> omega
  obtain ⟨hge, heven⟩ := hbounds
  have hbig : 2 ^ 77 ≤ isqrt (m * 2 ^ s) := isqrt_ge <| by
    calc 2 ^ 77 * 2 ^ 77 ≤ 2 ^ s := by rw [← pow_add]; exact Nat.pow_le_pow_right two_pos (by omega)
      _ ≤ m * 2 ^ s := Nat.le_mul_of_pos_left _ hm
  obtain ⟨hlo, hhi⟩ := isqrt_spec (m * 2 ^ s)
  exact (measured_sqrt e heven).rounded hlo hhi hbig ht hmode z sat ftz false

end
end

/-- Settles O14: the plans give what the table says, and the values that are cut off are rounded as the exact ones. -/
theorem specialFunctions : Obligations.SpecialFunctions := by
  refine ⟨fun i f h s vs hi hr hvs => ?_, fun f t mode z m sat ftz neg e ht hmode hz hm => ⟨?_, ?_, ?_⟩⟩
  · subst hvs
    have hlanes (es : List Nat) : (valuesOf f es).map (specialOp i) = es.map (fun a => specialOp i (readF f.ty (f.md.getLsbD 1) a)) := by
      rw [valuesOf, List.map_map]
      rfl
    rw [exec_special hi, fireNode_result hr rfl (roundLanes_eq ..), hlanes]
    simp only [beq_iff_eq]
    rfl
  · exact recip_rounded hm e ht hmode z sat ftz neg
  · exact rsqrt_rounded hm e ht hmode z sat ftz
  · exact sqrt_rounded hm e ht hmode z sat ftz

end Sys2Proof.Machine
end

section
/-!
CONVERSIONS AND ACCUMULATIONS (R49 to R51, R108, R111 to R113, R117, R118): what a ready conversion delivers, how far a rounding to an
integer moves a value, and what fmac, xsacc and xsfin add up and emit.
-/

namespace Sys2Proof.Machine

open Sys2Proof Sys2Proof.Num

/-! ## Conversions (R111 to R113) -/

theorem convLanes_eq (f : FmtA) (es : List Nat) : convLanes f.ty (f.imm.getLsbD 4) es = convSource f es := by
  rw [convLanes, convSource]
  simp only [beq_iff_eq]
  split
  next =>
    generalize (if f.imm.getLsbD 4 then 4 else 0) = k
    cases hd : es.drop k with
    | nil =>
      have hk : es.length - k = 0 := by rw [← List.length_drop, hd]; rfl
      have h0 : es[k]? = none := List.getElem?_eq_none (by omega)
      simp [hk, h0]
    | cons x t =>
      have hk : es.length - k = t.length + 1 := by rw [← List.length_drop, hd]; rfl
      rw [← hd, if_neg (by simp [hd])]
      refine List.ext_getElem (by simp [hk, min_comm]) fun i h1 h2 => ?_
      have hi : k + i < es.length := by simp at h1; omega
      simp [hi]
  next => rfl

/-- A value `n + f` with a part `f` below 1 lies within one of `n`, and of `n + 1` where `f` is not 0; it is no integer but `n`. -/
theorem near_of_parts {n r : ℕ} {f : ℚ} (h0 : 0 ≤ f) (h1 : f < 1) (hr : r = n ∨ r = n + 1 ∧ 0 < f) :
    |(r : ℚ) - (n + f)| < 1 ∧ ∀ k : ℤ, (n : ℚ) + f = k → (r : ℤ) = k := by
  have hfloor (k : ℤ) (hk : (n : ℚ) + f = k) : k = n ∧ f = 0 := by
    have hle : (n : ℤ) ≤ k := by
      have : (n : ℚ) ≤ k := by linarith
      exact_mod_cast this
    have hlt : k < n + 1 := by
      have : (k : ℚ) < n + 1 := by linarith
      exact_mod_cast this
    obtain rfl : k = n := by omega
    exact ⟨rfl, by simpa using hk⟩
  rcases hr with rfl | ⟨rfl, hpos⟩
  · exact ⟨by rw [abs_lt]; constructor <;> linarith, fun k hk => (hfloor k hk).1.symm⟩
  · exact ⟨by rw [abs_lt]; push_cast; constructor <;> linarith, fun k hk => absurd (hfloor k hk).2 hpos.ne'⟩

/-- Rounding to an integer takes one of the two neighbours, and an integer is its own (R43, R50). -/
theorem roundAt_zero_near (mode : Nat) (neg : Bool) (z m : Nat) (e : ℤ) :
    |(roundAt mode neg z m e 0 : ℚ) - m * 2 ^ e| < 1 ∧ ∀ k : ℤ, (m : ℚ) * 2 ^ e = k → (roundAt mode neg z m e 0 : ℤ) = k := by
  rw [roundAt]
  split
  next he =>
    have hval := units_of_le he m
    rw [sub_zero] at hval ⊢
    rw [hval]
    exact ⟨by simp, fun k hk => by exact_mod_cast hk⟩
  next he =>
    have hval := units_of_lt (not_le.mp he) m
    rw [sub_zero] at hval
    rw [hval]
    dsimp only
    generalize (0 - e).toNat = sh
    have hD : (0 : ℚ) < (2 ^ sh : ℕ) := by positivity
    have hsum : (m : ℚ) / (2 ^ sh : ℕ) = (m / 2 ^ sh : ℕ) + (m % 2 ^ sh : ℕ) / (2 ^ sh : ℕ) := by
      rw [div_eq_iff hD.ne', add_mul, div_mul_cancel₀ _ hD.ne', ← Nat.cast_mul, ← Nat.cast_add, Nat.div_add_mod']
    rw [hsum]
    refine near_of_parts (by positivity) ?_ ?_
    · rw [div_lt_one hD]; exact Nat.cast_lt.mpr (Nat.mod_lt m (Nat.two_pow_pos sh))
    · rcases Nat.eq_zero_or_pos (m % 2 ^ sh) with h0 | h0
      · rw [h0]; exact .inl rfl
      · split
        · exact .inr ⟨rfl, div_pos (Nat.cast_pos.mpr h0) hD⟩
        · exact .inl rfl

theorem frndF_near (mode z : Nat) {v : FVal} {x : ℚ} (h : ratOf v = some x) : ∃ n : ℤ, ratOf (frndF mode z v) = some (n : ℚ) ∧
    toInt mode z v = some n ∧ |(n : ℚ) - x| < 1 ∧ (∀ k : ℤ, x = k → n = k) := by
  obtain ⟨neg, m, e, rfl, rfl⟩ := fin_of_ratOf h
  obtain ⟨hnear, hint⟩ := roundAt_zero_near mode neg z m e
  refine ⟨if neg then -(roundAt mode neg z m e 0 : ℤ) else roundAt mode neg z m e 0, ?_, rfl, ?_, fun k hk => ?_⟩
  · rw [frndF]
    split
    next he =>
      have hval := units_of_le he m
      rw [ratOf_fin, roundAt, if_pos he, mul_assoc, ← sub_zero e, hval]
      cases neg <;> simp
    next => rw [ratOf_fin]; cases neg <;> simp
  · cases neg with
    | false => simpa using hnear
    | true => rw [← abs_neg]; convert hnear using 2; simp; ring
  · cases neg with
    | false => exact hint k (by simpa using hk)
    | true => rw [if_pos rfl, hint (-k) (by push_cast; rw [← hk]; simp), neg_neg]

theorem frndLane_eq (f : FmtA) (mode z e : Nat) : frndLane f mode z e =
    if isNan (readF f.ty (f.md.getLsbD 1) e) = true ∧ sig (readF f.ty (f.md.getLsbD 1) e) = false then e
    else roundTo f.ty mode false (f.md.getLsbD 1) 0 (frndF mode z (readF f.ty (f.md.getLsbD 1) e)) := by
  simp only [frndLane, ftzOf, Bool.and_eq_true, Bool.not_eq_true']

/-- Settles O15. -/
theorem conversions : Obligations.Conversions := by
  refine ⟨⟨fun f h s vs hr hvs => ?_, fun f h s xs hr hxs => ?_, fun f h s xs hr hxs => ?_, fun f h s vs hr hvs => ?_⟩,
    fun mode z v x hv => frndF_near mode z hv⟩
  · change fireNode (planFcvt f) s = _
    subst hvs
    split
    next hnan =>
      refine fireNode_result hr rfl ?_
      simp only [roundLanes_eq, convLanes_eq, List.length_map]
      rw [if_pos (by simpa [ftzOf] using hnan)]
    next hnan =>
      refine fireNode_result hr rfl ?_
      simp only [roundLanes_eq, convLanes_eq, List.length_map, List.map_map]
      rw [if_neg (by simpa [ftzOf] using hnan)]
      rfl
  · change fireNode (planFcvti f) s = _
    subst hxs
    refine fireNode_result hr rfl ?_
    simp only [drawLanes_eq, convLanes_eq, newGen_iterate, mapIdx_map, List.length_map, List.length_mapIdx]
    rfl
  · change fireNode (planIcvtf f) s = _
    subst hxs
    refine fireNode_result hr rfl ?_
    simp only [roundLanes_valid, convLanes_eq, List.map_map, List.length_map, sval_eq _ _ (elemBits_pos _)]
    rfl
  · change fireNode (planFrnd f) s = _
    subst hvs
    refine fireNode_result hr rfl ?_
    simp only [drawLanes_eq, newGen_iterate, pxCause_eq, List.length_map, frndLane_eq]
    rfl

/-! ## Accumulations (R108, R117, R118) -/

/-- A ready format-A node that changes its state and delivers some tokens, or none, to its targets. -/
theorem fireNode_ceFiredTo {f : FmtA} {u lat busy : Nat} {uL uR uP : Bool} {h : Heads} {s : State} {plan : State → Plan}
    {outs : List (Target × Token)} {needs : List Target} {st : Option NodeState} {gen : Option Word} {body : Heads → Fire}
    (hr : ReadyA f u uL uR uP h s) (hp : plan s = cePlan u lat busy f uL uR uP s body)
    (hb : body h = { outs := outs, needs := needs, st := st, gen := gen }) (ho : ∀ o ∈ outs, o.1 = f.t0 ∨ o.1 = f.t1)
    (hn : ∀ t ∈ needs, t = f.t0 ∨ t = f.t1) : fireNode plan s = .next (s.ceFiredTo u lat busy h outs st gen) := by
  rw [fireNode_ce hr hp (by rw [hb]; exact ho) (by rw [hb]) (by rw [hb]; exact hn), hb]
  rfl

theorem zipWith_range_eq_mapIdx {α β : Type} (g : Nat → α → β) (l : List α) :
    (List.range l.length).zipWith g l = l.mapIdx g := by
  refine List.ext_getElem (by simp) fun i h1 h2 => by simp

/-- The origin of poison that an accumulator keeps (R108). -/
theorem keepOrigin_eq (s : State) (po : Option Origin) (h : Heads) (cause : Option Nat) :
    keepOrigin (keepOrigin po h.origin) (cause.map s.freshOrigin) = s.keptOrigin po h cause := by
  unfold State.keptOrigin
  rcases po with _ | o
  · rcases h.origin with _ | o
    · rcases cause with _ | k <;> rfl
    · rfl
  · rfl

/-- The pairs of operand values of the lanes of a firing (R108). -/
def macPairs (f : FmtA) (h : Heads) : List (FVal × FVal) :=
  zipLanes (fun a b => (readF f.ty (ftzOf f.md) a, readF f.ty (ftzOf f.md) b)) (leftElems f.ty h.l) (rightElems f h.r)

theorem zipLanes_eq_macPairs (f : FmtA) (h : Heads) :
    zipLanes (fun a b => (readF f.ty (ftzOf f.md) a, readF f.ty (ftzOf f.md) b)) (leftElems f.ty h.l) (rightElems f h.r) = macPairs f h := rfl

theorem macSteps_eq (s : State) (f : FmtA) (acc : List Word) (h : Heads) : macSteps s f acc h =
    (macPairs f h).mapIdx (fun i x => macStep (s.mode f.md) (decodeF f.ty (acc.getD i 0).toNat) x.1 x.2) := rfl

/-- The rounded lanes of some exact values, as the drawing of lanes gives them. -/
theorem rounded_map (s : State) (f : FmtA) (ty : Ty) (vs : List (FVal × Bool)) : s.rounded f ty (vs.map (·.1)) =
    vs.mapIdx (fun k v => roundTo ty (s.mode f.md) (satOf f.md) (ftzOf f.md) (drawn24 (s.mode f.md) s.gen k) v.1) := by
  rw [State.rounded, mapIdx_map]
  rfl

/-- Settles O16. -/
theorem accumulations : Obligations.Accumulations := by
  refine ⟨fun f h s m acc po vs now new po1 hr hst hvs hnow hnew hpo => ?_, fun f h s acc po po1 new hr hst hnew hpo => ?_,
    fun f h s v hr hv => ?_⟩
  · change fireNode (planFmac f) s = _
    have hlen : now.length = (macPairs f h).length := by
      rw [hnow, State.rounded, List.length_mapIdx, List.length_map, hvs, macSteps_eq, List.length_mapIdx]
    have hgen : vs.length = now.length := by rw [hnow, State.rounded, List.length_mapIdx, List.length_map]
    have hsteps : (List.range now.length).zipWith (fun i x => macStep (s.mode f.md) (decodeF f.ty (acc.getD i 0).toNat) x.1 x.2)
        (macPairs f h) = vs := by rw [hvs, hlen, zipWith_range_eq_mapIdx, macSteps_eq]
    rw [rounded_map] at hnow
    rw [← flush_eq]
    split
    next hf =>
      refine fireNode_ceFiredTo (needs := []) hr rfl ?_ (by simp) (by simp)
      simp only [hst, drawLanes_eq, newGen_iterate, pxCause_eq, if_pos hf, keepOrigin_eq, zipLanes_eq_macPairs,
        ← hlen, hsteps, ← hnow, ← hnew, ← hpo, hgen]
      cases po1 <;> simp only [packetOr, List.length_map, List.length_range]
    next hf =>
      refine fireNode_ceFiredTo (needs := [f.t0, f.t1]) hr rfl ?_ (by simp) (by simp)
      simp only [hst, drawLanes_eq, newGen_iterate, pxCause_eq, if_neg hf, keepOrigin_eq, zipLanes_eq_macPairs,
        ← hlen, hsteps, ← hnow, ← hnew, ← hpo, hgen]
  · change fireNode (planXsacc f) s = _
    have hsum : BitVec.ofNat 320 (wrap ((leftElems f.ty h.l).foldl (fun a e => xsAdd a (xsElem f e)) (sval acc.toNat 320)) 320) = new := by
      rw [hnew, wrap_eq, BitVec.ofNat_toNat, BitVec.setWidth_eq, sval_toNat (by decide), List.foldl_map]
    have hkept : keepOrigin po h.origin = po1 := by rw [hpo, ← keepOrigin_eq]; cases keepOrigin po h.origin <;> rfl
    rw [← flush_eq]
    split
    next hf =>
      refine fireNode_ceFiredTo (needs := []) hr rfl ?_ (by simp) (by simp)
      simp only [hst, if_pos hf, hsum, hkept]
      cases po1 <;> rfl
    next hf =>
      refine fireNode_ceFiredTo (needs := [f.t0, f.t1]) hr rfl ?_ (by simp) (by simp)
      simp only [hst, if_neg hf, hsum, hkept]
  · change fireNode (planXsfin f) s = _
    have hval : xsVal (sval ((leftElems .xs320 h.l).headD 0) 320) = v := by rw [hv, sval_eq _ _ (by decide)]
    by_cases hnan : f.ty = .e2m1 ∧ isNan v = true
    · rw [if_pos hnan]
      refine fireNode_result hr rfl ?_
      simp only [hval, roundLanes_eq]
      rw [if_pos (by simpa using hnan)]
      rfl
    · rw [if_neg hnan]
      refine fireNode_result hr rfl ?_
      simp only [hval, roundLanes_eq]
      rw [if_neg (by simpa using hnan)]
      simp [invalid5]

end Sys2Proof.Machine
end

section
/-!
BLOCK FORMATS (R40, R47, R52, R115, R116): the scale of a group, what bqnt gathers and emits, and what bdeq delivers.
-/

namespace Sys2Proof.Machine

open Sys2Proof Sys2Proof.Num

/-! ## The scale of a group (R52) -/

/-- The floor of the binary logarithm of a magnitude. -/
theorem flog2_eq_some_iff {v : FVal} {x : ℚ} (h : ratOf v = some x) (k : ℤ) :
    flog2 v = some k ↔ (2 : ℚ) ^ k ≤ |x| ∧ |x| < 2 ^ (k + 1) := by
  obtain ⟨neg, m, e, rfl, rfl⟩ := fin_of_ratOf h
  have habs : |(if neg then -1 else 1) * (m : ℚ) * 2 ^ e| = m * 2 ^ e := by
    rw [mul_assoc, abs_mul, abs_of_nonneg (by positivity : (0 : ℚ) ≤ m * 2 ^ e)]
    cases neg <;> simp
  rw [habs]
  rcases Nat.eq_zero_or_pos m with rfl | hm
  · have hp : (0 : ℚ) < 2 ^ k := by positivity
    simp [flog2, hp]
  · have hlo : (2 : ℚ) ^ (e + (Nat.log2 m : ℤ)) ≤ m * 2 ^ e := by
      rw [zpow_add₀ two_ne_zero, mul_comm, zpow_natCast]
      gcongr
      exact_mod_cast Nat.log2_self_le hm.ne'
    have hhi : (m : ℚ) * 2 ^ e < 2 ^ (e + (Nat.log2 m : ℤ) + 1) := by
      rw [add_assoc, zpow_add₀ two_ne_zero, mul_comm]
      gcongr
      exact_mod_cast Nat.lt_log2_self
    have hlt {a b : ℤ} (hab : (2 : ℚ) ^ a < 2 ^ b) : a < b := (zpow_lt_zpow_iff_right₀ one_lt_two).mp hab
    have hm0 : (m == 0) = false := by simpa using hm.ne'
    simp only [flog2, hm0, Bool.false_eq_true, if_false, Option.some.injEq]
    refine ⟨?_, fun ⟨h1, h2⟩ => ?_⟩
    · rintro rfl
      exact ⟨hlo, hhi⟩
    · have := hlt (h1.trans_lt hhi)
      have := hlt (hlo.trans_lt h2)
      omega

/-- A fold that keeps the greatest number seen finds the greatest. -/
theorem foldl_greatest {g : Option ℤ → ℤ → Option ℤ} (hnone : ∀ k, g none k = some k) (hsome : ∀ b k, g (some b) k = some (max b k))
    {l : List ℤ} {k : ℤ} (hk : k ∈ l) (hmax : ∀ x ∈ l, x ≤ k) : l.foldl g none = some k := by
  have hfold (l : List ℤ) (b : ℤ) : l.foldl g (some b) = some (l.foldl max b) := by
    induction l generalizing b with
    | nil => rfl
    | cons y t ih => rw [List.foldl_cons, hsome, ih, List.foldl_cons]
  cases l with
  | nil => cases hk
  | cons y t =>
    rw [List.foldl_cons, hnone, hfold, ← List.max?_cons']
    exact List.max?_eq_some_iff.mpr ⟨hk, hmax⟩

section
variable (t : Ty) (var : Bool) {vs : List FVal} {xs : List ℚ} (h : vs.map ratOf = xs.map some)
include h

theorem exists_ratOf_of_mem {v : FVal} (hv : v ∈ vs) : ∃ x ∈ xs, ratOf v = some x := by
  have hm : ratOf v ∈ xs.map some := h ▸ List.mem_map_of_mem hv
  obtain ⟨x, hx, he⟩ := List.mem_map.mp hm
  exact ⟨x, hx, he.symm⟩

theorem exists_value_of_mem {x : ℚ} (hx : x ∈ xs) : ∃ v ∈ vs, ratOf v = some x := by
  have hm : some x ∈ vs.map ratOf := h ▸ List.mem_map_of_mem hx
  exact List.mem_map.mp hm

theorem all_finite : (vs.any fun v => !finite v) = false := by
  refine List.any_eq_false.mpr fun v hv => ?_
  obtain ⟨x, -, hx⟩ := exists_ratOf_of_mem h hv
  obtain ⟨neg, m, e, rfl, -⟩ := fin_of_ratOf hx
  simp [finite]

/-- A group of zeros has the scale 0. -/
theorem bqScale_zeros (h0 : ∀ x ∈ xs, x = 0) : bqScale t var vs = 0 := by
  have hnone : vs.filterMap flog2 = [] := by
    refine List.filterMap_eq_nil_iff.mpr fun v hv => ?_
    obtain ⟨x, hx, hr⟩ := exists_ratOf_of_mem h hv
    refine Option.eq_none_iff_forall_not_mem.mpr fun k hk => ?_
    have hlog := ((flog2_eq_some_iff hr k).mp hk).1
    rw [h0 x hx, abs_zero] at hlog
    exact hlog.not_gt (by positivity)
  rw [bqScale, all_finite h, if_neg Bool.false_ne_true, hnone]
  rfl

/-- The scale is the exponent of the greatest magnitude less emax, within bounds. -/
theorem bqScale_of_greatest {k : ℤ} (hall : ∀ x ∈ xs, |x| < 2 ^ (k + 1)) (hex : ∃ x ∈ xs, 2 ^ k ≤ |x|) :
    (bqScale t var vs : ℤ) = max 0 (min 254 (k - emaxOf t var + 127)) := by
  have hmem : k ∈ vs.filterMap flog2 := by
    obtain ⟨x, hx, hk⟩ := hex
    obtain ⟨v, hv, hr⟩ := exists_value_of_mem h hx
    exact List.mem_filterMap.mpr ⟨v, hv, (flog2_eq_some_iff hr k).mpr ⟨hk, hall x hx⟩⟩
  have hmax : ∀ j ∈ vs.filterMap flog2, j ≤ k := fun j hj => by
    obtain ⟨v, hv, hlog⟩ := List.mem_filterMap.mp hj
    obtain ⟨x, hx, hr⟩ := exists_ratOf_of_mem h hv
    have hlt := ((flog2_eq_some_iff hr j).mp hlog).1.trans_lt (hall x hx)
    have := (zpow_lt_zpow_iff_right₀ (one_lt_two (α := ℚ))).mp hlt
    omega
  rw [bqScale, all_finite h, if_neg Bool.false_ne_true]
  split
  next hn => cases hn.symm.trans (foldl_greatest (fun _ => rfl) (fun _ _ => rfl) hmem hmax)
  next j hj =>
    obtain rfl : j = k := Option.some.inj (hj.symm.trans (foldl_greatest (fun _ => rfl) (fun _ _ => rfl) hmem hmax))
    rw [clamp_eq (by decide), Int.toNat_of_nonneg (le_max_left ..)]

end

/-! ## Tokens of a group (R115) -/

theorem blockToks_eq (ty : Ty) (g n : Nat) (es : List Nat) :
    blockToks ty g n es = (List.range n).map (fun k => mkPkt ty ((es.drop (k * g)).take g)) := by
  induction n generalizing es with
  | zero => rfl
  | succ n ih =>
    rw [blockToks, ih, List.range_succ_eq_map, List.map_cons, List.map_map, zero_mul, List.drop_zero]
    congr 1
    refine List.map_congr_left fun k _ => ?_
    rw [Function.comp_apply, List.drop_drop, Nat.succ_mul, add_comm]

theorem quantise_tokens (s : State) (f : FmtA) (held : List Nat) (g0 : Nat) {vs : List FVal}
    (hvs : vs = held.map (readF (fromTy f) (f.md.getLsbD 1))) : (quantise s f held none g0).1 =
      mkPkt .i8 [bqScale f.ty (blockVar f) vs] ::
        (List.range (32 / blockG f)).map (fun k => mkPkt (blockTok f) ((vs.mapIdx (fun j v =>
          bqElem f.ty (blockVar f) (bqScale f.ty (blockVar f) vs) (s.mode f.md) (f.md.getLsbD 1)
            (drawn24 (s.mode f.md) g0 j) v)).drop (k * blockG f) |>.take (blockG f))) := by
  subst hvs
  rw [quantise, drawLanes_eq]
  simp only [blockToks_eq]
  rfl

/-! ## bqnt (R115) -/

/-- The tokens that bqnt emits from its emit buffer, where both targets accept. -/
def bqntOuts (f : FmtA) (emit : List Token) (sent : Bool) : List (Target × Token) :=
  match emit with
  | t :: _ => if sent then (if emit.length = 1 + 32 / blockG f then [(f.t0, t), (f.t1, t)] else [(f.t0, t)]) else []
  | [] => []

/-- The gather buffer with the token taken, and the first origin kept. -/
def bqntHeld (f : FmtA) (held : List Nat) (fed : Option Token) : List Nat :=
  match fed with
  | some t => held ++ (List.range (blockG f)).map (fun k => (elemsOf (fromTy f) t).getD k 0)
  | none => held

def bqntOrigin (po : Option Origin) (fed : Option Token) : Option Origin :=
  match po, fed with
  | some o, _ => some o
  | none, some t => t.origin
  | none, none => none

theorem bqntOuts_targets {f : FmtA} {emit : List Token} {sent : Bool} {o : Target × Token} (h : o ∈ bqntOuts f emit sent) :
    sent = true ∧ (o.1 = f.t0 ∨ o.1 = f.t1) := by
  cases emit with
  | nil => cases h
  | cons t rest =>
    cases sent with
    | false => cases h
    | true =>
      refine ⟨rfl, ?_⟩
      simp only [bqntOuts, if_true] at h
      split at h
      · simp only [List.mem_cons, List.not_mem_nil, or_false] at h
        rcases h with rfl | rfl <;> simp
      · simp only [List.mem_cons, List.not_mem_nil, or_false] at h
        subst h
        exact .inl rfl

/-- A firing of bqnt that leaves `held` gathered from `count` tokens and `emit` to emit: a full gather buffer is quantised into an empty
emit buffer (R115). -/
def bqntFire (f : FmtA) (s : State) (pops : List Nat) (outs : List (Target × Token)) (asks : List Target) (held : List Nat) (count : Nat)
    (po : Option Origin) (emit : List Token) : Fire :=
  let q := quantise s f held po s.gen
  let full := held.length = 32 ∧ emit = []
  { pops := pops, outs := outs, lat := 3, asks := asks, busy := some (0, 1)
    gen := if full ∧ s.mode f.md = 5 then some (BitVec.ofNat 64 q.2) else none
    st := some (if full then .bqnt [] 0 none q.1 else if held = [] ∧ emit = [] then .idle else .bqnt held count po emit) }

theorem bqntFire_eq (f : FmtA) (s : State) (pops : List Nat) (outs : List (Target × Token)) (asks : List Target) (held : List Nat)
    (count : Nat) (po : Option Origin) (emit : List Token) :
    (if held.length = 32 && emit.isEmpty then
      Plan.fire { pops := pops, outs := outs, lat := 3, asks := asks, busy := some (0, 1)
                  st := some (.bqnt [] 0 none (quantise s f held po s.gen).1), gen := newGen (s.mode f.md) (quantise s f held po s.gen).2 }
    else .fire { pops := pops, outs := outs, lat := 3, asks := asks, busy := some (0, 1), st := some (bqntState held count po emit) }) =
      .fire (bqntFire f s pops outs asks held count po emit) := by
  have hidle : (held.isEmpty && emit.isEmpty) = true ↔ held = [] ∧ emit = [] := by simp
  by_cases hfull : held.length = 32 ∧ emit = []
  · rw [if_pos (by simpa using hfull)]
    simp [bqntFire, hfull, newGen]
  · rw [if_neg (by simpa using hfull)]
    simp only [bqntFire, hfull, bqntState, hidle, false_and, if_false]

section
variable {f : FmtA} {s : State} {held : List Nat} {count : Nat} {po : Option Origin} {emit : List Token} {fed : Option Token} {sent : Bool}

theorem planBqnt_eq (hu : s.unitFree 0 = true) (hp : s.phase f.ph = true) (hst : bqntOf s.selNode.st = (held, count, po, emit))
    (hfed : fed = (if held.length + blockG f ≤ 32 then s.head 0 else none))
    (hsent : sent = (!emit.isEmpty && s.selRegion.accepts s.now f.t0 && s.selRegion.accepts s.now f.t1))
    (hany : fed.isSome ∨ sent = true) : planBqnt f s = .fire (bqntFire f s (if fed.isSome then [0] else []) (bqntOuts f emit sent)
      (if emit.isEmpty then [] else [f.t0, f.t1]) (bqntHeld f held fed) (if fed.isSome then count + 1 else count) (bqntOrigin po fed)
      (if sent then emit.tail else emit)) := by
  have hstall : ¬(!sent && fed.isNone) = true := by
    rcases hany with h | h
    · cases fed with
      | none => cases h
      | some t => simp
    · simp [h]
  have horigin : keepOrigin po (fed.bind (·.origin)) = bqntOrigin po fed := by cases po <;> cases fed <;> rfl
  rw [planBqnt, hu, hp, hst]
  simp only [← hfed, ← hsent, if_neg hstall, horigin, List.drop_one]
  rw [← bqntFire_eq]
  cases fed <;> cases emit <;> cases sent <;> rfl

end

/-! ## bdeq (R40, R47, R116) -/

theorem result_eq (s : State) (f : FmtA) (ty : Ty) (es : List Nat) (po : Option Origin) :
    s.result f ty es po none = { outs := [(f.t0, packetOr ty po es), (f.t1, packetOr ty po es)] } := by
  cases po <;> rfl

/-- The origin of poison of a dequantised packet: of L, else of the scale, else of P (R116). -/
theorem keepOrigin_bdeq (h : Heads) (pox : Option Origin) :
    keepOrigin (keepOrigin (firstOrigin [h.l]) pox) (firstOrigin [h.p]) =
      match h.l.bind (·.origin), pox, h.p.bind (·.origin) with
      | some o, _, _ => some o
      | none, some o, _ => some o
      | none, none, o => o := by
  have hfirst (t : Option Token) : firstOrigin [t] = t.bind (·.origin) := by
    cases t with
    | none => rfl
    | some t => cases ht : t.origin <;> simp [firstOrigin, ht]
  rw [hfirst, hfirst]
  cases h.l.bind (·.origin) <;> cases pox <;> rfl

theorem ratOf_scaleF {v : FVal} {x : ℚ} (h : ratOf v = some x) (k : ℤ) : ratOf (scaleF v k) = some (x * 2 ^ k) := by
  obtain ⟨neg, m, e, rfl, rfl⟩ := fin_of_ratOf h
  rw [scaleF, ratOf_fin, zpow_add₀ two_ne_zero, mul_assoc, mul_assoc, mul_assoc]

theorem bdeqVal_nan (f : FmtA) (e : Nat) : bdeqVal f 0xFF e = .nan false := by
  unfold bdeqVal blockVal
  split <;> exact if_pos rfl

theorem bdeqVal_float {f : FmtA} {x e : Nat} {t : Ty} {v : ℚ} (ht : blockElem f.ty (blockVar f) = some t) (hx : x ≠ 0xFF)
    (hv : ratOf (readF t (f.md.getLsbD 1) e) = some v) : ratOf (bdeqVal f x e) = some (v * (2 : ℚ) ^ ((x : ℤ) - 127)) := by
  rw [bdeqVal, ht]
  dsimp only
  rw [if_neg hx]
  exact ratOf_scaleF hv _

theorem bdeqVal_int {f : FmtA} {x e : Nat} (ht : blockElem f.ty (blockVar f) = none) (hx : x ≠ 0xFF) :
    ratOf (bdeqVal f x e) = some ((BitVec.ofNat 8 e).toInt * (2 : ℚ) ^ ((x : ℤ) - 133)) := by
  have hval : ratOf (elemVal f.ty (blockVar f) e) = some ((BitVec.ofNat 8 e).toInt * (2 : ℚ) ^ (-6 : ℤ)) := by
    rw [elemVal, ht, ← sval_eq _ _ (by decide), ← ratOf_natAbs]
  rw [bdeqVal, ht]
  dsimp only
  rw [blockVal, if_neg hx, ratOf_scaleF hval, mul_assoc, ← zpow_add₀ two_ne_zero]
  congr 3
  ring

/-- Settles O17. -/
theorem blockFormats : Obligations.BlockFormats := by
  refine ⟨fun f s held count po emit fed sent hl hu hp hst hfed hsent hany => ?_,
    ⟨fun s f held g0 vs _ hvs => quantise_tokens s f held g0 hvs, fun t var vs xs h h0 => bqScale_zeros t var h h0,
      fun t var vs xs k h hall hex => bqScale_of_greatest t var h hall hex⟩,
    fun f h s x0 left x po0 pox vs hst hr hx hpox hvs => ?_,
    fun f x e => ⟨bdeqVal_nan f e, fun t v => bdeqVal_float, fun ht hx _ => bdeqVal_int ht hx⟩⟩
  · change fireNode (planBqnt f) s = _
    rw [fireNode_fire hl (planBqnt_eq hu hp hst hfed hsent hany) ?_]
    · cases fed <;> cases emit <;> cases po <;> rfl
    · simp only [Region.acceptsAll, bqntFire, List.all_nil, Bool.and_true, List.all_eq_true]
      intro o ho
      obtain ⟨hs, ht⟩ := bqntOuts_targets ho
      rw [hsent] at hs
      simp only [Bool.and_eq_true] at hs
      rcases ht with ht | ht
      · rw [ht]; exact hs.1.2
      · rw [ht]; exact hs.2
  · change fireNode (planBdeq f) s = _
    have hp : planBdeq f s = planBdeq f s := rfl
    conv_rhs at hp => rw [planBdeq, hst]
    subst hx hpox hvs
    refine fireNode_ceFiredTo (needs := []) hr hp ?_ (by simp) (by simp)
    simp only [drawLanes_eq, newGen_iterate, result_eq, keepOrigin_bdeq]
    rfl

end Sys2Proof.Machine
end

section
/-!
LANES OF A PACKET (R38, R47, R109, R119 to R122): the tree that adds the lanes, the greatest and the least lane, and the moves of lanes.
-/

namespace Sys2Proof.Machine

open Sys2Proof Sys2Proof.Num

/-! ## The greatest and the least lane (R109, R119) -/

/-- A fold that keeps one of two values, the one further up, ends with a value of the list that none lies beyond. -/
theorem foldl_selects {α : Type} {g : α → α → α} {S : α → Prop} {R : α → α → Prop} (hrefl : ∀ a, R a a)
    (htrans : ∀ a b c, R a b → R b c → R a c) (hsel : ∀ a b, S a → S b → (g a b = a ∨ g a b = b) ∧ R a (g a b) ∧ R b (g a b))
    (l : List α) (a : α) (ha : S a) (hl : ∀ x ∈ l, S x) : l.foldl g a ∈ a :: l ∧ ∀ x ∈ a :: l, R x (l.foldl g a) := by
  induction l generalizing a with
  | nil => simpa using hrefl a
  | cons b t ih =>
    obtain ⟨hab, hra, hrb⟩ := hsel a b ha (hl b (by simp))
    have hg : S (g a b) := by
      rcases hab with h | h <;> rw [h]
      · exact ha
      · exact hl b (by simp)
    obtain ⟨hmem, hall⟩ := ih (g a b) hg fun x hx => hl x (List.mem_cons_of_mem _ hx)
    rw [List.foldl_cons]
    have htop := hall (g a b) (by simp)
    refine ⟨?_, fun x hx => ?_⟩
    · rcases List.mem_cons.mp hmem with h | h
      · rw [h]
        rcases hab with h | h <;> rw [h] <;> simp
      · simp [h]
    · rcases List.mem_cons.mp hx with rfl | hx
      · exact htrans _ _ _ hra htop
      · rcases List.mem_cons.mp hx with rfl | hx
        · exact htrans _ _ _ hrb htop
        · exact hall x (List.mem_cons_of_mem _ hx)

/-- The order that `pmax` and `pmin` go up. -/
def upTo {β : Type} [LE β] (great : Bool) (x v : β) : Prop := if great then x ≤ v else v ≤ x

theorem upTo_refl {β : Type} [Preorder β] (great : Bool) (x : β) : upTo great x x := by cases great <;> exact le_refl x

theorem upTo_trans {β : Type} [Preorder β] {great : Bool} {x y z : β} (h1 : upTo great x y) (h2 : upTo great y z) : upTo great x z := by
  cases great
  · exact le_trans (α := β) h2 h1
  · exact le_trans (α := β) h1 h2

/-- The greater or the lesser of two integer lanes, and of some. -/
def pickInt (great : Bool) (n a b : Nat) : Nat := if (sval a n ≤ sval b n) == great then b else a
def extremeInt (great : Bool) (n : Nat) (es : List Nat) : Nat := (es.drop 1).foldl (pickInt great n) (es.headD 0)

theorem pickInt_spec (great : Bool) (n a b : Nat) : (pickInt great n a b = a ∨ pickInt great n a b = b) ∧
    upTo great (sval a n) (sval (pickInt great n a b) n) ∧ upTo great (sval b n) (sval (pickInt great n a b) n) := by
  rcases le_or_gt (sval a n) (sval b n) with h | h
  · cases great <;> simp [pickInt, upTo, h]
  · cases great <;> simp [pickInt, upTo, h.not_ge, h.le]

theorem extremeInt_spec (great : Bool) {n : Nat} (es : List Nat) : (es ≠ [] → extremeInt great n es ∈ es) ∧
    ∀ x ∈ es, upTo great (sval x n) (sval (extremeInt great n es) n) := by
  cases es with
  | nil => exact ⟨absurd rfl, fun x hx => absurd hx List.not_mem_nil⟩
  | cons a t =>
    obtain ⟨hmem, hall⟩ := foldl_selects (S := fun _ => True) (R := fun x v => upTo great (sval x n) (sval v n)) (fun _ => upTo_refl ..)
      (fun _ _ _ => upTo_trans) (fun a b _ _ => pickInt_spec great n a b) t a trivial fun _ _ => trivial
    exact ⟨fun _ => hmem, hall⟩

/-- The greatest or the least of some values. -/
def extremeF (great : Bool) (vs : List FVal) : FVal := (vs.drop 1).foldl (fun a b => (fmm great a b).1) (vs.headD (.nan false))

theorem lessEq_place {a b : FVal} (ha : isNan a = false) (hb : isNan b = false) :
    (lessEq a b = true → place a ≤ place b) ∧ (lessEq a b = false → place b ≤ place a) := by
  rw [← ltF_eq_false_iff ha hb, ← ltF_eq_false_iff hb ha, lessEq]
  have hanti : ltF a b = true → ltF b a = false := fun h => (ltF_eq_false_iff hb ha).mpr ((ltF_iff ha hb).mp h).le
  constructor
  · rw [Bool.or_eq_true, Bool.and_eq_true, Bool.not_eq_true']
    rintro (h | ⟨h, -⟩)
    · exact hanti h
    · exact h
  · rw [Bool.or_eq_false_iff]
    exact And.left

theorem fmm_of_not_nan (great : Bool) {a b : FVal} (ha : isNan a = false) (hb : isNan b = false) :
    ((fmm great a b).1 = a ∨ (fmm great a b).1 = b) ∧ upTo great (place a) (place (fmm great a b).1) ∧
      upTo great (place b) (place (fmm great a b).1) := by
  obtain ⟨hle, hge⟩ := lessEq_place ha hb
  have hsel : (fmm great a b).1 = if lessEq a b == great then b else a := by simp [fmm, ha, hb]
  rw [hsel]
  cases h : lessEq a b with
  | true => cases great <;> simp [upTo, hle h]
  | false => cases great <;> simp [upTo, hge h]

theorem isNan_fmm (great : Bool) (a b : FVal) : isNan (fmm great a b).1 = (isNan a || isNan b) := by
  rcases Bool.eq_false_or_eq_true (isNan a || isNan b) with h | h
  · rw [h, fmm, if_pos h]
    rfl
  · obtain ⟨ha, hb⟩ := Bool.or_eq_false_iff.mp h
    rw [h]
    rcases (fmm_of_not_nan great ha hb).1 with hs | hs <;> rw [hs] <;> assumption

theorem isNan_foldl_fmm (great : Bool) (l : List FVal) (a : FVal) :
    isNan (l.foldl (fun a b => (fmm great a b).1) a) = (isNan a || l.any isNan) := by
  induction l generalizing a with
  | nil => simp
  | cons b t ih => rw [List.foldl_cons, ih, isNan_fmm, List.any_cons, Bool.or_assoc]

theorem extremeF_nan (great : Bool) {vs : List FVal} (h : ∃ x ∈ vs, isNan x = true) : isNan (extremeF great vs) = true := by
  cases vs with
  | nil => rfl
  | cons a t => exact (isNan_foldl_fmm great t a).trans (by simpa using h)

theorem extremeF_spec (great : Bool) {vs : List FVal} (hne : vs ≠ []) (hn : ∀ x ∈ vs, isNan x = false) :
    extremeF great vs ∈ vs ∧ ∀ x ∈ vs, (if great then ltF (extremeF great vs) x else ltF x (extremeF great vs)) = false := by
  cases vs with
  | nil => exact absurd rfl hne
  | cons a t =>
    obtain ⟨hmem, hall⟩ := foldl_selects (g := fun a b => (fmm great a b).1) (S := fun v => isNan v = false)
      (R := fun x v => upTo great (place x) (place v)) (fun _ => upTo_refl ..) (fun _ _ _ => upTo_trans)
      (fun a b => fmm_of_not_nan great) t a (hn a (by simp)) fun x hx => hn x (List.mem_cons_of_mem _ hx)
    refine ⟨hmem, fun x hx => ?_⟩
    have htop := hall x hx
    have hv : isNan (extremeF great (a :: t)) = false := hn _ hmem
    cases great with
    | true => exact (ltF_eq_false_iff hv (hn x hx)).mpr htop
    | false => exact (ltF_eq_false_iff (hn x hx) hv).mpr htop

/-! ## The tree of psum (R119) -/

/-- The generator after n draws (R45). -/
def genAfter (mode g n : Nat) : Nat := if mode = 5 then genNext^[n] g else g

theorem draw_genAfter (mode g n : Nat) : draw mode (genAfter mode g n) = (drawn24 mode g n, genAfter mode g (n + 1)) := by
  by_cases h : mode = 5 <;> simp [draw, genAfter, drawn24, h, Function.iterate_succ_apply']

theorem genAfter_zero (mode g : Nat) : genAfter mode g 0 = g := by simp [genAfter]

/-- An addition of the tree that draws as the j-th, and whether it is invalid. -/
def State.treeAdd (s : State) (f : FmtA) (j a b : Nat) : Nat :=
  roundTo f.ty (s.mode f.md) (satOf f.md) (ftzOf f.md) (drawn24 (s.mode f.md) s.gen j)
    (addF (s.mode f.md) (readF f.ty (ftzOf f.md) a) (readF f.ty (ftzOf f.md) b)).1
def State.treeBad (s : State) (f : FmtA) (a b : Nat) : Bool :=
  (addF (s.mode f.md) (readF f.ty (ftzOf f.md) a) (readF f.ty (ftzOf f.md) b)).2

/-- An addition of the tree with the flags of what it adds. -/
def State.treeStep (s : State) (f : FmtA) (j : Nat) (a b : Nat × Bool) : Nat × Bool :=
  (s.treeAdd f j a.1 b.1, a.2 || b.2 || s.treeBad f a.1 b.1)

section
variable (s : State) (f : FmtA)

theorem pairSum_eq (es : List Nat) : s.pairSum f es =
    match es.map (fun e => (e, false)) with
    | [a, b] => s.treeStep f 0 a b
    | [a, b, c] => s.treeStep f 1 (s.treeStep f 0 a b) c
    | [a, b, c, d] => s.treeStep f 2 (s.treeStep f 0 a b) (s.treeStep f 1 c d)
    | [a, b, c, d, e] => s.treeStep f 3 (s.treeStep f 2 (s.treeStep f 0 a b) (s.treeStep f 1 c d)) e
    | [a, b, c, d, e, g] => s.treeStep f 4 (s.treeStep f 3 (s.treeStep f 0 a b) (s.treeStep f 1 c d)) (s.treeStep f 2 e g)
    | [a, b, c, d, e, g, i] =>
      s.treeStep f 5 (s.treeStep f 3 (s.treeStep f 0 a b) (s.treeStep f 1 c d)) (s.treeStep f 4 (s.treeStep f 2 e g) i)
    | [a, b, c, d, e, g, i, j] =>
      s.treeStep f 6 (s.treeStep f 4 (s.treeStep f 0 a b) (s.treeStep f 1 c d)) (s.treeStep f 5 (s.treeStep f 2 e g) (s.treeStep f 3 i j))
    | _ => (0, false) := rfl

theorem treeLevel_pair (n a b : Nat) (t : List Nat) : treeLevel f (s.mode f.md) (genAfter (s.mode f.md) s.gen n) (a :: b :: t) =
    (s.treeAdd f n a b :: (treeLevel f (s.mode f.md) (genAfter (s.mode f.md) s.gen (n + 1)) t).1,
      s.treeBad f a b :: (treeLevel f (s.mode f.md) (genAfter (s.mode f.md) s.gen (n + 1)) t).2.1,
      (treeLevel f (s.mode f.md) (genAfter (s.mode f.md) s.gen (n + 1)) t).2.2) := by
  rw [treeLevel, draw_genAfter]
  rfl

theorem treeLevel_one (g a : Nat) : treeLevel f (s.mode f.md) g [a] = ([a], [], g) := rfl

theorem treeLevel_nil (g : Nat) : treeLevel f (s.mode f.md) g [] = ([], [], g) := rfl

theorem treeSum_one (fuel g a : Nat) (bad : List Bool) : treeSum f (s.mode f.md) fuel g [a] bad = ([a], bad, g) := by
  cases fuel <;> rfl

theorem treeSum_pair (fuel g a b : Nat) (t : List Nat) (bad : List Bool) : treeSum f (s.mode f.md) (fuel + 1) g (a :: b :: t) bad =
    treeSum f (s.mode f.md) fuel (treeLevel f (s.mode f.md) g (a :: b :: t)).2.2 (treeLevel f (s.mode f.md) g (a :: b :: t)).1
      (bad ++ (treeLevel f (s.mode f.md) g (a :: b :: t)).2.1) := by
  rw [treeSum, if_neg (by simp)]

/-- The tree leaves the sum of the pairs, an invalid addition anywhere in it, and one draw for each addition. -/
theorem treeSum_eq (es : List Nat) (h2 : 2 ≤ es.length) (h8 : es.length ≤ 8) :
    ∃ bad, treeSum f (s.mode f.md) 4 (genAfter (s.mode f.md) s.gen 0) es [] =
        ([(s.pairSum f es).1], bad, genAfter (s.mode f.md) s.gen (es.length - 1)) ∧ bad.any id = (s.pairSum f es).2 := by
  have hrun {es : List Nat} {x n : Nat} {bad : List Bool} {p : Nat × Bool} (hp : s.pairSum f es = p)
      (ht : treeSum f (s.mode f.md) 4 (genAfter (s.mode f.md) s.gen 0) es [] = ([x], bad, genAfter (s.mode f.md) s.gen n))
      (hx : x = p.1) (hb : bad.any id = p.2) (hn : n = es.length - 1) :
      ∃ bad, treeSum f (s.mode f.md) 4 (genAfter (s.mode f.md) s.gen 0) es [] =
        ([(s.pairSum f es).1], bad, genAfter (s.mode f.md) s.gen (es.length - 1)) ∧ bad.any id = (s.pairSum f es).2 := by
    subst hn hx
    rw [hp, ht]
    exact ⟨bad, rfl, hb⟩
  match es, h2, h8 with
  | [_, _], _, _ | [_, _, _], _, _ | [_, _, _, _], _, _ | [_, _, _, _, _], _, _ | [_, _, _, _, _, _], _, _
  | [_, _, _, _, _, _, _], _, _ | [_, _, _, _, _, _, _, _], _, _ =>
    refine hrun (pairSum_eq ..) (by simp only [treeSum_pair, treeLevel_pair, treeLevel_nil, treeLevel_one, treeSum_one]; rfl) rfl ?_ rfl
    simp [State.treeStep, Bool.or_assoc, Bool.or_comm, Bool.or_left_comm]
  | _ :: _ :: _ :: _ :: _ :: _ :: _ :: _ :: _ :: t, _, h => exact absurd h (by simp only [List.length_cons]; omega)

end

/-! ## psum, pmax and pmin (R119) -/

section
variable {f : FmtA} {h : Heads} {s : State}

theorem exec_psum_int (hi : f.ty.isInt = true) (hr : ReadyA f 0 true false false h s) :
    exec (.psum f) s = .next (s.ceFired f 0 3 1 h (s.packet f.ty h none
      [(kept f f.ty.elemBits ((leftElems f.ty h.l).map (fun a => (BitVec.ofNat f.ty.elemBits a).toInt)).sum).toNat]) none) := by
  have hlat : (if f.ty.isInt then 3 else 12) = 3 := if_pos hi
  change fireNode (planPsum f) s = _
  rw [← hlat]
  refine fireNode_result hr rfl ?_
  simp only [if_pos hi, fit_eq, sval_eq _ _ (elemBits_pos _), List.sum_eq_foldl]
  rfl

theorem exec_psum_one {e : Nat} {v : FVal} (hi : f.ty.isInt = false) (he : leftElems f.ty h.l = [e])
    (hv : v = readF f.ty (f.md.getLsbD 1) e) (hr : ReadyA f 0 true false false h s) :
    exec (.psum f) s = .next (s.ceFired f 0 12 1 h
      (s.packet f.ty h (invalid5 f [sig v]) [roundTo f.ty 0 false false 0 v]) (stepped (s.mode f.md) s.gen 0)) := by
  have hint : ¬f.ty.isInt = true := by simp [hi]
  have hlat : (if f.ty.isInt then 3 else 12) = 12 := if_neg hint
  change fireNode (planPsum f) s = _
  rw [← hlat]
  refine fireNode_result hr rfl ?_
  simp only [if_neg hint, he, treeSum_one, hv]
  rfl

theorem exec_psum_tree {es : List Nat} (hi : f.ty.isInt = false) (he : leftElems f.ty h.l = es) (h2 : 2 ≤ es.length) (h8 : es.length ≤ 8)
    (hr : ReadyA f 0 true false false h s) : exec (.psum f) s = .next (s.ceFired f 0 12 1 h
      (s.packet f.ty h (invalid5 f [(s.pairSum f es).2]) [(s.pairSum f es).1]) (stepped (s.mode f.md) s.gen (es.length - 1))) := by
  have hint : ¬f.ty.isInt = true := by simp [hi]
  have hlat : (if f.ty.isInt then 3 else 12) = 12 := if_neg hint
  have hone : ¬es.length = 1 := by omega
  obtain ⟨bad, hsum, hbad⟩ := treeSum_eq s f es h2 h8
  rw [genAfter_zero] at hsum
  have hinv : pxCause f bad = invalid5 f [(s.pairSum f es).2] := by
    rw [pxCause_eq, invalid5, invalid5, hbad]
    simp
  change fireNode (planPsum f) s = _
  rw [← hlat]
  refine fireNode_result hr rfl ?_
  simp only [if_neg hint, he, hsum, if_neg hone, hinv, genAfter, newGen_iterate]
  rfl

theorem exec_extreme (great : Bool) (f : FmtA) :
    exec (if great then .pmax f else .pmin f) = fireNode (extremePlan great f) := by cases great <;> rfl

theorem exec_extreme_int (great : Bool) (hi : f.ty.isInt = true) (hr : ReadyA f 0 true false false h s) :
    exec (if great then .pmax f else .pmin f) s = .next (s.ceFired f 0 3 1 h
      (s.packet f.ty h none [extremeInt great f.ty.elemBits (leftElems f.ty h.l)]) none) := by
  have hlat : (if f.ty.isInt then 3 else 12) = 3 := if_pos hi
  rw [exec_extreme, ← hlat]
  refine fireNode_result hr rfl ?_
  simp only [if_pos hi]
  rfl

theorem exec_extreme_float (great : Bool) {vs : List FVal} (hi : f.ty.isInt = false) (hr : ReadyA f 0 true false false h s)
    (hvs : vs = (leftElems f.ty h.l).map (readF f.ty (f.md.getLsbD 1))) :
    exec (if great then .pmax f else .pmin f) s = .next (s.ceFired f 0 12 1 h (s.packet f.ty h (invalid5 f (vs.map sig))
      [roundTo f.ty 0 false false 0 (extremeF great vs)]) none) := by
  have hint : ¬f.ty.isInt = true := by simp [hi]
  have hlat : (if f.ty.isInt then 3 else 12) = 12 := if_neg hint
  rw [exec_extreme, ← hlat]
  refine fireNode_result hr rfl ?_
  simp only [if_neg hint, hvs]
  rfl

end

/-! ## Moves of lanes (R119 to R122) -/

theorem lane_low (i : BitVec 21) : bitsOf i 2 0 = i.toNat % 8 := by simp [bitsOf]

theorem exec_lanes {i : Instr} {f : FmtA} {uR : Bool} {op' op : List Nat → List Nat → List Nat} {h : Heads} {s : State}
    (he : exec i = fireNode (lanePlan uR op' f)) (hr : ReadyA f 0 true uR false h s) (hop : ∀ l r, op' l r = op l r) :
    exec i s = .next (s.ceFired f 0 1 1 h (s.packet f.ty h none (op (leftElems f.ty h.l) (leftElems f.ty h.r))) none) := by
  rw [he, ← hop]
  exact fireNode_result hr rfl rfl

/-- The lanes of plsh; the statement numbers them by integers. -/
theorem plsh_eq (imm : BitVec 21) (l r : List Nat) : shiftLanes (sval (bitsOf imm 3 0) 4) l r =
    ((List.range l.length).map Int.ofNat).map (fun i =>
      let n : Int := (imm.extractLsb' 0 4).toInt
      let j : Int := i - n
      if 0 ≤ j ∧ j < l.length then l.getD j.toNat 0
      else if r.length = 1 then r.getD 0 0
      else if 0 < n then (if l.length - n + i < 0 then 0 else r.getD (l.length - n + i).toNat 0)
      else r.getD (i - (l.length + n)).toNat 0) := by
  have hn : sval (bitsOf imm 3 0) 4 = (imm.extractLsb' 0 4).toInt := sval_bitsOf imm 0 3
  rw [shiftLanes, hn, List.map_map]
  rfl

/-- A lane put in place of another, zeros before it where the packet is shorter. -/
theorem set_lane (l : List Nat) (k v : Nat) : (List.range (Nat.max l.length (k + 1))).map (fun i => if i = k then v else l.getD i 0) =
    (l ++ List.replicate (k + 1 - l.length) 0).set k v := by
  have hmax : Nat.max l.length (k + 1) = l.length + (k + 1 - l.length) := by change max _ _ = _; omega
  refine List.ext_getElem (by simp [hmax]) fun i h1 h2 => ?_
  rw [List.getElem_map, List.getElem_range, List.getElem_set]
  by_cases hk : k = i
  · rw [if_pos hk, if_pos hk.symm]
  · rw [if_neg hk, if_neg (Ne.symm hk), List.getElem_append]
    split
    next h => simp [h]
    next h => simp [not_lt.mp h]

/-- Lanes beyond the eighth have no mask bit. -/
theorem mask_lanes (l : List Nat) (k : Nat) : (List.range l.length).map (fun i => if (k % 256).testBit i then l.getD i 0 else 0) =
    l.mapIdx (fun i x => if k.testBit i && i < 8 then x else 0) := by
  refine List.ext_getElem (by simp) fun i h1 h2 => ?_
  have hi : i < l.length := by simpa using h2
  rw [List.getElem_map, List.getElem_range, List.getElem_mapIdx, show 256 = 2 ^ 8 by rfl, Nat.testBit_mod_two_pow]
  simp [hi, and_comm]

theorem exec_pins {f : FmtA} {h : Heads} {s : State} (hr : ReadyA f 0 true (!f.ir) false h s) : exec (.pins f) s =
    .next (s.ceFired f 0 1 1 h (s.packet f.ty h none
      ((leftElems f.ty h.l ++ List.replicate ((if f.ir then 0 else f.imm.toNat % 8) + 1 - (leftElems f.ty h.l).length) 0).set
        (if f.ir then 0 else f.imm.toNat % 8) ((rightElems f h.r).headD 0))) none) := by
  change fireNode (planPins f) s = _
  rw [fireNode_result hr rfl rfl, lane_low, set_lane]

theorem exec_pmask {f : FmtA} {h : Heads} {s : State} (hr : ReadyA f 0 true (!f.ir) false h s) : exec (.pmask f) s =
    .next (s.ceFired f 0 1 1 h (s.packet f.ty h none ((leftElems f.ty h.l).mapIdx (fun i x =>
      if ((if f.ir then [f.imm.toNat] else (h.r.map (lanesOf f.ty)).getD []).headD 0).testBit i && i < 8 then x else 0))) none) := by
  change fireNode (planPmask f) s = _
  rw [← mask_lanes]
  refine fireNode_result hr rfl ?_
  cases hi : f.ir with
  | true => rfl
  | false => cases h.r <;> rfl

/-- Settles O18. -/
theorem packetLanes : Obligations.PacketLanes := by
  refine ⟨⟨fun f h s hi hr => exec_psum_int hi hr, fun great f h s hi hr => ?_, fun great f h s vs hi hr hvs => ?_,
    fun f h s e v hi he hv hr => exec_psum_one hi he hv hr, fun f h s es hi he h2 h8 hr => exec_psum_tree hi he h2 h8 hr⟩,
    fun i f uR imm op h s hi hr => ?_, fun f h s k hr hk => ?_, fun f h s hr => ?_⟩
  · obtain ⟨hmem, hall⟩ := extremeInt_spec great (n := f.ty.elemBits) (leftElems f.ty h.l)
    refine ⟨_, exec_extreme_int great hi hr, hmem, fun x hx => ?_⟩
    have htop := hall x hx
    rw [sval_eq _ _ (elemBits_pos _), sval_eq _ _ (elemBits_pos _)] at htop
    cases great <;> simpa [upTo, BitVec.sle_iff_toInt_le] using htop
  · exact ⟨_, exec_extreme_float great hi hr hvs, extremeF_nan great, fun hne hn => extremeF_spec great hne hn⟩
  · unfold laneOps at hi
    split at hi
    case h_8 => cases hi
    all_goals
      simp only [Option.some.injEq, Prod.mk.injEq] at hi
      obtain ⟨rfl, rfl, rfl, hop⟩ := hi
    case h_1 =>
      refine exec_lanes (op := op) rfl hr fun l r => ?_
      subst hop
      have hcast : (do let a ← List.range l.length; pure (a : Int)) = (List.range l.length).map Int.ofNat := bind_pure_comp ..
      dsimp only
      rw [hcast]
      exact plsh_eq _ l r
    case h_2 =>
      refine exec_lanes (op := op) rfl hr fun l r => ?_
      subst hop
      simp only [apply_ite (· % 16)]
    case h_3 =>
      refine exec_lanes (op := op) rfl hr fun l r => ?_
      subst hop
      simp only [List.map_const', List.length_range, lane_low, ← bitsOf_toNat _ 4 2]
    case h_4 =>
      refine exec_lanes (op := op) rfl hr fun l r => ?_
      subst hop
      rw [lane_low]
    case h_5 => subst hop; exact exec_pins hr
    case h_6 =>
      refine exec_lanes (op := op) rfl hr fun l r => ?_
      subst hop
      rfl
    case h_7 => subst hop; exact exec_pmask hr
  · change fireNode (planPsplit f) s = _
    subst hk
    refine fireNode_ceFiredTo (needs := []) hr rfl ?_ (by simp) (by simp)
    have hrest : (if (leftElems f.ty h.l).length ≤ f.imm.toNat % 8 then [0] else (leftElems f.ty h.l).drop (f.imm.toNat % 8)) =
        if f.imm.toNat % 8 < (leftElems f.ty h.l).length then (leftElems f.ty h.l).drop (f.imm.toNat % 8) else [0] := by
      simp only [← not_lt, ite_not]
    simp only [lane_low, hrest]
    cases h.origin <;> rfl
  · exact fireNode_result (plan := planPlen f) hr rfl rfl

end Sys2Proof.Machine
end

section
/-!
THE LUT PATCH (R62, R123 to R126): the network settles where no LUT reads itself through others, and what lutx, fsmst, bext, bdep and
hashx deliver.
-/

namespace Sys2Proof.Machine

open Sys2Proof

/-! ## Bits as a number -/

theorem ofBits_take (l : List Bool) (n : Nat) :
    ofBits (l.take n) = ((List.range n).map (fun j => (l.getD j false).toNat * 2 ^ j)).sum := by
  induction n generalizing l with
  | zero => rfl
  | succ n ih =>
    have hrest (t : List Bool) : 2 * ofBits (t.take n) = ((List.range n).map (fun j => (t.getD j false).toNat * 2 ^ (j + 1))).sum := by
      rw [ih, ← List.sum_map_mul_left]
      congr 2
      funext j
      rw [pow_succ]
      ring
    rw [List.range_succ_eq_map, List.map_cons, List.sum_cons, List.map_map]
    cases l with
    | nil => simp [ofBits, Function.comp_def]
    | cons b t =>
      rw [List.take_succ_cons, ofBits, hrest]
      simp [Function.comp_def]

/-- The word that a read of the network gives (R123). -/
theorem lutWord_eq (f : FmtA) (outs : List Bool) : lutWord f outs =
    ((List.range (bitsOf f.imm 11 6 + 1)).map (fun j => (outs.getD (bitsOf f.imm 5 0 + j) false).toNat * 2 ^ j)).sum := by
  rw [lutWord, ofBits_take]
  simp

theorem testBit_ofBits (l : List Bool) (k : Nat) : (ofBits l).testBit k = l.getD k false := by
  induction l generalizing k with
  | nil => simp [ofBits]
  | cons b t ih =>
    rw [ofBits, add_comm]
    cases k with
    | zero => cases b <;> simp
    | succ k =>
      rw [List.getD_cons_succ, ← ih, Nat.testBit_succ]
      congr 1
      cases b with
      | false => simp
      | true => rw [Bool.toNat_true]; omega

theorem ofBits_map (p : Nat → Bool) (l : List Nat) (m : Nat) :
    ofBits (l.map p) * 2 ^ m = (l.mapIdx (fun j k => (p k).toNat * 2 ^ (m + j))).sum := by
  induction l generalizing m with
  | nil => simp [ofBits]
  | cons k t ih =>
    rw [List.map_cons, ofBits, List.mapIdx_cons, List.sum_cons]
    have hrest : 2 * ofBits (t.map p) * 2 ^ m = (t.mapIdx (fun j k => (p k).toNat * 2 ^ (m + (j + 1)))).sum := by
      rw [mul_comm 2, mul_assoc, ← pow_succ', ih]
      simp only [add_right_comm, add_assoc]
    rw [add_mul, hrest, add_zero]

/-- Bit extract takes the masked bits in order (R125). -/
theorem bextOp_eq (n a b : Nat) : bextOp n a b =
    (((List.range n).filter b.testBit).mapIdx (fun j k => (a.testBit k).toNat * 2 ^ j)).sum := by
  simpa [bextOp] using ofBits_map a.testBit ((List.range n).filter b.testBit) 0

theorem bdepAux_eq (a b : Nat) (l : List Nat) (j acc : Nat) : bdepAux a b l j acc =
    acc + ((l.filter b.testBit).mapIdx (fun i k => (a.testBit (j + i)).toNat * 2 ^ k)).sum := by
  induction l generalizing j acc with
  | nil => rfl
  | cons k t ih =>
    rw [bdepAux]
    split
    next h =>
      rw [ih, List.filter_cons_of_pos h, List.mapIdx_cons, List.sum_cons]
      simp only [add_assoc, add_comm 1, add_zero]
    next h => rw [ih, List.filter_cons_of_neg h]

/-- Bit deposit puts the low bits in order where the mask has ones (R125). -/
theorem bdepOp_eq (n a b : Nat) : bdepOp n a b =
    (((List.range n).filter b.testBit).mapIdx (fun j k => (a.testBit j).toNat * 2 ^ k)).sum := by
  simp [bdepOp, bdepAux_eq]

/-- The keyed hash of patterns is that of bit vectors (R126). -/
theorem hashOp_toNat {n : Nat} (a k : BitVec n) : hashOp n a.toNat k.toNat = (hashed n a k).toNat := by
  have hc : (if n = 64 then 0xD6E8FEB86659FD93 else 0x8C4F2A6B : BitVec n) =
      BitVec.ofNat n (if n = 64 then 0xD6E8FEB86659FD93 else 0x8C4F2A6B) := by split <;> rfl
  have hmul (x : BitVec n) (c : Nat) : x.toNat * c % 2 ^ n = (x * BitVec.ofNat n c).toNat := by
    rw [BitVec.toNat_mul, BitVec.toNat_ofNat, Nat.mul_mod_mod]
  have hfold (x : BitVec n) (i : Nat) : Nat.xor x.toNat (x.toNat / 2 ^ i) = (x ^^^ x >>> i).toNat := by
    rw [BitVec.toNat_xor, BitVec.toNat_ushiftRight, Nat.shiftRight_eq_div_pow]
    rfl
  rw [hashOp, hashed, hc]
  simp only [← BitVec.toNat_add, hfold, hmul]

/-! ## The network (R62, R123) -/

/-- A round of the network: every LUT reads the outputs of the round before. -/
def lutRound (luts : List Lut) (l r ff : Nat) (outs : List Bool) : List Bool := luts.map (fun x => lutOut x outs l r ff)

theorem lutNet_eq_iterate (luts : List Lut) (l r ff fuel : Nat) (outs : List Bool) :
    lutNet luts l r ff fuel outs = (lutRound luts l r ff)^[fuel] outs := by
  induction fuel generalizing outs with
  | zero => rfl
  | succ n ih => rw [lutNet, ih]; rfl

/-- A LUT sees of the outputs only those it selects. -/
theorem lutOut_congr {x : Lut} {outs outs' : List Bool} (l r ff : Nat)
    (h : ∀ sel ∈ x.sel, 0x40 ≤ sel.toNat → sel.toNat < 0x80 →
      outs.getD (sel.toNat - 0x40) false = outs'.getD (sel.toNat - 0x40) false) :
    lutOut x outs l r ff = lutOut x outs' l r ff := by
  have hsel : ∀ sel ∈ x.sel, selVal outs l r ff sel.toNat = selVal outs' l r ff sel.toNat := fun sel hs => by
    unfold selVal
    split
    next => rfl
    next h40 =>
      split
      next h80 => exact h sel hs (not_lt.mp h40) h80
      next => rfl
  rw [lutOut, lutOut]
  congr 1
  exact List.foldr_ext _ _ _ fun sel hs acc => by rw [hsel sel hs]

section
variable {lut : Nat → Lut} {l r ff : Nat} {rank : Nat → Nat}

theorem getD_lutRound {k : Nat} (hk : k < 64) (outs : List Bool) :
    (lutRound ((List.range 64).map lut) l r ff outs).getD k false = lutOut (lut k) outs l r ff := by
  simp [lutRound, hk]

/-- After as many rounds as its rank and one more, a LUT's output stays. -/
theorem lutRound_settles
    (hrank : ∀ k < 64, ∀ sel ∈ (lut k).sel, 0x40 ≤ sel.toNat → sel.toNat < 0x80 → rank (sel.toNat - 0x40) < rank k)
    (outs : List Bool) (n k : Nat) (hk : k < 64) (hn : rank k < n) :
    ((lutRound ((List.range 64).map lut) l r ff)^[n + 1] outs).getD k false =
      ((lutRound ((List.range 64).map lut) l r ff)^[n] outs).getD k false := by
  induction n generalizing k with
  | zero => exact absurd hn (Nat.not_lt_zero _)
  | succ n ih =>
    have hround (m : Nat) : ((lutRound ((List.range 64).map lut) l r ff)^[m + 1] outs).getD k false =
        lutOut (lut k) ((lutRound ((List.range 64).map lut) l r ff)^[m] outs) l r ff := by
      rw [Function.iterate_succ_apply', getD_lutRound hk]
    rw [hround, hround]
    refine lutOut_congr l r ff fun sel hs h40 h80 => ih _ (by omega) ?_
    have := hrank k hk sel hs h40 h80
    omega

end

/-! ## The instructions of the patch -/

/-- The flip-flops captured (R124). -/
theorem getLsbD_ofBits (l : List Bool) {k : Nat} (hk : k < 32) : (BitVec.ofNat 32 (ofBits l)).getLsbD k = l.getD k false := by
  rw [BitVec.getLsbD_ofNat, testBit_ofBits, decide_eq_true hk, Bool.true_and]

/-- Settles O19. -/
theorem lutPatches : Obligations.LutPatches := by
  refine ⟨⟨fun f h s outs hr ho => ?_, fun f h s ff outs hr hff ho => ?_, fun f h s hr => ⟨?_, ?_, ?_⟩⟩,
    fun f h s ff rank h64 hrank => ?_⟩
  · change fireNode (planLutx f) s = _
    rw [fireNode_result hr rfl rfl, lutWord_eq, ho]
  · intro t
    refine ⟨BitVec.ofNat 32 (ofBits ((List.range 32).map fun k =>
      if (s.selTask.lut s.selCell (32 + k)).ffen then outs.getD (32 + k) false else ff.testBit k)), ?_, fun k hk => ?_⟩
    · change fireNode (planFsmst f) s = _
      subst t ho hff
      rw [← lutWord_eq, fireNode_ce (plan := planFsmst f) hr rfl (by simp [State.result]) rfl (by simp [State.result])]
      rfl
    · rw [getLsbD_ofBits _ hk]
      simp [hk]
  · change fireNode (planBext f) s = _
    rw [fireNode_result hr rfl rfl, zipLanes_congr fun a _ b _ => bextOp_eq ..]
  · change fireNode (planBdep f) s = _
    rw [fireNode_result hr rfl rfl, zipLanes_congr fun a _ b _ => bdepOp_eq ..]
  · change fireNode (planHashx f) s = _
    rw [fireNode_result hr rfl rfl, zipLanes_congr fun a ha b hb => eq_lane2_of_lanes hashOp_toNat ha hb]
  · intro outs k hk
    have hset := lutRound_settles (l := (leftElems f.ty h.l).headD 0) (r := if f.imm.getLsbD 12 then (leftElems f.ty h.r).headD 0 else 0)
      (ff := ff) hrank (List.replicate 64 false) 64 k hk (h64 k hk)
    rw [Function.iterate_succ_apply', getD_lutRound hk, ← lutNet_eq_iterate] at hset
    exact hset.symm

end Sys2Proof.Machine
end

section
/-!
ROUTER OPERATORS (R130 to R136, R142, R143): the firing of a node whose targets accept, the heads that a ready node takes, and what
the copy, select and control operators emit.
-/

namespace Sys2Proof.Machine

open Sys2Proof

/-! ## Firings whose targets accept (R22, R26) -/

/-- A live node whose firing names no target but some that accept commits it. -/
theorem fireNode_room {ts : List Target} {plan : State → Plan} {s : State} {x : Fire} (hl : s.live = true) (hr : s.room ts)
    (hp : plan s = .fire x) (h1 : ∀ o ∈ x.outs, o.1 ∈ ts) (h2 : ∀ t ∈ x.later, t ∈ ts) (h3 : ∀ t ∈ x.needs, t ∈ ts) :
    fireNode plan s = .next (s.commit x) := by
  refine fireNode_fire hl hp ?_
  simp only [Region.acceptsAll, Bool.and_eq_true, List.all_eq_true]
  exact ⟨⟨fun o h => hr _ (h1 o h), fun t h => hr _ (h2 t h)⟩, fun t h => hr _ (h3 t h)⟩

/-- A live node whose plan is a trap raises it where the targets it names accept; nothing is consumed (R155, R169). -/
theorem fireNode_trap {ts : List Target} {plan : State → Plan} {s : State} {code sub : Nat} {a b c : Word} (hl : s.live = true)
    (hr : s.room ts) (hp : plan s = .trap ts code sub a b c) : fireNode plan s =
      .next (s.raise s.sel.1 { s.record s.sel.1 (srcNode s.sel.1 s.sel.2) code sub a b c with rewinds := true }) := by
  have hall : ts.all (s.selRegion.accepts s.now) = true := List.all_eq_true.mpr hr
  simp only [fireNode, hl, if_true, hp, State.carryOut, hall]

/-- A ready node whose plan consumes its operand set commits its firing. -/
theorem fireNode_route {pm : Pm} {uL uR uP : Bool} {ts : List Target} {h : Heads} {plan : State → Plan} {s : State}
    {body : Heads → Fire} (hr : Ready pm uL uR uP ts h s) (hp : plan s = routePlan pm uL uR uP s body)
    (h1 : ∀ o ∈ (body h).outs, o.1 ∈ ts) (h2 : (body h).later = []) (h3 : ∀ t ∈ (body h).needs, t ∈ ts) :
    fireNode plan s = .next (s.commit { body h with pops := h.slots }) :=
  fireNode_room hr.live hr.room (hp.trans (routePlan_ready body hr)) h1 (by simp [h2]) h3

/-- The slots of an operand set are those that the instruction uses. -/
theorem heads_slots {s : State} {pm : Pm} {uL uR uP : Bool} {h : Heads} (hh : s.heads pm uL uR uP = some h) :
    h.slots = (if uL then [0] else []) ++ (if uR then [1] else []) ++ (if uP || pm != .always then [2] else []) := by
  unfold State.heads at hh
  dsimp only at hh
  split at hh
  · cases hh; rfl
  · cases hh

/-! ## Tokens under a poisoned P (R130) -/

theorem madeCtl_eq (v : Bool) (o : Option Origin) : madeCtl v o = ctlOr v o := rfl

theorem valOf_eq (t : Option Token) : (t.getD (ctlTok false)).val = valOf t := by
  cases t <;> rfl

/-- The first origin of a list is that of its head, else the first of its tail (R32). -/
theorem firstOrigin_cons (t : Option Token) (ts : List (Option Token)) :
    firstOrigin (t :: ts) = (t.bind Token.origin).or (firstOrigin ts) := by
  cases t with
  | none => rfl
  | some x => cases h : x.origin <;> simp [firstOrigin, h]

theorem Heads.origin_eq (h : Heads) : h.origin =
    (h.l.bind Token.origin).or ((h.r.bind Token.origin).or (h.p.bind Token.origin)) := by
  simp only [Heads.origin, firstOrigin_cons]
  cases h.p.bind Token.origin <;> rfl

/-- Reading a token on either network keeps its origin. -/
theorem origin_toNet (s : State) (t : Token) : (s.toNet t).origin = t.origin := by
  unfold State.toNet
  split
  · cases t with
    | pkt ty len psn pay => cases psn <;> rfl
    | ctl v psn o => rfl
    | mark m => rfl
  · cases t with
    | pkt ty len psn pay => rfl
    | ctl v psn o => cases psn <;> simp [Token.asData, Token.origin]
    | mark m => rfl

/-- Poison of its own is kept. -/
theorem poisonBy_of_origin {t : Token} {x : Origin} (h : t.origin = some x) (o : Origin) : t.poisonBy o = t := by
  cases t with
  | pkt ty len psn pay => cases psn <;> simp_all [Token.poisonBy, Token.origin]
  | ctl v psn y => cases psn <;> simp_all [Token.poisonBy, Token.origin]
  | mark m => rfl

theorem passed_clean {h : Heads} (hp : h.p.bind Token.origin = none) (t : Token) : h.passed t = t := by simp [Heads.passed, hp]

theorem passed_of_origin {h : Heads} {t : Token} {x : Origin} (ht : t.origin = some x) : h.passed t = t := by
  unfold Heads.passed
  split
  · rfl
  · split <;> exact poisonBy_of_origin ht _

/-- A clean packet that passes under a poisoned P takes the origin of R, else that of P. -/
theorem passed_pkt {h : Heads} {ty : Ty} {len : Nat} {pay : Payload} {o : Origin} (hp : h.p.bind Token.origin = some o)
    (hl : h.l = some (.pkt ty len false pay)) : h.passed (.pkt ty len false pay) =
      .pkt ty len true (((h.r.bind Token.origin).getD o).setWidth 320) := by
  have ho : h.origin = some ((h.r.bind Token.origin).getD o) := by
    rw [Heads.origin_eq, hp, hl]
    cases h.r.bind Token.origin <;> rfl
  simp [Heads.passed, hp, ho, Token.poisonBy, badPkt]

theorem passed_ctl {h : Heads} {v : Bool} {x o : Origin} (hp : h.p.bind Token.origin = some o) :
    h.passed (.ctl v false x) = .ctl v true o := by
  simp [Heads.passed, hp, Token.poisonBy, badCtl]

/-- What poisons a token that is made beside another: nothing under a clean P, else the origin of the other, else that of P. -/
theorem madeOrigin_eq (h : Heads) (t : Token) : h.madeOrigin t = (h.p.bind Token.origin).map (fun o => t.origin.getD o) := by
  simp only [Heads.madeOrigin, firstOrigin_cons]
  cases h.p.bind Token.origin with
  | none => rfl
  | some o => cases ht : t.origin <;> simp [firstOrigin, ht]

/-! ## Copies and control operators (R132, R142, R143) -/

theorem exec_mov {f : FmtC} {h : Heads} {s : State} {l : Token} (hr : Ready f.pm true false false [f.t0, f.t1] h s) (hl : h.l = some l) :
    exec (.mov f) s = .next (s.routed h.slots [(f.t0, h.passed l), (f.t1, h.passed l)] none) := by
  refine (fireNode_route hr rfl ?_ ?_ ?_).trans ?_ <;> simp [hl, bothTargets, State.routed]

theorem exec_mov4 {f : FmtC} {h : Heads} {s : State} {l : Token} {t2 t3 : Target} (h2 : mov4Target f false = some t2)
    (h3 : mov4Target f true = some t3) (hr : Ready f.pm true false false [f.t0, f.t1, t2, t3] h s) (hl : h.l = some l) :
    exec (.mov4 f) s = .next (s.routed h.slots
      [(f.t0, h.passed l), (f.t1, h.passed l), (t2, h.passed l), (t3, h.passed l)] none) := by
  have ht : targetsOf (.mov4 f) = [f.t0, f.t1, t2, t3] := by
    show [f.t0, f.t1, _, _] = _
    rw [h2, h3]
    rfl
  refine (fireNode_route hr rfl ?_ ?_ ?_).trans ?_ <;> simp [hl, ht, State.routed]

theorem exec_logic {f : FmtC} {uR : Bool} {op : Bool → Bool → Bool} {h : Heads} {s : State}
    (hr : Ready f.pm true uR false [f.t0, f.t1] h s) : fireNode (logicPlan uR op f) s =
      .next (s.routed h.slots (bothTargets f (ctlOr (op (valOf h.l) (valOf h.r)) h.origin)) none) := by
  refine (fireNode_route hr rfl ?_ ?_ ?_).trans ?_ <;> simp [bothTargets, State.routed, valOf_eq, madeCtl_eq]

theorem exec_cdat {f : FmtC} {h : Heads} {s : State} (hr : Ready f.pm true false false [f.t0, f.t1] h s) :
    exec (.cdat f) s = .next (s.routed h.slots (bothTargets f (packetOr f.ty h.origin
      [((if valOf h.l then f.imm.extractLsb' 0 12 else f.imm.extractLsb' 12 12).signExtend f.ty.elemBits).toNat])) none) := by
  have hv : Num.sextTo (if valOf h.l then bitsOf f.imm 11 0 else bitsOf f.imm 23 12) 12 f.ty.elemBits =
      ((if valOf h.l then f.imm.extractLsb' 0 12 else f.imm.extractLsb' 12 12).signExtend f.ty.elemBits).toNat := by
    rw [← sextTo_toNat (by decide)]
    congr 1
    split
    · exact bitsOf_toNat f.imm 0 11
    · exact bitsOf_toNat f.imm 12 11
  refine (fireNode_route hr rfl ?_ ?_ ?_).trans ?_ <;> simp only [bothTargets, State.routed, valOf_eq, hv]
  · simp
  · simp
  · cases h.origin <;> rfl

/-! ## steer, gate, merge and mrga (R133 to R136) -/

section
variable {f : FmtC} {s : State} {h : Heads} {l p : Token}

theorem exec_steer_clean (hl : h.l = some l) (hp : h.p = some p) (ho : p.origin = none)
    (hr : Ready .always true false true [if p.val then f.t0 else f.t1] h s) :
    exec (.steer f) s = .next (s.routed [0, 2] [(if p.val then f.t0 else f.t1, l)] none) := by
  refine (fireNode_route hr rfl ?_ ?_ ?_).trans ?_ <;> simp [hl, hp, ho, heads_slots hr.heads, State.routed]

theorem exec_steer_poisoned {o : Origin} (hl : h.l = some l) (hp : h.p = some p) (ho : p.origin = some o)
    (hr : Ready .always true false true [f.t0, f.t1] h s) :
    exec (.steer f) s = .next (s.routed [0, 2] (bothTargets f (h.passed l)) none) := by
  refine (fireNode_route hr rfl ?_ ?_ ?_).trans ?_ <;> simp [hl, hp, ho, heads_slots hr.heads, State.routed, bothTargets]

theorem exec_gate (hl : h.l = some l) (hp : h.p = some p) (hr : Ready .always true false true [f.t0, f.t1] h s) :
    exec (.gate f) s = .next (if p.val ∨ p.origin.isSome then s.routed [0, 2] (bothTargets f (h.passed l)) none
      else s.routed (if f.cf.getLsbD 0 then [2] else [0, 2]) [] none) := by
  have hf : h.flush = (p.val || p.origin.isSome) := by simp [Heads.flush, hp]
  have hplan : planGate f s = if h.flush then .fire { pops := [0, 2], outs := bothTargets f (h.passed l) }
      else .fire { pops := if f.cf.getLsbD 0 then [2] else [0, 2], needs := [f.t0, f.t1] } := by
    simp only [planGate, hr.heads, hl]
  by_cases hb : p.val = true ∨ p.origin.isSome = true
  · rw [if_pos hb]
    rw [if_pos (by simpa [hf] using hb)] at hplan
    exact fireNode_room hr.live hr.room hplan (by simp [bothTargets]) (by simp) (by simp)
  · rw [if_neg hb]
    rw [if_neg (by simpa [hf] using hb)] at hplan
    exact fireNode_room hr.live hr.room (x := { pops := if f.cf.getLsbD 0 then [2] else [0, 2], needs := [f.t0, f.t1] })
      hplan (by simp) (by simp) (by simp)

/-- merge passes the head of the side that P selects, under P. -/
theorem fireNode_merge {x : Token} (hl : s.live = true) (hp : s.head 2 = some p) (hr : s.room [f.t0, f.t1])
    (left : Bool) (hside : (p.val || p.origin.isSome) = left) (hx : s.head (if left then 0 else 1) = some x) (t : Token)
    (ht : ({ pass := true, slots := [], l := some (if left then x else s.toNet x), p := some p } : Heads).passed
      (if left then x else s.toNet x) = t) :
    exec (.merge f) s = .next (s.routed [if left then 0 else 1, 2] (bothTargets f t) none) := by
  have hplan : planMerge f s = .fire { pops := [if left then 0 else 1, 2], outs := bothTargets f t } := by
    simp only [planMerge, hp, hside, hx, ht]
  exact fireNode_room hl hr hplan (by simp [bothTargets]) (by simp) (by simp)

/-- Under a poisoned P the head of L passes, poisoned. -/
theorem exec_merge_left {x : Token} (hl : s.live = true) (hp : s.head 2 = some p) (hr : s.room [f.t0, f.t1])
    (hv : p.val = true ∨ p.origin.isSome = true) (hx : s.head 0 = some x) :
    exec (.merge f) s = .next (s.routed [0, 2] (bothTargets f (match p.origin with
      | some o => x.poisonBy o
      | none => x)) none) := by
  refine fireNode_merge hl hp hr true (by simpa using hv) hx _ ?_
  cases ho : p.origin with
  | none => exact passed_clean (by simpa using ho) x
  | some o =>
    cases hxo : x.origin with
    | some y => exact (passed_of_origin hxo).trans (poisonBy_of_origin hxo o).symm
    | none =>
      have horig : ({ pass := true, slots := [], l := some x, p := some p } : Heads).origin = some o := by
        simp [Heads.origin, firstOrigin, hxo, ho]
      cases x <;> simp [Heads.passed, ho, horig]

theorem exec_merge_right {x : Token} (hl : s.live = true) (hp : s.head 2 = some p) (hr : s.room [f.t0, f.t1])
    (hv : p.val = false) (ho : p.origin = none) (hx : s.head 1 = some x) :
    exec (.merge f) s = .next (s.routed [1, 2] (bothTargets f (s.toNet x)) none) :=
  fireNode_merge hl hp hr false (by simp [hv, ho]) hx _ (passed_clean (by simpa using ho) _)

/-- mrga on the side whose head came first. -/
theorem fireNode_mrga (left : Bool) (hr : Ready f.pm left (!left) false [f.t0, f.t1] h s)
    (hside : planMrga f s = routePlan f.pm left (!left) false s (fun h =>
      let t := if left then h.l.getD (ctlTok false) else s.toNet (h.r.getD (ctlTok false))
      { outs := [(f.t0, h.passed t), (f.t1, madeCtl left (h.madeOrigin t))] })) :
    exec (.mrga f) s = .next (s.routed h.slots
      [(f.t0, h.passed (if left then h.l.getD (.ctl false false 0) else s.toNet (h.r.getD (.ctl false false 0)))),
       (f.t1, ctlOr left ((h.p.bind Token.origin).map (fun o => (((if left then h.l else h.r).bind Token.origin).getD o))))] none) := by
  have horig (t : Option Token) : (t.getD (.ctl false false 0)).origin = t.bind Token.origin := by cases t <;> rfl
  refine (fireNode_route hr hside (by simp) rfl (by simp)).trans ?_
  cases left <;> simp only [State.routed, madeCtl_eq, madeOrigin_eq, origin_toNet, horig, ctlTok, Bool.false_eq_true, if_true, if_false]

theorem exec_mrga (left : Bool) (hside : match s.headAt 0, s.headAt 1 with
      | some a, some b => left = decide (a ≤ b)
      | some _, none => left = true
      | none, some _ => left = false
      | none, none => False) (hr : Ready f.pm left (!left) false [f.t0, f.t1] h s) :
    exec (.mrga f) s = .next (s.routed h.slots
      [(f.t0, h.passed (if left then h.l.getD (.ctl false false 0) else s.toNet (h.r.getD (.ctl false false 0)))),
       (f.t1, ctlOr left ((h.p.bind Token.origin).map (fun o => (((if left then h.l else h.r).bind Token.origin).getD o))))] none) := by
  refine fireNode_mrga left hr ?_
  cases ha : s.headAt 0 <;> cases hb : s.headAt 1 <;> simp only [ha, hb] at hside
  all_goals subst hside; simp only [planMrga, ha, hb]

end

/-- Settles O23: each operator by its firing, and what passes under a poisoned P. -/
theorem routerOperators : Obligations.RouterOperators := by
  unfold Obligations.RouterOperators
  refine ⟨⟨fun f h s l hr hl => exec_mov hr hl, fun f h s l t2 t3 h2 h3 hr hl => exec_mov4 h2 h3 hr hl, ?_, fun f h s hr => exec_cdat hr⟩,
    ?_, ?_⟩
  · intro i f uR op h s hi hr
    cases i <;> simp only [logicOf, Option.some.injEq, Prod.mk.injEq, reduceCtorEq] at hi <;> obtain ⟨rfl, rfl, rfl⟩ := hi <;>
      exact exec_logic hr
  · rintro h t po rfl hl
    exact ⟨fun hp => passed_clean hp t, fun _ _ x hx => passed_of_origin hx, fun o ty len pay hp ht => by subst ht; exact passed_pkt hp hl,
      fun o v x hp ht => by subst ht; exact passed_ctl hp⟩
  · exact ⟨fun f h s l p hl hp ho hr => exec_steer_clean hl hp ho hr, fun f h s l p o hl hp ho hr => exec_steer_poisoned hl hp ho hr,
      fun f h s l p hl hp hr => exec_gate hl hp hr,
      fun f s p x hl hp hr => ⟨fun hv hx => exec_merge_left hl hp hr hv hx, fun hv ho hx => exec_merge_right hl hp hr hv ho hx⟩,
      fun f h s left hside hr => exec_mrga left hside hr⟩

end Sys2Proof.Machine
end

section
/-!
LOOP OPERATORS (R137 to R141): the rows of carry, the phases of invar, the ranges of loopgen and the copies of repeat.
-/

namespace Sys2Proof.Machine

open Sys2Proof

/-! ## carry (R137) -/

section
variable {f : FmtC} {s : State}

/-- What a carry in RUN passes to T1: a poisoned condition counts as true. -/
def carryCond (p : Token) : Token :=
  match p.origin with
  | some o => .ctl true true o
  | none => p.asCtl

/-- A condition ends the loop where it is a clean false (R137). -/
def endsLoop (p : Token) : Bool := !p.val && p.origin.isNone

theorem endsLoop_eq_false_iff (p : Token) : endsLoop p = false ↔ p.val = true ∨ p.origin.isSome = true := by
  cases h : p.val <;> cases k : p.origin <;> simp [endsLoop, h, k]

theorem endsLoop_iff (p : Token) : endsLoop p = true ↔ p.val = false ∧ p.origin = none := by
  cases h : p.val <;> cases k : p.origin <;> simp [endsLoop, h, k]

/-- The value that passes beside the condition p, poisoned by it (R32, R130). -/
theorem passed_beside (r p : Token) : ({ pass := true, slots := [], r := some r, p := some p } : Heads).passed r =
    match p.origin with
    | some o => r.poisonBy o
    | none => r := by
  cases ho : p.origin with
  | none => exact passed_clean (by simpa using ho) r
  | some o =>
    cases hro : r.origin with
    | some y => exact (passed_of_origin hro).trans (poisonBy_of_origin hro o).symm
    | none => cases r <;> simp [Heads.passed, Heads.origin_eq, hro, ho]

/-- RUN with the condition alone: R has no operand, or is held up by the end of the loop, by the run-ahead or by its target. -/
theorem carryRun_cond {e c : Nat} {p : Token} (hp : s.head 2 = some p) (h1 : s.selRegion.accepts s.now f.t1 = true)
    (hr : s.head 1 = none ∨ endsLoop p = true ∨ c + 1 + bitsOf f.cf 1 0 < e ∨ s.selRegion.accepts s.now f.t0 = false) :
    ∃ asks, carryRun f s e c = .fire { pops := [2], outs := [(f.t1, carryCond p)], asks := asks
                                       st := some (.carry (if endsLoop p then 2 else 1) e (c + 1)) } := by
  have held : ((s.head 1).isSome && !endsLoop p && decide (e ≤ c + 1 + bitsOf f.cf 1 0) && s.selRegion.accepts s.now f.t0) = false := by
    rcases hr with h | h | h | h
    · simp [h]
    · simp [h]
    · simp [Nat.not_le.mpr h]
    · simp [h]
  simp only [endsLoop] at held
  simp only [carryRun, hp, h1, Option.isSome_some, Bool.and_true, Bool.true_and, if_true, held]
  cases s.head 1 <;> exact ⟨_, rfl⟩

/-- RUN with the value alone: P has no operand, or its target does not accept. -/
theorem carryRun_value {e c : Nat} {r : Token} (hr : s.head 1 = some r) (h0 : s.selRegion.accepts s.now f.t0 = true)
    (he : e ≤ c + bitsOf f.cf 1 0) (hp : s.head 2 = none ∨ s.selRegion.accepts s.now f.t1 = false) :
    ∃ asks, carryRun f s e c = .fire { pops := [1], outs := [(f.t0, r)], asks := asks, st := some (.carry 1 (e + 1) c) } := by
  have held : ((s.head 2).isSome && s.selRegion.accepts s.now f.t1) = false := by rcases hp with h | h <;> simp [h]
  have hpass : ({ pass := true, slots := [], r := some r } : Heads).passed r = r := passed_clean rfl r
  simp only [carryRun, hr, h0, held, he, decide_true, Option.isSome_some, Bool.and_true, Bool.true_and, Bool.false_and, Bool.not_false,
    Bool.false_eq_true, if_false, if_true, hpass]
  cases s.head 2 <;> exact ⟨_, rfl⟩

/-- RUN with both: the value passes beside the condition. -/
theorem carryRun_both {e c : Nat} {r p : Token} (hr : s.head 1 = some r) (hp : s.head 2 = some p) (hn : endsLoop p = false)
    (he : e ≤ c + 1 + bitsOf f.cf 1 0) (h0 : s.selRegion.accepts s.now f.t0 = true) (h1 : s.selRegion.accepts s.now f.t1 = true) :
    ∃ asks, carryRun f s e c = .fire
      { pops := [1, 2], asks := asks, st := some (.carry 1 (e + 1) (c + 1))
        outs := [(f.t0, match p.origin with
          | some o => r.poisonBy o
          | none => r), (f.t1, carryCond p)] } := by
  simp only [endsLoop] at hn
  simp only [carryRun, hr, hp, h0, h1, hn, he, decide_true, Option.isSome_some, Bool.and_true, Bool.true_and, Bool.not_false,
    Bool.false_eq_true, if_false, if_true, passed_beside]
  exact ⟨_, rfl⟩

/-- RUN with nothing that can pass. -/
theorem carryRun_stall {e c : Nat} (hp : s.head 2 = none) (he : c + bitsOf f.cf 1 0 < e) : ∃ asks, carryRun f s e c = .stall asks := by
  simp only [carryRun, hp, Option.isSome_none, Bool.false_and, Bool.false_eq_true, if_false, Nat.not_le.mpr he, decide_false, Bool.and_false,
    Bool.not_false]
  exact ⟨_, rfl⟩

theorem planCarry_run {e c : Nat} (hst : s.selNode.st = .carry 1 e c) : planCarry f s = carryRun f s e c := by
  simp only [planCarry, hst]

variable (hl : s.live = true)
include hl

/-- A carry in RUN commits what its row says. -/
theorem exec_carry_run {e c : Nat} {x : Fire} {ts : List Target} (hst : s.selNode.st = .carry 1 e c)
    (hx : ∃ asks, carryRun f s e c = .fire { x with asks := asks }) (hr : s.room ts) (h1 : ∀ o ∈ x.outs, o.1 ∈ ts)
    (h2 : x.later = []) (h3 : x.needs = []) : exec (.carry f) s = .next (s.commit x) := by
  obtain ⟨asks, hx⟩ := hx
  exact (fireNode_room hl hr ((planCarry_run hst).trans hx) h1 (by simp [h2]) (by simp [h3])).trans rfl

theorem exec_carry_idle {l : Token} (hst : s.selNode.st = .idle) (h0 : s.head 0 = some l) (hr : s.room [f.t0]) :
    exec (.carry f) s = .next (s.routed [0] [(f.t0, l)] (some (.carry 1 1 0))) :=
  fireNode_room hl hr (x := { pops := [0], outs := [(f.t0, l)], st := some (.carry 1 1 0) })
    (by simp only [planCarry, hst, h0]) (by simp) (by simp) (by simp)

theorem exec_carry_cond {e c : Nat} {p : Token} (hst : s.selNode.st = .carry 1 e c) (hp : s.head 2 = some p) (hr : s.room [f.t1])
    (hh : s.head 1 = none ∨ endsLoop p = true ∨ c + 1 + bitsOf f.cf 1 0 < e ∨ s.selRegion.accepts s.now f.t0 = false) :
    exec (.carry f) s = .next (s.routed [2] [(f.t1, carryCond p)] (some (.carry (if endsLoop p then 2 else 1) e (c + 1)))) :=
  exec_carry_run hl hst (x := { pops := [2], outs := [(f.t1, carryCond p)], st := some (.carry (if endsLoop p then 2 else 1) e (c + 1)) })
    (carryRun_cond hp (hr _ (by simp)) hh) hr (by simp) rfl rfl

theorem exec_carry_value {e c : Nat} {r : Token} (hst : s.selNode.st = .carry 1 e c) (h1 : s.head 1 = some r)
    (hp : s.head 2 = none ∨ s.selRegion.accepts s.now f.t1 = false) (he : e ≤ c + bitsOf f.cf 1 0) (hr : s.room [f.t0]) :
    exec (.carry f) s = .next (s.routed [1] [(f.t0, r)] (some (.carry 1 (e + 1) c))) :=
  exec_carry_run hl hst (x := { pops := [1], outs := [(f.t0, r)], st := some (.carry 1 (e + 1) c) })
    (carryRun_value h1 (hr _ (by simp)) he hp) hr (by simp) rfl rfl

theorem exec_carry_both {e c : Nat} {r p : Token} (hst : s.selNode.st = .carry 1 e c) (h1 : s.head 1 = some r) (hp : s.head 2 = some p)
    (hn : endsLoop p = false) (he : e ≤ c + 1 + bitsOf f.cf 1 0) (hr : s.room [f.t0, f.t1]) :
    exec (.carry f) s = .next (s.routed [1, 2] [(f.t0, match p.origin with
      | some o => r.poisonBy o
      | none => r), (f.t1, carryCond p)] (some (.carry 1 (e + 1) (c + 1)))) :=
  exec_carry_run hl hst
    (x := { pops := [1, 2], st := some (.carry 1 (e + 1) (c + 1))
            outs := [(f.t0, match p.origin with
              | some o => r.poisonBy o
              | none => r), (f.t1, carryCond p)] })
    (carryRun_both h1 hp hn he (hr _ (by simp)) (hr _ (by simp))) hr (by simp) rfl rfl

omit hl in
theorem exec_carry_stall {e c : Nat} (hst : s.selNode.st = .carry 1 e c) (hp : s.head 2 = none) (he : c + bitsOf f.cf 1 0 < e) :
    exec (.carry f) s = .next s := by
  obtain ⟨asks, hx⟩ := carryRun_stall (f := f) hp he
  have hplan : planCarry f s = .stall asks := (planCarry_run hst).trans hx
  show fireNode (planCarry f) s = _
  simp [fireNode, hplan, State.carryOut]

theorem exec_carry_exit {e c : Nat} (hst : s.selNode.st = .carry 2 e c) (hr : s.room [f.t0, f.t1]) :
    exec (.carry f) s = .next (s.routed [] [(f.t0, .mark .purge), (f.t1, .mark .purge)] (some (.carry 3 0 0))) :=
  fireNode_room hl hr (x := { outs := bothTargets f (.mark .purge), st := some (.carry 3 0 0) })
    (by simp only [planCarry, hst]) (by simp [bothTargets]) (by simp) (by simp)

theorem exec_carry_drain {e c : Nat} {r : Token} (hst : s.selNode.st = .carry 3 e c) (h1 : s.head 1 = some r) (h2 : s.head 2 = none) :
    exec (.carry f) s = .next (s.routed [1] [] (some (.carry 3 0 0))) :=
  fireNode_room hl (ts := []) nofun (x := { pops := [1], st := some (.carry 3 0 0) })
    (by simp [planCarry, hst, h1, h2]) (by simp) (by simp) (by simp)

theorem exec_carry_drained {e c : Nat} (hst : s.selNode.st = .carry 3 e c) (h1 : s.head 1 = none) (h2 : s.head 2 = none) :
    exec (.carry f) s = .next (if s.selNode.r.marker s.now = some .purge ∧ s.selNode.p.marker s.now = some .purge
      then s.routed [1, 2] [] (some .idle) else s) := by
  have hplan : planCarry f s = if s.selNode.r.marker s.now = some .purge ∧ s.selNode.p.marker s.now = some .purge then
      .fire { pops := [1, 2], st := some .idle } else .wait := by
    simp [planCarry, hst, h1, h2]
  split <;> rename_i h
  · rw [if_pos h] at hplan
    exact fireNode_room hl (ts := []) nofun hplan (by simp) (by simp) (by simp)
  · rw [if_neg h] at hplan
    exact fireNode_wait hplan

end

/-! ## invar (R139) -/

section
variable {f : FmtC} {s : State} {h : Heads}

theorem exec_invar_takes {l : Token} (hl : s.live = true) (hst : s.selNode.st = .idle) (h0 : s.head 0 = some l)
    (hr : s.room [f.t0, f.t1]) (hm : s.selNode.r.marker s.now = none) :
    exec (.invar f) s = .next (s.routed [0] [] (some (.invar l))) :=
  fireNode_room hl hr (x := { pops := [0], needs := [f.t0, f.t1], st := some (.invar l) })
    (by simp [planInvar, hst, h0, hm]) (by simp) (by simp) (by simp)

/-- A trigger passes a copy of the value. -/
theorem exec_invar_copies {v : Token} (hst : s.selNode.st = .invar v)
    (hm : f.cf.getLsbD 0 = false ∨ s.selNode.r.marker s.now ≠ some .purge)
    (hr : Ready f.pm false true (!f.cf.getLsbD 0) [f.t0, f.t1] h s) :
    exec (.invar f) s = .next (s.routed h.slots (bothTargets f (h.passed v))
      (some (if !f.cf.getLsbD 0 && h.flush then .idle else .invar v))) := by
  have hm' : ¬ (f.cf.getLsbD 0 = true ∧ s.selNode.r.marker s.now = some .purge) := by
    rintro ⟨h1, h2⟩
    rcases hm with h | h
    · exact Bool.false_ne_true (h.symm.trans h1)
    · exact h h2
  exact fireNode_route hr (body := fun h => { outs := bothTargets f (h.passed v)
                                              st := some (if !f.cf.getLsbD 0 && h.flush then .idle else .invar v) })
    (by simp only [planInvar, if_neg hm', hst]) (by simp [bothTargets]) rfl (by simp)

theorem exec_invar_purge (hl : s.live = true) (hc : f.cf.getLsbD 0 = true) (hpm : f.pm = .always)
    (hm : s.selNode.r.marker s.now = some .purge) (hr : s.room [f.t0, f.t1]) :
    exec (.invar f) s = .next (s.routed [1] [(f.t0, .mark .purge), (f.t1, .mark .purge)] (some .idle)) := by
  have hplan : planInvar f s = .fire { pops := [1], outs := bothTargets f (.mark .purge), st := some .idle } := by
    simp only [planInvar, hc, hm, and_self, if_true, invarPurge, hpm]
    cases s.selRegion.img <;> rfl
  exact fireNode_room hl hr hplan (by simp) (by simp) (by simp)

end

/-! ## loopgen (R140) -/

theorem inRange_iff (f : FmtC) (i hi : Int) : inRange (loopStep f) (f.cf.getLsbD 1) i hi = true ↔ inside f i hi := by
  have hstep : loopStep f = f.imm.toInt := sval_toNat (by decide) f.imm
  rw [inRange, inside, hstep]
  split <;> simp

section
variable {f : FmtC} {s : State} {h : Heads}

/-- A bound as the operator reads it. -/
theorem bound_eq (t : Option Token) : (if f.cf.getLsbD 0 then (((leftElems f.ty t).headD 0 : Nat) : Int)
    else Num.sval ((leftElems f.ty t).headD 0) f.ty.elemBits) = boundOf f t := by
  have hx : (leftElems f.ty t).headD 0 < 2 ^ f.ty.elemBits := headD_lt (Nat.two_pow_pos _) (fun x hx => leftElems_lt hx)
  rw [boundOf]
  conv_lhs => rw [← ofNat_toNat_of_lt hx, sval_toNat (elemBits_pos _)]

/-- An index of a range: the packet, whether it is the last, and what the node holds then. -/
theorem loopEmit_eq (i hi : Int) : ∃ last : Bool, (last = true ↔ ¬ inside f (i + f.imm.toInt) hi) ∧
    loopEmit f i hi none = { outs := [(f.t0, mkPkt f.ty [(BitVec.ofInt f.ty.elemBits i).toNat]), (f.t1, .ctl last false 0)]
                             st := some (if last then .idle else .loopgen (i + f.imm.toInt) hi none) } := by
  have hstep : loopStep f = f.imm.toInt := sval_toNat (by decide) f.imm
  refine ⟨!inRange (loopStep f) (f.cf.getLsbD 1) (i + loopStep f) hi, ?_, ?_⟩
  · rw [Bool.not_eq_true', ← hstep, ← inRange_iff, Bool.not_eq_true]
  · simp only [loopEmit, wrap_eq, hstep, madeCtl, ctlTok]

theorem planLoopgen_new (hst : ∀ i hi po, s.selNode.st ≠ .loopgen i hi po) (hr : Ready f.pm true true false [f.t0, f.t1] h s) :
    planLoopgen f s = .fire { (match firstOrigin [h.l, h.r] with
      | some o => { outs := [(f.t0, badPkt f.ty 1 o), (f.t1, badCtl true o)] }
      | none => if inRange (loopStep f) (f.cf.getLsbD 1) (boundOf f h.l) (boundOf f h.r) then
            loopEmit f (boundOf f h.l) (boundOf f h.r) (h.p.bind Token.origin)
          else { needs := [f.t0, f.t1] } : Fire) with pops := h.slots } := by
  unfold planLoopgen
  split
  · rename_i i hi po hst'
    exact absurd hst' (hst i hi po)
  · rw [routePlan_ready _ hr]
    simp only [bound_eq] <;> rfl

theorem exec_loopgen_range (hst : ∀ i hi po, s.selNode.st ≠ .loopgen i hi po) (hr : Ready f.pm true true false [f.t0, f.t1] h s)
    (hl : h.l.bind Token.origin = none) (hh : h.r.bind Token.origin = none) (hp : h.p.bind Token.origin = none)
    (hin : inside f (boundOf f h.l) (boundOf f h.r)) :
    ∃ last : Bool, (last = true ↔ ¬ inside f (boundOf f h.l + f.imm.toInt) (boundOf f h.r)) ∧
      exec (.loopgen f) s = .next (s.routed h.slots
        [(f.t0, mkPkt f.ty [(BitVec.ofInt f.ty.elemBits (boundOf f h.l)).toNat]), (f.t1, .ctl last false 0)]
        (some (if last then .idle else .loopgen (boundOf f h.l + f.imm.toInt) (boundOf f h.r) none))) := by
  obtain ⟨last, hlast, he⟩ := loopEmit_eq (f := f) (boundOf f h.l) (boundOf f h.r)
  have hplan := planLoopgen_new hst hr
  simp only [firstOrigin_cons, hl, hh, hp, firstOrigin, Option.or_none, (inRange_iff _ _ _).mpr hin, if_true, he] at hplan
  exact ⟨last, hlast, fireNode_room hr.live hr.room hplan (by simp) (by simp) (by simp)⟩

theorem exec_loopgen_empty (hst : ∀ i hi po, s.selNode.st ≠ .loopgen i hi po) (hr : Ready f.pm true true false [f.t0, f.t1] h s)
    (hl : h.l.bind Token.origin = none) (hh : h.r.bind Token.origin = none) (hin : ¬ inside f (boundOf f h.l) (boundOf f h.r)) :
    exec (.loopgen f) s = .next (s.routed h.slots [] none) := by
  have hplan := planLoopgen_new hst hr
  simp only [firstOrigin_cons, hl, hh, firstOrigin, Option.or_none, if_neg (mt (inRange_iff _ _ _).mp hin)] at hplan
  exact (fireNode_room hr.live hr.room hplan (by simp) (by simp) (by simp)).trans rfl

theorem exec_loopgen_next {i hi : Int} (hl : s.live = true) (hst : s.selNode.st = .loopgen i hi none) (hr : s.room [f.t0, f.t1]) :
    ∃ last : Bool, (last = true ↔ ¬ inside f (i + f.imm.toInt) hi) ∧
      exec (.loopgen f) s = .next (s.routed []
        [(f.t0, mkPkt f.ty [(BitVec.ofInt f.ty.elemBits i).toNat]), (f.t1, .ctl last false 0)]
        (some (if last then .idle else .loopgen (i + f.imm.toInt) hi none))) := by
  obtain ⟨last, hlast, he⟩ := loopEmit_eq (f := f) i hi
  have hplan : planLoopgen f s = .fire (loopEmit f i hi none) := by simp only [planLoopgen, hst]
  rw [he] at hplan
  exact ⟨last, hlast, fireNode_room hl hr hplan (by simp) (by simp) (by simp)⟩

theorem exec_loopgen_poisoned {o : Origin} (hst : ∀ i hi po, s.selNode.st ≠ .loopgen i hi po)
    (hr : Ready f.pm true true false [f.t0, f.t1] h s)
    (ho : h.l.bind Token.origin = some o ∨ (h.l.bind Token.origin = none ∧ h.r.bind Token.origin = some o)) :
    exec (.loopgen f) s = .next (s.routed h.slots [(f.t0, badPkt f.ty 1 o), (f.t1, .ctl true true o)] none) := by
  have hfirst : firstOrigin [h.l, h.r] = some o := by
    rcases ho with h1 | ⟨h1, h2⟩ <;> simp [firstOrigin_cons, *]
  have hplan := planLoopgen_new hst hr
  simp only [hfirst] at hplan
  exact fireNode_room hr.live hr.room hplan (by simp) (by simp) (by simp)

end

/-! ## repeat (R141) -/

section
variable {f : FmtC} {s : State} {h : Heads}

/-- A copy of a repeat goes to both targets, with whether it is the last. -/
theorem repeatEmit_eq (t : Token) (c : Nat) (po : Option Origin) : repeatEmit f t c po =
    { outs := [(f.t0, t), (f.t1, ctlOr (c == 1) po)], st := some (if c = 1 then .idle else .rept t (c - 1) po) } := rfl

/-- The count of a repeat (R141). -/
def repeatCount (f : FmtC) (r : Option Token) : Nat :=
  if f.cf.getLsbD 0 then f.imm.toNat else (r.map (fun x => (low64 x).toNat)).getD 0

/-- A repeat that takes its operands. -/
theorem planRepeat_new {l : Token} (hst : ∀ t k po, s.selNode.st ≠ .rept t k po)
    (hr : Ready f.pm true (!f.cf.getLsbD 0) false [f.t0, f.t1] h s) (hl : h.l = some l) :
    (h.r.bind Token.origin = none → planRepeat f s = .fire { (if repeatCount f h.r = 0 then { needs := [f.t0, f.t1] }
      else repeatEmit f (h.passed l) (repeatCount f h.r) (if h.p.any (fun x => x.origin.isSome) then h.origin else none) : Fire)
        with pops := h.slots }) ∧
    (∀ o, (h.r.bind Token.origin).isSome = true → h.origin = some o →
      planRepeat f s = .fire { repeatEmit f ((h.passed l).poisonBy o) 1 (some o) with pops := h.slots }) := by
  unfold planRepeat
  split
  · rename_i t k po hst'
    exact absurd hst' (hst t k po)
  · rw [routePlan_ready _ hr]
    refine ⟨fun hh => ?_, fun o hh ho => ?_⟩
    · simp only [hh, hl, Option.getD_some, repeatCount]
      cases h.r <;> rfl
    · obtain ⟨x, hx⟩ := Option.isSome_iff_exists.mp hh
      simp only [hx, ho, hl, Option.getD_some]

/-- The copies of a repeat whose count is clean. -/
theorem exec_repeat_counts {l : Token} (hst : ∀ t k po, s.selNode.st ≠ .rept t k po)
    (hr : Ready f.pm true (!f.cf.getLsbD 0) false [f.t0, f.t1] h s) (hl : h.l = some l) (hh : h.r.bind Token.origin = none)
    {po : Option Origin} (hpo : (if h.p.any (fun x => x.origin.isSome) then h.origin else none) = po) :
    exec (.repeatN f) s = .next (if repeatCount f h.r = 0 then s.routed h.slots [] none
      else s.routed h.slots [(f.t0, h.passed l), (f.t1, ctlOr (repeatCount f h.r == 1) po)]
        (some (if repeatCount f h.r = 1 then .idle else .rept (h.passed l) (repeatCount f h.r - 1) po))) := by
  have hplan := (planRepeat_new hst hr hl).1 hh
  simp only [hpo, repeatEmit_eq] at hplan
  split <;> rename_i hc
  · rw [if_pos hc] at hplan
    exact (fireNode_room hr.live hr.room hplan (by simp) (by simp) (by simp)).trans rfl
  · rw [if_neg hc] at hplan
    exact fireNode_room hr.live hr.room hplan (by simp) (by simp) (by simp)

theorem exec_repeat_poisoned {l : Token} {o : Origin} (hst : ∀ t k po, s.selNode.st ≠ .rept t k po)
    (hr : Ready f.pm true (!f.cf.getLsbD 0) false [f.t0, f.t1] h s) (hl : h.l = some l) (hh : (h.r.bind Token.origin).isSome = true)
    (ho : h.origin = some o) :
    exec (.repeatN f) s = .next (s.routed h.slots [(f.t0, (h.passed l).poisonBy o), (f.t1, .ctl true true o)] (some .idle)) :=
  fireNode_room hr.live hr.room ((planRepeat_new hst hr hl).2 o hh ho) (by simp) nofun nofun

theorem exec_repeat_next {t : Token} {c : Nat} {po : Option Origin} (hl : s.live = true) (hst : s.selNode.st = .rept t c po)
    (hr : s.room [f.t0, f.t1]) :
    exec (.repeatN f) s = .next (s.routed [] [(f.t0, t), (f.t1, ctlOr (c == 1) po)]
      (some (if c = 1 then .idle else .rept t (c - 1) po))) :=
  fireNode_room hl hr (x := repeatEmit f t c po) (by simp only [planRepeat, hst]) (by simp [repeatEmit]) nofun nofun

end

/-! ## The obligation -/

/-- Settles O24: carry by its row, invar by its phase, loopgen and repeat by whether they take operands or go on. -/
theorem loopOperators : Obligations.LoopOperators := by
  unfold Obligations.LoopOperators
  refine ⟨fun f s hl => ⟨fun l hst h0 hr => exec_carry_idle hl hst h0 hr, ?_, fun e c r hst h1 h2 he hr => exec_carry_value hl hst h1 (.inl h2) he hr,
    ?_, ?_, ?_, ?_, fun e c r p hst h1 _ ha he hr => exec_carry_value hl hst h1 (.inr ha) he hr,
    fun e c r hst _ h2 he => exec_carry_stall hst h2 he, fun e c hst hr => exec_carry_exit hl hst hr,
    fun e c r hst h1 h2 => exec_carry_drain hl hst h1 h2, fun e c hst h1 h2 => exec_carry_drained hl hst h1 h2⟩,
    ⟨fun f s l hl hst h0 hr hm => exec_invar_takes hl hst h0 hr hm, ?_, ?_, fun f s v hl hc hpm _ hm hr => exec_invar_purge hl hc hpm hm hr⟩,
    ⟨fun f h s hst hr hl hh hp => ⟨exec_loopgen_range hst hr hl hh hp, exec_loopgen_empty hst hr hl hh⟩,
      fun f s i hi hl hst hr => exec_loopgen_next hl hst hr, fun f h s o hst hr ho => exec_loopgen_poisoned hst hr ho, ?_,
      fun f s t c hl hst hr => exec_repeat_next hl hst hr, ?_, ?_, fun f s t o c hl hst hr => exec_repeat_next hl hst hr⟩⟩
  · intro e c p hst h1 h2 hr
    refine (exec_carry_cond hl hst h2 hr (.inl h1)).trans ?_
    by_cases hn : p.val = true ∨ p.origin.isSome = true
    · rw [if_pos hn, (endsLoop_eq_false_iff p).mpr hn]
      rfl
    · rw [if_neg hn, (Bool.not_eq_false _).mp (mt (endsLoop_eq_false_iff p).mp hn)]
      rfl
  · intro e c r p hst h1 h2 hv ho he hr
    have h := exec_carry_both hl hst h1 h2 ((endsLoop_eq_false_iff p).mpr (.inl hv)) he hr
    simpa only [carryCond, ho] using h
  · intro e c r p hst _ h2 hv ho hr
    have hn := (endsLoop_iff p).mpr ⟨hv, ho⟩
    have h := exec_carry_cond hl hst h2 hr (.inr (.inl hn))
    simpa only [carryCond, ho, hn, if_true] using h
  · intro e c r p o hst h1 h2 ho he hr
    have h := exec_carry_both hl hst h1 h2 ((endsLoop_eq_false_iff p).mpr (.inr (by simp [ho]))) he hr
    simpa only [carryCond, ho] using h
  · intro e c r p hst _ h2 hn hheld hr
    refine (exec_carry_cond hl hst h2 hr (.inr (.inr hheld))).trans ?_
    rw [(endsLoop_eq_false_iff p).mpr hn]
    rfl
  · intro f h s v r p hc hst hpm _ hp hr
    have hf : h.flush = (p.val || p.origin.isSome) := by simp [Heads.flush, hp]
    refine (exec_invar_copies hst (.inl hc) (by rw [hpm, hc]; exact hr)).trans ?_
    rw [hc, hf, heads_slots hr.heads]
    simp [bothTargets]
  · intro f h s v hc hst hm hr
    refine (exec_invar_copies hst (.inr (by simp [hm])) (by rw [hc]; exact hr)).trans ?_
    rw [hc]
    rfl
  · rintro f h s l c hst hr hl hh hp rfl
    have hpo : (if h.p.any (fun x => x.origin.isSome) then h.origin else none) = none := by
      cases hp' : h.p <;> simp_all
    exact (exec_repeat_counts hst hr hl hh hpo).trans (by rw [passed_clean hp]; rfl)
  · intro f h s l o hst hc hr hl hh ho
    exact exec_repeat_poisoned hst (by rw [hc]; exact hr) hl hh ho
  · rintro f h s l o c hst hr hl hh hp ho rfl
    have hpo : (if h.p.any (fun x => x.origin.isSome) then h.origin else none) = some o := by
      cases hp' : h.p <;> simp_all
    exact exec_repeat_counts hst hr hl hh hpo

end Sys2Proof.Machine
end

section
/-!
ELASTIC STREAMS (R144 to R148): split and omerge of a group's home and of its replicas, and sink.
-/

namespace Sys2Proof.Machine

open Sys2Proof

/-! ## Firings with an effect beyond the cell -/

/-- A firing with an effect beyond the cell carries it out after the rest, with what the node is then bound to. -/
theorem fireNode_post {ts : List Target} {plan : State → Plan} {s : State} {x : Fire} (hl : s.live = true) (hr : s.room ts)
    (hp : plan s = .fire x) (h1 : ∀ o ∈ x.outs, o.1 ∈ ts) (h2 : ∀ t ∈ x.later, t ∈ ts) (h3 : ∀ t ∈ x.needs, t ∈ ts) :
    ∃ b, fireNode plan s = .next (x.post (s.commit { x with post := fun u _ _ => u }) (s.ids + 1) b) := by
  obtain ⟨b, hb⟩ := commit_post s x
  exact ⟨b, (fireNode_room hl hr hp h1 h2 h3).trans (congrArg _ hb)⟩

/-- A firing whose messages all have space is carried out and sends them. -/
theorem sendPlan_ok {s : State} {l : Sends} (h : s.checkSends l = .ok) (f : Fire) :
    sendPlan s l f = .fire { f with post := fun st id b => f.post (st.sendAll l b) id b } := by
  simp only [sendPlan, h]

/-! ## split (R145) -/

section
variable {f : FmtC} {s : State} {h : Heads} {l p : Token} {n j : Nat}

theorem splitAt_eq (hst : s.selNode.st = .split n j ∨ (s.selNode.st = .idle ∧ n = (s.selGroup f).n ∧ j = 0)) :
    s.splitAt f = (n, j) := by
  rcases hst with hst | ⟨hst, rfl, rfl⟩ <;> simp only [State.splitAt, hst]

theorem splitSends_eq (hat : s.splitAt f = (n, j)) (hl : h.l = some l) (hp : h.p = some p) : s.splitSends f h =
    (if j % n = 0 then [] else [(replicaIcb ((s.selGroup f).clusters.getD (j % n - 1) 0), 1, h.passed l)]) ++
      (if p.val then (List.range (n - 1)).map (fun i => (replicaIcb ((s.selGroup f).clusters.getD i 0), 2, .mark .eos)) else []) := by
  simp only [State.splitSends, hat, hl, hp, Option.getD_some]

theorem exec_split_home (hm : (s.selGroup f).member = 0) (hat : s.splitAt f = (n, j)) (hl : h.l = some l) (hp : h.p = some p)
    (hr : Ready .always true false true [f.t0] h s) (hok : s.checkSends (s.splitSends f h) = .ok) :
    ∃ b : List Nat, exec (.split f) s = .next
      (let u := (s.routed [0, 2] (if j % n = 0 then [(f.t0, h.passed l)] else [])
        (some (if p.val then .idle else .split n (j + 1)))).sendAll (s.splitSends f h) b
       (if j = 0 then u.dropMembers s.sel.1 (bitsOf f.imm 1 0) else u).modGroup s.sel.1 (bitsOf f.imm 1 0) (fun g => g.deal n j p.val)) := by
  have hplan : planSplit f s = sendPlan s (s.splitSends f h)
      { pops := [0, 2], outs := if j % n = 0 then [(f.t0, h.passed l)] else [], needs := [f.t0]
        st := some (if p.val then .idle else .split n (j + 1))
        post := fun st _ _ => (if j = 0 then st.dropMembers s.sel.1 (bitsOf f.imm 1 0) else st).modGroup s.sel.1 (bitsOf f.imm 1 0)
          (fun g => g.deal n j p.val) } := by
    have hs : h.slots = [0, 2] := heads_slots hr.heads
    simp only [planSplit, hm, if_true, splitHome, hr.heads, hat, hl, hp, hs, Option.getD_some]
  obtain ⟨b, hb⟩ := fireNode_post hr.live hr.room (hplan.trans (sendPlan_ok hok _)) 
    (by split <;> simp) (by simp) (by simp)
  exact ⟨b, hb⟩

/-- What a replica's split does with a token at the head of its inbox. The definition is unfolded as a function: applied to a state, the
kernel would evaluate the inbox. -/
theorem splitReplica_token {b : Icb} {len : Nat} {bs : List Byte} (hb : b = s.icbAt (replicaIcb s.sel.1) (replicaIcb s.sel.1 + 64))
    (hh : s.inboxHead b = some (len, 1, bs)) (hst : s.selNode.st = .split 1 j ∨ (s.selNode.st = .idle ∧ j = 0)) :
    splitReplica f s = .fire
      { outs := [(f.t0, tokenOfBody s.onCtl bs)], extra := s.inboxBound s.sel.1 (replicaIcb s.sel.1), st := some (.split 1 (j + 1))
        post := fun st _ _ => (st.inboxTake b len).modGroup s.sel.1 (bitsOf f.imm 1 0) (fun g => g.deal 1 j false) } := by
  have hdef : splitReplica = splitReplica := rfl
  conv_rhs at hdef => delta splitReplica
  rw [hdef]
  dsimp only
  generalize replicaIcb s.sel.1 = pa at hb ⊢
  rw [← hb, hh]
  rcases hst with hst | ⟨hst, rfl⟩ <;> rw [hst] <;> rfl

theorem exec_split_replica {b : Icb} {len : Nat} {bs : List Byte} (hl : s.live = true) (hm : (s.selGroup f).member ≠ 0)
    (hb : b = s.icbAt (replicaIcb s.sel.1) (replicaIcb s.sel.1 + 64)) (hh : s.inboxHead b = some (len, 1, bs))
    (hst : s.selNode.st = .split 1 j ∨ (s.selNode.st = .idle ∧ j = 0)) (hr : s.room [f.t0]) :
    exec (.split f) s = .next
      (((s.commit { outs := [(f.t0, tokenOfBody s.onCtl bs)], extra := s.inboxBound s.sel.1 (replicaIcb s.sel.1)
                    st := some (.split 1 (j + 1)) }).inboxTake b len).modGroup s.sel.1 (bitsOf f.imm 1 0) (fun g => g.deal 1 j false)) := by
  obtain ⟨b', hb'⟩ := fireNode_post (plan := planSplit f) hl hr ((if_neg hm).trans (splitReplica_token hb hh hst)) (by simp) (by simp) (by simp)
  exact hb'

end

/-! ## omerge (R146) -/

section
variable {f : FmtC} {s : State} {h : Heads} {l : Token} {r : GroupRun} {rest : List GroupRun} {j : Nat}

/-- An omerge at output j, no marker at its L. -/
theorem planOmerge_at (hst : s.selNode.st = .omerge j false ∨ (s.selNode.st = .idle ∧ j = 0)) (hk : s.selNode.l.marker s.now = none) :
    planOmerge f s = if (s.selGroup f).member = 0 then omergeHome f s j else omergeReplica f s j := by
  rcases hst with hst | ⟨hst, rfl⟩ <;> simp [planOmerge, hst, hk]

/-- What a home omerge emits as output j: the token, and whether it is the last. -/
def omergeOuts (f : FmtC) (h : Heads) (t : Token) (last : Bool) : List (Target × Token) :=
  [(f.t0, h.passed t), (f.t1, ctlOr last ((h.p.bind Token.origin).map (fun o => t.origin.getD o)))]

/-- Output j of the home, from its own L. -/
theorem omergeHome_own (hs : (s.selGroup f).streams = r :: rest) (hj : j < r.seen) (hw : r.ended = true ∨ j + 1 < r.seen)
    (hm : j % r.n = 0) (hl : h.l = some l) (hr : Ready f.pm true false false [f.t0, f.t1] h s) :
    omergeHome f s j = .fire (omergeNext f s j (r.ended && r.seen == j + 1)
      { pops := h.slots, outs := omergeOuts f h l (r.ended && r.seen == j + 1) }) := by
  have hn : ¬ (r.seen ≤ j ∨ ((!r.ended) = true ∧ r.seen ≤ j + 1)) := by
    rintro (h1 | ⟨h1, h2⟩)
    · omega
    · rcases hw with h3 | h3
      · simp [h3] at h1
      · omega
  simp only [omergeHome, hs, if_neg hn, hm, if_true, hr.heads, hr.pass, hl, Option.getD_some, madeCtl_eq, madeOrigin_eq, omergeOuts]

/-- Output j of the home, from the return inbox of the member whose turn it is. -/
theorem omergeHome_member {len : Nat} {b : Icb} {bs : List Byte} (hs : (s.selGroup f).streams = r :: rest) (hj : j + 1 < r.seen)
    (hm : j % r.n ≠ 0) (hpm : f.pm = .always) (hb : b = s.icbAt (returnIcb s.sel.1 (bitsOf f.imm 1 0) (j % r.n))
      (returnIcb s.sel.1 (bitsOf f.imm 1 0) (j % r.n) + 64)) (hh : s.inboxHead b = some (len, 1, bs)) :
    omergeHome f s j = .fire (omergeNext f s j false
      { outs := [(f.t0, tokenOfBody s.onCtl bs), (f.t1, .ctl false false 0)]
        extra := s.inboxBound s.sel.1 (returnIcb s.sel.1 (bitsOf f.imm 1 0) (j % r.n)), post := fun st _ _ => st.inboxTake b len }) := by
  have hn : ¬ (r.seen ≤ j ∨ ((!r.ended) = true ∧ r.seen ≤ j + 1)) := by omega
  have hlast : (r.ended && r.seen == j + 1) = false := by
    rw [Bool.and_eq_false_iff]
    exact .inr (by simpa using Nat.ne_of_gt hj)
  have hheads : s.heads f.pm false false false = some { pass := true, slots := [] } := by rw [hpm]; rfl
  simp only [omergeHome, hs, if_neg hn, if_neg hm, ← hb, hh, hheads, hlast, if_true]
  rfl

theorem exec_omerge_home (hm0 : (s.selGroup f).member = 0) (hs : (s.selGroup f).streams = r :: rest)
    (hst : s.selNode.st = .omerge j false ∨ (s.selNode.st = .idle ∧ j = 0)) (hk : s.selNode.l.marker s.now = none)
    (hj : j + 1 < r.seen) (hm : j % r.n = 0) (hl : h.l = some l) (hr : Ready f.pm true false false [f.t0, f.t1] h s) :
    exec (.omerge f) s = .next (s.routed h.slots (omergeOuts f h l false) (some (.omerge (j + 1) false))) := by
  have hlast : (r.ended && r.seen == j + 1) = false := by
    rw [Bool.and_eq_false_iff]
    exact .inr (by simpa using Nat.ne_of_gt hj)
  have hplan := (planOmerge_at (f := f) hst hk).trans ((if_pos hm0).trans (omergeHome_own hs (by omega) (.inr hj) hm hl hr))
  rw [hlast] at hplan
  exact fireNode_room hr.live hr.room hplan (by simp [omergeOuts]) nofun nofun

theorem exec_omerge_last (hm0 : (s.selGroup f).member = 0) (hs : (s.selGroup f).streams = r :: rest)
    (hst : s.selNode.st = .omerge j false ∨ (s.selNode.st = .idle ∧ j = 0)) (hk : s.selNode.l.marker s.now = none)
    (he : r.ended = true) (hj : r.seen = j + 1) (hm : j % r.n = 0) (hl : h.l = some l)
    (hr : Ready f.pm true false false [f.t0, f.t1] h s) : exec (.omerge f) s = .next
      (((s.routed h.slots (omergeOuts f h l true) (some (if f.cf.getLsbD 0 then .omerge 0 true else .idle))).modGroup s.sel.1
        (bitsOf f.imm 1 0) (fun g => { g with streams := g.streams.drop 1 })).dropMembers s.sel.1 (bitsOf f.imm 1 0)) := by
  have hplan := (planOmerge_at (f := f) hst hk).trans ((if_pos hm0).trans (omergeHome_own hs (by omega) (.inl he) hm hl hr))
  rw [he, hj, beq_self_eq_true, Bool.and_self] at hplan
  obtain ⟨b, hb⟩ := fireNode_post hr.live hr.room hplan (by simp [omergeNext, omergeOuts]) (by simp [omergeNext]) (by simp [omergeNext])
  exact hb

theorem exec_omerge_member {len : Nat} {b : Icb} {bs : List Byte} (hl : s.live = true) (hm0 : (s.selGroup f).member = 0)
    (hs : (s.selGroup f).streams = r :: rest) (hst : s.selNode.st = .omerge j false ∨ (s.selNode.st = .idle ∧ j = 0))
    (hk : s.selNode.l.marker s.now = none) (hj : j + 1 < r.seen) (hm : j % r.n ≠ 0) (hpm : f.pm = .always) (hr : s.room [f.t0, f.t1])
    (hb : b = s.icbAt (returnIcb s.sel.1 (bitsOf f.imm 1 0) (j % r.n)) (returnIcb s.sel.1 (bitsOf f.imm 1 0) (j % r.n) + 64))
    (hh : s.inboxHead b = some (len, 1, bs)) :
    exec (.omerge f) s = .next ((s.commit { outs := [(f.t0, tokenOfBody s.onCtl bs), (f.t1, .ctl false false 0)]
                                            extra := s.inboxBound s.sel.1 (returnIcb s.sel.1 (bitsOf f.imm 1 0) (j % r.n))
                                            st := some (.omerge (j + 1) false) }).inboxTake b len) := by
  have hplan := (planOmerge_at (f := f) hst hk).trans ((if_pos hm0).trans (omergeHome_member hs hj hm hpm hb hh))
  obtain ⟨b', hb'⟩ := fireNode_post hl hr hplan (by simp [omergeNext]) (by simp [omergeNext]) (by simp [omergeNext])
  exact hb'

theorem exec_omerge_replica (hm0 : (s.selGroup f).member ≠ 0) (hs : (s.selGroup f).streams = r :: rest)
    (hst : s.selNode.st = .omerge j false ∨ (s.selNode.st = .idle ∧ j = 0)) (hk : s.selNode.l.marker s.now = none)
    (hj : r.ended = false ∨ j < r.seen) (hl : h.l = some l) (hr : Ready f.pm true false false [] h s) {sends : Sends}
    (hsends : sends = [(returnIcb (s.selGroup f).home (bitsOf f.imm 1 0) (s.selGroup f).member, 1, h.passed l)])
    (hok : s.checkSends sends = .ok) :
    ∃ b : List Nat, exec (.omerge f) s = .next ((s.routed h.slots [] (some (.omerge (j + 1) false))).sendAll sends b) := by
  have hn : ¬ (r.ended = true ∧ r.seen ≤ j) := by
    rintro ⟨h1, h2⟩
    rcases hj with h3 | h3
    · exact Bool.false_ne_true (h3.symm.trans h1)
    · omega
  have hplan : omergeReplica f s j = sendPlan s sends { pops := h.slots, st := some (.omerge (j + 1) false) } := by
    simp only [omergeReplica, hs, if_neg hn, hr.heads, hr.pass, if_true, hl, Option.getD_some, hsends]
  exact fireNode_post hr.live hr.room
    ((planOmerge_at hst hk).trans ((if_neg hm0).trans (hplan.trans (sendPlan_ok hok _)))) (by simp) (by simp) (by simp)

end

/-! ## sink (R148) -/

/-- Where the head is an operand it is no marker (R28). -/
theorem marker_of_operand {q : Queue} {now : Nat} {t : QTok} (h : q.operand now = some t) : q.marker now = none := by
  unfold Queue.operand at h
  unfold Queue.marker
  split at h
  · rename_i x hx
    cases ht : x.tok <;> simp_all
  · cases h

section
variable {f : FmtC} {s : State} (hl : s.live = true)
include hl

/-- A sink that discards its head. -/
theorem exec_sink_discards (hp : planSink f s = .fire { pops := [0] }) : exec (.sink f) s = .next (s.routed [0] [] none) :=
  fireNode_room hl (ts := []) nofun hp nofun nofun nofun

theorem exec_sink_operand {t : Token} (ht : s.head 0 = some t) (ho : t.origin = none ∨ f.cf.getLsbD 0 = false) :
    exec (.sink f) s = .next (s.routed [0] [] none) := by
  refine exec_sink_discards hl ?_
  unfold planSink
  split
  · rfl
  · rcases ho with ho | ho <;> cases h : t.origin <;> simp_all

theorem exec_sink_trap {t : Token} {o : Origin} (ht : s.head 0 = some t) (ho : t.origin = some o) (hc : f.cf.getLsbD 0 = true) :
    exec (.sink f) s = .next ((s.routed [0] [] none).raisePoison o 3) := by
  have hm : s.selNode.l.marker s.now ≠ some .eos := by
    obtain ⟨q, hq, -⟩ := Option.map_eq_some_iff.mp ht
    rw [marker_of_operand (q := s.selNode.l) hq]
    exact nofun
  have hp : planSink f s = .fire (poisonFire [0] o 3) := by simp only [planSink, if_neg hm, ht, ho, hc, if_true]
  obtain ⟨b, hb⟩ := fireNode_post hl (ts := []) nofun hp nofun nofun nofun
  exact hb

end

/-- Settles O25: the home's and the replicas' side of split and omerge, then sink. -/
theorem elasticStreams : Obligations.ElasticStreams := by
  unfold Obligations.ElasticStreams
  refine ⟨?_, fun f s b len bs j hl hm hb hh hst hr => exec_split_replica hl hm hb hh hst hr,
    fun f h s l r rest j hm0 hs hst hk hj hm hl hr => exec_omerge_home hm0 hs hst hk hj hm hl hr,
    fun f s r rest j len b bs hl hm0 hs hst hk hj hm hpm hr hb hh => exec_omerge_member hl hm0 hs hst hk hj hm hpm hr hb hh,
    fun f h s l r rest j hm0 hs hst hk hj hl hr hok => exec_omerge_replica hm0 hs hst hk hj hl hr rfl hok,
    fun f h s l r rest j hm0 hs hst hk he hj hm hl hr => exec_omerge_last hm0 hs hst hk he hj hm hl hr, fun f s hl => ⟨?_, ?_, ?_⟩⟩
  · rintro f h s l p g n j rfl hm hst hl hp hr c k sends hok
    have hat := splitAt_eq hst
    have h := exec_split_home hm hat hl hp hr
    rw [splitSends_eq hat hl hp] at h
    exact h hok
  · exact fun hm => exec_sink_discards hl (if_pos hm)
  · exact fun t ht ho => exec_sink_operand hl ht ho
  · intro t o ht ho hc
    have hsel : (s.routed [0] [] none).sel = s.sel := by rw [State.routed, (commit_frame s { pops := [0] } rfl).1]
    refine ⟨_, ?_, ?_, ?_, (exec_sink_trap hl ht ho hc).trans (by rw [State.raisePoison, hsel])⟩ <;> rfl

end Sys2Proof.Machine
end

section
/-!
MEMORY ISSUES (R149, R150, R153, R154, R164): the plan of a memory node, the latency of an access, and fence.
-/

namespace Sys2Proof.Machine

open Sys2Proof

/-- A memory instruction issues under its plan. -/
theorem exec_memPlan {i : Instr} {f : FmtM} {uR : Bool} {pads : List Target} (hi : memOf i = some (f, uR, pads)) (s : State) :
    exec i s = fireNode (memPlan i f uR pads) s := by
  cases i <;> simp only [memOf, Option.some.injEq, Prod.mk.injEq, reduceCtorEq] at hi <;> obtain ⟨rfl, rfl, rfl⟩ := hi <;> rfl

theorem accessAlign_eq {i : Instr} {f : FmtM} {uR : Bool} {pads : List Target} (hi : memOf i = some (f, uR, pads)) :
    accessAlign i = alignOf i := by
  cases i <;> simp only [memOf, reduceCtorEq] at hi <;> rfl

theorem memFmt_eq {i : Instr} {f : FmtM} {uR : Bool} {pads : List Target} (hi : memOf i = some (f, uR, pads)) : memFmt i = f := by
  cases i <;> simp only [memOf, Option.some.injEq, Prod.mk.injEq, reduceCtorEq] at hi <;> obtain ⟨rfl, -, -⟩ := hi <;> rfl

theorem sramLatency_pos (c cell pa : Nat) : 0 < sramLatency c cell pa := by
  unfold sramLatency
  dsimp only
  split
  · omega
  · split <;> omega

/-- No access has its result in the cycle of its issue (R152). -/
theorem latency_pos (s : State) (sp : Space) (cell : Nat) (i : Instr) (a : Word) : 0 < s.latency sp cell i a := by
  unfold State.latency
  split
  · decide
  · rename_i pa fill _
    dsimp only
    split
    · split
      · decide
      · split <;> decide
    · split
      · exact Nat.add_pos_left (sramLatency_pos ..) _
      · split <;> omega

section
variable {i : Instr} {f : FmtM} {uR : Bool} {pads : List Target} {h : Heads} {s : State} (hr : ReadyM f.pm uR pads h s)
include hr

/-- The plan of a memory node that can issue: it traps on poison or on its alignment, else it issues. -/
theorem memPlan_ready (ha : accessAlign i = alignOf i) : memPlan i f uR pads s =
    if isWriteClass i && (firstOrigin [h.l, h.p]).isSome then poisonTrap s pads ((firstOrigin [h.l, h.p]).getD 0) 4
    else if (h.noAccess i).isNone && (effAddr i h.l).toNat % alignOf i != 0 then
      .trap pads 4 0 (effAddr i h.l) 0 (BitVec.ofNat 64 (8 * (accessKind i).code))
    else .fire (issueFire i pads h (h.noAccess i) s) := by
  simp only [memPlan, hr.unit, hr.ready.heads, hr.ready.pass, Nat.not_le.mpr hr.flight, Bool.not_true, Bool.false_eq_true, if_false, ha]
  rfl

variable (hi : memOf i = some (f, uR, pads))
include hi

theorem exec_mem_issues (hw : isWriteClass i = true → firstOrigin [h.l, h.p] = none)
    (ha : (h.noAccess i).isSome ∨ (effAddr i h.l).toNat % alignOf i = 0) :
    ∃ (b : List Nat) (ready : Nat), s.now < ready ∧ exec i s = .next
       ((s.commit { pops := h.slots, later := pads, busy := some (3, 1), defer := true }).modRegion s.sel.1 (fun r => { r with
         accesses := r.accesses ++ [
           { id := s.ids + 1, node := s.sel.2, ins := i, fired := s.now, ready := ready, addr := effAddr i h.l
             abs := s.resolved (s.space s.sel.1) (effAddr i h.l), data := h.r
             poison := h.p.bind Token.origin, skip := h.noAccess i, bound := b, ops := s.capture h.slots, priv := s.selTask.supb }] })) := by
  have hplan : memPlan i f uR pads s = .fire (issueFire i pads h (h.noAccess i) s) := by
    rw [memPlan_ready hr (accessAlign_eq hi), if_neg, if_neg]
    · rcases ha with ha | ha
      · simp [Option.isSome_iff_ne_none.mp ha]
      · simp [ha]
    · cases hc : isWriteClass i
      · simp
      · simp [hw hc]
  obtain ⟨b, hb⟩ := fireNode_post hr.ready.live hr.ready.room hplan nofun (fun t ht => ht) nofun
  refine ⟨b, _, ?_, (exec_memPlan hi s).trans hb⟩
  refine Nat.lt_add_of_pos_right ?_
  split
  · decide
  · exact latency_pos ..

theorem exec_mem_poisoned {o : Origin} (hw : isWriteClass i = true) (ho : firstOrigin [h.l, h.p] = some o) :
    exec i s = .next (s.raise s.sel.1
      { s.record s.sel.1 (srcNode s.sel.1 s.sel.2) 5 0 (o.setWidth 64) (BitVec.ofNat 64 s.sel.2) 4 with rewinds := true }) := by
  have hplan : memPlan i f uR pads s = poisonTrap s pads o 4 := by
    rw [memPlan_ready hr (accessAlign_eq hi), if_pos (by simp [hw, ho]), ho, Option.getD_some]
  exact (exec_memPlan hi s).trans (fireNode_trap hr.ready.live hr.ready.room hplan)

theorem exec_mem_misaligned (hw : isWriteClass i = true → firstOrigin [h.l, h.p] = none) (hn : h.noAccess i = none)
    (ha : (effAddr i h.l).toNat % alignOf i ≠ 0) :
    exec i s = .next (s.raise s.sel.1
      { s.record s.sel.1 (srcNode s.sel.1 s.sel.2) 4 0 (effAddr i h.l) 0 (BitVec.ofNat 64 (8 * (accessKind i).code))
        with rewinds := true }) := by
  have hplan : memPlan i f uR pads s = .trap pads 4 0 (effAddr i h.l) 0 (BitVec.ofNat 64 (8 * (accessKind i).code)) := by
    rw [memPlan_ready hr (accessAlign_eq hi), if_neg, if_pos (by simp [hn, ha])]
    cases hc : isWriteClass i
    · simp
    · simp [hw hc]
  exact (exec_memPlan hi s).trans (fireNode_trap hr.ready.live hr.ready.room hplan)

end

/-- The effective address of a packet: bits [63:0] and the offset (R149). -/
theorem effAddr_pkt {i : Instr} {f : FmtM} {uR : Bool} {pads : List Target} (hi : memOf i = some (f, uR, pads)) (ty : Ty) (len : Nat)
    (psn : Bool) (pay : Payload) : effAddr i (some (.pkt ty len psn pay)) = pay.setWidth 64 +
      (match (generalizing := false) i with
       | .amo _ | .rmw _ => (f.off.setWidth 16).signExtend 64
       | _ => f.off.signExtend 64) := by
  have hf := memFmt_eq hi
  cases i <;> simp only [effAddr, hf] <;> rfl

theorem exec_fence {f : FmtM} {h : Heads} {s : State} (hu : s.unitFree 3 = true) (hr : Ready f.pm true true false [f.t0, f.t1] h s) :
    exec (.fence f) s = .next (s.commit { pops := h.slots, outs := [(f.t0, .ctl true false 0), (f.t1, .ctl true false 0)]
                                          busy := some (3, 1) }) := by
  have hplan : planFence f s = .fire { pops := h.slots, outs := [(f.t0, ctlTok true), (f.t1, ctlTok true)], busy := some (3, 1) } := by
    simp [planFence, hu, hr.heads, hr.pass]
  exact fireNode_room hr.live hr.room hplan (by simp) nofun nofun

/-- Settles O26: a memory node that can issue does so, or traps on poison or on its alignment. -/
theorem memoryIssues : Obligations.MemoryIssues := by
  unfold Obligations.MemoryIssues
  exact ⟨fun i f uR pads h s hi hr hw ha => exec_mem_issues hr hi hw ha, fun i f uR pads ty len psn pay hi => effAddr_pkt hi ty len psn pay,
    fun i f uR pads h s hi hr => ⟨fun o hw ho => exec_mem_poisoned hr hi hw ho, fun hw hn ha => exec_mem_misaligned hr hi hw hn ha⟩,
    fun f h s hu hr => exec_fence hu hr⟩

end Sys2Proof.Machine
end

section
/-!
THE MULTIPLY (R155, R168 to R171): when an mma fires, what its tiles must be, and what it raises otherwise.
-/

namespace Sys2Proof.Machine

open Sys2Proof

/-- A ready dot-block node that starts an operation: its operands go, places are kept, and the operation stands in the dot block. -/
theorem fireNode_dotLater {f : FmtA} {uR : Bool} {h : Heads} {s : State} {ready : Heads → Bool} {body : Heads → Plan} {plan : State → Plan}
    {cs : List (Nat × Nat)} {op : DotOp} {g : Dot → Dot} {more : State → State} (hr : ReadyA f 2 true uR false h s)
    (hc : ready h = true) (hp : plan s = dotPlan f uR s ready body) (hb : body h = dotLater s f cs op g more) :
    ∃ b : List Nat, fireNode plan s = .next (more (s.dotStarted f h (s.cutSet cs []) (fun d =>
      { g d with ops := (g d).ops ++ [{ op with id := s.ids + 1, node := s.sel.2, t0 := f.t0, t1 := f.t1, bound := b }] }))) := by
  have hplan := hp.trans (dotPlan_ready hr hc)
  rw [hb] at hplan
  obtain ⟨b, hfire⟩ := fireNode_post hr.live hr.room hplan nofun (fun t ht => ht) nofun
  exact ⟨b, hfire⟩

/-- A ready dot-block node whose tiles or planes do not pass raises the fault and rewinds (R155, R169). -/
theorem fireNode_dotFault {f : FmtA} {uR : Bool} {h : Heads} {s : State} {ready : Heads → Bool} {body : Heads → Plan} {plan : State → Plan}
    {x : XFault} (hr : ReadyA f 2 true uR false h s) (hc : ready h = true) (hp : plan s = dotPlan f uR s ready body)
    (hb : body h = trapOf f x) : fireNode plan s = .next (s.raise s.sel.1
      { s.record s.sel.1 (srcNode s.sel.1 s.sel.2) x.code x.sub x.addr 0 x.info with rewinds := true }) := by
  have hplan := hp.trans (dotPlan_ready hr hc)
  rw [hb] at hplan
  exact fireNode_trap hr.live hr.room hplan

section
variable {f : FmtA} {h : Heads} {s : State} {p : Plane} (hr : ReadyA f 2 true false false h s)
  (ht : (s.selTask.tile (bitsOf f.imm 5 0)).state = .ready) (hp : s.selDot.active = some p) (hb : s.selDot.busy ≤ s.now)
  (hd : s.selDot.draining (bitsOf f.imm 7 6) = false)
include hr ht hp hb hd

theorem exec_mma_clean {t : Tile} {pa : Nat} (ho : h.origin = none) (hf : s.mmaFault f p (s.selDot.acc (bitsOf f.imm 7 6)) = .ok (t, pa)) :
    ∃ b : List Nat, exec (.mma f) s = .next ((s.dotStarted f h (s.cutSet (s.tileCuts h pa t.extent) []) (fun d => { d with
      accs := d.accs.set (bitsOf f.imm 7 6) (s.multiply f t (s.tileCuts h pa t.extent) p (d.acc (bitsOf f.imm 7 6)))
      busy := s.now + mmaCycles f.ty t.rows p.kb
      ops := d.ops ++ [{ id := s.ids + 1, node := s.sel.2, kind := 0, acc := bitsOf f.imm 7 6, t0 := f.t0, t1 := f.t1
                         done := s.now + mmaCycles f.ty t.rows p.kb, bound := b }] })).findErrors (span pa t.extent)) :=
  fireNode_dotLater (plan := planMma f) (cs := s.tileCuts h pa t.extent)
    (op := { id := 0, node := 0, kind := 0, acc := bitsOf f.imm 7 6, done := s.now + mmaCycles f.ty t.rows p.kb })
    (g := fun d => { d.setAcc (bitsOf f.imm 7 6) (s.multiply f t (s.tileCuts h pa t.extent) p (d.acc (bitsOf f.imm 7 6))) with
      busy := s.now + mmaCycles f.ty t.rows p.kb })
    (more := (·.findErrors (span pa t.extent))) hr (by simp [ht, hp, hb, hd]) rfl (by simp only [ho, hp, hf])

theorem exec_mma_poisoned {o : Origin} (ho : h.origin = some o) :
    ∃ b : List Nat, exec (.mma f) s = .next (s.dotStarted f h [] (fun d => { d with
      accs := d.accs.set (bitsOf f.imm 7 6) { d.acc (bitsOf f.imm 7 6) with poison := List.range 1024 }
      ops := d.ops ++ [{ id := s.ids + 1, node := s.sel.2, kind := 0, acc := bitsOf f.imm 7 6, t0 := f.t0, t1 := f.t1, orig := some o
                         done := s.now, bound := b }] })) :=
  fireNode_dotLater (plan := planMma f) (cs := [])
    (op := { id := 0, node := 0, kind := 0, acc := bitsOf f.imm 7 6, orig := some o, done := s.now })
    (g := fun d => d.setAcc (bitsOf f.imm 7 6) { d.acc (bitsOf f.imm 7 6) with poison := List.range 1024 })
    (more := id) hr (by simp [ht, hp, hb, hd]) rfl (by simp only [ho])

theorem exec_mma_fault {x : XFault} (ho : h.origin = none) (hf : s.mmaFault f p (s.selDot.acc (bitsOf f.imm 7 6)) = .error x) :
    exec (.mma f) s = .next (s.raise s.sel.1
      { s.record s.sel.1 (srcNode s.sel.1 s.sel.2) x.code x.sub x.addr 0 x.info with rewinds := true }) :=
  fireNode_dotFault hr (plan := planMma f) (by simp [ht, hp, hb, hd]) rfl (by simp only [ho, hp, hf])

end

/-! ## The checks of the A tile (R169, R170) -/

theorem pairOk_iff (a b : Ty) : pairOk a b = true ↔ (a, b) ∈
    [(Ty.bf16, Ty.bf16), (.mx4, .mx4), (.mx8, .mx8), (.mx8, .mxi8), (.mxi8, .mx8), (.mxi8, .mxi8)] := by
  cases a <;> simp [pairOk]

theorem pairBad_iff (t : Tile) (f : FmtA) (p : Plane) : (t.fmt != f.ty.code || !pairOk f.ty p.fmt) = true ↔
    ¬ (t.fmt = f.ty.code ∧ (f.ty, p.fmt) ∈
      [(Ty.bf16, Ty.bf16), (.mx4, .mx4), (.mx8, .mx8), (.mx8, .mxi8), (.mxi8, .mx8), (.mxi8, .mxi8)]) := by
  rw [← pairOk_iff, not_and_or, Bool.or_eq_true, bne_iff_ne, Bool.not_eq_true', Bool.not_eq_true]

/-- ROWS of an A tile is a multiple of 8 up to 128, COLS that of the plane's K-blocks. -/
theorem shapeBad_iff (t : Tile) (p : Plane) :
    (decide (t.rows < 8) || decide (128 < t.rows) || t.rows % 8 != 0 || t.cols != 32 * p.kb) = true ↔
      ¬ (t.rows ∈ (List.range 16).map (fun k => 8 * (k + 1)) ∧ t.cols = 32 * p.kb) := by
  have hrows : t.rows ∈ (List.range 16).map (fun k => 8 * (k + 1)) ↔ ¬ (t.rows < 8 ∨ 128 < t.rows ∨ t.rows % 8 ≠ 0) := by
    simp only [List.mem_map, List.mem_range]
    constructor
    · rintro ⟨k, hk, hrow⟩
      omega
    · intro h
      exact ⟨t.rows / 8 - 1, by omega, by omega⟩
  rw [hrows, not_and_or, not_not]
  simp [or_assoc]

theorem rowsBad_iff (f : FmtA) (acc : Acc) (t : Tile) : (!f.imm.getLsbD 8 && acc.rows != 0 && acc.rows != t.rows) = true ↔
    ¬ (f.imm.getLsbD 8 = true ∨ acc.rows = 0 ∨ acc.rows = t.rows) := by
  simp [and_assoc]

section
variable {f : FmtA} {s : State} {p : Plane} {acc : Acc} {t : Tile} (ht : t = s.selTask.tile (bitsOf f.imm 5 0))
include ht

theorem mmaFault_owner (ho : t.owner ≠ s.selTask.id) : s.mmaFault f p acc = .error (xlateFault 0x45 t.base 7 .read) := by
  have hu : s.useTile s.sel.1 (bitsOf f.imm 5 0) .read = .error (xlateFault 0x45 t.base 7 .read) := by
    subst ht
    exact if_pos (bne_iff_ne.mpr ho)
  simp only [State.mmaFault, hu]

/-- The checks of a tile of the task itself that lies in its region, in their order. -/
theorem mmaFault_own {pa : Nat} (ho : t.owner = s.selTask.id) (hb : s.tileBase s.sel.1 t .read = .ok pa) : s.mmaFault f p acc =
    if t.fmt != f.ty.code || !pairOk f.ty p.fmt then .error (xlateFault 0x40 t.base 7 .read)
    else if t.rows < 8 || 128 < t.rows || t.rows % 8 != 0 || t.cols != 32 * p.kb then .error (xlateFault 0x41 t.base 7 .read)
    else if !f.imm.getLsbD 8 && acc.rows != 0 && acc.rows != t.rows then .error (xlateFault 0x42 t.base 7 .read)
    else .ok (t, pa) := by
  have hu : s.useTile s.sel.1 (bitsOf f.imm 5 0) .read = .ok (t, pa) := by
    subst ht
    exact (if_neg (fun h => bne_iff_ne.mp h ho)).trans (congrArg (Except.map _) hb)
  simp only [State.mmaFault, hu]

end

/-- Settles O20: an mma by its trigger and its tiles, and the checks of R169 and R170 in their order. -/
theorem mmaFires : Obligations.MmaFires := by
  unfold Obligations.MmaFires
  refine ⟨?_, ?_, ?_⟩
  · rintro f h s p t pa a hr rfl ht hp hb hd
    exact ⟨fun ho hf => exec_mma_clean hr ht hp hb hd ho hf, fun o ho => exec_mma_poisoned hr ht hp hb hd ho⟩
  · intro f s p acc t pa ht
    refine ⟨fun ho => mmaFault_owner ht ho, fun ho hb => ?_⟩
    simp only [mmaFault_own ht ho hb, pairBad_iff, shapeBad_iff, rowsBad_iff]
    exact ⟨fun h1 => if_pos h1, fun h1 h2 => (if_neg (not_not.mpr h1)).trans (if_pos h2),
      fun h1 h2 h3 => (if_neg (not_not.mpr h1)).trans ((if_neg (not_not.mpr h2)).trans (if_pos h3)),
      fun h1 h2 h3 => (if_neg (not_not.mpr h1)).trans ((if_neg (not_not.mpr h2)).trans (if_neg (not_not.mpr h3)))⟩
  · rintro f h s p x t hr ho rfl ht hp hb hd hf
    exact exec_mma_fault hr ht hp hb hd ho hf

end Sys2Proof.Machine
end

section
/-!
ACCESSES AT THEIR PLACES (R150 to R155): a walk leaves the ways and the requests of an access as they are, an access whose places
are at hand performs at them, and one that lies in SRAM only finds no error on its way.
-/

namespace Sys2Proof.Machine

open Sys2Proof

/-! ## What a walk leaves unchanged (R341, R344) -/

section
variable {s t : State} (h : s.walkOf t)
include h

theorem State.walkOf.wseq : t.wseq = s.wseq := by rw [h.rest]
theorem State.walkOf.full : t.full = s.full := by rw [h.rest]

theorem State.walkOf.link (m : Nat) : t.link m = s.link m := by simp only [State.link, h.links]

theorem State.walkOf.skip (d : Nat) : (t.cluster d).skip = (s.cluster d).skip := by rw [h.clus]

theorem State.walkOf.pathOpen (c pa : Nat) : t.pathOpen c pa = s.pathOpen c pa := by
  simp only [State.pathOpen, State.clusOpen, State.dieOpen, State.meshOpen, State.seamOpen, State.hubOpen, State.hubLink,
    State.farLink, h.link, h.skip, h.now]

theorem State.walkOf.farReq (c : Nat) (w : Requester) (pa : Nat) : t.farReq c w pa = s.farReq c w pa := by
  simp only [State.farReq, h.far]

theorem State.walkOf.atHand (c : Nat) (w : Requester) (pa : Nat) : t.atHand c w pa = s.atHand c w pa := by
  simp only [State.atHand, h.farReq, h.now]

theorem State.walkOf.reachFault (c : Nat) (w : Requester) (a : Word) (pa : Nat) : t.reachFault c w a pa = s.reachFault c w a pa := by
  simp only [State.reachFault, h.farReq, h.hub, h.now]

end

/-! ## An access that performs (R150, R153) -/

/-- A way whose places are open and at hand, and whose requests meet no fault, leads there. -/
theorem reach_go {s : State} {c : Nat} {w : Requester} (prio : Nat) {l : List (Word × Nat)}
    (hopen : ∀ x ∈ l, s.pathOpen c x.2 = true) (hand : ∀ x ∈ l, s.atHand c w x.2 = true)
    (hfault : ∀ x ∈ l, isFar x.2 = true → s.reachFault c w x.1 x.2 = none) : s.reach c w prio l = .go := by
  have h1 : (l.filter (fun x => isFar x.2)).findSome? (fun x => s.reachFault c w x.1 x.2) = none := by
    rw [List.findSome?_eq_none_iff]
    intro x hx
    obtain ⟨hx, hf⟩ := List.mem_filter.mp hx
    exact hfault x hx hf
  have h2 : l.all (fun x => s.pathOpen c x.2) = true := List.all_eq_true.mpr hopen
  have h3 : (l.filter (fun x => isFar x.2)).all (fun x => s.atHand c w x.2) = true :=
    List.all_eq_true.mpr (fun x hx => hand x (List.mem_filter.mp hx).1)
  simp [State.reach, h1, h2, h3]

/-- The places of an access stand among its addresses. -/
theorem mem_placed {a : Word} {pas : List Nat} {x : Word × Nat} (h : x ∈ placed a pas) : x.2 ∈ pas := by
  unfold placed at h
  obtain ⟨n, hn, rfl⟩ := List.mem_iff_getElem.mp h
  simp

/-- An access has all it needs to perform at the places `pas`, but for its turn (R150, R153). -/
structure Settles (c : Nat) (a : Access) (age : Nat) (pas : List Nat) (s : State) : Prop where
  clean : a.skip = none
  walk : s.walkOpen (s.accessSpace c a age) a.abs (accessBytes a.ins a.data) = true
  place : s.accessPlaces c a age = .ok pas
  lies : misplaced c a.ins (pas.headD 0) = false
  still : accessKind a.ins = .atomic → s.otherCopy (pas.headD 0) = none
  turn : s.paeTurn c a (pas.headD 0) = true
  way : ∀ p ∈ pas, s.pathOpen c p = true ∧ s.atHand c (.access a.id) p = true
  held : ∀ x ∈ placed a.addr pas, isFar x.2 = true → s.reachFault c (.access a.id) x.1 x.2 = none

theorem Performs.settles {c k : Nat} {a : Access} {age : Nat} {pas : List Nat} {s : State} (h : Performs c k a age pas s) :
    Settles c a age pas s := ⟨h.clean, h.walk, h.place, h.lies, h.still, h.turn, h.way, h.held⟩

theorem walkOf_accessWalked (s : State) (c : Nat) (a : Access) (age : Nat) : s.walkOf (s.accessWalked c a age) := walkOf_walked ..

/-- An access that has all it needs takes its effect at its places. -/
theorem Settles.perform {c : Nat} {a : Access} {age : Nat} {pas : List Nat} {s : State} (h : Settles c a age pas s)
    (hp : ∀ f, a.ins ≠ .pref f) : s.perform c a age = (s.arrived c a age).performAt c a pas (s.accessBound c a) age := by
  have hw := walkOf_accessWalked s c a age
  have hgo : (s.accessWalked c a age).reach c (.access a.id) (s.taskOf c).eprio (placed a.addr pas) = .go :=
    reach_go _ (fun x hx => by rw [hw.pathOpen]; exact (h.way _ (mem_placed hx)).1)
      (fun x hx => by rw [hw.atHand]; exact (h.way _ (mem_placed hx)).2)
      (fun x hx hf => by rw [hw.reachFault]; exact h.held x hx hf)
  have hstill : ¬ ((accessKind a.ins = .atomic ∧ (s.otherCopy (pas.headD 0)).isSome) ∨ s.paeTurn c a (pas.headD 0) = false) := by
    rintro (⟨hk, ho⟩ | ht)
    · rw [h.still hk] at ho; cases ho
    · rw [h.turn] at ht; cases ht
  unfold State.perform
  split
  case h_4 => exact absurd ‹_› (hp _)
  case h_5 =>
    simp only [h.walk, h.place, h.lies, hgo, State.arrived, Bool.not_true, Bool.false_eq_true, if_false]
    rw [if_neg hstill]
  all_goals simp_all [h.clean]

/-- The event of an access whose turn has come, which no copy and no freeze holds up, runs it. -/
theorem exec_memoryAccessPerform {c k : Nat} {a : Access} (age : Nat) {s : State} (hm : s.mayPerform c k = some a)
    (ha : s.mirrored c = false) (hf : s.frozenPark c a = false) :
    exec (.memoryAccessPerform c k age) s = .next (s.runAccess c a age) := by
  show execMemoryAccessPerform c k age s = _
  simp [execMemoryAccessPerform, hm, ha, hf]

theorem Performs.exec {c k : Nat} {a : Access} {age : Nat} {pas : List Nat} {s : State} (h : Performs c k a age pas s) :
    exec (.memoryAccessPerform c k age) s = .next (s.runAccess c a age) := exec_memoryAccessPerform age h.may h.alone h.unheld

/-- What ran to its end delivers its tokens. -/
theorem runAccess_done {s t : State} {c : Nat} {a : Access} {age : Nat} {t0 : Option Token} {t1 : Token} {b : List Nat}
    (h : s.perform c a age = .done t t0 t1 b) : s.runAccess c a age = (t.noteWrites s (s.taskIdOf c)).finishAccess c a t0 t1 b := by
  simp only [State.runAccess, h]

/-- What must wait at its home, and does not stand there yet, parks. -/
theorem runAccess_park {s : State} {c : Nat} {a : Access} {age : Nat} (h : s.perform c a age = .park) (hp : a.parked = none) :
    s.runAccess c a age = s.park c a := by
  simp [State.runAccess, h, hp]

/-- An access that may perform is not parked, nor does it wait to try again. -/
theorem mayPerform_some {s : State} {c k : Nat} {a : Access} (h : s.mayPerform c k = some a) :
    (s.region c).accesses.find? (fun a => a.id == k) = some a ∧ a.parked = none ∧ a.retry = none := by
  unfold State.mayPerform at h
  split at h
  · cases h
  · rename_i b hb
    split at h
    · rename_i hc
      simp only [Bool.and_eq_true, Option.isNone_iff_eq_none] at hc
      cases h
      exact ⟨hb, hc.1.1.2, hc.1.2⟩
    · cases h

/-- Where no write was made, none is noted. -/
theorem noteWrites_same {s t : State} (n : Nat) (h : t.wseq = s.wseq) : t.noteWrites s n = t := by simp [State.noteWrites, h]

theorem sameMem_noteWrites (s t : State) (n : Nat) : t.sameMem (t.noteWrites s n) := by
  unfold State.noteWrites
  split
  · exact .refl t
  · exact sameMem_modTask ..

/-- Delivering the tokens of an access touches no memory. -/
theorem sameMem_finishAccess (s : State) (c : Nat) (a : Access) (t0 : Option Token) (t1 : Token) (b : List Nat) :
    s.sameMem (s.finishAccess c a t0 t1 b) := by
  have hdrop : s.sameMem ((if irrevocable a.ins && a.skip.isNone then s.irrevoke c else s).dropAccess c a.id) := by
    refine State.sameMem.trans ?_ (sameMem_modRegion ..)
    split
    · exact sameMem_modTaskOf ..
    · exact .refl s
  unfold State.finishAccess
  dsimp only
  split
  · exact hdrop.trans (sameMem_modRegion ..)
  · exact hdrop.trans (sameMem_modRegion ..)

/-! ## Walks that end at a leaf (R341, R382) -/

/-- A read of bytes without an error finds none. -/
theorem findErrors_clean {s : State} {pas : List Nat} (h : ∀ p ∈ pas, s.damaged p = false) : s.findErrors pas = s := by
  have hf : pas.filter s.damaged = [] := List.filter_eq_nil_iff.mpr (fun p hp => by simp [h p hp])
  simp [State.findErrors, hf]

theorem damaged_of_unmarked {s : State} {p : Nat} (h : s.marked p = false) : s.damaged p = false := by
  simp only [State.marked, Bool.or_eq_false_iff] at h
  exact h.2

/-- A C64 group without a mark has no error in its line. -/
theorem damaged_of_groupMarked {s : State} {ln p : Nat} (h : s.groupMarked (ln * 128) = false) (hp : p ∈ span (ln * 128) 128) :
    s.damaged p = false := by
  obtain ⟨j, hj, rfl⟩ := List.mem_map.mp hp
  have hj := List.mem_range.mp hj
  have hm := List.any_eq_false.mp h (j / 32) (List.mem_range.mpr (by omega))
  have hsec : sectorOf (ln * 128 + 32 * (j / 32)) = sectorOf (ln * 128 + j) := by simp only [sectorOf]; omega
  refine damaged_of_unmarked ?_
  simpa only [State.marked, State.damaged, hsec, Bool.not_eq_true] using hm

/-- A walk that ends at a leaf has met no error. -/
theorem walkReads_clean {s : State} {sp : Space} {a : Word} {k : AccKind} {l : Leaf} :
    ∀ {lvl t : Nat}, s.leafFrom sp a k t lvl = .ok l → ∀ p ∈ s.walkReads sp a t lvl, s.damaged p = false := by
  intro lvl
  induction lvl with
  | zero =>
    intro t h p hp
    rw [State.leafFrom] at h
    rw [State.walkReads] at hp
    grind [damaged_of_unmarked, damaged_of_groupMarked, State.pte]
  | succ n ih =>
    intro t h p hp
    rw [State.leafFrom] at h
    rw [State.walkReads] at hp
    grind [damaged_of_unmarked, damaged_of_groupMarked, State.pte]

/-- A walk that ends at a leaf has walked from a root of the tables. -/
theorem walk_ok {s : State} {sp : Space} {a : Word} {k : AccKind} {e : TlbEntry} (h : s.walk sp a k = .ok e) :
    rangeOf sp.root = some 0 ∧ ∃ l, s.leafFrom sp a k sp.root 4 = .ok l ∧ e = l.entry sp.asid a := by
  unfold State.walk State.leaf at h
  split at h
  · cases h
  · rename_i hroot
    refine ⟨by simpa using hroot, ?_⟩
    cases hl : s.leafFrom sp a k sp.root 4 with
    | error x => rw [hl] at h; cases h
    | ok l => rw [hl] at h; cases h; exact ⟨l, rfl, rfl⟩

/-- An address that translates lies in scratchpad, or stands in the TLB, or a walk has found its leaf. -/
theorem xlateRaw_ok {s : State} {sp : Space} {a : Word} {k : AccKind} {pa : Nat} {fill : Option TlbEntry}
    (h : s.xlateRaw sp a k = .ok (pa, fill)) :
    2 ≤ bitsOf a 63 56 ∧ fill = none ∨
    bitsOf a 63 56 < 2 ∧ (∃ e, s.tlbHit sp.clus sp.asid a = some e ∧ pa = e.pa + a.toNat % 2 ^ e.log) ∧ fill = none ∨
    bitsOf a 63 56 < 2 ∧ s.tlbHit sp.clus sp.asid a = none ∧ ∃ e, s.walk sp a k = .ok e ∧ pa = e.pa + a.toNat % 2 ^ e.log ∧ fill = some e := by
  unfold State.xlateRaw at h
  dsimp only at h
  split at h
  · rename_i htop
    cases hs : s.sram sp a k with
    | error x => rw [hs] at h; cases h
    | ok q => rw [hs] at h; cases h; exact .inl ⟨by omega, rfl⟩
  · split at h
    · cases h
    · refine .inr ?_
      have hlow : bitsOf a 63 56 < 2 := by omega
      split at h
      · rename_i e he
        split at h
        · cases h
        · cases h; exact .inl ⟨hlow, ⟨e, he, rfl⟩, rfl⟩
      · rename_i he
        split at h
        · cases h
        · rename_i e hw
          split at h
          · cases h
          · cases h; exact .inr ⟨hlow, he, e, hw, rfl, rfl⟩

/-- The translation of an address that translates marks nothing. -/
theorem walked1_finds_nothing {s : State} {sp : Space} {a : Word} {k : AccKind} {r : Nat × Option TlbEntry}
    (h : s.xlateRaw sp a k = .ok r) : (s.walked1 sp a k).marks = s.marks ∧ (s.walked1 sp a k).ecc = s.ecc := by
  unfold State.walked1
  split
  · exact ⟨rfl, rfl⟩
  · rename_i hc
    simp only [Bool.or_eq_true, decide_eq_true_eq, not_or, Bool.not_eq_true, Option.isSome_eq_false_iff, Option.isNone_iff_eq_none] at hc
    rcases xlateRaw_ok h with ⟨h2, -⟩ | ⟨-, ⟨e, he, -⟩, -⟩ | ⟨-, -, e, hw, -⟩
    · exact absurd h2 hc.1.1
    · rw [hc.1.2] at he; cases he
    · obtain ⟨-, l, hl, -⟩ := walk_ok hw
      simp only [findErrors_clean (walkReads_clean hl), hw]
      split <;> exact ⟨rfl, rfl⟩

/-- The translation of an address that lies in scratchpad leaves everything as it is: no leaf names a place there. -/
theorem walked1_sram {s : State} {sp : Space} {a : Word} {k : AccKind} {pa : Nat} {fill : Option TlbEntry}
    (h : s.xlateRaw sp a k = .ok (pa, fill)) (hs : isSram pa = true) : s.walked1 sp a k = s := by
  unfold State.walked1
  rcases xlateRaw_ok h with ⟨h2, -⟩ | ⟨-, ⟨e, he, -⟩, -⟩ | ⟨h2, -, e, hw, hpa, -⟩
  · simp [h2]
  · simp [he]
  · exfalso
    obtain ⟨-, l, -, rfl⟩ := walk_ok hw
    have htop : a.toNat / 2 ^ 56 < 2 := by
      have := a.isLt
      simp only [bitsOf] at h2
      omega
    have hoff : a.toNat % 2 ^ (l.entry sp.asid a).log ≤ a.toNat := Nat.mod_le ..
    have hbase : (l.entry sp.asid a).pa ≤ ptePa l.e := Nat.div_mul_le_self ..
    have hpte : ptePa l.e ≤ (2 ^ 36 - 1) * 4096 := Nat.mul_le_mul_right _ (by have := Nat.mod_lt (l.e / 4096) (y := 2 ^ 36) (by decide); omega)
    have hsram : 0xFE00000000000000 ≤ pa := of_decide_eq_true hs
    omega

/-! ## The places of an access -/

/-- Each byte of an access that translates has the place of its own translation. -/
theorem accessPlaces_ok {s : State} {c : Nat} {a : Access} {age : Nat} {pas : List Nat} (h : s.accessPlaces c a age = .ok pas) :
    List.Forall₂ (fun j pa => ∃ fill, s.xlateRaw (s.accessSpace c a age) (a.abs + BitVec.ofNat 64 j) (accessKind a.ins) = .ok (pa, fill))
      (List.range (accessBytes a.ins a.data)) pas := by
  have hx : s.xlateBytes (s.accessSpace c a age) a.abs (accessBytes a.ins a.data) (accessKind a.ins) = .ok pas := by
    unfold State.accessPlaces at h
    cases hb : s.xlateBytes (s.accessSpace c a age) a.abs (accessBytes a.ins a.data) (accessKind a.ins) with
    | error x => rw [hb] at h; cases h
    | ok l => rw [hb] at h; cases h; rfl
  clear h
  unfold State.xlateBytes at hx
  generalize List.range (accessBytes a.ins a.data) = js at hx ⊢
  induction js generalizing pas with
  | nil => cases hx; exact .nil
  | cons j js ih =>
    rw [List.foldr_cons] at hx
    split at hx
    · cases hx
    · rename_i pa fill hj
      cases hr : js.foldr _ (Except.ok []) with
      | error x => rw [hr] at hx; cases hx
      | ok l => rw [hr] at hx; cases hx; exact .cons ⟨fill, hj⟩ (ih hr)

/-- The place of byte j of an access is that of its translation. -/
theorem accessPlaces_getD {s : State} {c : Nat} {a : Access} {age : Nat} {pas : List Nat} (h : s.accessPlaces c a age = .ok pas)
    {j : Nat} (hj : j < accessBytes a.ins a.data) : ∃ fill,
    s.xlateRaw (s.accessSpace c a age) (a.abs + BitVec.ofNat 64 j) (accessKind a.ins) = .ok (pas.getD j 0, fill) := by
  have hall := accessPlaces_ok h
  have hlen := hall.length_eq
  rw [List.length_range] at hlen
  have hr : j < (List.range (accessBytes a.ins a.data)).length := by rwa [List.length_range]
  have hget := hall.get hr (hlen ▸ hj)
  rw [List.getD_eq_getElem _ _ (by omega)]
  simpa using hget

/-- A run of up to a page of bytes begins in one page and ends there or in the next, which begins at one of its bytes. -/
theorem pageStarts_short (a : Word) {n : Nat} (h : n ≤ 4096) :
    pageStarts a n = [] ∨ 0 < n ∧ (pageStarts a n = [a] ∨ ∃ j < n, pageStarts a n = [a, a + BitVec.ofNat 64 j]) := by
  unfold pageStarts
  split
  · exact .inl rfl
  · refine .inr ⟨by omega, ?_⟩
    by_cases hc : a.toNat % 4096 + n ≤ 4096
    · have h0 : (a.toNat % 4096 + n - 1) / 4096 = 0 := by omega
      exact .inl (by simp [h0])
    · have h1 : (a.toNat % 4096 + n - 1) / 4096 = 1 := by omega
      refine .inr ⟨4096 - a.toNat % 4096, by omega, ?_⟩
      have hj : BitVec.ofNat 64 ((a.toNat / 4096 + 1) * 4096) = a + BitVec.ofNat 64 (4096 - a.toNat % 4096) := by
        apply BitVec.eq_of_toNat_eq
        simp only [BitVec.toNat_add, BitVec.toNat_ofNat]
        omega
      simp [h1, hj]

theorem sizeBytes_le (b : BitVec 3) : sizeBytes b.toNat ≤ 128 := by
  revert b
  decide

/-- An access to SRAM only takes a line at most. -/
theorem accessBytes_sramOnly {i : Instr} (d : Option Token) (h : sramOnly i = true) : accessBytes i d ≤ 128 := by
  unfold accessBytes
  split
  · cases h
  · decide
  · decide
  · exact sizeBytes_le _

/-- The translation of an access to SRAM only marks nothing: its first byte lies in scratchpad, and where its second page is
walked, the walk ends at a leaf. -/
theorem accessWalked_finds_nothing {s : State} {c : Nat} {a : Access} {age : Nat} {pas : List Nat}
    (hp : s.accessPlaces c a age = .ok pas) (hm : misplaced c a.ins (pas.headD 0) = false) (ho : sramOnly a.ins = true) :
    (s.accessWalked c a age).marks = s.marks ∧ (s.accessWalked c a age).ecc = s.ecc := by
  have hb := accessBytes_sramOnly a.data ho
  unfold State.accessWalked State.walked
  rcases pageStarts_short a.abs (hb.trans (by decide)) with e | ⟨hpos, hs⟩
  · rw [e]; exact ⟨rfl, rfl⟩
  · have hfirst : s.walked1 (s.accessSpace c a age) a.abs (accessKind a.ins) = s := by
      obtain ⟨fill, h0⟩ := accessPlaces_getD hp hpos
      rw [BitVec.add_zero] at h0
      simp only [misplaced, ho, Bool.true_and, Bool.or_eq_false_iff, Bool.not_eq_false'] at hm
      exact walked1_sram h0 (by cases pas <;> exact hm.1)
    rcases hs with e | ⟨j, hj, e⟩
    · rw [e, List.foldl_cons, hfirst]; exact ⟨rfl, rfl⟩
    · obtain ⟨fill, hx⟩ := accessPlaces_getD hp hj
      rw [e, List.foldl_cons, hfirst]
      exact walked1_finds_nothing hx

end Sys2Proof.Machine
end

section
/-!
FULL AND EMPTY LINES (R158, R160, R262, R269): how far the reads of an access go back, what a store at both copies of a page writes,
what sets the state of a line, and the line instructions that perform.
-/

namespace Sys2Proof.Machine

open Sys2Proof

/-! ## The state in which an access performs -/

section
variable (s : State) (c : Nat) (a : Access) (age : Nat)
theorem arrived_mem : (s.arrived c a age).mem = s.mem := by
  rw [State.arrived, reached_only]; exact (walkOf_accessWalked s c a age).mem
theorem arrived_full : (s.arrived c a age).full = s.full := by
  rw [State.arrived, reached_only]; exact (walkOf_accessWalked s c a age).full
theorem arrived_hist : (s.arrived c a age).hist = s.hist := by
  rw [State.arrived, reached_only]; exact (walkOf_accessWalked s c a age).hist
theorem arrived_wseq : (s.arrived c a age).wseq = s.wseq := by
  rw [State.arrived, reached_only]; exact (walkOf_accessWalked s c a age).wseq
theorem arrived_now : (s.arrived c a age).now = s.now := by
  rw [State.arrived, reached_only]; exact (walkOf_accessWalked s c a age).now
theorem arrived_hub : (s.arrived c a age).hub = s.hub := by
  rw [State.arrived, reached_only]; exact (walkOf_accessWalked s c a age).hub
theorem arrived_marks : (s.arrived c a age).marks = (s.accessWalked c a age).marks := by rw [State.arrived, reached_only]
theorem arrived_ecc : (s.arrived c a age).ecc = (s.accessWalked c a age).ecc := by rw [State.arrived, reached_only]
theorem arrived_region (d : Nat) : (s.arrived c a age).region d = s.region d := by
  rw [State.arrived, reached_only]; exact (walkOf_accessWalked s c a age).region d
theorem arrived_otherCopy (p : Nat) : (s.arrived c a age).otherCopy p = s.otherCopy p := by simp only [State.otherCopy, arrived_hub]
end

/-! ## Reads (R157, R262) -/

theorem mem_union {l m : List Nat} {x : Nat} : x ∈ union l m ↔ x ∈ l ∨ x ∈ m := by
  simp only [union, List.mem_append, List.mem_filter, Bool.not_eq_true']
  by_cases h : x ∈ l <;> simp [h]

theorem cuts_fst (s : State) (lag : Nat) (bound : List Nat) (whole : Bool) (pas : List Nat) :
    (s.cuts lag bound whole pas).map (·.1) = pas := by
  simp [State.cuts, Function.comp_def]

/-- A read that goes up to the last write reads memory as it stands. -/
theorem byteAt_last {s : State} (h : s.histOk) (p : Nat) : s.byteAt s.wseq p = Memory.read s.mem p := by
  have hnone : s.hist.takeWhile (fun w => decide (s.wseq < w.seq)) = [] := by
    cases hh : s.hist with
    | nil => rfl
    | cons w l =>
      have hw := h.2 w (hh ▸ List.mem_cons_self)
      simp [hw]
  simp [State.byteAt, hnone]

/-- A read that looks back at no write reads memory as it stands. -/
theorem cutBytes_zero {s : State} (h : s.histOk) (bound : List Nat) (whole : Bool) (pas : List Nat) :
    s.cutBytes (s.cuts 0 bound whole pas) = pas.map (Memory.read s.mem) := by
  simp [State.cutBytes, State.cuts, State.cutOf, byteAt_last h]

/-- A read of a byte misses no write of it that its reader is bound to. -/
theorem cutOf_bound {s : State} (h : s.histOk) {lag : Nat} {bound : List Nat} {whole : Bool} {pas : List Nat} {w : WriteRec} {p : Nat}
    (hw : w ∈ s.hist) (hb : w.seq ∈ bound) (hp : w.writes p = true) : w.seq ≤ s.cutOf lag bound whole pas p := by
  have hlast := h.2 w hw
  have hat : w.seq ≤ s.cutAt lag bound p := by
    unfold State.cutAt
    dsimp only
    split
    · exact hlast
    · rename_i hm
      by_contra hlt
      refine hm (List.any_eq_true.mpr ⟨w, hw, ?_⟩)
      simp [hb, hp, Nat.lt_of_not_le hlt, -Nat.reducePow]
  unfold State.cutOf
  split
  · exact hlast
  · split
    · exact hlast
    · exact hat

/-- A read at its places misses no write of them that its reader is bound to. -/
theorem cuts_bound {s : State} (h : s.histOk) {lag : Nat} {bound : List Nat} {whole : Bool} {pas : List Nat} {w : WriteRec}
    {x : Nat × Nat} (hw : w ∈ s.hist) (hb : w.seq ∈ bound) (hx : x ∈ s.cuts lag bound whole pas) (hp : w.writes x.1 = true) :
    w.seq ≤ x.2 := by
  obtain ⟨p, -, rfl⟩ := List.mem_map.mp hx
  exact cutOf_bound h hw hb hp

/-- A completion token is poisoned by a poisoned predicate only. -/
theorem accessDone_eq (a : Access) : accessDone a = ctlOr true a.poison := by
  unfold accessDone ctlOr
  cases a.poison <;> rfl

section
variable {s t : State}

theorem cutBytes_congr (hm : t.mem = s.mem) (hh : t.hist = s.hist) (cs : List (Nat × Nat)) : t.cutBytes cs = s.cutBytes cs := by
  simp only [State.cutBytes, State.byteAt, hm, hh]

theorem damaged_congr (he : t.ecc = s.ecc) : t.damaged = s.damaged := funext (fun p => by simp only [State.damaged, he])

theorem cutMarked_congr (hm : t.marks = s.marks) (he : t.ecc = s.ecc) (hh : t.hist = s.hist) (cs : List (Nat × Nat)) :
    t.cutMarked cs = s.cutMarked cs := by
  simp only [State.cutMarked, State.markAt, State.marked, State.damaged, hm, he, hh]

end

/-! ## Stores (R158, R354) -/

theorem mirrorPlace_some {s : State} {p q : Nat} (h : s.mirrorPlace p = some q) : s.otherCopy p = some q := by
  unfold State.mirrorPlace at h
  split at h
  · split at h
    · cases h; assumption
    · cases h
  · cases h

/-- A store changes the bytes of its places and of their other copies only. -/
theorem read_storeAll_ne {s : State} {bs : List PByte} {at_ bw : Bool} {r : Option Release} {w : Option Nat} {x : Nat}
    (h : ∀ b ∈ bs, b.addr ≠ x ∧ s.otherCopy b.addr ≠ some x) :
    Memory.read (s.storeAll bs at_ r w bw).mem x = Memory.read s.mem x := by
  refine read_store_ne s _ at_ r w x (fun b hb => ?_)
  rcases List.mem_append.mp hb with hb | hb
  · exact (h b hb).1
  · obtain ⟨b', hb', e⟩ := List.mem_filterMap.mp hb
    obtain ⟨q, hq, rfl⟩ := Option.map_eq_some_iff.mp e
    exact fun hx => (h b' hb').2 (hx ▸ mirrorPlace_some hq)

/-- Bytes written elsewhere leave an address alone. -/
theorem read_writes_ne {bs : List PByte} {m : List Host.Cell} {x : Nat} (h : ∀ b ∈ bs, b.addr ≠ x) :
    Memory.read (bs.foldl (fun m b => Memory.write m b.addr b.val) m) x = Memory.read m x := by
  induction bs generalizing m with
  | nil => rfl
  | cons b t ih =>
    rw [List.foldl_cons, ih (fun y hy => h y (List.mem_cons_of_mem _ hy))]
    exact Memory.read_write_ne m _ (h b List.mem_cons_self)

/-- Bytes written to places that are all different read back. -/
theorem read_writes {bs : List PByte} {m : List Host.Cell} (hm : Memory.wf m = true) (hn : (bs.map (·.addr)).Nodup) {b : PByte}
    (hb : b ∈ bs) : Memory.read (bs.foldl (fun m b => Memory.write m b.addr b.val) m) b.addr = b.val := by
  induction bs generalizing m with
  | nil => cases hb
  | cons d t ih =>
    obtain ⟨hd, ht⟩ := List.nodup_cons.mp hn
    rw [List.foldl_cons]
    rcases List.mem_cons.mp hb with rfl | hb
    · rw [read_writes_ne (fun x hx e => hd (List.mem_map.mpr ⟨x, hx, e⟩))]
      exact Memory.read_write b.addr b.val hm
    · exact ih (Memory.wf_write m _ _ hm) ht hb

/-- A store to places without another copy writes each byte at its place. -/
theorem read_storeAll {s : State} {bs : List PByte} {at_ bw : Bool} {r : Option Release} {w : Option Nat} (hm : s.memOk)
    (hn : (bs.map (·.addr)).Nodup) (ho : ∀ b ∈ bs, s.otherCopy b.addr = none) {b : PByte} (hb : b ∈ bs) :
    Memory.read (s.storeAll bs at_ r w bw).mem b.addr = b.val := by
  have hmir : bs.filterMap (fun b => (s.mirrorPlace b.addr).map (fun pa => { b with addr := pa })) = [] := by
    refine List.filterMap_eq_nil_iff.mpr (fun b hb => ?_)
    simp [State.mirrorPlace, ho b hb]
  unfold State.storeAll
  rw [hmir, List.append_nil]
  exact read_writes hm hn hb

theorem tokBytes_addr (pas : List Nat) (t : Option Token) : (tokBytes pas t).map (·.addr) = pas :=
  List.ext_getElem (by simp [tokBytes]) (fun _ _ _ => by simp [tokBytes])

/-- Byte j of a token goes to place j. -/
theorem mem_tokBytes {pas : List Nat} {t : Option Token} {j : Nat} (hj : j < pas.length) :
    ∃ b ∈ tokBytes pas t, b.addr = pas.getD j 0 ∧
      b.val = BitVec.ofNat 8 ((payloadOf (t.getD (.ctl false false 0))).toNat / 2 ^ (8 * j)) := by
  have hl : j < (tokBytes pas t).length := by simp [tokBytes, hj]
  refine ⟨(tokBytes pas t)[j], List.getElem_mem hl, ?_, ?_⟩
  · simp [tokBytes, hj]
  · have hpow : 256 ^ j = 2 ^ (8 * j) := by rw [Nat.pow_mul]
    have hpay : (t.map payloadOf).getD 0 = payloadOf (t.getD (.ctl false false 0)) := by cases t <;> rfl
    simp only [tokBytes, List.getElem_zipWith, List.getElem_range, hpay, hpow]

/-! ## The state of a line (R160) -/

theorem mem_insert {l : List Nat} {k x : Nat} : x ∈ NSet.insert l k ↔ x = k ∨ x ∈ l := by
  induction l with
  | nil => simp [NSet.insert]
  | cons j t ih =>
    unfold NSet.insert
    split
    · simp
    · split
      · rename_i h; simp [h]
      · simp only [List.mem_cons, ih]; tauto

theorem setLine_full_self (s : State) (p : Nat) (f : Bool) (r : Option Release) : p / 128 ∈ (s.setLine p f r).full ↔ f = true := by
  cases f <;> simp [State.setLine, mem_insert, NSet.erase]

theorem setLine_full_ne (s : State) {p l : Nat} (f : Bool) (r : Option Release) (h : l ≠ p / 128) :
    l ∈ (s.setLine p f r).full ↔ l ∈ s.full := by
  cases f <;> simp [State.setLine, mem_insert, NSet.erase, h]

/-! ## Line instructions (R160, R269) -/

section
variable {c age : Nat} {a : Access} {pas : List Nat} {s : State} {f : FmtM} (h : Settles c a age pas s)
include h

theorem Settles.ldfe_empty (hi : a.ins = .ldfe f) (hl : pas.headD 0 / 128 ∉ s.full) : s.perform c a age = .park := by
  rw [h.perform (by simp [hi])]
  simp only [State.performAt, State.performLine, hi, State.lineFull, arrived_full]
  simp [hl, -List.headD_eq_head?_getD]

theorem Settles.stfe_full (hi : a.ins = .stfe f) (ho : f.ord = 3) (hl : pas.headD 0 / 128 ∈ s.full) : s.perform c a age = .park := by
  rw [h.perform (by simp [hi])]
  have hf : memFmt (.stfe f) = f := rfl
  simp only [State.performAt, State.performLine, hi, State.lineFull, arrived_full, hf]
  simp [hl, ho, -List.headD_eq_head?_getD]

/-- An ldfe at a full line reads what its choices leave, and with OR = 3 empties the line. -/
theorem Settles.ldfe_full (hi : a.ins = .ldfe f) (hh : s.histOk) (hl : pas.headD 0 / 128 ∈ s.full) :
    ∃ (t : State) (cs : List (Nat × Nat)) (bound : List Nat), s.perform c a age = .done t
        (some (loadTok f.sz.toNat (s.cutBytes cs)
          (if s.cutMarked cs then some (originOf c a.node (if pas.any s.damaged then 1 else 2) s.now) else a.poison)))
        (ctlOr true a.poison) bound ∧
      t.wseq = s.wseq ∧ cs.map (·.1) = pas ∧ (age = 0 → s.cutBytes cs = pas.map (Memory.read s.mem)) ∧
      (∀ w ∈ s.hist, w.seq ∈ s.accessBound c a → ∀ x ∈ cs, w.writes x.1 = true → w.seq ≤ x.2) ∧
      t.mem = s.mem ∧ t.full = (if f.ord = 3 then s.full.filter (· ≠ pas.headD 0 / 128) else s.full) := by
  obtain ⟨hmarks, hecc⟩ := accessWalked_finds_nothing h.place h.lies (by simp [hi, sramOnly])
  have hf : memFmt (.ldfe f) = f := rfl
  have hhist : (s.arrived c a age).histOk := by
    simpa only [State.histOk, arrived_hist, arrived_wseq] using hh
  have hbytes := cutBytes_congr (arrived_mem s c a age) (arrived_hist s c a age)
  have hmarked := cutMarked_congr ((arrived_marks s c a age).trans hmarks) ((arrived_ecc s c a age).trans hecc) (arrived_hist s c a age)
  have hdam := damaged_congr ((arrived_ecc s c a age).trans hecc)
  rw [h.perform (by simp [hi])]
  simp only [State.performAt, State.performLine, hi, State.lineFull, arrived_full, hf, State.readOrigin, hbytes, hmarked, hdam,
    arrived_now, accessDone_eq]
  rw [if_neg (by simp [hl, -List.headD_eq_head?_getD])]
  refine ⟨_, _, _, rfl, ?_, cuts_fst .., ?_, ?_, ?_, ?_⟩
  · rw [findErrors_wseq]; split <;> exact arrived_wseq ..
  · rintro rfl
    rw [← hbytes, cutBytes_zero hhist, arrived_mem]
  · intro w hw hb x hx hwr
    exact cuts_bound hhist (by rwa [arrived_hist]) (mem_union.mpr (.inl hb)) hx hwr
  · rw [findErrors_mem]; split <;> exact arrived_mem ..
  · rw [findErrors_full]
    split
    · simp only [State.setLine, Bool.false_eq_true, if_false, NSet.erase, arrived_full]
      exact List.filter_congr (fun x _ => by rw [bne, beq_eq_decide, decide_not])
    · exact arrived_full ..

/-- An stfe that does not wait writes its bytes at both copies and fills its line. -/
theorem Settles.stfe (hi : a.ins = .stfe f) (hl : ¬ (f.ord = 3 ∧ pas.headD 0 / 128 ∈ s.full)) :
    ∃ (r r' : Option Release) (t1 : Token) (b : List Nat), s.perform c a age =
      .done (((s.arrived c a age).storeAll (tokBytes pas a.data) false r).setLine (pas.headD 0) true r') none t1 b := by
  have hf : memFmt (.stfe f) = f := rfl
  rw [h.perform (by simp [hi])]
  simp only [State.performAt, State.performLine, hi, State.lineFull, arrived_full, hf]
  rw [if_neg (by simpa using hl)]
  exact ⟨_, _, _, _, rfl⟩

/-- lnful and lnemp set the state of their line. -/
theorem Settles.setLine (hi : a.ins = .lnful f ∨ a.ins = .lnemp f) : ∃ (r : Option Release) (t1 : Token) (b : List Nat) (on : Bool),
    (on = true ↔ a.ins = .lnful f) ∧ s.perform c a age = .done ((s.arrived c a age).setLine (pas.headD 0) on r) none t1 b := by
  rcases hi with hi | hi
  · rw [h.perform (by simp [hi])]
    simp only [State.performAt, State.performLine, hi]
    exact ⟨_, _, _, true, by simp, rfl⟩
  · rw [h.perform (by simp [hi])]
    simp only [State.performAt, State.performLine, hi]
    exact ⟨_, _, _, false, by simp, rfl⟩

end

/-- A request that waits keeps its number, its word and its data, and stands parked or tries again in 16 cycles. -/
theorem park_shape (s : State) (c : Nat) (a : Access) : ∃ a1 : Access, (a1.parked.isSome ∨ a1.retry = some (s.now + 16)) ∧
    a1.id = a.id ∧ a1.ins = a.ins ∧ a1.data = a.data ∧ s.park c a = { s with arrivals := s.arrivals + 1 }.modRegion c (fun r =>
      { r with accesses := r.accesses.map (fun (x : Access) => if x.id = a.id then a1 else x) }) := by
  obtain ⟨room, he⟩ : ∃ room : Bool, s.park c a = { s with arrivals := s.arrivals + 1 }.modRegion c (fun r =>
      { r with accesses := r.accesses.map (fun (x : Access) => if x.id = a.id then
        (if room then { a with parked := some (s.arrivals + 1), retry := none } else { a with parked := none, retry := some (s.now + 16) })
        else x) }) := ⟨_, rfl⟩
  cases room
  · exact ⟨{ a with parked := none, retry := some (s.now + 16) }, .inr rfl, rfl, rfl, rfl, he⟩
  · exact ⟨{ a with parked := some (s.arrivals + 1), retry := none }, .inl rfl, rfl, rfl, rfl, he⟩

/-- What an access that ran to its end leaves of memory and of the lines. -/
theorem runAccess_sameMem {s t : State} {c : Nat} {a : Access} {age : Nat} {t0 : Option Token} {t1 : Token} {b : List Nat}
    (h : s.perform c a age = .done t t0 t1 b) : t.sameMem (s.runAccess c a age) := by
  rw [runAccess_done h]
  exact (sameMem_noteWrites ..).trans (sameMem_finishAccess ..)

/-- Settles O31: an access to one line of scratchpad, whose way there finds no error. -/
theorem lineInstructionsPerform : Obligations.LineInstructionsPerform := by
  intro c k age a f pas s h hh ln
  have hset := h.settles
  obtain ⟨-, hparked, -⟩ := mayPerform_some h.may
  refine ⟨fun hi hl => ?_, fun hi hl => ?_, fun hi ho hl => ?_, fun hi hl => ?_, fun hi => ?_⟩
  · obtain ⟨a1, hw, hid, hins, -, he⟩ := park_shape s c a
    exact ⟨a1, hw, hid, hins, by rw [h.exec, runAccess_park (hset.ldfe_empty hi hl) hparked, he]⟩
  · obtain ⟨t, cs, b, hp, hseq, hfst, hzero, hbound, hmem, hfull⟩ := hset.ldfe_full hi hh hl
    exact ⟨t, cs, b, by rw [h.exec, runAccess_done hp, noteWrites_same _ hseq], hfst, hzero, hbound, hmem, hfull⟩
  · obtain ⟨a1, hw, hid, hins, hdata, he⟩ := park_shape s c a
    exact ⟨a1, hw, hid, hins, hdata, by rw [h.exec, runAccess_park (hset.stfe_full hi ho hl) hparked, he]⟩
  · obtain ⟨r, r', t1, b, hp⟩ := hset.stfe hi hl
    obtain ⟨hmem, -, -, hfull, -⟩ := runAccess_sameMem hp
    refine ⟨_, h.exec, ?_, fun l hne => ?_, fun x hx => ?_, fun hm hn ho j hj => ?_⟩
    · rw [hfull]; exact (setLine_full_self ..).mpr rfl
    · rw [hfull, setLine_full_ne _ _ _ hne]
      exact iff_of_eq (congrArg (l ∈ ·) (arrived_full ..))
    · rw [hmem, setLine_mem, read_storeAll_ne, arrived_mem]
      intro b hb
      have hp : b.addr ∈ pas := tokBytes_addr pas a.data ▸ List.mem_map_of_mem hb
      rw [arrived_otherCopy]
      exact hx _ hp
    · obtain ⟨b, hb, haddr, hval⟩ := mem_tokBytes (t := a.data) hj
      rw [hmem, setLine_mem, ← haddr, read_storeAll _ _ _ hb, hval]
      · rwa [State.memOk, arrived_mem]
      · rwa [tokBytes_addr]
      · intro d hd
        rw [arrived_otherCopy]
        exact ho _ (tokBytes_addr pas a.data ▸ List.mem_map_of_mem hd)
  · obtain ⟨r, t1, b, on, hon, hp⟩ := hset.setLine hi
    obtain ⟨hmem, -, -, hfull, -⟩ := runAccess_sameMem hp
    refine ⟨_, h.exec, ?_, ?_, fun l hne => ?_⟩
    · rw [hmem, setLine_mem, arrived_mem]
    · rw [hfull, setLine_full_self, hon]
    · rw [hfull, setLine_full_ne _ _ _ hne, arrived_full]

end Sys2Proof.Machine
end

section
/-!
REWINDING, PARKED ACCESSES AND WALKS (R155, R160, R341): what a rewind takes back, the order of the requests parked at a line, and what
a walk leaves in the TLB.
-/

namespace Sys2Proof.Machine

open Sys2Proof

/-! ## A fault (R155) -/

/-- An access whose translation faults comes to that fault. -/
theorem perform_fault {s : State} {c : Nat} {a : Access} {age : Nat} {x : XFault} (hs : a.skip = none) (hp : ∀ f, a.ins ≠ .pref f)
    (hw : s.walkOpen (s.accessSpace c a age) a.abs (accessBytes a.ins a.data) = true) (hx : s.accessPlaces c a age = .error x) :
    s.perform c a age = .fault (s.accessWalked c a age) x := by
  unfold State.perform
  split
  case h_4 => exact absurd ‹_› (hp _)
  case h_5 => simp [hw, hx]
  all_goals simp_all

theorem unpend_foldl_accesses (now : Nat) (l : List Access) (r : Region) :
    (l.foldl (fun r x => r.unpend now x.id) r).accesses = r.accesses := by
  induction l generalizing r with
  | nil => rfl
  | cons x l ih => exact ih _

/-- A rewind leaves the accesses that are not the faulting one or a later one of its node. -/
theorem mem_rewind {s : State} {c : Nat} {a b : Access} : b ∈ ((s.rewind c a).region c).accesses ↔
    b ∈ (s.region c).accesses ∧
      ∀ y ∈ (s.region c).accesses, y.id = b.id → ¬ (y.node = a.node ∧ a.id ≤ y.id ∧ y.old = false) := by
  simp only [State.rewind, region_modRegion, Region.setNode, unpend_foldl_accesses, List.mem_filter, Bool.not_eq_true',
    List.any_eq_false, Bool.and_eq_true, beq_iff_eq, decide_eq_true_eq]
  grind

/-! ## Requests parked at a line (R160) -/

theorem pairwise_insert {l : List Nat} (k : Nat) (h : l.Pairwise (· < ·)) : (NSet.insert l k).Pairwise (· < ·) := by
  induction l with
  | nil => exact List.pairwise_singleton ..
  | cons j t ih =>
    obtain ⟨hj, ht⟩ := List.pairwise_cons.mp h
    unfold NSet.insert
    split
    · rename_i hk
      exact List.pairwise_cons.mpr ⟨fun x hx => by rcases List.mem_cons.mp hx with rfl | hx <;> grind, h⟩
    · split
      · exact h
      · refine List.pairwise_cons.mpr ⟨fun x hx => ?_, ih ht⟩
        rcases mem_insert.mp hx with rfl | hx
        · omega
        · exact hj x hx

theorem pairwise_foldl_insert {α : Type} (g : α → Nat) (xs : List α) {l : List Nat} (h : l.Pairwise (· < ·)) :
    (xs.foldl (fun l x => NSet.insert l (g x)) l).Pairwise (· < ·) := by
  induction xs generalizing l with
  | nil => exact h
  | cons x xs ih => exact ih (pairwise_insert _ h)

/-- What stands in a list at some times, taken in the order of the times, has those times. -/
theorem sublist_times (here : List (Nat × Access)) (times : List Nat) :
    ((times.filterMap (fun t => here.find? (fun x => x.2.parked == some t))).map (fun x => x.2.parked.getD 0)).Sublist times := by
  induction times with
  | nil => exact .slnil
  | cons t times ih =>
    rw [List.filterMap_cons]
    split
    · exact ih.cons t
    · rename_i x hx
      have ht : x.2.parked = some t := by simpa using List.find?_some hx
      rw [List.map_cons, ht]
      exact ih.cons_cons t

/-- The parked requests of a line stand in the order of their arrival. -/
theorem waiters_pairwise (s : State) (line : Nat) : ((s.waiters line).map (fun x => x.2.parked.getD 0)).Pairwise (· < ·) :=
  (pairwise_foldl_insert _ _ .nil).sublist (sublist_times _ _)

/-- An ldfe translated over open modules to near places has all it needs to perform, but for its turn. -/
theorem settles_near {s : State} {c age : Nat} {a : Access} {f : FmtM} {pas : List Nat} (hi : a.ins = .ldfe f) (hs : a.skip = none)
    (hw : s.walkOpen (s.accessSpace c a age) a.abs (accessBytes a.ins a.data) = true) (hp : s.accessPlaces c a age = .ok pas)
    (hm : misplaced c a.ins (pas.headD 0) = false) (hn : ∀ p ∈ pas, isFar p = false ∧ s.pathOpen c p = true) :
    Settles c a age pas s where
  clean := hs
  walk := hw
  place := hp
  lies := hm
  still := by simp [hi, accessKind]
  turn := by simp [State.paeTurn, inPae, hi]
  way p hp := ⟨(hn p hp).2, by simp [State.atHand, (hn p hp).1]⟩
  held x hx hf := by simp [(hn x.2 (mem_placed hx)).1] at hf

theorem exec_fullEmptyWake_one {s : State} {line c : Nat} {a : Access} (h : s.waiters line = [(c, a)])
    (hh : (s.region c).halted = false) : exec (.fullEmptyWake line) s = .next (s.runAccess c a s.lag) := by
  show execFullEmptyWake line s = _
  simp [execFullEmptyWake, h, hh]

theorem exec_parkRetry_due {s : State} {c k t : Nat} {a : Access} (h : (s.region c).accesses.find? (fun a => a.id == k) = some a)
    (hr : a.retry = some t) (ht : t ≤ s.now) (hh : (s.region c).halted = false) :
    exec (.parkRetry c k) s = .next (s.runAccess c a s.lag) := by
  show execParkRetry c k s = _
  simp [execParkRetry, h, hr, hh, Nat.not_lt.mpr ht]

theorem exec_parkRetry_early {s : State} {c k t : Nat} {a : Access} (h : (s.region c).accesses.find? (fun a => a.id == k) = some a)
    (hr : a.retry = some t) (ht : s.now < t) : exec (.parkRetry c k) s = .next s := by
  show execParkRetry c k s = _
  simp [execParkRetry, h, hr, ht]

/-! ## Walks (R341, R344) -/

theorem exec_tableWalk {s : State} {c k : Nat} {a : Access} (h : s.mayPerform c k = some a) (hs : a.skip = none) :
    exec (.tableWalk c k) s = .next (if s.walkOpen (s.accessSpace c a s.lag) a.abs (accessBytes a.ins a.data) then s.accessWalked c a s.lag
      else s) := by
  show execTableWalk c k s = _
  cases hw : s.walkOpen (s.accessSpace c a s.lag) a.abs (accessBytes a.ins a.data) <;> simp [execTableWalk, h, hs, hw]

/-- A walk touches the cluster of its agent only. -/
theorem walked1_cluster_ne (s : State) (sp : Space) (a : Word) (k : AccKind) {d : Nat} (h : d ≠ sp.clus) :
    (s.walked1 sp a k).cluster d = s.cluster d := by
  have hf : (s.findErrors (s.walkReads sp a sp.root 4)).cluster d = s.cluster d := by simp only [State.cluster, findErrors_clusters]
  unfold State.walked1
  split
  · rfl
  · dsimp only
    split
    · split
      · rw [State.tlbFill, cluster_modCluster_ne _ _ _ _ h.symm, hf]
      · exact hf
    · exact hf

theorem walked_cluster_ne (s : State) (sp : Space) (a : Word) (n : Nat) (k : AccKind) {d : Nat} (h : d ≠ sp.clus) :
    (s.walked sp a n k).cluster d = s.cluster d := by
  unfold State.walked
  generalize pageStarts a n = l
  induction l generalizing s with
  | nil => rfl
  | cons p l ih => rw [List.foldl_cons, ih, walked1_cluster_ne _ _ _ _ h]

/-- A run of bytes within a page is translated by one walk at most. -/
theorem walked_page (s : State) (sp : Space) {a : Word} {n : Nat} (k : AccKind) (h0 : 0 < n) (h : a.toNat % 4096 + n ≤ 4096) :
    s.walked sp a n k = s.walked1 sp a k := by
  have hd : (a.toNat % 4096 + n - 1) / 4096 = 0 := by omega
  simp [State.walked, pageStarts, hd, Nat.ne_of_gt h0]

/-- A walk that ends at a leaf puts its entry at the head of the TLB. -/
theorem walked1_fills {s : State} {sp : Space} {a : Word} {k : AccKind} {pa : Nat} {e : TlbEntry} (hc : sp.clus < 64)
    (h : s.xlateRaw sp a k = .ok (pa, some e)) : ((s.walked1 sp a k).cluster sp.clus).tlb.head? = some e ∧
      a.toNat / 2 ^ e.log * 2 ^ e.log = e.va ∧ pa = e.pa + a.toNat % 2 ^ e.log := by
  rcases xlateRaw_ok h with ⟨-, hn⟩ | ⟨-, -, hn⟩ | ⟨htop, hmiss, e', hw, hpa, he⟩
  · cases hn
  · cases hn
  · cases he
    obtain ⟨hroot, l, -, rfl⟩ := walk_ok hw
    refine ⟨?_, rfl, hpa⟩
    simp [State.walked1, hmiss, hroot, hw, hc, Nat.not_le.mpr htop, State.tlbFill]

/-- A walk that faults fills nothing. -/
theorem walked1_fault {s : State} {sp : Space} {a : Word} {k : AccKind} {x : XFault} (d : Nat) (h : s.walk sp a k = .error x) :
    (s.walked1 sp a k).cluster d = s.cluster d := by
  unfold State.walked1
  split
  · rfl
  · simp only [h, State.cluster, findErrors_clusters]

theorem walked_empty (s : State) (sp : Space) (a : Word) (k : AccKind) : s.walked sp a 0 k = s := rfl

/-- Settles O32: rewinding keeps the older accesses, the parked ones are kept in the order of their arrival, and a walk touches the
TLB of its cluster. -/
theorem accessesFaultAndWait : Obligations.AccessesFaultAndWait := by
  refine ⟨fun c k age a x s hm ha hs hz hp hw hx hend hold hret => ⟨?_, fun b hb => ?_, fun b hb hc hu => ?_, rfl⟩, ?_, ?_, ?_, ?_⟩
  · have hwalk := walkOf_accessWalked s c a age
    rw [exec_memoryAccessPerform age hm ha hz, State.runAccess, perform_fault hs hp hw hx]
    simp [State.accessFault, hwalk.taskOf, hwalk.region, hend, hold, hret]
  · obtain ⟨hb, hn⟩ := mem_rewind.mp hb
    exact ⟨hb, by have := hn b hb rfl; grind⟩
  · exact mem_rewind.mpr ⟨hb, fun y hy e => by have := hu y hy e; grind⟩
  · exact fun s line => ⟨waiters_pairwise s line, fun h => by show execFullEmptyWake line s = _; simp [execFullEmptyWake, h]⟩
  · intro c k line a f pas s hi hs hh hist hw hp hm hn hl ev hev
    obtain ⟨t, cs, b, hperf, hseq, hfst, hzero, -, hmem, hfull⟩ := (settles_near hi hs hw hp hm hn).ldfe_full hi hist hl
    have hexec : exec ev s = .next (s.runAccess c a s.lag) := by
      rcases hev with ⟨rfl, hwait⟩ | ⟨rfl, hfind, t, hr, ht⟩
      · exact exec_fullEmptyWake_one hwait hh
      · exact exec_parkRetry_due hfind hr ht hh
    exact ⟨t, cs, b, by rw [hexec, runAccess_done hperf, noteWrites_same _ hseq], hfst, hzero, hmem, hfull⟩
  · exact fun c k a s t hfind hr ht => exec_parkRetry_early hfind hr ht
  · intro c k a s hm hs hc
    refine ⟨fun hw => by rw [exec_tableWalk hm hs, hw]; rfl, fun hw => ⟨s.accessWalked c a s.lag, by rw [exec_tableWalk hm hs, hw]; rfl, ?_⟩⟩
    have hwalk := walkOf_accessWalked s c a s.lag
    refine ⟨hwalk.mem, hwalk.tasks, hwalk.region c, fun d hd => walked_cluster_ne _ _ _ _ _ hd, fun pa e h0 hpage he => ?_,
      fun x hpage he => ?_⟩
    · rw [State.accessWalked, walked_page _ _ _ h0 hpage]
      refine walked1_fills (sp := s.accessSpace c a s.lag) hc ?_
      unfold State.accessHome at he
      cases hx : s.xlateRaw (s.accessSpace c a s.lag) a.abs (accessKind a.ins) with
      | error x => rw [hx] at he; cases he
      | ok r => rw [hx] at he; cases he; rfl
    · rw [State.accessWalked]
      rcases Nat.eq_zero_or_pos (accessBytes a.ins a.data) with h0 | h0
      · rw [h0, walked_empty]
      · rw [walked_page _ _ _ h0 hpage, walked1_fault _ he]

end Sys2Proof.Machine
end

section
/-!
ACCESSES OVER TWO PAGES WHOSE SECOND WALK FINDS AN ERROR (R153, R341, R344, R382). The TLB is full and its oldest entry serves the
second page of an access. The walk of the first page puts that entry out, so the second page is walked as well, and this walk meets
a damaged entry of the tables: its sector is marked and has no error left to be found before the access itself performs. The
statements of O28, O29 and O30 speak of the marks and errors of the state before.
-/

namespace Sys2Proof.Machine

open Sys2Proof

/-! ## The state -/

/-- A double word whose token goes to the left operand of node 9. -/
def evictFmt : FmtM := { pm := .always, t0 := .left 9, t1 := .none, sz := 3, sc := 0, ord := 0, lsid := 0, off := 0 }

/-- An access of node 5 to the last four bytes of page 507 and the first four of page 508. -/
def evictAccess (i : Instr) (data : Option Token) : Access :=
  { id := 3, node := 5, ins := i, fired := 4, ready := 9, addr := 0x1FBFFC, abs := 0x1FBFFC, data := data }

/-- An entry of another address space. -/
def staleEntry : TlbEntry := { asid := 1, va := 0, log := 12, pa := 0, r := true, w := true, x := true, u := true }

/-- The entry of page 508, the oldest of a full TLB. -/
def oldestEntry : TlbEntry := { asid := 0, va := 508 * 4096, log := 12, pa := 0x5000, r := true, w := true, x := true, u := true }

/-- The access in cluster 0. The root of the tables is at 0 and serves every level; sector 127, which holds the entry of page 508,
has an error that no read has found. -/
def evictState (i : Instr) (data : Option Token) (cells : List Host.Cell) (marks : List Nat) : State :=
  { now := 9, ids := 7, mem := cells, marks := marks, ecc := [127]
    tasks := [(1, { id := 1, place := .region 0 })]
    clusters := [(0, { task := some 1, tlb := List.replicate 2047 staleEntry ++ [oldestEntry]
                       region := { accesses := [evictAccess i data]
                                   nodes := [(9, { l := { toks := [{ tok := .ctl true false 0, pend := some 3 }] } })] } })] }

/-! ## A load (R157) -/

abbrev evictLd : Access := evictAccess (.ld evictFmt) none

/-- Page 507 is the page at 0, in whose last sector the damaged entry stands. -/
def evictLoad : State := evictState (.ld evictFmt) none [(0, 1), (0xFD8, 0x37)] []

abbrev evictPlaces : List Nat := [4092, 4093, 4094, 4095, 20480, 20481, 20482, 20483]

theorem performs_evictLoad : Performs 0 3 evictLd 0 evictPlaces evictLoad := by
  constructor <;> decide +kernel

/-- The load finds a mark, which its own walk has left: its token has CAUSE 0x2. -/
theorem evictLoad_token : (((evictLoad.runAccess 0 evictLd 0).node 0 9).l.toks.map (·.tok)) = [badPkt .i64 1 (originOf 0 5 2 9)] := by
  decide +kernel

/-- The token of the load goes to the left operand of node 9. -/
theorem evictLd_delivers {u : State} (hu : u.region 0 = evictLoad.region 0) (tok t1 : Token) (b : List Nat) :
    (((u.finishAccess 0 evictLd (some tok) t1 b).node 0 9).l.toks.map (·.tok)) = [tok] := by
  have hi : irrevocable (Instr.ld evictFmt) = false := rfl
  simp only [State.finishAccess, State.dropAccess, State.node, evictAccess, hi, Bool.false_and, Bool.false_eq_true, if_false,
    region_modRegion, hu]
  rfl

/-- A read of the state that goes any way back finds the error. -/
theorem evictLoad_marked {cs : List (Nat × Nat)} (h : cs.map (·.1) = evictPlaces) : evictLoad.cutMarked cs = true := by
  cases cs with
  | nil => cases h
  | cons x cs =>
    have hx : x.1 = 4092 := (List.cons_eq_cons.mp h).1
    have hm : evictLoad.markAt x.2 x.1 = true := by
      rw [hx]
      rfl
    simp [State.cutMarked, hm]

/-- Refutes O28: the load of two pages finds in its own walk the error that the statement names in the origin of its token. -/
theorem not_loadsPerform : ¬ Obligations.LoadsPerform := by
  intro h
  obtain ⟨cs, b, hcs, -, -, -, -, he, -⟩ := h.1 0 3 0 evictLd evictFmt evictPlaces evictLoad performs_evictLoad (.inl rfl)
    ⟨List.Pairwise.nil, nofun⟩
  have hu : ((evictLoad.arrived 0 evictLd 0).findErrors evictPlaces).region 0 = evictLoad.region 0 := by
    rw [← arrived_region evictLoad 0 evictLd 0, State.region, State.cluster, findErrors_clusters]
    rfl
  have htok := evictLoad_token
  rw [performs_evictLoad.exec, evictLoad_marked hcs] at he
  injection he with he
  rw [he, evictLd_delivers hu] at htok
  change [badPkt .i64 1 (originOf 0 5 1 9)] = [badPkt .i64 1 (originOf 0 5 2 9)] at htok
  exact absurd htok (by decide)

/-! ## A store (R158) -/

abbrev evictSt : Access := evictAccess (.st evictFmt) (some (mkPkt .i64 [5]))

def evictStore : State := evictState (.st evictFmt) (some (mkPkt .i64 [5])) [(0, 1), (0xFD8, 0x37)] []

theorem performs_evictStore : Performs 0 3 evictSt 0 evictPlaces evictStore := by
  constructor <;> decide +kernel

/-- The walk has marked the sector of the first four bytes, of which the store writes only those. -/
theorem evictStore_marks : (evictStore.runAccess 0 evictSt 0).marks = [127] := by decide +kernel

/-- No page moves. -/
theorem evictStore_otherCopy (p : Nat) : evictStore.otherCopy p = none := rfl

/-- Refutes O29: a store of clean data to two pages marks sector 127, which it writes in part, by its own walk. -/
theorem not_storePerforms : ¬ Obligations.StorePerforms := by
  intro h
  obtain ⟨t, he, -, -, hkeep⟩ := h.2 0 3 0 evictSt evictFmt evictPlaces evictStore performs_evictStore (.inl rfl)
  rw [performs_evictStore.exec] at he
  injection he with he
  obtain ⟨hmarks, -⟩ := hkeep 127 (fun p _ q hq => nomatch (evictStore_otherCopy p).symm.trans hq) (.inr ⟨by decide, 0, by decide, by decide⟩)
  rw [← he, evictStore_marks] at hmarks
  exact absurd (hmarks.mp (by decide)) (by decide)

/-! ## An atomic (R154, R161) -/

abbrev evictAmo : Access := evictAccess (.amo evictFmt) (some (mkPkt .i64 [5]))

/-- Page 507 is the page at 0x6000; the sector of the first four bytes is marked. -/
def evictAtomic : State := evictState (.amo evictFmt) (some (mkPkt .i64 [5])) [(0, 1), (0xFD8, 0x37), (0xFD9, 0x60)] [895]

abbrev atomicPlaces : List Nat := [0x6FFC, 0x6FFD, 0x6FFE, 0x6FFF, 20480, 20481, 20482, 20483]

theorem performs_evictAtomic : Performs 0 3 evictAmo 0 atomicPlaces evictAtomic := by
  constructor <;> decide +kernel

theorem evictAtomic_marks : (evictAtomic.runAccess 0 evictAmo 0).marks = [127, 895] := by decide +kernel

/-- Refutes O30: on a poisoned sector an atomic over two pages leaves a mark that its own walk has made, in a sector that is not
among its places. -/
theorem not_atomicPerforms : ¬ Obligations.AtomicPerforms := by
  intro h
  obtain ⟨t, tok, b, he, hbad, -⟩ := h 0 3 0 evictAmo atomicPlaces evictAtomic (some 5) 0 64 .i64 performs_evictAtomic rfl
    (by decide) (by decide +kernel)
  obtain ⟨-, hmarks, -⟩ := hbad (by decide)
  obtain ⟨-, hfinish, -⟩ := sameMem_finishAccess t 0 evictAmo (some tok) (ctlOr true evictAmo.poison) b
  rw [performs_evictAtomic.exec] at he
  injection he with he
  rw [hmarks, ← he, evictAtomic_marks] at hfinish
  exact absurd hfinish (by decide)

end Sys2Proof.Machine
end

section
/-!
EXITS (R196 to R200, R212): the firing of a block-control word, and the exit that a region keeps.
-/

namespace Sys2Proof.Machine

open Sys2Proof

/-! ## The firing of an exit (R196 to R200) -/

/-- The address that an exit names: on L, or at its offset from the running block. -/
def exitAddr (f : FmtB) (ind : Bool) : State → Heads → Word := if ind then indirectAddr else directAddr f

theorem exec_exit {i : Instr} {f : FmtB} {kind : ExitKind} {ind : Bool} (hi : exitOf i = some (f, kind, ind)) :
    exec i = fireNode (exitPlan kind f (exitAddr f ind)) ∧ exitLeft kind f.pm = (ind || f.pm == .always) := by
  unfold exitOf at hi
  split at hi
  case h_7 => cases hi
  all_goals
    obtain ⟨rfl, hk⟩ := Prod.mk.inj (Option.some.inj hi)
    obtain ⟨rfl, rfl⟩ := Prod.mk.inj hk
    exact ⟨rfl, rfl⟩

theorem indirectAddr_eq_laneOf (s : State) (h : Heads) : indirectAddr s h = laneOf h.l := by
  rw [← laneZero_eq_laneOf]
  rfl

/-- A firing without an effect beyond its cell leaves the task's twin, and so does what binds the task. -/
theorem mirrored_commit_pops (s : State) (l b : List Nat) :
    ((s.commit { pops := l }).modTaskOf s.sel.1 (fun t => { t with bound := union t.bound b })).mirrored s.sel.1 =
      s.mirrored s.sel.1 := by
  obtain ⟨-, -, ⟨r, -, hc⟩, -, -, hg⟩ := commit_frame s { pops := l } rfl
  have htask : (s.commit { pops := l }).taskOf s.sel.1 = s.taskOf s.sel.1 := by
    simp only [State.taskOf, State.taskIdOf, State.task, hc, hg rfl]
  simp only [State.mirrored]
  rw [taskOf_modTaskOf_induction (P := fun t => t.twin = (s.taskOf s.sel.1).twin) _ _ _ (by rw [htask]) (by rw [htask])]

section
variable {i : Instr} {f : FmtB} {kind : ExitKind} {ind : Bool} {h : Heads} {s : State}
  (hi : exitOf i = some (f, kind, ind)) (hr : Ready f.pm (ind || f.pm == .always) false false [] h s)
include hi hr

/-- An exit whose operands are clean selects its block, or goes to the umpire (R391). -/
theorem exec_exit_clean (ho : h.origin = none) : ∃ b : List Nat, exec i s = .next
    (((s.commit { pops := h.slots }).modTaskOf s.sel.1 (fun t => { t with bound := union t.bound b })).exitFired s.sel.1
      { kind := kind, addr := exitAddr f ind s h, exn := f.exn.toNat, node := s.sel.2, cycle := s.now }) := by
  obtain ⟨he, hl⟩ := exec_exit hi
  rw [← hl] at hr
  have hp : exitPlan kind f (exitAddr f ind) s = .fire _ := routePlan_ready _ hr
  simp only [ho] at hp
  rw [he]
  exact fireNode_post hr.live hr.room hp nofun nofun nofun

theorem exec_exit_poisoned {o : Origin} (ho : h.origin = some o) :
    exec i s = .next ((s.commit { pops := h.slots }).raisePoison o 1) := by
  obtain ⟨he, hl⟩ := exec_exit hi
  rw [← hl] at hr
  have hp : exitPlan kind f (exitAddr f ind) s = .fire _ := routePlan_ready _ hr
  simp only [ho] at hp
  rw [he]
  exact fireNode_room hr.live hr.room hp nofun nofun nofun

end

/-! ## The exit that a region keeps (R197, R212) -/

/-- An exit by an offset (R198): its successor is known where it stands in the block. -/
def ExitKind.direct (k : ExitKind) : Bool := k ∈ [.exit, .call, .yield]

/-- The shadow holds the block that an exit names. -/
def State.shadowHolds (s : State) (c : Nat) (x : Sel) : Bool := (s.region c).shadow.any (fun sh => sh.blk == x.addr.toNat)

/-- The exit fires before the one that the region keeps, if any (R197). -/
def State.exitWins (s : State) (c : Nat) (x : Sel) : Bool :=
  (s.region c).sel.all (fun y => y.cycle == x.cycle && decide (x.node < y.node))

/-- The state in which an exit has been kept, before its block is loaded. -/
def State.selected (s : State) (c : Nat) (x : Sel) : State :=
  (s.modRegion c (fun r => { r with sel := some x })).modTaskOf c (fun t => { t with lexn := x.exn })

theorem region_selected (s : State) (c : Nat) (x : Sel) : (s.selected c x).region c = { s.region c with sel := some x } := by
  rw [State.selected, region_modTaskOf, region_modRegion]

theorem lexn_selected {s : State} {c : Nat} (h : (s.cluster c).task.isSome = true) (x : Sel) :
    ((s.selected c x).taskOf c).lexn = x.exn := by
  rw [State.selected, taskOf_modTaskOf (by rw [cluster_modRegion]; exact h)]

theorem now_selected (s : State) (c : Nat) (x : Sel) : (s.selected c x).now = s.now := by
  unfold State.selected State.modTaskOf
  split <;> rfl

/-- A load takes nothing of the region but its shadow. -/
theorem region_startLoad (s : State) (c : Nat) (a : Word) : ∃ n, s.now ≤ n ∧
    (s.startLoad c a).region c = { s.region c with shadow := some { blk := a.toNat, usable := n } } := by
  rw [State.startLoad, region_modRegion, reached_only]
  exact ⟨_, Nat.le_add_right _ _, rfl⟩

theorem taskOf_startLoad (s : State) (c : Nat) (a : Word) : (s.startLoad c a).taskOf c = s.taskOf c := by
  rw [State.startLoad, taskOf_modRegion, reached_only]
  rfl

/-- A later exit changes nothing; one that wins is kept, with the shadow where that holds its block; else the shadow is dropped
or loaded. -/
theorem select_eq (s : State) (c : Nat) (x : Sel) : s.select c x = if !s.exitWins c x then s
    else if x.kind.direct && s.shadowHolds c x then s.selected c x
    else match x.successor with
      | none => (s.selected c x).modRegion c (fun r => { r with shadow := none })
      | some a => (s.selected c x).startLoad c a := by
  unfold State.select State.exitWins State.shadowHolds
  dsimp only
  cases (s.region c).sel <;> cases (s.region c).shadow <;> cases x.kind <;> rfl

section
variable {s : State} {c : Nat} {x : Sel}

/-- The region keeps no exit, or one of this cycle and a higher index. -/
theorem exitWins_iff : s.exitWins c x = true ↔ ∀ y, (s.region c).sel = some y → y.cycle = x.cycle ∧ x.node < y.node := by
  unfold State.exitWins
  cases (s.region c).sel <;> simp

theorem exitWins_of_later {y : Sel} (hy : (s.region c).sel = some y) (h : y.cycle ≠ x.cycle ∨ y.node ≤ x.node) :
    s.exitWins c x = false := by
  rw [Bool.eq_false_iff, Ne, exitWins_iff]
  intro hw
  obtain ⟨h1, h2⟩ := hw y hy
  exact h.elim (fun h => h h1) (fun h => absurd h2 (not_lt.mpr h))

/-- A kept exit is the region's, and its number the task's, whatever becomes of the shadow. -/
theorem select_keeps (hc : (s.cluster c).task.isSome = true) (h : s.exitWins c x = true) :
    ((s.select c x).region c).sel = some x ∧ ((s.select c x).taskOf c).lexn = x.exn := by
  rw [select_eq, h, Bool.not_true, if_neg Bool.false_ne_true]
  split
  · exact ⟨by rw [region_selected], lexn_selected hc x⟩
  · split
    · exact ⟨by rw [region_modRegion, region_selected], by rw [taskOf_modRegion, lexn_selected hc]⟩
    · next a _ =>
      obtain ⟨n, -, hr⟩ := region_startLoad (s.selected c x) c a
      exact ⟨by rw [hr, region_selected], by rw [taskOf_startLoad, lexn_selected hc]⟩

/-- The exit names a block that the shadow does not hold, or is indirect: its load begins. -/
theorem select_loads {a : Word} (h : s.exitWins c x = true)
    (hk : (x.kind.direct && s.shadowHolds c x) = false) (ha : x.successor = some a) : ∃ n, s.now ≤ n ∧
      ((s.select c x).region c).shadow = some { blk := a.toNat, usable := n } := by
  obtain ⟨n, hn, hr⟩ := region_startLoad (s.selected c x) c a
  rw [now_selected] at hn
  refine ⟨n, hn, ?_⟩
  simp only [select_eq, h, hk, ha, Bool.not_true, Bool.false_eq_true, if_false]
  exact congrArg Region.shadow hr

end

theorem direct_iff (k : ExitKind) : k.direct = true ↔ k ∈ [.exit, .call, .yield] := by simp [ExitKind.direct]

theorem successor_direct {x : Sel} (h : x.kind.direct = true) : x.successor = some x.addr := by
  rw [direct_iff] at h
  simp only [Sel.successor]
  split <;> simp_all

/-- Settles O34: a firing hands its exit to `exitFired`; of the exits of a region `select` keeps the first. -/
theorem exitsFire : Obligations.ExitsFire := by
  refine ⟨fun i f kind ind h s hi hr => ⟨fun ho => ?_, fun o ho => exec_exit_poisoned hi hr ho⟩, fun s c x hc =>
    ⟨fun y hy hl => by simp [select_eq, exitWins_of_later hy hl], fun h => ?_⟩⟩
  · obtain ⟨b, he⟩ := exec_exit_clean hi hr ho
    refine ⟨{ kind := kind, addr := exitAddr f ind s h, exn := f.exn.toNat, node := s.sel.2, cycle := s.now }, b, rfl, rfl, rfl, rfl,
      fun e => by subst e; rfl, fun e => by subst e; exact indirectAddr_eq_laneOf s h, ?_⟩
    have hn : (s.commit { pops := h.slots }).now = s.now := by rw [(commit_frame s { pops := h.slots } rfl).1]
    rw [he, State.exitFired, mirrored_commit_pops, modTaskOf_now, hn]
    cases s.mirrored s.sel.1 <;> rfl
  · replace h := exitWins_iff.mpr h
    obtain ⟨hsel, hexn⟩ := select_keeps hc h
    refine ⟨hsel, hexn, fun hd hs => ?_, fun hd hs => ?_, fun hi ha => ?_, fun hi => ?_⟩
    · obtain ⟨sh, hsh, hb⟩ := hs
      have hs : s.shadowHolds c x = true := by simp [State.shadowHolds, hsh, hb]
      simp [select_eq, h, (direct_iff _).mpr hd, hs, region_selected]
    · have hs : s.shadowHolds c x = false := by cases hx : (s.region c).shadow with
        | none => simp [State.shadowHolds, hx]
        | some sh => simpa [State.shadowHolds, hx] using hs sh hx
      exact select_loads h (by rw [hs, Bool.and_false]) (successor_direct ((direct_iff _).mpr hd))
    · have hd : x.kind.direct = false := by rcases List.mem_pair.mp hi with e | e <;> simp [ExitKind.direct, e]
      have hsucc : x.successor = none := by rcases List.mem_pair.mp hi with e | e <;> simp [Sel.successor, e, ha]
      simp [select_eq, h, hd, hsucc]
    · have hd : x.kind.direct = false := by
        rcases hi with e | ⟨e, -⟩
        · simp [ExitKind.direct, e]
        · rcases List.mem_pair.mp e with e | e <;> simp [ExitKind.direct, e]
      have hsucc : x.successor = some x.addr := by
        rcases hi with e | ⟨e, ha⟩
        · simp [Sel.successor, e]
        · rcases List.mem_pair.mp e with e | e <;> rw [Sel.successor, e] <;> exact if_neg ha
      exact select_loads h (by rw [hd, Bool.false_and]) hsucc

end Sys2Proof.Machine
end

section
/-!
SYSTEM INSTRUCTIONS (R205 to R211): those whose tokens come later, those that answer at once, and the end of a trap.
-/

namespace Sys2Proof.Machine

open Sys2Proof

/-! ## The firings of system instructions (R202) -/

/-- A firing with effects on its own cell alone leaves the selection, the time and, but for one, the count of operations. -/
theorem commit_sel_now_ids (s : State) (f : Fire) (hp : f.post = fun u _ _ => u) :
    (s.commit f).sel = s.sel ∧ (s.commit f).now = s.now := by
  rw [(commit_frame s f hp).1]
  exact ⟨rfl, rfl⟩

/-- What an operation is told of its firing. -/
def SysOp.startedAt (op : SysOp) (s : State) (b : List Nat) : SysOp :=
  { op with id := s.ids + 1, node := s.sel.2, fired := s.now, bound := b }

section
variable {i : Instr} {f : FmtS} {uR : Bool} {h : Heads} {s : State} {plan : State → Plan} {body : Heads → Fire}
  (he : exec i = fireNode plan) (hp : plan s = sysPlan f uR s body) (hr : Ready f.pm true uR false [f.t0, f.t1] h s)
include he hp hr

/-- A system instruction that starts an operation leaves it in the region, its tokens owed. -/
theorem exec_sysLater {op : SysOp} {g : State → State} (ho : h.origin = none) (hb : body h = sysLater f op g) :
    ∃ b, exec i s = .next ((g (s.commit { pops := h.slots, later := [f.t0, f.t1] })).modRegion s.sel.1 (fun r =>
      { r with sysops := r.sysops ++ [op.startedAt s b] })) := by
  have hf : plan s = .fire _ := hp.trans (sysPlan_clean body hr ho)
  rw [hb] at hf
  obtain ⟨b, hx⟩ := fireNode_post hr.live hr.room hf (by simp [sysLater]) (by simp [sysLater]) (by simp [sysLater])
  obtain ⟨hsel, hnow⟩ := commit_sel_now_ids s { pops := h.slots, later := [f.t0, f.t1] } rfl
  refine ⟨b, ?_⟩
  rw [he, hx, SysOp.startedAt, ← hsel, ← hnow]
  rfl

/-- A system instruction that answers at once delivers its token, and is irrevocable (R387). -/
theorem exec_sysAnswer {v : Bool} {lat : Nat} {g : State → State} (ho : h.origin = none)
    (hb : body h = { outs := sysOuts f (ctlTok v), lat := lat, post := privileged g }) :
    exec i s = .next (g ((s.commit { pops := h.slots, outs := [(f.t0, .ctl v false 0), (f.t1, .ctl v false 0)], lat := lat }).irrevoke
      s.sel.1)) := by
  have hf : plan s = .fire _ := hp.trans (sysPlan_clean body hr ho)
  rw [hb] at hf
  rw [he, fireNode_room hr.live hr.room hf (by simp [sysOuts]) (by simp) (by simp)]
  rfl

theorem exec_sysPoisoned {o : Origin} (ho : h.origin = some o) :
    exec i s = .next ((s.commit { pops := h.slots }).raisePoison o 7) := by
  have hf : plan s = .fire _ := hp.trans (sysPlan_poisoned body hr ho)
  rw [he, fireNode_room hr.live hr.room hf (by simp [poisonFire]) (by simp [poisonFire]) (by simp)]
  rfl

end

/-- Each of these instructions fires by a system plan (R202). -/
theorem exec_laterOf {i : Instr} {f : FmtS} {uR : Bool} (hi : laterOf i = some (f, uR)) :
    ∃ plan, exec i = fireNode plan ∧ ∀ s, ∃ body, plan s = sysPlan f uR s body := by
  unfold laterOf at hi
  split at hi
  case h_8 => cases hi
  all_goals
    obtain ⟨rfl, rfl⟩ := Prod.mk.inj (Option.some.inj hi)
    exact ⟨_, rfl, fun s => ⟨_, rfl⟩⟩

/-! ## The operations they start (R206 to R211) -/

/-- The operation that an instruction starts with its operands, but for what it is told of its firing. -/
def State.opOf (s : State) (i : Instr) (a b : Word) : SysOp :=
  match i with
  | .tlbinv _ => { id := 0, node := 0, ins := i, fired := 0, a := a, b := b, asid := (s.space s.sel.1).asid }
  | .keyrev _ => { id := 0, node := 0, ins := i, fired := 0, a := a, b := b, val := s.hub.keyValid }
  | .ctxsv _ | .ctxld _ => { id := 0, node := 0, ins := i, fired := 0, a := BitVec.ofNat 64 (bitsOf a 5 0), b := b }
  | .linkq _ =>
    { id := 0, node := 0, ins := i, fired := 0, a := BitVec.ofNat 64 ((linkOf (s.sel.1 / 16) (bitsOf a 6 0)).getD 0), b := a }
  | _ => { id := 0, node := 0, ins := i, fired := 0, a := a }

/-- What an instruction does as its operation starts: all but `evwait` are irrevocable (R387), and `ctxsv` stops its region (R208). -/
def State.opEffect (s : State) (i : Instr) (a : Word) (u : State) : State :=
  match i with
  | .evwait _ => u
  | .ctxsv _ => (u.irrevoke s.sel.1).modRegion (bitsOf a 5 0) (fun r => { r with stoppedBy := some (r.stoppedBy.getD s.now) })
  | _ => u.irrevoke s.sel.1

section
variable {i : Instr} {f : FmtS} {uR : Bool} {h : Heads} {s : State} (hi : laterOf i = some (f, uR))
  (hr : Ready f.pm true uR false [f.t0, f.t1] h s)
include hi hr

/-- An operation that may start does. -/
theorem exec_starts (ho : h.origin = none) (hs : s.starts i (laneOf h.l) (laneOf h.r)) :
    ∃ b, exec i s = .next ((s.opEffect i (laneOf h.l) (s.commit { pops := h.slots, later := [f.t0, f.t1] })).modRegion s.sel.1
      (fun r => { r with sysops := r.sysops ++ [(s.opOf i (laneOf h.l) (laneOf h.r)).startedAt s b] })) := by
  simp only [← laneZero_eq_laneOf] at hs ⊢
  unfold laterOf at hi
  split at hi
  case h_8 => cases hi
  all_goals obtain ⟨rfl, rfl⟩ := Prod.mk.inj (Option.some.inj hi)
  case h_1 f => exact exec_sysLater (i := .tlbinv f) rfl rfl hr ho rfl
  case h_2 f => exact exec_sysLater (i := .keyrev f) rfl rfl hr ho rfl
  case h_3 f => exact exec_sysLater (i := .ctxsv f) rfl rfl hr ho (if_neg (by simpa [State.starts] using hs))
  case h_4 f => exact exec_sysLater (i := .ctxld f) rfl rfl hr ho (if_neg (by simpa [State.starts] using hs))
  case h_5 f => exact exec_sysLater (i := .cfgld f) rfl rfl hr ho rfl
  case h_6 f =>
    obtain ⟨m, hm, hq⟩ := hs
    exact exec_sysLater (i := .linkq f) (g := fun u => u.irrevoke s.sel.1) rfl rfl hr ho (by simp [State.opOf, hm, hq])
  case h_7 f => exact exec_sysLater (i := .evwait f) (g := id) rfl rfl hr ho rfl

end

/-- A `ctxsv` or `ctxld` that may not act answers VAL = 0 (R208). -/
theorem exec_refused {i : Instr} {f : FmtS} {uR : Bool} {h : Heads} {s : State} (hu : laterOf i = some (f, uR))
    (hr : Ready f.pm true uR false [f.t0, f.t1] h s) (ho : h.origin = none) (hi : i = .ctxsv f ∨ i = .ctxld f)
    (hs : ¬ s.starts i (laneOf h.l) (laneOf h.r)) :
    exec i s = .next
      ((s.commit { pops := h.slots, outs := [(f.t0, .ctl false false 0), (f.t1, .ctl false false 0)] }).irrevoke s.sel.1) := by
  simp only [← laneZero_eq_laneOf] at hs
  rcases hi with rfl | rfl <;> obtain ⟨-, rfl⟩ := Prod.mk.inj (Option.some.inj hu)
  · exact exec_sysAnswer (g := id) rfl rfl hr ho (if_pos (by simpa [State.starts] using hs))
  · refine exec_sysAnswer (g := id) rfl rfl hr ho (if_pos ?_)
    simp only [State.starts, not_and_or] at hs
    simpa [Option.isSome_iff_ne_none] using hs

/-- A `linkq` of no module answers VAL = 0, one of a module that is as asked VAL = 1 (R210). -/
theorem exec_linkq_answers {f : FmtS} {h : Heads} {s : State} (hr : Ready f.pm true false false [f.t0, f.t1] h s)
    (ho : h.origin = none) (hs : ¬ s.starts (.linkq f) (laneOf h.l) 0) :
    exec (.linkq f) s = .next
      (let tok : Token := .ctl (linkOf (s.sel.1 / 16) (bitsOf (laneOf h.l) 6 0)).isSome false 0
       (s.commit { pops := h.slots, outs := [(f.t0, tok), (f.t1, tok)] }).irrevoke s.sel.1) := by
  simp only [← laneZero_eq_laneOf] at hs ⊢
  refine exec_sysAnswer (g := id) rfl rfl hr ho ?_
  cases hm : linkOf (s.sel.1 / 16) (bitsOf (laneZero h.l) 6 0) with
  | none => simp [hm]
  | some m =>
    have hq : ((s.link m).quiesced != (laneZero h.l).getLsbD 8) = true := by simpa [State.starts, hm] using hs
    simp only [hm, hq, if_true, Option.isSome_some]

/-! ## tret (R205) -/

section
variable {f : FmtS} {h : Heads} {s : State} (hr : Ready f.pm true false false [f.t0, f.t1] h s)
include hr

theorem planTret_ready : ∃ x, planTret f s = Plan.heldBack (.fire x) (s.hubOpen s.sel.1) := by
  cases ho : h.origin with
  | none => exact ⟨_, by rw [planTret, sysPlan_clean _ hr ho]⟩
  | some o => exact ⟨_, by rw [planTret, sysPlan_poisoned _ hr ho]⟩

theorem exec_tret_closed (hc : s.hubOpen s.sel.1 = false) : exec (.tret f) s = .next s := by
  obtain ⟨x, hx⟩ := planTret_ready hr
  exact fireNode_heldBack_closed hx hc

theorem exec_tret_clean (hc : s.hubOpen s.sel.1 = true) (ho : h.origin = none) :
    exec (.tret f) s = .next
      (let tok : Token := .ctl (s.endTrap (laneOf h.l)).1 false 0
       (((s.commit { pops := h.slots, outs := [(f.t0, tok), (f.t1, tok)], lat := 20 }).irrevoke s.sel.1).endTrap (laneOf h.l)).2) := by
  have hp : planTret f s = _ := congrArg (Plan.heldBack (isOpen := s.hubOpen s.sel.1)) (sysPlan_clean _ hr ho)
  rw [← laneZero_eq_laneOf]
  exact fireNode_heldBack_open hr hp hc (by simp [sysOuts]) (by simp) (by simp)

theorem exec_tret_poisoned {o : Origin} (hc : s.hubOpen s.sel.1 = true) (ho : h.origin = some o) :
    exec (.tret f) s = .next ((s.commit { pops := h.slots }).raisePoison o 7) := by
  have hp : planTret f s = _ := congrArg (Plan.heldBack (isOpen := s.hubOpen s.sel.1)) (sysPlan_poisoned _ hr ho)
  exact fireNode_heldBack_open hr hp hc (by simp [poisonFire]) (by simp [poisonFire]) (by simp)

end

/-! ## The end of trap handling (R205) -/

/-- The address and the action that the operand of a tret names. -/
def trapRecordAt (v : Word) : Word := BitVec.ofNat 64 (bitsOf v 63 6 * 64)

section
variable {s : State} {v : Word} {x : TrapRec}

theorem endTrap_refused (h : bitsOf v 5 2 ≠ 0 ∨ s.awaited (trapRecordAt v) = none ∨
    ∃ x, s.awaited (trapRecordAt v) = some x ∧
      (actionOk x.code (bitsOf v 1 0) = false ∨ (bitsOf v 1 0 = 2 ∧ (s.taskOf x.pclus).mayRoll = false))) :
    s.endTrap v = (false, s) := by
  unfold trapRecordAt at h
  unfold State.endTrap
  dsimp only
  split
  · rfl
  · next hz =>
    have hz : bitsOf v 5 2 = 0 := by simpa using hz
    split
    · rfl
    · next x hx =>
      rcases h with h | h | ⟨y, hy, h⟩
      · exact absurd hz h
      · rw [h] at hx; cases hx
      · cases hx.symm.trans hy
        exact if_pos (by rcases h with h | ⟨h1, h2⟩ <;> simp [*])

theorem endTrap_acts (hz : bitsOf v 5 2 = 0) (hx : s.awaited (trapRecordAt v) = some x) (hok : actionOk x.code (bitsOf v 1 0) = true)
    (hroll : bitsOf v 1 0 = 2 → (s.taskOf x.pclus).mayRoll = true) : s.endTrap v =
      (true, let s1 := s.modHub (fun h => { h with awaiting := h.awaiting.filter (fun y => y.2 != trapRecordAt v) })
        match bitsOf v 1 0 with
        | 0 => s1.resume x.pclus
        | 1 => s1.kill x.pclus
        | _ => s1.rollback x.pclus) := by
  unfold trapRecordAt at hx ⊢
  have hgo : (!actionOk x.code (bitsOf v 1 0) || (bitsOf v 1 0 == 2 && !(s.taskOf x.pclus).mayRoll)) = false := by
    rw [hok]
    by_cases h2 : bitsOf v 1 0 = 2
    · simp [hroll h2]
    · simp [h2]
  unfold State.endTrap
  dsimp only
  rw [if_neg (by simp [hz]), hx]
  dsimp only
  rw [hgo]
  rfl

end

/-- What the operation of a ready instruction holds, by the instruction (R206 to R211). -/
theorem opOf_holds {i : Instr} {f : FmtS} {uR : Bool} {s : State} {a b : Word} (hi : laterOf i = some (f, uR)) (hs : s.starts i a b) :
    (s.opOf i a b).ins = i ∧ (uR = true → (s.opOf i a b).b = b) ∧
      ((i = .ctxsv f ∨ i = .ctxld f) → (s.opOf i a b).a = BitVec.ofNat 64 (bitsOf a 5 0)) ∧
      (i = .linkq f → ∃ m, linkOf (s.sel.1 / 16) (bitsOf a 6 0) = some m ∧ (s.opOf i a b).a = BitVec.ofNat 64 m) ∧
      ((i = .tlbinv f ∨ i = .keyrev f ∨ i = .cfgld f ∨ i = .evwait f) → (s.opOf i a b).a = a) ∧
      (i = .keyrev f → (s.opOf i a b).val = s.hub.keyValid) ∧ (i = .tlbinv f → (s.opOf i a b).asid = (s.space s.sel.1).asid) := by
  unfold laterOf at hi
  split at hi
  case h_8 => cases hi
  case h_6 f =>
    obtain ⟨rfl, rfl⟩ := Prod.mk.inj (Option.some.inj hi)
    obtain ⟨m, hm, -⟩ := hs
    simp [State.opOf, hm]
  all_goals
    obtain ⟨rfl, rfl⟩ := Prod.mk.inj (Option.some.inj hi)
    simp [State.opOf]

theorem opEffect_eq {i : Instr} {f : FmtS} {uR : Bool} (hi : laterOf i = some (f, uR)) (s u : State) (a : Word) : s.opEffect i a u =
    let u1 := if i = .evwait f then u else u.irrevoke s.sel.1
    if i = .ctxsv f then u1.modRegion (bitsOf a 5 0) (fun r => { r with stoppedBy := some (r.stoppedBy.getD s.now) }) else u1 := by
  unfold laterOf at hi
  split at hi
  case h_8 => cases hi
  all_goals
    obtain ⟨rfl, rfl⟩ := Prod.mk.inj (Option.some.inj hi)
    simp [State.opEffect]

/-- Settles O37: what starts an operation, what answers at once, and the cases of the end of a trap. -/
theorem systemInstructionsFire : Obligations.SystemInstructionsFire := by
  refine ⟨fun i f uR h s a b hi hr ha hb => ⟨fun ho hs => ?_, fun ho hc hs => ?_, fun o ho => ?_⟩,
    fun f h s v hr ho hv hs => ?_, fun f h s hr => ⟨exec_tret_closed hr, exec_tret_clean hr, fun o hc ho => exec_tret_poisoned hr hc ho⟩,
    fun s v h => ?_, fun s v x hz hx => ⟨fun h => ?_, fun h0 hc => ?_, fun h1 => ?_, fun h2 hc hm => ?_⟩⟩
  · subst ha hb
    obtain ⟨b, he⟩ := exec_starts hi hr ho hs
    obtain ⟨hins, hb, hclus, hlink, hword, hkey, hasid⟩ := opOf_holds hi hs
    rw [opEffect_eq hi] at he
    exact ⟨(s.opOf i (laneOf h.l) (laneOf h.r)).startedAt s b, rfl, rfl, hins, rfl, hb, hclus, hlink, hword, hkey, hasid, he⟩
  · subst ha hb
    exact exec_refused hi hr ho hc hs
  · obtain ⟨plan, he, hp⟩ := exec_laterOf hi
    obtain ⟨body, hb⟩ := hp s
    exact exec_sysPoisoned he hb hr ho
  · subst hv
    exact exec_linkq_answers hr ho hs
  · cases hx : s.awaited (trapRecordAt v) with
    | none => exact endTrap_refused (.inr (.inl hx))
    | some x =>
      rcases h with h | h | h
      · exact endTrap_refused (.inl h)
      · exact endTrap_refused (.inr (.inr ⟨x, hx, .inl (by rw [h]; rfl)⟩))
      · exact endTrap_refused (.inr (.inl h))
  · refine endTrap_refused (.inr (.inr ⟨x, hx, ?_⟩))
    rcases h with ⟨h, hc⟩ | ⟨h, hc | hm⟩
    · exact .inl (by rw [h]; simp only [List.mem_cons, List.not_mem_nil, or_false] at hc; rcases hc with e | e | e <;> simp [actionOk, e])
    · exact .inl (by simp [h, actionOk, hc])
    · exact .inr ⟨h, hm⟩
  · rw [endTrap_acts hz hx (by rw [h0]; simpa [actionOk, and_assoc] using hc) (by simp [h0]), h0]
    rfl
  · rw [endTrap_acts hz hx (by rw [h1]; rfl) (by simp [h1]), h1]
    rfl
  · rw [endTrap_acts hz hx (by simp [h2, actionOk, hc]) (fun _ => hm), h2]
    rfl

end Sys2Proof.Machine
end

section
/-!
ENGINE COMMANDS ISSUE (R179 to R185): the firing that puts a command into the engine queue of its cluster.
-/

namespace Sys2Proof.Machine

open Sys2Proof

theorem exec_command {i : Instr} {f : FmtE} (hi : i.eFmt = some f) : exec i = fireNode (cmdPlan i) ∧ cmdFmt i = f := by
  refine ⟨?_, by rw [cmdFmt, hi, Option.getD_some]⟩
  unfold Instr.eFmt at hi
  split at hi
  case h_15 => cases hi
  all_goals rfl

/-- The L operand of an operand set that uses L is the head of slot 0. -/
theorem heads_left {s : State} {pm : Pm} {uR uP : Bool} {h : Heads} (hh : s.heads pm true uR uP = some h) : h.l = s.head 0 := by
  unfold State.heads State.want at hh
  dsimp only at hh
  split at hh
  · next l _ _ hl _ _ =>
    cases hh
    rw [if_pos rfl] at hl
    cases hx : s.head 0 with
    | none => rw [hx] at hl; cases hl
    | some t => rw [hx] at hl; exact (Option.some.inj hl).symm
  · cases hh

/-- A command that is not a mirrored task's waits first at step 2, 3 or 4 (R180). -/
theorem firstStep_ne_one (i : Instr) : firstStep i ≠ 1 := by
  unfold firstStep
  split
  · decide
  · split <;> decide

/-- A result register that the firing reads is one of 1 to 111; a command that names none has none (R183). -/
theorem earlyRreg_some {s : State} {c node g : Nat} {i : Instr} {l : Word} {b : List Nat}
    (h : (s.earlyRreg c node i l b).toOption.join = some g) : namesRreg i = true ∧ 1 ≤ g ∧ g < 112 := by
  have hn : namesRreg i = true := by
    by_contra hn
    have hp : s.rregPlace c i l b = none := if_pos (by simp [hn])
    rw [State.earlyRreg, hp] at h
    cases h
  refine ⟨hn, ?_⟩
  unfold State.earlyRreg at h
  split at h
  · cases h
  · cases h
  · dsimp only at h
    split at h
    · cases h
    · next hmark =>
      simp only [Except.toOption, Option.join_some] at h
      split at h
      · cases h
      · next hr =>
        simp only [Bool.or_eq_true, decide_eq_true_eq, not_or] at hr
        rw [← Option.some.inj h]
        exact ⟨Nat.one_le_iff_ne_zero.mpr hr.1, not_le.mp hr.2⟩

theorem selTask_commit (s : State) (f : Fire) (hp : f.post = fun u _ _ => u) (hg : f.gen = none) :
    (s.commit f).selTask = s.selTask ∧ (s.commit f).taskIdOf s.sel.1 = s.taskIdOf s.sel.1 := by
  obtain ⟨hs, -, ⟨r, -, hc⟩, -, -, ht⟩ := commit_frame s f hp
  have hid : (s.commit f).taskIdOf s.sel.1 = s.taskIdOf s.sel.1 := by rw [State.taskIdOf, hc]; rfl
  have hsel : (s.commit f).sel = s.sel := by rw [hs]
  exact ⟨by rw [State.selTask, State.selTask, hsel, State.taskOf, hid, State.task, ht hg]; rfl, hid⟩

/-- What the firing of a command does beyond its cell: the command enters the queue, goes to the umpire of a mirrored task (R391),
and keeps a place for its result (R183). -/
def State.issued (s : State) (i : Instr) (l r : Word) (s' : State) (id : Nat) (b : List Nat) : State :=
  let k := s'.newCmd i l r id (s'.arrivals + 1) b
  let s0 := ({ s'.rregRead s.sel.1 i k.l b with arrivals := s'.arrivals + 1 }).modCluster s.sel.1 (fun x => { x with eq := x.eq ++ [k] })
  let s1 := if k.step = 1 then s0.pushItem s.sel.1 s.sel.2 1 id [encode i, k.l, k.r] else s0
  match k.rreg with
  | some g => s1.modTaskOf s.sel.1 (fun t => { t with pends := t.pends ++ [{ reg := g, cmd := id }] })
  | none => s1

/-- The firing of a command whose operands are clean. -/
def commandFire (i : Instr) (f : FmtE) (h : Heads) (s : State) : Fire :=
  { pops := h.slots, later := [f.t0], busy := some (192, 1), post := s.issued i (wordOf h.l) (wordOf h.r) }

section
variable {i : Instr} {f : FmtE} {h : Heads} {s : State} (hi : i.eFmt = some f) (hu : s.unitFree 192 = true)
  (hq : (s.cluster s.sel.1).eq.length < 64) (hr : Ready f.pm true (usesRight i) false [f.t0] h s)
  (ho : namesRreg i = true → s.rregOpen s.sel.1 i ((h.l.map low64).getD 0) (s.selNode.boundOf s.now h.slots) = true)
include hi hq hr ho

omit hi in
/-- With room in the queue and the way to its RREG byte open, a command's plan is its firing. -/
theorem cmdPlan_ready {x : Fire} (hx : cmdFire i s = .fire x) (hp : x.pops = h.slots) : cmdPlan i s = .fire x := by
  have hfull : s.queueFull (.fire x) = false := by simp [State.queueFull, hq]
  have hshut : s.rregShut i (.fire x) = false := by
    simp only [State.rregShut, hp, Bool.and_eq_false_iff, Bool.not_eq_false']
    rw [wordOf, ← heads_left hr.heads]
    by_cases hn : namesRreg i = true
    · exact .inr (ho hn)
    · exact .inl (by simpa using hn)
  simp only [cmdPlan, hx, hfull, hshut]
  rfl

include hu

theorem exec_command_poisoned {o : Origin} (hp : h.origin = some o) :
    exec i s = .next ((s.commit { pops := h.slots }).raisePoison o 2) := by
  obtain ⟨he, hf⟩ := exec_command hi
  have hx : cmdFire i s = .fire { poisonFire h.slots o 2 with needs := [f.t0] } := by
    simp only [cmdFire, hf, hu, routePlan_ready _ hr, hp]
    rfl
  rw [he, fireNode_room hr.live hr.room (cmdPlan_ready hq hr ho hx rfl) (by simp [poisonFire]) (by simp [poisonFire]) (by simp)]
  rfl

/-- A command whose operands are clean is issued. -/
theorem exec_command_clean (hp : h.origin = none) : ∃ b : List Nat, exec i s = .next
    (s.issued i (wordOf h.l) (wordOf h.r) (s.commit { pops := h.slots, later := [f.t0], busy := some (192, 1) }) (s.ids + 1) b) := by
  obtain ⟨he, hf⟩ := exec_command hi
  have hx : cmdFire i s = .fire (commandFire i f h s) := by
    simp only [cmdFire, hf, hu, routePlan_ready _ hr, hp]
    rfl
  rw [he]
  exact fireNode_post hr.live hr.room (cmdPlan_ready hq hr ho hx rfl) (by simp [commandFire]) (by simp [commandFire]) (by simp [commandFire])

end

/-- Settles O33: the firing hands the queue the command that `newCmd` makes of its operands. -/
theorem commandsIssue : Obligations.CommandsIssue := by
  refine fun i f h s hi hu hq hr ho => ⟨fun hp => ?_, fun o hp => exec_command_poisoned hi hu hq hr ho hp⟩
  obtain ⟨b, he⟩ := exec_command_clean hi hu hq hr ho hp
  generalize hs' : s.commit { pops := h.slots, later := [f.t0], busy := some (192, 1) } = s' at he ⊢
  obtain ⟨htask, hid⟩ := hs' ▸ selTask_commit s { pops := h.slots, later := [f.t0], busy := some (192, 1) } rfl rfl
  have hs : s' = { s with ids := s.ids + 1, clusters := s'.clusters, tasks := s'.tasks } :=
    hs' ▸ (commit_frame s { pops := h.slots, later := [f.t0], busy := some (192, 1) } rfl).1
  have hsel : s'.sel = s.sel := by rw [hs]
  have hnow : s'.now = s.now := by rw [hs]
  have harr : s'.arrivals = s.arrivals := by rw [hs]
  have hf : cmdFmt i = f := (exec_command hi).2
  have hstep : (s'.newCmd i (wordOf h.l) (wordOf h.r) (s.ids + 1) (s'.arrivals + 1) b).step =
      (if s.mirrored s.sel.1 then 1 else firstStep i) := by
    simp only [State.newCmd, htask]
    rfl
  have hone : ((s'.newCmd i (wordOf h.l) (wordOf h.r) (s.ids + 1) (s'.arrivals + 1) b).step = 1) ↔ s.mirrored s.sel.1 = true := by
    rw [hstep]
    split
    · simp [*]
    · simp [*, firstStep_ne_one]
  refine ⟨s'.newCmd i (wordOf h.l) (wordOf h.r) (s.ids + 1) (s'.arrivals + 1) b, rfl, ?_, ?_, rfl, hnow, ?_, rfl, rfl, ?_, ?_,
    fun hn => ?_, fun g hg => (earlyRreg_some hg).2, he.trans ?_⟩
  · rw [← hid, ← hsel]; rfl
  · rw [← hsel]; rfl
  · rw [← htask]; rfl
  · rw [← harr]; rfl
  · rw [hstep, firstStep, hf]
    simp
  · cases hg : (s'.newCmd i (wordOf h.l) (wordOf h.r) (s.ids + 1) (s'.arrivals + 1) b).rreg with
    | none => rfl
    | some g => exact absurd (earlyRreg_some hg).1 (by simp [hn])
  · simp only [State.issued, hone]
    rw [← harr]
    rfl

end Sys2Proof.Machine
end

section
/-!
PLANES, TILES AND DRAINS (R172 to R177): the firings of a dot block beside the multiply.
-/

namespace Sys2Proof.Machine

open Sys2Proof

theorem completion_eq (f : FmtA) (h : Heads) : completion f h.origin = [(f.t0, h.completes), (f.t1, h.completes)] := by
  unfold completion Heads.completes
  cases h.origin <;> rfl

section
variable {f : FmtA} {uR : Bool} {h : Heads} {s : State} {ready : Heads → Bool} {body : Heads → Plan} {plan : State → Plan}
  (hr : ReadyA f 2 true uR false h s) (hc : ready h = true) (hp : plan s = dotPlan f uR s ready body)
include hr hc hp

/-- A ready dot-block node that delivers a token at once does so, and then has its effect on the dot block or the tiles. -/
theorem fireNode_dotNow {tok : Token} {lat : Nat} {g : State → State}
    (hb : body h = .fire { outs := [(f.t0, tok), (f.t1, tok)], lat := lat, post := fun s' _ _ => g s' }) :
    fireNode plan s = .next (g (s.ceFired f 2 lat 1 h tok none)) := by
  have hplan := hp.trans (dotPlan_ready hr hc)
  rw [hb] at hplan
  rw [fireNode_room hr.live hr.room hplan (by simp) (by simp) (by simp)]
  rfl

/-- A ready dot-block node that completes at once (R173, R174, R177). -/
theorem fireNode_dotCompletes {g : State → State}
    (hb : body h = .fire { outs := completion f h.origin, post := fun s' _ _ => g s' }) :
    fireNode plan s = .next (g (s.ceFired f 2 1 1 h h.completes none)) :=
  fireNode_dotNow hr hc hp (hb.trans (by rw [completion_eq]))

end

/-! ## ldst, mswap and mzero (R172 to R174) -/

theorem planMzero_eq (f : FmtA) (s : State) : planMzero f s =
    dotPlan f false s (fun _ => !s.selDot.multiplying (bitsOf f.imm 1 0) && !s.selDot.draining (bitsOf f.imm 1 0)) (fun h =>
      .fire { outs := completion f h.origin
              post := fun s' _ _ => s'.modDot s.sel.1 s.selCell (fun d => d.setAcc (bitsOf f.imm 1 0) {}) }) := by
  unfold planMzero
  rfl

/-- The shapes and formats that a plane loads from (R172, R257). -/
theorem planeShape_ok {t : Tile} (hc : t.cols = 8) (hrows : t.rows ∈ [32, 64, 96, 128, 160, 192, 224, 256])
    (hf : t.fmt ∈ [7, 11, 12, 13]) :
    (t.cols != 8 || t.rows < 32 || 256 < t.rows || t.rows % 32 != 0 || !recFmt t.fmt) = false := by
  have h1 : t.rows % 32 = 0 ∧ 32 ≤ t.rows ∧ t.rows ≤ 256 := by
    simp only [List.mem_cons, List.not_mem_nil, or_false] at hrows
    omega
  have h2 : recFmt t.fmt = true := by simpa [recFmt, or_assoc] using hf
  simp [hc, h1, h2]

section
variable {f : FmtA} {h : Heads} {s : State} (hr : ReadyA f 2 true false false h s)
include hr

theorem exec_ldst_ring (hring : f.imm.getLsbD 6 = true) (he : s.selDot.shState = .empty) :
    ∃ b : List Nat, exec (.ldst f) s = .next (s.dotStarted f h [] (fun d => { d with
      shState := .armed
      ops := d.ops ++ [{ id := s.ids + 1, node := s.sel.2, kind := 3, t0 := f.t0, t1 := f.t1, orig := h.origin, bound := b }] })) :=
  fireNode_dotLater (plan := planLdst f) (cs := []) (op := { id := 0, node := 0, kind := 3, orig := h.origin })
    (g := fun d => { d with shState := .armed }) (more := id) hr (by simp [he, hring]) rfl (if_pos hring)

theorem exec_ldst_tile {t : Tile} {pa n : Nat} (hring : f.imm.getLsbD 6 = false) (he : s.selDot.shState = .empty)
    (hn : n = bitsOf f.imm 5 0) (ht : (s.selTask.tile n).state = .ready) (hu : s.useTile s.sel.1 n .read = .ok (t, pa))
    (hc : t.cols = 8) (hrows : t.rows ∈ [32, 64, 96, 128, 160, 192, 224, 256]) (hf : t.fmt ∈ [7, 11, 12, 13]) :
    let cs := s.tileCuts h pa t.extent
    ∃ b : List Nat, exec (.ldst f) s = .next ((s.dotStarted f h (s.cutSet cs []) (fun d => { d with
      shadow := s.planeOf t cs
      shState := .loading
      ops := d.ops ++ [{ id := s.ids + 1, node := s.sel.2, kind := 1, tile := n, t0 := f.t0, t1 := f.t1, orig := h.origin
                         done := s.now + ((s.planeOf t cs).bytes.length + 255) / 256 + 4 + 2 * hops s.selCell (sramCell pa)
                         bound := b }] })).findErrors (span pa t.extent)) := by
  subst hn
  refine fireNode_dotLater (plan := planLdst f) (cs := s.tileCuts h pa t.extent)
    (op := { id := 0, node := 0, kind := 1, tile := bitsOf f.imm 5 0, orig := h.origin
             done := s.now + ((s.planeOf t (s.tileCuts h pa t.extent)).bytes.length + 255) / 256 + 4 + 2 * hops s.selCell (sramCell pa) })
    (g := fun d => { d with shadow := s.planeOf t (s.tileCuts h pa t.extent), shState := .loading })
    (more := (·.findErrors (span pa t.extent))) hr (by simp [he, ht]) rfl ?_
  rw [if_neg (by rw [hring]; decide), hu]
  exact if_neg (by rw [planeShape_ok hc hrows hf]; decide)

theorem exec_mswap (hs : s.selDot.shState = .loaded) (hb : s.selDot.busy ≤ s.now) :
    exec (.mswap f) s = .next ((s.ceFired f 2 1 1 h h.completes none).modTaskOf s.sel.1 (fun t => t.setDot s.selCell
      { t.dot s.selCell with active := some (t.dot s.selCell).shadow, shadow := {}, shState := .empty })) :=
  fireNode_dotCompletes (plan := planMswap f) (g := fun s' => s'.modDot s.sel.1 s.selCell (fun d =>
    { d with active := some d.shadow, shadow := {}, shState := .empty })) hr (by simp [hs, hb]) rfl rfl

theorem exec_mzero {a : Nat} (ha : a = bitsOf f.imm 1 0) (hm : s.selDot.multiplying a = false) (hd : s.selDot.draining a = false) :
    exec (.mzero f) s = .next ((s.ceFired f 2 1 1 h h.completes none).modTaskOf s.sel.1 (fun t => t.setDot s.selCell
      { t.dot s.selCell with accs := (t.dot s.selCell).accs.set a {} })) := by
  subst ha
  refine fireNode_dotCompletes (g := fun s' => s'.modDot s.sel.1 s.selCell (fun d => d.setAcc (bitsOf f.imm 1 0) {})) hr ?_
    (planMzero_eq f s) rfl
  simp [hm, hd]

end

/-! ## mdrain (R175) -/

theorem routeValid_of {w : Word} (h1 : w.getLsbD 6 = true) (h2 : bitsOf w 11 8 ∈ [5, 6, 7]) (h3 : bitsOf w 14 12 ≤ 5) :
    routeValid w = true := by
  have hty : (routeTy w).isSome = true := by
    simp only [List.mem_cons, List.not_mem_nil, or_false] at h2
    rcases h2 with e | e | e <;> rw [routeTy, e] <;> rfl
  simp [routeValid, h1, hty, h3]

theorem exec_mdrain {f : FmtA} {h : Heads} {s : State} {a k pa rows : Nat} {w : Word} {t : Tile}
    (hr : ReadyA f 2 true (f.imm.getLsbD 2) false h s) (ha : a = bitsOf f.imm 1 0)
    (hpo : f.imm.getLsbD 2 = true → h.r.bind Token.origin = none) (hk : k = routeNo f h) (hw : w = s.selDot.routes.get 0 k)
    (hrows : rows = (s.selDot.acc a).rows) (hm : s.selDot.multiplying a = false) (hd : s.selDot.draining a = false)
    (hv : routeValid w = true) (he : (s.selTask.tile (routeTile w)).state = .empty)
    (hu : s.useTile s.sel.1 (routeTile w) .write = .ok (t, pa)) (hf : t.fmt = bitsOf w 11 8) (hc : t.cols = 8) (hle : rows ≤ t.rows) :
    ∃ b : List Nat, exec (.mdrain f) s = .next
      (let u := s.dotStarted f h [] (fun d => { d with
         ops := d.ops ++ [{ id := s.ids + 1, node := s.sel.2, kind := 2, acc := a, tile := routeTile w, t0 := f.t0, t1 := f.t1
                            orig := h.origin, done := s.now + (drainBytes t.fmt rows + 127) / 128 + 4 + 2 * hops s.selCell (sramCell pa)
                            rno := k, route := w, rows := rows, bound := b }] })
       if rows = 0 then u
       else u.modTaskOf s.sel.1 (fun x => x.setTile (routeTile w) { x.tile (routeTile w) with state := .filling })) := by
  subst ha hk hw hrows
  have hpo' : routePoison f h = none := by
    unfold routePoison
    split
    · next hb => exact hpo hb
    · rfl
  have hfault : s.drainFault (s.selDot.routes.get 0 (routeNo f h)) (s.selDot.acc (bitsOf f.imm 1 0)).rows = .ok (t, pa) := by
    have hshape : (t.fmt != bitsOf (s.selDot.routes.get 0 (routeNo f h)) 11 8 || t.cols != 8 ||
      t.rows < (s.selDot.acc (bitsOf f.imm 1 0)).rows) = false := by simp [hf, hc, hle]
    simp only [State.drainFault, hv, hu, hshape]
    rfl
  exact fireNode_dotLater (plan := planMdrain f) (cs := [])
    (op := { id := 0, node := 0, kind := 2, acc := bitsOf f.imm 1 0, tile := routeTile (s.selDot.routes.get 0 (routeNo f h))
             orig := h.origin
             done := s.now + (drainBytes t.fmt (s.selDot.acc (bitsOf f.imm 1 0)).rows + 127) / 128 + 4 + 2 * hops s.selCell (sramCell pa)
             rno := routeNo f h, route := s.selDot.routes.get 0 (routeNo f h), rows := (s.selDot.acc (bitsOf f.imm 1 0)).rows })
    (g := id) (more := fun s' => if (s.selDot.acc (bitsOf f.imm 1 0)).rows = 0 then s'
      else s'.modTaskOf s.sel.1 (fun x => x.setTile (routeTile (s.selDot.routes.get 0 (routeNo f h)))
        { x.tile (routeTile (s.selDot.routes.get 0 (routeNo f h))) with state := .filling }))
    hr (by simpa [hm, hd] using .inr he) rfl (by simp only [hpo', hfault])

/-! ## tstat and tset (R176, R177) -/

section
variable {f : FmtA} {h : Heads} {s : State} (hr : ReadyA f 2 true false false h s)
include hr

theorem exec_tstat {n : Nat} (hn : n = if f.imm.getLsbD 8 then (leftElems .i64 h.l).headD 0 % 64 else bitsOf f.imm 5 0) :
    exec (.tstat f) s = .next (s.ceFired f 2 2 1 h (s.packet .i64 h none [(s.tileStat (bitsOf f.imm 7 6) n).toNat]) none) := by
  subst hn
  exact fireNode_dotNow (plan := planTstat f) (g := id) hr rfl rfl rfl

theorem exec_tset_tile {n : Nat} (ho : h.origin = none) (hn : n = bitsOf f.imm 5 0) (hm : bitsOf f.imm 8 7 < 2)
    (hv : s.tileMoving s.sel.1 n = false) (hown : (s.selTask.tile n).owner = s.selTask.id ∨ s.selRegion.priv = true) :
    exec (.tset f) s = .next ((s.ceFired f 2 1 1 h h.completes none).modTaskOf s.sel.1 (fun t =>
      t.setTile n (if bitsOf f.imm 8 7 = 0 then { t.tile n with state := TileState.ofCode (bitsOf f.imm 10 9) }
        else entryOf (leftElems .i64 h.l) s.selRegion.priv s.selTask.id))) := by
  subst hn
  have hgo : (bitsOf f.imm 8 7 != 2 && (s.selTask.tile (bitsOf f.imm 5 0)).owner != s.selTask.id && !s.selRegion.priv) = false := by
    rcases hown with e | e <;> simp [e]
  refine fireNode_dotCompletes (plan := planTset f) (g := fun s' => s'.modTaskOf s.sel.1 (fun t =>
    t.setTile (bitsOf f.imm 5 0) (if bitsOf f.imm 8 7 = 0 then { t.tile (bitsOf f.imm 5 0) with state := TileState.ofCode (bitsOf f.imm 10 9) }
      else entryOf (leftElems .i64 h.l) s.selRegion.priv s.selTask.id))) hr ?_ rfl ?_
  · rw [if_neg (by omega)]
    simp [hv]
  · simp only [ho, hgo]
    obtain h0 | h1 : bitsOf f.imm 8 7 = 0 ∨ bitsOf f.imm 8 7 = 1 := by omega
    · simp [h0]
    · simp [h1]

theorem exec_tset_route {n : Nat} (ho : h.origin = none) (hn : n = bitsOf f.imm 5 0 % 8) (hm : bitsOf f.imm 8 7 = 2)
    (hops : ∀ o ∈ s.selDot.ops, o.kind = 2 → o.rno ≠ n) :
    exec (.tset f) s = .next ((s.ceFired f 2 1 1 h h.completes none).modTaskOf s.sel.1 (fun t => t.setDot s.selCell
      { t.dot s.selCell with routes := (t.dot s.selCell).routes.set n (BitVec.ofNat 64 ((leftElems .i64 h.l).headD 0)) })) := by
  subst hn
  refine fireNode_dotCompletes (plan := planTset f) (g := fun s' => s'.modDot s.sel.1 s.selCell (fun d =>
    { d with routes := d.routes.set (bitsOf f.imm 5 0 % 8) (BitVec.ofNat 64 ((leftElems .i64 h.l).headD 0)) })) hr ?_ rfl ?_
  · rw [if_pos hm]
    simpa using hops
  · simp only [ho, hm]
    rfl

theorem exec_tset_notOwner {n : Nat} (ho : h.origin = none) (hn : n = bitsOf f.imm 5 0) (hm : bitsOf f.imm 8 7 < 2)
    (hv : s.tileMoving s.sel.1 n = false) (hown : (s.selTask.tile n).owner ≠ s.selTask.id) (hpriv : s.selRegion.priv = false) :
    exec (.tset f) s = .next (s.raise s.sel.1
      { s.record s.sel.1 (srcNode s.sel.1 s.sel.2) 3 0x45 (s.selTask.tile n).base 0 (xlateFault 0x45 (s.selTask.tile n).base 7 .write).info
        with rewinds := true }) := by
  subst hn
  refine fireNode_dotFault (plan := planTset f) (x := xlateFault 0x45 (s.selTask.tile (bitsOf f.imm 5 0)).base 7 .write) hr ?_ rfl ?_
  · rw [if_neg (by omega)]
    simp [hv]
  · have hbad : (bitsOf f.imm 8 7 != 2 && (s.selTask.tile (bitsOf f.imm 5 0)).owner != s.selTask.id && !s.selRegion.priv) = true := by
      simp [hown, hpriv]; omega
    simp only [ho, hbad, if_true]

end

/-- The word that tstat reads, by the place it names (R176). -/
theorem tileStat_eq (s : State) (kind n : Nat) : s.tileStat kind n =
    (let d := s.selDot
     match kind with
     | 0 => BitVec.ofNat 64 ((s.selTask.tile n).state.code + 4 * (if (s.selTask.tile n).owner = s.selTask.id then 1 else 0))
     | 1 => BitVec.ofNat 64 ((d.multiplying (n % 4)).toNat + 2 * (!(d.acc (n % 4)).poison.isEmpty).toNat +
         4 * (d.draining (n % 4)).toNat + 256 * (d.acc (n % 4)).rows)
     | 2 => BitVec.ofNat 64 (d.active.isSome.toNat + 2 * d.shState.code + 16 * (d.active.elim 0 (·.kb)))
     | _ => d.routes.get 0 (n % 8)) := by
  match kind with
  | 0 =>
    by_cases ho : (s.selTask.tile n).owner = s.selTask.id
    · simp [State.tileStat, fields, ho]
    · simp [State.tileStat, fields, ho, beq_false_of_ne ho]
  | 1 => simp [State.tileStat, fields, Nat.mul_comm]
  | 2 => cases ha : s.selDot.active <;> simp [State.tileStat, fields, Nat.mul_comm, ha]
  | k + 3 => rfl

/-- Settles O22: each instruction of the dot block by the lemma of its firing. -/
theorem planesTilesAndDrains : Obligations.PlanesTilesAndDrains := by
  refine ⟨⟨fun f h s hr hring he => exec_ldst_ring hr hring he, fun f h s t pa n hr hring he hn ht hu hc hrows hf =>
      exec_ldst_tile hr hring he hn ht hu hc hrows hf, fun f h s hr hs hb => exec_mswap hr hs hb,
      fun f h s a hr ha hm hd => exec_mzero hr ha hm hd⟩,
    fun f h s a k pa rows w t tr hr ha hpo hk hw htr hrows hm hd hb hf hmode he hu hfmt hc hle => ?_,
    fun f h s n v hr hn hv => ?_, fun f h s n hr ho hn hm hv hown => exec_tset_tile hr ho hn hm hv hown,
    fun f h s n hr ho hn hm hops => exec_tset_route hr ho hn hm hops,
    fun f h s n hr ho hn hm hv hown hpriv => exec_tset_notOwner hr ho hn hm hv hown hpriv⟩
  · subst htr
    exact exec_mdrain hr ha hpo hk hw hrows hm hd (routeValid_of hb hf hmode) he hu hfmt hc hle
  · have hv : v = s.tileStat (bitsOf f.imm 7 6) n := hv.trans (tileStat_eq s _ n).symm
    rw [exec_tstat hr hn, hv]

end Sys2Proof.Machine
end

section
/-!
THE ACCUMULATOR (R53, R170): what a multiply leaves in each element, and the step of one K-block.
-/

namespace Sys2Proof.Machine

open Sys2Proof

/-! ## Tables put together -/

/-- What a table holds under a number whose entries all hold one value. -/
theorem Tbl.get_eq_of_unique {α : Type} {d v : α} {t : Tbl α} {k : Nat} (hall : ∀ w, (k, w) ∈ t → w = v)
    (hv : (k, v) ∈ t ∨ v = d) : t.get d k = v := by
  induction t with
  | nil => exact (hv.resolve_left (by simp)).symm
  | cons x t ih =>
    obtain ⟨j, w⟩ := x
    by_cases h : j = k
    · subst h
      rw [Tbl.get, if_pos rfl]
      exact hall w (by simp)
    · rw [Tbl.get, if_neg h]
      refine ih (fun w hw => hall w (List.mem_cons_of_mem _ hw)) (hv.imp_left fun hm => ?_)
      exact (List.mem_cons.mp hm).resolve_left (fun e => h (Prod.mk.inj e).1.symm)

theorem Tbl.get_append_of_forall_ne {α : Type} (d : α) {t : Tbl α} (u : Tbl α) {k : Nat} (h : ∀ x ∈ t, x.1 ≠ k) :
    Tbl.get d (t ++ u) k = u.get d k := by
  induction t with
  | nil => rfl
  | cons x t ih =>
    rw [List.cons_append, Tbl.get, if_neg (h x (by simp)), ih (fun y hy => h y (List.mem_cons_of_mem _ hy))]

/-- A filter by number keeps what stands under the numbers it keeps. -/
theorem Tbl.get_filter_key {α : Type} (d : α) (t : Tbl α) (p : Nat → Bool) {k : Nat} (h : p k = true) :
    Tbl.get d (t.filter (fun x => p x.1)) k = t.get d k := by
  induction t with
  | nil => rfl
  | cons x t ih =>
    obtain ⟨j, v⟩ := x
    by_cases hj : j = k
    · subst hj
      simp [List.filter, h, Tbl.get]
    · cases hp : p j <;> simp [List.filter, hp, Tbl.get, hj, ih]

/-! ## Elements of an accumulator after a multiply (R170) -/

section
variable (x : Acc) (m kb : Nat) (ty : Ty) (var : Bool) (bs : List Byte) (p : Plane)

/-- Element (i, j) after the K-blocks of row i and column j. -/
def Acc.product (i j : Nat) : BitVec 32 :=
  (List.zip (tileRow ty var kb bs i) (p.column j)).foldl (fun acc k => kBlock acc k.1 k.2) (x.elems.get 0 (8 * i + j))

/-- The entries of the rows that a multiply computes. -/
def Acc.products : Tbl (BitVec 32) :=
  (List.range m).flatMap (fun i => (List.range 8).map (fun j => (8 * i + j, x.product kb ty var bs p i j)))

theorem multiply_eq_products : x.multiply m kb ty var bs p =
    (x.products m kb ty var bs p).filter (fun e => e.2 != 0) ++ x.elems.filter (fun e => 8 * m ≤ e.1) := by
  simp only [Acc.multiply, Acc.products, List.zipWith_map_right, List.zipWith_self]
  rfl

/-- The entry of a number stands once among the products. -/
theorem mem_products {i j : Nat} (hj : j < 8) (w : BitVec 32) :
    (8 * i + j, w) ∈ x.products m kb ty var bs p ↔ i < m ∧ w = x.product kb ty var bs p i j := by
  simp only [Acc.products, List.mem_flatMap, List.mem_map, List.mem_range, Prod.mk.injEq]
  constructor
  · rintro ⟨a, ha, b, hb, he, rfl⟩
    obtain ⟨rfl, rfl⟩ : a = i ∧ b = j := by omega
    exact ⟨ha, rfl⟩
  · rintro ⟨hi, rfl⟩
    exact ⟨i, hi, j, hj, rfl, rfl⟩

theorem get_multiply {i j : Nat} (hj : j < 8) : (x.multiply m kb ty var bs p).get 0 (8 * i + j) =
    if i < m then x.product kb ty var bs p i j else x.elems.get 0 (8 * i + j) := by
  rw [multiply_eq_products]
  have hmem (w : BitVec 32) : (8 * i + j, w) ∈ (x.products m kb ty var bs p).filter (fun e => e.2 != 0) ↔
      (i < m ∧ w = x.product kb ty var bs p i j) ∧ w ≠ 0 := by
    rw [List.mem_filter, mem_products x m kb ty var bs p hj, bne_iff_ne]
  split
  · next hi =>
    refine Tbl.get_eq_of_unique (fun w hw => ?_) ?_
    · rcases List.mem_append.mp hw with hw | hw
      · exact ((hmem w).mp hw).1.2
      · have := (List.mem_filter.mp hw).2
        simp only [decide_eq_true_eq] at this
        omega
    · by_cases h0 : x.product kb ty var bs p i j = 0
      · exact .inr h0
      · exact .inl (List.mem_append_left _ ((hmem _).mpr ⟨⟨hi, rfl⟩, h0⟩))
  · next hi =>
    rw [Tbl.get_append_of_forall_ne, Tbl.get_filter_key (p := fun k => decide (8 * m ≤ k))]
    · simp only [decide_eq_true_eq]
      omega
    · rintro ⟨k, w⟩ hk rfl
      exact hi ((hmem w).mp hk).1.1

end

/-! ## One K-block (R53) -/

section
open Sys2Proof.Num

theorem addF_nan (mode : Nat) (a : FVal) (b : Bool) : ∃ b', (addF mode a (.nan b)).1 = .nan b' := by
  cases a <;> exact ⟨_, rfl⟩

/-- A scale of 0xFF makes the canonical NaN. -/
theorem kBlock_nan (acc : BitVec 32) (a b : List FVal × Nat) (h : a.2 = 0xFF ∨ b.2 = 0xFF) : kBlock acc a b = 0x7FC00000 := by
  obtain ⟨b', hb⟩ := addF_nan 0 (decodeF .f32 acc.toNat) false
  simp only [kBlock, if_pos h, hb]
  rfl

/-- The products of finite elements, added one after the other. -/
theorem ratOf_products {l r : List FVal} {xs ys : List ℚ} (hl : l.map ratOf = xs.map some) (hr : r.map ratOf = ys.map some)
    {v : FVal} {x : ℚ} (hv : ratOf v = some x) :
    ratOf ((List.zipWith (fun a b => (mulF a b).1) l r).foldl (fun v w => (addF 0 v w).1) v) =
      some (x + (List.zipWith (· * ·) xs ys).sum) := by
  induction l generalizing r xs ys v x with
  | nil =>
    obtain rfl : xs = [] := by simpa using hl.symm
    simpa using hv
  | cons a l ih =>
    cases xs with
    | nil => simp at hl
    | cons y xs =>
      obtain ⟨ha, hl⟩ := List.cons.inj hl
      cases r with
      | nil =>
        obtain rfl : ys = [] := by simpa using hr.symm
        simpa using hv
      | cons b r =>
        cases ys with
        | nil => simp at hr
        | cons z ys =>
          obtain ⟨hb, hr⟩ := List.cons.inj hr
          simp only [List.zipWith_cons_cons, List.foldl_cons, List.sum_cons]
          rw [ih hl hr (addF_exact 0 hv (mulF_exact ha hb).1).1, add_assoc]

/-- The exact sum of a K-block is rounded once. -/
theorem kBlock_finite {acc : BitVec 32} {a b : List FVal × Nat} {xs ys : List ℚ} {x : ℚ} (ha : a.2 < 0xFF) (hb : b.2 < 0xFF)
    (hl : a.1.map ratOf = xs.map some) (hr : b.1.map ratOf = ys.map some) (hx : ratOf (decodeF .f32 acc.toNat) = some x) :
    ∃ v : FVal, ratOf v = some (x + (List.zipWith (· * ·) xs ys).sum * 2 ^ ((a.2 : ℤ) + b.2 - 254)) ∧
      kBlock acc a b = BitVec.ofNat 32 (roundTo .f32 0 false false 0 v) := by
  have hsum := ratOf_products hl hr (v := .fin false 0 0) (x := 0) (by simp [ratOf_fin])
  rw [zero_add] at hsum
  refine ⟨_, (addF_exact 0 hx (ratOf_scaleF hsum ((a.2 : ℤ) + b.2 - 254))).1, ?_⟩
  rw [kBlock, if_neg (by omega)]

end

/-- Settles O21: an element of a multiply by its place in the table, a K-block by the exactness of its sum. -/
theorem accumulatorElements : Obligations.AccumulatorElements := by
  refine ⟨fun s f t cs p x i j _ hj => ?_, kBlock_nan, fun acc a b xs ys x ha hb hl hr hx => kBlock_finite ha hb hl hr hx⟩
  dsimp only
  cases hf : f.imm.getLsbD 8 || x.rows == 0 with
  | true =>
    simp only [State.multiply, hf, if_true, true_and]
    rw [get_multiply _ _ _ _ _ _ _ hj]
    rfl
  | false =>
    simp only [State.multiply, hf, Bool.false_eq_true, if_false, true_and]
    rw [get_multiply _ _ _ _ _ _ _ hj]
    rfl

end Sys2Proof.Machine
end

section
/-!
DOT-BLOCK OPERATIONS END (R170, R172, R175): the completion token in its places, the plane that is loaded, the bytes of a drain.
-/

namespace Sys2Proof.Machine

open Sys2Proof

/-! ## A place that a result fills (R183) -/

/-- What is seen of a list of tokens after the place of result `id` is filled. -/
def fillSeen (id : Nat) (x : Token × Nat × Option Nat) : List (Token × Nat × Option Nat) → List (Token × Nat × Option Nat)
  | [] => []
  | t :: rest => if t.2.2 = some id then x :: rest else t :: fillSeen id x rest

theorem seen_fillToks (l : List QTok) (id at_ : Nat) (tok : Token) (b : List Nat) :
    (fillToks l id at_ tok b).map QTok.seen = fillSeen id (tok, at_, none) (l.map QTok.seen) := by
  induction l with
  | nil => rfl
  | cons t l ih =>
    by_cases h : t.pend = some id
    · simp [fillToks, fillSeen, QTok.seen, h]
    · simpa [fillToks, fillSeen, QTok.seen, h] using ih

theorem mem_fillSeen {id : Nat} {x : Token × Nat × Option Nat} {l : List (Token × Nat × Option Nat)}
    (h : ∃ t ∈ l, t.2.2 = some id) : x ∈ fillSeen id x l := by
  induction l with
  | nil => obtain ⟨t, ht, -⟩ := h; cases ht
  | cons y l ih =>
    by_cases hy : y.2.2 = some id
    · simp [fillSeen, hy]
    · obtain ⟨t, ht, hp⟩ := h
      rcases List.mem_cons.mp ht with rfl | ht
      · exact absurd hp hy
      · simp only [fillSeen, hy, if_false]
        exact List.mem_cons_of_mem _ (ih ⟨t, ht, hp⟩)

/-- A token that has come in stays where another place is filled. -/
theorem mem_fillSeen_of_mem {id : Nat} {x y : Token × Nat × Option Nat} {l : List (Token × Nat × Option Nat)} (hy : y.2.2 = none)
    (h : y ∈ l) : y ∈ fillSeen id x l := by
  induction l with
  | nil => exact h
  | cons t l ih =>
    by_cases ht : t.2.2 = some id
    · rcases List.mem_cons.mp h with rfl | h
      · rw [hy] at ht; cases ht
      · simp [fillSeen, ht, h]
    · simp only [fillSeen, ht, if_false]
      rcases List.mem_cons.mp h with rfl | h
      · exact List.mem_cons_self
      · exact List.mem_cons_of_mem _ (ih h)

theorem seenAt_fillSlot (r : Region) (i : Nat) {k : Nat} (hk : k < 3) (id at_ : Nat) (tok : Token) (b : List Nat) (p : Holder) :
    (r.fillSlot i k id at_ tok b).seenAt p = if p = .slot i k then fillSeen id (tok, at_, none) (r.seenAt p) else r.seenAt p := by
  rw [Region.fillSlot, seenAt_setQueue _ _ hk]
  split
  · next h => rw [h, seenAt_slot _ _ hk, seen_fillToks]
  · rfl

/-- A place is filled where its target holds it, and nowhere else. -/
theorem seenAt_fill (r : Region) (now cell lat : Nat) (tg : Target) (id : Nat) (tok : Token) (b : List Nat) (p : Holder) :
    (r.fill now cell lat tg id tok b).seenAt p =
      if holderOf tg = some p then fillSeen id (tok, arrival now cell lat tg, none) (r.seenAt p) else r.seenAt p := by
  cases tg with
  | none => simp [Region.fill, holderOf]
  | left n => simpa [Region.fill, holderOf, eq_comm] using seenAt_fillSlot r n.toNat (by decide : 0 < 3) id _ tok b p
  | right n => simpa [Region.fill, holderOf, eq_comm] using seenAt_fillSlot r n.toNat (by decide : 1 < 3) id _ tok b p
  | pred n => simpa [Region.fill, holderOf, eq_comm] using seenAt_fillSlot r n.toNat (by decide : 2 < 3) id _ tok b p
  | write e =>
    cases p with
    | write e' =>
      by_cases h : e.toNat = e'
      · subst h; simp [Region.fill, Region.seenAt, Region.heldAt, holderOf, seen_fillToks]
      · simp [Region.fill, Region.seenAt, Region.heldAt, holderOf, Tbl.get_set_ne _ _ _ h, h]
    | slot i k => simp [Region.fill, Region.seenAt, Region.heldAt, holderOf, Region.node]
    | gate e' => simp [Region.fill, Region.seenAt, Region.heldAt, holderOf]
  | gate e =>
    cases p with
    | gate e' =>
      by_cases h : e.toNat = e'
      · subst h; simp [Region.fill, Region.seenAt, Region.heldAt, holderOf, seen_fillToks]
      · simp [Region.fill, Region.seenAt, Region.heldAt, holderOf, Tbl.get_set_ne _ _ _ h, h]
    | slot i k => simp [Region.fill, Region.seenAt, Region.heldAt, holderOf, Region.node]
    | write e' => simp [Region.fill, Region.seenAt, Region.heldAt, holderOf]

theorem placeAt_iff (r : Region) (tg : Target) (id : Nat) :
    r.placeAt tg id ↔ ∃ p, holderOf tg = some p ∧ ∃ x ∈ r.seenAt p, x.2.2 = some id := by
  cases tg <;> simp [Region.placeAt, holderOf, Region.seenAt, Region.heldAt, QTok.seen, Node.queue]

theorem holderOf_inj {t u : Target} {p : Holder} (ht : holderOf t = some p) (hu : holderOf u = some p) : t = u := by
  have h := ht.trans hu.symm
  cases t <;> cases u <;> simp [holderOf] at h ht ⊢ <;> exact BitVec.eq_of_toNat_eq h

theorem gets_fill {r : Region} {now cell lat : Nat} {tg : Target} {id : Nat} {tok : Token} {b : List Nat} (h : r.placeAt tg id) :
    (r.fill now cell lat tg id tok b).gets tg tok (arrival now cell lat tg) := by
  rw [gets_iff]
  intro p hp
  obtain ⟨q, hq, hx⟩ := (placeAt_iff r tg id).mp h
  obtain rfl : p = q := Option.some.inj (hp.symm.trans hq)
  rw [seenAt_fill, if_pos hp]
  exact mem_fillSeen hx

theorem gets_fill_of_gets {r : Region} {now cell lat at_ id : Nat} {tg u : Target} {tok tok' : Token} {b : List Nat}
    (h : r.gets tg tok' at_) : (r.fill now cell lat u id tok b).gets tg tok' at_ := by
  rw [gets_iff] at h ⊢
  intro p hp
  rw [seenAt_fill]
  split
  · exact mem_fillSeen_of_mem rfl (h p hp)
  · exact h p hp

theorem placeAt_fill_ne {r : Region} {now cell lat id : Nat} {tg u : Target} {tok : Token} {b : List Nat} (hne : tg ≠ u)
    (h : r.placeAt tg id) : (r.fill now cell lat u id tok b).placeAt tg id := by
  rw [placeAt_iff] at h ⊢
  obtain ⟨p, hp, hx⟩ := h
  refine ⟨p, hp, ?_⟩
  rw [seenAt_fill, if_neg (fun hu => hne (holderOf_inj hp hu))]
  exact hx

/-- The token of a result stands in both its places. -/
theorem gets_fillBoth {r : Region} {now cell lat id : Nat} {t0 t1 tg : Target} {tok : Token} {b : List Nat} (hm : tg ∈ [t0, t1])
    (h : r.placeAt tg id) :
    ((r.fill now cell lat t0 id tok b).fill now cell lat t1 id tok b).gets tg tok (arrival now cell lat tg) := by
  by_cases h0 : tg = t0
  · subst h0
    exact gets_fill_of_gets (gets_fill h)
  · obtain rfl : tg = t1 := by simpa [h0] using hm
    exact gets_fill (placeAt_fill_ne h0 h)

/-! ## Tiles and dot blocks of a task -/

@[simp] theorem dot_setDot (t : Task) (k : Nat) (d : Dot) : (t.setDot k d).dot k = d := Tbl.get_set ..
@[simp] theorem tile_setDot (t : Task) (k n : Nat) (d : Dot) : (t.setDot k d).tile n = t.tile n := rfl
@[simp] theorem tile_setTile (t : Task) (n : Nat) (x : Tile) : (t.setTile n x).tile n = x := Tbl.get_set ..

section
variable {s : State} {c : Nat} (hc : (s.cluster c).task.isSome = true)
include hc

theorem taskOf_modDot (k : Nat) (g : Dot → Dot) :
    (s.modDot c k g).taskOf c = (s.taskOf c).setDot k (g ((s.taskOf c).dot k)) := taskOf_modTaskOf hc _

end

theorem cluster_modDot (s : State) (c k d : Nat) (g : Dot → Dot) : (s.modDot c k g).cluster d = s.cluster d := cluster_modTaskOf ..

/-! ## The end of an operation -/

section
variable {s : State} {c cell lat : Nat} {o : DotOp}

/-- The operation is gone, its token is in its places, and memory stands. -/
theorem dotDone_spec (hc : (s.cluster c).task.isSome = true) :
    (∀ tg ∈ [o.t0, o.t1], (s.region c).placeAt tg o.id →
      ((s.dotDone c cell o lat).region c).gets tg (ctlOr true o.orig) (arrival (Nat.max o.done s.now) cell lat tg)) ∧
    (s.dotDone c cell o lat).taskOf c = (s.taskOf c).setDot cell { (s.taskOf c).dot cell with
      ops := ((s.taskOf c).dot cell).ops.filter (fun x => x.id != o.id) } ∧
    (s.dotDone c cell o lat).mem = s.mem ∧ ((s.dotDone c cell o lat).cluster c).task = (s.cluster c).task := by
  refine ⟨fun tg hm hp => ?_, ?_, modTaskOf_mem .., ?_⟩
  · have hg := gets_fillBoth (now := Nat.max o.done s.now) (cell := cell) (lat := lat) (b := o.bound) (tok := ctlOr true o.orig) hm hp
    rw [State.dotDone, State.modDot, region_modTaskOf, region_modRegion]
    cases ho : o.orig <;> rw [ho] at hg <;> exact hg
  · rw [State.dotDone, taskOf_modDot (by rw [cluster_modRegion]; exact hc), taskOf_modRegion]
  · rw [State.dotDone, cluster_modDot, cluster_modRegion]

theorem dotDone_gone (hc : (s.cluster c).task.isSome = true) :
    ∀ x ∈ (((s.dotDone c cell o lat).taskOf c).dot cell).ops, x.id ≠ o.id := by
  intro x hx
  rw [(dotDone_spec hc).2.1, dot_setDot] at hx
  simpa using (List.mem_filter.mp hx).2

end

/-! ## The bytes of a drain (R175) -/

/-- The bytes of n elements of z bytes each, one after the other. -/
def elemBytes (pa z n : Nat) (code : Nat → Nat) (bad : Nat → Bool) : List PByte :=
  (List.range n).flatMap (fun e => pbytes (pa + e * z) (leBytes z (code e)) (bad e))

theorem pbytes_leBytes (a z v : Nat) (bad : Bool) : pbytes a (leBytes z v) bad =
    (List.range z).map (fun j => { addr := a + j, val := BitVec.ofNat 8 (v / 256 ^ j), bad := bad }) := by
  simp only [pbytes, leBytes, List.length_map, List.length_range, List.zipWith_map_right, List.zipWith_self]

theorem elemBytes_addr (pa z n : Nat) (code : Nat → Nat) (bad : Nat → Bool) :
    (elemBytes pa z n code bad).map (·.addr) = (List.range (n * z)).map (pa + ·) := by
  induction n with
  | zero => simp [elemBytes]
  | succ n ih =>
    rw [elemBytes, List.range_succ, List.flatMap_append, List.map_append, ← elemBytes, ih, Nat.succ_mul, List.range_add, List.map_append]
    simp [pbytes_leBytes, Function.comp_def, Nat.add_assoc]

theorem mem_elemBytes {pa z n e j : Nat} {code : Nat → Nat} {bad : Nat → Bool} (he : e < n) (hj : j < z) :
    ({ addr := pa + e * z + j, val := BitVec.ofNat 8 (code e / 256 ^ j), bad := bad e } : PByte) ∈ elemBytes pa z n code bad := by
  rw [elemBytes, List.mem_flatMap]
  refine ⟨e, List.mem_range.mpr he, ?_⟩
  rw [pbytes_leBytes]
  exact List.mem_map.mpr ⟨j, List.mem_range.mpr hj, rfl⟩

/-- Each element reads back, and what stands beside them stays. -/
theorem read_elemBytes {m : List Host.Cell} (hm : Memory.wf m = true) (pa z n : Nat) (code : Nat → Nat) (bad : Nat → Bool) :
    let w := (elemBytes pa z n code bad).foldl (fun m b => Memory.write m b.addr b.val) m
    (∀ e < n, ∀ j < z, Memory.read w (pa + e * z + j) = BitVec.ofNat 8 (code e / 256 ^ j)) ∧
    (∀ a, (a < pa ∨ pa + n * z ≤ a) → Memory.read w a = Memory.read m a) := by
  have hnodup : ((elemBytes pa z n code bad).map (·.addr)).Nodup := by
    rw [elemBytes_addr]
    exact List.nodup_range.map (fun a b h => by simpa using h)
  refine ⟨fun e he j hj => read_writes hm hnodup (mem_elemBytes he hj), fun a ha => read_writes_ne fun b hb hab => ?_⟩
  have hmem : b.addr ∈ (elemBytes pa z n code bad).map (·.addr) := List.mem_map_of_mem hb
  rw [elemBytes_addr, List.mem_map] at hmem
  obtain ⟨k, hk, hkb⟩ := hmem
  have hk := List.mem_range.mp hk
  omega

theorem mapIdx_const {α β : Type} (f : α → β) (l : List α) : l.mapIdx (fun _ x => f x) = l.map f :=
  List.ext_getElem (by simp) (by simp)

/-- A drain that draws nothing writes the code of each element, in order. -/
theorem drainWrites_eq {ty : Ty} {route : Word} (hty : ty ≠ .bf16) (hm : bitsOf route 14 12 < 5) (pa tileRows rows : Nat) (acc : Acc)
    (g : Nat) : (drainWrites ty (bitsOf route 14 12) (route.getLsbD 15) pa tileRows rows acc g).1 =
      elemBytes pa (ty.elemBits / 8) (8 * rows) (fun e => drainCode route ty (acc.elems.get 0 e)) acc.poison.contains := by
  have h5 : bitsOf route 14 12 ≠ 5 := by omega
  simp only [drainWrites, drawLanes_eq, drawn24, if_neg h5, if_neg hty, List.append_nil, mapIdx_map]
  rw [mapIdx_const, List.flatMap_map]
  rfl

/-! ## The end of a drain (R175) -/

section
variable {s : State} {c cell pa : Nat} {o : DotOp} {ty : Ty}

theorem dotEnded_eq (s : State) (c cell kind : Nat) : s.dotEnded c cell kind =
    if (s.cluster c).skip == some s.now then none
    else ((s.taskOf c).dot cell).ops.find? (fun o => o.kind == kind && o.done ≤ s.now) := rfl

/-- Noting writes changes the task's list of them alone. -/
theorem noteWrites_frame (s t : State) (c : Nat) : (∀ d, (t.noteWrites s (s.taskIdOf c)).cluster d = t.cluster d) ∧
    (t.noteWrites s (s.taskIdOf c)).now = t.now ∧ (t.noteWrites s (s.taskIdOf c)).mem = t.mem ∧
    ∀ n, ∃ w, (t.noteWrites s (s.taskIdOf c)).task n = { t.task n with wrote := w } := by
  unfold State.noteWrites
  split
  · exact ⟨fun _ => rfl, rfl, rfl, fun n => ⟨_, rfl⟩⟩
  · refine ⟨fun _ => rfl, rfl, rfl, fun n => ?_⟩
    by_cases hn : s.taskIdOf c = n
    · subst hn
      exact ⟨_, task_modTask ..⟩
    · exact ⟨_, task_modTask_ne _ _ hn⟩

/-- What the end of a drain leaves of the dot block. -/
def Dot.drained (d : Dot) (o : DotOp) (b : List Nat) : Dot :=
  let d1 := if o.route.getLsbD 7 then d.setAcc o.acc {} else d
  { d1 with ops := d1.ops.map (fun x => if x.id = o.id then { x with wrote := true, bound := union x.bound b } else x) }

/-- The bytes that a drain writes. -/
def State.drainBytesOf (s : State) (c cell : Nat) (o : DotOp) (ty : Ty) (pa : Nat) : List PByte × Nat :=
  drainWrites ty (bitsOf o.route 14 12) (o.route.getLsbD 15) pa ((s.taskOf c).tile o.tile).rows o.rows
    (((s.taskOf c).dot cell).acc o.acc) ((s.taskOf c).gen o.node).toNat

/-- The state in which the bytes of a drain stand and its tile is READY. -/
def State.drainLanded (s : State) (c : Nat) (o : DotOp) (w : List PByte × Nat) : State :=
  ((s.store w.1 false none).noteWrites s (s.taskIdOf c)).modTaskOf c (fun x =>
    { x.setTile o.tile { (s.taskOf c).tile o.tile with state := .ready } with
      gens := if bitsOf o.route 14 12 = 5 then x.gens.set o.node (BitVec.ofNat 64 w.2) else x.gens })

theorem drainStore_eq (hty : routeTy o.route = some ty) (hrows : 0 < o.rows)
    (hb : s.tileBase c ((s.taskOf c).tile o.tile) .write = .ok pa) : s.drainStore c cell o =
      let u := s.drainLanded c o (s.drainBytesOf c cell o ty pa)
      u.modDot c cell (fun d => d.drained o (newWrites s u)) := by
  unfold State.drainStore
  simp only [hb, hty, if_neg hrows.ne']
  rfl

theorem drainLanded_spec (hc : (s.cluster c).task.isSome = true) (w : List PByte × Nat) :
    (s.drainLanded c o w).mem = (s.store w.1 false none).mem ∧ (s.drainLanded c o w).now = s.now ∧
    (s.drainLanded c o w).cluster c = s.cluster c ∧ ((s.drainLanded c o w).taskOf c).dot cell = (s.taskOf c).dot cell ∧
    (((s.drainLanded c o w).taskOf c).tile o.tile).state = .ready := by
  obtain ⟨hclus, hnow, hmem, htask⟩ := noteWrites_frame s (s.store w.1 false none) c
  unfold State.drainLanded
  generalize (s.store w.1 false none).noteWrites s (s.taskIdOf c) = v at hclus hnow hmem htask ⊢
  have hv : (v.cluster c).task.isSome = true := by rw [hclus]; exact hc
  obtain ⟨wr, hwr⟩ := htask (s.taskIdOf c)
  have hvt : v.taskOf c = { s.taskOf c with wrote := wr } := by
    rw [State.taskOf, State.taskIdOf, hclus]
    exact hwr
  refine ⟨by rw [modTaskOf_mem, hmem], by rw [modTaskOf_now, hnow]; rfl, by rw [cluster_modTaskOf, hclus]; rfl, ?_, ?_⟩
  · rw [taskOf_modTaskOf hv, hvt]
    rfl
  · rw [taskOf_modTaskOf hv]
    exact congrArg Tile.state (Tbl.get_set ..)

/-- The operation of a drain that has stored its bytes is the one that ended, and knows it. -/
theorem find_drained {d : Dot} {p : DotOp → Bool} (b : List Nat)
    (hp : ∀ x b, p { x with wrote := true, bound := b } = p x) (h : d.ops.find? p = some o) :
    (d.drained o b).ops.find? p = some { o with wrote := true, bound := union o.bound b } := by
  have hops : (d.drained o b).ops =
      d.ops.map (fun x => if x.id = o.id then { x with wrote := true, bound := union x.bound b } else x) := by
    unfold Dot.drained Dot.setAcc
    split <;> rfl
  have hfun : p ∘ (fun x : DotOp => if x.id = o.id then { x with wrote := true, bound := union x.bound b } else x) = p := by
    funext x
    simp only [Function.comp_apply]
    split
    · exact hp x _
    · rfl
  rw [hops, List.find?_map, hfun, h]
  simp

theorem acc_drained (d : Dot) (o : DotOp) (b : List Nat) (l : List DotOp) :
    ({ d.drained o b with ops := l } : Dot).acc o.acc = if o.route.getLsbD 7 then {} else d.acc o.acc := by
  unfold Dot.drained Dot.acc Dot.setAcc
  split
  · exact Tbl.get_set ..
  · rfl

end

theorem exec_mmaComplete {s : State} {c cell : Nat} {o : DotOp} (h : s.dotEnded c cell 0 = some o) :
    exec (.mmaComplete c cell) s = .next (s.dotDone c cell o 6) := by
  simp only [exec, execMmaComplete, h]

theorem exec_shadowLoaded {s : State} {c cell : Nat} {o : DotOp} (h : s.dotEnded c cell 1 = some o) :
    exec (.shadowLoaded c cell) s = .next ((s.dotDone c cell o 0).modDot c cell (fun d => { d with shState := .loaded })) := by
  simp only [exec, execShadowLoaded, h]

/-- A drain without a signal whose bytes are stored is done. -/
theorem exec_mdrainComplete {s : State} {c cell : Nat} {o o1 : DotOp} (h : s.dotEnded c cell 2 = some o) (hw : o.wrote = false)
    (h1 : (s.drainStore c cell o).dotEnded c cell 2 = some o1) (hf : ((s.drainStore c cell o).region c).frozen = none)
    (hn : bitsOf o1.route 23 16 = 0xFF) :
    exec (.mdrainComplete c cell) s = .next ((s.drainStore c cell o).dotDone c cell o1 0) := by
  have hsig : (s.drainStore c cell o).drainSignal c o1 = .ok (s.drainStore c cell o) := if_pos hn
  simp [exec, execMdrainComplete, h, hw, h1, hf, hsig]

theorem read_drained {s : State} {c cell pa : Nat} {o : DotOp} {ty : Ty} (hm : s.memOk) (hty : ty ≠ .bf16)
    (hmode : bitsOf o.route 14 12 < 5) :
    (∀ e < 8 * o.rows, ∀ j < ty.elemBits / 8,
      Memory.read (s.store (s.drainBytesOf c cell o ty pa).1 false none).mem (pa + e * (ty.elemBits / 8) + j) =
        BitVec.ofNat 8 (drainCode o.route ty ((((s.taskOf c).dot cell).acc o.acc).elems.get 0 e) / 256 ^ j)) ∧
    (∀ a, (a < pa ∨ pa + 8 * o.rows * (ty.elemBits / 8) ≤ a) →
      Memory.read (s.store (s.drainBytesOf c cell o ty pa).1 false none).mem a = Memory.read s.mem a) := by
  rw [State.drainBytesOf, drainWrites_eq hty hmode]
  exact read_elemBytes hm ..

/-- Settles O47: what ends the operation, and for a drain what it has stored before. -/
theorem dotOperationsEnd : Obligations.DotOperationsEnd := by
  intro c cell s o hc
  refine ⟨fun h => ?_, fun h => ?_, fun ty pa h hw hf hn hty hbf hmode hrows hb hm => ?_⟩
  · obtain ⟨harr, -, hmem, -⟩ := dotDone_spec (cell := cell) (lat := 6) (o := o) hc
    exact ⟨_, exec_mmaComplete h, harr, dotDone_gone hc, hmem⟩
  · obtain ⟨harr, -, hmem, htask⟩ := dotDone_spec (cell := cell) (lat := 0) (o := o) hc
    have hc' : ((s.dotDone c cell o 0).cluster c).task.isSome = true := by rw [htask]; exact hc
    refine ⟨_, exec_shadowLoaded h, fun tg ht hp => ?_, fun x hx => ?_, (modTaskOf_mem ..).trans hmem, ?_⟩
    · rw [State.modDot, region_modTaskOf]
      exact harr tg ht hp
    · rw [taskOf_modDot hc', dot_setDot] at hx
      exact dotDone_gone hc x hx
    · rw [taskOf_modDot hc', dot_setDot]
  · obtain ⟨lmem, lnow, lclus, ldot, ltile⟩ := drainLanded_spec (cell := cell) (o := o) hc (s.drainBytesOf c cell o ty pa)
    have hstore := drainStore_eq (cell := cell) hty hrows hb
    generalize hu : s.drainLanded c o (s.drainBytesOf c cell o ty pa) = u at lmem lnow lclus ldot ltile hstore
    have huc : (u.cluster c).task.isSome = true := by rw [lclus]; exact hc
    generalize hv : s.drainStore c cell o = v at hstore
    have hclus : v.cluster c = s.cluster c := by rw [hstore, cluster_modDot, lclus]
    have hvc : (v.cluster c).task.isSome = true := by rw [hclus]; exact hc
    have hnow : v.now = s.now := by rw [hstore, State.modDot, modTaskOf_now, lnow]
    have hmem : v.mem = u.mem := by rw [hstore, State.modDot, modTaskOf_mem]
    have htask : v.taskOf c = (u.taskOf c).setDot cell (((s.taskOf c).dot cell).drained o (newWrites s u)) := by
      rw [hstore, taskOf_modDot huc, ldot]
    have hend : v.dotEnded c cell 2 = some { o with wrote := true, bound := union o.bound (newWrites s u) } := by
      rw [dotEnded_eq] at h ⊢
      rw [hclus, hnow, htask, dot_setDot]
      split at h
      · cases h
      · next hs =>
        rw [if_neg hs]
        exact find_drained _ (fun _ _ => rfl) h
    obtain ⟨harr, hdone, hdmem, -⟩ := dotDone_spec (cell := cell) (lat := 0)
      (o := { o with wrote := true, bound := union o.bound (newWrites s u) }) hvc
    have hexec := exec_mdrainComplete (o1 := { o with wrote := true, bound := union o.bound (newWrites s u) }) h hw (by rw [hv]; exact hend) (by rw [hv, State.region, hclus]; exact hf) hn
    rw [hv] at hexec
    obtain ⟨hread, hrest⟩ := read_drained (c := c) (cell := cell) (pa := pa) hm hbf hmode
    refine ⟨_, hexec, fun tg ht hp => ?_, dotDone_gone hvc, ?_, fun hclr => ?_, fun hclr => ?_, ?_, ?_⟩
    · rw [State.region, ← hclus] at hp
      rw [← hnow]
      exact harr tg ht hp
    · rw [hdone, htask]
      exact ltile
    · rw [hdone, htask, dot_setDot, dot_setDot, acc_drained, if_pos hclr]
    · rw [hdone, htask, dot_setDot, dot_setDot, acc_drained, if_neg (by rw [hclr]; decide)]
    · rw [hdmem, hmem, lmem]
      exact hread
    · rw [hdmem, hmem, lmem]
      exact hrest

end Sys2Proof.Machine
end

section
/-!
CALLS PARK AND RETURNS UNPARK (R199, R359, R360): step 5 of a boundary, and the steps after it.
-/

namespace Sys2Proof.Machine

open Sys2Proof

/-! ## Numbers as bytes (R4) -/

theorem leBytes_succ (n v : Nat) : leBytes (n + 1) v = BitVec.ofNat 8 v :: leBytes n (v / 256) := by
  simp only [leBytes, List.range_succ_eq_map, List.map_cons, List.map_map]
  refine congrArg₂ _ (by simp) (List.map_congr_left fun k _ => ?_)
  simp [Nat.pow_succ', Nat.div_div_eq_div_mul]

@[simp] theorem length_leBytes (n v : Nat) : (leBytes n v).length = n := by simp [leBytes]

/-- The bytes of a number give it back, as far as they reach. -/
theorem leVal_leBytes (n v : Nat) : leVal (leBytes n v) = v % 256 ^ n := by
  induction n generalizing v with
  | zero => simp [leBytes, leVal, Nat.mod_one]
  | succ n ih =>
    have hp : 256 ^ (n + 1) = 256 * 256 ^ n := Nat.pow_succ'
    rw [leBytes_succ, leVal, List.foldr_cons, ← leVal, ih, BitVec.toNat_ofNat, hp]
    exact (Nat.mod_mul (x := v) (a := 256)).symm

theorem leNow_eq (s : State) (a n : Nat) : s.leNow a n = leVal (s.bytesNow a n) := rfl

/-! ## Bytes that are written one after the other -/

/-- Bytes written from an address on read back, and what stands beside them stays. -/
theorem read_pbytes {m : List Host.Cell} (hm : Memory.wf m = true) (a : Nat) (bs : List Byte) (bad : Bool) :
    let w := (pbytes a bs bad).foldl (fun m b => Memory.write m b.addr b.val) m
    (∀ j (hj : j < bs.length), Memory.read w (a + j) = bs[j]) ∧
    (∀ x, (x < a ∨ a + bs.length ≤ x) → Memory.read w x = Memory.read m x) := by
  have haddr : (pbytes a bs bad).map (·.addr) = (List.range bs.length).map (a + ·) :=
    List.ext_getElem (by simp [pbytes]) (fun _ _ _ => by simp [pbytes])
  have hnodup : ((pbytes a bs bad).map (·.addr)).Nodup := by
    rw [haddr]
    exact List.nodup_range.map (fun x y h => by simpa using h)
  refine ⟨fun j hj => ?_, fun x hx => read_writes_ne fun b hb hab => ?_⟩
  · have hb : ({ addr := a + j, val := bs[j], bad := bad } : PByte) ∈ pbytes a bs bad :=
      List.mem_iff_getElem.mpr ⟨j, by simpa [pbytes] using hj, by simp [pbytes]⟩
    exact read_writes hm hnodup hb
  · have hmem : b.addr ∈ (pbytes a bs bad).map (·.addr) := List.mem_map_of_mem hb
    rw [haddr, List.mem_map] at hmem
    obtain ⟨k, hk, hkb⟩ := hmem
    have hk := List.mem_range.mp hk
    omega

/-- A piece of pieces of one length. -/
theorem slice_flatten {α : Type} {m : Nat} (l : List (List α)) (hl : ∀ x ∈ l, x.length = m) {k : Nat} (hk : k < l.length) :
    (l.flatten.drop (m * k)).take m = l[k] := by
  induction l generalizing k with
  | nil => simp at hk
  | cons x l ih =>
    have hx := hl x List.mem_cons_self
    cases k with
    | zero => simp [hx]
    | succ k =>
      rw [List.flatten_cons, Nat.mul_succ, Nat.add_comm, ← List.drop_drop, List.drop_left' hx,
        ih (fun y hy => hl y (List.mem_cons_of_mem _ hy)) (by simpa using hk), List.getElem_cons_succ]

/-! ## The park frame (R359) -/

/-- The words of a park frame. -/
def parkWords (t : Task) (save dep : Nat) : List Nat :=
  (dep * 256 + save) :: (List.range 15).map (fun n => if n < save then (t.reg (16 + n)).toNat else 0)

theorem parkFrame_eq (t : Task) (save dep : Nat) : parkFrame t save dep = ((parkWords t save dep).map (leBytes 8)).flatten := by
  simp only [parkFrame, parkWords, List.map_cons, List.flatten_cons, List.map_map]
  congr 3
  funext n
  simp only [Function.comp_apply]
  split <;> rfl

@[simp] theorem length_parkWords (t : Task) (save dep : Nat) : (parkWords t save dep).length = 16 := by simp [parkWords]

theorem length_parkFrame (t : Task) (save dep : Nat) : (parkFrame t save dep).length = 128 := by
  rw [parkFrame_eq, List.length_flatten, List.map_map]
  simp [Function.comp_def]

/-- The words of a park frame that is written read back. -/
theorem leNow_parkFrame {s : State} (hm : s.memOk) (a : Nat) (t : Task) (save dep : Nat) {k : Nat} (hk : k < 16) :
    (s.store (pbytes a (parkFrame t save dep) false) false none).leNow (a + 8 * k) 8 =
      ((parkWords t save dep)[k]'(by simpa using hk)) % 2 ^ 64 := by
  have hlen := length_parkFrame t save dep
  have hbytes : (s.store (pbytes a (parkFrame t save dep) false) false none).bytesNow (a + 8 * k) 8 =
      ((parkFrame t save dep).drop (8 * k)).take 8 := by
    refine List.ext_getElem (by simp [State.bytesNow, span, hlen]; omega) (fun j hj _ => ?_)
    simp only [State.bytesNow, span, List.length_map, List.length_range] at hj
    simp only [State.bytesNow, span, List.getElem_map, List.getElem_range, List.getElem_take, List.getElem_drop, Nat.add_assoc]
    exact (read_pbytes hm a (parkFrame t save dep) false).1 (8 * k + j) (by omega)
  rw [leNow_eq, hbytes, parkFrame_eq, slice_flatten _ (by simp) (by simpa using hk), List.getElem_map, leVal_leBytes]
  rfl

/-! ## After step 5 (R213) -/

/-- Step 5 is done with an effect on the task: step 6 is next. -/
def State.sequenced (s : State) (c : Nat) (g : Task → Task) : State :=
  (s.modTaskOf c g).modRegion c (fun r => { r with step := 6, until_ := 0 })

section
variable {s u : State} {c : Nat} {im : Image} {x : Sel} {sh : Shadow} {g : Task → Task} (hr : s.running c = true)
  (he : (s.taskOf c).ending = false) (hi : (s.region c).img = some im) (hst : im.strict = false) (hx : (s.region c).sel = some x)
  (ht : x.successor ≠ none) (hs : (s.region c).shadow = some sh) (hd : sh.ready = false)
  (hclus : u.cluster c = s.cluster c) (hnow : u.now = s.now) (hg : (g (u.taskOf c)).ending = false)
include hr hclus

theorem taskOf_sequenced : (u.sequenced c g).taskOf c = g (u.taskOf c) := by
  rw [State.sequenced, taskOf_modRegion, taskOf_modTaskOf]
  rw [hclus]
  exact Option.isSome_iff_exists.mpr (task_of_running hr)

include hi hst hx ht hs hd hnow hg

/-- With a successor that is not loaded, a boundary goes on from step 5 to step 7 and waits there. -/
theorem boundary_sequenced (n : Nat) : State.boundary c (n + 1) (u.sequenced c g) = (u.sequenced c g).toStep c 7 := by
  have hreg : (u.sequenced c g).region c = { s.region c with step := 6, until_ := 0 } := by
    rw [State.sequenced, region_modRegion, region_modTaskOf, State.region, hclus]
    rfl
  have hrun : (u.sequenced c g).running c = true := by
    rw [← hr]
    refine running_congr ?_ ?_ (by rw [hreg]) (by rw [hreg])
    · rw [State.sequenced, modRegion_now, modTaskOf_now, hnow]
    · rw [hreg, State.sequenced, cluster_modRegion, region_modTaskOf, cluster_modTaskOf, hclus, State.region, hclus]
      rfl
  have hend : ((u.sequenced c g).taskOf c).ending = false := by rw [taskOf_sequenced hr hclus]; exact hg
  rw [boundary_succ hrun hend, boundaryStep_6 (by rw [hreg]) (by rw [hreg]; exact hi) hst, boundary_waits]
  refine boundaryStep_7_waits (sh := sh) (step_toStep ..) ?_ ?_ hd
  · simp only [State.toStep, region_modRegion, hreg, Region.target, hx]
    simpa using ht
  · simp only [State.toStep, region_modRegion, hreg, hs]

end

/-- What a call does to its task as it parks (R360). -/
def Task.parked (lk : Word) (sp : Word) (w : Nat) (x : Task) : Task :=
  { (x.setReg 1 sp).setReg 2 lk with depth := x.depth + 1, bound := union x.bound [w] }

section
variable {s : State} {c : Nat} {im : Image} {x : Sel} (h5 : (s.region c).step = 5) (hi : (s.region c).img = some im)
  (hx : (s.region c).sel = some x) (hu0 : (s.region c).until_ ≠ 0) (hun : (s.region c).until_ ≤ s.now)
include h5 hi hx hu0 hun

theorem boundaryStep_5_call (hk : x.kind = .call ∨ x.kind = .calli) : s.boundaryStep c = s.parkRegs c im := by
  have hlt : ¬ s.now < (s.region c).until_ := not_lt.mpr hun
  rcases hk with hk | hk <;> simp [State.boundaryStep, h5, State.step5, hi, hx, hu0, hlt, hk]

theorem boundaryStep_5_ret (hk : x.kind = .ret) : s.boundaryStep c = s.unparkRegs c := by
  have hlt : ¬ s.now < (s.region c).until_ := not_lt.mpr hun
  simp [State.boundaryStep, h5, State.step5, hi, hx, hu0, hlt, hk]

end

/-- The state in which the frame of a call stands in its park line. -/
def State.parkStored (s : State) (c : Nat) (im : Image) : State :=
  s.store (pbytes (parkLine c (s.taskOf c).depth) (parkFrame (s.taskOf c) im.save ((s.taskOf c).depth + 1)) false) false none

theorem parkRegs_eq {s : State} {c : Nat} (im : Image) (hd : (s.taskOf c).depth < 15) (hp : (s.taskOf c).nopark = false) :
    ∃ g : Task → Task, s.parkRegs c im = (s.parkStored c im).sequenced c g ∧
      g (s.taskOf c) = (s.taskOf c).parked (BitVec.ofNat 64 ((s.region c).blk + 32 * Image.size im)) ((s.taskOf c).reg 1)
        (s.parkStored c im).wseq := by
  have h1 : ¬ (s.taskOf c).depth = 0xFFFFFFFF := by omega
  have h2 : ((s.taskOf c).depth + 1 ≤ 15 && !(s.taskOf c).nopark) = true := by simp [hp]; omega
  simp only [State.parkRegs, if_neg h1, h2, if_true]
  exact ⟨_, rfl, rfl⟩

/-- The registers that a return takes back from a frame (R360). -/
def Task.unparked (t : Task) (bs : List Byte) (n : Nat) : Task :=
  (List.range n).foldl (fun x k => x.setReg (16 + k) (wordAt bs (8 * (1 + k)))) t

theorem unparked_succ (t : Task) (bs : List Byte) (n : Nat) :
    t.unparked bs (n + 1) = (t.unparked bs n).setReg (16 + n) (wordAt bs (8 * (1 + n))) := by
  rw [Task.unparked, List.range_succ, List.foldl_append]
  rfl

theorem ending_setReg (t : Task) (n : Nat) (v : Word) : (t.setReg n v).ending = t.ending := by
  unfold Task.setReg
  split <;> rfl

theorem reg_unparked (t : Task) (bs : List Byte) (n m : Nat) : (t.unparked bs n).reg m =
    if 16 ≤ m ∧ m < 16 + n then wordAt bs (8 * (1 + (m - 16))) else t.reg m := by
  induction n with
  | zero => rw [if_neg (by omega)]; rfl
  | succ n ih =>
    rw [unparked_succ]
    by_cases hm : 16 + n = m
    · subst hm
      rw [reg_setReg _ _ _ (by omega), if_pos (by omega), Nat.add_sub_cancel_left]
    · rw [reg_setReg_ne _ _ hm, ih]
      congr 1
      exact propext (by omega)

theorem ending_unparked (t : Task) (bs : List Byte) (n : Nat) : (t.unparked bs n).ending = t.ending := by
  induction n with
  | zero => rfl
  | succ n ih => rw [unparked_succ, ending_setReg, ih]

/-- A clean frame of the task's depth gives its registers back. -/
theorem unparkRegs_eq {s : State} {c n : Nat} (h0 : 0 < (s.taskOf c).depth) (h15 : (s.taskOf c).depth ≤ 15)
    (hp : (s.taskOf c).nopark = false) (hn : n < 16)
    (hh : s.leNow (parkLine c ((s.taskOf c).depth - 1)) 8 = (s.taskOf c).depth * 256 + n)
    (hm : ∀ j < 128, s.marked (parkLine c ((s.taskOf c).depth - 1) + j) = false) :
    ∃ g : Task → Task, s.unparkRegs c = (s.findErrors (span (parkLine c ((s.taskOf c).depth - 1)) 128)).sequenced c g ∧
      ∃ b, g (s.taskOf c) = { (s.taskOf c).unparked (s.bytesNow (parkLine c ((s.taskOf c).depth - 1)) 128) n with
        depth := (s.taskOf c).depth - 1, bound := b } := by
  generalize hpas : parkLine c ((s.taskOf c).depth - 1) = a at hh hm ⊢
  have hval : leVal ((s.bytesNow a 128).take 8) = (s.taskOf c).depth * 256 + n := by
    rw [← hh, leNow_eq, State.bytesNow, State.bytesNow, ← List.map_take]
    rfl
  have hbad : (span a 128).any s.marked = false := by
    rw [List.any_eq_false]
    intro p hp
    obtain ⟨j, hj, rfl⟩ := List.mem_map.mp hp
    simp [hm j (List.mem_range.mp hj)]
  have h1 : ¬ (s.taskOf c).depth = 0 := by omega
  have h2 : ((s.taskOf c).depth ≤ 15 && !(s.taskOf c).nopark) = true := by simp [hp, h15]
  have htask : (s.findErrors (span a 128)).taskOf c = s.taskOf c := by
    simp only [State.taskOf, State.taskIdOf, State.task, State.cluster, findErrors_clusters, findErrors_tasks]
  have h3 : (((s.taskOf c).depth * 256 + n) / 256 % 2 ^ 32 != (s.taskOf c).depth ||
      ((s.taskOf c).depth * 256 + n) / 16 % 16 != 0 || ((s.taskOf c).depth * 256 + n) / 2 ^ 40 != 0) = false := by
    simp only [Bool.or_eq_false_iff, bne_eq_false_iff_eq]
    omega
  have h4 : ((s.taskOf c).depth * 256 + n) % 16 = n := by omega
  unfold State.unparkRegs
  simp only [if_neg h1, h2, if_true, hpas, hbad]
  rw [State.unparkFrom]
  simp only [htask]
  rw [show (span a 128).map (Memory.read s.mem) = s.bytesNow a 128 from rfl, hval]
  simp only [h3, Bool.false_eq_true, if_false, h4]
  exact ⟨_, rfl, _, rfl⟩

theorem wordAt_bytesNow (s : State) (a : Nat) {n o : Nat} (h : o + 8 ≤ n) :
    wordAt (s.bytesNow a n) o = BitVec.ofNat 64 (s.leNow (a + o) 8) := by
  have hb : ((s.bytesNow a n).drop o).take 8 = s.bytesNow (a + o) 8 :=
    List.ext_getElem (by simp [State.bytesNow, span]; omega) (fun j _ _ => by simp [State.bytesNow, span, Nat.add_assoc])
  have hl : (s.bytesNow (a + o) 8).length = 8 := by simp [State.bytesNow, span]
  simp only [wordAt, Image.slice, hb, hl, leNow_eq, Nat.sub_self, List.replicate_zero, List.append_nil]

/-- Settles O45: step 5 by the frame it writes or reads, then the steps up to the seventh. -/
theorem callsParkAndReturnsUnpark : Obligations.CallsParkAndReturnsUnpark := by
  refine ⟨fun c s im x sh hr he hm h5 hi hst hsave hx hk hu0 hun hs hd hdep hp hn ht => ?_,
    fun c n s im x sh hr he h5 hi hst hx hk ha hu0 hun hs hd h0 h15 hp hn hh hmark => ?_⟩
  · have hsucc : x.successor ≠ none := by rcases hk with hk | hk <;> simp [Sel.successor, hk]
    obtain ⟨g, hg, hgt⟩ := parkRegs_eq im hdep hp
    have htask : ((s.parkStored c im).sequenced c g).taskOf c = g (s.taskOf c) := taskOf_sequenced hr rfl
    have hend : (g (s.taskOf c)).ending = false := by rw [hgt, Task.parked, ending_setReg, ending_setReg]; exact he
    have hmem : (((s.parkStored c im).sequenced c g).toStep c 7).mem = (s.parkStored c im).mem := modTaskOf_mem ..
    have hle : ∀ a n, (((s.parkStored c im).sequenced c g).toStep c 7).leNow a n = (s.parkStored c im).leNow a n := fun a n => by
      simp only [State.leNow, State.bytesNow, hmem]
    refine ⟨((s.parkStored c im).sequenced c g).toStep c 7, ?_, step_toStep .., ?_, ?_, ?_, ?_, fun k hk => ?_, fun a ha => ?_⟩
    · rw [execBlockBoundary_steps (by omega), boundary_succ hr he, boundaryStep_5_call h5 hi hx hu0 hun hk, hg]
      exact congrArg _ (boundary_sequenced (u := s.parkStored c im) hr hi hst hx hsucc hs hd rfl rfl hend 10)
    · rw [State.toStep, taskOf_modRegion, htask, hgt]; rfl
    · rw [State.toStep, taskOf_modRegion, htask, hgt]; exact reg_setReg _ _ _ (by decide)
    · rw [State.toStep, taskOf_modRegion, htask, hgt]
      exact (reg_setReg_ne _ _ (by decide)).trans (reg_setReg _ _ _ (by decide))
    · rw [hle]
      refine (leNow_parkFrame hm _ _ _ _ (k := 0) (by decide)).trans (Nat.mod_eq_of_lt ?_)
      simp only [parkWords, List.getElem_cons_zero]
      omega
    · rw [hle]
      refine (leNow_parkFrame hm _ _ _ _ (k := 1 + k) (by omega)).trans ?_
      simp only [parkWords, Nat.add_comm 1 k, List.getElem_cons_succ, List.getElem_map, List.getElem_range, if_pos hk]
      exact Nat.mod_eq_of_lt (BitVec.isLt _)
    · rw [hmem]
      refine (read_pbytes hm (parkLine c (s.taskOf c).depth) (parkFrame (s.taskOf c) im.save ((s.taskOf c).depth + 1)) false).2 a ?_
      rwa [length_parkFrame]
  · have hsucc : x.successor ≠ none := by
      simp only [Sel.successor, hk, if_neg ha]
      exact Option.some_ne_none _
    obtain ⟨g, hg, b, hgt⟩ := unparkRegs_eq h0 h15 hp hn hh hmark
    generalize hu : s.findErrors (span (parkLine c ((s.taskOf c).depth - 1)) 128) = u at hg
    have hclus : u.cluster c = s.cluster c := by rw [← hu, State.cluster, findErrors_clusters]; rfl
    have hnow : u.now = s.now := by rw [← hu, findErrors_now]
    have hut : u.taskOf c = s.taskOf c := by
      rw [← hu]
      simp only [State.taskOf, State.taskIdOf, State.task, State.cluster, findErrors_clusters, findErrors_tasks]
    have htask : (u.sequenced c g).taskOf c = g (s.taskOf c) := by rw [taskOf_sequenced hr hclus, hut]
    have hend : (g (u.taskOf c)).ending = false := by rw [hut, hgt]; exact (ending_unparked ..).trans he
    have hreg : ∀ m, (((u.sequenced c g).toStep c 7).taskOf c).reg m =
        ((s.taskOf c).unparked (s.bytesNow (parkLine c ((s.taskOf c).depth - 1)) 128) n).reg m := fun m => by
      rw [State.toStep, taskOf_modRegion, htask, hgt]; rfl
    refine ⟨(u.sequenced c g).toStep c 7, ?_, step_toStep .., ?_, ?_, fun k hk => ?_, fun k hk => ?_⟩
    · rw [execBlockBoundary_steps (by omega), boundary_succ hr he, boundaryStep_5_ret h5 hi hx hu0 hun hk, hg]
      exact congrArg _ (boundary_sequenced hr hi hst hx hsucc hs hd hclus hnow hend 10)
    · rw [State.toStep, taskOf_modRegion, htask, hgt]
    · exact (modTaskOf_mem ..).trans (by rw [← hu, findErrors_mem])
    · rw [hreg, reg_unparked, if_pos (by omega), Nat.add_sub_cancel_left, wordAt_bytesNow _ _ (by omega)]
    · rw [hreg, reg_unparked, if_neg (by omega)]

end Sys2Proof.Machine
end

section
/-!
STEPS OF A COMMAND (R178, R180, R181, R256): when a command acts, what the read of its descriptor comes to, and what its wait, its
claim and its read of the descriptor do.
-/

namespace Sys2Proof.Machine

open Sys2Proof

/-! ## A command that acts at a step -/

/-- A command that acts at a step stands in the queue, at that step. -/
theorem cmdReady_some {s : State} {c k n : Nat} {q : Cmd} (h : s.cmdReady c k n = some q) :
    s.cmdAt c k = some q ∧ q.step = n ∧ s.cmdLive c q = true := by
  unfold State.cmdReady at h
  split at h
  next x hx =>
    split at h
    next hg =>
      cases h
      simp only [Bool.and_eq_true, decide_eq_true_eq] at hg
      exact ⟨hx, hg.1, hg.2⟩
    next => cases h
  next => cases h

/-- A command that acts up to step 4 is not the command of a killed task. -/
theorem alive_of_cmdReady {s : State} {c k n : Nat} {q : Cmd} (h : s.cmdReady c k n = some q) (hn : n ≤ 4) : q.dead = false := by
  obtain ⟨-, hstep, hlive⟩ := cmdReady_some h
  simp only [State.cmdLive, Bool.and_eq_true, Bool.or_eq_true, decide_eq_true_eq, Bool.not_eq_true'] at hlive
  obtain ⟨-, h4 | ⟨⟨hd, -⟩, -⟩⟩ := hlive
  · omega
  · exact hd

/-- A command that performs for its own task alone changes that task. -/
theorem modBoth_alone {q : Cmd} (h : q.mate = none) (s : State) (f : Task → Task) : s.modBoth q f = s.modTask q.task f := by
  simp only [State.modBoth, h]

theorem cmdIrrevoke_alone {q : Cmd} (h : q.mate = none) (s : State) :
    s.cmdIrrevoke q = s.modTask q.task (fun t => { t with irrev := true }) := modBoth_alone h s _

/-- A trap of a command at its place, before any work. -/
theorem cmdTrap_stops {q : Cmd} (hd : q.dead = false) (h4 : q.step ≠ 5) (s : State) (c : Nat) (x : TrapRec) :
    s.cmdTrap c q x = (s.putCmd c { q with stopped := true, early := none }).raise c { x with cmd := some q.id } := by
  simp [State.cmdTrap, hd, h4]

/-! ## The way to the descriptor -/

/-- A way leads to its places exactly if no request meets a fault, every module on it is open, and every place is at hand. -/
theorem reach_go_iff (s : State) (c : Nat) (w : Requester) (prio : Nat) (l : List (Word × Nat)) :
    s.reach c w prio l = .go ↔ (l.filter (fun x => isFar x.2)).findSome? (fun x => s.reachFault c w x.1 x.2) = none ∧
      l.all (fun x => s.pathOpen c x.2) = true ∧ (l.filter (fun x => isFar x.2)).all (fun x => s.atHand c w x.2) = true := by
  unfold State.reach
  dsimp only
  cases (l.filter (fun x => isFar x.2)).findSome? (fun x => s.reachFault c w x.1 x.2) with
  | some x => simp
  | none =>
    by_cases h1 : l.all (fun x => s.pathOpen c x.2) = true
    · by_cases h2 : (l.filter (fun x => isFar x.2)).all (fun x => s.atHand c w x.2) = true <;> simp [h1, h2]
    · simp [h1]

/-- A way that leads to its places still does after a walk. -/
theorem State.walkOf.reach {s t : State} (h : s.walkOf t) {c prio : Nat} {w : Requester} {l : List (Word × Nat)}
    (hr : s.reach c w prio l = .go) (prio' : Nat) : t.reach c w prio' l = .go := by
  rw [reach_go_iff] at hr ⊢
  simpa only [h.reachFault, h.pathOpen, h.atHand] using hr

theorem State.walkOf.cmdReach {s t : State} (h : s.walkOf t) {c : Nat} {q : Cmd} {l : List (Word × Nat)}
    (hr : s.cmdReach c q l = .go) : t.cmdReach c q l = .go := h.reach hr _

section
variable (s : State) (c : Nat) (q : Cmd) (pas : List Nat)

/-- The state once the descriptor's translations are in the TLB. -/
theorem walkOf_descWalked : s.walkOf (s.walked (s.cmdSpace c q) q.l (descSize q.ins) .desc) := walkOf_walked ..

@[simp] theorem descRead_mem : (s.descRead c q pas).mem = s.mem := by
  rw [State.descRead, findErrors_mem, State.cmdReached, reached_only]
  exact (walkOf_descWalked ..).mem

@[simp] theorem descRead_tasks : (s.descRead c q pas).tasks = s.tasks := by
  rw [State.descRead, findErrors_tasks, State.cmdReached, reached_only]
  exact (walkOf_descWalked ..).tasks

@[simp] theorem descRead_arrivals : (s.descRead c q pas).arrivals = s.arrivals := by
  rw [State.descRead, findErrors_arrivals, State.cmdReached, reached_only]
  show (s.walked (s.cmdSpace c q) q.l (descSize q.ins) .desc).arrivals = s.arrivals
  rw [(walkOf_descWalked s c q).rest]

@[simp] theorem descRead_eq (d : Nat) : ((s.descRead c q pas).cluster d).eq = (s.cluster d).eq := by
  rw [State.descRead, State.cluster, findErrors_clusters, State.cmdReached, reached_only]
  show ((s.walked (s.cmdSpace c q) q.l (descSize q.ins) .desc).cluster d).eq = (s.cluster d).eq
  rw [(walkOf_descWalked s c q).clus d]

end

theorem descRead_task (s : State) (c : Nat) (q : Cmd) (pas : List Nat) (t : Nat) : (s.descRead c q pas).task t = s.task t := by
  rw [State.task, descRead_tasks]; rfl

/-! ## What the read of the descriptor comes to -/

section
variable {s : State} {c : Nat} {q : Cmd} (go : State → List Nat → List Byte → State)

/-- A descriptor that reads is given on. -/
theorem withDesc_read {pas : List Nat} {d : List Byte} (h : HasDesc c q pas d s) : s.withDesc c q go = go (s.descRead c q pas) pas d := by
  have hr := (walkOf_descWalked s c q).cmdReach h.reach
  simp only [State.withDesc, h.walk, h.places, hr, h.bytes]
  rfl

/-- A walk that would meet a closed module waits. -/
theorem withDesc_closed (h : s.walkOpen (s.cmdSpace c q) q.l (descSize q.ins) = false) : s.withDesc c q go = s := by
  simp [State.withDesc, h]

/-- A place that faults stops the command. -/
theorem withDesc_fault {x : TrapRec} (hw : s.walkOpen (s.cmdSpace c q) q.l (descSize q.ins) = true) (h : s.descPlaces c q = .error x) :
    s.withDesc c q go = (s.walked (s.cmdSpace c q) q.l (descSize q.ins) .desc).cmdTrap c q x := by
  simp [State.withDesc, hw, h]

/-- A byte that is poisoned stops the command. -/
theorem withDesc_poisoned {pas : List Nat} {x : TrapRec} (hw : s.walkOpen (s.cmdSpace c q) q.l (descSize q.ins) = true)
    (hp : s.descPlaces c q = .ok pas) (hr : s.cmdReach c q (placed q.l pas) = .go) (hb : s.descBytes c q = .error x) :
    s.withDesc c q go = (s.descRead c q pas).cmdTrap c q x := by
  have hr := (walkOf_descWalked s c q).cmdReach hr
  simp only [State.withDesc, hw, hp, hr, hb]
  rfl

end

/-! ## The wait (R180 step 2, R181) -/

/-- The cluster after a step of a command: the command stands at the new step. -/
theorem eq_cmdGo (s : State) (c : Nat) (q : Cmd) (n : Nat) : ((s.cmdGo c q n).cluster c).eq =
    (s.cluster c).eq.map (fun (y : Cmd) => if y.id = q.id then { q with step := n, arrived := s.arrivals + 1 } else y) := by
  rw [State.cmdGo, State.putCmd, cluster_modCluster]; rfl

@[simp] theorem mem_cmdGo (s : State) (c : Nat) (q : Cmd) (n : Nat) : (s.cmdGo c q n).mem = s.mem := rfl
@[simp] theorem task_cmdGo (s : State) (c : Nat) (q : Cmd) (n t : Nat) : (s.cmdGo c q n).task t = s.task t := rfl
@[simp] theorem sems_cmdGo (s : State) (c : Nat) (q : Cmd) (n : Nat) : (s.cmdGo c q n).sems = s.sems := rfl

/-- The semaphores once a wait is satisfied. -/
def State.waited (s : State) (q : Cmd) (key : Nat) : State :=
  if (cmdFmt q.ins).flg.getLsbD 9 then s
  else { s with sems := s.sems.set key { s.sems.get {} key with val := (s.sems.get {} key).val - q.threshold } }

theorem waitStep_eq {s : State} {c key : Nat} {q : Cmd} (hp : (s.cluster c).mayPass q q.afterWait = true) (hk : s.waitKey q = some key)
    (hx : q.threshold ≤ semMax) (ho : s.semOpen c (s.task q.task) (cmdFmt q.ins).wsem.toNat = true) : s.waitStep c q =
      if (s.sems.get {} key).val < q.threshold ∨ s.waiterBefore q key = true then s
      else ((s.waited q key).cmdIrrevoke q).cmdGo c { q with bound := union q.bound (s.sems.get {} key).dep } q.afterWait := by
  have hx' : ¬ semMax < q.threshold := by omega
  simp only [State.waitStep, hp, hk, ho, hx']
  by_cases h : (s.sems.get {} key).val < q.threshold ∨ s.waiterBefore q key = true
  · simp [h]
  · rw [not_or, Nat.not_lt] at h
    have h1 : ¬ (s.sems.get {} key).val < q.threshold := Nat.not_lt.mpr h.1
    simp only [h1, h.2, decide_false, Bool.or_self]
    rfl

theorem waited_val (s : State) (q : Cmd) (key : Nat) : ((s.waited q key).sems.get {} key).val =
    if (cmdFmt q.ins).flg.getLsbD 9 then (s.sems.get {} key).val else (s.sems.get {} key).val - q.threshold := by
  unfold State.waited
  split
  · rfl
  · exact congrArg Sem.val (Tbl.get_set ..)

theorem waited_other (s : State) (q : Cmd) {key n : Nat} (h : n ≠ key) : (s.waited q key).sems.get {} n = s.sems.get {} n := by
  unfold State.waited
  split
  · rfl
  · exact Tbl.get_set_ne _ _ _ (Ne.symm h)

theorem waited_mem (s : State) (q : Cmd) (key : Nat) : (s.waited q key).mem = s.mem := by unfold State.waited; split <;> rfl
theorem waited_clusters (s : State) (q : Cmd) (key : Nat) : (s.waited q key).clusters = s.clusters := by
  unfold State.waited; split <;> rfl
theorem waited_arrivals (s : State) (q : Cmd) (key : Nat) : (s.waited q key).arrivals = s.arrivals := by
  unfold State.waited; split <;> rfl

theorem exec_engineWait {s : State} {c k : Nat} {q : Cmd} (h : s.cmdReady c k 2 = some q) :
    exec (.engineWait c k) s = .next (s.waitStep c q) := by
  show execEngineWait c k s = _
  rw [execEngineWait, h]

/-! ## The claim (R178, R256) -/

/-- The state that a claim gives a tile. -/
def Cmd.claimState (q : Cmd) (into : Bool) : TileState := if into then .filling else if keepsTile q.ins then .ready else .draining

/-- A tile of a claim changes its state. -/
def State.claimTile (s : State) (q : Cmd) (x : Nat × Bool) : State :=
  if x.2 then s.setTileState q x.1 .filling else if keepsTile q.ins then s else s.setTileState q x.1 .draining

/-- The tiles of a claim change their states. -/
def State.claims (s : State) (q : Cmd) (tiles : List (Nat × Bool)) : State := tiles.foldl (fun st x => st.claimTile q x) s

section
variable {q : Cmd} (hq : q.mate = none)
include hq

theorem setTileState_tile (s : State) (n m : Nat) (st : TileState) : ((s.setTileState q n st).task q.task).tile m =
    if n = m then { (s.task q.task).tile n with state := st } else (s.task q.task).tile m := by
  rw [State.setTileState, modBoth_alone hq, task_modTask]
  by_cases h : n = m
  · subst h; rw [if_pos rfl, tile_setTile]
  · rw [if_neg h]; exact Tbl.get_set_ne _ _ _ h

theorem setTileState_frame (s : State) (n : Nat) (st : TileState) :
    s.setTileState q n st = { s with tasks := (s.setTileState q n st).tasks } := by
  rw [State.setTileState, modBoth_alone hq]; rfl

theorem claimTile_frame (s : State) (x : Nat × Bool) : s.claimTile q x = { s with tasks := (s.claimTile q x).tasks } := by
  unfold State.claimTile
  split
  · exact setTileState_frame hq ..
  · split
    · rfl
    · exact setTileState_frame hq ..

theorem claimTile_ne (s : State) (x : Nat × Bool) {n : Nat} (h : x.1 ≠ n) :
    ((s.claimTile q x).task q.task).tile n = (s.task q.task).tile n := by
  unfold State.claimTile
  split
  · rw [setTileState_tile hq, if_neg h]
  · split
    · rfl
    · rw [setTileState_tile hq, if_neg h]

theorem claimTile_state (s : State) (x : Nat × Bool) (h : ((s.task q.task).tile x.1).state = needsState x.2) :
    (((s.claimTile q x).task q.task).tile x.1).state = q.claimState x.2 := by
  unfold State.claimTile Cmd.claimState
  split
  next => rw [setTileState_tile hq, if_pos rfl]
  next hd =>
    split
    next => rw [h, needsState, if_neg hd]
    next => rw [setTileState_tile hq, if_pos rfl]

theorem claims_frame (tiles : List (Nat × Bool)) (s : State) : s.claims q tiles = { s with tasks := (s.claims q tiles).tasks } := by
  induction tiles generalizing s with
  | nil => rfl
  | cons x l ih =>
    show (s.claimTile q x).claims q l = { s with tasks := ((s.claimTile q x).claims q l).tasks }
    rw [ih, claimTile_frame hq]

theorem claims_tile_ne (tiles : List (Nat × Bool)) (s : State) (n : Nat) (hn : n ∉ tiles.map (·.1)) :
    ((s.claims q tiles).task q.task).tile n = (s.task q.task).tile n := by
  induction tiles generalizing s with
  | nil => rfl
  | cons x l ih =>
    rw [List.map_cons, List.mem_cons, not_or] at hn
    exact (ih _ hn.2).trans (claimTile_ne hq s x (Ne.symm hn.1))

/-- A claim takes each of its tiles, which are distinct and as it needs them, to the state of its side. -/
theorem claims_state (tiles : List (Nat × Bool)) (s : State) (hnd : (tiles.map (·.1)).Nodup)
    (hr : s.tilesReady q tiles = true) : ∀ x ∈ tiles, (((s.claims q tiles).task q.task).tile x.1).state = q.claimState x.2 := by
  induction tiles generalizing s with
  | nil => intro x hx; cases hx
  | cons y l ih =>
    rw [List.map_cons, List.nodup_cons] at hnd
    rw [State.tilesReady, List.all_cons, Bool.and_eq_true, beq_iff_eq] at hr
    obtain ⟨hy, hl⟩ := hr
    intro x hx
    show ((((s.claimTile q y).claims q l).task q.task).tile x.1).state = _
    rcases List.mem_cons.mp hx with rfl | hx
    · rw [claims_tile_ne hq l _ _ hnd.1]
      exact claimTile_state hq s x hy
    · refine ih _ hnd.2 (List.all_eq_true.mpr (fun z hz => ?_)) x hx
      rw [claimTile_ne hq s y (fun e => hnd.1 (e ▸ List.mem_map_of_mem hz))]
      exact List.all_eq_true.mp hl z hz

end

theorem exec_tileClaim {s : State} {c k : Nat} {q : Cmd} (h : s.cmdReady c k 3 = some q) :
    exec (.tileClaim c k) s = .next (s.claimStep c q) := by
  show execTileClaim c k s = _
  rw [execTileClaim, h]

/-- The claim of a command whose descriptor reads and whose tiles are of use (R178, R256). -/
theorem claimStep_eq {s : State} {c : Nat} {q : Cmd} {pas : List Nat} {d : List Byte} (hp : (s.cluster c).mayPass q 4 = true)
    (hd : HasDesc c q pas d s) (hu : ∀ x ∈ cmdTiles q.ins d, ∃ tp, s.useTile c x.1 (if x.2 then .write else .read) = .ok tp) :
    let q1 : Cmd := { q with bound := s.readBy (s.cmdSpace c q) pas q.bound }
    s.claimStep c q = if s.tilesReady q (cmdTiles q.ins d) = false ∨ s.claimBefore c q (cmdTiles q.ins d) = true
      then (s.descRead c q pas).putCmd c q1
      else ((s.descRead c q pas).claims q1 (cmdTiles q.ins d)).cmdGo c { q1 with claims := (cmdTiles q.ins d).map (·.1) } 4 := by
  intro q1
  simp only [State.claimStep, hp, withDesc_read _ hd, Bool.not_true, Bool.false_eq_true, if_false]
  split
  next f hf =>
    obtain ⟨x, hx, e⟩ := List.exists_of_findSome?_eq_some hf
    obtain ⟨tp, hok⟩ := hu x hx
    rw [hok] at e
    cases e
  next =>
    show (if (!s.tilesReady q (cmdTiles q.ins d) || s.claimBefore c q (cmdTiles q.ins d)) = true then _ else _) = _
    by_cases h : s.tilesReady q (cmdTiles q.ins d) = false ∨ s.claimBefore c q (cmdTiles q.ins d) = true
    · rw [if_pos h, if_pos (by simpa using h)]
    · rw [if_neg h, if_neg (by simpa using h)]
      rfl

/-! ## The read of the descriptor (R180 step 4) -/

theorem exec_descriptorRead {s : State} {c k : Nat} {q : Cmd} (h : s.cmdReady c k 4 = some q) (hp : (s.cluster c).mayPass q 5 = true) :
    exec (.descriptorRead c k) s = .next (s.descStep c q) := by
  show execDescriptorRead c k s = _
  simp [execDescriptorRead, h, hp]

theorem descDiffers_alone {q : Cmd} (h : q.mate = none) (s : State) (c : Nat) (d : List Byte) : s.descDiffers c q d = false := by
  simp only [State.descDiffers, h]

/-- Settles O38: the wait takes its threshold off its semaphore, the claim changes only the states of its tiles, which are distinct,
and the read of the descriptor goes on, waits or stops as its way and its places allow. -/
theorem commandSteps : Obligations.CommandSteps := by
  intro c k q s halone
  refine ⟨?_, ?_, ?_⟩
  · rintro key _ hready hpass hkey rfl hmax hopen m
    have hstep : exec (.engineWait c k) s = _ :=
      (exec_engineWait hready).trans (congrArg _ (waitStep_eq hpass hkey hmax hopen))
    refine ⟨fun h => by rw [hstep, if_pos h], fun hle hfirst =>
      ⟨((s.waited q key).cmdIrrevoke q).cmdGo c { q with bound := union q.bound m.dep } q.afterWait, ?_, ?_, ?_, ?_, ?_⟩⟩
    · rw [hstep, if_neg]
      rintro (h | h)
      · exact Nat.not_lt.mpr hle h
      · rw [hfirst] at h; cases h
    · rw [sems_cmdGo, cmdIrrevoke_alone halone, modTask_sems]; exact waited_val s q key
    · intro n hn
      rw [sems_cmdGo, cmdIrrevoke_alone halone, modTask_sems]; exact waited_other s q hn
    · rw [mem_cmdGo, cmdIrrevoke_alone halone, modTask_mem, waited_mem]
    · rw [eq_cmdGo, cmdIrrevoke_alone halone, modTask_arrivals, cluster_modTask, waited_arrivals, State.cluster, waited_clusters]
      rfl
  · intro pas d hready hpass hdesc htiles
    have hstep : exec (.tileClaim c k) s = _ := (exec_tileClaim hready).trans (congrArg _ (claimStep_eq hpass hdesc htiles))
    refine ⟨fun h => ⟨_, by rw [hstep, if_pos h]⟩, fun hr hb hnd => ?_⟩
    let q1 : Cmd := { q with bound := s.readBy (s.cmdSpace c q) pas q.bound }
    have hr' : (s.descRead c q pas).tilesReady q1 (cmdTiles q.ins d) = true := by
      simpa only [State.tilesReady, descRead_task] using hr
    have hfr := claims_frame (q := q1) halone (cmdTiles q.ins d) (s.descRead c q pas)
    refine ⟨_, q1.bound, by rw [hstep, if_neg (by simp [hr, hb])], ?_, ?_, ?_, ?_⟩
    · rw [mem_cmdGo, hfr]; exact descRead_mem ..
    · intro x hx
      exact claims_state (q := q1) halone _ _ hnd hr' x hx
    · intro n hn
      exact (claims_tile_ne (q := q1) halone _ _ n hn).trans (by rw [descRead_task])
    · rw [eq_cmdGo, hfr]
      simp only [State.cluster, descRead_arrivals]
      exact congrArg _ (descRead_eq s c q pas c)
  · intro hready hpass opened stopped
    have hstep := exec_descriptorRead hready hpass
    have hdead := alive_of_cmdReady hready (Nat.le_refl 4)
    obtain ⟨-, h4, -⟩ := cmdReady_some hready
    have htrap (u : State) (x : TrapRec) : u.cmdTrap c q x = stopped u x := cmdTrap_stops hdead (by omega) u c x
    refine ⟨?_, ?_, ?_, ?_, ?_⟩
    · intro pas d he hdesc
      refine ⟨s.readBy (s.cmdSpace c q) pas q.bound, ?_⟩
      rw [hstep, State.descStep, he, withDesc_read _ hdesc, descDiffers_alone halone]
      simp only [State.cmdGo, descRead_arrivals]
      rfl
    · intro he hclosed
      rw [hstep, State.descStep, he, withDesc_closed _ hclosed]
    · intro x he ho hx
      rw [hstep, State.descStep, he, withDesc_fault _ ho hx, htrap]
    · intro pas x he ho hp hr hb
      rw [hstep, State.descStep, he, withDesc_poisoned _ ho hp hr hb, htrap]
    · intro x he
      rw [hstep, State.descStep, he]
      exact congrArg _ (htrap _ _)

end Sys2Proof.Machine
end

section
/-!
SIGNAL AND COMPLETION OF A COMMAND (R180, R183): what they leave unchanged, whatever they come to.
-/

namespace Sys2Proof.Machine

open Sys2Proof

/-! ## What the end of a command leaves unchanged -/

/-- What the signal, the completion and a trap of a command may change of a task; its latches stay. -/
structure Task.endsAs (t u : Task) : Prop where
  rest : u = { t with wrote := u.wrote, latches := u.latches, pends := u.pends, regs := u.regs, irrev := u.irrev
                      tcause := u.tcause, tinfo := u.tinfo, tpos := u.tpos, tiles := u.tiles }
  latches : ∀ x ∈ t.latches, x ∈ u.latches

theorem Task.endsAs.trans {t u v : Task} (h : t.endsAs u) (k : u.endsAs v) : t.endsAs v :=
  ⟨by rw [k.rest, h.rest], fun x hx => k.latches x (h.latches x hx)⟩

/-- A change that leaves the latches. -/
theorem Task.endsAs.of_rest {t u : Task} (h : u = { t with wrote := u.wrote, pends := u.pends, regs := u.regs, irrev := u.irrev
                                                           tcause := u.tcause, tinfo := u.tinfo, tpos := u.tpos, tiles := u.tiles }) :
    t.endsAs u := ⟨by rw [h], fun x hx => by rw [h]; exact hx⟩

/-- What the signal, the completion and a trap of a command may change: queues and regions, tasks as above, registers of the tasks of
some clusters, semaphores and the hub's records. -/
structure State.endsAs (P : Nat → Prop) (s t : State) : Prop where
  rest : t = { s with clusters := t.clusters, tasks := t.tasks, hub := t.hub, sems := t.sems }
  hub : t.hub = { s.hub with records := t.hub.records }
  clus : ∀ d, t.cluster d = { s.cluster d with region := t.region d, eq := (t.cluster d).eq }
  task : ∀ n, (s.task n).endsAs (t.task n)
  regs : ∀ n, (∀ d, P d → n ≠ s.taskIdOf d) → (t.task n).regs = (s.task n).regs

namespace State.endsAs

theorem refl (P : Nat → Prop) (s : State) : s.endsAs P s := ⟨rfl, rfl, fun _ => rfl, fun _ => .of_rest rfl, fun _ _ => rfl⟩

section
variable {P : Nat → Prop} {s t u : State} (h : s.endsAs P t)
include h

theorem holder (d : Nat) : (t.cluster d).task = (s.cluster d).task := by rw [h.clus]
theorem taskIdOf (d : Nat) : t.taskIdOf d = s.taskIdOf d := by rw [State.taskIdOf, h.holder]; rfl
theorem mem : t.mem = s.mem := by rw [h.rest]
theorem marks : t.marks = s.marks := by rw [h.rest]
theorem ecc : t.ecc = s.ecc := by rw [h.rest]
theorem links : t.links = s.links := by rw [h.rest]
theorem now : t.now = s.now := by rw [h.rest]

theorem taskFields (n : Nat) : (t.task n).id = (s.task n).id ∧ (t.task n).entry = (s.task n).entry ∧ (t.task n).prio = (s.task n).prio ∧
    (t.task n).vreg = (s.task n).vreg := by
  have e := (h.task n).rest
  rw [e]
  exact ⟨rfl, rfl, rfl, rfl⟩
theorem vote (n : Nat) : (t.task n).vote = (s.task n).vote := by have e := (h.task n).rest; rw [e]
theorem ports (n : Nat) : (t.task n).ports = (s.task n).ports := by have e := (h.task n).rest; rw [e]
theorem groups (n : Nat) : (t.task n).groups = (s.task n).groups := by have e := (h.task n).rest; rw [e]
theorem semKey (n w : Nat) : (t.task n).semKey w = (s.task n).semKey w := by have e := (h.task n).rest; rw [e]; rfl
theorem semOpen (d n w : Nat) : t.semOpen d (t.task n) w = s.semOpen d (s.task n) w := by
  have hl (m : Nat) : t.link m = s.link m := by simp only [State.link, h.links]
  have hc (a b : Nat) : t.clusOpen a b = s.clusOpen a b := by
    simp only [State.clusOpen, State.dieOpen, State.meshOpen, State.seamOpen, State.hubLink, hl]
  unfold State.semOpen
  rw [h.semKey]
  cases (s.task n).semKey w with
  | none => rfl
  | some key => exact hc ..

theorem trans (k : t.endsAs P u) : s.endsAs P u where
  rest := by rw [k.rest, h.rest]
  hub := by rw [k.hub, h.hub]
  clus d := by rw [k.clus, h.clus]
  task n := (h.task n).trans (k.task n)
  regs n hn := (k.regs n (fun d hd => by rw [h.taskIdOf]; exact hn d hd)).trans (h.regs n hn)

end

/-- A change of a task. -/
theorem modTask {P : Nat → Prop} (s : State) (n : Nat) (g : Task → Task) (hg : (s.task n).endsAs (g (s.task n)))
    (hr : (∃ d, P d ∧ n = s.taskIdOf d) ∨ (g (s.task n)).regs = (s.task n).regs) : s.endsAs P (s.modTask n g) where
  rest := rfl
  hub := rfl
  clus _ := rfl
  task m := by
    by_cases hm : n = m
    · subst hm; rwa [task_modTask]
    · rw [task_modTask_ne _ _ hm]; exact .of_rest rfl
  regs m hm := by
    by_cases hn : n = m
    · subst hn; rw [task_modTask]; exact hr.resolve_left (fun ⟨d, hd, e⟩ => hm d hd e)
    · rw [task_modTask_ne _ _ hn]

/-- A change of the task of a region. -/
theorem modTaskOf {P : Nat → Prop} (s : State) {c : Nat} (hc : P c) (g : Task → Task) (hg : ∀ t : Task, t.endsAs (g t)) : s.endsAs P (s.modTaskOf c g) := by
  unfold State.modTaskOf
  split
  next t ht => exact modTask s t g (hg _) (Or.inl ⟨c, hc, by simp [State.taskIdOf, ht]⟩)
  next => exact refl P s

/-- A change of the task of any region that leaves its registers. -/
theorem modTaskOf_regs {P : Nat → Prop} (s : State) (d : Nat) (g : Task → Task) (hg : ∀ t : Task, t.endsAs (g t))
    (hr : ∀ t : Task, (g t).regs = t.regs) : s.endsAs P (s.modTaskOf d g) := by
  unfold State.modTaskOf
  split
  · exact modTask s _ g (hg _) (Or.inr (hr _))
  · exact refl P s

/-- A change of the queue or the region of a cluster. -/
theorem modCluster {P : Nat → Prop} (s : State) (d : Nat) (g : Cluster → Cluster)
    (hg : g (s.cluster d) = { s.cluster d with region := (g (s.cluster d)).region, eq := (g (s.cluster d)).eq }) :
    s.endsAs P (s.modCluster d g) where
  rest := rfl
  hub := rfl
  clus e := by
    by_cases he : d = e
    · subst he; rw [State.region, cluster_modCluster]; exact hg
    · rw [State.region, cluster_modCluster_ne _ _ _ _ he]
  task _ := .of_rest rfl
  regs _ _ := rfl

theorem putCmd {P : Nat → Prop} (s : State) (d : Nat) (q : Cmd) : s.endsAs P (s.putCmd d q) := modCluster _ _ _ rfl
theorem dropCmd {P : Nat → Prop} (s : State) (d k : Nat) : s.endsAs P (s.dropCmd d k) := modCluster _ _ _ rfl
theorem modRegion {P : Nat → Prop} (s : State) (d : Nat) (g : Region → Region) : s.endsAs P (s.modRegion d g) :=
  modCluster s d (fun x => { x with region := g (s.region d) }) rfl

/-- A change of the hub's records. -/
theorem records {P : Nat → Prop} (s : State) (g : List TrapRec → List TrapRec) :
    s.endsAs P (s.modHub (fun h => { h with records := g h.records })) :=
  ⟨rfl, rfl, fun _ => rfl, fun _ => .of_rest rfl, fun _ _ => rfl⟩

theorem traps (t : Task) (cause : Word) (info : List Word) (pos : List Word) :
    t.endsAs { t with tcause := cause, tinfo := info, tpos := pos } := .of_rest rfl

theorem trapped (t : Task) (x : TrapRec) : t.endsAs (t.trapped x) := traps ..

theorem regs_trapped (t : Task) (x : TrapRec) : (t.trapped x).regs = t.regs := by rw [Task.trapped]

/-- A region freezes with a record (R371, R390). -/
theorem freeze {P : Nat → Prop} (s : State) (d : Nat) (x : TrapRec) : s.endsAs P (s.freeze d x) := by
  have h1 : s.endsAs P ((s.modRegion d (fun r => r.freeze x)).modTaskOf d (fun t => t.trapped x)) :=
    (modRegion s d _).trans (modTaskOf_regs _ d (fun t => t.trapped x) (fun t => trapped t x) (fun t => regs_trapped t x))
  have h2 (u : State) (n e : Nat) : u.endsAs P ((u.modRegion e (fun r => r.freeze x)).modTask n (fun y => y.trapped x)) :=
    (modRegion u e _).trans (modTask _ n (fun t => t.trapped x) (trapped _ x) (Or.inr (regs_trapped _ x)))
  unfold State.freeze
  refine trans ?_ (records _ (fun l => l ++ [x]))
  split
  · split
    · exact h1.trans (h2 _ _ _)
    · exact h1
  · exact h1

/-- A trap is taken or held (R371). -/
theorem raise {P : Nat → Prop} (s : State) (d : Nat) (x : TrapRec) : s.endsAs P (s.raise d x) := by
  unfold State.raise
  dsimp only
  split
  · exact refl P s
  · split
    · exact freeze ..
    · split
      · exact ((modRegion _ _ _).trans (records _ (fun l => l.filter (fun z => z != _)))).trans (freeze ..)
      · split
        · exact refl P s
        · exact modRegion ..

/-- A trap of a command. -/
theorem cmdTrap {P : Nat → Prop} (s : State) (c : Nat) (q : Cmd) (x : TrapRec) : s.endsAs P (s.cmdTrap c q x) := by
  unfold State.cmdTrap
  split
  · exact dropCmd ..
  · exact (putCmd _ _ _).trans (raise _ _ _)

/-- A release of a semaphore, which posts an event to the tasks of the job (R181, R211). -/
theorem post {P : Nat → Prop} (s : State) (t cls : Nat) : s.endsAs P (s.post t cls) :=
  modTask _ _ _ ⟨rfl, fun _ h => mem_insert.mpr (Or.inr h)⟩ (Or.inr rfl)

theorem foldl {P : Nat → Prop} {α : Type} (g : State → α → State) (hg : ∀ (s : State) (x : α), s.endsAs P (g s x)) (l : List α) (s : State) :
    s.endsAs P (l.foldl g s) := by
  induction l generalizing s with
  | nil => exact refl P s
  | cons x l ih => exact (hg s x).trans (ih (g s x))

theorem postJob {P : Nat → Prop} (s : State) (j cls : Nat) : s.endsAs P (s.postJob j cls) := foldl _ (fun _ _ => post ..) _ _

theorem addSem {P : Nat → Prop} (s : State) (key inc : Nat) (b : List Nat) : s.endsAs P (s.addSem key inc b) :=
  ⟨rfl, rfl, fun _ => rfl, fun _ => .of_rest rfl, fun _ _ => rfl⟩

theorem cmdSignal {P : Nat → Prop} {inc : Nat} {s t : State} {q : Cmd} (h : s.cmdSignal q inc = .ok t) : s.endsAs P t := by
  unfold State.cmdSignal State.signal at h
  split at h
  · cases h
  · dsimp only at h
    split at h
    · cases h
    · cases h; exact (addSem ..).trans (postJob ..)

/-- The register result of a command lands (R183, R217). -/
theorem landResult {P : Nat → Prop} (s : State) {c : Nat} (hc : P c) (id : Nat) (v : Option Word) : s.endsAs P (s.landResult c id v) := by
  unfold State.landResult
  dsimp only
  split
  · exact refl P s
  · split
    · exact modTaskOf _ hc _ (fun _ => .of_rest rfl)
    · split
      · refine modTaskOf _ hc _ (fun t => ?_)
        unfold Task.setReg
        split <;> exact .of_rest rfl
      · exact modTaskOf _ hc _ (fun _ => .of_rest rfl)

theorem deliverCmd {P : Nat → Prop} (s : State) {c : Nat} (hc : P c) (id : Nat) (q : Cmd) (ok : Bool) : s.endsAs P (s.deliverCmd c id q ok) :=
  (((dropCmd s c id).trans (modTaskOf _ hc (fun t => { t with wrote := union t.wrote q.bound }) (fun _ => .of_rest rfl))).trans
    (modRegion _ _ _)).trans (landResult _ hc _ _)

end State.endsAs

/-! ## The end of a command -/

section
variable {P : Nat → Prop} {q : Cmd}

theorem State.endsAs.modBoth (s : State) (q : Cmd) (g : Task → Task) (hg : ∀ t : Task, t.endsAs (g t)) (hr : ∀ t : Task, (g t).regs = t.regs) :
    s.endsAs P (s.modBoth q g) := by
  have h1 (u : State) (n : Nat) : u.endsAs P (u.modTask n g) := modTask u n g (hg _) (Or.inr (hr _))
  unfold State.modBoth
  dsimp only
  split
  · exact (h1 _ _).trans (h1 _ _)
  · exact h1 _ _

theorem State.endsAs.setTileState (s : State) (q : Cmd) (n : Nat) (st : TileState) : s.endsAs P (s.setTileState q n st) :=
  modBoth s q _ (fun _ => .of_rest rfl) (fun _ => rfl)

theorem State.endsAs.cmdIrrevoke (s : State) (q : Cmd) : s.endsAs P (s.cmdIrrevoke q) :=
  modBoth s q _ (fun _ => .of_rest rfl) (fun _ => rfl)

theorem State.endsAs.freeTiles (s : State) (q : Cmd) : s.endsAs P (s.freeTiles q) := by
  refine foldl _ (fun s x => ?_) _ _
  split
  · exact setTileState ..
  · split
    · exact refl P s
    · exact setTileState ..

variable {c : Nat} (hc : P c) (hm : q.mate = none ∨ ∀ d, P d)
include hc hm

/-- Step 7, for both copies of a mirrored task. -/
theorem State.endsAs.finishCmd (s : State) (ok : Bool) : s.endsAs P (s.finishCmd c q ok) := by
  unfold State.finishCmd
  split
  · exact (dropCmd _ _ _).trans (modTask _ _ _ (.of_rest rfl) (Or.inr rfl))
  · dsimp only
    split
    next hmate _ =>
      exact (deliverCmd _ hc _ _ _).trans (deliverCmd _ ((hm.resolve_left (by rw [hmate]; exact nofun)) _) _ _ _)
    next => exact deliverCmd _ hc _ _ _

/-- Steps 6 and 7. -/
theorem State.endsAs.signalStep (s : State) : s.endsAs P (s.signalStep c q) := by
  unfold State.signalStep
  split
  · exact putCmd ..
  · split
    · exact finishCmd hc hm ..
    · split
      · exact putCmd ..
      · split
        · exact cmdTrap ..
        next h => exact (cmdSignal h).trans (finishCmd hc hm ..)

/-- The end of step 5, with what follows it. -/
theorem State.endsAs.worked (s : State) : s.endsAs P (s.worked c q) := by
  unfold State.worked
  dsimp only
  refine trans ?_ (signalStep (q := { q with step := 6, claims := [] }) hc hm _)
  refine trans ?_ (putCmd ..)
  refine trans ?_ (freeTiles ..)
  split
  · exact cmdIrrevoke ..
  · exact refl P s

end

/-! ## A command that performs for its own task alone -/

/-- Its completion (R180 step 7). -/
theorem finishCmd_alone {q : Cmd} (h : q.mate = none) (s : State) (c : Nat) (ok : Bool) : s.finishCmd c q ok =
    if q.dead then (s.dropCmd c q.id).modTask q.task (fun t => { t with wrote := union t.wrote q.bound })
    else s.deliverCmd c q.id q ok := by
  simp only [State.finishCmd, h]

/-! ## The semaphores at the end of a command -/

/-- Steps that change tasks only change tasks only together. -/
theorem foldl_tasks {α : Type} (g : State → α → State) (hg : ∀ (s : State) (x : α), g s x = { s with tasks := (g s x).tasks })
    (l : List α) (s : State) : l.foldl g s = { s with tasks := (l.foldl g s).tasks } := by
  induction l generalizing s with
  | nil => rfl
  | cons x l ih => rw [List.foldl_cons, ih, hg]

theorem postJob_sems (s : State) (j cls : Nat) : (s.postJob j cls).sems = s.sems := by
  rw [State.postJob, foldl_tasks (fun (st : State) (x : Nat × Task) => st.post x.1 cls) (fun _ _ => rfl)]

theorem landResult_sems (s : State) (c id : Nat) (v : Option Word) : (s.landResult c id v).sems = s.sems := by
  unfold State.landResult
  dsimp only
  split
  · rfl
  · split
    · exact modTaskOf_sems ..
    · split <;> exact modTaskOf_sems ..

section
variable {q : Cmd} (hq : q.mate = none)
include hq

theorem finishCmd_sems (s : State) (c : Nat) (ok : Bool) : (s.finishCmd c q ok).sems = s.sems := by
  rw [finishCmd_alone hq]
  split
  · rfl
  · rw [State.deliverCmd, landResult_sems, modRegion_sems, modTaskOf_sems]; rfl

theorem freeTiles_tasks (s : State) : s.freeTiles q = { s with tasks := (s.freeTiles q).tasks } := by
  refine foldl_tasks _ (fun s x => ?_) _ _
  split
  · rw [setTileState_frame hq]
  · split
    · rfl
    · rw [setTileState_frame hq]

/-- The state at step 6: the tiles of the command are given up. -/
def State.atSignal (s : State) (c : Nat) (q : Cmd) : State :=
  ((if irrevocableCmd q.ins then s.cmdIrrevoke q else s).freeTiles q).putCmd c { q with step := 6, claims := [] }

theorem atSignal_eq (s : State) (c : Nat) : s.atSignal c q =
    { s.putCmd c { q with step := 6, claims := [] } with tasks := (s.atSignal c q).tasks } := by
  unfold State.atSignal
  rw [freeTiles_tasks hq]
  split
  · rw [cmdIrrevoke_alone hq]; rfl
  · rfl

theorem atSignal_sems (s : State) (c : Nat) : (s.atSignal c q).sems = s.sems := by
  rw [atSignal_eq hq]; rfl

omit hq in
theorem State.endsAs.atSignal {P : Nat → Prop} (s : State) (c : Nat) : s.endsAs P (s.atSignal c q) := by
  refine State.endsAs.trans ?_ (.putCmd ..)
  refine State.endsAs.trans ?_ (.freeTiles ..)
  split
  · exact .cmdIrrevoke ..
  · exact .refl P s

/-- A command that signals nothing leaves the semaphores. -/
theorem worked_sems (s : State) (c : Nat) (hi : q.increment = none) : (s.worked c q).sems = s.sems := by
  show ((s.atSignal c q).signalStep c { q with step := 6, claims := [] }).sems = s.sems
  have hi' : ({ q with step := 6, claims := [] } : Cmd).increment = none := hi
  unfold State.signalStep
  rw [hi']
  split
  · exact atSignal_sems hq s c
  · rw [finishCmd_sems (q := { q with step := 6, claims := [] }) hq]; exact atSignal_sems hq s c

end

/-- A command that goes on stands no longer before itself. -/
theorem mayPass_put {k : Cluster} {q : Cmd} {n m : Nat} (h : k.mayPass q n = true) :
    ({ k with eq := k.eq.map (fun (y : Cmd) => if y.id = q.id then { q with step := m, claims := [] } else y) } : Cluster).mayPass
      { q with step := m, claims := [] } n = true := by
  refine List.all_eq_true.mpr (fun y hy => ?_)
  obtain ⟨z, hz, rfl⟩ := List.mem_map.mp hy
  split
  · simp
  · exact List.all_eq_true.mp h z hz

theorem atSignal_mayPass {q : Cmd} (hq : q.mate = none) {s : State} {c : Nat} (hp : (s.cluster c).mayPass q 7 = true) :
    ((s.atSignal c q).cluster c).mayPass { q with step := 6, claims := [] } 7 = true := by
  have he : ((s.atSignal c q).cluster c).eq =
      (s.cluster c).eq.map (fun (y : Cmd) => if y.id = q.id then { q with step := 6, claims := [] } else y) := by
    rw [atSignal_eq hq]
    show ((s.putCmd c { q with step := 6, claims := [] }).cluster c).eq = _
    rw [State.putCmd, cluster_modCluster]
  show (((s.atSignal c q).cluster c).eq.all _) = true
  rw [he]
  exact mayPass_put hp

/-- A command that signals adds to its semaphore and to no other (R180 step 6, R181). -/
theorem worked_signals {q : Cmd} (hq : q.mate = none) {s : State} {c inc key : Nat} (hi : q.increment = some inc)
    (hkey : (s.task q.task).semKey (cmdFmt q.ins).ssem.toNat = some key) (hfit : (s.sems.get {} key).val + inc ≤ semMax)
    (ho : s.semOpen c (s.task q.task) (cmdFmt q.ins).ssem.toNat = true) (hp : (s.cluster c).mayPass q 7 = true) :
    ((s.worked c q).sems.get {} key).val = (s.sems.get {} key).val + inc ∧
      ∀ n, n ≠ key → (s.worked c q).sems.get {} n = s.sems.get {} n := by
  let q1 : Cmd := { q with step := 6, claims := [] }
  let u := s.atSignal c q
  have hu : s.endsAs (· = c) u := .atSignal s c
  have hp1 : (u.cluster c).mayPass q1 7 = true := atSignal_mayPass hq hp
  have hi1 : q1.increment = some inc := hi
  have ho1 : u.semOpen c (u.task q1.task) (cmdFmt q1.ins).ssem.toNat = true := (hu.semOpen c q.task _).trans ho
  have hk1 : (u.task q1.task).semKey (cmdFmt q1.ins).ssem.toNat = some key := (hu.semKey q.task _).trans hkey
  have hs : u.cmdSignal q1 inc = .ok ((u.addSem key inc q1.bound).postJob (u.task q1.task).job 1) := by
    have : ¬ semMax < (u.sems.get {} key).val + inc := by rw [atSignal_sems hq]; omega
    simp only [State.cmdSignal, State.signal, hk1, this, if_false]
  have e : (s.worked c q).sems = (u.addSem key inc q1.bound).sems := by
    show (u.signalStep c q1).sems = _
    simp only [State.signalStep, hp1, hi1, ho1, hs, Bool.not_true, Bool.false_eq_true, if_false]
    rw [finishCmd_sems (q := q1) hq, postJob_sems]
  have hsem : u.sems = s.sems := atSignal_sems hq s c
  rw [e]
  constructor
  · rw [State.addSem, Tbl.get_set, hsem]
  · intro n hn
    rw [State.addSem, Tbl.get_set_ne _ _ _ (Ne.symm hn), hsem]

/-! ## The work of a command that acts -/

/-- A command that acts does its work, and what comes of it is settled (R180 step 5). -/
theorem exec_engineCompletion {c k : Nat} {q : Cmd} {s : State} (h : Working c k q s) :
    exec (.engineCompletion c k) s = .next (settle c (s.work c q none)) := by
  obtain ⟨hat, hstep, hlive⟩ := cmdReady_some h.ready
  show execEngineCompletion c k s = _
  simp [execEngineCompletion, hat, hlive, hstep, h.pass]

/-- Work that is done: the state that follows differs from it as the end of a command may. -/
theorem exec_done {c k : Nat} {q q1 : Cmd} {s s1 : State} (h : Working c k q s) (hw : s.work c q none = .done s1 q1)
    (hq : q1.mate = none) : exec (.engineCompletion c k) s = .next (s1.worked c q1) ∧ s1.endsAs (· = c) (s1.worked c q1) :=
  ⟨by rw [exec_engineCompletion h, hw]; rfl, .worked (P := (· = c)) rfl (Or.inl hq) s1⟩

end Sys2Proof.Machine
end

section
/-!
SEMAPHORE, VOTE AND PORT COMMANDS (R181, R186, R192, R194): the work of each, which the end of the command keeps.
-/

namespace Sys2Proof.Machine

open Sys2Proof

theorem exec_trap {c k : Nat} {q q1 : Cmd} {s s1 : State} {x : TrapRec} (h : Working c k q s) (hw : s.work c q none = .trap s1 q1 x) :
    exec (.engineCompletion c k) s = .next (s1.cmdTrap c q1 x) := by
  rw [exec_engineCompletion h, hw]; rfl

/-- A trap of step 5 before any work goes back to step 4 (R183). -/
theorem cmdTrap_back {q : Cmd} (hd : q.dead = false) (h5 : q.step = 5) (h0 : q.done = 0) (hr : readsDesc q.ins = true) (s : State) (c : Nat)
    (x : TrapRec) : s.cmdTrap c q x =
      (s.putCmd c { q with stopped := true, step := 4, buf := [], result := 0, early := none }).raise c { x with cmd := some q.id } := by
  simp [State.cmdTrap, hd, h5, h0, hr]

section
variable {c k : Nat} {q : Cmd} {s : State} {f : FmtE} (hw : Working c k q s)
include hw

/-- rspeed records or withdraws its vote (R194). -/
theorem exec_rspeed (hi : q.ins = .rspeed f) : ∃ t : State, exec (.engineCompletion c k) s = .next t ∧
    (t.task q.task).vote = if f.flg.getLsbD 2 then none else some (bitsOf f.flg 1 0) := by
  have hf : cmdFmt q.ins = f := by rw [hi]; rfl
  have hd : s.work c q none = s.workVote q := by rw [State.work, hi]
  obtain ⟨he, ht⟩ := exec_done hw hd hw.alone
  refine ⟨_, he, (ht.vote _).trans ?_⟩
  rw [modBoth_alone hw.alone, task_modTask, hf]

/-- sset sets its semaphore (R192). -/
theorem exec_sset (key : Nat) (hi : q.ins = .sset f) (hkey : (s.task q.task).semKey f.ssem.toNat = some key) (hv : q.r.toNat ≤ semMax)
    (ho : s.semOpen c (s.task q.task) f.ssem.toNat = true) : ∃ t : State, exec (.engineCompletion c k) s = .next t ∧
      (t.sems.get {} key).val = q.r.toNat ∧ ∀ n, n ≠ key → t.sems.get {} n = s.sems.get {} n := by
  have hf : cmdFmt q.ins = f := by rw [hi]; rfl
  have hv' : ¬ semMax < q.r.toNat := by omega
  have hd : s.work c q none = .done ((s.putSem key q.r.toNat q.bound).postJob (s.task q.task).job 1) q := by
    rw [State.work, hi]
    show s.workSet c q = _
    simp only [State.workSet, hf, ho, State.setSem, hkey, hv']
    rfl
  obtain ⟨he, -⟩ := exec_done hw hd hw.alone
  have hn : q.increment = none := by simp only [Cmd.increment, hi]
  have hs := (worked_sems hw.alone ((s.putSem key q.r.toNat q.bound).postJob (s.task q.task).job 1) c hn).trans (postJob_sems ..)
  refine ⟨_, he, ?_, fun n hne => ?_⟩
  · rw [hs, State.putSem, Tbl.get_set]
  · rw [hs, State.putSem, Tbl.get_set_ne _ _ _ (Ne.symm hne)]

/-- ssig and swait add their increment (R181). -/
theorem exec_ssig (key : Nat) (hi : q.ins = .ssig f ∨ q.ins = .swait f ∧ f.ssem ≠ 0xFF) (hinc : f.sinc ≠ 0)
    (hkey : (s.task q.task).semKey f.ssem.toNat = some key) (hfit : (s.sems.get {} key).val + f.sinc.toNat ≤ semMax)
    (hp : (s.cluster c).mayPass q 7 = true) (hsig : f.ssem ≠ 0xFF) (ho : s.semOpen c (s.task q.task) f.ssem.toNat = true) :
    ∃ t : State, exec (.engineCompletion c k) s = .next t ∧
      (t.sems.get {} key).val = (s.sems.get {} key).val + f.sinc.toNat ∧ ∀ n, n ≠ key → t.sems.get {} n = s.sems.get {} n := by
  have hf : cmdFmt q.ins = f := by rcases hi with hi | ⟨hi, -⟩ <;> rw [hi] <;> rfl
  have hd : s.work c q none = .done s q := by rcases hi with hi | ⟨hi, -⟩ <;> simp only [State.work, hi]
  have hn : q.increment = some f.sinc.toNat := by
    have he : q.empty = false := by rcases hi with hi | ⟨hi, -⟩ <;> rw [Cmd.empty, hi]
    have hg : q.increment = if f.ssem == 0xFF then none else some (if q.empty then 0 else if f.sinc = 0 then q.done - q.signalled
        else f.sinc.toNat) := by
      rw [← hf]
      rcases hi with hi | ⟨hi, -⟩ <;> rw [Cmd.increment, hi]
    rw [hg, if_neg (by simpa using hsig), he, if_neg (by decide), if_neg hinc]
  obtain ⟨he, -⟩ := exec_done hw hd hw.alone
  exact ⟨_, he, worked_signals hw.alone hn (by rw [hf]; exact hkey) hfit (by rw [hf]; exact ho) hp⟩

/-- sbind binds its port at position 0 (R186). -/
theorem exec_sbind (hi : q.ins = .sbind f) (hfree : (s.task q.task).ports.find (bitsOf f.flg 3 0) = none)
    (hv : (Desc.ofBytes q.desc).valid = true) : ∃ (t : State) (x : Port), exec (.engineCompletion c k) s = .next t ∧
      (t.task q.task).ports.find (bitsOf f.flg 3 0) = some x ∧ x.desc = Desc.ofBytes q.desc ∧ x.ord = 0 ∧ x.write = f.flg.getLsbD 4 ∧
      x.fetched = [] ∧ x.fault = none := by
  have hf : cmdFmt q.ins = f := by rw [hi]; rfl
  let x : Port := { desc := Desc.ofBytes q.desc, born := q.id, write := f.flg.getLsbD 4, ended := (Desc.ofBytes q.desc).total = 0
                    ready := s.now + (if f.flg.getLsbD 4 then 0 else s.bindLatency c q (Desc.ofBytes q.desc)), bound := q.bound }
  have hd : s.work c q none = .done (s.modBoth q (fun t => { t with ports := t.ports.set (bitsOf f.flg 3 0) x })) q := by
    rw [State.work, hi]
    show s.workBind c q = _
    simp only [State.workBind, Cmd.port, hf, hfree, hv]
    rfl
  obtain ⟨he, ht⟩ := exec_done hw hd hw.alone
  refine ⟨_, x, he, ?_, rfl, rfl, rfl, rfl, rfl⟩
  rw [ht.ports, modBoth_alone hw.alone, task_modTask, Tbl.find_set]

/-- sbind traps where its port is bound (R186). -/
theorem exec_sbind_bound (hi : q.ins = .sbind f) (hb : (s.task q.task).ports.find (bitsOf f.flg 3 0) ≠ none) (hd : q.dead = false)
    (h0 : q.done = 0) : exec (.engineCompletion c k) s =
      .next ((s.putCmd c { q with stopped := true, step := 4, buf := [], result := 0, early := none }).raise c
        { s.record c (srcNode c q.node) 0xA 1 (BitVec.ofNat 64 (bitsOf f.flg 3 0)) 0 0 with cmd := some q.id }) := by
  have hf : cmdFmt q.ins = f := by rw [hi]; rfl
  have hb' := Option.isSome_iff_ne_none.mpr hb
  have ht : s.work c q none = .trap s q (s.streamTrap c (srcNode c q.node) 1 (bitsOf f.flg 3 0)) := by
    rw [State.work, hi]
    show s.workBind c q = _
    simp only [State.workBind, Cmd.port, hf, hb', if_true]
  obtain ⟨-, hstep, -⟩ := cmdReady_some hw.ready
  rw [exec_trap hw ht, cmdTrap_back hd hstep h0 (by rw [hi]; rfl)]
  rfl

/-- sfree of a binding that leaves no zeros to write closes its port (R186, R244). -/
theorem exec_sfree (hi : q.ins = .sfree f)
    (hm : ∀ x, (s.task q.task).ports.find (bitsOf f.flg 3 0) = some x → x.write = false ∨ x.desc.mode ≠ 1) :
    ∃ t : State, exec (.engineCompletion c k) s = .next t ∧ (t.task q.task).ports.find (bitsOf f.flg 3 0) = none ∧ t.mem = s.mem := by
  have hport : q.port = bitsOf f.flg 3 0 := by rw [Cmd.port, hi]; rfl
  cases hx : (s.task q.task).ports.find (bitsOf f.flg 3 0) with
  | none =>
    have hd : s.work c q none = .done s q := by simp only [State.work, hi, State.workFree, hport, hx]
    obtain ⟨he, ht⟩ := exec_done hw hd hw.alone
    exact ⟨_, he, by rw [ht.ports, hx], ht.mem⟩
  | some x =>
    have hz : s.fillBytes q = 0 := by
      simp only [State.fillBytes, hport, hx]
      rcases hm x hx with h | h <;> simp [h]
    have hd : s.work c q none = .done (s.modBoth q (fun t => { t with ports := t.ports.drop q.port }))
        { q with bound := union q.bound x.bound } := by
      simp only [State.work, hi, State.workFree, hz, hport, hx, Nat.zero_sub, Nat.zero_div, State.zeroFill]
      rfl
    obtain ⟨he, ht⟩ := exec_done hw hd hw.alone
    rw [modBoth_alone hw.alone, hport] at ht
    refine ⟨_, he, ?_, ?_⟩
    · rw [modBoth_alone hw.alone, hport, ht.ports, task_modTask, Tbl.find_drop]
    · rw [modBoth_alone hw.alone, hport]; exact ht.mem

end

/-- Settles O39: each command does its work at once, and its signal and completion leave the vote, the ports and the other semaphores. -/
theorem semaphoreVoteAndPortCommands : Obligations.SemaphoreVoteAndPortCommands := by
  intro c k q s f hw
  refine ⟨exec_rspeed hw, exec_sset hw, exec_ssig hw, ?_, ?_⟩
  · rintro _ hi rfl
    exact ⟨exec_sbind hw hi, exec_sbind_bound hw hi⟩
  · rintro _ hi rfl hm
    exact exec_sfree hw hi hm

end Sys2Proof.Machine
end

section
/-!
WHAT A COMMAND MOVES (R187, R188, R270): its reads, its writes as one store, and what they leave unchanged.
-/

namespace Sys2Proof.Machine

open Sys2Proof

/-! ## What the moves of a command leave unchanged -/

/-- All that reads and writes of a command change: memory with its marks, errors and home order, requests, and TLBs. -/
def State.movesTo (s t : State) : Prop :=
  t = { s with mem := t.mem, marks := t.marks, ecc := t.ecc, wseq := t.wseq, hist := t.hist, fars := t.fars, clusters := t.clusters }

namespace State.movesTo

theorem trans {s t u : State} (h : s.movesTo t) (k : t.movesTo u) : s.movesTo u := by
  unfold State.movesTo at *
  rw [k, h]

theorem refl (s : State) : s.movesTo s := rfl

theorem of_walk {s t : State} (h : s.walkOf t) : s.movesTo t := by
  unfold State.movesTo
  rw [h.rest]

theorem cmdReached (s : State) (c : Nat) (q : Cmd) : s.movesTo (s.cmdReached c q) := by
  unfold State.movesTo State.cmdReached
  rw [reached_only]

section
variable {s t : State} (h : s.movesTo t)
include h
theorem hub : t.hub = s.hub := by rw [h]
theorem tasks : t.tasks = s.tasks := by rw [h]
theorem task (n : Nat) : t.task n = s.task n := by rw [State.task, h.tasks]; rfl
theorem sems : t.sems = s.sems := by rw [h]
theorem links : t.links = s.links := by rw [h]
theorem otherCopy (p : Nat) : t.otherCopy p = s.otherCopy p := by simp only [State.otherCopy, h.hub]
end

end State.movesTo

/-- The requests of a command that are done with change neither memory nor the way. -/
theorem cmdReached_mem (s : State) (c : Nat) (q : Cmd) : (s.cmdReached c q).mem = s.mem := by rw [State.cmdReached, reached_only]
theorem cmdReached_marks (s : State) (c : Nat) (q : Cmd) : (s.cmdReached c q).marks = s.marks := by rw [State.cmdReached, reached_only]
theorem cmdReached_pathOpen (s : State) (c : Nat) (q : Cmd) (d p : Nat) : (s.cmdReached c q).pathOpen d p = s.pathOpen d p := by
  rw [State.cmdReached, reached_only]; rfl

/-! ## Reads -/

theorem length_xlateBytes {s : State} {sp : Space} {a : Word} {n : Nat} {k : AccKind} {pas : List Nat}
    (h : s.xlateBytes sp a n k = .ok pas) : pas.length = n := by
  have aux (f : Nat → Except XFault (Nat × Option TlbEntry)) (l : List Nat) (pas : List Nat)
      (h : l.foldr (fun j acc => match f j with
        | .error f => .error f
        | .ok (pa, _) => acc.map (pa :: ·)) (.ok []) = (.ok pas : Except XFault (List Nat))) : pas.length = l.length := by
    induction l generalizing pas with
    | nil => cases h; rfl
    | cons j l ih =>
      rw [List.foldr_cons] at h
      split at h
      · cases h
      · generalize hr : l.foldr _ (Except.ok []) = r at h
        cases r with
        | error e => cases h
        | ok m => cases h; simp [ih m hr]
  simpa using aux (fun j => s.xlateRaw sp (a + BitVec.ofNat 64 j) k) (List.range n) pas h

/-- What a read of a command has read. -/
theorem cmdGet_got {s s1 : State} {c n : Nat} {q : Cmd} {a : Word} {pas : List Nat} {bs : List (Byte × Bool)}
    (h : s.cmdGet c q a n = .got s1 pas bs) : s1 = s.walked (s.cmdSpace c q) a n .read ∧ bs.length = n := by
  unfold State.cmdGet at h
  dsimp only at h
  split at h
  · cases h
  · split at h
    · cases h
    next pas' bs' hread =>
      split at h
      · cases h
      · cases h
      · cases h
        refine ⟨rfl, ?_⟩
        unfold State.cmdRead at hread
        cases hx : s.xlateBytes (s.cmdSpace c q) a n .read with
        | error e => rw [hx] at hread; cases hread
        | ok l =>
          rw [hx] at hread
          cases hread
          simp [State.peek, State.readCuts, State.cuts, length_xlateBytes hx]

theorem walkOf_cmdGet {s s1 : State} {c n : Nat} {q : Cmd} {a : Word} {pas : List Nat} {bs : List (Byte × Bool)}
    (h : s.cmdGet c q a n = .got s1 pas bs) : s.walkOf s1 := by
  rw [(cmdGet_got h).1]; exact walkOf_walked ..

/-- A read that looks back at no write finds bytes and poison as they stand (R262). -/
theorem cmdRead_now {sp : Space} {s : State} {a : Word} {n : Nat} {pas : List Nat} {bs : List (Byte × Bool)} (hh : s.histOk)
    (hl : sp.lag = 0) (h : s.cmdRead sp a n = .ok (pas, bs)) : bs = pas.map (fun p => (Memory.read s.mem p, s.marked p)) := by
  have hnone : s.hist.takeWhile (fun w => decide (s.wseq < w.seq)) = [] := by
    cases hs : s.hist with
    | nil => rfl
    | cons w l =>
      have hw := hh.2 w (hs ▸ List.mem_cons_self)
      simp [hw]
  unfold State.cmdRead at h
  cases hx : s.xlateBytes sp a n .read with
  | error e => rw [hx] at h; cases h
  | ok l =>
    rw [hx] at h
    cases h
    simp [State.peek, State.readCuts, State.cuts, State.cutOf, hl, byteAt_last hh, State.markAt, hnone]

/-! ## Writes -/

theorem mem_sectorsOf {bs : List PByte} {sec : Nat} : sec ∈ sectorsOf bs ↔ ∃ b ∈ bs, sectorOf b.addr = sec := by
  have aux (bs : List PByte) (l : List Nat) : sec ∈ bs.foldl (fun l b => NSet.insert l (sectorOf b.addr)) l ↔
      sec ∈ l ∨ ∃ b ∈ bs, sectorOf b.addr = sec := by
    induction bs generalizing l with
    | nil => simp
    | cons b t ih =>
      rw [List.foldl_cons, ih, mem_insert]
      simp only [List.mem_cons, exists_eq_or_imp]
      tauto
  exact (aux bs []).trans (by simp)

/-- A sector that receives a poisoned byte is marked (R382). -/
theorem mem_marksAfter {bs : List PByte} {b : PByte} (hb : b ∈ bs) (hbad : b.bad = true) (marks : List Nat) :
    sectorOf b.addr ∈ marksAfter marks bs := by
  refine foldl_reaches (P := fun m : List Nat => sectorOf b.addr ∈ m) _ (fun m sec h => ?_) (mem_sectorsOf.mpr ⟨b, hb, rfl⟩) (fun m => ?_) marks
  · dsimp only
    split
    · exact mem_insert.mpr (Or.inr h)
    · split
      next hn _ =>
        refine List.mem_filter.mpr ⟨h, ?_⟩
        rw [bne_iff_ne]
        rintro rfl
        exact hn (List.any_eq_true.mpr ⟨b, List.mem_filter.mpr ⟨hb, beq_self_eq_true _⟩, hbad⟩)
      next => exact h
  · have hin : (bs.filter (fun x => sectorOf x.addr == sectorOf b.addr)).any (·.bad) = true :=
      List.any_eq_true.mpr ⟨b, List.mem_filter.mpr ⟨hb, beq_self_eq_true _⟩, hbad⟩
    dsimp only
    rw [if_pos hin]
    exact mem_insert.mpr (Or.inl rfl)

theorem clearSector_only (s : State) (part : List (Nat × Nat)) (sec : Nat) :
    s.clearSector part sec = { s with marks := (s.clearSector part sec).marks, ecc := (s.clearSector part sec).ecc } := by
  unfold State.clearSector
  dsimp only
  split <;> rfl

/-- The clearing of some sectors changes marks and errors only. -/
theorem foldl_clearSector (l : List Nat) (part : List (Nat × Nat)) (s : State) :
    l.foldl (fun st sec => st.clearSector part sec) s =
      { s with marks := (l.foldl (fun st sec => st.clearSector part sec) s).marks
               ecc := (l.foldl (fun st sec => st.clearSector part sec) s).ecc } := by
  induction l generalizing s with
  | nil => rfl
  | cons x l ih => rw [List.foldl_cons, ih, clearSector_only]

theorem bothCopies_alone {q : Cmd} (h : q.mate = none) (s : State) (c : Nat) (bs : List PByte) : s.bothCopies c q bs = bs := by
  simp only [State.bothCopies, h]

section
variable {q : Cmd} (hq : q.mate = none) (s : State) (c : Nat) (bs : List PByte)

theorem cmdStore_only : (s.cmdStore c q bs).1 =
    { s with mem := (s.cmdStore c q bs).1.mem, marks := (s.cmdStore c q bs).1.marks, ecc := (s.cmdStore c q bs).1.ecc
             wseq := (s.cmdStore c q bs).1.wseq, hist := (s.cmdStore c q bs).1.hist } := by
  unfold State.cmdStore
  split
  · rfl
  · dsimp only
    rw [foldl_clearSector]
    rfl

theorem cmdStore_moves : s.movesTo (s.cmdStore c q bs).1 := by
  unfold State.movesTo
  rw [cmdStore_only]

/-- What a write of a command changes of the command. -/
theorem cmdStore_cmd : (s.cmdStore c q bs).2 = { q with bound := (s.cmdStore c q bs).2.bound, part := (s.cmdStore c q bs).2.part } := by
  unfold State.cmdStore
  split <;> rfl

include hq

/-- A write of a command is one store. -/
theorem cmdStore_mem (h : bs ≠ []) : (s.cmdStore c q bs).1.mem = (s.storeAll bs false none).mem := by
  have he : bs.isEmpty = false := by simpa using h
  unfold State.cmdStore
  rw [he]
  dsimp only [Bool.false_eq_true, if_false]
  rw [foldl_clearSector, bothCopies_alone hq]
  rfl

/-- A write of poisoned bytes leaves all marks of the store. -/
theorem cmdStore_marks (h : bs ≠ []) (hb : ∀ b ∈ bs, b.bad = true) : (s.cmdStore c q bs).1.marks = (s.storeAll bs false none).marks := by
  have he : bs.isEmpty = false := by simpa using h
  have hclean : (sectorsOf bs).filter (fun sec => (bs.filter (fun b => sectorOf b.addr == sec)).all (!·.bad) &&
      decide ((bs.filter (fun b => sectorOf b.addr == sec)).length < 32)) = [] := by
    refine List.filter_eq_nil_iff.mpr (fun sec hs => ?_)
    obtain ⟨b, hb', he⟩ := mem_sectorsOf.mp hs
    rw [Bool.not_eq_true, Bool.and_eq_false_iff]
    exact Or.inl (List.all_eq_false.mpr ⟨b, List.mem_filter.mpr ⟨hb', beq_iff_eq.mpr he⟩, by simp [hb b hb']⟩)
  unfold State.cmdStore
  rw [he, bothCopies_alone hq]
  dsimp only [Bool.false_eq_true, if_false]
  rw [hclean]
  rfl

end

/-! ## Bytes at their places -/

theorem marryBytes_addr {pas : List Nat} {bs : List (Byte × Bool)} (h : bs.length = pas.length) :
    (marryBytes pas bs).map (·.addr) = pas := by
  refine List.ext_getElem (by simp [marryBytes, h]) (fun j h1 h2 => ?_)
  simp [marryBytes]

theorem mem_marryBytes {pas : List Nat} {bs : List (Byte × Bool)} (h : bs.length = pas.length) {j : Nat} (hj : j < pas.length) :
    ({ addr := pas.getD j 0, val := (bs.getD j (0, false)).1, bad := (bs.getD j (0, false)).2 } : PByte) ∈ marryBytes pas bs := by
  have hj' : j < bs.length := by omega
  have hl : j < (marryBytes pas bs).length := by simp [marryBytes, h, hj]
  have e : (marryBytes pas bs)[j] = { addr := pas.getD j 0, val := (bs.getD j (0, false)).1, bad := (bs.getD j (0, false)).2 } := by
    simp [marryBytes, hj, hj']
  exact e ▸ List.getElem_mem hl

theorem mem_of_marryBytes {pas : List Nat} {bs : List (Byte × Bool)} {b : PByte} (h : b ∈ marryBytes pas bs) :
    b.addr ∈ pas ∧ (b.val, b.bad) ∈ bs := by
  obtain ⟨j, hj, rfl⟩ := List.mem_iff_getElem.mp h
  simp [marryBytes]

theorem carried_congr {s t s' t' : State} {bs : List (Byte × Bool)} {dst : List Nat} (h : s.carried t bs dst) (hs : s'.mem = s.mem)
    (ht : t'.mem = t.mem) : s'.carried t' bs dst := by
  unfold State.carried
  rw [hs, ht]
  exact h

/-- A write of a command carries its bytes to places that are all different and have no other copy, and changes no other byte. -/
theorem cmdStore_carries {q : Cmd} (hq : q.mate = none) {s : State} {dst : List Nat} {bs : List (Byte × Bool)} (c : Nat) (hm : s.memOk)
    (hn : dst.Nodup) (ho : ∀ p ∈ dst, s.otherCopy p = none) (hl : bs.length = dst.length) :
    s.carried (s.cmdStore c q (marryBytes dst bs)).1 bs dst := by
  cases dst with
  | nil =>
    cases List.eq_nil_of_length_eq_zero hl
    exact ⟨rfl, fun j hj => absurd hj (Nat.not_lt_zero j), fun _ _ => rfl⟩
  | cons p l =>
    have hne : marryBytes (p :: l) bs ≠ [] := by
      intro h
      have := marryBytes_addr hl
      rw [h] at this
      cases this
    refine ⟨hl, fun j hj => ?_, fun x hx => ?_⟩
    · rw [cmdStore_mem hq _ _ _ hne]
      exact read_storeAll hm ((marryBytes_addr hl).symm ▸ hn) (fun b hb => ho _ (mem_of_marryBytes hb).1) (mem_marryBytes hl hj)
    · rw [cmdStore_mem hq _ _ _ hne]
      refine read_storeAll_ne (fun b hb => ⟨fun e => hx (e ▸ (mem_of_marryBytes hb).1), ?_⟩)
      rw [ho _ (mem_of_marryBytes hb).1]
      exact nofun

end Sys2Proof.Machine
end

section
/-!
TCOPY (R187): its source is read whole, near places are written at once, far places window by window.
-/

namespace Sys2Proof.Machine

open Sys2Proof

/-- What the work of a command that moves bytes changes of the command. -/
def Cmd.movesAs (q r : Cmd) : Prop := r = { q with buf := r.buf, bound := r.bound, part := r.part, done := r.done }

theorem Cmd.movesAs.trans {q r v : Cmd} (h : q.movesAs r) (k : r.movesAs v) : q.movesAs v := by
  unfold Cmd.movesAs at *
  rw [k, h]

theorem Cmd.movesAs.mate {q r : Cmd} (h : q.movesAs r) : r.mate = q.mate := by rw [h]
theorem Cmd.movesAs.id {q r : Cmd} (h : q.movesAs r) : r.id = q.id := by rw [h]

theorem cmdStore_movesAs (s : State) (c : Nat) (q : Cmd) (bs : List PByte) (n : Nat) :
    q.movesAs { (s.cmdStore c q bs).2 with done := n } := by
  unfold Cmd.movesAs
  rw [cmdStore_cmd]

/-! ## The runs that one write serves -/

theorem oneWrite_near {pas : List Nat} (h : ∀ p ∈ pas, isFar p = false) (hne : pas ≠ []) : oneWrite pas = pas.length := by
  have ht : pas.takeWhile (fun p => !isFar p) = pas := by
    rw [List.takeWhile_eq_self_iff]
    intro p hp
    simp [h p hp]
  have hl : pas.length ≠ 0 := by simpa using hne
  simp [oneWrite, ht, hl]

theorem oneWrite_far {pas : List Nat} (h : ∀ p ∈ pas, isFar p = true) (hne : pas ≠ []) : 0 < oneWrite pas := by
  cases pas with
  | nil => exact absurd rfl hne
  | cons p l =>
    have hp := h p List.mem_cons_self
    simp [oneWrite, hp]

/-! ## Writing out -/

section
variable {s : State} {c : Nat} {q : Cmd} {a : Word}

/-- One run is written once it is at hand. -/
theorem copyOut_go {fuel : Nat} {pas : List Nat} (hne : pas ≠ [])
    (hgo : s.cmdReach c q (placed (a + BitVec.ofNat 64 q.done) (pas.take (oneWrite pas))) = .go) :
    let r := (s.cmdReached c q).cmdStore c q (marryBytes (pas.take (oneWrite pas)) (q.buf.drop q.done))
    s.copyOut c q a (fuel + 1) pas = r.1.copyOut c { r.2 with done := q.done + oneWrite pas } a fuel (pas.drop (oneWrite pas)) := by
  have he : pas.isEmpty = false := by simpa using hne
  simp only [State.copyOut, he, hgo, Bool.false_eq_true, if_false]

theorem copyOut_nil (fuel : Nat) : s.copyOut c q a fuel [] = .done s q := by
  cases fuel <;> simp [State.copyOut]

theorem marryBytes_take (pas : List Nat) (bs : List (Byte × Bool)) : marryBytes pas bs = marryBytes pas (bs.take pas.length) := by
  induction pas generalizing bs with
  | nil => rfl
  | cons p l ih =>
    cases bs with
    | nil => rfl
    | cons b bs => exact congrArg (_ :: ·) (ih bs)

/-- Near places are written in one store. -/
theorem copyOut_near {fuel : Nat} {dst : List Nat} (hq : q.mate = none) (hm : s.memOk) (hn : dst.Nodup)
    (ho : ∀ p ∈ dst, s.otherCopy p = none) (hnear : ∀ p ∈ dst, isFar p = false ∧ s.pathOpen c p = true)
    (hl : dst.length ≤ (q.buf.drop q.done).length) (hf : dst.length ≤ fuel) :
    ∃ (t : State) (r : Cmd), s.copyOut c q a fuel dst = .done t r ∧ s.movesTo t ∧ q.movesAs r ∧ r.done = q.done + dst.length ∧
      s.carried t ((q.buf.drop q.done).take dst.length) dst := by
  by_cases hne : dst = []
  · subst hne
    exact ⟨s, q, copyOut_nil fuel, .refl s, rfl, rfl, by simp, fun j hj => absurd hj (Nat.not_lt_zero j), fun _ _ => rfl⟩
  · obtain ⟨fuel, rfl⟩ : ∃ n, fuel = n + 1 := ⟨fuel - 1, by have := List.length_pos_iff.mpr hne; omega⟩
    have hone := oneWrite_near (fun p hp => (hnear p hp).1) hne
    have hgo : s.cmdReach c q (placed (a + BitVec.ofNat 64 q.done) (dst.take (oneWrite dst))) = .go :=
      reach_near _ _ _ _ _ (fun x hx => hnear _ (List.mem_of_mem_take (mem_placed hx)))
    have hstep := copyOut_go (fuel := fuel) hne hgo
    dsimp only at hstep
    rw [hone, List.take_length, List.drop_length, copyOut_nil, marryBytes_take] at hstep
    refine ⟨_, _, hstep, (State.movesTo.cmdReached s c q).trans (cmdStore_moves ..), cmdStore_movesAs .., rfl, ?_⟩
    refine carried_congr (cmdStore_carries hq c (s := s.cmdReached c q) ?_ hn ?_ ?_) (cmdReached_mem ..).symm rfl
    · show Memory.wf _ = true
      rw [cmdReached_mem]; exact hm
    · intro p hp
      rw [(State.movesTo.cmdReached s c q).otherCopy]; exact ho p hp
    · simp only [List.length_take]; omega

end

/-! ## Reading in -/

theorem placesTo_length {s : State} {sp : Space} {a : Word} {n : Nat} {l : List Nat} (h : s.placesTo sp a n = (l, none)) : l.length = n := by
  induction n generalizing l with
  | zero => cases h; rfl
  | succ n ih =>
    unfold State.placesTo at h
    split at h
    · cases h
    next l' hl' =>
      split at h
      · cases h
      · cases h
        rw [List.length_append, ih hl']; rfl

/-- The state once the source has been read (R187). -/
def State.sourceRead (s : State) (c : Nat) (q : Cmd) (src : List Nat) : State := (s.cmdReached c q).findErrors src

theorem sourceRead_mem (s : State) (c : Nat) (q : Cmd) (src : List Nat) : (s.sourceRead c q src).mem = s.mem := by
  rw [State.sourceRead, findErrors_mem, cmdReached_mem]

theorem sourceRead_pathOpen (s : State) (c : Nat) (q : Cmd) (src : List Nat) (d p : Nat) :
    (s.sourceRead c q src).pathOpen d p = s.pathOpen d p := by
  rw [State.sourceRead, (walkOf_findErrors ..).pathOpen, cmdReached_pathOpen]

theorem sourceRead_moves (s : State) (c : Nat) (q : Cmd) (src : List Nat) : s.movesTo (s.sourceRead c q src) :=
  (State.movesTo.cmdReached s c q).trans (.of_walk (walkOf_findErrors ..))

section
variable {s : State} {c : Nat} {q : Cmd} {f : FmtE} (hi : q.ins = .tcopy f) (h0 : f.flg.getLsbD 0 = false) (h1 : f.flg.getLsbD 1 = false)
include hi h0 h1

/-- A copy from memory to memory. -/
theorem copySides_plain : s.copySides q = (wordAt q.desc 0, wordAt q.desc 8, fieldAt q.desc 16 4) := by
  have hf : cmdFmt q.ins = f := by rw [hi]; rfl
  simp only [State.copySides, hf, h0, h1]
  rfl

/-- A copy that has its source writes it out. -/
theorem workCopy_out {u : State} {r : Cmd} {n : Nat} {dst : List Nat} {limit : Option Nat}
    (hin : s.copyIn c q (wordAt q.desc 0) (fieldAt q.desc 16 4) = .done u r)
    (hn : limit.elim (fieldAt q.desc 16 4) (fun m => Nat.min m (fieldAt q.desc 16 4)) = n) (hd : q.done = 0)
    (hp : u.placesTo (u.cmdSpace c r) (wordAt q.desc 8) n = (dst, none)) (hw : u.walkOpen (u.cmdSpace c r) (wordAt q.desc 8) n = true) :
    s.workCopy c q limit = (u.walked (u.cmdSpace c r) (wordAt q.desc 8) n .write).copyOut c r (wordAt q.desc 8) n dst := by
  have ha : wordAt q.desc 8 + BitVec.ofNat 64 0 = wordAt q.desc 8 := BitVec.add_zero _
  have hout (w : Work) : (match w, (none : Option XFault) with
      | .done s2 q2, some x => .trap s2 q2 (s2.cmdFault c q2 x)
      | w, _ => w) = w := by cases w <;> rfl
  subst hn
  unfold State.workCopy
  rw [copySides_plain hi h0 h1]
  dsimp only
  rw [hin, hd, ha]
  dsimp only
  cases limit with
  | none =>
    simp only [Nat.sub_zero]
    rw [Option.elim_none] at hp hw ⊢
    rw [hp, hw]
    exact hout _
  | some m =>
    simp only [Nat.sub_zero]
    rw [Option.elim_some] at hp hw ⊢
    rw [hp, hw]
    exact hout _

/-- A copy to near places writes the bytes of its source there, up to its limit. -/
theorem workCopy_near {s1 : State} {src dst : List Nat} {bs : List (Byte × Bool)} {n : Nat} {limit : Option Nat} (hq : q.mate = none)
    (hd : q.done = 0) (hb : q.buf = []) (hm : s.memOk) (hnd : dst.Nodup) (ho : ∀ p ∈ dst, s.otherCopy p = none)
    (hget : s.cmdGet c q (wordAt q.desc 0) (fieldAt q.desc 16 4) = .got s1 src bs)
    (hn : limit.elim (fieldAt q.desc 16 4) (fun m => Nat.min m (fieldAt q.desc 16 4)) = n)
    (hp : (s1.sourceRead c q src).placesTo
      ((s1.sourceRead c q src).cmdSpace c { q with buf := bs, bound := s.readBy (s.cmdSpace c q) src q.bound }) (wordAt q.desc 8) n =
        (dst, none))
    (hw : (s1.sourceRead c q src).walkOpen
      ((s1.sourceRead c q src).cmdSpace c { q with buf := bs, bound := s.readBy (s.cmdSpace c q) src q.bound }) (wordAt q.desc 8) n = true)
    (hnear : ∀ p ∈ dst, isFar p = false ∧ s.pathOpen c p = true) :
    ∃ (t : State) (r : Cmd), s.workCopy c q limit = .done t r ∧ s.movesTo t ∧ q.movesAs r ∧ r.done = n ∧
      s.carried t (bs.take n) dst := by
  have hlen : bs.length = fieldAt q.desc 16 4 := (cmdGet_got hget).2
  have hdst : dst.length = n := placesTo_length hp
  have hle : n ≤ fieldAt q.desc 16 4 := by
    rw [← hn]
    cases limit with
    | none => exact Nat.le_refl _
    | some m => exact Nat.min_le_right _ _
  by_cases hz : fieldAt q.desc 16 4 = 0
  · obtain rfl : n = 0 := by omega
    obtain rfl : dst = [] := List.eq_nil_of_length_eq_zero hdst
    have hin : s.copyIn c q (wordAt q.desc 0) (fieldAt q.desc 16 4) = .done s q := by simp [State.copyIn, hb, hz]
    have hout := workCopy_out hi h0 h1 (n := 0) (dst := []) hin hn hd rfl rfl
    rw [copyOut_nil] at hout
    exact ⟨_, q, hout, .of_walk (walkOf_walked ..), rfl, hd, by simp, fun j hj => absurd hj (Nat.not_lt_zero j), fun _ _ => rfl⟩
  · have hin : s.copyIn c q (wordAt q.desc 0) (fieldAt q.desc 16 4) =
        .done (s1.sourceRead c q src) { q with buf := bs, bound := s.readBy (s.cmdSpace c q) src q.bound } := by
      have hne : ¬ q.buf.length = fieldAt q.desc 16 4 := by simp [hb, Ne.symm hz]
      simp only [State.copyIn, hne, if_false, hget]
      rfl
    have hout := workCopy_out hi h0 h1 hin hn hd hp hw
    let r : Cmd := { q with buf := bs, bound := s.readBy (s.cmdSpace c q) src q.bound }
    let u := (s1.sourceRead c q src).walked ((s1.sourceRead c q src).cmdSpace c r) (wordAt q.desc 8) n .write
    have hwalk : (s1.sourceRead c q src).walkOf u := walkOf_walked ..
    have hmoves : s.movesTo u :=
      ((State.movesTo.of_walk (walkOf_cmdGet hget)).trans (sourceRead_moves ..)).trans (.of_walk hwalk)
    have hmem : u.mem = s.mem := hwalk.mem.trans ((sourceRead_mem ..).trans (walkOf_cmdGet hget).mem)
    have hpath (p : Nat) : u.pathOpen c p = s.pathOpen c p :=
      (hwalk.pathOpen c p).trans ((sourceRead_pathOpen ..).trans ((walkOf_cmdGet hget).pathOpen c p))
    obtain ⟨t, v, e, ht, hv, hdone, hcar⟩ := copyOut_near (s := u) (c := c) (q := r) (a := wordAt q.desc 8) (fuel := n) hq
      (show Memory.wf u.mem = true by rw [hmem]; exact hm) hnd (fun p hp => (hmoves.otherCopy p).trans (ho p hp))
      (fun p hp => ⟨(hnear p hp).1, (hpath p).trans (hnear p hp).2⟩)
      (by simp only [r, hd, List.drop_zero]; omega) (Nat.le_of_eq hdst)
    refine ⟨t, v, hout.trans e, hmoves.trans ht, ?_, by rw [hdone, hdst]; exact (congrArg (· + n) hd).trans (Nat.zero_add n), ?_⟩
    · exact Cmd.movesAs.trans (r := r) rfl hv
    · have hbuf : (r.buf.drop r.done).take dst.length = bs.take n := by simp only [r, hd, List.drop_zero, hdst]
      exact carried_congr (hbuf ▸ hcar) hmem.symm rfl

end

/-! ## What comes of work that keeps memory -/

/-- What a state and a command are left with by work that is not done with its bytes. -/
def Work.mem : Work → List Host.Cell
  | .wait s _ | .trap s _ _ | .ends s _ _ | .done s _ => s.mem

/-- The command of a piece of work. -/
def Work.cmd : Work → Cmd
  | .wait _ q | .trap _ q _ | .ends _ q _ | .done _ q => q

/-- What comes of work keeps the memory that the work has left. -/
theorem settle_mem {w : Work} (h : w.cmd.mate = none) (c : Nat) : (settle c w).mem = w.mem := by
  cases w with
  | wait s q => rfl
  | trap s q x => exact (State.endsAs.cmdTrap (P := (· = c)) s c q x).mem
  | ends s q x =>
    show (s.endCmd c q x).mem = s.mem
    have hf := State.endsAs.finishCmd (P := (· = c)) (q := { q with val := false }) rfl (Or.inl h) s false
    unfold State.endCmd
    dsimp only
    split
    · exact hf.mem
    · exact (hf.trans (State.endsAs.raise ..)).mem
  | done s q => exact (State.endsAs.worked (P := (· = c)) rfl (Or.inl h) s).mem

/-- Work at near places: its end carries what the work has carried. -/
theorem exec_carries {c k : Nat} {q r : Cmd} {s t : State} {bs : List (Byte × Bool)} {dst : List Nat} (hw : Working c k q s)
    (h : s.work c q none = .done t r) (hr : r.mate = none) (hc : s.carried t bs dst) :
    ∃ t : State, exec (.engineCompletion c k) s = .next t ∧ s.carried t bs dst := by
  obtain ⟨he, ht⟩ := exec_done hw h hr
  exact ⟨_, he, carried_congr hc rfl ht.mem⟩

/-! ## Byte mode (R182) -/

section
variable {c k : Nat} {q : Cmd} {s : State} {f : FmtE} (hw : Working c k q s) (hi : q.ins = .tcopy f) (h0 : f.flg.getLsbD 0 = false)
  (h1 : f.flg.getLsbD 1 = false) (hd : q.done = 0)
include hw hi h0 h1 hd

/-- A copy that has no prefix to signal leaves its signals to its completion. -/
theorem exec_byteMode_none (h : fieldAt q.desc 16 4 ≤ 2048 ∨ f.ssem = 0xFF ∨ f.sinc ≠ 0) : exec (.byteModeSignal c k) s = .next s := by
  have hf : cmdFmt q.ins = f := by rw [hi]; rfl
  show execByteModeSignal c k s = _
  have hb : s.workBytes q = fieldAt q.desc 16 4 := by simp only [State.workBytes, hi, copySides_plain hi h0 h1]
  unfold execByteModeSignal
  rw [hw.ready]
  dsimp only
  by_cases hm : byteMode q.ins = true
  · have hlen : fieldAt q.desc 16 4 ≤ 2048 := by
      refine h.resolve_right ?_
      simp only [byteMode, hf, Bool.and_eq_true, bne_iff_ne, beq_iff_eq] at hm
      rintro (h | h)
      · exact hm.1.1 h
      · exact h hm.1.2
    have hle : s.workBytes q ≤ q.done + 2048 := by omega
    have h2 : ¬ 2048 ≤ q.done - q.signalled := by omega
    simp [hm, h2, hle]
  · simp [hm]

end

end Sys2Proof.Machine
end

section
/-!
BYTE MODE, FAR WINDOWS, GATHER AND SCATTER (R182, R187, R188, R349, R415): the rest of what copies come to, element by element.
-/

namespace Sys2Proof.Machine

open Sys2Proof

/-- Semaphores are reached over the links. -/
theorem semOpen_congr {s t : State} {n : Nat} (hl : t.links = s.links) (hk : t.task n = s.task n) (c w : Nat) :
    t.semOpen c (t.task n) w = s.semOpen c (s.task n) w := by
  have h (m : Nat) : t.link m = s.link m := by simp only [State.link, hl]
  simp only [State.semOpen, hk, State.clusOpen, State.dieOpen, State.meshOpen, State.seamOpen, State.hubLink, h]

section
variable {c k : Nat} {q : Cmd} {s : State} {f : FmtE} (hw : Working c k q s) (hi : q.ins = .tcopy f) (h0 : f.flg.getLsbD 0 = false)
  (h1 : f.flg.getLsbD 1 = false) (hd : q.done = 0)
include hw hi h0 h1 hd

/-- A prefix of 2 KiB is signalled once it has been written (R182). -/
theorem exec_byteMode_signals {t : State} {r : Cmd} {key : Nat} {bs : List (Byte × Bool)} {dst : List Nat} (hsem : f.ssem ≠ 0xFF) (hinc : f.sinc = 0)
    (hsig : q.signalled = 0) (hlen : 2048 < fieldAt q.desc 16 4) (hwork : s.work c q (some 2048) = .done t r) (ht : s.movesTo t)
    (hr : q.movesAs r) (hdone : r.done = 2048) (hc : s.carried t bs dst)
    (ho : s.semOpen c (s.task q.task) f.ssem.toNat = true) (hkey : (s.task q.task).semKey f.ssem.toNat = some key)
    (hfit : (s.sems.get {} key).val + 2048 ≤ semMax) :
    ∃ t : State, exec (.byteModeSignal c k) s = .next t ∧ s.carried t bs dst ∧
        (t.sems.get {} key).val = (s.sems.get {} key).val + 2048 := by
  have hf : cmdFmt q.ins = f := by rw [hi]; rfl
  have hb : s.workBytes q = fieldAt q.desc 16 4 := by simp only [State.workBytes, hi, copySides_plain hi h0 h1]
  have hm : byteMode q.ins = true := by
    have hx : (f.ssem != 0xFF) = true := bne_iff_ne.mpr hsem
    have hy : (f.sinc == 0) = true := beq_iff_eq.mpr hinc
    rw [byteMode, hf]
    · exact Bool.and_eq_true_iff.mpr ⟨Bool.and_eq_true_iff.mpr ⟨hx, hy⟩, rfl⟩
    · intro g e
      rw [hi] at e
      cases e
  have hmate : r.mate = none := hr.mate.trans hw.alone
  have hri : cmdFmt r.ins = f := by rw [hr]; exact hf
  have hrt : r.task = q.task := by rw [hr]
  have hrs : r.signalled = 0 := by rw [hr]; exact hsig
  let u := t.putCmd c r
  have hut : u.task r.task = s.task q.task := by rw [hrt]; exact ht.task q.task
  have hopen : u.semOpen c (u.task r.task) (cmdFmt r.ins).ssem.toNat = true := by
    rw [hri, hrt]
    exact (semOpen_congr (s := s) ht.links (ht.task q.task) c _).trans ho
  have hval : u.sems = s.sems := ht.sems
  have hsgn : u.cmdSignal r (r.done - r.signalled) = .ok ((u.addSem key 2048 r.bound).postJob (u.task r.task).job 1) := by
    have hn : ¬ semMax < (u.sems.get {} key).val + 2048 := by rw [hval]; omega
    simp only [State.cmdSignal, State.signal, hut, hri, hkey, hdone, hrs, Nat.sub_zero, hn, if_false]
  have hp : u.prefixSignal c r =
      (((u.addSem key 2048 r.bound).postJob (u.task r.task).job 1).cmdIrrevoke r).putCmd c { r with signalled := r.done } := by
    simp only [State.prefixSignal, hopen, hsgn]
    rfl
  have hx : exec (.byteModeSignal c k) s = .next (u.prefixSignal c r) := by
    show execByteModeSignal c k s = _
    have hn : ¬ s.workBytes q ≤ 2048 := by omega
    unfold execByteModeSignal
    rw [hw.ready]
    dsimp only
    rw [hm, hwork, hd, Nat.zero_sub, Nat.zero_add, if_neg hn]
    rfl
  have hpost : u.endsAs (· = c) (u.prefixSignal c r) := by
    rw [hp]
    exact (((State.endsAs.addSem ..).trans (.postJob ..)).trans (.cmdIrrevoke ..)).trans (.putCmd ..)
  refine ⟨_, hx, carried_congr hc rfl hpost.mem, ?_⟩
  rw [hp, cmdIrrevoke_alone hmate]
  show ((State.postJob _ _ _).sems.get {} key).val = _
  rw [postJob_sems, State.addSem, Tbl.get_set, hval]

end

/-! ## Windows of far memory (R349) -/

/-- Once the requests of a requester are done with, no far place is at hand for it. -/
theorem reached_atHand (s : State) (c : Nat) (w : Requester) {p : Nat} (h : isFar p = true) : (s.reached c w).atHand c w p = false := by
  have hnone : ∀ r, (s.reached c w).farReq c w p = some r → r.answered = false := by
    intro r hr
    obtain ⟨hmem, hmine⟩ := And.intro (List.mem_of_find?_eq_some hr) (List.find?_some hr)
    simp only [Bool.and_eq_true, beq_iff_eq] at hmine
    have hkeep : (r.clus != c || r.who != w || (r.slot.isSome && !r.answered)) = true := by
      have h01 : farOf p = 0 ∨ farOf p = 1 := by unfold farOf; split <;> omega
      unfold State.reached at hmem
      split at hmem
      next he =>
        simp only [Bool.and_eq_true, List.isEmpty_iff] at he
        rcases h01 with e | e <;> rw [e] at hmem
        · rw [he.1] at hmem; cases hmem
        · rw [he.2] at hmem; cases hmem
      next =>
        dsimp only at hmem
        rcases h01 with e | e <;> rw [e] at hmem
        · rw [far_modFar_ne _ _ _ _ (by decide), far_modFar] at hmem
          exact (List.mem_filter.mp hmem).2
        · rw [far_modFar] at hmem
          exact (List.mem_filter.mp hmem).2
    have hslot : r.slot.isSome = true ∧ r.answered = false := by simpa [hmine.1.1, hmine.1.2] using hkeep
    exact hslot.2
  unfold State.atHand
  rw [h]
  cases hr : (s.reached c w).farReq c w p with
  | none => rfl
  | some r => simp [hnone r hr]

/-- A copy whose next places are far and not at hand writes no more of them. -/
theorem copyOut_stays {s : State} {c : Nat} {q : Cmd} {a : Word} {fuel : Nat} {pas : List Nat} (hfar : ∀ p ∈ pas, isFar p = true)
    (hh : ∀ p, isFar p = true → s.atHand c (.cmd q.id) p = false) :
    (s.copyOut c q a fuel pas).mem = s.mem ∧ (s.copyOut c q a fuel pas).cmd = q := by
  by_cases hne : pas = []
  · subst hne; rw [copyOut_nil]; exact ⟨rfl, rfl⟩
  · cases fuel with
    | zero => exact ⟨rfl, rfl⟩
    | succ fuel =>
      have he : pas.isEmpty = false := by simpa using hne
      cases hr : s.cmdReach c q (placed (a + BitVec.ofNat 64 q.done) (pas.take (oneWrite pas))) with
      | wait s1 =>
        simp only [State.copyOut, he, hr, Bool.false_eq_true, if_false]
        exact ⟨by rw [reach_wait _ _ _ _ _ _ hr]; rfl, rfl⟩
      | fault x =>
        simp only [State.copyOut, he, hr, Bool.false_eq_true, if_false]
        exact ⟨cmdReached_mem .., rfl⟩
      | go =>
        exfalso
        obtain ⟨-, -, hall⟩ := (reach_go_iff ..).mp hr
        obtain ⟨p, l, rfl⟩ := List.exists_cons_of_ne_nil hne
        have hp : isFar p = true := hfar p List.mem_cons_self
        have hpos := oneWrite_far hfar hne
        have hin : ((a + BitVec.ofNat 64 q.done) + BitVec.ofNat 64 0, p) ∈
            placed (a + BitVec.ofNat 64 q.done) ((p :: l).take (oneWrite (p :: l))) := by
          obtain ⟨n, hn⟩ : ∃ n, oneWrite (p :: l) = n + 1 := ⟨oneWrite (p :: l) - 1, by omega⟩
          rw [hn, List.take_succ_cons]
          simp [placed, List.range_succ_eq_map]
        have := List.all_eq_true.mp hall _ (List.mem_filter.mpr ⟨hin, hp⟩)
        rw [hh p hp] at this
        cases this

/-- A copy to far places writes its first window, and no more until the next is at hand. -/
theorem exec_copyFar {c k n : Nat} {q : Cmd} {s : State} {f : FmtE} {dst : List Nat} (hw : Working c k q s) (hi : q.ins = .tcopy f)
    (h0 : f.flg.getLsbD 0 = false) (h1 : f.flg.getLsbD 1 = false) (hd : q.done = 0) (hm : s.memOk) (hnd : dst.Nodup)
    (ho : ∀ p ∈ dst, s.otherCopy p = none) (hb : q.buf.length = fieldAt q.desc 16 4) (hn : n = oneWrite dst) (hpos : 0 < n)
    (hfar : ∀ p ∈ dst, isFar p = true)
    (hp : s.placesTo (s.cmdSpace c q) (wordAt q.desc 8) (fieldAt q.desc 16 4) = (dst, none))
    (ho' : s.walkOpen (s.cmdSpace c q) (wordAt q.desc 8) (fieldAt q.desc 16 4) = true)
    (hgo : (s.walked (s.cmdSpace c q) (wordAt q.desc 8) (fieldAt q.desc 16 4) .write).cmdReach c q
      (placed (wordAt q.desc 8) (dst.take n)) = .go) :
    ∃ t : State, exec (.engineCompletion c k) s = .next t ∧ s.carried t (q.buf.take n) (dst.take n) := by
  have hne : dst ≠ [] := by
    rintro rfl
    rw [hn] at hpos
    exact absurd hpos (by decide)
  have hlen : dst.length = fieldAt q.desc 16 4 := placesTo_length hp
  obtain ⟨fuel, hfuel⟩ : ∃ m, fieldAt q.desc 16 4 = m + 1 := ⟨fieldAt q.desc 16 4 - 1, by
    have := List.length_pos_iff.mpr hne; omega⟩
  have hin : s.copyIn c q (wordAt q.desc 0) (fieldAt q.desc 16 4) = .done s q := by simp [State.copyIn, hb]
  have hout := workCopy_out hi h0 h1 (limit := none) (n := fieldAt q.desc 16 4) hin rfl hd hp ho'
  let u := s.walked (s.cmdSpace c q) (wordAt q.desc 8) (fieldAt q.desc 16 4) .write
  have hwalk : s.walkOf u := walkOf_walked ..
  have ha : wordAt q.desc 8 + BitVec.ofNat 64 q.done = wordAt q.desc 8 := by rw [hd]; exact BitVec.add_zero _
  have hstep := copyOut_go (s := u) (c := c) (q := q) (a := wordAt q.desc 8) (fuel := fuel) hne (by rw [ha, ← hn]; exact hgo)
  dsimp only at hstep
  rw [← hn, hd, List.drop_zero, marryBytes_take] at hstep
  let v := (u.cmdReached c q).cmdStore c q (marryBytes (dst.take n) (q.buf.take (dst.take n).length))
  have hvq : q.movesAs { v.2 with done := 0 + n } := cmdStore_movesAs ..
  have hlast := copyOut_stays (s := v.1) (c := c) (q := { v.2 with done := 0 + n }) (a := wordAt q.desc 8) (fuel := fuel) (pas := dst.drop n)
    (fun p hp => hfar p (List.mem_of_mem_drop hp)) (fun p hp => by
      rw [hvq.id, show v.1 = _ from cmdStore_only ..]
      exact reached_atHand u c (.cmd q.id) hp)
  have hmin : (dst.take n).length = min n q.buf.length := by simp [hlen, hb]
  have hcar : (u.cmdReached c q).carried v.1 (q.buf.take (dst.take n).length) (dst.take n) := by
    refine cmdStore_carries hw.alone c ?_ (hnd.sublist (List.take_sublist ..)) ?_ ?_
    · show Memory.wf _ = true
      rw [cmdReached_mem, hwalk.mem]; exact hm
    · intro p hp
      rw [((State.movesTo.of_walk hwalk).trans (.cmdReached u c q)).otherCopy]
      exact ho p (List.mem_of_mem_take hp)
    · simp only [List.length_take]; omega
  have hwork : s.work c q none = v.1.copyOut c { v.2 with done := 0 + n } (wordAt q.desc 8) fuel (dst.drop n) := by
    rw [State.work, hi]
    refine hout.trans ?_
    show u.copyOut c q (wordAt q.desc 8) (fieldAt q.desc 16 4) dst = _
    rw [hfuel]
    exact hstep
  have hbuf : q.buf.take (dst.take n).length = q.buf.take n := by
    rw [hmin]
    by_cases h : n ≤ q.buf.length
    · rw [Nat.min_eq_left h]
    · rw [Nat.min_eq_right (by omega), List.take_length, List.take_of_length_le (by omega)]
  refine ⟨_, exec_engineCompletion hw, carried_congr (hbuf ▸ hcar) (hwalk.mem.symm.trans (cmdReached_mem ..).symm) ?_⟩
  rw [hwork, settle_mem (by rw [hlast.2, hvq.mate]; exact hw.alone)]
  exact hlast.1

/-! ## One element of a gather or scatter (R188) -/

/-- Bytes that are all alike read back, even from places that coincide. -/
theorem read_writes_const {bs : List PByte} {m : List Host.Cell} {v : Byte} {x : Nat} (hm : Memory.wf m = true)
    (hv : ∀ b ∈ bs, b.val = v) (hx : Memory.read m x = v ∨ ∃ b ∈ bs, b.addr = x) :
    Memory.read (bs.foldl (fun m b => Memory.write m b.addr b.val) m) x = v := by
  induction bs generalizing m with
  | nil => exact hx.resolve_right (fun ⟨b, hb, _⟩ => by cases hb)
  | cons b t ih =>
    rw [List.foldl_cons]
    refine ih (Memory.wf_write m _ _ hm) (fun y hy => hv y (List.mem_cons_of_mem _ hy)) ?_
    by_cases hb : b.addr = x
    · left
      subst hb
      rw [Memory.read_write b.addr b.val hm]
      exact hv b List.mem_cons_self
    · rw [Memory.read_write_ne m _ hb]
      rcases hx with hx | ⟨y, hy, e⟩
      · exact Or.inl hx
      · rcases List.mem_cons.mp hy with rfl | hy
        · exact absurd e hb
        · exact Or.inr ⟨y, hy, e⟩

theorem read_storeAll_const {s : State} {bs : List PByte} {at_ bw : Bool} {r : Option Release} {w : Option Nat} {v : Byte} (hm : s.memOk)
    (ho : ∀ b ∈ bs, s.otherCopy b.addr = none) (hv : ∀ b ∈ bs, b.val = v) {b : PByte} (hb : b ∈ bs) :
    Memory.read (s.storeAll bs at_ r w bw).mem b.addr = v := by
  have hmir : bs.filterMap (fun b => (s.mirrorPlace b.addr).map (fun pa => { b with addr := pa })) = [] := by
    refine List.filterMap_eq_nil_iff.mpr (fun b hb => ?_)
    simp [State.mirrorPlace, ho b hb]
  unfold State.storeAll
  rw [hmir, List.append_nil]
  exact read_writes_const hm hv (Or.inr ⟨b, hb, rfl⟩)

/-- The state in which an element is written: the errors that its reads have found are marked. -/
def State.elemRead (s : State) (c : Nat) (q : Cmd) (a : Word) (n : Nat) (reads : List (List Nat)) : State :=
  ((s.walked (s.cmdSpace c q) a n .write).cmdReached c q).findErrors reads.flatten

section
variable {s : State} {c : Nat} {q : Cmd} {a : Word} {reads : List (List Nat)} {bs : List (Byte × Bool)} {dst : List Nat}

theorem elemRead_moves (n : Nat) : s.movesTo (s.elemRead c q a n reads) :=
  ((State.movesTo.of_walk (walkOf_walked ..)).trans (.cmdReached ..)).trans (.of_walk (walkOf_findErrors ..))

theorem elemRead_mem (n : Nat) : (s.elemRead c q a n reads).mem = s.mem := by
  rw [State.elemRead, findErrors_mem, cmdReached_mem]
  exact (walkOf_walked ..).mem

/-- An element whose places are at hand is written there in one store. -/
theorem putElem_writes (hw : s.walkOpen (s.cmdSpace c q) a bs.length = true)
    (hx : s.xlateBytes (s.cmdSpace c q) a bs.length .write = .ok dst)
    (hgo : (s.walked (s.cmdSpace c q) a bs.length .write).cmdReach c q (placed a dst) = .go) :
    ∃ qb r : Cmd, q.movesAs qb ∧ q.movesAs r ∧ s.putElem c q a reads bs =
      .done ((s.elemRead c q a bs.length reads).cmdStore c qb (marryBytes dst bs)).1 r := by
  let qb : Cmd := { q with bound := reads.foldl (fun b l => s.readBy (s.cmdSpace c q) l b) q.bound }
  refine ⟨qb, { ((s.elemRead c q a bs.length reads).cmdStore c qb (marryBytes dst bs)).2 with done := q.done + bs.length }, rfl,
    Cmd.movesAs.trans (r := qb) rfl (cmdStore_movesAs ..), ?_⟩
  simp only [State.putElem, hw, hx, hgo]
  rfl

/-- What it carries. -/
theorem putElem_carries (hq : q.mate = none) (hm : s.memOk) (hn : dst.Nodup) (ho : ∀ p ∈ dst, s.otherCopy p = none)
    (hw : s.walkOpen (s.cmdSpace c q) a bs.length = true) (hx : s.xlateBytes (s.cmdSpace c q) a bs.length .write = .ok dst)
    (hgo : (s.walked (s.cmdSpace c q) a bs.length .write).cmdReach c q (placed a dst) = .go) :
    ∃ (t : State) (r : Cmd), s.putElem c q a reads bs = .done t r ∧ r.mate = none ∧ s.carried t bs dst := by
  obtain ⟨qb, r, hqb, hr, e⟩ := putElem_writes (reads := reads) hw hx hgo
  refine ⟨_, r, e, hr.mate.trans hq, carried_congr (cmdStore_carries (hqb.mate.trans hq) c ?_ hn ?_ ?_) (elemRead_mem _).symm rfl⟩
  · show Memory.wf _ = true
    rw [elemRead_mem]; exact hm
  · intro p hp
    rw [(elemRead_moves _).otherCopy]; exact ho p hp
  · exact (length_xlateBytes hx).symm

/-- Zeros marked poisoned are written at places that may coincide (R415). -/
theorem putElem_poisons (n : Nat) (hq : q.mate = none) (hm : s.memOk) (ho : ∀ p ∈ dst, s.otherCopy p = none)
    (hw : s.walkOpen (s.cmdSpace c q) a n = true) (hx : s.xlateBytes (s.cmdSpace c q) a n .write = .ok dst)
    (hgo : (s.walked (s.cmdSpace c q) a n .write).cmdReach c q (placed a dst) = .go) :
    ∃ (t : State) (r : Cmd), s.putElem c q a reads (List.replicate n (0, true)) = .done t r ∧ r.mate = none ∧
      (∀ p ∈ dst, Memory.read t.mem p = 0 ∧ sectorOf p ∈ t.marks) ∧ ∀ x, x ∉ dst → Memory.read t.mem x = Memory.read s.mem x := by
  have hlen : (List.replicate n ((0, true) : Byte × Bool)).length = n := List.length_replicate
  obtain ⟨qb, r, hqb, hr, e⟩ := putElem_writes (bs := List.replicate n (0, true)) (reads := reads) (hlen.symm ▸ hw) (hlen.symm ▸ hx)
    (hlen.symm ▸ hgo)
  let u := s.elemRead c q a (List.replicate n ((0, true) : Byte × Bool)).length reads
  let bs := marryBytes dst (List.replicate n (0, true))
  have hq' : qb.mate = none := hqb.mate.trans hq
  have hl : (List.replicate n ((0, true) : Byte × Bool)).length = dst.length := by rw [hlen]; exact (length_xlateBytes hx).symm
  have hin (b : PByte) (hb : b ∈ bs) : b.addr ∈ dst ∧ b.val = 0 ∧ b.bad = true := by
    obtain ⟨h1, h2⟩ := mem_of_marryBytes hb
    obtain ⟨h3, h4⟩ := Prod.mk.inj (List.eq_of_mem_replicate h2)
    exact ⟨h1, h3, h4⟩
  have hbyte (p : Nat) (hp : p ∈ dst) : ∃ b ∈ bs, b.addr = p := by
    rw [← marryBytes_addr hl] at hp
    obtain ⟨b, hb, e⟩ := List.mem_map.mp hp
    exact ⟨b, hb, e⟩
  have hcopy (b : PByte) (hb : b ∈ bs) : u.otherCopy b.addr = none :=
    ((elemRead_moves _).otherCopy _).trans (ho _ (hin b hb).1)
  have hmem : u.mem = s.mem := elemRead_mem _
  refine ⟨_, r, e, hr.mate.trans hq, fun p hp => ?_, fun x hout => ?_⟩
  · obtain ⟨b, hb, rfl⟩ := hbyte p hp
    have hne : bs ≠ [] := List.ne_nil_of_mem hb
    constructor
    · show Memory.read (u.cmdStore c qb bs).1.mem b.addr = 0
      rw [cmdStore_mem hq' _ _ _ hne]
      exact read_storeAll_const (show Memory.wf u.mem = true by rw [hmem]; exact hm) hcopy (fun b hb => (hin b hb).2.1) hb
    · show _ ∈ (u.cmdStore c qb bs).1.marks
      rw [cmdStore_marks hq' _ _ _ hne (fun b hb => (hin b hb).2.2)]
      exact mem_marksAfter (List.mem_append_left _ hb) (hin b hb).2.2 _
  · show Memory.read (u.cmdStore c qb bs).1.mem x = _
    by_cases hne : bs = []
    · rw [hne]
      exact congrArg (Memory.read · x) hmem
    · have haway (b : PByte) (hb : b ∈ bs) : b.addr ≠ x ∧ u.otherCopy b.addr ≠ some x :=
        ⟨fun e => hout (e ▸ (hin b hb).1), by rw [hcopy b hb]; exact nofun⟩
      rw [cmdStore_mem hq' _ _ _ hne, read_storeAll_ne haway, hmem]

end

/-! ## A gather or scatter of one element -/

section
variable {c k : Nat} {q : Cmd} {s : State}

/-- One element is all the work (R188). -/
theorem workMoves_one (into : Bool) (hd : q.done = 0) (hc : (s.moves q).count = 1) : s.workMoves c q into none =
    if into then s.gatherOne c q (s.moves q) 0 else s.scatterOne c q (s.moves q) 0 := by
  unfold State.workMoves
  dsimp only
  rw [hd, hc, Nat.zero_div]
  show s.moveAll c q (s.moves q) into 0 1 = _
  rw [State.moveAll]
  generalize (if into = true then s.gatherOne c q (s.moves q) 0 else s.scatterOne c q (s.moves q) 0) = w
  cases w <;> rfl


/-- An element whose index reads moves from the place `x` to the place `y` (R188). -/
theorem moveElem_carries {s1 s2 : State} {ip src dst : List Nat} {bs : List (Byte × Bool)} {x y : Word} {n : Nat} (hq : q.mate = none)
    (hm : s1.memOk) (hn : dst.Nodup) (ho : ∀ p ∈ dst, s1.otherCopy p = none) (hget : s1.cmdGet c q x n = .got s2 src bs)
    (hw : s2.walkOpen (s2.cmdSpace c q) y n = true) (hx : s2.xlateBytes (s2.cmdSpace c q) y n .write = .ok dst)
    (hgo : (s2.walked (s2.cmdSpace c q) y n .write).cmdReach c q (placed y dst) = .go) :
    ∃ (t : State) (r : Cmd), s1.moveElem c q ip x y n = .done t r ∧ r.mate = none ∧ s1.carried t bs dst := by
  obtain rfl : bs.length = n := (cmdGet_got hget).2
  have hwalk := walkOf_cmdGet hget
  obtain ⟨t, r, e, hr, hc⟩ := putElem_carries (reads := [ip, src]) hq (show Memory.wf s2.mem = true by rw [hwalk.mem]; exact hm) hn
    (fun p hp => ((State.movesTo.of_walk hwalk).otherCopy p).trans (ho p hp)) hw hx hgo
  refine ⟨t, r, ?_, hr, carried_congr hc hwalk.mem.symm rfl⟩
  simp only [State.moveElem, hget]
  exact e

/-- The index of an element, once it reads (R188). -/
theorem getIndex_got {s1 : State} {m : Moves} {ip : List Nat} {is : List (Byte × Bool)} (hisz : 0 < m.isz)
    (hget : s.cmdGet c q m.idx m.isz = .got s1 ip is) (go : State → List Nat → Int → Bool → Work) :
    s.getIndex c q m 0 go = go s1 ip (BitVec.ofNat (8 * m.isz) (leVal (is.map (·.1)))).toInt (is.any (·.2)) := by
  have ha : m.idx + BitVec.ofNat 64 (0 * m.isz) = m.idx := by rw [Nat.zero_mul]; exact BitVec.add_zero _
  unfold State.getIndex
  rw [ha, hget, ← sval_eq _ _ (by omega)]

theorem slot_zero (m : Moves) : m.slot 0 = m.buf := by
  rw [Moves.slot, Nat.zero_mul]; exact BitVec.add_zero _

theorem isz_pos (s : State) (q : Cmd) : 0 < (s.moves q).isz := by
  simp only [State.moves]
  split <;> decide

end

/-- A gather or scatter of one element whose index is clean carries it (R188). -/
theorem exec_moveOne {c k : Nat} {q : Cmd} {s s1 s2 : State} {f : FmtE} {ip src dst : List Nat} {is bs : List (Byte × Bool)} {a b : Word}
    (hw : Working c k q s) (hd : q.done = 0) (hi : q.ins = .tgath f ∨ q.ins = .tscat f) (hc : (s.moves q).count = 1) (hm : s.memOk)
    (hnd : dst.Nodup) (ho : ∀ p ∈ dst, s.otherCopy p = none) (hidx : s.cmdGet c q (s.moves q).idx (s.moves q).isz = .got s1 ip is)
    (hclean : is.any (·.2) = false)
    (ha : a = if q.ins = .tgath f then (s.moves q).elem (BitVec.ofNat (8 * (s.moves q).isz) (leVal (is.map (·.1)))).toInt
      else (s.moves q).buf)
    (hb : b = if q.ins = .tgath f then (s.moves q).buf
      else (s.moves q).elem (BitVec.ofNat (8 * (s.moves q).isz) (leVal (is.map (·.1)))).toInt)
    (hget : s1.cmdGet c q a (s.moves q).e = .got s2 src bs) (hopen : s2.walkOpen (s2.cmdSpace c q) b (s.moves q).e = true)
    (hx : s2.xlateBytes (s2.cmdSpace c q) b (s.moves q).e .write = .ok dst)
    (hgo : (s2.walked (s2.cmdSpace c q) b (s.moves q).e .write).cmdReach c q (placed b dst) = .go) :
    ∃ t : State, exec (.engineCompletion c k) s = .next t ∧ s.carried t bs dst := by
  have hwalk := walkOf_cmdGet hidx
  obtain ⟨t, r, e, hr, hcar⟩ := moveElem_carries (ip := ip) hw.alone (show Memory.wf s1.mem = true by rw [hwalk.mem]; exact hm) hnd
    (fun p hp => ((State.movesTo.of_walk hwalk).otherCopy p).trans (ho p hp)) hget hopen hx hgo
  have hwork : s.work c q none = .done t r := by
    rw [← e]
    rcases hi with hi | hi
    · rw [if_pos hi] at ha hb
      rw [State.work, hi]
      show s.workMoves c q true none = _
      rw [workMoves_one true hd hc, if_pos rfl, State.gatherOne, getIndex_got (isz_pos s q) hidx, hclean, slot_zero, ha, hb]
      rfl
    · have hne : ¬ q.ins = .tgath f := by rw [hi]; exact nofun
      rw [if_neg hne] at ha hb
      rw [State.work, hi]
      show s.workMoves c q false none = _
      rw [workMoves_one false hd hc, if_neg (by decide), State.scatterOne, getIndex_got (isz_pos s q) hidx, hclean, slot_zero, ha, hb]
      rfl
  exact exec_carries hw hwork hr (carried_congr hcar hwalk.mem.symm rfl)

/-- A gather of one element whose index is poisoned writes zeros marked poisoned (R415). -/
theorem exec_gatherPoison {c k : Nat} {q : Cmd} {s s1 : State} {f : FmtE} {ip dst : List Nat} {is : List (Byte × Bool)}
    (hw : Working c k q s) (hd : q.done = 0) (hi : q.ins = .tgath f) (hc : (s.moves q).count = 1) (hm : s.memOk)
    (ho : ∀ p ∈ dst, s.otherCopy p = none) (hidx : s.cmdGet c q (s.moves q).idx (s.moves q).isz = .got s1 ip is)
    (hbad : is.any (·.2) = true) (hopen : s1.walkOpen (s1.cmdSpace c q) (s.moves q).buf (s.moves q).e = true)
    (hx : s1.xlateBytes (s1.cmdSpace c q) (s.moves q).buf (s.moves q).e .write = .ok dst)
    (hgo : (s1.walked (s1.cmdSpace c q) (s.moves q).buf (s.moves q).e .write).cmdReach c q (placed (s.moves q).buf dst) = .go) :
    ∃ t : State, exec (.engineCompletion c k) s = .next t ∧ (∀ p ∈ dst, Memory.read t.mem p = 0 ∧ t.marked p = true) ∧
      ∀ x, x ∉ dst → Memory.read t.mem x = Memory.read s.mem x := by
  have hwalk := walkOf_cmdGet hidx
  obtain ⟨t, r, e, hr, hin, hout⟩ := putElem_poisons (reads := [ip]) (s.moves q).e hw.alone
    (show Memory.wf s1.mem = true by rw [hwalk.mem]; exact hm) (fun p hp => ((State.movesTo.of_walk hwalk).otherCopy p).trans (ho p hp))
    hopen hx hgo
  have hwork : s.work c q none = .done t r := by
    rw [← e, State.work, hi]
    show s.workMoves c q true none = _
    rw [workMoves_one true hd hc, if_pos rfl, State.gatherOne, getIndex_got (isz_pos s q) hidx, hbad, slot_zero]
    rfl
  obtain ⟨he, ht⟩ := exec_done hw hwork hr
  refine ⟨_, he, fun p hp => ?_, fun x hx => by rw [ht.mem, hout x hx, hwalk.mem]⟩
  obtain ⟨hz, hmark⟩ := hin p hp
  refine ⟨by rw [ht.mem]; exact hz, ?_⟩
  rw [State.marked, ht.marks, Bool.or_eq_true]
  exact Or.inl (List.contains_iff_mem.mpr hmark)

/-- Settles O40: near places take the source in one store, far ones a window at a time, an element goes by its signed index, and a read
that looks back at nothing finds memory as it stands. -/
theorem copyGatherScatter : Obligations.CopyGatherScatter := by
  refine ⟨?_, ?_, ?_, ?_, ?_⟩
  · intro c k q s s1 f src dst bs hw hd hb hi h0 h1 hm hnd ho hget q1 s2
    have hlen := (cmdGet_got hget).2
    refine ⟨fun hp hopen hnear => ?_, exec_byteMode_none hw hi h0 h1 hd, ?_⟩
    · obtain ⟨t, r, e, -, hr, -, hc⟩ :=
        workCopy_near hi h0 h1 (limit := none) (n := fieldAt q.desc 16 4) hw.alone hd hb hm hnd ho hget rfl hp hopen hnear
      rw [← hlen, List.take_length] at hc
      exact exec_carries hw (by rw [State.work, hi]; exact e) (hr.mate.trans hw.alone) hc
    · intro key hsem hinc hsig hlong hp hopen hsopen hnear hkey hfit
      obtain ⟨t, r, e, ht, hr, hdone, hc⟩ := workCopy_near hi h0 h1 (limit := some 2048) (n := 2048) hw.alone hd hb hm hnd ho hget
        (Nat.min_eq_left (Nat.le_of_lt hlong)) hp hopen hnear
      exact exec_byteMode_signals hw hi h0 h1 hd hsem hinc hsig hlong (by rw [State.work, hi]; exact e) ht hr hdone hc hsopen hkey hfit
  · intro c k n q s f dst hw hd hi h0 h1 hm hnd ho hb hn hpos hfar hp hopen s1 hgo
    exact exec_copyFar hw hi h0 h1 hd hm hnd ho hb hn hpos hfar hp hopen hgo
  · intro c k q s s1 s2 f ip src dst is bs a b hw hd hi _ hc hm hnd ho hidx hclean elem ha hb hget hopen s3 hx hgo
    exact exec_moveOne hw hd hi hc hm hnd ho hidx hclean ha hb hget hopen hx hgo
  · intro c k q s s1 f ip dst is hw hd hi _ hc hm ho hidx hbad hopen s2 hx hgo
    exact exec_gatherPoison hw hd hi hc hm ho hidx hbad hopen hx hgo
  · intro sp s a n pas bs hh hl h
    exact cmdRead_now hh hl h

end Sys2Proof.Machine
end

section
/-!
LAUNCHES (R193, R195, R306, R314, R328): what puts a job or a task in its queue and what grants a replica, and what these leave of
the engine queues and of the clusters' tasks.
-/

namespace Sys2Proof.Machine

open Sys2Proof

/-! ## Engine queues and holders -/

/-- Every cluster keeps its task and its engine queue. -/
structure State.keepsEngines (s t : State) : Prop where
  holder : ∀ d, (t.cluster d).task = (s.cluster d).task
  queue : ∀ d, (t.cluster d).eq = (s.cluster d).eq

namespace State.keepsEngines

theorem refl (s : State) : s.keepsEngines s := ⟨fun _ => rfl, fun _ => rfl⟩

theorem trans {s t u : State} (h : s.keepsEngines t) (k : t.keepsEngines u) : s.keepsEngines u :=
  ⟨fun d => (k.holder d).trans (h.holder d), fun d => (k.queue d).trans (h.queue d)⟩

theorem of_clusters {s t : State} (h : t.clusters = s.clusters) : s.keepsEngines t :=
  ⟨fun d => by simp only [State.cluster, h], fun d => by simp only [State.cluster, h]⟩

theorem of_walk {s t : State} (h : s.walkOf t) : s.keepsEngines t :=
  ⟨fun d => by rw [h.clus d], fun d => by rw [h.clus d]⟩

theorem taskIdOf {s t : State} (h : s.keepsEngines t) (c : Nat) : t.taskIdOf c = s.taskIdOf c := by
  rw [State.taskIdOf, h.holder]; rfl

theorem modCluster (s : State) (c : Nat) (g : Cluster → Cluster) (ht : (g (s.cluster c)).task = (s.cluster c).task)
    (he : (g (s.cluster c)).eq = (s.cluster c).eq) : s.keepsEngines (s.modCluster c g) := by
  constructor <;> intro d <;> by_cases h : c = d
  · subst h; rw [cluster_modCluster]; exact ht
  · rw [cluster_modCluster_ne _ _ _ _ h]
  · subst h; rw [cluster_modCluster]; exact he
  · rw [cluster_modCluster_ne _ _ _ _ h]

theorem modRegion (s : State) (c : Nat) (g : Region → Region) : s.keepsEngines (s.modRegion c g) :=
  modCluster s c (fun x => { x with region := g (s.region c) }) rfl rfl

theorem modTaskOf (s : State) (c : Nat) (g : Task → Task) : s.keepsEngines (s.modTaskOf c g) :=
  ⟨fun d => by rw [cluster_modTaskOf], fun d => by rw [cluster_modTaskOf]⟩

theorem foldl {α : Type} (g : State → α → State) (hg : ∀ (s : State) (x : α), s.keepsEngines (g s x)) (l : List α) (s : State) :
    s.keepsEngines (l.foldl g s) := by
  induction l generalizing s with
  | nil => exact refl s
  | cons x l ih => exact (hg s x).trans (ih (g s x))

theorem hubAsk (s : State) (pas : List Nat) : s.keepsEngines (s.hubAsk pas) := by
  unfold State.hubAsk
  dsimp only
  split
  · exact refl s
  · refine trans ?_ (foldl (fun (st : State) pa => st.askFar 64 .hub 3 pa) (fun _ _ => of_clusters rfl) _ _)
    exact of_clusters rfl

theorem hubWrite (s : State) (sp : Space) (a : Word) (bs : List Byte) (r : Option Release) (j : Nat) :
    s.keepsEngines (s.hubWrite sp a bs r j) := by
  have hw : s.keepsEngines (s.walked sp a bs.length .write) := of_walk (walkOf_walked ..)
  unfold State.hubWrite
  dsimp only
  split
  · exact hw.trans (of_clusters (touch_clusters ..))
  · refine hw.trans (trans ?_ (hubAsk ..))
    exact of_clusters rfl

theorem setVreg (s : State) (j v : Nat) (x : VReg) : s.keepsEngines (s.setVreg j v x) := by
  unfold State.setVreg
  refine trans ?_ (hubWrite ..)
  exact of_clusters rfl

theorem bindVreg (s : State) (t : Nat) (c : Option Nat) : s.keepsEngines (s.bindVreg t c) := by
  unfold State.bindVreg
  dsimp only
  split
  · exact refl s
  · split
    · exact refl s
    · exact setVreg ..

theorem lapse (s : State) (t c : Nat) : s.keepsEngines (s.lapse t c) := by
  unfold State.lapse
  split
  · exact refl s
  · let g (_ : Nat) (k : Cluster) : Cluster := { k with asks := k.asks.filter (fun a => a.task != t) }
    have e (d : Nat) : (s.clusters.mapV g).get {} d = g d (s.clusters.get {} d) := Tbl.get_mapV g {} s.clusters d
    constructor <;> intro d
    · show ((s.clusters.mapV g).get {} d).task = _
      rw [e]; rfl
    · show ((s.clusters.mapV g).get {} d).eq = _
      rw [e]; rfl

theorem unqueue (s : State) (t : Nat) : s.keepsEngines (s.unqueue t) := by
  unfold State.unqueue
  split
  · exact modCluster _ _ _ rfl rfl
  · exact of_clusters rfl
  · exact refl s

theorem toPool (s : State) (t : Nat) : s.keepsEngines (s.toPool t) := of_clusters rfl

theorem toBench (s : State) (t c : Nat) (b : Bool) : s.keepsEngines (s.toBench t c b) := by
  unfold State.toBench
  split
  · exact toPool ..
  · exact (modCluster s c (fun k => { k with bench := if b then t :: k.bench else k.bench ++ [t] }) rfl rfl).trans (of_clusters rfl)

theorem clearAbove (s : State) (c lim : Nat) : s.keepsEngines (s.clearAbove c lim) := by
  unfold State.clearAbove
  dsimp only
  split
  · exact refl s
  · exact of_clusters rfl

theorem startAt (s : State) (c m b : Nat) (l : List TrapRec) : s.keepsEngines (s.startAt c m b l) := by
  have hr (u : State) : u.keepsEngines (u.reached c .fetch) := by rw [reached_only]; exact of_clusters rfl
  unfold State.startAt State.startLoad
  exact (((modRegion ..).trans (modTaskOf ..)).trans (hr _)).trans (modRegion ..)

theorem firstRun (s : State) (t c : Nat) : s.keepsEngines (s.firstRun t c) := by
  have h1 : s.keepsEngines (s.emptyLines c) := of_clusters rfl
  unfold State.firstRun
  dsimp only
  refine trans ?_ (startAt ..)
  refine trans ?_ (of_clusters (modTask_clusters ..))
  split
  · exact h1.trans (clearAbove ..)
  · exact h1

theorem initIcb (s : State) (pa cap o : Nat) : s.keepsEngines (s.initIcb pa cap o) :=
  of_clusters (by rw [State.initIcb, store_clusters])

end State.keepsEngines

/-- A cluster that takes a task (R322): it holds the task, and every engine queue stays. -/
theorem seize_holds (s : State) (t c delay : Nat) :
    ((s.seize t c delay).cluster c).task = some t ∧ ∀ d, ((s.seize t c delay).cluster d).eq = (s.cluster d).eq := by
  have h1 : s.keepsEngines (((s.lapse t c).unqueue t).modTask t
      (fun y => { y with place := .region c, eprio := if y.handler.isSome then 4 else y.prio })) :=
    ((State.keepsEngines.lapse ..).trans (.unqueue ..)).trans (.of_clusters rfl)
  unfold State.seize
  dsimp only
  constructor
  · rw [(State.keepsEngines.bindVreg ..).holder, cluster_modCluster]
  · intro d
    rw [(State.keepsEngines.bindVreg ..).queue]
    by_cases h : c = d
    · subst h; rw [cluster_modCluster]; exact h1.queue c
    · rw [cluster_modCluster_ne _ _ _ _ h]; exact h1.queue d

/-- The first run of a task in a region (R322, R334). -/
theorem install_holds {s : State} {t : Nat} (hs : (s.task t).started = false) (c delay : Nat) :
    ((s.install t c delay).cluster c).task = some t ∧ ∀ d, ((s.install t c delay).cluster d).eq = (s.cluster d).eq := by
  obtain ⟨h1, h2⟩ := seize_holds s t c delay
  unfold State.install
  dsimp only
  rw [hs]
  exact ⟨((State.keepsEngines.firstRun ..).holder c).trans h1, fun d => ((State.keepsEngines.firstRun ..).queue d).trans (h2 d)⟩

/-! ## Grants of replicas (R328) -/

/-- A grant gives the cluster its replica and leaves every engine queue. -/
theorem grant_holds (s : State) (c : Nat) (q : Cmd) (grp m n cap : Nat) (l : List Nat) (x : Nat) :
    (((s.grant c q grp m n cap l x).1.cluster x).task.isSome = true) ∧
      ∀ d, ((s.grant c q grp m n cap l x).1.cluster d).eq = (s.cluster d).eq := by
  let t := s.replicaTask c q grp m n cap l
  have hs : ((s.addTask t.id t).task t.id).started = false := by
    show ((s.setTask t.id t).task t.id).started = false
    rw [task_setTask]
    rfl
  obtain ⟨h1, h2⟩ := install_holds hs x 0
  have hk : ((s.addTask t.id t).install t.id x 0).keepsEngines (s.grant c q grp m n cap l x).1 :=
    ((State.keepsEngines.initIcb _ (replicaIcb x) cap t.id).trans (.initIcb _ (returnIcb c grp m) cap q.task)).trans
      (.of_clusters (modTask_clusters ..))
  refine ⟨?_, fun d => (hk.queue d).trans (h2 d)⟩
  rw [hk.holder x, h1]
  rfl

theorem grantAll_eq (c : Nat) (q : Cmd) (grp n cap : Nat) (cl l : List Nat) (m : Nat) (s : State) (d : Nat) :
    ((s.grantAll c q grp n cap cl m l).1.cluster d).eq = (s.cluster d).eq := by
  induction l generalizing m s with
  | nil => rfl
  | cons x l ih => exact (ih (m + 1) _).trans ((grant_holds ..).2 d)

end Sys2Proof.Machine
end

section
/-!
KICK, REPL AND COMPLETION (R183, R193, R195, R217, R314, R328): what each launch leaves, and where its results land.
-/

namespace Sys2Proof.Machine

open Sys2Proof

theorem exec_wait {c k : Nat} {q q1 : Cmd} {s s1 : State} (h : Working c k q s) (hw : s.work c q none = .wait s1 q1) :
    exec (.engineCompletion c k) s = .next (s1.putCmd c q1) := by
  rw [exec_engineCompletion h, hw]; rfl

theorem exec_ends {c k : Nat} {q q1 : Cmd} {s s1 : State} {x : TrapRec} (h : Working c k q s) (hw : s.work c q none = .ends s1 q1 x)
    (hd : q1.dead = false) : exec (.engineCompletion c k) s = .next ((s1.finishCmd c { q1 with val := false } false).raise c x) := by
  rw [exec_engineCompletion h, hw]
  show Host.Outcome.next (s1.endCmd c q1 x) = _
  simp [State.endCmd, hd]

/-! ## kick (R193, R314) -/

section
variable {c k : Nat} {q : Cmd} {s : State} {f : FmtE} (hw : Working c k q s) (hi : q.ins = .kick f) (hs : f.ssem = 0xFF)

include hi hs

/-- A kick without a semaphore signals nothing at the end of its work. -/
theorem work_kick : s.work c q none = if f.flg.getLsbD 0 then s.kickJob c q [] else s.kickTask c q [] := by
  have hf : cmdFmt q.ins = f := by rw [hi]; rfl
  have hn : s.onEndOf q = none := by simp [State.onEndOf, hf, hs]
  rw [State.work, hi]
  show s.workKick c q = _
  simp only [State.workKick, hn, hf]

include hw

/-- A kick of a job waits while the queue is full or the hub is not reached. -/
theorem exec_kickJob_waits (h0 : f.flg.getLsbD 0 = true) (h : 256 ≤ s.hub.queue.length ∨ s.hubOpen c = false) :
    exec (.engineCompletion c k) s = .next (s.putCmd c q) := by
  refine exec_wait hw ?_
  rw [work_kick hi hs, if_pos h0, State.kickJob, if_pos (by simpa using h)]

/-- A kick of a job puts its card into the queue. -/
theorem exec_kickJob (h0 : f.flg.getLsbD 0 = true) (hl : s.hub.queue.length < 256) (ho : s.hubOpen c = true) :
    ∃ (t : State) (x : Card), exec (.engineCompletion c k) s = .next t ∧ t.hub.queue = s.hub.queue ++ [x] ∧ x.addr = q.l ∧
      x.root = q.root ∧ x.asid = q.asid ∧ x.kicked = true ∧ x.priv = q.priv := by
  let x : Card := { addr := q.l, root := q.root, asid := q.asid, kicked := true, priv := q.priv, onend := [], bound := q.start }
  have hwork : s.work c q none = .done (s.modHub (fun h => { h with queue := h.queue ++ [x] })) q := by
    rw [work_kick hi hs, if_pos h0, State.kickJob, if_neg (by simp [ho, hl])]
  obtain ⟨he, ht⟩ := exec_done hw hwork hw.alone
  refine ⟨_, x, he, ?_, rfl, rfl, rfl, rfl, rfl⟩
  rw [ht.hub]
  rfl

end

/-- A new task that has been queued differs in its place and its wait. -/
theorem queueNew_task {s s1 : State} {t c : Nat} (h : s.queueNew t c = some s1) :
    s1.task t = { s.task t with place := (s1.task t).place, wait := (s1.task t).wait } ∧ s.keepsEngines s1 := by
  have hpool (u : State) : (u.toPool t).task t = { u.task t with place := ((u.toPool t).task t).place, wait := ((u.toPool t).task t).wait } := by
    unfold State.toPool
    rw [task_modTask]
    rfl
  unfold State.queueNew at h
  dsimp only at h
  split at h
  · split at h
    · cases h
    · cases h
      refine ⟨?_, .toBench ..⟩
      unfold State.toBench
      split
      · exact hpool s
      · rw [task_modTask]; rfl
  · split at h
    · cases h
    · cases h
      exact ⟨hpool s, .toPool ..⟩

theorem dieOfVreg_keeps (s : State) (job v : Nat) : s.keepsEngines (s.dieOfVreg job v).1 := by
  unfold State.dieOfVreg
  dsimp only
  split
  · exact .refl s
  · exact .setVreg ..

/-- The registers that a kicked task takes from its descriptor. -/
theorem reg_kickedTask (s : State) (q : Cmd) (die : Nat) (l : List OnEnd) {j : Nat} (hj : j < 8) :
    (s.kickedTask q die l).reg (4 + j) = wordAt q.desc (16 + 8 * j) := by
  interval_cases j <;> rfl

section
variable {c k : Nat} {q : Cmd} {s : State} {f : FmtE} (hw : Working c k q s) (hi : q.ins = .kick f) (hs : f.ssem = 0xFF)
  (h0 : f.flg.getLsbD 0 = false)
include hw hi hs h0

/-- A kick of a task waits while its gang runs. -/
theorem exec_kickTask_gang (hg : s.gangBusy (s.task q.task).job (fieldAt q.desc 10 2) = true) :
    ∃ w : List Nat, exec (.engineCompletion c k) s = .next (s.putCmd c { q with waited := w }) := by
  refine ⟨union q.waited (s.gangLive (s.task q.task).job (fieldAt q.desc 10 2)), exec_wait hw ?_⟩
  rw [work_kick hi hs, if_neg (by rw [h0]; decide), State.kickTask]
  dsimp only
  rw [if_pos hg]

/-- A kick of a task waits while its virtual region holds a live task. -/
theorem exec_kickTask_vreg (hg : s.gangBusy (s.task q.task).job (fieldAt q.desc 10 2) = false)
    (hv : s.vregBusy (s.task q.task).job (fieldAt q.desc 9 1 % 64) = true) : exec (.engineCompletion c k) s = .next (s.putCmd c q) := by
  refine exec_wait hw ?_
  rw [work_kick hi hs, if_neg (by rw [h0]; decide), State.kickTask]
  dsimp only
  rw [if_neg (by rw [hg]; decide), if_pos hv]

/-- A kick of a task makes the task that its descriptor describes. -/
theorem exec_kickTask {s1 : State} (hg : s.gangBusy (s.task q.task).job (fieldAt q.desc 10 2) = false)
    (hv : s.vregBusy (s.task q.task).job (fieldAt q.desc 9 1 % 64) = false) {d : State × Nat} {x : Task}
    (hd : d = s.dieOfVreg (s.task q.task).job (fieldAt q.desc 9 1 % 64)) (hx : x = d.1.kickedTask q d.2 []) (hne : x.id ≠ s.taskIdOf c)
    (hq : (d.1.addTask x.id x).queueNew x.id c = some s1) :
    ∃ t : State, exec (.engineCompletion c k) s = .next t ∧ (t.task x.id).id = x.id ∧ (t.task x.id).entry = wordAt q.desc 0 ∧
      (t.task x.id).prio = fieldAt q.desc 8 1 % 4 ∧ (t.task x.id).vreg = some (fieldAt q.desc 9 1 % 64) ∧
      ∀ j < 8, (t.task x.id).reg (4 + j) = wordAt q.desc (16 + 8 * j) := by
  have hwork : s.work c q none = .done s1 { q with result := BitVec.ofNat 64 x.id } := by
    rw [work_kick hi hs, if_neg (by rw [h0]; decide), State.kickTask]
    dsimp only
    rw [if_neg (by rw [hg]; decide), if_neg (by rw [hv]; decide), ← hd, ← hx, hq]
  obtain ⟨he, ht⟩ := exec_done hw hwork hw.alone
  obtain ⟨htask, hkeep⟩ := queueNew_task hq
  have hnew : (d.1.addTask x.id x).task x.id = x := task_setTask d.1 x.id x
  have hadd : d.1.keepsEngines (d.1.addTask x.id x) := .of_clusters rfl
  have hholder : s1.taskIdOf c = s.taskIdOf c := by
    rw [hkeep.taskIdOf, hadd.taskIdOf, hd]
    exact (dieOfVreg_keeps ..).taskIdOf c
  obtain ⟨hid, hentry, hprio, hvreg⟩ := ht.taskFields x.id
  have hregs : ((s1.worked c { q with result := BitVec.ofNat 64 x.id }).task x.id).regs = x.regs := by
    rw [ht.regs x.id (fun d hd => by rw [hd, hholder]; exact hne), htask, hnew]
  refine ⟨_, he, ?_, ?_, ?_, ?_, fun j hj => ?_⟩
  · rw [hid, htask, hnew]
  · rw [hentry, htask, hnew, hx]; rfl
  · rw [hprio, htask, hnew, hx]; rfl
  · rw [hvreg, htask, hnew, hx]; rfl
  · have hreg (y : Task) (n : Nat) (h : y.regs = x.regs) : y.reg n = x.reg n := by rw [Task.reg, h]; rfl
    rw [hreg _ _ hregs, hx]
    exact reg_kickedTask _ _ _ _ hj

end

/-! ## repl (R195, R328) -/

/-- The members that a repl keeps, and the clusters that it is granted. -/
def State.replKeeps (s : State) (q : Cmd) (grp want : Nat) : Nat := Nat.min ((s.task q.task).groups.get {} grp).tasks.length want
def State.replSpots (s : State) (c : Nat) (q : Cmd) (grp want : Nat) : List Nat := (s.replicaSpots c).take (want - s.replKeeps q grp want)

/-- The state after the grants of a repl. -/
def State.replGrants (s : State) (c : Nat) (q : Cmd) (grp want : Nat) : State × List Nat :=
  let keep := s.replKeeps q grp want
  let spots := s.replSpots c q grp want
  s.grantAll c q grp (1 + keep + spots.length) (fieldAt q.desc 8 4) (((s.task q.task).groups.get {} grp).clusters.take keep ++ spots)
    (keep + 1) spots

/-- The group after a repl. -/
def State.replGroup (s : State) (c : Nat) (q : Cmd) (grp want : Nat) : Group :=
  let g := (s.task q.task).groups.get {} grp
  let keep := s.replKeeps q grp want
  let spots := s.replSpots c q grp want
  { g with
    n := 1 + keep + spots.length, cap := fieldAt q.desc 8 4, home := c
    clusters := if spots.isEmpty then g.clusters else g.clusters.take keep ++ spots
    tasks := if spots.isEmpty then g.tasks else g.tasks.take keep ++ (s.replGrants c q grp want).2 }

/-- The state once a repl has worked. -/
def State.replicated (s : State) (c : Nat) (q : Cmd) (grp want : Nat) : State :=
  (s.replGrants c q grp want).1.modTask q.task (fun t => { t with groups := t.groups.set grp (s.replGroup c q grp want) })

/-- The command after a repl: its result is the number of members beside the home. -/
def Cmd.replied (q : Cmd) (n : Nat) (b : List Nat) : Cmd := { q with result := BitVec.ofNat 64 n, val := n != 0, bound := b }

section
variable {c k : Nat} {q : Cmd} {s : State} {f : FmtE} (hw : Working c k q s) (hi : q.ins = .repl f)
include hi

theorem work_repl_bad (h : fieldAt q.desc 8 4 % 16 ≠ 0 ∨ fieldAt q.desc 8 4 < 64 ∨ 16320 < fieldAt q.desc 8 4) :
    s.work c q none = .ends s { q with val := false }
      (s.record c (srcNode c q.node) 0x12 2 (BitVec.ofNat 64 (returnIcb c (bitsOf f.flg 1 0) 1)) 0 0) := by
  have hf : cmdFmt q.ins = f := by rw [hi]; rfl
  have hb : (fieldAt q.desc 8 4 % 16 != 0 || fieldAt q.desc 8 4 < 64 || 16320 < fieldAt q.desc 8 4) = true := by
    simpa [or_assoc] using h
  have hr : s.work c q none = s.workRepl c q := by rw [State.work, hi]
  rw [hr]
  unfold State.workRepl
  rw [hf]
  dsimp only
  rw [hb]
  rfl

theorem work_repl (h1 : fieldAt q.desc 8 4 % 16 = 0) (h2 : 64 ≤ fieldAt q.desc 8 4) (h3 : fieldAt q.desc 8 4 ≤ 16320) :
    ∃ b : List Nat, s.work c q none = .done (s.replicated c q (bitsOf f.flg 1 0) (bitsOf f.flg 4 2))
      (q.replied (s.replKeeps q (bitsOf f.flg 1 0) (bitsOf f.flg 4 2) + (s.replSpots c q (bitsOf f.flg 1 0) (bitsOf f.flg 4 2)).length) b) := by
  have hf : cmdFmt q.ins = f := by rw [hi]; rfl
  have hb : (fieldAt q.desc 8 4 % 16 != 0 || fieldAt q.desc 8 4 < 64 || 16320 < fieldAt q.desc 8 4) = false := by
    simp [h1, h2, h3]
  refine ⟨union q.bound (newWrites s (s.replicated c q (bitsOf f.flg 1 0) (bitsOf f.flg 4 2))), ?_⟩
  rw [State.work, hi]
  show s.workRepl c q = _
  unfold State.workRepl
  rw [hf]
  dsimp only
  rw [hb]
  rfl

include hw

/-- A repl of a capacity out of range ends with T_INBOX 0x02 and without effect. -/
theorem exec_repl_bad (h : fieldAt q.desc 8 4 % 16 ≠ 0 ∨ fieldAt q.desc 8 4 < 64 ∨ 16320 < fieldAt q.desc 8 4) (hd : q.dead = false) :
    ∃ (t : State) (x : TrapRec), x.code = 0x12 ∧ x.sub = 2 ∧ exec (.engineCompletion c k) s = .next (t.raise c x) ∧ t.mem = s.mem := by
  refine ⟨_, _, ?_, ?_, exec_ends hw (work_repl_bad hi h) hd, ?_⟩
  · rfl
  · rfl
  · exact (State.endsAs.finishCmd (P := (· = c)) (q := { q with val := false }) rfl (Or.inl hw.alone) s false).mem

variable (h1 : fieldAt q.desc 8 4 % 16 = 0) (h2 : 64 ≤ fieldAt q.desc 8 4) (h3 : fieldAt q.desc 8 4 ≤ 16320)
include h1 h2 h3

/-- A repl records its group. -/
theorem exec_repl : ∃ t : State, exec (.engineCompletion c k) s = .next t ∧
    (s.replicated c q (bitsOf f.flg 1 0) (bitsOf f.flg 4 2)).endsAs (· = c) t ∧
    (t.task q.task).groups.get {} (bitsOf f.flg 1 0) = s.replGroup c q (bitsOf f.flg 1 0) (bitsOf f.flg 4 2) := by
  obtain ⟨b, hwork⟩ := work_repl hi h1 h2 h3
  obtain ⟨he, ht⟩ := exec_done hw hwork hw.alone
  refine ⟨_, he, ht, ?_⟩
  rw [ht.groups, State.replicated, task_modTask, Tbl.get_set]

/-- A repl that finds no idle cluster keeps the members that it has. -/
theorem exec_repl_none (hsp : s.replicaSpots c = []) : ∃ t : State, exec (.engineCompletion c k) s = .next t ∧ t.mem = s.mem ∧
    ((t.task q.task).groups.get {} (bitsOf f.flg 1 0)).n =
      1 + Nat.min ((s.task q.task).groups.get {} (bitsOf f.flg 1 0)).tasks.length (bitsOf f.flg 4 2) := by
  obtain ⟨t, he, ht, hg⟩ := exec_repl hw hi h1 h2 h3
  have hspots : s.replSpots c q (bitsOf f.flg 1 0) (bitsOf f.flg 4 2) = [] := by rw [State.replSpots, hsp, List.take_nil]
  refine ⟨t, he, ?_, ?_⟩
  · rw [ht.mem, State.replicated, modTask_mem, State.replGrants, hspots]
    rfl
  · rw [hg, State.replGroup, hspots]
    rfl

/-- A repl of a new group of one replica takes the nearest idle cluster. -/
theorem exec_repl_one {x : Nat} {rest : List Nat} (hsp : s.replicaSpots c = x :: rest)
    (hnew : ((s.task q.task).groups.get {} (bitsOf f.flg 1 0)).tasks = []) (hone : bitsOf f.flg 4 2 = 1) :
    ∃ t : State, exec (.engineCompletion c k) s = .next t ∧ ((t.task q.task).groups.get {} (bitsOf f.flg 1 0)).n = 2 ∧
      ((t.task q.task).groups.get {} (bitsOf f.flg 1 0)).clusters = [x] ∧ (t.cluster x).task.isSome = true := by
  obtain ⟨t, he, ht, hg⟩ := exec_repl hw hi h1 h2 h3
  have hkeep : s.replKeeps q (bitsOf f.flg 1 0) (bitsOf f.flg 4 2) = 0 := by rw [State.replKeeps, hnew]; exact Nat.zero_min _
  have hspots : s.replSpots c q (bitsOf f.flg 1 0) (bitsOf f.flg 4 2) = [x] := by rw [State.replSpots, hkeep, hsp, hone]; rfl
  refine ⟨t, he, ?_, ?_, ?_⟩
  · rw [hg, State.replGroup, hspots, hkeep]; rfl
  · rw [hg, State.replGroup, hspots, hkeep]; rfl
  · rw [ht.holder, State.replicated, cluster_modTask, State.replGrants, hspots]
    exact (grant_holds ..).1

end

/-- The end of step 5 of a command that signals nothing completes it. -/
theorem worked_finishes {q : Cmd} (hq : q.mate = none) {s : State} {c : Nat} (hi : q.increment = none)
    (hp : (s.cluster c).mayPass q 7 = true) :
    s.worked c q = (s.atSignal c q).finishCmd c { q with step := 6, claims := [] } true := by
  have hp1 := atSignal_mayPass hq hp
  have hi1 : ({ q with step := 6, claims := [] } : Cmd).increment = none := hi
  show (s.atSignal c q).signalStep c { q with step := 6, claims := [] } = _
  simp only [State.signalStep, hp1, hi1, Bool.not_true, Bool.false_eq_true, if_false]

/-- The result of a repl is the number of members beside the home. -/
theorem exec_repl_result {c k : Nat} {q : Cmd} {s : State} {f : FmtE} (hw : Working c k q s) (hi : q.ins = .repl f) (hs : f.ssem = 0xFF)
    (h1 : fieldAt q.desc 8 4 % 16 = 0) (h2 : 64 ≤ fieldAt q.desc 8 4) (h3 : fieldAt q.desc 8 4 ≤ 16320)
    (hp : (s.cluster c).mayPass q 7 = true) {keep m : Nat}
    (hkeep : keep = Nat.min ((s.task q.task).groups.get {} (bitsOf f.flg 1 0)).tasks.length (bitsOf f.flg 4 2))
    (hm : m = keep + Nat.min (bitsOf f.flg 4 2 - keep) (s.replicaSpots c).length) :
    ∃ (u : State) (q1 : Cmd), exec (.engineCompletion c k) s = .next (u.finishCmd c q1 true) ∧ q1.id = q.id ∧ q1.ins = q.ins ∧
      q1.node = q.node ∧ q1.task = q.task ∧ q1.dead = q.dead ∧ q1.mate = none ∧ q1.result = BitVec.ofNat 64 m ∧
      q1.val = decide (m ≠ 0) := by
  obtain ⟨b, hwork⟩ := work_repl (c := c) (s := s) hi h1 h2 h3
  have hnum : s.replKeeps q (bitsOf f.flg 1 0) (bitsOf f.flg 4 2) + (s.replSpots c q (bitsOf f.flg 1 0) (bitsOf f.flg 4 2)).length = m := by
    rw [hm, State.replSpots, List.length_take, State.replKeeps, ← hkeep]
  rw [hnum] at hwork
  have hnone : (q.replied m b).increment = none := by
    show q.increment = none
    rw [Cmd.increment, hi]
    simp [cmdFmt, Instr.eFmt, hs]
  have heq : ((s.replicated c q (bitsOf f.flg 1 0) (bitsOf f.flg 4 2)).cluster c).eq = (s.cluster c).eq := grantAll_eq ..
  have hp' : ((s.replicated c q (bitsOf f.flg 1 0) (bitsOf f.flg 4 2)).cluster c).mayPass (q.replied m b) 7 = true := by
    show (State.cluster _ c).eq.all _ = true
    rw [heq]
    exact hp
  obtain ⟨he, -⟩ := exec_done hw hwork hw.alone
  rw [worked_finishes (q := q.replied m b) hw.alone hnone hp'] at he
  refine ⟨_, _, he, rfl, rfl, rfl, rfl, rfl, hw.alone, rfl, ?_⟩
  by_cases h : m = 0 <;> simp [Cmd.replied, h]

/-! ## Results (R183, R217) -/

/-- A result that fills a place leaves what the await entries wait for. -/
theorem awaits_fill (r : Region) (now cell lat : Nat) (tg : Target) (id : Nat) (tok : Token) (b : List Nat) (reg : Nat) :
    (r.fill now cell lat tg id tok b).awaits reg = r.awaits reg := by
  cases tg with
  | gate e =>
    have hdone (l : List QTok) (n : Nat) :
        ((r.reads.set e.toNat { r.reads.get {} e.toNat with gate := l }).get {} n).done = (r.reads.get {} n).done := by
      by_cases h : e.toNat = n
      · subst h; rw [Tbl.get_set]
      · rw [Tbl.get_set_ne _ _ _ h]
    simp only [Region.awaits, Region.fill, hdone]
  | none | left _ | right _ | pred _ | write _ => rfl

/-- A completion fills its token's place and lands its register. -/
theorem deliverCmd_lands {u : State} {c t : Nat} {q : Cmd} (ht : (u.cluster c).task = some t) (hd : q.dead = false) (hq : q.mate = none) :
    ((u.region c).placeAt (cmdFmt q.ins).t0 q.id →
      ((u.finishCmd c q true).region c).gets (cmdFmt q.ins).t0 (.ctl q.val false 0) (arrival u.now (q.node / 4) 0 (cmdFmt q.ins).t0)) ∧
    ∀ p, (u.task t).pends.find? (fun p => p.cmd == q.id) = some p → 1 ≤ p.reg →
      if (u.region c).awaits p.reg = true then ((u.finishCmd c q true).task t).reg p.reg = q.result
      else { p with val := some q.result } ∈ ((u.finishCmd c q true).task t).pends := by
  let w := ((u.dropCmd c q.id).modTaskOf c (fun t => { t with wrote := union t.wrote q.bound })).modRegion c
    (fun r => r.fill u.now (q.node / 4) 0 (cmdFmt q.ins).t0 q.id (ctlTok q.val) q.bound)
  have hv : u.finishCmd c q true = w.landResult c q.id (some q.result) := by
    rw [finishCmd_alone hq, hd]; rfl
  have hdrop : ((u.dropCmd c q.id).cluster c).task = some t := by rw [State.dropCmd, cluster_modCluster]; exact ht
  have hregion : w.region c = (u.region c).fill u.now (q.node / 4) 0 (cmdFmt q.ins).t0 q.id (ctlTok q.val) q.bound := by
    show (State.modRegion _ c _).region c = _
    rw [region_modRegion, region_modTaskOf, State.dropCmd, State.region, cluster_modCluster]
    rfl
  have hholder : (w.cluster c).task = some t := by
    rw [(State.keepsEngines.modRegion ..).holder, cluster_modTaskOf]
    exact hdrop
  have htask : w.taskOf c = { u.task t with wrote := union (u.task t).wrote q.bound } := by
    rw [taskOf_modRegion, taskOf_modTaskOf (by rw [hdrop]; rfl), State.taskOf, State.taskIdOf, hdrop]
    rfl
  rw [hv]
  refine ⟨fun hp => ?_, fun p hp hpos => ?_⟩
  · have hland : (w.landResult c q.id (some q.result)).region c = w.region c := by
      unfold State.landResult
      dsimp only
      split
      · rfl
      · split <;> rw [region_modTaskOf]
    rw [hland, hregion]
    exact gets_fill hp
  · have hfind : (w.taskOf c).pends.find? (fun p => p.cmd == q.id) = some p := by rw [htask]; exact hp
    have haw : (w.region c).awaits p.reg = (u.region c).awaits p.reg := by rw [hregion, awaits_fill]
    unfold State.landResult
    dsimp only
    rw [hfind]
    dsimp only
    rw [haw]
    by_cases ha : (u.region c).awaits p.reg = true
    · rw [if_pos ha, if_pos ha, modTaskOf_some hholder, task_modTask]
      exact reg_setReg _ _ _ (by omega)
    · rw [if_neg ha, if_neg ha, modTaskOf_some hholder, task_modTask]
      exact List.mem_append_right _ List.mem_cons_self

/-- Settles O41: a launch waits or puts its job, its task or its replicas where the statement says, which the completion keeps. -/
theorem launchCommands : Obligations.LaunchCommands := by
  refine ⟨?_, fun u c t q ht hd hq => deliverCmd_lands ht hd hq⟩
  intro c k q s f hw hs
  refine ⟨fun hi h0 => ⟨exec_kickJob_waits hw hi hs h0, exec_kickJob hw hi hs h0⟩, ?_, ?_⟩
  · rintro _ d x hi h0 rfl hd hx
    refine ⟨exec_kickTask_gang hw hi hs h0, exec_kickTask_vreg hw hi hs h0, ?_⟩
    intro s1 hv hg hne hq
    exact exec_kickTask hw hi hs h0 hg hv hd hx hne hq
  · rintro _ _ hi rfl rfl
    refine ⟨exec_repl_bad hw hi, fun h1 h2 h3 => exec_repl_none hw hi h1 h2 h3, ?_, ?_⟩
    · intro x rest h1 h2 h3 hsp hnew hone
      exact exec_repl_one hw hi h1 h2 h3 hsp hnew hone
    · intro keep m h1 h2 h3 hp hkeep hm
      exact exec_repl_result hw hi hs h1 h2 h3 hp hkeep hm

end Sys2Proof.Machine
end

section
/-!
MESSAGES AND MIGRATION (R190, R191, R251, R354 to R356): numbers written into memory, and the steps of a send and of a page's move.
-/

namespace Sys2Proof.Machine

open Sys2Proof

/-! ## Numbers in memory -/

theorem mem_span {a n x : Nat} : x ∈ span a n ↔ a ≤ x ∧ x < a + n := by
  simp only [span, List.mem_map, List.mem_range]
  constructor
  · rintro ⟨j, hj, rfl⟩; omega
  · intro h; exact ⟨x - a, by omega, by omega⟩

theorem mem_pbytes {a : Nat} {bs : List Byte} {bad : Bool} {b : PByte} (h : b ∈ pbytes a bs bad) : b.addr ∈ span a bs.length := by
  obtain ⟨j, hj, rfl⟩ := List.mem_iff_getElem.mp h
  simp only [pbytes, List.length_zipWith, List.length_range, Nat.min_self] at hj
  simp only [pbytes, List.getElem_zipWith, List.getElem_range]
  exact mem_span.mpr (by omega)

/-- The bytes of a number read back as the number. -/
theorem leNow_of_reads {t : State} {a v : Nat} (h : ∀ j (hj : j < 8), Memory.read t.mem (a + j) = (leBytes 8 v)[j]'(by simpa using hj)) :
    t.leNow a 8 = v % 2 ^ 64 := by
  have hb : t.bytesNow a 8 = leBytes 8 v :=
    List.ext_getElem (by simp [State.bytesNow, span]) (fun j hj _ => by
      simp only [State.bytesNow, span, List.length_map, List.length_range] at hj
      simpa [State.bytesNow, span] using h j hj)
  rw [leNow_eq, hb, leVal_leBytes]
  rfl

theorem leNow_congr {s t : State} {a : Nat} (h : ∀ x ∈ span a 8, Memory.read t.mem x = Memory.read s.mem x) : t.leNow a 8 = s.leNow a 8 := by
  have hb : t.bytesNow a 8 = s.bytesNow a 8 := List.map_congr_left h
  rw [leNow_eq, hb]; rfl

/-- A number written into memory reads back, if nothing is written over it. -/
theorem leNow_written {t : State} {m : List Host.Cell} {a v : Nat} {bad : Bool} {more : List PByte} (hm : Memory.wf m = true)
    (ht : t.mem = (pbytes a (leBytes 8 v) bad ++ more).foldl (fun m b => Memory.write m b.addr b.val) m)
    (hmore : ∀ b ∈ more, b.addr ∉ span a 8) : t.leNow a 8 = v % 2 ^ 64 := by
  refine leNow_of_reads (fun j hj => ?_)
  rw [ht, List.foldl_append, read_writes_ne (fun b hb e => hmore b hb (e ▸ mem_span.mpr (by omega)))]
  exact (read_pbytes hm a (leBytes 8 v) bad).1 j (by simpa using hj)

/-! ## Sending (R251) -/

section
variable {c k : Nat} {q : Cmd} {s : State} {f : FmtE} {b : Icb} {x : Nat × Option TlbEntry} (hw : Working c k q s) (hi : q.ins = .msend f)
  (hd : q.done = 0) (hopen : s.walkOpen (q.space c) (wordAt q.desc 0) 1 = true)
  (hx : s.xlateRaw (q.space c) (wordAt q.desc 0) .atomic = .ok x) (hb : s.icb (q.space c) (wordAt q.desc 0) = some b)
include hw hi hd

theorem exec_inboxSend : exec (.inboxSend c k) s = .next (s.sendStep c q) := by
  show execInboxSend c k s = _
  unfold execInboxSend
  rw [hw.ready]
  dsimp only
  rw [hi]
  simp [hd, hw.pass]

include hopen hx hb

/-- A body that can never fit ends the send with T_INBOX 0x01. -/
theorem exec_send_never (hcap : b.cap < 16 + fieldAt q.desc 16 4) (hp : s.pathOpen c x.1 = true) (hdead : q.dead = false) :
    ∃ (t : State) (r : TrapRec), r.code = 0x12 ∧ r.sub = 1 ∧ r.a = wordAt q.desc 0 ∧
      exec (.inboxSend c k) s = .next (t.raise c r) ∧ t.mem = s.mem := by
  refine ⟨s.finishCmd c { q with val := false } false, s.inboxRecord c q 1, rfl, rfl, rfl, ?_,
    (State.endsAs.finishCmd (P := (· = c)) (q := { q with val := false }) rfl (Or.inl hw.alone) s false).mem⟩
  rw [exec_inboxSend hw hi hd]
  simp [State.sendStep, hopen, hx, hb, hp, hcap, State.endCmd, hdead]

/-- A message that does not fit yet, or that others stand before, waits. -/
theorem exec_send_waits (hcap : 16 + fieldAt q.desc 16 4 ≤ b.cap)
    (h : b.fits (msgSize (fieldAt q.desc 16 4)) = false ∨ s.sendBefore q b.pa = true ∨ s.pathOpen c x.1 = false) :
    exec (.inboxSend c k) s = .next s := by
  have hn : ¬ b.cap < 16 + fieldAt q.desc 16 4 := by omega
  rw [exec_inboxSend hw hi hd]
  cases hp : s.pathOpen c x.1 with
  | false => simp [State.sendStep, hopen, hx, hb, hp]
  | true =>
    have h' : (!b.fits (msgSize (fieldAt q.desc 16 4)) || s.sendBefore q b.pa) = true := by
      rcases h with h | h | h
      · rw [h]; rfl
      · rw [h, Bool.or_true]
      · rw [hp] at h; cases h
    simp only [State.sendStep, hopen, hx, hb, hp, hn, h']
    rfl

/-- A message that fits is written into its space, which begins at TAIL. -/
theorem exec_send_writes {s0 : State} {pas : List Nat} {body : List (Byte × Bool)} (hcap : 16 + fieldAt q.desc 16 4 ≤ b.cap)
    (hfit : b.fits (msgSize (fieldAt q.desc 16 4)) = true) (hfirst : s.sendBefore q b.pa = false) (hp : s.pathOpen c x.1 = true)
    (hget : s.cmdGet c q (wordAt q.desc 8) (fieldAt q.desc 16 4) = .got s0 pas body) :
    ∃ bd : List Nat, exec (.inboxSend c k) s =
      .next (((((s0.cmdReached c q).findErrors pas).inboxWrite b (msgSrc c q.node) 0 body).1.cmdIrrevoke q).putCmd c
        { q with done := 1, result := BitVec.ofNat 64 b.tail, inbox := some (b.pa, b.buf), bound := bd }) := by
  have hn : ¬ b.cap < 16 + fieldAt q.desc 16 4 := by omega
  refine ⟨union (s.readBy (s.cmdSpace c q) pas q.bound)
    [(((s0.cmdReached c q).findErrors pas).inboxWrite b (msgSrc c q.node) 0 body).1.wseq], ?_⟩
  rw [exec_inboxSend hw hi hd]
  simp only [State.sendStep, hopen, hx, hb, hp, hn, hfit, hfirst, hget]
  rfl

end

/-- The space that a message takes begins where TAIL stood, and TAIL advances over it. -/
theorem leNow_inboxWrite {s : State} {b : Icb} (src kind : Nat) (body : List (Byte × Bool)) (hm : s.memOk) (hbuf : b.pa + 24 ≤ b.buf) :
    (s.inboxWrite b src kind body).1.leNow (b.pa + 16) 8 = (b.tail + msgSize body.length) % 2 ^ 64 := by
  refine leNow_written hm rfl (fun p hp hin => ?_)
  obtain ⟨j, hj, rfl⟩ := List.mem_iff_getElem.mp hp
  simp only [List.getElem_zipWith] at hin
  have := (mem_span.mp hin).2
  omega

/-! ## Publishing (R251) -/

/-- COMMIT advances, and the latch of the owner is set (R211). -/
theorem inboxCommit_facts {s : State} (b : Icb) (upto : Nat) (bound : List Nat) (hm : s.memOk) :
    let t := s.inboxCommit b upto bound
    t.leNow (b.pa + 24) 8 = upto % 2 ^ 64 ∧ (∀ o ∈ s.named b.owner, 2 ∈ (t.task o).latches) ∧
      ∀ a, (a < b.pa + 24 ∨ b.pa + 32 ≤ a) → Memory.read t.mem a = Memory.read s.mem a := by
  let s1 := s.store (pbytes (b.pa + 24) (leBytes 8 upto) false) true (some { by_ := sramClus b.pa, scope := 2, bound := bound })
  have hpost : s1.endsAs (fun _ => True) (s.inboxCommit b upto bound) := State.endsAs.foldl _ (fun _ _ => .post ..) _ _
  have hr := read_pbytes hm (b.pa + 24) (leBytes 8 upto) false
  refine ⟨?_, fun o ho => ?_, fun a ha => ?_⟩
  · exact leNow_written (more := []) (bad := false) hm (by rw [List.append_nil]; exact hpost.mem) (fun _ h => by cases h)
  · refine foldl_reaches (P := fun u : State => 2 ∈ (u.task o).latches) (fun st t => st.post t 2)
      (fun u t h => ((State.endsAs.post (P := fun _ => True) u t 2).task o).latches _ h) ho (fun u => ?_) s1
    rw [State.post, task_modTask]
    exact mem_insert.mpr (Or.inl rfl)
  · rw [hpost.mem]
    exact hr.2 a (by simpa [Nat.add_assoc] using ha)

section
variable {c k pa buf : Nat} {q : Cmd} {s : State} {f : FmtE} (hready : s.cmdReady c k 5 = some q) (hi : q.ins = .msend f) (hd : q.done = 1)
  (hin : q.inbox = some (pa, buf))
include hready hi hd

theorem exec_inboxPublish : exec (.inboxPublish c k) s = .next (s.publishStep c q) := by
  show execInboxPublish c k s = _
  unfold execInboxPublish
  rw [hready]
  dsimp only
  rw [hi]
  simp [hd]

include hin

theorem exec_publish_waits (h : (s.icbAt pa buf).commit ≠ q.result.toNat ∨ s.pathOpen c pa = false) :
    exec (.inboxPublish c k) s = .next s := by
  have h' : (decide (q.done = 1) && ((s.icbAt pa buf).commit != q.result.toNat || !s.pathOpen c pa)) = true := by
    rcases h with h | h
    · simp [hd, h]
    · simp [hd, h]
  rw [exec_inboxPublish hready hi hd]
  simp only [State.publishStep, hin, h', if_true]

theorem exec_publish (hc : (s.icbAt pa buf).commit = q.result.toNat) (hp : s.pathOpen c pa = true) (hs : (s.icbAt pa buf).sem = 0xFF)
    (hm : s.memOk) : ∃ t : State, exec (.inboxPublish c k) s = .next t ∧
      t.leNow (pa + 24) 8 = ((s.icbAt pa buf).commit + msgSize (fieldAt q.desc 16 4)) % 2 ^ 64 ∧
      (∀ o ∈ s.named (s.icbAt pa buf).owner, 2 ∈ (t.task o).latches) ∧
      ∀ a, (a < pa + 24 ∨ pa + 32 ≤ a) → Memory.read t.mem a = Memory.read s.mem a := by
  let b := s.icbAt pa buf
  let upto := q.result.toNat + msgSize (fieldAt q.desc 16 4)
  let s1 := (s.inboxCommit b upto q.bound).putCmd c { q with done := 2 }
  let q1 : Cmd := { q with done := 2, bound := union q.bound [s1.wseq] }
  have hstep : s.publishStep c q = s1.worked c q1 := by
    unfold State.publishStep
    split
    next h => rw [hin] at h; cases h
    next h =>
      rw [hin] at h
      cases h
      dsimp only
      rw [if_neg (by simp [hc, hp]), if_neg (by simp [hs]), if_pos hd, State.inboxSignal, if_pos hs]
  obtain ⟨hnum, hlatch, hrest⟩ := inboxCommit_facts b upto q.bound hm
  have hend : (s.inboxCommit b upto q.bound).endsAs (fun _ => True) (s1.worked c q1) :=
    (State.endsAs.putCmd ..).trans (.worked trivial (Or.inr fun _ => trivial) _)
  refine ⟨_, (exec_inboxPublish hready hi hd).trans (congrArg _ hstep), ?_, fun o ho => (hend.task o).latches _ (hlatch o ho), fun a ha => ?_⟩
  · rw [hc]
    exact (leNow_congr (fun x _ => by rw [hend.mem])).trans hnum
  · rw [hend.mem]; exact hrest a ha

end

end Sys2Proof.Machine
end

section
/-!
MIGRATION (R190, R354 to R356): a page that is skipped, the first half of its move, and the second.
-/

namespace Sys2Proof.Machine

open Sys2Proof

/-! ## The copy of a page (R354) -/

/-- The bytes of a page as they go to its new frame. -/
def State.pageBytes (s : State) (src dst : Nat) : List PByte :=
  (span src 4096).map (fun a => { addr := a - src + dst, val := Memory.read s.mem a })

theorem copyPage_mem (s : State) (src dst : Nat) :
    (s.copyPage src dst).mem = (s.pageBytes src dst).foldl (fun m b => Memory.write m b.addr b.val) s.mem := by
  rw [State.pageBytes, List.foldl_map]
  dsimp only [State.copyPage]

/-- The copy of a page holds what the page held, and no other byte changes. -/
theorem copyPage_read {s : State} (hm : s.memOk) (src dst : Nat) :
    (∀ j < 4096, Memory.read (s.copyPage src dst).mem (dst + j) = Memory.read s.mem (src + j)) ∧
      ∀ x, x ∉ span dst 4096 → Memory.read (s.copyPage src dst).mem x = Memory.read s.mem x := by
  have haddr : (s.pageBytes src dst).map (·.addr) = (List.range 4096).map (dst + ·) := by
    simp only [State.pageBytes, span, List.map_map]
    exact List.map_congr_left (fun j _ => by simp only [Function.comp]; omega)
  have hnodup : ((s.pageBytes src dst).map (·.addr)).Nodup := by
    rw [haddr]
    exact List.nodup_range.map (fun a b h => by simpa using h)
  rw [copyPage_mem]
  refine ⟨fun j hj => ?_, fun x hx => read_writes_ne (fun b hb e => hx ?_)⟩
  · have hin : ({ addr := src + j - src + dst, val := Memory.read s.mem (src + j) } : PByte) ∈ s.pageBytes src dst :=
      List.mem_map.mpr ⟨src + j, mem_span.mpr (by omega), rfl⟩
    have := read_writes hm hnodup hin
    rwa [show src + j - src + dst = dst + j by omega] at this
  · have : x ∈ (s.pageBytes src dst).map (·.addr) := List.mem_map.mpr ⟨b, hb, e⟩
    rw [haddr] at this
    exact this

/-! ## The stores of a move -/

theorem wf_foldl_pbytes {m : List Host.Cell} (hm : Memory.wf m = true) (bs : List PByte) :
    Memory.wf (bs.foldl (fun m b => Memory.write m b.addr b.val) m) = true := Memory.wf_foldl_write bs m hm

/-- A page-table entry is one store. -/
theorem putPte_mem (s : State) (q : Cmd) (m : Migr) (e : Nat) :
    (s.putPte q m e).mem = (pbytes m.pte (leBytes 8 e) false).foldl (fun m b => Memory.write m b.addr b.val) s.mem := rfl

theorem putPte_hub (s : State) (q : Cmd) (m : Migr) (e : Nat) : (s.putPte q m e).hub = s.hub := rfl

/-- So is an atomic of a stack. -/
theorem stackAtomic_mem (s : State) (q : Cmd) (tier n : Nat) (more : List PByte) : (s.stackAtomic q tier n more).1.mem =
    (pbytes (s.stackOf tier) (leBytes 8 n) false ++ more).foldl (fun m b => Memory.write m b.addr b.val) s.mem := rfl

theorem putCmd_mem (s : State) (c : Nat) (q : Cmd) : (s.putCmd c q).mem = s.mem := rfl

theorem stackAtomic_hub (s : State) (q : Cmd) (tier n : Nat) (more : List PByte) : (s.stackAtomic q tier n more).1.hub = s.hub := rfl

theorem stackOf_congr {s t : State} (h : t.hub = s.hub) (tier : Nat) : t.stackOf tier = s.stackOf tier := by
  simp only [State.stackOf, h]

/-- The numbers that an entry or a COUNT consists of stand in eight bytes. -/
theorem not_mem_pbytes8 {a x v : Nat} {b : PByte} {bad : Bool} (h : b ∈ pbytes a (leBytes 8 v) bad) (hx : x ∉ span a 8) : b.addr ≠ x := by
  rintro rfl
  have := mem_pbytes h
  rw [length_leBytes] at this
  exact hx this

section
variable {c k : Nat} {q : Cmd} {s : State} {f : FmtE} (hw : Working c k q s) (hi : q.ins = .migr f) (hopen : s.migrOpen c q = true)
include hw hi hopen

theorem exec_migratePage : exec (.migratePage c k) s = .next (s.migrate c q) := by
  show execMigratePage c k s = _
  unfold execMigratePage
  rw [hw.ready]
  dsimp only
  rw [hi]
  simp [hw.pass, hopen]

variable {l : Leaf} (hno : s.hub.migs = []) (hok : q.result = 0 → s.pagesFault c q (fieldAt q.desc 8 4) = none)
  (hmore : q.result.toNat < fieldAt q.desc 8 4) (hleaf : s.pageLeaf (q.space c) (q.page q.result.toNat) = .ok l)
include hno hok hmore

omit hw hi hopen in
theorem migrate_starts : s.migrate c q = s.startPage c q := by
  have hn : ¬ fieldAt q.desc 8 4 ≤ q.result.toNat := by omega
  have hf : (if q.result = 0 then s.pagesFault c q (fieldAt q.desc 8 4) else none) = none := by
    split
    next h => exact hok h
    next => rfl
  unfold State.migrate
  dsimp only
  rw [hno, List.find?_nil]
  dsimp only
  rw [hf]
  dsimp only
  rw [if_neg hn]

include hleaf

/-- A page that stands in its tier is skipped. -/
theorem exec_page_skipped (ht : (pteTier l.e).toNat = q.tier) :
    exec (.migratePage c k) s = .next (s.putCmd c { q with result := q.result + 1 }) := by
  rw [exec_migratePage hw hi hopen, migrate_starts hno hok hmore, State.startPage]
  rw [hleaf]
  dsimp only
  rw [if_pos ht]

/-- A page whose move begins: its way, its frame and its stack allow it. -/
theorem exec_page_moves {pa n : Nat} (ht : (pteTier l.e).toNat ≠ q.tier) (hlvl : l.lvl = 0) (hc64 : pteC64 l.e = false)
    (hr : rangeOf (ptePa l.e) ≠ some 3) (hstamp : s.paeLast < s.migStamp) (hpath : ∀ p ∈ s.stackWords q.tier, s.pathOpen c p = true)
    (htop : s.topFrame c q (q.page q.result.toNat) = .ok (pa, n))
    (hgo : s.cmdReach c q (pageWindows (q.page q.result.toNat) (ptePa l.e) pa) = .go) :
    exec (.migratePage c k) s = .next ((s.cmdReached c q).movePage c q (q.page q.result.toNat) l pa n) := by
  have h1 : (l.lvl != 0 || pteC64 l.e || rangeOf (ptePa l.e) == some 3) = false := by simp [hlvl, hc64, hr]
  have h2 : (!s.hub.migs.isEmpty || decide (s.migStamp ≤ s.paeLast) || !(s.stackWords q.tier).all (s.pathOpen c)) = false := by
    have hall : (s.stackWords q.tier).all (s.pathOpen c) = true := List.all_eq_true.mpr hpath
    have hle : ¬ s.migStamp ≤ s.paeLast := by omega
    simp [hno, hall, hle]
  rw [exec_migratePage hw hi hopen, migrate_starts hno hok hmore, State.startPage]
  rw [hleaf]
  dsimp only
  rw [if_neg ht, h1, h2, if_neg (by decide), if_neg (by decide), htop]
  dsimp only
  rw [hgo]

end

/-- The move of a page: the stores of its stack and its entry, and the copy. -/
theorem movePage_eq (s : State) (c : Nat) (q : Cmd) (a : Word) (l : Leaf) (pa n : Nat) : ∃ (s2 : State) (q2 : Cmd),
    s2.hub = s.hub ∧ s2.mem = (pbytes l.at_ (leBytes 8 (l.e / 1024 * 1024 + 256 + l.e % 256)) false).foldl
      (fun m b => Memory.write m b.addr b.val)
      ((pbytes (s.stackOf q.tier) (leBytes 8 n) false).foldl (fun m b => Memory.write m b.addr b.val) s.mem) ∧
    s.movePage c q a l pa n = ((((s2.findErrors (span (ptePa l.e) 4096)).copyPage (ptePa l.e) pa).cmdIrrevoke q).modHub
      (fun h => { h with migs := h.migs ++
        [{ cmd := q.id, clus := c, va := a.toNat, oldPa := ptePa l.e, newPa := pa, pte := l.at_ }] })).putCmd c q2 := by
  unfold State.movePage
  dsimp only
  generalize hr : s.stackAtomic q q.tier n [] = r
  generalize hs2 : r.1.putPte r.2 { cmd := q.id, clus := c, va := a.toNat, oldPa := ptePa l.e, newPa := pa, pte := l.at_ }
    (l.e / 1024 * 1024 + 256 + l.e % 256) = s2
  refine ⟨s2, _, by rw [← hs2, putPte_hub, ← hr, stackAtomic_hub], ?_, rfl⟩
  rw [← hs2, putPte_mem, ← hr, stackAtomic_mem, List.append_nil]

/-- The first half of a move: the page stands at its new frame too, its entry and the stack of the tier are written, and nothing else. -/
theorem movePage_facts {s : State} {c : Nat} {q : Cmd} (a : Word) {l : Leaf} {pa : Nat} (n : Nat) (hm : s.memOk)
    (hsrc : ∀ x ∈ span (ptePa l.e) 4096, x ∉ span (s.stackOf q.tier) 8 ∧ x ∉ span l.at_ 8) :
    let t := s.movePage c q a l pa n
    (∀ j < 4096, Memory.read t.mem (pa + j) = Memory.read s.mem (ptePa l.e + j)) ∧
      (∃ m ∈ t.hub.migs, m.cmd = q.id ∧ m.clus = c ∧ m.oldPa = ptePa l.e ∧ m.newPa = pa ∧ m.pte = l.at_) ∧
      ∀ x, x ∉ span pa 4096 → x ∉ span (s.stackOf q.tier) 8 → x ∉ span l.at_ 8 → Memory.read t.mem x = Memory.read s.mem x := by
  intro t
  obtain ⟨s2, q2, hhub, hmem2, he⟩ := movePage_eq s c q a l pa n
  let m : Migr := { cmd := q.id, clus := c, va := a.toNat, oldPa := ptePa l.e, newPa := pa, pte := l.at_ }
  generalize hs3 : (s2.findErrors (span (ptePa l.e) 4096)).copyPage (ptePa l.e) pa = s3 at he
  have hirr := State.endsAs.cmdIrrevoke (P := fun _ => True) s3 q
  have hmem : t.mem = s3.mem := by
    show (s.movePage c q a l pa n).mem = _
    rw [he]
    exact hirr.mem
  have hmigs : m ∈ t.hub.migs := by
    show m ∈ (s.movePage c q a l pa n).hub.migs
    rw [he]
    exact List.mem_append_right _ List.mem_cons_self
  have hs2 : s2.memOk := by
    show Memory.wf s2.mem = true
    rw [hmem2]
    exact wf_foldl_pbytes (wf_foldl_pbytes hm _) _
  have hkept (x : Nat) (h1 : x ∉ span (s.stackOf q.tier) 8) (h2 : x ∉ span l.at_ 8) : Memory.read s2.mem x = Memory.read s.mem x := by
    rw [hmem2, read_writes_ne (fun b hb => not_mem_pbytes8 hb h2), read_writes_ne (fun b hb => not_mem_pbytes8 hb h1)]
  obtain ⟨hcopy, hrest⟩ := copyPage_read (s := s2.findErrors (span (ptePa l.e) 4096))
    (show Memory.wf _ = true by rw [findErrors_mem]; exact hs2) (ptePa l.e) pa
  rw [hs3] at hcopy hrest
  refine ⟨fun j hj => ?_, ⟨m, hmigs, rfl, rfl, rfl, rfl, rfl⟩, fun x hx h1 h2 => ?_⟩
  · obtain ⟨h1, h2⟩ := hsrc (ptePa l.e + j) (mem_span.mpr (by omega))
    rw [hmem, hcopy j hj, findErrors_mem, hkept _ h1 h2]
  · rw [hmem, hrest x hx, findErrors_mem, hkept x h1 h2]

/-- The second half of a move is two stores: the entry, and the stack with its new top. -/
theorem endPage_mem {s : State} {c : Nat} {q : Cmd} {m : Migr} {n : Nat} (hstamp : s.paeLast < s.migStamp)
    (hn : n = s.leNow (s.stackOf (1 - q.tier)) 8 + 1) (hpath : ∀ p ∈ m.pte :: s.stackWords (1 - q.tier), s.pathOpen c p = true) :
    ∃ s1 : State, s1.mem = (pbytes m.pte (leBytes 8 (s.leNow m.pte 8 % 128 + 128 * q.tier + m.newPa)) false).foldl
      (fun m b => Memory.write m b.addr b.val) s.mem ∧
    (s.endPage c q m).mem = (pbytes (s.stackOf (1 - q.tier)) (leBytes 8 n) false ++
      pbytes (s.stackOf (1 - q.tier) + 8 * n) (leBytes 8 m.oldPa) false).foldl (fun m b => Memory.write m b.addr b.val) s1.mem := by
  have hcond : (decide (s.migStamp ≤ s.paeLast) || !(m.pte :: s.stackWords (1 - q.tier)).all (s.pathOpen c)) = false := by
    have hall : (m.pte :: s.stackWords (1 - q.tier)).all (s.pathOpen c) = true := List.all_eq_true.mpr hpath
    have hle : ¬ s.migStamp ≤ s.paeLast := by omega
    simp only [hall, hle, decide_false, Bool.not_true, Bool.or_self]
  unfold State.endPage
  rw [hcond, if_neg (by decide)]
  dsimp only
  rw [← hn]
  generalize hs1 : (s.findErrors (span m.pte 8 ++ span (s.stackOf (1 - q.tier)) 8)).putPte q m
    (s.leNow m.pte 8 % 128 + 128 * q.tier + m.newPa) = s1
  have hhub : s1.hub = s.hub := by rw [← hs1, putPte_hub, findErrors_hub]
  refine ⟨s1, by rw [← hs1, putPte_mem, findErrors_mem], ?_⟩
  rw [putCmd_mem, modHub_mem, stackAtomic_mem, stackOf_congr hhub]

/-- The second half of a move: the entry names the new frame and tier, and the old frame goes onto the other stack. -/
theorem endPage_facts {s : State} {c : Nat} {q : Cmd} {m : Migr} {n : Nat} (hm : s.memOk) (hstamp : s.paeLast < s.migStamp)
    (hn : n = s.leNow (s.stackOf (1 - q.tier)) 8 + 1) (hpath : ∀ p ∈ m.pte :: s.stackWords (1 - q.tier), s.pathOpen c p = true)
    (haway : ∀ x ∈ span m.pte 8, x ∉ span (s.stackOf (1 - q.tier)) 8 ∧ x ∉ span (s.stackOf (1 - q.tier) + 8 * n) 8) :
    let t := s.endPage c q m
    t.leNow m.pte 8 = (s.leNow m.pte 8 % 128 + 128 * q.tier + m.newPa) % 2 ^ 64 ∧
      t.leNow (s.stackOf (1 - q.tier)) 8 = n % 2 ^ 64 ∧ t.leNow (s.stackOf (1 - q.tier) + 8 * n) 8 = m.oldPa % 2 ^ 64 ∧
      ∀ x, x ∉ span m.pte 8 → x ∉ span (s.stackOf (1 - q.tier)) 8 → x ∉ span (s.stackOf (1 - q.tier) + 8 * n) 8 →
        Memory.read t.mem x = Memory.read s.mem x := by
  intro t
  obtain ⟨s1, hs1, hmem⟩ := endPage_mem hstamp hn hpath
  generalize hb : s.stackOf (1 - q.tier) = b at *
  generalize he : s.leNow m.pte 8 % 128 + 128 * q.tier + m.newPa = e at *
  have hwf : Memory.wf s1.mem = true := by rw [hs1]; exact wf_foldl_pbytes hm _
  have hapart (x : Nat) (hx : x ∈ span b 8) : x ∉ span (b + 8 * n) 8 := by
    have h1 := mem_span.mp hx
    intro h2
    have := mem_span.mp h2
    omega
  have hnot {a v x : Nat} {p : PByte} (hp : p ∈ pbytes a (leBytes 8 v) false) (hx : x ∉ span a 8) : p.addr ≠ x := not_mem_pbytes8 hp hx
  have hkept (x : Nat) (h1 : x ∉ span b 8) (h2 : x ∉ span (b + 8 * n) 8) : Memory.read t.mem x = Memory.read s1.mem x := by
    rw [hmem]
    exact read_writes_ne (fun p hp => (List.mem_append.mp hp).elim (fun h => hnot h h1) (fun h => hnot h h2))
  refine ⟨?_, ?_, ?_, fun x h0 h1 h2 => ?_⟩
  · rw [leNow_congr (fun x hx => hkept x (haway x hx).1 (haway x hx).2)]
    exact leNow_written (more := []) (bad := false) hm (by rw [List.append_nil]; exact hs1) (fun _ h => by cases h)
  · refine leNow_written (bad := false) (more := pbytes (b + 8 * n) (leBytes 8 m.oldPa) false) hwf hmem (fun p hp hin => ?_)
    have := mem_pbytes hp
    rw [length_leBytes] at this
    exact hapart _ hin this
  · refine leNow_written (bad := false) (more := [])
      (m := (pbytes b (leBytes 8 n) false).foldl (fun m b => Memory.write m b.addr b.val) s1.mem)
      (wf_foldl_pbytes hwf _) ?_ (fun _ h => by cases h)
    rw [List.append_nil, ← List.foldl_append]
    exact hmem
  · rw [hkept x h1 h2, hs1]
    exact read_writes_ne (fun p hp => hnot hp h0)

/-- Settles O42: a message is one store whose number reads back, COMMIT is another, and a page's move is two stores and the copy, then
two stores more. -/
theorem messagesAndMigration : Obligations.MessagesAndMigration := by
  refine ⟨?_, ?_, ?_, ?_⟩
  · rintro c k q s f b x _ hw hi hd rfl hopen hx hb
    refine ⟨exec_send_never hw hi hd hopen hx hb, exec_send_waits hw hi hd hopen hx hb, ?_⟩
    intro s0 pas body hcap hfit hfirst hp hget s1
    obtain ⟨bd, he⟩ := exec_send_writes hw hi hd hopen hx hb hcap hfit hfirst hp hget
    refine ⟨bd, he, fun hm hbuf => ?_⟩
    have hm0 : ((s0.cmdReached c q).findErrors pas).memOk := by
      show Memory.wf _ = true
      rw [findErrors_mem, cmdReached_mem, (walkOf_cmdGet hget).mem]; exact hm
    have := leNow_inboxWrite (msgSrc c q.node) 0 body hm0 hbuf
    rwa [(cmdGet_got hget).2] at this
  · rintro c k pa buf q s f _ hready hi hd hin rfl
    exact ⟨exec_publish_waits hready hi hd hin, exec_publish hready hi hd hin⟩
  · intro c k q s f l pa n hw hi hno hok hmore hopen hleaf
    refine ⟨exec_page_skipped hw hi hopen hno hok hmore hleaf, ?_⟩
    intro ht hlvl hc64 hr hstamp hpath htop hgo hm hsrc
    have hst : (s.cmdReached c q).stackOf q.tier = s.stackOf q.tier := stackOf_congr (State.movesTo.cmdReached s c q).hub _
    have hmem := cmdReached_mem s c q
    have hfacts := movePage_facts (s := s.cmdReached c q) (c := c) (q := q) (q.page q.result.toNat) (l := l) (pa := pa) n
      (show Memory.wf _ = true by rw [hmem]; exact hm) (by rw [hst]; exact hsrc)
    simp only [hmem, hst] at hfacts
    exact ⟨_, exec_page_moves hw hi hopen hno hok hmore hleaf ht hlvl hc64 hr hstamp hpath htop hgo, hfacts⟩
  · intro c k q s f m n hw hi hfind hstamp hm hn hpath haway
    have hopen : s.migrOpen c q = true := by
      have hmine := List.find?_some hfind
      have hany : s.hub.migs.any (fun m => m.cmd == q.id && m.clus == c) = true :=
        List.any_eq_true.mpr ⟨m, List.mem_of_find?_eq_some hfind, hmine⟩
      rw [State.migrOpen, hany, Bool.true_or]
    have he : exec (.migratePage c k) s = .next (s.endPage c q m) := by
      rw [exec_migratePage hw hi hopen, State.migrate, hfind]
    exact ⟨_, he, endPage_facts hm hstamp hn hpath haway⟩

end Sys2Proof.Machine
end

section
/-!
FAR DIES (R209, R348, R400, R401): tables that switch in, requests of peers, the calibration of channels, and the keys of a link.
-/

namespace Sys2Proof.Machine

open Sys2Proof

/-! ## Tables (R209) -/

/-- The outbound half of a switch. -/
def Far.switchedOut (d : Far) (now : Nat) : Far :=
  match d.nextOut with
  | some t => if d.readyOut < now then { d with out := t, outAt := now, nextOut := none } else d
  | none => d

theorem Far.switched_eq (d : Far) (now : Nat) : d.switched now =
    match (d.switchedOut now).nextInn with
    | some t => if (d.switchedOut now).readyInn < now then { d.switchedOut now with inn := t, innAt := now, nextInn := none } else d.switchedOut now
    | none => d.switchedOut now := rfl

/-- The switch of the outbound table leaves the inbound side. -/
theorem Far.switchedOut_inn (d : Far) (now : Nat) : (d.switchedOut now).nextInn = d.nextInn ∧ (d.switchedOut now).readyInn = d.readyInn ∧
    (d.switchedOut now).inn = d.inn := by
  rw [Far.switchedOut]
  split
  · split <;> exact ⟨rfl, rfl, rfl⟩
  · exact ⟨rfl, rfl, rfl⟩

theorem Far.switchedOut_ready {d : Far} {now : Nat} {tb : Tbl (BitVec 32)} (h : d.nextOut = some tb) (hr : d.readyOut < now) :
    (d.switchedOut now).out = tb ∧ (d.switchedOut now).outAt = now ∧ (d.switchedOut now).nextOut = none := by
  simp only [Far.switchedOut, h, if_pos hr, and_self]

theorem Far.switchedOut_none {d : Far} {now : Nat} (h : d.nextOut = none) : d.switchedOut now = d := by simp only [Far.switchedOut, h]

/-- The switch of the inbound table leaves the outbound side. -/
theorem Far.switched_out (d : Far) (now : Nat) : (d.switched now).out = (d.switchedOut now).out ∧
    (d.switched now).outAt = (d.switchedOut now).outAt ∧ (d.switched now).nextOut = (d.switchedOut now).nextOut := by
  rw [Far.switched_eq]
  split
  · split <;> exact ⟨rfl, rfl, rfl⟩
  · exact ⟨rfl, rfl, rfl⟩

/-- What a switch leaves of a far die: a table that was read is in, and a side for which none was read keeps its table. -/
theorem Far.switched_facts (d : Far) (now : Nat) :
    (∀ tb, d.nextOut = some tb → d.readyOut < now → (d.switched now).out = tb ∧ (d.switched now).outAt = now ∧ (d.switched now).nextOut = none) ∧
    (d.nextOut = none → (d.switched now).out = d.out) ∧
    (∀ tb, d.nextInn = some tb → d.readyInn < now → (d.switched now).inn = tb ∧ (d.switched now).innAt = now ∧ (d.switched now).nextInn = none) ∧
    (d.nextInn = none → (d.switched now).inn = d.inn) := by
  obtain ⟨hout, hat, hnext⟩ := d.switched_out now
  obtain ⟨hnin, hrin, hin⟩ := d.switchedOut_inn now
  refine ⟨fun tb h hr => ?_, fun h => ?_, fun tb h hr => ?_, fun h => ?_⟩
  · rw [hout, hat, hnext]; exact Far.switchedOut_ready h hr
  · rw [hout, Far.switchedOut_none h]
  · rw [Far.switched_eq, hnin, h, hrin]
    simp only [if_pos hr, and_self]
  · rw [Far.switched_eq, hnin, h]; exact hin

theorem slotTableSwitch_facts (s : State) : (s.now % 640 ≠ 0 → exec .slotTableSwitch s = .next s) ∧
    (s.now % 640 = 0 → ∃ t : State, exec .slotTableSwitch s = .next t ∧ t.mem = s.mem ∧ ∀ f < 2, t.far f = (s.far f).switched s.now) := by
  refine ⟨fun h => ?_, fun h => ⟨(s.modFar 0 (fun d => d.switched s.now)).modFar 1 (fun d => d.switched s.now), ?_, rfl, ?_⟩⟩
  · show execSlotTableSwitch s = _
    rw [execSlotTableSwitch, frameCycles, if_neg h]
  · show execSlotTableSwitch s = _
    rw [execSlotTableSwitch, frameCycles, if_pos h]
  · intro f hf
    obtain rfl | rfl : f = 0 ∨ f = 1 := by omega
    · rw [far_modFar_ne _ _ _ _ (by decide), far_modFar]
    · rw [far_modFar, far_modFar_ne _ _ _ _ (by decide)]

/-! ## Requests of peers (R349) -/

/-- What sends an owed response changes of a far die. -/
theorem Far.sendOwed_keeps (d : Far) (now ch : Nat) : (d.sendOwed now ch).inn = d.inn ∧ (d.sendOwed now ch).innAt = d.innAt ∧
    (d.sendOwed now ch).outAt = d.outAt ∧ (d.sendOwed now ch).down = d.down ∧ (d.sendOwed now ch).reqs = d.reqs ∧
    (d.sendOwed now ch).takenIn = d.takenIn ∧ (d.sendOwed now ch).flitsIn = d.flitsIn := by
  rw [Far.sendOwed]
  split
  · exact ⟨rfl, rfl, rfl, rfl, rfl, rfl, rfl⟩
  · split <;> exact ⟨rfl, rfl, rfl, rfl, rfl, rfl, rfl⟩

section
variable {d : Far} {now ch : Nat} {x : PeerResp} (h : d.owes.find? (fun x => x.ch == ch && decide (x.due ≤ now)) = some x)
include h

theorem Far.sendOwed_waits (hw : now % 80 ≠ 0 ∨ ch ∈ d.down ∨ (ch, now) ∈ d.taken) : d.sendOwed now ch = d := by
  rw [Far.sendOwed, h]
  exact if_pos (by simpa [slotCycles, or_assoc] using hw)

theorem Far.sendOwed_goes (hnow : now % 80 = 0) (hd : ch ∉ d.down) (ht : (ch, now) ∉ d.taken) :
    (d.sendOwed now ch).owes = d.owes.erase x ∧ (ch, now) ∈ (d.sendOwed now ch).taken ∧ (d.sendOwed now ch).flits = d.flits + 1 := by
  rw [Far.sendOwed, h]
  dsimp only
  rw [if_neg (by simp [slotCycles, hnow, hd, ht])]
  exact ⟨rfl, List.mem_cons_self, rfl⟩

end

/-- The state once a response that was owed is sent. -/
def State.peerSent (s : State) (f ch : Nat) : State := if s.farLive f then s.modFar f (fun d => d.sendOwed s.now ch) else s

theorem peerSent_mem (s : State) (f ch : Nat) : (s.peerSent f ch).mem = s.mem := by
  rw [State.peerSent]; split <;> rfl

theorem far_peerSent (s : State) (f ch : Nat) :
    (s.peerSent f ch).far f = if s.farLive f = true then (s.far f).sendOwed s.now ch else s.far f := by
  rw [State.peerSent]
  split
  · rw [far_modFar]
  · rfl

/-- The request of a peer finds the inbound side as it stood. -/
theorem far_peerSent_keeps (s : State) (f ch : Nat) : ((s.peerSent f ch).far f).inn = (s.far f).inn ∧
    ((s.peerSent f ch).far f).innAt = (s.far f).innAt ∧ ((s.peerSent f ch).far f).outAt = (s.far f).outAt ∧
    ((s.peerSent f ch).far f).down = (s.far f).down ∧ ((s.peerSent f ch).far f).reqs = (s.far f).reqs ∧
    ((s.peerSent f ch).far f).takenIn = (s.far f).takenIn ∧ ((s.peerSent f ch).far f).flitsIn = (s.far f).flitsIn := by
  rw [far_peerSent]
  split
  · exact Far.sendOwed_keeps ..
  · exact ⟨rfl, rfl, rfl, rfl, rfl, rfl, rfl⟩

theorem peerSent_innUse (s : State) (f ch : Nat) : ((s.peerSent f ch).far f).innUse s.now ch = (s.far f).innUse s.now ch := by
  obtain ⟨hinn, hat, _, hdown, _⟩ := far_peerSent_keeps s f ch
  simp only [Far.innUse, Far.innIndex, hinn, hat, hdown]

theorem peerSent_owed (s : State) (f ch : Nat) : ((s.peerSent f ch).far f).owed s.now ch = (s.far f).owed s.now ch := by
  obtain ⟨_, hat, _, _, hreqs, _⟩ := far_peerSent_keeps s f ch
  simp only [Far.owed, hat, hreqs]

/-- A far die that has taken a peer's request at `now` and owes its response at `at_`. -/
def Far.owing (d : Far) (ch now at_ : Nat) : Far :=
  { d with
    owes := d.owes ++ [{ ch := ch, due := at_ }], takenIn := (ch, now) :: d.takenIn.filter (fun x => now ≤ x.2)
    flitsIn := d.flitsIn + 1, holds := { until_ := now + slotCycles } :: d.holds.filter (fun x => now < x.until_) }

/-- The inbound slot that starts now holds no request of a peer under that key. -/
def State.noPeer (s : State) (f ch key : Nat) (d : Far) : Bool :=
  192 ≤ ch || s.now % slotCycles != 0 || !s.farLive f || d.innUse s.now ch != 1 ||
    ((d.inn.get 0 (d.innIndex s.now ch)).setWidth 16).toNat != key || s.hub.revoked.contains key || d.owed s.now ch ||
    d.takenIn.contains (ch, s.now)

theorem exec_peerRequest (f ch addr key : Nat) (s : State) : exec (.peerRequest f ch addr key) s = .next (
    let d := (s.peerSent f ch).far f
    if s.noPeer f ch key d then s.peerSent f ch
    else match ((List.range 16).map (fun j => s.now + slotCycles * (j + 1))).find?
        (fun t => slotPos d.outAt t == (slotPos d.innAt s.now + 7) % 16) with
      | some t => (s.peerSent f ch).modFar f (fun d => d.owing ch s.now t)
      | none => s.peerSent f ch) := rfl

theorem exec_peerRequest_none {f ch key : Nat} {s : State} (addr : Nat) (h : 192 ≤ ch ∨ s.now % 80 ≠ 0 ∨ s.farLive f = false ∨
    (s.far f).innUse s.now ch ≠ 1 ∨ key ∈ s.hub.revoked ∨ (s.far f).owed s.now ch = true ∨ (ch, s.now) ∈ (s.far f).takenIn) :
    exec (.peerRequest f ch addr key) s = .next (s.peerSent f ch) := by
  obtain ⟨_, _, _, _, _, htaken, _⟩ := far_peerSent_keeps s f ch
  have hno : s.noPeer f ch key ((s.peerSent f ch).far f) = true := by
    simp only [State.noPeer, peerSent_innUse, peerSent_owed, htaken, slotCycles, Bool.or_eq_true, decide_eq_true_eq, bne_iff_ne,
      Bool.not_eq_true', List.contains_iff_mem]
    rcases h with h | h | h | h | h | h | h <;> simp [h]
  rw [exec_peerRequest]
  exact congrArg Host.Outcome.next (if_pos hno)

/-- From a slot's start, one of the next sixteen slots stands at any position of the table. -/
theorem slotPos_reached {outAt now p : Nat} (hp : p < 16) (hat : outAt % 80 = 0) (hle : outAt ≤ now) (hnow : now % 80 = 0) :
    ∃ j < 16, slotPos outAt (now + 80 * (j + 1)) = p := by
  refine ⟨(p + 31 - (now - outAt) / 80 % 16) % 16, Nat.mod_lt _ (by decide), ?_⟩
  simp only [slotPos, slotCycles]
  omega

/-- The slot that a response is owed is found among the next sixteen. -/
theorem find_slotPos {outAt now p : Nat} (hp : p < 16) (hat : outAt % 80 = 0) (hle : outAt ≤ now) (hnow : now % 80 = 0) :
    ∃ t, ((List.range 16).map (fun j => now + slotCycles * (j + 1))).find? (fun t => slotPos outAt t == p) = some t ∧ now < t ∧
      t ≤ now + 1280 ∧ slotPos outAt t = p := by
  obtain ⟨j, hj, hpos⟩ := slotPos_reached hp hat hle hnow
  have hex : (((List.range 16).map (fun j => now + slotCycles * (j + 1))).find? (fun t => slotPos outAt t == p)).isSome = true :=
    List.find?_isSome.mpr ⟨_, List.mem_map.mpr ⟨j, List.mem_range.mpr hj, rfl⟩, beq_iff_eq.mpr hpos⟩
  obtain ⟨t, ht⟩ := Option.isSome_iff_exists.mp hex
  obtain ⟨i, hi, rfl⟩ := List.mem_map.mp (List.mem_of_find?_eq_some ht)
  have := List.mem_range.mp hi
  refine ⟨_, ht, ?_, ?_, beq_iff_eq.mp (by simpa using List.find?_some ht)⟩ <;> simp only [slotCycles] <;> omega

theorem exec_peerRequest_taken {f ch key : Nat} {s : State} (addr : Nat) (hch : ch < 192) (hnow : s.now % 80 = 0) (hl : s.farLive f = true)
    (hu : (s.far f).innUse s.now ch = 1) (ho : (s.far f).owed s.now ch = false) (ht : (ch, s.now) ∉ (s.far f).takenIn)
    (hk : (((s.far f).inn.get 0 ((s.far f).innIndex s.now ch)).setWidth 16).toNat = key) (hr : key ∉ s.hub.revoked)
    (hat : (s.far f).outAt % 80 = 0) (hle : (s.far f).outAt ≤ s.now) :
    ∃ at_, exec (.peerRequest f ch addr key) s = .next ((s.peerSent f ch).modFar f (fun d => d.owing ch s.now at_)) ∧
      s.now < at_ ∧ at_ ≤ s.now + 1280 ∧ slotPos (s.far f).outAt at_ = (slotPos (s.far f).innAt s.now + 7) % 16 := by
  obtain ⟨hinn, hinnAt, hout, _, _, htaken, _⟩ := far_peerSent_keeps s f ch
  obtain ⟨at_, hfind, hlt, hbound, hpos⟩ := find_slotPos (outAt := (s.far f).outAt) (now := s.now)
    (p := (slotPos (s.far f).innAt s.now + 7) % 16) (Nat.mod_lt _ (by decide)) hat hle hnow
  refine ⟨at_, ?_, hlt, hbound, hpos⟩
  have hyes : s.noPeer f ch key ((s.peerSent f ch).far f) = false := by
    have hidx : ((s.peerSent f ch).far f).innIndex s.now ch = (s.far f).innIndex s.now ch := by rw [Far.innIndex, hinnAt]; rfl
    rw [State.noPeer, peerSent_innUse, peerSent_owed, htaken, hinn, hidx, hk]
    simp [slotCycles, hnow, hl, hu, hr, ho, ht, hch]
  rw [exec_peerRequest]
  dsimp only
  rw [hyes, hout, hinnAt, hfind]
  rfl

/-! ## Channels (R400) -/

theorem exec_calibration_early {f ch : Nat} {s : State} (h : 384 ≤ ch ∨ s.now < (s.far f).calAt.get 0 ch + 2 ^ 25) :
    exec (.channelCalibration f ch) s = .next s := by
  show execChannelCalibration f ch s = _
  rw [execChannelCalibration, if_pos (by simpa using h)]

/-- A far die whose channel is calibrated now. -/
def Far.calibrated (d : Far) (now ch : Nat) : Far :=
  match d.calSlot now ch with
  | none => { d with calAt := d.calAt.set ch now }
  | some t => if ch < 192 then { d with calAt := d.calAt.set ch now, taken := (ch, t) :: d.taken }
    else { d with calAt := d.calAt.set ch now, takenIn := (ch - 192, t) :: d.takenIn }

theorem exec_calibration {f ch : Nat} {s : State} (hch : ch < 384) (h : (s.far f).calAt.get 0 ch + 2 ^ 25 ≤ s.now) :
    exec (.channelCalibration f ch) s = .next (s.modFar f (fun d => d.calibrated s.now ch)) := by
  show execChannelCalibration f ch s = _
  rw [execChannelCalibration, if_neg (by simp; omega)]
  rfl

theorem Far.calibrated_calAt (d : Far) (now ch : Nat) : (d.calibrated now ch).calAt.get 0 ch = now := by
  rw [Far.calibrated]
  split
  · exact Tbl.get_set ..
  · split <;> exact Tbl.get_set ..

theorem Far.calibrated_slot {d : Far} {now ch n : Nat} (h : d.calSlot now ch = some n) :
    if ch < 192 then (ch, n) ∈ (d.calibrated now ch).taken else (ch - 192, n) ∈ (d.calibrated now ch).takenIn := by
  rw [Far.calibrated, h]
  dsimp only
  split <;> exact List.mem_cons_self

theorem exec_channelDown {f ch : Nat} {s : State} (h : ch < 384) :
    exec (.channelDown f ch) s = .next (s.modFar f (fun d => { d with down := NSet.insert d.down ch })) := by
  show execChannelDown f ch s = _
  rw [execChannelDown, if_neg (by omega)]

/-- A channel that is down is idle in both directions of numbering. -/
theorem Far.outUse_down {d : Far} {ch : Nat} (h : ch ∈ d.down) (n : Nat) : d.outUse n ch = 3 := by
  simp [Far.outUse, h]

theorem Far.innUse_down {d : Far} {ch : Nat} (h : 192 + ch ∈ d.down) (n : Nat) : d.innUse n ch = 3 := by
  simp [Far.innUse, h]

/-! ## Keys of the link (R401) -/

theorem exec_autoRollover_early {f : Nat} {s : State} (h : (s.far f).flits < 2 ^ 40) (hi : (s.far f).flitsIn < 2 ^ 40) :
    exec (.ideAutoRollover f) s = .next s := by
  show execIdeAutoRollover f s = _
  rw [execIdeAutoRollover, if_neg (by omega)]

theorem exec_autoRollover {f : Nat} {s : State} (h : 2 ^ 40 ≤ (s.far f).flits ∨ 2 ^ 40 ≤ (s.far f).flitsIn) :
    exec (.ideAutoRollover f) s = .next (s.rollover f) := by
  show execIdeAutoRollover f s = _
  rw [execIdeAutoRollover, if_pos h]

theorem rollover_flits {s : State} {f : Nat} (h : (s.far f).roll = false) :
    ((s.rollover f).far f).flits = 0 ∧ ((s.rollover f).far f).flitsIn = 0 := by
  rw [State.rollover, far_modFar, if_neg (by simp [h])]
  exact ⟨rfl, rfl⟩

/-- A far die whose retiring slot may be given up. -/
def Far.retired (d : Far) (now : Nat) : Far :=
  if d.retiring && d.oldFlits now = 0 then { d with retiring := false, roll := false, rcnt := (d.rcnt + 1) % 2 ^ 16 } else d

theorem exec_slotRetire (f : Nat) (s : State) : exec (.ideSlotRetire f) s =
    .next (if s.wrote (0x410 + f) f then s else s.modFar f (fun d => d.retired s.now)) := rfl

theorem slotRetire_facts (f : Nat) (s : State) : ∃ t : State, exec (.ideSlotRetire f) s = .next t ∧ t.mem = s.mem ∧
    (((s.far f).retiring = false ∨ (s.far f).oldFlits s.now ≠ 0 ∨ s.wrote (0x410 + f) f = true) → t.far f = s.far f) ∧
    ((s.far f).retiring = true → (s.far f).oldFlits s.now = 0 → s.wrote (0x410 + f) f = false →
      t.far f = { s.far f with retiring := false, roll := false, rcnt := ((s.far f).rcnt + 1) % 2 ^ 16 }) := by
  refine ⟨_, exec_slotRetire f s, ?_, fun h => ?_, fun hr ho hw => ?_⟩
  · split <;> rfl
  · split
    case isTrue => rfl
    case isFalse hw =>
      rw [far_modFar, Far.retired, if_neg]
      rintro hgo
      simp only [Bool.and_eq_true, decide_eq_true_eq] at hgo
      rcases h with h | h | h
      · rw [h] at hgo; exact absurd hgo.1 (by decide)
      · exact h hgo.2
      · exact hw h
  · rw [if_neg (by simp [hw]), far_modFar, Far.retired, if_pos (by simp [hr, ho])]

theorem macFailure_facts (f : Nat) (s : State) : ∃ t : State, exec (.macFailure f) s = .next t ∧ t.mem = s.mem ∧
    t.far f = { s.far f with keyerr := true } ∧ t.farLive f = false := by
  have hfar : ((s.modFar f (fun d => { d with keyerr := true })).touch (0x410 + f) f 3).far f = { s.far f with keyerr := true } := by
    rw [State.far, touch_fars]
    exact far_modFar ..
  exact ⟨_, rfl, by rw [touch_mem, modFar_mem], hfar, by rw [State.farLive, hfar]; rfl⟩

/-- Settles O59: each event changes its far die alone, by a function of the die that is said here once. -/
theorem farTablesChannelsAndKeys : Obligations.FarTablesChannelsAndKeys := by
  refine ⟨fun s => ?_, ?_, ?_, ?_, ?_⟩
  · obtain ⟨hno, hyes⟩ := slotTableSwitch_facts s
    refine ⟨hno, fun h => ?_⟩
    obtain ⟨t, ht, hmem, hfar⟩ := hyes h
    exact ⟨t, ht, hmem, fun f hf => by rw [hfar f hf]; exact Far.switched_facts ..⟩
  · intro f ch addr key s d d1
    have hd1 : (s.peerSent f ch).far f = d1 := far_peerSent s f ch
    refine ⟨fun h => ⟨_, exec_peerRequest_none addr h, hd1, peerSent_mem ..⟩, ?_, fun x hx => ⟨Far.sendOwed_waits hx, Far.sendOwed_goes hx⟩⟩
    intro hch hnow hl hu ho ht hk hr hat hle
    obtain ⟨at_, he, hlt, hbound, hpos⟩ := exec_peerRequest_taken addr hch hnow hl hu ho ht hk hr hat hle
    obtain ⟨_, _, _, _, _, _, hflits⟩ := far_peerSent_keeps s f ch
    refine ⟨_, at_, he, peerSent_mem .., ?_, ?_, ?_, ?_, hlt, hbound, hpos⟩
    · rw [far_modFar, hd1]; rfl
    · rw [far_modFar, hd1]; rfl
    · rw [far_modFar]; exact List.mem_cons_self
    · rw [far_modFar, ← hflits]; rfl
  · intro f ch s d
    refine ⟨exec_calibration_early, fun hch h => ⟨_, exec_calibration hch h, rfl, ?_, fun n hn => ?_⟩⟩
    · rw [far_modFar]; exact Far.calibrated_calAt ..
    · rw [far_modFar]; exact Far.calibrated_slot hn
  · intro f ch s
    refine ⟨fun hch => ⟨_, exec_channelDown hch, rfl, fun j => ?_, fun n => ⟨fun _ => ?_, fun h => ?_⟩⟩, ⟨_, rfl, rfl, fun j => ?_⟩⟩
    · rw [far_modFar]; exact mem_insert
    · rw [far_modFar]; exact Far.outUse_down (mem_insert.mpr (.inl rfl)) n
    · rw [far_modFar]; exact Far.innUse_down (mem_insert.mpr (.inl (by omega))) n
    · rw [far_modFar]
      simp [NSet.erase, and_comm]
  · intro f s
    refine ⟨exec_autoRollover_early, fun h hroll => ⟨_, exec_autoRollover h, ?_⟩, slotRetire_facts f s, macFailure_facts f s⟩
    obtain ⟨h1, h2, h3, _, _⟩ := rollover_starts hroll
    obtain ⟨h4, h5⟩ := rollover_flits hroll
    exact ⟨h1, h2, h3, h4, h5, rfl⟩

end Sys2Proof.Machine
end

section
/-!
PLACES: what leaves every region and task as it standsIn but for translations, what leaves every task in its place, and a task
that is put into a region (R322, R334).
-/

namespace Sys2Proof.Machine

open Sys2Proof

/-! ## Only translations change -/

/-- Clusters keep all but their TLBs, and tasks all. -/
structure State.tlbOnly (s t : State) : Prop where
  clus : ∀ d, t.cluster d = { s.cluster d with tlb := (t.cluster d).tlb }
  tasks : t.tasks = s.tasks

namespace State.tlbOnly

theorem refl (s : State) : s.tlbOnly s := ⟨fun _ => rfl, rfl⟩

theorem trans {s t u : State} (h : s.tlbOnly t) (k : t.tlbOnly u) : s.tlbOnly u :=
  ⟨fun d => by rw [k.clus d, h.clus d], k.tasks.trans h.tasks⟩

theorem of_same {s t : State} (hc : t.clusters = s.clusters) (ht : t.tasks = s.tasks) : s.tlbOnly t :=
  ⟨fun d => by simp only [State.cluster, hc], ht⟩

theorem of_walk {s t : State} (h : s.walkOf t) : s.tlbOnly t := ⟨h.clus, h.tasks⟩

theorem foldl {α : Type} (g : State → α → State) (hg : ∀ (s : State) (x : α), s.tlbOnly (g s x)) (l : List α) (s : State) :
    s.tlbOnly (l.foldl g s) := by
  induction l generalizing s with
  | nil => exact refl s
  | cons x l ih => exact (hg s x).trans (ih (g s x))

section
variable {s t : State} (h : s.tlbOnly t)
include h
theorem holder (d : Nat) : (t.cluster d).task = (s.cluster d).task := by rw [h.clus]
theorem region (d : Nat) : t.region d = s.region d := by
  show (t.cluster d).region = (s.cluster d).region
  rw [h.clus]
theorem task (n : Nat) : t.task n = s.task n := by simp only [State.task, h.tasks]
end

theorem reached (s : State) (c : Nat) (w : Requester) : s.tlbOnly (s.reached c w) := by
  rw [reached_only]
  exact of_same rfl rfl

theorem findErrors (s : State) (l : List Nat) : s.tlbOnly (s.findErrors l) := of_walk (walkOf_findErrors ..)

theorem waits {s t : State} {c prio : Nat} {w : Requester} {l : List (Word × Nat)} (h : s.reach c w prio l = .wait t) : s.tlbOnly t := by
  rw [reach_wait _ _ _ _ _ _ h]
  exact of_same rfl rfl

theorem hubAsk (s : State) (pas : List Nat) : s.tlbOnly (s.hubAsk pas) := by
  unfold State.hubAsk
  dsimp only
  split
  · exact refl s
  · refine trans ?_ (foldl (fun (st : State) pa => st.askFar 64 .hub 3 pa) (fun _ _ => of_same rfl rfl) _ _)
    exact of_same rfl rfl

theorem hubWrite (s : State) (sp : Space) (a : Word) (bs : List Byte) (r : Option Release) (j : Nat) :
    s.tlbOnly (s.hubWrite sp a bs r j) := by
  have hw : s.tlbOnly (s.walked sp a bs.length .write) := of_walk (walkOf_walked ..)
  unfold State.hubWrite
  dsimp only
  split
  · exact hw.trans (of_same (touch_clusters ..) (touch_tasks ..))
  · refine hw.trans (trans ?_ (hubAsk ..))
    exact of_same rfl rfl

theorem bindVreg (s : State) (t : Nat) (c : Option Nat) : s.tlbOnly (s.bindVreg t c) := by
  unfold State.bindVreg State.setVreg
  dsimp only
  split
  · exact refl s
  · split
    · exact refl s
    · refine trans ?_ (hubWrite ..)
      exact of_same rfl rfl

theorem clearAbove (s : State) (c lim : Nat) : s.tlbOnly (s.clearAbove c lim) := by
  unfold State.clearAbove
  dsimp only
  split
  · exact refl s
  · exact of_same (store_clusters ..) (store_tasks ..)

theorem cleanSlices (s : State) (t c : Nat) : s.tlbOnly (s.cleanSlices t c) := by
  unfold State.cleanSlices
  split
  · exact clearAbove ..
  · exact refl s

theorem copyBack (s : State) (src dst : List Nat) : s.tlbOnly (s.copyBack src dst) := by
  unfold State.copyBack
  split
  · exact refl s
  · exact of_same (store_clusters ..) (store_tasks ..)

theorem restoreLines (s : State) (c lim : Nat) (bs : List Byte) : s.tlbOnly (s.restoreLines c lim bs) := of_same rfl rfl

theorem unpack (s : State) (t : Task) (c : Nat) (pls : List (List Nat)) : s.tlbOnly (s.unpack t c pls).1 := by
  unfold State.unpack
  dsimp only
  refine trans ?_ (restoreLines ..)
  refine trans ?_ (foldl _ (fun _ _ => copyBack ..) _ _)
  split
  · exact refl s
  · exact copyBack ..

end State.tlbOnly

/-! ## Save areas (R333, R334) -/

/-- The state in which a save or a restore standsIn. -/
@[simp] def Area.state {α : Type} : Area α → State
  | .done s _ | .wait s | .fault s _ | .poison s => s

/-- A save or a restore changes no region and no task. -/
theorem saveAreas_tlbOnly (s : State) (sp : Space) (t : Task) (c kind : Nat) (why : Option TrapRec) (csa bsa : Word) :
    s.tlbOnly (s.saveAreas sp t c kind why csa bsa).state := by
  unfold State.saveAreas
  dsimp only
  generalize (s.savedParts t c kind why csa bsa) = parts
  generalize parts.map (fun p => (p.1, p.2.length)) = runs
  have h0 : s.tlbOnly (s.walkRuns sp .write runs) := .of_walk (walkOf_walkRuns ..)
  split
  · exact .refl s
  · split
    next h => exact h0.trans (.reached ..)
    next h => exact h0.trans (.waits h)
    next h =>
      have h2 := (h0.trans (.reached _ c .area)).trans (.findErrors _ (parkSpan c ++ (List.range 48).flatMap (sliceSpan c t.lim)))
      have h3 := h2.trans (.foldl (fun (st : State) (x : List Nat × Word × List (Byte × Bool)) => st.storeAll (x.1.zipWith
        (fun a (b : Byte × Bool) => { addr := a, val := b.1, bad := b.2 }) x.2.2) false none) (fun _ _ => .of_same rfl rfl)
        (List.zip (s.areaRuns sp .write runs).1 parts) _)
      split
      · exact h3
      · refine h3.trans ?_
        exact .of_same rfl rfl

theorem loadAreas_tlbOnly (s : State) (sp : Space) (t : Task) (c : Nat) (csa bsa : Word) :
    s.tlbOnly (s.loadAreas sp t c csa bsa).state := by
  unfold State.loadAreas
  dsimp only
  generalize areaParts t csa bsa = runs
  have h0 : s.tlbOnly (s.walkRuns sp .read runs) := .of_walk (walkOf_walkRuns ..)
  split
  · exact .refl s
  · split
    · exact h0
    · split
      next h => exact h0.trans (.reached ..)
      next h => exact h0.trans (.waits h)
      next h =>
        split
        · exact (h0.trans (.reached ..)).trans (.findErrors ..)
        · exact (h0.trans (.reached ..)).trans (.unpack ..)

/-! ## Every task stays in its place -/

/-- Clusters keep their tasks, and tasks their places. -/
structure State.keepsPlaces (s t : State) : Prop where
  holder : ∀ d, (t.cluster d).task = (s.cluster d).task
  place : ∀ n, (t.task n).place = (s.task n).place

namespace State.keepsPlaces

theorem refl (s : State) : s.keepsPlaces s := ⟨fun _ => rfl, fun _ => rfl⟩

theorem trans {s t u : State} (h : s.keepsPlaces t) (k : t.keepsPlaces u) : s.keepsPlaces u :=
  ⟨fun d => (k.holder d).trans (h.holder d), fun n => (k.place n).trans (h.place n)⟩

theorem of_tlbOnly {s t : State} (h : s.tlbOnly t) : s.keepsPlaces t := ⟨h.holder, fun n => by rw [h.task]⟩

theorem of_endsAs {P : Nat → Prop} {s t : State} (h : s.endsAs P t) : s.keepsPlaces t :=
  ⟨h.holder, fun n => by have e := (h.task n).rest; rw [e]⟩

theorem of_engines {s t : State} (h : s.keepsEngines t) (ht : t.tasks = s.tasks) : s.keepsPlaces t :=
  ⟨h.holder, fun n => by simp only [State.task, ht]⟩

theorem modTaskOf (s : State) (c : Nat) (g : Task → Task) (hg : ∀ x : Task, (g x).place = x.place) : s.keepsPlaces (s.modTaskOf c g) := by
  refine ⟨fun d => by rw [cluster_modTaskOf], fun n => ?_⟩
  unfold State.modTaskOf
  split
  next t _ =>
    by_cases h : t = n
    · subst h; rw [task_modTask]; exact hg _
    · rw [task_modTask_ne _ _ h]
  next => rfl

theorem modCluster (s : State) (c : Nat) (g : Cluster → Cluster) (h : (g (s.cluster c)).task = (s.cluster c).task) :
    s.keepsPlaces (s.modCluster c g) := by
  refine ⟨fun d => ?_, fun _ => rfl⟩
  by_cases hd : c = d
  · subst hd; rw [cluster_modCluster]; exact h
  · rw [cluster_modCluster_ne _ _ _ _ hd]

theorem modRegion (s : State) (c : Nat) (g : Region → Region) : s.keepsPlaces (s.modRegion c g) :=
  modCluster s c (fun x => { x with region := g (s.region c) }) rfl

theorem setRegion (s : State) (c : Nat) (r : Region) : s.keepsPlaces (s.setRegion c r) := modRegion s c (fun _ => r)

theorem startAt (s : State) (c m b : Nat) (l : List TrapRec) : s.keepsPlaces (s.startAt c m b l) := by
  have hr (u : State) : u.keepsPlaces (u.reached c .fetch) := of_tlbOnly (.reached ..)
  have ht (u : State) : u.keepsPlaces (u.modTaskOf c (fun t => { t with evwaits := [] })) := modTaskOf _ _ _ (fun _ => rfl)
  unfold State.startAt State.startLoad
  exact (((modRegion ..).trans (ht _)).trans (hr _)).trans (modRegion ..)

theorem requeue (l : List Cmd) (c : Nat) (s : State) : s.keepsPlaces (s.requeue c l) := by
  induction l generalizing s with
  | nil => exact refl s
  | cons q l ih =>
    have ha : s.keepsPlaces { s with arrivals := s.arrivals + 1 } := of_tlbOnly (.of_same rfl rfl)
    refine trans (ha.trans ?_) (ih _)
    exact modCluster _ _ _ rfl

theorem raise (s : State) (c : Nat) (x : TrapRec) : s.keepsPlaces (s.raise c x) :=
  of_endsAs (P := fun _ => False) (.raise s c x)

theorem raiseHeld (s : State) (c : Nat) : s.keepsPlaces (s.raiseHeld c) := by
  unfold State.raiseHeld
  split
  · exact refl s
  · dsimp only
    refine trans (trans ?_ (modRegion ..)) (raise ..)
    exact modCluster _ _ _ rfl

theorem restoreTrap (s : State) (c : Nat) (x : Restoring) (f : State → TrapRec) : s.keepsPlaces (s.restoreTrap c x f) :=
  (modRegion ..).trans (raise ..)

end State.keepsPlaces

/-! ## A task that is put into a region -/

/-- Task t standsIn in region c. -/
def State.standsIn (s : State) (t c : Nat) : Prop := (s.cluster c).task = some t ∧ (s.task t).place = .region c

theorem State.standsIn.kept {s u : State} {t c : Nat} (h : s.standsIn t c) (k : s.keepsPlaces u) : u.standsIn t c :=
  ⟨(k.holder c).trans h.1, (k.place t).trans h.2⟩

theorem seize_standsIn (s : State) (t c delay : Nat) : (s.seize t c delay).standsIn t c := by
  refine ⟨(seize_holds s t c delay).1, ?_⟩
  unfold State.seize
  dsimp only
  rw [(State.tlbOnly.bindVreg ..).task, task_modCluster, task_modTask]

/-- A restored task resumes in the region that holds it. -/
theorem resumeAt_standsIn {s : State} {t c : Nat} (h : (s.cluster c).task = some t) (y : Task) : (s.resumeAt t c y).standsIn t c := by
  have h0 : (s.setTask t { y with snap := none, cmds := [], charged := [], place := .region c, eprio := (s.task t).eprio }).standsIn t c :=
    ⟨h, by rw [task_setTask]⟩
  have h1 := h0.kept (.requeue y.cmds c _)
  have h2 (u : State) (hu : u.standsIn t c) : (if y.charged.isEmpty then u else u.raiseHeld c).standsIn t c := by
    split
    · exact hu
    · exact hu.kept (.raiseHeld ..)
  unfold State.resumeAt
  dsimp only
  refine h2 _ ?_
  split
  · exact h1.kept (.setRegion ..)
  · exact h1.kept (.startAt ..)

theorem restoreFrom_standsIn {s : State} {t c : Nat} (h : s.standsIn t c) (x : Restoring) : (s.restoreFrom t c x).standsIn t c := by
  have hl := loadAreas_tlbOnly s { s.space c with priv := true } (s.task t) c x.csa x.bsa
  unfold State.restoreFrom
  split
  next e => rw [e] at hl; exact h.kept ((State.keepsPlaces.of_tlbOnly hl).trans (.modRegion ..))
  next e => rw [e] at hl; exact h.kept ((State.keepsPlaces.of_tlbOnly hl).trans (.restoreTrap ..))
  next e => rw [e] at hl; exact h.kept ((State.keepsPlaces.of_tlbOnly hl).trans (.restoreTrap ..))
  next e => rw [e] at hl; exact resumeAt_standsIn ((hl.holder c).trans h.1) _

theorem restore_standsIn {s : State} {t c : Nat} (h : s.standsIn t c) (csa bsa : Word) : (s.restore t c csa bsa).standsIn t c :=
  restoreFrom_standsIn (h.kept (.of_tlbOnly (.cleanSlices ..))) _

end Sys2Proof.Machine
end

section
/-!
SYSTEM OPERATIONS END (R206 to R211): invalidations, keys, saved and loaded contexts, tables, links and waits for events.
-/

namespace Sys2Proof.Machine

open Sys2Proof

/-! ## Invalidations (R206) -/

/-- An invalidation of an address, or of all of them, takes out an entry. -/
def TlbEntry.goesBy (e : TlbEntry) (asid : Nat) (a : Option Word) : Bool :=
  e.asid == asid && a.all (fun x => x.toNat / 2 ^ e.log == e.va / 2 ^ e.log)

/-- A cluster after an invalidation. -/
def Cluster.forgets (k : Cluster) (asid : Nat) (a : Option Word) : Cluster :=
  { k with tlb := k.tlb.filter (fun e => !e.goesBy asid a), cache := [] }

theorem cluster_invalidate (s : State) (p : Nat → Bool) (asid : Nat) (a : Option Word) (x : Nat) :
    (s.invalidate p asid a).cluster x = if p x then (s.cluster x).forgets asid a else s.cluster x := by
  have hf : (s.invalidate p asid a).clusters = s.clusters.mapV (fun c k => if p c then k.forgets asid a else k) := by
    unfold State.invalidate Cluster.forgets
    dsimp only
    congr 1
    funext c k
    cases p c
    · rfl
    · cases a <;> simp [TlbEntry.goesBy, bne]
  have hd : (if p x then (({} : Cluster)).forgets asid a else {}) = {} := by split <;> rfl
  have hg := Tbl.get_mapV (fun c k => if p c then Cluster.forgets k asid a else k) {} s.clusters x
  rw [hd] at hg
  rw [State.cluster, hf, hg]
  rfl

theorem goesBy_iff (e : TlbEntry) (op : SysOp) : e.goesBy op.asid (if op.b.getLsbD 0 then none else some op.a) = true ↔
    e.asid = op.asid ∧ (op.b.getLsbD 0 = true ∨ op.a.toNat / 2 ^ e.log = e.va / 2 ^ e.log) := by
  cases op.b.getLsbD 0 <;> simp [TlbEntry.goesBy]

/-! ## Requests of a far die that are done with -/

/-- All but the requests of a far die stays when a requester is done with its own. -/
theorem far_reached (s : State) (c : Nat) (w : Requester) (f : Nat) :
    (s.reached c w).far f = { s.far f with reqs := ((s.reached c w).far f).reqs } := by
  have hmod (u : State) (j : Nat) (g : Far → Far) (hg : ∀ d : Far, g d = { d with reqs := (g d).reqs }) :
      (u.modFar j g).far f = { u.far f with reqs := ((u.modFar j g).far f).reqs } := by
    by_cases hj : j = f
    · subst hj; rw [far_modFar]; exact hg _
    · rw [far_modFar_ne _ _ _ _ hj]
  unfold State.reached
  split
  · rfl
  · rw [hmod _ 1 _ (fun _ => rfl), hmod _ 0 _ (fun _ => rfl)]

/-- The requests of a far die on which a key is shut. -/
def Far.shut (d : Far) (key : Nat) : Far :=
  { d with reqs := d.reqs.map (fun r => if r.answered && r.key.toNat == key then { r with nack := true } else r) }

theorem revoke_eq (s : State) (key : Nat) : s.revoke key =
    ((s.modHub (fun h => { h with revoked := NSet.insert h.revoked key })).modFar 0 (fun d => d.shut key)).modFar 1 (fun d => d.shut key) := rfl

theorem far_revoke (s : State) (key : Nat) {d : Nat} (hd : d < 2) : (s.revoke key).far d = (s.far d).shut key := by
  rw [revoke_eq]
  obtain rfl | rfl : d = 0 ∨ d = 1 := by omega
  · rw [far_modFar_ne _ _ _ _ (by decide), far_modFar]; rfl
  · rw [far_modFar, far_modFar_ne _ _ _ _ (by decide)]; rfl

theorem Far.shut_nacks {d : Far} {key : Nat} {r : FarReq} (hr : r ∈ (d.shut key).reqs) (ha : r.answered = true) (hk : r.key.toNat = key) :
    r.nack = true := by
  obtain ⟨x, _, rfl⟩ := List.mem_map.mp hr
  split at ha
  next hx => rw [if_pos hx]
  next hx =>
    rw [if_neg hx] at hk
    simp [ha, hk] at hx

/-! ## The operations -/

/-- Region c holds system operation k, which fired before this cycle. -/
structure Ending (c k : Nat) (op : SysOp) (s : State) : Prop where
  found : s.sysopAt c k = some op
  fired : op.fired < s.now

section
variable {c k : Nat} {op : SysOp} {s : State} {f : FmtS} (h : Ending c k op s)
include h

theorem Ending.late : ¬ s.now ≤ op.fired := Nat.not_le.mpr h.fired

theorem exec_tlbinv (hi : op.ins = .tlbinv f) : exec (.tlbinvComplete c k) s =
    .next ((s.invalidate (tlbScope c (op.b.getLsbD 1)) op.asid (if op.b.getLsbD 0 then none else some op.a)).sysEnds c op true) := by
  show execTlbinvComplete c k s = _
  simp only [execTlbinvComplete, h.found, hi, if_neg h.late]

theorem exec_keyrev_refused (hi : op.ins = .keyrev f) (hv : op.val = false) : exec (.keyrevAck c k) s = .next (s.sysEnds c op false) := by
  show execKeyrevAck c k s = _
  simp only [execKeyrevAck, h.found, hi, if_neg h.late, hv, Bool.not_false, if_true]

/-- The switch after a `keyrev`. -/
def State.rekeyed (s : State) (op : SysOp) : State :=
  if op.b.getLsbD 0 then s.modHub (fun h => { h with revoked := NSet.erase h.revoked (bitsOf op.a 15 0) }) else s.revoke (bitsOf op.a 15 0)

theorem exec_keyrev (hi : op.ins = .keyrev f) (hv : op.val = true) : exec (.keyrevAck c k) s = .next ((s.rekeyed op).sysEnds c op true) := by
  show execKeyrevAck c k s = _
  simp only [execKeyrevAck, h.found, hi, if_neg h.late, hv, Bool.not_true, Bool.false_eq_true, if_false]
  rfl

omit h in
theorem rekeyed_facts (s : State) (op : SysOp) : (s.rekeyed op).mem = s.mem ∧ (s.rekeyed op).tasks = s.tasks ∧
    (s.rekeyed op).clusters = s.clusters ∧
    (∀ key, key ∈ (s.rekeyed op).hub.revoked ↔ if key = bitsOf op.a 15 0 then op.b.getLsbD 0 = false else key ∈ s.hub.revoked) ∧
    (∀ d < 2, ((s.rekeyed op).far d).reqs.length = (s.far d).reqs.length ∧ ∀ r ∈ ((s.rekeyed op).far d).reqs, op.b.getLsbD 0 = false →
      r.answered = true → r.key.toNat = bitsOf op.a 15 0 → r.nack = true) := by
  unfold State.rekeyed
  cases hb : op.b.getLsbD 0
  · refine ⟨rfl, rfl, rfl, fun key => ?_, fun d hd => ⟨?_, fun r hr _ ha hk => ?_⟩⟩
    · show key ∈ NSet.insert s.hub.revoked _ ↔ _
      rw [mem_insert]
      split
      next he => simp [he]
      next he => simp [he]
    · show ((s.revoke _).far d).reqs.length = _
      rw [far_revoke _ _ hd, Far.shut, List.length_map]
    · rw [if_neg (by decide), far_revoke _ _ hd] at hr
      exact Far.shut_nacks hr ha hk
  · refine ⟨rfl, rfl, rfl, fun key => ?_, fun d _ => ⟨rfl, fun _ _ hf => by cases hf⟩⟩
    show key ∈ NSet.erase s.hub.revoked _ ↔ _
    rw [NSet.erase]
    split
    next he => simp [he]
    next he => simp [he]

/-! ## Contexts that are saved (R208) -/

theorem exec_ctxsv_none (hi : op.ins = .ctxsv f) (hv : (s.cluster op.a.toNat).task = none) :
    exec (.ctxsvComplete c k) s = .next (s.sysEnds c op false) := by
  show execCtxsvComplete c k s = _
  simp only [execCtxsvComplete, h.found, hi, hv, Option.isNone_none, Bool.true_or, if_true]

section
variable {v t : Nat} (hi : op.ins = .ctxsv f) (hv : v = op.a.toNat) (ht : (s.cluster v).task = some t) (he : (s.task t).ending = false)
include hi hv ht he

/-- What the end of a `ctxsv` does with a region whose task lives. -/
theorem exec_ctxsv : exec (.ctxsvComplete c k) s = .next (
    if (s.region v).stoppedBy.isNone then s.modRegion v (fun r => { r with stoppedBy := some s.now })
    else if (s.region v).forced || !s.still v then s
    else
      let y := s.context v true 0
      let s1 := s.depart v y.snap.isSome.toNat (s.region v).frozen y op.b (savedBy t)
      if (s1.region v).stoppedBy.isSome then s1 else s1.sysEnds c op ((s1.task t).place == .saved)) := by
  subst hv
  have h0 : ((s.cluster op.a.toNat).task.isNone || (s.taskOf op.a.toNat).ending) = false := by rw [taskOf_some ht, ht, he]; rfl
  show execCtxsvComplete c k s = _
  simp only [execCtxsvComplete, h.found, hi]
  rw [if_neg (by rw [h0]; decide), taskIdOf_some ht]

theorem exec_ctxsv_stops (hs : (s.region v).stoppedBy = none) :
    exec (.ctxsvComplete c k) s = .next (s.modRegion v (fun r => { r with stoppedBy := some s.now })) := by
  rw [exec_ctxsv h hi hv ht he, hs]; rfl

theorem exec_ctxsv_waits (hs : (s.region v).stoppedBy.isSome = true) (hw : (s.region v).forced = true ∨ s.still v = false) :
    exec (.ctxsvComplete c k) s = .next s := by
  have hgo : ((s.region v).forced || !s.still v) = true := by
    rcases hw with e | e
    · rw [e]; rfl
    · rw [e, Bool.not_false, Bool.or_true]
  rw [exec_ctxsv h hi hv ht he, if_neg (by rw [← Option.not_isSome, hs]; decide), if_pos hgo]

section
variable (hs : (s.region v).stoppedBy.isSome = true) (hf : (s.region v).forced = false) (hst : s.still v = true)
include hs hf hst

theorem exec_ctxsv_departs : exec (.ctxsvComplete c k) s = .next (
    let y := s.context v true 0
    let s1 := s.depart v y.snap.isSome.toNat (s.region v).frozen y op.b (savedBy t)
    if (s1.region v).stoppedBy.isSome then s1 else s1.sysEnds c op ((s1.task t).place == .saved)) := by
  rw [exec_ctxsv h hi hv ht he, if_neg (by rw [← Option.not_isSome, hs]; decide), if_neg (by rw [hf, hst]; decide)]

omit h hi hv ht he hs hf hst in
/-- A region that is given up holds no task and starts afresh, and its task is saved. -/
theorem vacate_facts (v t : Nat) (s1 : State) (y : Task) : let u := savedBy t y ((s1.setTask t y).vacate v)
    (u.cluster v).task = none ∧ (u.region v) = {} ∧ (u.task t).place = .saved := by
  have hu : ∀ w : State, ((w.vacate v).cluster v).task = none ∧ (w.vacate v).region v = {} := by
    intro w
    unfold State.vacate
    dsimp only
    rw [(State.tlbOnly.bindVreg ..).holder, (State.tlbOnly.bindVreg ..).region, State.region, cluster_modCluster]
    exact ⟨rfl, rfl⟩
  obtain ⟨h1, h2⟩ := hu (s1.setTask t y)
  refine ⟨h1, h2, ?_⟩
  unfold savedBy
  rw [task_modTask]

theorem exec_ctxsv_saved {s1 : State} (hsave : s.saveAreas { s.space v with priv := true } (s.context v true 0) v
      (s.context v true 0).snap.isSome.toNat (s.region v).frozen op.b (s.bsaOf t) = .done s1 ()) :
    exec (.ctxsvComplete c k) s = .next ((savedBy t (s.context v true 0) ((s1.setTask t (s.context v true 0)).vacate v)).sysEnds c op true) := by
  obtain ⟨_, hr, hp⟩ := vacate_facts v t s1 (s.context v true 0)
  rw [exec_ctxsv_departs h hi hv ht he hs hf hst]
  dsimp only
  rw [State.depart, taskIdOf_some ht, hsave]
  dsimp only
  rw [hr, if_neg (by decide), hp]
  rfl

theorem exec_ctxsv_on_the_way {s1 : State} (hsave : s.saveAreas { s.space v with priv := true } (s.context v true 0) v
      (s.context v true 0).snap.isSome.toNat (s.region v).frozen op.b (s.bsaOf t) = .wait s1) :
    exec (.ctxsvComplete c k) s = .next s1 := by
  have hk := saveAreas_tlbOnly s { s.space v with priv := true } (s.context v true 0) v
    (s.context v true 0).snap.isSome.toNat (s.region v).frozen op.b (s.bsaOf t)
  rw [hsave] at hk
  have hstop : (s1.region v).stoppedBy.isSome = true := by
    have := hk.region v
    rw [Area.state] at this
    rw [this]; exact hs
  rw [exec_ctxsv_departs h hi hv ht he hs hf hst]
  dsimp only
  rw [State.depart, taskIdOf_some ht, hsave]
  dsimp only
  rw [if_pos hstop]

end
end

/-! ## Contexts that are loaded (R208) -/

theorem exec_ctxld_busy (hi : op.ins = .ctxld f) (hv : (s.cluster op.a.toNat).task.isSome = true) :
    exec (.ctxldComplete c k) s = .next (s.sysEnds c op false) := by
  show execCtxldComplete c k s = _
  simp only [execCtxldComplete, h.found, hi, if_neg h.late, hv, if_true]

/-- The end of a `ctxld`, by what became of its header. -/
def imageEnds (c : Nat) (op : SysOp) : Area Task → State
  | .done s1 y => (s1.loadImage op.a.toNat y op.b).sysEnds c op true
  | .wait s1 => s1
  | .fault s1 _ => s1.sysEnds c op false
  | .poison s1 => (s1.refuseImage c op.b).sysEnds c op false

theorem exec_ctxld (hi : op.ins = .ctxld f) (hv : (s.cluster op.a.toNat).task = none) :
    exec (.ctxldComplete c k) s = .next (imageEnds c op (s.imageAt c op.b)) := by
  show execCtxldComplete c k s = _
  simp only [execCtxldComplete, h.found, hi, if_neg h.late, hv, Option.isSome_none, Bool.false_eq_true, if_false]
  cases s.imageAt c op.b <;> rfl

omit h in
/-- The task of an image stands in its region. -/
theorem loadImage_standsIn (s : State) (v : Nat) (y : Task) (csa : Word) : (s.loadImage v y csa).standsIn y.key v := by
  have h1 := seize_standsIn (s.modTask y.key (fun x => x.fromImage y)) y.key v 0
  have h2 := h1.kept (.modCluster _ v (fun x => { x with wake := Nat.max x.wake (s.now + 1) }) rfl)
  have hh (u : State) (g : Hub → Hub) : u.keepsPlaces (u.modHub g) := .of_tlbOnly (.of_same rfl rfl)
  have h3 (g : Hub → Hub) := h2.kept (hh _ g)
  unfold State.loadImage
  dsimp only
  split
  · exact (h3 _).kept (.modRegion ..)
  · exact restore_standsIn (h3 _) _ _

/-! ## Slot tables (R209) -/

theorem exec_cfgld {n : Nat} (hi : op.ins = .cfgld f) (hn : n = f.sysno.toNat - 0x600) :
    exec (.cfgldComplete c k) s = .next (s.cfgldStep c n op) := by
  show execCfgldComplete c k s = _
  simp only [execCfgldComplete, h.found, hi, if_neg h.late, hn]

/-- The end of a `cfgld` whose places are known, by its way to them. -/
def State.tableEnds (s : State) (c n : Nat) (op : SysOp) (pas : List Nat) : Reach → State
  | .fault _ => ((s.walked (s.opSpace c op) op.a 12288 .read).reached c (.sysop op.id)).sysEnds c op false
  | .wait s1 => s1
  | .go => (((s.walked (s.opSpace c op) op.a 12288 .read).reached c (.sysop op.id)).findErrors pas).tableRead c n op
      (s.slotTable (s.opSpace c op) pas) (s.readBy (s.opSpace c op) pas op.bound)

omit h in
theorem cfgldStep_odd (n : Nat) (ha : op.a.toNat % 4096 ≠ 0) : s.cfgldStep c n op = s.sysEnds c op false := by
  rw [State.cfgldStep]
  exact if_pos (by simpa using ha)

section
omit h
variable (n : Nat) (ha : op.a.toNat % 4096 = 0)
include ha

theorem cfgldStep_closed (hw : s.walkOpen (s.opSpace c op) op.a 12288 = false) : s.cfgldStep c n op = s := by
  simp only [State.cfgldStep, ha, hw, bne_self_eq_false, Bool.false_eq_true, if_false, Bool.not_false, if_true]

variable (hw : s.walkOpen (s.opSpace c op) op.a 12288 = true)
include hw

theorem cfgldStep_fault {x : XFault} (hx : s.xlateBytes (s.opSpace c op) op.a 12288 .read = .error x) :
    s.cfgldStep c n op = (s.walked (s.opSpace c op) op.a 12288 .read).sysEnds c op false := by
  simp only [State.cfgldStep, ha, hw, hx, bne_self_eq_false, Bool.false_eq_true, if_false, Bool.not_true]

theorem cfgldStep_way {pas : List Nat} (hx : s.xlateBytes (s.opSpace c op) op.a 12288 .read = .ok pas) :
    s.cfgldStep c n op = s.tableEnds c n op pas
      ((s.walked (s.opSpace c op) op.a 12288 .read).reach c (.sysop op.id) (s.taskOf c).eprio (placed op.a pas)) := by
  simp only [State.cfgldStep, ha, hw, hx, bne_self_eq_false, Bool.false_eq_true, if_false, Bool.not_true]
  cases (s.walked (s.opSpace c op) op.a 12288 .read).reach c (.sysop op.id) (s.taskOf c).eprio (placed op.a pas) <;> rfl

end

/-- A far die that has read a table for its outbound or inbound side. -/
def Far.awaits (d : Far) (n now : Nat) (t : Tbl (BitVec 32)) : Far :=
  if n % 2 = 0 then { d with nextOut := some t, readyOut := now } else { d with nextInn := some t, readyInn := now }

omit h in
theorem awaits_facts (u : State) (n : Nat) (t : Tbl (BitVec 32)) (d : Far) (hd : u.far (n / 2) = { d with reqs := (u.far (n / 2)).reqs }) :
    let w := (u.modFar (n / 2) (fun d => d.awaits n u.now t)).far (n / 2)
    w.out = d.out ∧ w.inn = d.inn ∧
      (if n % 2 = 0 then w.nextOut = some t ∧ w.nextInn = d.nextInn else w.nextInn = some t ∧ w.nextOut = d.nextOut) := by
  intro w
  have hw : w = (u.far (n / 2)).awaits n u.now t := far_modFar ..
  rw [hw, hd, Far.awaits]
  split <;> exact ⟨rfl, rfl, rfl, rfl⟩

/-! ## Links (R210) -/

theorem exec_linkq_quiesce (hi : op.ins = .linkq f) (hb : op.b.getLsbD 8 = false) : exec (.linkqComplete c k) s =
    .next ((s.modLink op.a.toNat (fun l => { l with quiesced := true, up := false })).sysEnds c op true) := by
  show execLinkqComplete c k s = _
  simp only [execLinkqComplete, h.found, hi, if_neg h.late, hb, Bool.not_false, if_true]

theorem exec_linkq_resume (hi : op.ins = .linkq f) (hb : op.b.getLsbD 8 = true) : exec (.linkqComplete c k) s = .next (
    if (s.link op.a.toNat).training then s
    else if (s.link op.a.toNat).cur = 3 then s.sysEnds c op false
    else (s.modLink op.a.toNat (fun l => { l with quiesced := false, up := true })).sysEnds c op true) := by
  show execLinkqComplete c k s = _
  simp only [execLinkqComplete, h.found, hi, if_neg h.late, hb, Bool.not_true, Bool.false_eq_true, if_false]

/-! ## Waits for events (R211) -/

omit h in
/-- What the end of an `evwait` does, by the class it waits for. -/
theorem exec_evwait (h0 : s.sysopAt c k = some op) (hi : op.ins = .evwait f) : exec (.evwaitWake c k) s = .next (
    let n := s.waitClass c f
    if n != 0 && (s.taskOf c).latches.contains n then
      (s.modTaskOf c (fun t => { t with latches := NSet.erase t.latches n })).sysDone c op (mkPkt .i64 [n]) (mkPkt .i64 [s.now])
    else if op.a.toNat ≤ s.now && op.a != 0xFFFFFFFFFFFFFFFF then s.sysDone c op (mkPkt .i64 [0]) (mkPkt .i64 [s.now])
    else s) := by
  show execEvwaitWake c k s = _
  simp only [execEvwaitWake, h0, hi]

omit h in
theorem waitClass_eq (s : State) (c : Nat) (f : FmtS) :
    s.waitClass c f = if f.sysno = 4 ∧ (s.taskOf c).supg = false then 0 else f.sysno.toNat := by
  have h4 : f.sysno.toNat = 4 ↔ f.sysno = 4 := ⟨fun h => BitVec.eq_of_toNat_eq h, fun h => by rw [h]; rfl⟩
  simp only [State.waitClass, ← h4, Bool.and_eq_true, decide_eq_true_eq, Bool.not_eq_true']

end

theorem tableRead_some (s : State) (c n : Nat) (op : SysOp) (t : Tbl (BitVec 32)) (b : List Nat) : s.tableRead c n op (some t) b =
    (s.modFar (n / 2) (fun d => d.awaits n s.now t)).sysEnds c { op with bound := b } true := rfl

/-- A table that is read after a walk waits to switch in, and the tables in use stay. -/
theorem tableRead_waits {s w : State} (hw : s.walkOf w) (c n : Nat) (op : SysOp) (r : Requester) (pas : List Nat) (t : Tbl (BitVec 32))
    (b : List Nat) : ∃ u : State, ((w.reached c r).findErrors pas).tableRead c n op (some t) b = u.sysEnds c { op with bound := b } true ∧
      u.mem = s.mem ∧ (u.far (n / 2)).out = (s.far (n / 2)).out ∧ (u.far (n / 2)).inn = (s.far (n / 2)).inn ∧
      (if n % 2 = 0 then (u.far (n / 2)).nextOut = some t ∧ (u.far (n / 2)).nextInn = (s.far (n / 2)).nextInn
        else (u.far (n / 2)).nextInn = some t ∧ (u.far (n / 2)).nextOut = (s.far (n / 2)).nextOut) := by
  have hfar : ((w.reached c r).findErrors pas).far (n / 2) = { s.far (n / 2) with reqs := (((w.reached c r).findErrors pas).far (n / 2)).reqs } := by
    have hs1 : ((w.reached c r).findErrors pas).far (n / 2) = (w.reached c r).far (n / 2) := by simp only [State.far, findErrors_fars]
    rw [hs1, far_reached, hw.far]
  have hmem : ((w.reached c r).findErrors pas).mem = s.mem := by rw [findErrors_mem, reached_only]; exact hw.mem
  exact ⟨_, tableRead_some .., hmem, awaits_facts _ n t _ hfar⟩

/-- Settles O48: what each event does with its operation, and what the state then holds. -/
theorem systemOperationsEnd : Obligations.SystemOperationsEnd := by
  intro c k op s f hop hfired ends
  have h : Ending c k op s := ⟨hop, hfired⟩
  refine ⟨fun hi => ?_, fun hi => ⟨exec_keyrev_refused h hi, fun hv => ?_⟩, ?_, ?_, ?_, ?_, ?_, ?_⟩
  · refine ⟨_, exec_tlbinv h hi, rfl, fun x hx e => ?_, fun x hb hx => ?_⟩
    · have hin : tlbScope c (op.b.getLsbD 1) x = true := by simpa [tlbScope] using hx
      rw [cluster_invalidate, if_pos hin, ← goesBy_iff]
      simp [Cluster.forgets]
    · have hout : tlbScope c (op.b.getLsbD 1) x = false := by rw [tlbScope, hb]; simp [hx]
      rw [cluster_invalidate, hout]
      rfl
  · obtain ⟨hmem, htasks, hclus, hrev, hfar⟩ := rekeyed_facts s op
    exact ⟨_, exec_keyrev h hi hv, hmem, htasks, hclus, hrev, hfar⟩
  · rintro _ hi rfl hv
    exact exec_ctxsv_none h hi hv
  · intro v t hi hv ht he
    refine ⟨fun hs => ⟨_, exec_ctxsv_stops h hi hv ht he hs, ?_, rfl, rfl⟩, exec_ctxsv_waits h hi hv ht he, ?_⟩
    · rw [region_modRegion]
    · intro s1 hs hf hst _ y
      refine ⟨fun hsave => ?_, exec_ctxsv_on_the_way h hi hv ht he hs hf hst⟩
      obtain ⟨hnone, _, hp⟩ := vacate_facts v t s1 y
      exact ⟨_, exec_ctxsv_saved h hi hv ht he hs hf hst hsave, hnone, hp⟩
  · rintro v hi rfl
    refine ⟨exec_ctxld_busy h hi, fun s1 hv hat => ?_, fun s1 x hv hat => ?_, fun s1 hv hat => ?_, fun s1 y hv hat => ?_⟩
    · rw [exec_ctxld h hi hv, hat]; rfl
    · rw [exec_ctxld h hi hv, hat]; rfl
    · rw [exec_ctxld h hi hv, hat]; rfl
    · obtain ⟨htask, hplace⟩ := loadImage_standsIn s1 op.a.toNat y op.b
      exact ⟨_, by rw [exec_ctxld h hi hv, hat]; rfl, htask, hplace⟩
  · intro n hi hn sp s0 way kept
    refine ⟨fun ha => ?_, fun ha hw => ?_, fun x ha hw hx => ?_, fun pas ha hw hx => ⟨fun x hgo => ?_, fun s1 hgo => ?_, fun hgo ht => ?_,
      fun t hgo ht => ?_⟩⟩
    · rw [exec_cfgld h hi hn, cfgldStep_odd _ ha]; rfl
    · rw [exec_cfgld h hi hn, cfgldStep_closed _ ha hw]
    · rw [exec_cfgld h hi hn, cfgldStep_fault _ ha hw hx]; rfl
    · rw [exec_cfgld h hi hn, cfgldStep_way _ ha hw hx, show State.reach _ _ _ _ _ = _ from hgo]; rfl
    · rw [exec_cfgld h hi hn, cfgldStep_way _ ha hw hx, show State.reach _ _ _ _ _ = _ from hgo]; rfl
    · rw [exec_cfgld h hi hn, cfgldStep_way _ ha hw hx, show State.reach _ _ _ _ _ = _ from hgo, State.tableEnds, ht]; rfl
    · obtain ⟨u, hu, hfacts⟩ := tableRead_waits (walkOf_walked s sp op.a 12288 .read) c n op (.sysop op.id)
        pas t (s.readBy sp pas op.bound)
      refine ⟨u, ?_, hfacts⟩
      rw [exec_cfgld h hi hn, cfgldStep_way _ ha hw hx, show State.reach _ _ _ _ _ = _ from hgo, State.tableEnds, ht, hu]
      rfl
  · rintro m hi rfl
    refine ⟨fun hb => ⟨_, exec_linkq_quiesce h hi hb, ?_, ?_, fun j hj => link_modLink_ne _ _ _ _ hj.symm⟩, fun hb ht => ?_,
      fun hb ht hc => ?_, fun hb ht hc => ?_⟩
    · rw [link_modLink]
    · rw [link_modLink]; rfl
    · rw [exec_linkq_resume h hi hb, if_pos ht]
    · rw [exec_linkq_resume h hi hb, if_neg (by rw [ht]; decide), if_pos hc]; rfl
    · refine ⟨s.modLink op.a.toNat (fun l => { l with quiesced := false, up := true }), ?_, ?_, ?_⟩
      · rw [exec_linkq_resume h hi hb, if_neg (by rw [ht]; decide), if_neg hc]; rfl
      · rw [link_modLink]
      · rw [link_modLink]; simp [Link.carries, ht, hc]
  · rintro n hi hn htask
    rw [← waitClass_eq] at hn
    subst hn
    refine ⟨fun h0 hl => ⟨s.modTaskOf c (fun t => { t with latches := NSet.erase t.latches (s.waitClass c f) }), ?_, fun j => ?_⟩,
      fun hno ha hb => ?_, fun hno ha => ?_⟩
    · rw [exec_evwait hop hi]
      exact congrArg Host.Outcome.next (if_pos (by simp [h0, hl]))
    · rw [taskOf_modTaskOf htask]
      simp [NSet.erase]
    all_goals
      rw [exec_evwait hop hi]
      have hnot : ¬ (s.waitClass c f != 0 && (s.taskOf c).latches.contains (s.waitClass c f)) = true := by
        rcases hno with e | e <;> simp [e]
    · exact congrArg Host.Outcome.next ((if_neg hnot).trans (if_pos (by rw [Bool.and_eq_true, decide_eq_true_eq, bne_iff_ne]; exact ⟨ha, hb⟩)))
    · refine congrArg Host.Outcome.next ((if_neg hnot).trans (if_neg ?_))
      rcases ha with ha | ha <;> simp [ha]

end Sys2Proof.Machine
end

section
/-!
THE CLOCK (R204): what the package's functions do to their state leaves `now`, in the order of the model's definitions. A function
whose result is not a state alone leads to one that holds the same time stamp.
-/

namespace Sys2Proof.Machine

open Sys2Proof

/-- A firing that leaves the clock: what it does beside its tokens keeps `now`. -/
def Fire.timeless (f : Fire) : Prop := ∀ s id b, (f.post s id b).now = s.now
/-- A plan whose firing, if it is one, leaves the clock. It is stated by the firing, not by a case split on the plan: the kernel would
evaluate the plan to find its case. -/
def Plan.timeless (p : Plan) : Prop := ∀ f, p = .fire f → f.timeless
/-- The state that a piece of a command's work leads to. -/
@[simp] def Work.state : Work → State
  | .wait s _ | .trap s _ _ | .ends s _ _ | .done s _ => s
/-- The state that a read of a command leads to. -/
@[simp] def Got.state : Got → State
  | .got s _ _ | .wait s | .fault s _ => s

/-- The state that the performing of an access leads to; a parked one leads to the state `u` given. -/
@[simp] def Perf.state (u : State) : Perf → State
  | .fault s _ | .wait s | .done s _ _ _ => s
  | .park => u

@[simp] theorem foldl_now {α : Type} (g : State → α → State) (hg : ∀ s x, (g s x).now = s.now) (l : List α) (s : State) :
    (l.foldl g s).now = s.now := by
  induction l generalizing s with
  | nil => rfl
  | cons x l ih => rw [List.foldl_cons, ih, hg]

@[simp] theorem storeAll_now (s : State) (bs : List PByte) (at_ : Bool) (r : Option Release) (w : Option Nat)
    (bw : Bool) : (s.storeAll bs at_ r w bw).now = s.now := by
  unfold State.storeAll State.store; rfl
@[simp] theorem walked1_now (s sp a k) : (State.walked1 s sp a k).now = s.now := (walkOf_walked1 ..).now
theorem reach_wait_now {s t : State} {c prio : Nat} {w : Requester} {l : List (Word × Nat)} (h : s.reach c w prio l = .wait t) :
    t.now = s.now := by
  rw [reach_wait _ _ _ _ _ _ h]
@[simp] theorem coldReset_now (s : State) (k : Nat) : (s.coldReset k).now = s.now := rfl

@[simp] theorem requeue_now (l : List Cmd) (c : Nat) (s : State) : (s.requeue c l).now = s.now := by
  induction l generalizing s with
  | nil => rfl
  | cons q l ih => rw [State.requeue, ih, modCluster_now]

/-! ## Machine/Xlate.lean -/

@[simp] theorem walked_now (s : State) (sp : Space) (a : Word) (n : Nat) (k : AccKind) : (State.walked s sp a n k).now = s.now := by
  simp [State.walked]

/-! ## Machine/Reach.lean -/

@[simp] theorem askFar_now (s : State) (c : Nat) (who : Requester) (prio pa : Nat) : (State.askFar s c who prio pa).now = s.now := by
  simp [State.askFar]
@[simp] theorem reached_now (s : State) (c : Nat) (who : Requester) : (State.reached s c who).now = s.now := by
  unfold State.reached; split <;> simp
@[simp] theorem hubAsk_now (s : State) (pas : List Nat) : (State.hubAsk s pas).now = s.now := by
  unfold State.hubAsk; dsimp only; split <;> simp

/-! ## Machine/Save.lean -/

@[simp] theorem walkRuns_now (s : State) (sp : Space) (k : AccKind) (runs : List (Word × Nat)) :
    (State.walkRuns s sp k runs).now = s.now := by
  simp [State.walkRuns]

theorem saveAreas_now (s : State) (sp : Space) (t : Task) (clus kind : Nat) (why : Option TrapRec) (csa bsa : Word) :
    (s.saveAreas sp t clus kind why csa bsa).state.now = s.now := by
  unfold State.saveAreas
  dsimp only
  split
  · rfl
  · split
    next => simp
    next h => exact (reach_wait_now h).trans (walkRuns_now ..)
    next => split <;> simp

@[simp] theorem restoreLines_now (s : State) (clus lim : Nat) (bs : List Byte) : (State.restoreLines s clus lim bs).now = s.now := by
  simp [State.restoreLines]
@[simp] theorem emptyLines_now (s : State) (clus : Nat) : (State.emptyLines s clus).now = s.now := by
  simp [State.emptyLines]
@[simp] theorem clearAbove_now (s : State) (clus lim : Nat) : (State.clearAbove s clus lim).now = s.now := by
  unfold State.clearAbove; dsimp only; split <;> simp
@[simp] theorem copyBack_now (s : State) (src dst : List Nat) : (State.copyBack s src dst).now = s.now := by
  unfold State.copyBack; split <;> simp
@[simp] theorem unpack_now (s : State) (t : Task) (clus : Nat) (pls : List (List Nat)) : (State.unpack s t clus pls).1.now = s.now := by
  unfold State.unpack; split <;> simp

theorem loadAreas_now (s : State) (sp : Space) (t : Task) (clus : Nat) (csa bsa : Word) :
    (s.loadAreas sp t clus csa bsa).state.now = s.now := by
  unfold State.loadAreas
  dsimp only
  split
  · rfl
  · split
    · simp
    · split
      next => simp
      next h => exact (reach_wait_now h).trans (walkRuns_now ..)
      next => split <;> simp

@[simp] theorem foundAt_now (s : State) (sp : Space) (a : Word) (n : Nat) : (State.foundAt s sp a n).now = s.now := by
  unfold State.foundAt; split <;> simp

/-! ## Machine/Ops.lean -/

@[simp] theorem strand_now (s : State) (c slot n : Nat) : (State.strand s c slot n).now = s.now := by
  unfold State.strand; split <;> simp
@[simp] theorem freeze_now (s : State) (c : Nat) (x : TrapRec) : (State.freeze s c x).now = s.now := by
  unfold State.freeze; dsimp only; repeat' split
  all_goals simp
@[simp] theorem raise_now (s : State) (c0 : Nat) (x0 : TrapRec) : (State.raise s c0 x0).now = s.now := by
  unfold State.raise; dsimp only; repeat' split
  all_goals simp
@[simp] theorem raiseHeld_now (s : State) (c : Nat) : (State.raiseHeld s c).now = s.now := by
  unfold State.raiseHeld; split <;> simp
@[simp] theorem unfreeze_now (s : State) (c : Nat) : (State.unfreeze s c).now = s.now := by
  unfold State.unfreeze; split <;> simp
@[simp] theorem resume_now (s : State) (c : Nat) : (State.resume s c).now = s.now := by
  unfold State.resume; split <;> simp
@[simp] theorem strip_now (s : State) (c : Nat) : (State.strip s c).now = s.now := by
  simp [State.strip]
@[simp] theorem kill1_now (s : State) (c : Nat) : (State.kill1 s c).now = s.now := by
  unfold State.kill1; split <;> simp
@[simp] theorem kill_now (s : State) (c : Nat) : (State.kill s c).now = s.now := by
  unfold State.kill; split <;> simp
@[simp] theorem toRestore_now (s : State) (c : Nat) (x : Restoring) : (State.toRestore s c x).now = s.now := by
  simp [State.toRestore]
@[simp] theorem restoreTrap_now (s : State) (c : Nat) (x : Restoring) (f : State → TrapRec) : (State.restoreTrap s c x f).now = s.now := by
  simp [State.restoreTrap]

@[simp] theorem rollPoint_now (s : State) (c : Nat) : (s.rollPoint c).now = s.now := by
  have hl := loadAreas_now s { s.space c with priv := true } (s.points.get {} (s.taskOf c).id) c (s.pointRestoring c).csa (s.pointRestoring c).bsa
  unfold State.rollPoint
  dsimp only
  split
  · simp
  · split
    next h => rw [h] at hl; simpa using hl
    next h => rw [h] at hl; simpa using hl
    next h => rw [h] at hl; simpa using hl
    next h => rw [h] at hl; split <;> simpa using hl

@[simp] theorem rollback1_now (s : State) (c : Nat) : (State.rollback1 s c).now = s.now := by
  simp [State.rollback1]
@[simp] theorem rollback_now (s : State) (c : Nat) : (State.rollback s c).now = s.now := by
  unfold State.rollback; split <;> simp

theorem commit_now {f : Fire} (hf : f.timeless) (s : State) : (s.commit f).now = s.now := by
  unfold State.commit
  dsimp only
  rw [hf]
  split <;> simp

@[simp] theorem discard_now (s : State) (pops : List Nat) : (State.discard s pops).now = s.now := by
  simp [State.discard]

theorem carryOut_now {p : Plan} (hp : p.timeless) (s : State) : (s.carryOut p).now = s.now := by
  cases p with
  | wait => rfl
  | stall => rfl
  | discard pops => exact discard_now ..
  | fire f =>
    unfold State.carryOut
    dsimp only
    split
    · exact commit_now (hp f rfl) s
    · rfl
  | trap needs code sub a b c =>
    unfold State.carryOut
    dsimp only
    split
    · exact raise_now ..
    · rfl

/-! ## Machine/Sems.lean -/

@[simp] theorem post_now (s : State) (t cls : Nat) : (State.post s t cls).now = s.now := by
  simp [State.post]
@[simp] theorem postJob_now (s : State) (job cls : Nat) : (State.postJob s job cls).now = s.now := by
  simp [State.postJob]
@[simp] theorem addSem_now (s : State) (key inc : Nat) (bound : List Nat) : (State.addSem s key inc bound).now = s.now := by
  simp [State.addSem]
@[simp] theorem putSem_now (s : State) (key v : Nat) (bound : List Nat) : (State.putSem s key v bound).now = s.now := by
  simp [State.putSem]
@[simp] theorem irrevoke_now (s : State) (c : Nat) : (State.irrevoke s c).now = s.now := by
  simp [State.irrevoke]

@[simp] theorem noteWrites_now (s : State) (before : State) (t : Nat) : (s.noteWrites before t).now = s.now := by
  unfold State.noteWrites
  split
  · rfl
  · simp

@[simp] theorem pushItem_now (s : State) (c node what id : Nat) (body : List Word) :
    (State.pushItem s c node what id body).now = s.now := by
  simp [State.pushItem]
@[simp] theorem raisePoison_now (s : State) (o : Origin) (kind : Nat) : (State.raisePoison s o kind).now = s.now := by
  simp [State.raisePoison]

/-! ## Machine/Inbox.lean -/

@[simp] theorem inboxWrite_now (s : State) (i : Icb) (src kind : Nat) (body : List (Byte × Bool)) :
    (State.inboxWrite s i src kind body).1.now = s.now := by
  simp [State.inboxWrite]
@[simp] theorem inboxCommit_now (s : State) (i : Icb) (upto : Nat) (bound : List Nat) : (State.inboxCommit s i upto bound).now = s.now := by
  simp [State.inboxCommit]
@[simp] theorem inboxTake_now (s : State) (i : Icb) (len : Nat) : (State.inboxTake s i len).now = s.now := by
  simp [State.inboxTake]

/-- A signal that goes. -/
theorem signal_now {s u : State} {t : Task} {n inc : Nat} {b : List Nat} (h : s.signal t n inc b = .ok u) : u.now = s.now := by
  unfold State.signal at h
  dsimp only at h
  split at h
  · cases h
  · split at h
    · cases h
    · cases h; simp

theorem inboxSignal_now {s u : State} {i : Icb} {t : Nat} {b : List Nat} (h : s.inboxSignal i t b = .ok u) : u.now = s.now := by
  unfold State.inboxSignal at h
  split at h
  · cases h; rfl
  · exact signal_now h

@[simp] theorem sendToken_now (s : State) (c i pa kind : Nat) (t : Token) (bound : List Nat) :
    (s.sendToken c i pa kind t bound).now = s.now := by
  unfold State.sendToken
  dsimp only
  split
  next h => rw [inboxSignal_now h]; simp
  next => simp

@[simp] theorem initIcb_now (s : State) (pa cap owner : Nat) : (State.initIcb s pa cap owner).now = s.now := by
  simp [State.initIcb]

/-! ## Machine/Router.lean -/

@[simp] theorem modGroup_now (s : State) (c k : Nat) (g : Group → Group) : (State.modGroup s c k g).now = s.now := by
  simp [State.modGroup]
@[simp] theorem endReplica_now (s : State) (t : Nat) : (State.endReplica s t).now = s.now := by
  unfold State.endReplica; split <;> simp
@[simp] theorem dropMembers_now (s : State) (c k : Nat) : (State.dropMembers s c k).now = s.now := by
  simp [State.dropMembers]
@[simp] theorem sendAll_now (s : State) (l : Sends) (bound : List Nat) : (State.sendAll s l bound).now = s.now := by
  unfold State.sendAll; split <;> simp

/-! ## Machine/BlockCtl.lean -/

@[simp] theorem startLoad_now (s : State) (c : Nat) (blk : Word) : (State.startLoad s c blk).now = s.now := by
  simp [State.startLoad]
@[simp] theorem select_now (s : State) (c : Nat) (x : Sel) : (State.select s c x).now = s.now := by
  unfold State.select; dsimp only; repeat' split
  all_goals simp
@[simp] theorem exitFired_now (s : State) (c : Nat) (x : Sel) : (State.exitFired s c x).now = s.now := by
  unfold State.exitFired; split <;> simp

/-! ## Machine/Sched.lean -/

@[simp] theorem hubWrite_now (s : State) (sp : Space) (a : Word) (bs : List Byte) (rel : Option Release) (jobno : Nat) :
    (State.hubWrite s sp a bs rel jobno).now = s.now := by
  unfold State.hubWrite; split <;> simp
@[simp] theorem setVreg_now (s : State) (j v : Nat) (x : VReg) : (State.setVreg s j v x).now = s.now := by
  simp [State.setVreg]
@[simp] theorem bindVreg_now (s : State) (t : Nat) (c : Option Nat) : (State.bindVreg s t c).now = s.now := by
  unfold State.bindVreg; dsimp only; repeat' split
  all_goals simp
@[simp] theorem setPool_now (s : State) (d : Nat) (l : List Nat) : (State.setPool s d l).now = s.now := by
  simp [State.setPool]
@[simp] theorem toPool_now (s : State) (t : Nat) : (State.toPool s t).now = s.now := by
  simp [State.toPool]
@[simp] theorem toBench_now (s : State) (t c : Nat) (head : Bool) : (State.toBench s t c head).now = s.now := by
  unfold State.toBench; split <;> simp
@[simp] theorem unqueue_now (s : State) (t : Nat) : (State.unqueue s t).now = s.now := by
  unfold State.unqueue; split <;> simp
@[simp] theorem addTask_now (s : State) (key : Nat) (x : Task) : (State.addTask s key x).now = s.now := by
  simp [State.addTask]
@[simp] theorem cancelWaiting_now (s : State) (c : Nat) : (State.cancelWaiting s c).now = s.now := by
  simp [State.cancelWaiting]
@[simp] theorem vacate_now (s : State) (c : Nat) : (State.vacate s c).now = s.now := by
  simp [State.vacate]

theorem depart_now {place : Task → State → State} (hp : ∀ x s, (place x s).now = s.now) (s : State) (c kind : Nat) (why : Option TrapRec)
    (x : Task) (csa : Word) : (s.depart c kind why x csa place).now = s.now := by
  have hs := saveAreas_now s { s.space c with priv := true } x c kind why csa (s.bsaOf (s.taskIdOf c))
  unfold State.depart
  dsimp only
  split
  next h => rw [h] at hs; exact hs
  next h => rw [h] at hs; simpa using hs
  next h => rw [h] at hs; simpa [hp] using hs
  next h => rw [h] at hs; exact hs

@[simp] theorem release_now (s : State) (t : Nat) (bound : List Nat) : (s.release t bound).now = s.now :=
  foldl_now _ (fun st x => by dsimp only; split <;> simp) _ _
@[simp] theorem onEndSignal_now (s : State) (e : OnEnd) (bound : List Nat) : (State.onEndSignal s e bound).now = s.now := by
  unfold State.onEndSignal; dsimp only; repeat' split
  all_goals simp
@[simp] theorem msiX_now (s : State) (v : Nat) : (State.msiX s v).now = s.now := by
  unfold State.msiX; split <;> simp
@[simp] theorem jobEnd_now (s : State) (n : Nat) : (State.jobEnd s n).now = s.now := by
  unfold State.jobEnd; dsimp only; split <;> simp
@[simp] theorem countEnd_now (s : State) (t : Nat) (bound : List Nat) : (State.countEnd s t bound).now = s.now := by
  unfold State.countEnd; dsimp only; repeat' split
  all_goals simp
@[simp] theorem cancel_now (s : State) (t : Nat) : (State.cancel s t).now = s.now := by
  simp [State.cancel]
@[simp] theorem endTask_now (s : State) (t : Nat) : (State.endTask s t).now = s.now := by
  unfold State.endTask; dsimp only; repeat' split
  all_goals simp

/-! ## Machine/Place.lean -/

@[simp] theorem startAt_now (s : State) (c modc blk : Nat) (held : List TrapRec) : (State.startAt s c modc blk held).now = s.now := by
  simp [State.startAt]
@[simp] theorem lapse_now (s : State) (t c : Nat) : (State.lapse s t c).now = s.now := by
  unfold State.lapse; split <;> simp
@[simp] theorem seize_now (s : State) (t c delay : Nat) : (State.seize s t c delay).now = s.now := by
  simp [State.seize]
@[simp] theorem firstRun_now (s : State) (t c : Nat) : (State.firstRun s t c).now = s.now := by
  unfold State.firstRun; split <;> simp
@[simp] theorem cleanSlices_now (s : State) (t c : Nat) : (State.cleanSlices s t c).now = s.now := by
  unfold State.cleanSlices; split <;> simp
@[simp] theorem resumeAt_now (s : State) (t c : Nat) (y : Task) : (State.resumeAt s t c y).now = s.now := by
  unfold State.resumeAt; dsimp only; repeat' split
  all_goals simp

@[simp] theorem restoreFrom_now (s : State) (t c : Nat) (x : Restoring) : (s.restoreFrom t c x).now = s.now := by
  have hl := loadAreas_now s { s.space c with priv := true } (s.task t) c x.csa x.bsa
  unfold State.restoreFrom
  split
  next h => rw [h] at hl; simpa using hl
  next h => rw [h] at hl; simpa using hl
  next h => rw [h] at hl; simpa using hl
  next h => rw [h] at hl; simpa using hl

@[simp] theorem restore_now (s : State) (t c : Nat) (csa bsa : Word) : (State.restore s t c csa bsa).now = s.now := by
  simp [State.restore]

@[simp] theorem restoreOn_now (s : State) (c : Nat) : (State.restoreOn s c).now = s.now := by
  unfold State.restoreOn
  repeat' split
  all_goals simp

@[simp] theorem install_now (s : State) (t c delay : Nat) : (State.install s t c delay).now = s.now := by
  unfold State.install; split <;> simp

/-! ## Machine/Mirror.lean -/

@[simp] theorem mismatch_now (s : State) (c item ord : Nat) : (State.mismatch s c item ord).now = s.now := by
  unfold State.mismatch; dsimp only; repeat' split
  all_goals simp
@[simp] theorem modBoth_now (s : State) (q : Cmd) (f : Task → Task) : (State.modBoth s q f).now = s.now := by
  unfold State.modBoth; split <;> simp
@[simp] theorem cmdIrrevoke_now (s : State) (q : Cmd) : (State.cmdIrrevoke s q).now = s.now := by
  simp [State.cmdIrrevoke]

/-! ## Machine/Engine.lean -/

@[simp] theorem rregRead_now (s : State) (c : Nat) (i : Instr) (l : Word) (bound : List Nat) :
    (State.rregRead s c i l bound).now = s.now := by
  unfold State.rregRead; dsimp only; repeat' split
  all_goals simp

/-! ## Machine/Matrix.lean -/

@[simp] theorem modDot_now (s : State) (c cell : Nat) (f : Dot → Dot) : (State.modDot s c cell f).now = s.now := by
  simp [State.modDot]
@[simp] theorem dotDone_now (s : State) (c cell : Nat) (o : DotOp) (lat : Nat) : (State.dotDone s c cell o lat).now = s.now := by
  simp [State.dotDone]
@[simp] theorem drainStore_now (s : State) (c cell : Nat) (o : DotOp) : (State.drainStore s c cell o).now = s.now := by
  unfold State.drainStore; dsimp only; repeat' split
  all_goals simp

/-! ## Machine/Access.lean -/

@[simp] theorem accessWalked_now (s : State) (c : Nat) (a : Access) (age : Nat) : (State.accessWalked s c a age).now = s.now := by
  simp [State.accessWalked]
@[simp] theorem dropAccess_now (s : State) (c id : Nat) : (State.dropAccess s c id).now = s.now := by
  simp [State.dropAccess]

@[simp] theorem finishAccess_now (s : State) (c : Nat) (a : Access) (t0 : Option Token) (t1 : Token) (bound : List Nat) :
    (State.finishAccess s c a t0 t1 bound).now = s.now := by
  unfold State.finishAccess; dsimp only; repeat' split
  all_goals simp

@[simp] theorem rewind_now (s : State) (c : Nat) (a : Access) : (State.rewind s c a).now = s.now := by
  simp [State.rewind]
@[simp] theorem accessFault_now (s : State) (c : Nat) (a : Access) (x : XFault) : (State.accessFault s c a x).now = s.now := by
  unfold State.accessFault; dsimp only; repeat' split
  all_goals simp
@[simp] theorem park_now (s : State) (c : Nat) (a : Access) : (State.park s c a).now = s.now := by
  simp [State.park]

theorem performLine_now {s u : State} (hu : u.now = s.now) (c : Nat) (a : Access) (pas bound : List Nat) (age : Nat) :
    ((s.performLine c a pas bound age).state u).now = s.now := by
  unfold State.performLine
  dsimp only
  split
  · split
    · exact hu
    · split <;> simp
  · split
    · exact hu
    · simp
  · simp
  · simp

theorem performAtomic_now (s u : State) (c : Nat) (a : Access) (pas bound : List Nat) :
    ((s.performAtomic c a pas bound).state u).now = s.now := by
  unfold State.performAtomic
  dsimp only
  repeat' split
  all_goals simp

theorem performAt_now {s u : State} (hu : u.now = s.now) (c : Nat) (a : Access) (pas bound : List Nat) (age : Nat) :
    ((s.performAt c a pas bound age).state u).now = s.now := by
  unfold State.performAt
  split
  case h_1 | h_2 => exact findErrors_now ..
  case h_3 | h_4 => exact storeAll_now ..
  case h_5 | h_6 | h_7 | h_8 => exact performLine_now hu ..
  case h_9 => exact performAtomic_now ..

theorem perform_now (s : State) (c : Nat) (a : Access) (age : Nat) : ((s.perform c a age).state s).now = s.now := by
  have hw : (s.accessWalked c a age).now = s.now := (walkOf_accessWalked ..).now
  unfold State.perform
  dsimp only
  split
  · rfl
  · rfl
  · rfl
  · split <;> simp
  · split
    · rfl
    · split
      · exact hw
      · split
        · exact hw
        · split
          · exact hw
          · split
            next => simp [hw]
            next h => exact (reach_wait_now h).trans hw
            next => rw [performAt_now (by simp [hw])]; simp [hw]

@[simp] theorem runAccess_now (s : State) (c : Nat) (a : Access) (age : Nat) : (s.runAccess c a age).now = s.now := by
  have hp := perform_now s c a age
  unfold State.runAccess
  split
  next h => rw [h] at hp; simpa using hp
  next h => rw [h] at hp; exact hp
  next => split <;> simp
  next h => rw [h] at hp; simpa using hp

/-! ## Machine/MemOps.lean -/

@[simp] theorem sendItem_now (s : State) (c : Nat) (a : Access) : (State.sendItem s c a).now = s.now := by
  unfold State.sendItem; split <;> simp

@[simp] theorem askEarly_now (s : State) (c : Nat) (a : Access) : (s.askEarly c a).now = s.now := by
  unfold State.askEarly
  split
  · rfl
  · split
    · rfl
    · split
      next h => exact reach_wait_now h
      next => rfl

/-! ## Machine/SysRegs.lean -/

@[simp] theorem doorbell_now (s : State) (v : Word) : (State.doorbell s v).now = s.now := by
  unfold State.doorbell; dsimp only; repeat' split
  all_goals simp
@[simp] theorem hkill_now (s : State) (v : Word) : (State.hkill s v).now = s.now := by
  unfold State.hkill; dsimp only; split <;> simp
@[simp] theorem linkGo_now (s : State) (m : Nat) : (State.linkGo s m).now = s.now := by
  unfold State.linkGo; dsimp only; repeat' split
  all_goals simp
@[simp] theorem rollover_now (s : State) (f : Nat) : (State.rollover s f).now = s.now := by
  simp [State.rollover]
@[simp] theorem writeLink_now (s0 : State) (m n : Nat) (v : Word) : (State.writeLink s0 m n v).now = s0.now := by
  unfold State.writeLink; dsimp only; repeat' split
  all_goals simp
@[simp] theorem writePackage_now (s0 : State) (m : Option Nat) (n : Nat) (v : Word) : (State.writePackage s0 m n v).now = s0.now := by
  unfold State.writePackage; dsimp only; repeat' split
  all_goals simp
@[simp] theorem writeReg_now (s : State) (c n : Nat) (v : Word) : (State.writeReg s c n v).now = s.now := by
  unfold State.writeReg; dsimp only; repeat' split
  all_goals simp

/-! ## Machine/Wave.lean -/

@[simp] theorem at_now (s : State) (c i : Nat) : (State.at s c i).now = s.now := by
  simp [State.at]
@[simp] theorem dropGates_now (s : State) (c : Nat) (all : Bool) : (s.dropGates c all).now = s.now :=
  foldl_now _ (fun st e => by dsimp only; split <;> simp) _ _
@[simp] theorem retire_now (s : State) (c i : Nat) : (State.retire s c i).now = s.now := by
  simp [State.retire]
@[simp] theorem flip_now (s : State) (c i : Nat) : (State.flip s c i).now = s.now := by
  unfold State.flip; dsimp only; repeat' split
  all_goals simp
@[simp] theorem purgeGroup_now (s : State) (c i : Nat) (x : Instr) (g : List Nat) : (State.purgeGroup s c i x g).now = s.now := by
  unfold State.purgeGroup; dsimp only; repeat' split
  all_goals simp

/-! ## Machine/Boundary.lean -/

@[simp] theorem keepImage_now (s : State) (c blk : Nat) (im : Image) : (State.keepImage s c blk im).now = s.now := by
  unfold State.keepImage
  repeat' split
  all_goals simp

@[simp] theorem absorbWrites_now (s : State) (c : Nat) : (State.absorbWrites s c).now = s.now := by
  simp [State.absorbWrites]

@[simp] theorem landWrite_now (s : State) (c : Nat) (x : Nat × WriteEntry) : (State.landWrite s c x).now = s.now := by
  unfold State.landWrite
  repeat' split
  all_goals simp

@[simp] theorem landAll_now (s : State) (c : Nat) : (State.landAll s c).now = s.now := by
  simp [State.landAll]
@[simp] theorem stepTrap_now (s : State) (c code sub : Nat) (a b cc : Word) : (State.stepTrap s c code sub a b cc).now = s.now := by
  simp [State.stepTrap]

theorem stackFrame_now {go : State → List Nat → State} (hg : ∀ s l, (go s l).now = s.now) (s : State) (c : Nat) (a : Word) (k : AccKind) :
    (s.stackFrame c a k go).now = s.now := by
  unfold State.stackFrame
  dsimp only
  split
  · rfl
  · split
    · simp
    · split
      next => simp
      next h => exact (reach_wait_now h).trans (walked_now ..)
      next => simp [hg]

@[simp] theorem parkRegs_now (s : State) (c : Nat) (im : Image) : (s.parkRegs c im).now = s.now := by
  unfold State.parkRegs
  dsimp only
  split
  · simp
  · split
    · simp
    · split
      · simp
      · exact stackFrame_now (fun _ _ => by simp) ..

@[simp] theorem unparkFrom_now (s : State) (c : Nat) (inPark : Bool) (bs : List Byte) (bad : Bool) (b : List Nat) :
    (State.unparkFrom s c inPark bs bad b).now = s.now := by
  unfold State.unparkFrom; dsimp only; repeat' split
  all_goals simp

@[simp] theorem unparkRegs_now (s : State) (c : Nat) : (s.unparkRegs c).now = s.now := by
  unfold State.unparkRegs
  dsimp only
  split
  · simp
  · split
    · simp
    · exact stackFrame_now (fun _ _ => by simp) ..

theorem takePoint_now (s : State) (c : Nat) (x : Task) (snap : Bool) : (s.takePoint c x snap).state.now = s.now := by
  have hs := saveAreas_now s { s.space c with priv := true } x c snap.toNat none (csaAt (s.job x.job) (128 + x.vreg.getD 0))
    (bsaAt (s.job x.job) (128 + x.vreg.getD 0))
  unfold State.takePoint
  dsimp only
  split
  next h =>
    rw [h] at hs
    rw [Area.state]
    split <;> simpa using hs
  next => exact hs

@[simp] theorem toStep_now (s : State) (c n : Nat) : (State.toStep s c n).now = s.now := by
  simp [State.toStep]
@[simp] theorem raiseLoad_now (s : State) (c : Nat) (sh : Shadow) (f : LoadFail) : (State.raiseLoad s c sh f).now = s.now := by
  simp [State.raiseLoad]

@[simp] theorem step3_now (s : State) (c : Nat) : (State.step3 s c).now = s.now := by
  unfold State.step3
  repeat' split
  all_goals simp

@[simp] theorem landDue_now (s : State) (c : Nat) : (State.landDue s c).now = s.now := by
  simp [State.landDue]
@[simp] theorem step4_now (s : State) (c : Nat) : (State.step4 s c).now = s.now := by
  simp [State.step4]
@[simp] theorem landLate_now (s : State) (c : Nat) : (State.landLate s c).now = s.now := by
  unfold State.landLate; split <;> simp
@[simp] theorem step5_now (s : State) (c : Nat) : (State.step5 s c).now = s.now := by
  unfold State.step5; dsimp only; repeat' split
  all_goals simp
@[simp] theorem step6_now (s : State) (c : Nat) : (State.step6 s c).now = s.now := by
  simp [State.step6]
@[simp] theorem step7_now (s : State) (c : Nat) : (State.step7 s c).now = s.now := by
  unfold State.step7; dsimp only; repeat' split
  all_goals simp

@[simp] theorem step8_now (s : State) (c : Nat) : (s.step8 c).now = s.now := by
  have hp (y : Bool) (t : Nat) (g : Option Nat) (x : Task) (u : State) : ((if y then yielded t c else preempted t c g) x u).now = u.now := by
    cases y <;> exact toBench_now ..
  unfold State.step8
  extract_lets r t yields at_ s1
  split
  · simp
  · split
    · simp [s1]
    · split
      · simp [s1]
      · rw [depart_now (hp _ _ _)]; simp [s1]

@[simp] theorem step9_now (s : State) (c : Nat) : (s.step9 c).now = s.now := by
  have hp := takePoint_now s c (s.context c false ((s.region c).target.getD 0)) false
  unfold State.step9
  extract_lets r rpt on
  split
  · rfl
  · split
    · exact modRegion_now ..
    · split
      next h => rw [h] at hp; exact (raise_now ..).trans hp
      next h => rw [h] at hp; exact hp
      next h => rw [h] at hp; exact hp
      next h => rw [h] at hp; exact (modRegion_now ..).trans hp

@[simp] theorem boundaryStep_now (s : State) (c : Nat) : (State.boundaryStep s c).now = s.now := by
  unfold State.boundaryStep; dsimp only; repeat' split
  all_goals simp
@[simp] theorem startRead_now (s : State) (c e : Nat) (x : ReadEntry) : (State.startRead s c e x).now = s.now := by
  unfold State.startRead; dsimp only; repeat' split
  all_goals simp
@[simp] theorem startBlock_now (s : State) (c : Nat) (sh : Shadow) (im : Image) : (State.startBlock s c sh im).now = s.now := by
  unfold State.startBlock; split <;> simp

/-! ## Machine/Pattern.lean -/

@[simp] theorem walkedValue_now (s : State) (sp : Space) (d : Desc) (k : Nat) (kind : AccKind) :
    (State.walkedValue s sp d k kind).now = s.now := by
  unfold State.walkedValue; dsimp only; repeat' split
  all_goals simp

/-! ## Machine/EngineOps.lean -/

@[simp] theorem putCmd_now (s : State) (c : Nat) (q : Cmd) : (State.putCmd s c q).now = s.now := by
  simp [State.putCmd]
@[simp] theorem dropCmd_now (s : State) (c id : Nat) : (State.dropCmd s c id).now = s.now := by
  simp [State.dropCmd]
@[simp] theorem cmdReached_now (s : State) (c : Nat) (q : Cmd) : (State.cmdReached s c q).now = s.now := by
  simp [State.cmdReached]
@[simp] theorem cmdGo_now (s : State) (c : Nat) (q : Cmd) (n : Nat) : (State.cmdGo s c q n).now = s.now := by
  simp [State.cmdGo]
@[simp] theorem cmdTrap_now (s : State) (c : Nat) (q : Cmd) (x : TrapRec) : (State.cmdTrap s c q x).now = s.now := by
  unfold State.cmdTrap; split <;> simp

theorem withDesc_now {go : State → List Nat → List Byte → State} (hg : ∀ s l d, (go s l d).now = s.now) (s : State) (c : Nat) (q : Cmd) :
    (s.withDesc c q go).now = s.now := by
  unfold State.withDesc
  dsimp only
  split
  · rfl
  · split
    · simp
    · split
      next => simp
      next h => exact (reach_wait_now h).trans (walked_now ..)
      next => split <;> simp [hg]

@[simp] theorem waitStep_now (s : State) (c : Nat) (q : Cmd) : (State.waitStep s c q).now = s.now := by
  unfold State.waitStep; dsimp only; repeat' split
  all_goals simp
@[simp] theorem setTileState_now (s : State) (q : Cmd) (n : Nat) (st : TileState) : (State.setTileState s q n st).now = s.now := by
  simp [State.setTileState]

@[simp] theorem claimStep_now (s : State) (c : Nat) (q : Cmd) : (s.claimStep c q).now = s.now := by
  unfold State.claimStep
  split
  · rfl
  · refine withDesc_now (fun u l d => ?_) ..
    dsimp only
    repeat' split
    all_goals simp

@[simp] theorem freeTiles_now (s : State) (q : Cmd) : (State.freeTiles s q).now = s.now := by
  unfold State.freeTiles; split <;> simp
@[simp] theorem clearSector_now (s : State) (part : List (Nat × Nat)) (sec : Nat) : (State.clearSector s part sec).now = s.now := by
  unfold State.clearSector; dsimp only; split <;> simp
@[simp] theorem cmdStore_now (s : State) (c : Nat) (q : Cmd) (bs : List PByte) : (State.cmdStore s c q bs).1.now = s.now := by
  unfold State.cmdStore; split <;> simp

theorem cmdGet_now (s : State) (c : Nat) (q : Cmd) (a : Word) (n : Nat) : (s.cmdGet c q a n).state.now = s.now := by
  unfold State.cmdGet
  dsimp only
  split
  · rfl
  · split
    · simp
    · split
      next => simp
      next h => exact (reach_wait_now h).trans (walked_now ..)
      next => simp

theorem copyOut_now (c : Nat) (dst : Word) (n : Nat) (s : State) (q : Cmd) (pas : List Nat) :
    (s.copyOut c q dst n pas).state.now = s.now := by
  induction n generalizing s q pas with
  | zero => rfl
  | succ n ih =>
    unfold State.copyOut
    dsimp only
    split
    · rfl
    · split
      next h => exact reach_wait_now h
      next => simp
      next => rw [ih]; simp

theorem copyIn_now (s : State) (c : Nat) (q : Cmd) (src : Word) (len : Nat) : (s.copyIn c q src len).state.now = s.now := by
  have hg := cmdGet_now s c q src len
  unfold State.copyIn
  split
  · rfl
  · split
    next h => rw [h] at hg; exact hg
    next h => rw [h] at hg; exact hg
    next h => rw [h] at hg; simpa using hg

theorem workCopy_now (s : State) (c : Nat) (q : Cmd) (limit : Option Nat) : (s.workCopy c q limit).state.now = s.now := by
  unfold State.workCopy
  obtain ⟨src, dst, len⟩ := s.copySides q
  have hi := copyIn_now s c q src len
  dsimp -zeta only
  generalize s.copyIn c q src len = w at hi ⊢
  cases w with
  | done s0 q1 =>
    dsimp -zeta only
    extract_lets n at_
    obtain ⟨pas, bad⟩ := s0.placesTo (s0.cmdSpace c q1) at_ n
    have ho : ((s0.walked (s0.cmdSpace c q1) at_ n .write).copyOut c q1 dst n pas).state.now = s0.now := by rw [copyOut_now, walked_now]
    dsimp only
    split
    · exact hi
    · split
      next hc => rw [hc] at ho; exact ho.trans hi
      next => exact ho.trans hi
  | wait | trap | ends => exact hi

theorem putElem_now (s : State) (c : Nat) (q : Cmd) (a : Word) (from_ : List (List Nat)) (bs : List (Byte × Bool)) :
    (s.putElem c q a from_ bs).state.now = s.now := by
  unfold State.putElem
  dsimp only
  split
  · rfl
  · split
    · exact walked_now ..
    · split
      next => simp
      next h => exact (reach_wait_now h).trans (walked_now ..)
      next => simp

theorem getIndex_now {go : State → List Nat → Int → Bool → Work} (hg : ∀ s l x b, (go s l x b).state.now = s.now) (s : State) (c : Nat)
    (q : Cmd) (m : Moves) (k : Nat) : (s.getIndex c q m k go).state.now = s.now := by
  have hi := cmdGet_now s c q (m.idx + BitVec.ofNat 64 (k * m.isz)) m.isz
  unfold State.getIndex
  split
  next h => rw [h] at hi; exact hi
  next h => rw [h] at hi; exact hi
  next h => rw [h] at hi; rw [hg]; exact hi

theorem moveElem_now (s : State) (c : Nat) (q : Cmd) (ip : List Nat) (src dst : Word) (n : Nat) :
    (s.moveElem c q ip src dst n).state.now = s.now := by
  have hi := cmdGet_now s c q src n
  unfold State.moveElem
  split
  next h => rw [h] at hi; exact hi
  next h => rw [h] at hi; exact hi
  next h => rw [h] at hi; rw [putElem_now]; exact hi

theorem gatherOne_now (s : State) (c : Nat) (q : Cmd) (m : Moves) (k : Nat) : (s.gatherOne c q m k).state.now = s.now := by
  refine getIndex_now (fun u l x b => ?_) ..
  cases b
  · exact moveElem_now ..
  · exact putElem_now ..

theorem scatterOne_now (s : State) (c : Nat) (q : Cmd) (m : Moves) (k : Nat) : (s.scatterOne c q m k).state.now = s.now := by
  refine getIndex_now (fun u l x b => ?_) ..
  cases b
  · exact moveElem_now ..
  · exact (findErrors_now ..).trans (cmdReached_now ..)

theorem moveAll_now (c : Nat) (m : Moves) (into : Bool) (n : Nat) (s : State) (q : Cmd) (k : Nat) :
    (s.moveAll c q m into k n).state.now = s.now := by
  induction n generalizing s q k with
  | zero => rfl
  | succ n ih =>
    have h1 : (if into then s.gatherOne c q m k else s.scatterOne c q m k).state.now = s.now := by
      split
      · exact gatherOne_now ..
      · exact scatterOne_now ..
    unfold State.moveAll
    split
    next h => rw [h] at h1; rw [ih]; exact h1
    next => exact h1

theorem workMoves_now (s : State) (c : Nat) (q : Cmd) (into : Bool) (limit : Option Nat) : (s.workMoves c q into limit).state.now = s.now :=
  moveAll_now ..
theorem workBind_now (s : State) (c : Nat) (q : Cmd) : (State.workBind s c q).state.now = s.now := by
  unfold State.workBind; dsimp only; repeat' split
  all_goals simp

theorem zeroFill_now (c : Nat) (d : Desc) (n : Nat) (s : State) (q : Cmd) (k : Nat) : (s.zeroFill c q d k n).state.now = s.now := by
  induction n generalizing s q k with
  | zero => rfl
  | succ n ih =>
    unfold State.zeroFill
    dsimp only
    split
    · rfl
    · split
      · exact walkedValue_now ..
      · split
        next => simp
        next h => exact (reach_wait_now h).trans (walkedValue_now ..)
        next => rw [ih]; simp

theorem workFree_now (s : State) (c : Nat) (q : Cmd) (limit : Option Nat) : (s.workFree c q limit).state.now = s.now := by
  unfold State.workFree
  split
  next => rfl
  next p _ =>
    extract_lets left n
    have hz := zeroFill_now c p.desc n s q (p.ord + q.done / p.desc.size)
    split
    next s1 q1 h =>
      rw [h] at hz
      have hz : s1.now = s.now := hz
      cases limit <;> simpa using hz
    next => exact hz

@[simp] theorem dieOfVreg_now (s : State) (job v : Nat) : (State.dieOfVreg s job v).1.now = s.now := by
  unfold State.dieOfVreg; dsimp only; split <;> simp

theorem queueNew_now {s u : State} {t c : Nat} (h : s.queueNew t c = some u) : u.now = s.now := by
  unfold State.queueNew at h
  dsimp only at h
  split at h
  · split at h
    · cases h
    · cases h; simp
  · split at h
    · cases h
    · cases h; simp

theorem kickTask_now (s : State) (c : Nat) (q : Cmd) (onend : List OnEnd) : (s.kickTask c q onend).state.now = s.now := by
  unfold State.kickTask
  dsimp only
  split
  · rfl
  · split
    · rfl
    · split
      next => rfl
      next h => exact (queueNew_now h).trans (by simp)

theorem kickJob_now (s : State) (c : Nat) (q : Cmd) (onend : List OnEnd) : (State.kickJob s c q onend).state.now = s.now := by
  unfold State.kickJob; split <;> simp

theorem workKick_now (s : State) (c : Nat) (q : Cmd) : (s.workKick c q).state.now = s.now := by
  have hg (l : List OnEnd) : (if (cmdFmt q.ins).flg.getLsbD 0 then s.kickJob c q l else s.kickTask c q l).state.now = s.now := by
    split
    · exact kickJob_now ..
    · exact kickTask_now ..
  unfold State.workKick
  dsimp only
  split
  · rfl
  · exact hg _
  · exact hg _

@[simp] theorem grant_now (s : State) (c : Nat) (q : Cmd) (grp m n cap : Nat) (clusters : List Nat) (x : Nat) :
    (s.grant c q grp m n cap clusters x).1.now = s.now := by
  unfold State.grant
  generalize s.replicaTask c q grp m n cap clusters = t, replicaIcb x = a, returnIcb c grp m = b
  exact (modTask_now ..).trans ((initIcb_now ..).trans ((initIcb_now ..).trans ((install_now ..).trans (addTask_now ..))))

@[simp] theorem grantAll_now (c : Nat) (q : Cmd) (grp n cap : Nat) (cl l : List Nat) (m : Nat) (s : State) :
    (s.grantAll c q grp n cap cl m l).1.now = s.now := by
  induction l generalizing m s with
  | nil => rfl
  | cons x l ih =>
    unfold State.grantAll
    exact (ih ..).trans (grant_now ..)

theorem workRepl_now (s : State) (c : Nat) (q : Cmd) : (s.workRepl c q).state.now = s.now := by
  unfold State.workRepl
  extract_lets f grp want cap
  split
  · rfl
  · exact grantAll_now ..

theorem workVote_now (s : State) (q : Cmd) : (State.workVote s q).state.now = s.now := by
  simp [State.workVote]

theorem setSem_now {s u : State} {t : Task} {n v : Nat} {b : List Nat} (h : s.setSem t n v b = .ok u) : u.now = s.now := by
  unfold State.setSem at h
  split at h
  · cases h
  · split at h
    · cases h
    · cases h; simp

theorem workSet_now (s : State) (c : Nat) (q : Cmd) : (s.workSet c q).state.now = s.now := by
  unfold State.workSet
  split
  · rfl
  · split
    next => rfl
    next h => exact setSem_now h

theorem work_now (s : State) (c : Nat) (q : Cmd) (limit : Option Nat) : (s.work c q limit).state.now = s.now := by
  unfold State.work
  split
  · exact workBind_now ..
  · exact workFree_now ..
  · exact workCopy_now ..
  · exact workMoves_now ..
  · exact workMoves_now ..
  · exact workKick_now ..
  · exact workRepl_now ..
  · exact workVote_now ..
  · exact workSet_now ..
  all_goals rfl

@[simp] theorem landResult_now (s : State) (c id : Nat) (v : Option Word) : (State.landResult s c id v).now = s.now := by
  unfold State.landResult; dsimp only; repeat' split
  all_goals simp
@[simp] theorem deliverCmd_now (s : State) (c id : Nat) (q : Cmd) (ok : Bool) : (State.deliverCmd s c id q ok).now = s.now := by
  simp [State.deliverCmd]
@[simp] theorem finishCmd_now (s : State) (c : Nat) (q : Cmd) (ok : Bool) : (State.finishCmd s c q ok).now = s.now := by
  unfold State.finishCmd; dsimp only; repeat' split
  all_goals simp

@[simp] theorem signalStep_now (s : State) (c : Nat) (q : Cmd) : (s.signalStep c q).now = s.now := by
  unfold State.signalStep
  split
  · simp
  · split
    · simp
    · split
      · simp
      · split
        next => simp
        next h => exact (finishCmd_now ..).trans (signal_now h)

@[simp] theorem worked_now (s : State) (c : Nat) (q : Cmd) : (State.worked s c q).now = s.now := by
  unfold State.worked; split <;> simp
@[simp] theorem endCmd_now (s : State) (c : Nat) (q : Cmd) (x : TrapRec) : (State.endCmd s c q x).now = s.now := by
  unfold State.endCmd; split <;> simp

/-! ## Machine/EngineEvents.lean -/

@[simp] theorem descStep_now (s : State) (c : Nat) (q : Cmd) : (s.descStep c q).now = s.now := by
  unfold State.descStep
  split
  · simp
  · refine withDesc_now (fun u l d => ?_) ..
    split <;> simp

@[simp] theorem prefixSignal_now (s : State) (c : Nat) (q : Cmd) : (s.prefixSignal c q).now = s.now := by
  unfold State.prefixSignal
  split
  · rfl
  · split
    next => simp
    next h => exact Eq.trans (by simp) (signal_now h)

@[simp] theorem sendStep_now (s : State) (c : Nat) (q : Cmd) : (s.sendStep c q).now = s.now := by
  have hg := cmdGet_now s c q (wordAt q.desc 8) (fieldAt q.desc 16 4)
  unfold State.sendStep
  dsimp only
  split
  · rfl
  · split
    · simp
    · split
      · simp
      · split
        · rfl
        · split
          · simp
          · split
            · rfl
            · split
              next h => rw [h] at hg; exact (cmdTrap_now ..).trans hg
              next h => rw [h] at hg; exact hg
              next h => rw [h] at hg; exact Eq.trans (by simp) hg

@[simp] theorem publishStep_now (s : State) (c : Nat) (q : Cmd) : (s.publishStep c q).now = s.now := by
  unfold State.publishStep
  split
  · rfl
  · extract_lets b upto s1
    have h1 : s1.now = s.now := by
      simp only [s1]
      split <;> simp
    split
    · rfl
    · split
      · exact h1
      · split
        next => exact (cmdTrap_now ..).trans h1
        next h => exact ((worked_now ..).trans (inboxSignal_now h)).trans h1

@[simp] theorem invalidate_now (s : State) (inScope : Nat → Bool) (asid : Nat) (a : Option Word) :
    (State.invalidate s inScope asid a).now = s.now := by
  simp [State.invalidate]
@[simp] theorem pageWalked_now (s : State) (c : Nat) (q : Cmd) (i : Nat) : (State.pageWalked s c q i).now = s.now := by
  simp [State.pageWalked]
@[simp] theorem pagesWalked_now (s : State) (c : Nat) (q : Cmd) (n : Nat) : (State.pagesWalked s c q n).now = s.now := by
  simp [State.pagesWalked]
@[simp] theorem putPte_now (s : State) (q : Cmd) (m : Migr) (e : Nat) : (State.putPte s q m e).now = s.now := by
  simp [State.putPte]
@[simp] theorem stackAtomic_now (s : State) (q : Cmd) (tier n : Nat) (more : List PByte) :
    (State.stackAtomic s q tier n more).1.now = s.now := by
  simp [State.stackAtomic]
@[simp] theorem copyPage_now (s : State) (src dst : Nat) : (State.copyPage s src dst).now = s.now := by
  simp [State.copyPage]
@[simp] theorem movePage_now (s : State) (c : Nat) (q : Cmd) (a : Word) (l : Leaf) (pa n : Nat) :
    (State.movePage s c q a l pa n).now = s.now := by
  simp [State.movePage]

@[simp] theorem startPage_now (s : State) (c : Nat) (q : Cmd) : (s.startPage c q).now = s.now := by
  unfold State.startPage
  dsimp only
  split
  · simp
  · split
    · simp
    · split
      · simp
      · split
        · rfl
        · split
          · simp
          · split
            next => simp
            next h => exact reach_wait_now h
            next => simp

@[simp] theorem endPage_now (s : State) (c : Nat) (q : Cmd) (m : Migr) : (State.endPage s c q m).now = s.now := by
  unfold State.endPage; split <;> simp

@[simp] theorem migrate_now (s : State) (c : Nat) (q : Cmd) : (s.migrate c q).now = s.now := by
  unfold State.migrate
  extract_lets n
  split
  · simp
  · generalize (if q.result = 0 then s.pagesFault c q n else none) = x
    cases x with
    | some x => exact (cmdTrap_now ..).trans (pagesWalked_now ..)
    | none =>
      dsimp only
      split <;> simp

/-! ## Machine/LinkEvents.lean -/

@[simp] theorem postAll_now (s : State) (cls : Nat) (p : Task → Bool) : (State.postAll s cls p).now = s.now := by
  simp [State.postAll]
@[simp] theorem linkEvent_now (s : State) (m : Nat) : (State.linkEvent s m).now = s.now := by
  simp [State.linkEvent]

@[simp] theorem countRetry_now (s : State) (m : Nat) : (s.countRetry m).now = s.now := by
  unfold State.countRetry
  extract_lets l n hit s1
  split
  · rfl
  · split <;> simp [s1]

@[simp] theorem autoRetrain_now (s : State) (m : Nat) : (State.autoRetrain s m).now = s.now := by
  simp [State.autoRetrain]

/-! ## Machine/Mgmt.lean -/

@[simp] theorem hostWrite_now (s : State) (addr : Nat) (data : List Byte) : (State.hostWrite s addr data).now = s.now := by
  unfold State.hostWrite; dsimp only; split <;> simp
@[simp] theorem hostRead_now (s : State) (addr len : Nat) : (State.hostRead s addr len).now = s.now := by
  simp [State.hostRead]

/-! ## Machine/Streams.lean -/

@[simp] theorem setPort_now (s : State) (c p : Nat) (x : Port) : (State.setPort s c p x).now = s.now := by
  simp [State.setPort]
@[simp] theorem sendFetch_now (s : State) (c p : Nat) (x : Port) : (State.sendFetch s c p x).now = s.now := by
  unfold State.sendFetch; split <;> simp
@[simp] theorem walkedRun_now (s : State) (sp : Space) (d : Desc) (k m : Nat) (kind : AccKind) : (s.walkedRun sp d k m kind).now = s.now :=
  foldl_now _ (fun _ _ => by split <;> simp) _ _

theorem valueReach_now {s t : State} {c n k : Nat} {p : Port} {kind : AccKind} {b : Bool} (h : s.valueReach c n p k kind = (.wait t, b)) :
    t.now = s.now := by
  unfold State.valueReach at h
  dsimp only at h
  split at h
  · cases h; rfl
  · split at h
    · split at h
      · exact reach_wait_now (Prod.mk.inj h).1
      · cases h
    · exact reach_wait_now (Prod.mk.inj h).1

theorem runReach_now {c n : Nat} {p : Port} {k : Nat} {kind : AccKind} {m : Nat} {s t : State} {b : Bool}
    (h : s.runReach c n p k kind m = .ok (b, t)) : t.now = s.now := by
  induction m generalizing t b with
  | zero => cases h; rfl
  | succ m ih =>
    unfold State.runReach at h
    split at h
    · cases h
    next hm =>
      split at h
      next => cases h; exact ih hm
      next hv => cases h; exact (valueReach_now hv).trans (ih hm)
      next =>
        split at h
        · cases h
        · cases h; exact ih hm

@[simp] theorem fetched_now (s : State) (c p : Nat) (x : Port) : (s.fetched c p x).now = s.now := by
  unfold State.fetched
  dsimp only
  split
  next => simp
  next h => exact (runReach_now h).trans (walkedRun_now ..)
  next => simp

@[simp] theorem deliverElem_now (s : State) (c e : Nat) (x : ReadEntry) (el : Elem) (gate : Option Origin) (bound : List Nat) :
    (State.deliverElem s c e x el gate bound).now = s.now := by
  simp [State.deliverElem]
@[simp] theorem entryActed_now (s : State) (c e : Nat) (done : Bool) : (State.entryActed s c e done).now = s.now := by
  simp [State.entryActed]
@[simp] theorem eosPast_now (s : State) (c : Nat) : (State.eosPast s c).now = s.now := by
  simp [State.eosPast]
@[simp] theorem gateTake_now (s : State) (c e : Nat) : (State.gateTake s c e).now = s.now := by
  simp [State.gateTake]

@[simp] theorem gateStep_now (s : State) (c e : Nat) (x : ReadEntry) (n : Nat) (p : Port) (drop : Bool) :
    (State.gateStep s c e x n p drop).now = s.now := by
  unfold State.gateStep; dsimp only; repeat' split
  all_goals simp

@[simp] theorem pushTrap_now (s : State) (c e : Nat) (code sub : Nat) (a cc : Word) : (State.pushTrap s c e code sub a cc).now = s.now := by
  simp [State.pushTrap]
@[simp] theorem pushStore_now (s : State) (c : Nat) (both : Option Nat) (places : List (List Nat)) (vals : List Nat) (bad : Bool) :
    (State.pushStore s c both places vals bad).now = s.now := by
  unfold State.pushStore; dsimp only; split <;> simp
@[simp] theorem pushDone_now (s : State) (c e n : Nat) (p : Port) (to_ cycles : Nat) (bound : List Nat) :
    (State.pushDone s c e n p to_ cycles bound).now = s.now := by
  simp [State.pushDone]

@[simp] theorem push_now (s : State) (c e n : Nat) (p : Port) (t : QTok) (both : Option Nat) : (s.push c e n p t both).now = s.now := by
  unfold State.push
  split
  · simp
  · dsimp only
    split
    next => simp
    next h => exact (runReach_now h).trans (walkedRun_now ..)
    next =>
      split
      · simp
      · simp
      · split <;> simp

@[simp] theorem sendPush_now (s : State) (c e : Nat) (p : Port) (t : QTok) : (State.sendPush s c e p t).now = s.now := by
  unfold State.sendPush; split <;> simp
@[simp] theorem pushStep_now (s : State) (c e n : Nat) (p : Port) (t : QTok) : (State.pushStep s c e n p t).now = s.now := by
  unfold State.pushStep; split <;> simp

/-! ## Machine/Tick.lean -/

@[simp] theorem grantPermits_now (s : State) (c : Nat) : (State.grantPermits s c).now = s.now := by
  simp [State.grantPermits]
@[simp] theorem dropEosAt_now (s : State) (c i slot : Nat) : (State.dropEosAt s c i slot).now = s.now := by
  unfold State.dropEosAt; dsimp only; repeat' split
  all_goals simp
@[simp] theorem dropEos_now (s : State) (c : Nat) : (State.dropEos s c).now = s.now := by
  simp [State.dropEos]
@[simp] theorem spend_now (s : State) (c : Nat) : (State.spend s c).now = s.now := by
  unfold State.spend; dsimp only; repeat' split
  all_goals simp
@[simp] theorem dropLateGates_now (s : State) (c : Nat) : (State.dropLateGates s c).now = s.now := by
  unfold State.dropLateGates; split <;> simp

/-! ## Machine/Probes.lean -/

@[simp] theorem deadlock_now (s : State) (p : Probe) : (State.deadlock s p).now = s.now := by
  unfold State.deadlock; dsimp only; split <;> simp
@[simp] theorem setProbe_now (s : State) (k : Nat) (p : Option Probe) : (State.setProbe s k p).now = s.now := by
  simp [State.setProbe]

/-! ## Machine/SchedEvents.lean -/

@[simp] theorem cardFound_now (s : State) (k : Card) : (State.cardFound s k).now = s.now := by
  unfold State.cardFound; split <;> simp
@[simp] theorem badCard_now (s : State) (k : Card) (reason : Nat) (h : List Byte) : (State.badCard s k reason h).now = s.now := by
  unfold State.badCard; dsimp only; split <;> simp
@[simp] theorem createAll_now (s : State) (j : Job) (es : List (Nat × Entry × Nat)) (bound : List Nat) :
    (State.createAll s j es bound).now = s.now := by
  unfold State.createAll; split <;> simp

@[simp] theorem startJob_now (s : State) (k : Card) (h : List Byte) (es : List Entry) (dies : List Nat) (clus base : Nat) :
    (s.startJob k h es dies clus base).now = s.now := by
  unfold State.startJob
  extract_lets no semn j s1 s2 s3 all s4
  refine (foldl_now _ (fun st x => ?_) _ _).trans ((createAll_now ..).trans (hubWrite_now ..))
  dsimp only
  split <;> simp

@[simp] theorem dispatchUnit_now (s : State) (t c delay : Nat) : (State.dispatchUnit s t c delay).now = s.now := by
  unfold State.dispatchUnit; split <;> simp

@[simp] theorem ask_now (s : State) (c w : Nat) (byAge : Bool) : (s.ask c w byAge).now = s.now := by
  unfold State.ask
  extract_lets u put
  refine (foldl_now _ (fun st x => ?_) _ _).trans (modCluster_now ..)
  split
  · split
    · rfl
    · exact modCluster_now ..
  · rfl

@[simp] theorem halt_now (s : State) (c : Nat) : (State.halt s c).now = s.now := by
  unfold State.halt; split <;> simp

/-! ## Machine/Recovery.lean -/

@[simp] theorem goOn_now (s : State) (c : Nat) : (State.goOn s c).now = s.now := by
  unfold State.goOn; split <;> simp
@[simp] theorem damageQueue_now (s : State) (c i slot k : Nat) : (State.damageQueue s c i slot k).now = s.now := by
  simp [State.damageQueue]
@[simp] theorem damageGate_now (s : State) (c e k : Nat) : (State.damageGate s c e k).now = s.now := by
  simp [State.damageGate]
@[simp] theorem damageWrite_now (s : State) (c e k : Nat) : (State.damageWrite s c e k).now = s.now := by
  simp [State.damageWrite]
@[simp] theorem damageDot_now (s : State) (c cell : Nat) (f : Dot → Dot) : (State.damageDot s c cell f).now = s.now := by
  simp [State.damageDot]
@[simp] theorem controlError_now (s : State) (c unit cell slot : Nat) : (State.controlError s c unit cell slot).now = s.now := by
  unfold State.controlError; dsimp only; repeat' split
  all_goals simp
@[simp] theorem dropItems_now (s : State) (x y : Item) : (State.dropItems s x y).now = s.now := by
  simp [State.dropItems]

@[simp] theorem matchAccess_now (s : State) (c c' : Nat) (x y : Item) : (s.matchAccess c c' x y).now = s.now := by
  unfold State.matchAccess
  split
  next a _ _ _ =>
    have hp := perform_now s c a s.lag
    split
    next h => rw [h] at hp; exact hp
    next => rfl
    next h => rw [h] at hp; exact Eq.trans (by simp) hp
    next h => rw [h] at hp; exact Eq.trans (by simp) hp
  next => simp

@[simp] theorem matchCommand_now (s : State) (c : Nat) (x y : Item) : (State.matchCommand s c x y).now = s.now := by
  unfold State.matchCommand; split <;> simp
@[simp] theorem matchFetch_now (s : State) (c c' p : Nat) (x y : Item) : (State.matchFetch s c c' p x y).now = s.now := by
  unfold State.matchFetch; dsimp only; repeat' split
  all_goals simp
@[simp] theorem matched_now (s : State) (c c' : Nat) (x y : Item) : (State.matched s c c' x y).now = s.now := by
  unfold State.matched; dsimp only; repeat' split
  all_goals simp

/-! ## Machine/Ring.lean -/

@[simp] theorem modWindow_now (s : State) (c cmd : Nat) (f : Window → Window) : (State.modWindow s c cmd f).now = s.now := by
  simp [State.modWindow]
@[simp] theorem dropWindow_now (s : State) (c cmd : Nat) : (State.dropWindow s c cmd).now = s.now := by
  simp [State.dropWindow]

@[simp] theorem retarget_now (s : State) (c : Nat) (w : Window) : (State.retarget s c w).now = s.now := by
  unfold State.retarget
  repeat' split
  all_goals simp

@[simp] theorem retargetAll_now (s : State) : (State.retargetAll s).now = s.now := by
  simp [State.retargetAll]
@[simp] theorem markBadEnt_now (s : State) (bad : Bool) : (State.markBadEnt s bad).now = s.now := by
  unfold State.markBadEnt; split <;> simp
@[simp] theorem noted_now (s : State) : (State.noted s).now = s.now := by
  simp [State.noted]
@[simp] theorem listRead_now (s : State) (list : List LapEntry) (bad : Bool) : (State.listRead s list bad).now = s.now := by
  simp [State.listRead]
@[simp] theorem beginLap_now (s : State) (list : List LapEntry) (bad : Bool) (die : Nat) : (State.beginLap s list bad die).now = s.now := by
  simp [State.beginLap]
@[simp] theorem endLaps_now (s : State) (bad : Bool) : (State.endLaps s bad).now = s.now := by
  simp [State.endLaps]
@[simp] theorem feed_now (s : State) (x : RingTile) : (State.feed s x).now = s.now := by
  simp [State.feed]
@[simp] theorem injectAt_now (s : State) (ent die src layer index : Nat) : (State.injectAt s ent die src layer index).now = s.now := by
  unfold State.injectAt; dsimp only; split <;> simp
@[simp] theorem injectNext_now (s : State) : (State.injectNext s).now = s.now := by
  unfold State.injectNext; dsimp only; repeat' split
  all_goals simp
@[simp] theorem openWindow_now (s : State) (c : Nat) (q : Cmd) (w : Window) : (State.openWindow s c q w).now = s.now := by
  simp [State.openWindow]

@[simp] theorem register_now (s : State) (c : Nat) (q : Cmd) (w : Window) : (State.register s c q w).now = s.now := by
  unfold State.register
  repeat' split
  all_goals simp

@[simp] theorem openWindows_now (s : State) (c : Nat) : (State.openWindows s c).now = s.now := by
  simp [State.openWindows]
@[simp] theorem takeCopy_now (s : State) (c : Nat) (w : Window) (n : Nat) (x : RingTile) : (State.takeCopy s c w n x).now = s.now := by
  simp [State.takeCopy]
@[simp] theorem failCopy_now (s : State) (c : Nat) (w : Window) (n : Nat) (x : RingTile) : (State.failCopy s c w n x).now = s.now := by
  unfold State.failCopy; dsimp only; repeat' split
  all_goals simp
@[simp] theorem holdTile_now (s : State) (c : Nat) (w : Window) (n : Nat) (f : XFault) : (State.holdTile s c w n f).now = s.now := by
  unfold State.holdTile; dsimp only; split <;> simp
@[simp] theorem checked_now (s : State) (c : Nat) (w : Window) (n : Nat) (x : RingTile) : (State.checked s c w n x).now = s.now := by
  unfold State.checked; split <;> simp

@[simp] theorem checkTile_now (s : State) (c : Nat) (x : RingTile) (bad : Bool) : (s.checkTile c x bad).now = s.now := by
  unfold State.checkTile
  refine (foldl_now _ (fun st w => ?_) _ _).trans (modRing_now ..)
  split
  · rfl
  · split <;> simp

@[simp] theorem lines_now (s : State) (c : Nat) (q : Cmd) (x : RingTile) (pa n : Nat) (ls : List Nat) :
    (s.lines c q x pa n ls).1.now = s.now := by
  unfold State.lines
  extract_lets src
  refine List.foldlRecOn (motive := fun st : State × Cmd => st.1.now = s.now) ls _ rfl (fun st h l _ => ?_)
  exact (cmdStore_now ..).trans h

theorem landTile_now {s u : State} {c : Nat} {q r : Cmd} {w : Window} {n : Nat} {x : RingTile} {ls : List Nat}
    (h : s.landTile c q w n x ls = .ok (u, r)) : u.now = s.now := by
  have hl (pa m : Nat) (e : s.lines c q x pa m ls = (u, r)) : u.now = s.now := by rw [← lines_now s c q x pa m ls, e]
  unfold State.landTile at h
  split at h
  · generalize s.sram _ _ _ = y at h
    cases y with
    | error => cases h
    | ok pa => exact hl pa _ (Except.ok.inj h)
  · generalize s.useTile _ _ _ = y at h
    cases y with
    | error => cases h
    | ok y => exact hl _ _ (Except.ok.inj h)
  · dsimp only at h
    split at h
    · cases h
    · cases h
      exact foldl_now _ (fun _ _ => modBoth_now ..) _ _

@[simp] theorem landCopy_now (s : State) (c : Nat) (y : Copy) : (s.landCopy c y).now = s.now := by
  unfold State.landCopy
  extract_lets y1 other left s0
  have h0 : s0.now = s.now := modCluster_now ..
  split
  · split
    next => exact Eq.trans (by simp) h0
    next h =>
      have h1 := (landTile_now h).trans h0
      extract_lets w1 s1 done k q2 s2
      have hs1 : s1.now = s.now := Eq.trans (by simp [s1]) h1
      split
      · exact (putCmd_now ..).trans hs1
      · split <;> exact Eq.trans (by simp [s2]) hs1
  · exact h0

@[simp] theorem loadShadow_now (s : State) (c cell : Nat) : (State.loadShadow s c cell).now = s.now := by
  unfold State.loadShadow; split <;> simp
@[simp] theorem fillWindow_now (s : State) (c : Nat) (q : Cmd) (w : Window) : (State.fillWindow s c q w).now = s.now := by
  unfold State.fillWindow; dsimp only; repeat' split
  all_goals simp

/-! ## Machine/SysEvents.lean -/

@[simp] theorem sysDone_now (s : State) (c : Nat) (op : SysOp) (t0 t1 : Token) : (State.sysDone s c op t0 t1).now = s.now := by
  simp [State.sysDone]
@[simp] theorem sysEnds_now (s : State) (c : Nat) (op : SysOp) (val : Bool) : (State.sysEnds s c op val).now = s.now := by
  simp [State.sysEnds]
@[simp] theorem revoke_now (s : State) (key : Nat) : (State.revoke s key).now = s.now := by
  simp [State.revoke]

theorem imageAt_now (s : State) (c : Nat) (a : Word) : (s.imageAt c a).state.now = s.now := by
  unfold State.imageAt
  dsimp only
  split
  · rfl
  · split
    · exact walked_now ..
    · split
      next => exact (reached_now ..).trans (walked_now ..)
      next h => exact (reach_wait_now h).trans (walked_now ..)
      next =>
        have hf (l : List Nat) (sp : Space) : (((s.walked sp a 256 .read).reached c .area).findErrors l).now = s.now := by simp
        split
        · exact hf ..
        · split <;> exact hf ..

@[simp] theorem refuseImage_now (s : State) (c : Nat) (a : Word) : (State.refuseImage s c a).now = s.now := by
  unfold State.refuseImage; split <;> simp
@[simp] theorem loadImage_now (s : State) (v : Nat) (y : Task) (csa : Word) : (State.loadImage s v y csa).now = s.now := by
  unfold State.loadImage; split <;> simp
@[simp] theorem tableRead_now (s : State) (c n : Nat) (op : SysOp) (t : Option (Tbl (BitVec 32))) (bound : List Nat) :
    (State.tableRead s c n op t bound).now = s.now := by
  unfold State.tableRead; split <;> simp

@[simp] theorem cfgldStep_now (s : State) (c n : Nat) (op : SysOp) : (s.cfgldStep c n op).now = s.now := by
  have hw : (s.walked (s.opSpace c op) op.a 12288 .read).now = s.now := walked_now ..
  have he (u : State) (b : Bool) (o : SysOp) : (u.sysEnds c o b).now = u.now := sysEnds_now ..
  unfold State.cfgldStep
  dsimp only
  split
  · exact he ..
  · split
    · rfl
    · split
      · exact (he ..).trans hw
      · split
        next => exact ((he ..).trans (reached_now ..)).trans hw
        next h => exact (reach_wait_now h).trans hw
        next => exact (((tableRead_now ..).trans (findErrors_now ..)).trans (reached_now ..)).trans hw

/-! ## Machine/TrapEvents.lean -/

@[simp] theorem doubleFault_now (s : State) : (State.doubleFault s).now = s.now := by
  simp [State.doubleFault]
@[simp] theorem writeRecord_now (s : State) (h : Hcb) (x : TrapRec) : (State.writeRecord s h x).now = s.now := by
  unfold State.writeRecord; dsimp only; split <;> simp
@[simp] theorem createHandler_now (s : State) : (State.createHandler s).now = s.now := by
  unfold State.createHandler; dsimp only; repeat' split
  all_goals simp

@[simp] theorem placeHandler_now (s : State) (h : Handler) : (State.placeHandler s h).now = s.now := by
  unfold State.placeHandler
  repeat' split
  all_goals simp

end Sys2Proof.Machine
end

section
/-!
FIRINGS AND THE CLOCK (R204): no node's plan fires with an effect that moves the clock.
-/

namespace Sys2Proof.Machine

open Sys2Proof

/-- A meaning that leads to no state with another time stamp. -/
def leavesTime (o : Out) (s : State) : Prop := ∀ t, o = .next t → t.now = s.now
@[simp] theorem leavesTime_next (s t : State) : leavesTime (.next t) s ↔ t.now = s.now := by simp [leavesTime]
@[simp] theorem Plan.timeless_wait : Plan.timeless .wait := by intro _ h; cases h
@[simp] theorem Plan.timeless_stall (l : List Target) : Plan.timeless (.stall l) := by intro _ h; cases h
@[simp] theorem Plan.timeless_discard (l : List Nat) : Plan.timeless (.discard l) := by intro _ h; cases h
@[simp] theorem Plan.timeless_trap (l : List Target) (x y : Nat) (a b c : Word) : Plan.timeless (.trap l x y a b c) := by intro _ h; cases h
@[simp] theorem Plan.timeless_fire (f : Fire) : Plan.timeless (.fire f) ↔ f.timeless :=
  ⟨fun h => h f rfl, fun h _ e => Plan.fire.inj e ▸ h⟩
theorem Fire.timeless.plan {f : Fire} (h : f.timeless) : (Plan.fire f).timeless := (Plan.timeless_fire f).2 h

/-- A node by a plan that leaves the clock leaves it, whether it fires, traps, discards or waits. -/
theorem fireNode_leavesTime {plan : State → Plan} {s : State} (h : (plan s).timeless) : leavesTime (fireNode plan s) s := by
  rw [fireNode, leavesTime_next]
  split
  · exact carryOut_now h s
  · rfl

/-! ## Machine/Operands.lean -/

theorem cePlan_timeless {body : Heads → Fire} (hb : ∀ h, (body h).timeless) {u lat busy : Nat} {f : FmtA} {uL uR uP : Bool} {s : State} :
    (cePlan u lat busy f uL uR uP s body).timeless := by
  unfold cePlan
  split
  · simp
  · split
    · simp
    · split
      · simp
      · split
        · simp
        · exact Fire.timeless.plan (hb _)

/-! ## Machine/Sems.lean -/

theorem poisonFire_timeless (pops : List Nat) (o : Origin) (kind : Nat) :
    (poisonFire pops o kind).timeless := fun _ _ _ => raisePoison_now ..

/-! ## Machine/Router.lean -/

theorem routePlan_timeless {body : Heads → Fire} (hb : ∀ h, (body h).timeless) {pm : Pm} {uL uR uP : Bool} {s : State} :
    (routePlan pm uL uR uP s body).timeless := by
  unfold routePlan
  split
  · simp
  · split
    · simp
    · exact Fire.timeless.plan (hb _)

@[simp] theorem planMov_timeless (f : FmtC) (s : State) : (planMov f s).timeless := by
  refine routePlan_timeless fun h => ?_
  repeat' split
  all_goals exact fun _ _ _ => rfl

@[simp] theorem planMov4_timeless (f : FmtC) (s : State) : (planMov4 f s).timeless := by
  refine routePlan_timeless fun h => ?_
  repeat' split
  all_goals exact fun _ _ _ => rfl

@[simp] theorem planSteer_timeless (f : FmtC) (s : State) : (planSteer f s).timeless := by
  refine routePlan_timeless fun h => ?_
  repeat' split
  all_goals exact fun _ _ _ => rfl

@[simp] theorem planGate_timeless (f : FmtC) (s : State) : (planGate f s).timeless := by
  unfold planGate
  repeat' split
  all_goals simp [Fire.timeless]

@[simp] theorem planMerge_timeless (f : FmtC) (s : State) : (planMerge f s).timeless := by
  unfold planMerge; dsimp only; repeat' split
  all_goals simp [Fire.timeless]

@[simp] theorem planMrga_timeless (f : FmtC) (s : State) : (planMrga f s).timeless := by
  have hg (left : Bool) : (routePlan f.pm left (!left) false s (fun h =>
      let t := if left then h.l.getD (ctlTok false) else s.toNet (h.r.getD (ctlTok false))
      { outs := [(f.t0, h.passed t), (f.t1, madeCtl left (h.madeOrigin t))] })).timeless := routePlan_timeless fun _ _ _ _ => rfl
  unfold planMrga
  dsimp only
  split
  · simp
  · exact hg _
  · exact hg _
  · exact hg _

@[simp] theorem carryRun_timeless (f : FmtC) (s : State) (e c : Nat) : (carryRun f s e c).timeless := by
  unfold carryRun; dsimp only; repeat' split
  all_goals simp [Fire.timeless]
@[simp] theorem planCarry_timeless (f : FmtC) (s : State) : (planCarry f s).timeless := by
  unfold planCarry; dsimp only; repeat' split
  all_goals simp [Fire.timeless]
@[simp] theorem invarPurge_timeless (f : FmtC) (s : State) : (invarPurge f s).timeless := by
  unfold invarPurge; dsimp only; repeat' split
  all_goals simp [Fire.timeless]

@[simp] theorem planInvar_timeless (f : FmtC) (s : State) : (planInvar f s).timeless := by
  unfold planInvar
  extract_lets purge
  split
  · exact invarPurge_timeless _ _
  · split
    · exact routePlan_timeless fun _ _ _ _ => rfl
    · split
      · simp
      · exact Fire.timeless.plan fun _ _ _ => rfl

@[simp] theorem loopEmit_timeless (f : FmtC) (i hi : Int) (po : Option Origin) : (loopEmit f i hi po).timeless := by
  unfold loopEmit; dsimp only; repeat' split
  all_goals simp [Fire.timeless]

@[simp] theorem planLoopgen_timeless (f : FmtC) (s : State) : (planLoopgen f s).timeless := by
  unfold planLoopgen
  split
  · exact Fire.timeless.plan <| loopEmit_timeless _ _ _ _
  · refine routePlan_timeless fun h => ?_
    split
    · exact fun _ _ _ => rfl
    · extract_lets n rd
      split
      · exact loopEmit_timeless _ _ _ _
      · exact fun _ _ _ => rfl

@[simp] theorem repeatEmit_timeless (f : FmtC) (t : Token) (c : Nat) (po : Option Origin) : (repeatEmit f t c po).timeless := by
  unfold repeatEmit
  repeat' split
  all_goals simp [Fire.timeless]

@[simp] theorem planRepeat_timeless (f : FmtC) (s : State) : (planRepeat f s).timeless := by
  unfold planRepeat
  split
  · exact Fire.timeless.plan <| repeatEmit_timeless _ _ _ _
  · refine routePlan_timeless fun h => ?_
    extract_lets t po
    split
    · exact repeatEmit_timeless _ _ _ _
    · split
      · exact fun _ _ _ => rfl
      · exact repeatEmit_timeless _ _ _ _

@[simp] theorem logicPlan_timeless (uR : Bool) (op : Bool → Bool → Bool) (f : FmtC) (s : State) : (logicPlan uR op f s).timeless := by
  exact routePlan_timeless fun _ _ _ _ => rfl
@[simp] theorem planCand_timeless (f : FmtC) (s : State) : (planCand f s).timeless := by
  simp [planCand]
@[simp] theorem planCor_timeless (f : FmtC) (s : State) : (planCor f s).timeless := by
  simp [planCor]
@[simp] theorem planCnot_timeless (f : FmtC) (s : State) : (planCnot f s).timeless := by
  simp [planCnot]
@[simp] theorem planCxor_timeless (f : FmtC) (s : State) : (planCxor f s).timeless := by
  simp [planCxor]
@[simp] theorem planCdat_timeless (f : FmtC) (s : State) : (planCdat f s).timeless := by
  exact routePlan_timeless fun _ _ _ _ => rfl

theorem sendPlan_timeless (s : State) (l : Sends) {f : Fire} (hf : f.timeless) : (sendPlan s l f).timeless := by
  unfold sendPlan
  split
  · simp
  · exact Fire.timeless.plan fun _ _ _ => raise_now ..
  · exact Fire.timeless.plan fun st id b => (hf ..).trans (sendAll_now ..)

@[simp] theorem splitHome_timeless (f : FmtC) (s : State) : (splitHome f s).timeless := by
  unfold splitHome
  split
  · simp
  · refine sendPlan_timeless _ _ fun st _ _ => (modGroup_now ..).trans ?_
    simp only [apply_ite State.now, dropMembers_now, ite_self]

/-- The definition is unfolded as a function: applied to a state, the kernel would evaluate the inbox. -/
@[simp] theorem splitReplica_timeless (f : FmtC) (s : State) : (splitReplica f s).timeless := by
  have hdef : splitReplica = splitReplica := rfl
  conv_rhs at hdef => delta splitReplica
  rw [hdef]
  dsimp only
  generalize replicaIcb s.sel.1 = pa
  split
  · simp
  · exact Fire.timeless.plan fun _ _ _ => (modGroup_now ..).trans (inboxTake_now ..)
  · exact Fire.timeless.plan fun _ _ _ => (modGroup_now ..).trans (inboxTake_now ..)

@[simp] theorem planSplit_timeless (f : FmtC) (s : State) : (planSplit f s).timeless := by
  unfold planSplit; split <;> simp
@[simp] theorem omergeMarker_timeless (s : State) (c j n : Nat) (run : Option GroupRun) : (omergeMarker s c j n run).timeless := by
  unfold omergeMarker; dsimp only; repeat' split
  all_goals simp [Fire.timeless]

theorem omergeNext_timeless (f : FmtC) (s : State) (j : Nat) (last : Bool) {x : Fire} (hx : x.timeless) :
    (omergeNext f s j last x).timeless := by
  intro st id b
  unfold omergeNext
  dsimp only
  split
  · exact ((dropMembers_now ..).trans (modGroup_now ..)).trans (hx ..)
  · exact hx ..

@[simp] theorem omergeHome_timeless (f : FmtC) (s : State) (j : Nat) : (omergeHome f s j).timeless := by
  unfold omergeHome
  extract_lets c
  split
  · simp
  · split
    · simp
    · extract_lets last out
      split
      · split
        · simp
        · exact Fire.timeless.plan <| omergeNext_timeless _ _ _ _ fun _ _ _ => rfl
      · split
        · exact Fire.timeless.plan <| omergeNext_timeless _ _ _ _ fun _ _ _ => inboxTake_now ..
        · exact Fire.timeless.plan fun _ _ _ => inboxTake_now ..
        · simp

@[simp] theorem omergeReplica_timeless (f : FmtC) (s : State) (j : Nat) : (omergeReplica f s j).timeless := by
  unfold omergeReplica
  extract_lets c k g pa
  split
  · simp
  · split
    · exact sendPlan_timeless _ _ fun _ _ _ => modGroup_now ..
    · split
      · simp
      · exact sendPlan_timeless _ _ fun _ _ _ => rfl

@[simp] theorem planOmerge_timeless (f : FmtC) (s : State) : (planOmerge f s).timeless := by
  unfold planOmerge; dsimp only; repeat' split
  all_goals simp [Fire.timeless]

@[simp] theorem planSink_timeless (f : FmtC) (s : State) : (planSink f s).timeless := by
  unfold planSink
  split
  · exact Fire.timeless.plan fun _ _ _ => rfl
  · split
    · simp
    · split
      · rw [Plan.timeless_fire]
        split
        · exact poisonFire_timeless _ _ _
        · exact fun _ _ _ => rfl
      · exact Fire.timeless.plan fun _ _ _ => rfl

/-! ## Machine/BlockCtl.lean -/

@[simp] theorem exitPlan_timeless (kind : ExitKind) (f : FmtB) (addr : State → Heads → Word) (s : State) :
    (exitPlan kind f addr s).timeless := by
  refine routePlan_timeless fun h => ?_
  split
  · exact poisonFire_timeless _ _ _
  · exact fun _ _ _ => (exitFired_now ..).trans (modTaskOf_now ..)

@[simp] theorem planExit_timeless (f : FmtB) (s : State) : (planExit f s).timeless := by
  simp [planExit]
@[simp] theorem planExiti_timeless (f : FmtB) (s : State) : (planExiti f s).timeless := by
  simp [planExiti]
@[simp] theorem planCall_timeless (f : FmtB) (s : State) : (planCall f s).timeless := by
  simp [planCall]
@[simp] theorem planCalli_timeless (f : FmtB) (s : State) : (planCalli f s).timeless := by
  simp [planCalli]
@[simp] theorem planRet_timeless (f : FmtB) (s : State) : (planRet f s).timeless := by
  simp [planRet]
@[simp] theorem planYield_timeless (f : FmtB) (s : State) : (planYield f s).timeless := by
  simp [planYield]

@[simp] theorem softTrap_timeless (f : FmtT) (code sub : Nat) (s : State) : (softTrap f code sub s).timeless := by
  refine routePlan_timeless fun h => ?_
  split
  · exact poisonFire_timeless _ _ _
  · exact fun _ _ _ => raise_now ..

@[simp] theorem planTrap_timeless (f : FmtT) (s : State) : (planTrap f s).timeless := by
  simp [planTrap]
@[simp] theorem planBrk_timeless (f : FmtT) (s : State) : (planBrk f s).timeless := by
  simp [planBrk]

/-! ## Machine/Engine.lean -/

theorem cmdFire_timeless (i : Instr) (s : State) : (cmdFire i s).timeless := by
  unfold cmdFire
  dsimp only
  split
  · simp
  · refine routePlan_timeless fun h => ?_
    split
    · exact fun _ _ _ => raisePoison_now ..
    · intro s' id b
      dsimp only
      split <;> split <;> simp

@[simp] theorem cmdPlan_timeless (i : Instr) (s : State) : (cmdPlan i s).timeless := by
  unfold cmdPlan
  dsimp only
  split
  · simp
  · exact cmdFire_timeless _ _

@[simp] theorem planSbind_timeless (f : FmtE) (s : State) : (planSbind f s).timeless := by
  simp [planSbind]
@[simp] theorem planSfree_timeless (f : FmtE) (s : State) : (planSfree f s).timeless := by
  simp [planSfree]
@[simp] theorem planTcopy_timeless (f : FmtE) (s : State) : (planTcopy f s).timeless := by
  simp [planTcopy]
@[simp] theorem planTgath_timeless (f : FmtE) (s : State) : (planTgath f s).timeless := by
  simp [planTgath]
@[simp] theorem planTscat_timeless (f : FmtE) (s : State) : (planTscat f s).timeless := by
  simp [planTscat]
@[simp] theorem planBoard_timeless (f : FmtE) (s : State) : (planBoard f s).timeless := by
  simp [planBoard]
@[simp] theorem planMigr_timeless (f : FmtE) (s : State) : (planMigr f s).timeless := by
  simp [planMigr]
@[simp] theorem planMsend_timeless (f : FmtE) (s : State) : (planMsend f s).timeless := by
  simp [planMsend]
@[simp] theorem planSwait_timeless (f : FmtE) (s : State) : (planSwait f s).timeless := by
  simp [planSwait]
@[simp] theorem planSsig_timeless (f : FmtE) (s : State) : (planSsig f s).timeless := by
  simp [planSsig]
@[simp] theorem planSset_timeless (f : FmtE) (s : State) : (planSset f s).timeless := by
  simp [planSset]
@[simp] theorem planKick_timeless (f : FmtE) (s : State) : (planKick f s).timeless := by
  simp [planKick]
@[simp] theorem planRspeed_timeless (f : FmtE) (s : State) : (planRspeed f s).timeless := by
  simp [planRspeed]
@[simp] theorem planRepl_timeless (f : FmtE) (s : State) : (planRepl f s).timeless := by
  simp [planRepl]

/-! ## Machine/FloatOps.lean -/

@[simp] theorem fmmPlan_timeless (greater : Bool) (f : FmtA) (s : State) : (fmmPlan greater f s).timeless := by
  exact cePlan_timeless fun _ _ _ _ => rfl
@[simp] theorem signPlan_timeless (op : Nat → Nat → Nat) (f : FmtA) (s : State) : (signPlan op f s).timeless := by
  exact cePlan_timeless fun _ _ _ _ => rfl
@[simp] theorem planFadd_timeless (f : FmtA) (s : State) : (planFadd f s).timeless := by
  exact cePlan_timeless fun _ _ _ _ => rfl
@[simp] theorem planFsub_timeless (f : FmtA) (s : State) : (planFsub f s).timeless := by
  exact cePlan_timeless fun _ _ _ _ => rfl
@[simp] theorem planFmul_timeless (f : FmtA) (s : State) : (planFmul f s).timeless := by
  exact cePlan_timeless fun _ _ _ _ => rfl

@[simp] theorem planFmac_timeless (f : FmtA) (s : State) : (planFmac f s).timeless := by
  refine cePlan_timeless fun h => ?_
  dsimp only
  repeat' split
  all_goals exact fun _ _ _ => rfl

@[simp] theorem planFmin_timeless (f : FmtA) (s : State) : (planFmin f s).timeless := by
  simp [planFmin]
@[simp] theorem planFmax_timeless (f : FmtA) (s : State) : (planFmax f s).timeless := by
  simp [planFmax]
@[simp] theorem planFabs_timeless (f : FmtA) (s : State) : (planFabs f s).timeless := by
  simp [planFabs]
@[simp] theorem planFneg_timeless (f : FmtA) (s : State) : (planFneg f s).timeless := by
  simp [planFneg]
@[simp] theorem planFeq_timeless (f : FmtA) (s : State) : (planFeq f s).timeless := by
  exact cePlan_timeless fun _ _ _ _ => rfl
@[simp] theorem planFlt_timeless (f : FmtA) (s : State) : (planFlt f s).timeless := by
  exact cePlan_timeless fun _ _ _ _ => rfl
@[simp] theorem planFle_timeless (f : FmtA) (s : State) : (planFle f s).timeless := by
  exact cePlan_timeless fun _ _ _ _ => rfl
@[simp] theorem planFun_timeless (f : FmtA) (s : State) : (planFun f s).timeless := by
  exact cePlan_timeless fun _ _ _ _ => rfl

@[simp] theorem planFcvt_timeless (f : FmtA) (s : State) : (planFcvt f s).timeless := by
  refine cePlan_timeless fun h => ?_
  dsimp only
  repeat' split
  all_goals exact fun _ _ _ => rfl

@[simp] theorem planFcvti_timeless (f : FmtA) (s : State) : (planFcvti f s).timeless := by
  exact cePlan_timeless fun _ _ _ _ => rfl
@[simp] theorem planIcvtf_timeless (f : FmtA) (s : State) : (planIcvtf f s).timeless := by
  exact cePlan_timeless fun _ _ _ _ => rfl
@[simp] theorem planFrnd_timeless (f : FmtA) (s : State) : (planFrnd f s).timeless := by
  exact cePlan_timeless fun _ _ _ _ => rfl
@[simp] theorem planFrcp_timeless (f : FmtA) (s : State) : (planFrcp f s).timeless := by
  exact cePlan_timeless fun _ _ _ _ => rfl
@[simp] theorem planFrsq_timeless (f : FmtA) (s : State) : (planFrsq f s).timeless := by
  exact cePlan_timeless fun _ _ _ _ => rfl
@[simp] theorem planFsqrt_timeless (f : FmtA) (s : State) : (planFsqrt f s).timeless := by
  exact cePlan_timeless fun _ _ _ _ => rfl
@[simp] theorem planFexp2_timeless (f : FmtA) (s : State) : (planFexp2 f s).timeless := by
  exact cePlan_timeless fun _ _ _ _ => rfl
@[simp] theorem planFlog2_timeless (f : FmtA) (s : State) : (planFlog2 f s).timeless := by
  exact cePlan_timeless fun _ _ _ _ => rfl
@[simp] theorem planFtanh_timeless (f : FmtA) (s : State) : (planFtanh f s).timeless := by
  exact cePlan_timeless fun _ _ _ _ => rfl
@[simp] theorem planBqnt_timeless (f : FmtA) (s : State) : (planBqnt f s).timeless := by
  unfold planBqnt; dsimp only; repeat' split
  all_goals simp [Fire.timeless]
@[simp] theorem planBdeq_timeless (f : FmtA) (s : State) : (planBdeq f s).timeless := by
  exact cePlan_timeless fun _ _ _ _ => rfl

@[simp] theorem planXsacc_timeless (f : FmtA) (s : State) : (planXsacc f s).timeless := by
  refine cePlan_timeless fun h => ?_
  dsimp only
  repeat' split
  all_goals exact fun _ _ _ => rfl

@[simp] theorem planXsfin_timeless (f : FmtA) (s : State) : (planXsfin f s).timeless := by
  refine cePlan_timeless fun h => ?_
  dsimp only
  repeat' split
  all_goals exact fun _ _ _ => rfl

/-! ## Machine/IntOps.lean -/

@[simp] theorem intPlan_timeless (lat : Nat) (op : Nat → Nat → Nat → Nat) (f : FmtA) (s : State) : (intPlan lat op f s).timeless := by
  exact cePlan_timeless fun _ _ _ _ => rfl
@[simp] theorem int1Plan_timeless (op : Nat → Nat → Nat) (f : FmtA) (s : State) : (int1Plan op f s).timeless := by
  exact cePlan_timeless fun _ _ _ _ => rfl
@[simp] theorem divPlan_timeless (op : Nat → Nat → Nat → Nat) (f : FmtA) (s : State) : (divPlan op f s).timeless := by
  exact cePlan_timeless fun _ _ _ _ => rfl
@[simp] theorem cmpPlan_timeless (op : Nat → Nat → Nat → Bool) (f : FmtA) (s : State) : (cmpPlan op f s).timeless := by
  exact cePlan_timeless fun _ _ _ _ => rfl
@[simp] theorem planAdd_timeless (f : FmtA) (s : State) : (planAdd f s).timeless := by
  simp [planAdd]
@[simp] theorem planSub_timeless (f : FmtA) (s : State) : (planSub f s).timeless := by
  simp [planSub]
@[simp] theorem planAdds_timeless (f : FmtA) (s : State) : (planAdds f s).timeless := by
  simp [planAdds]
@[simp] theorem planAddsu_timeless (f : FmtA) (s : State) : (planAddsu f s).timeless := by
  simp [planAddsu]
@[simp] theorem planSubs_timeless (f : FmtA) (s : State) : (planSubs f s).timeless := by
  simp [planSubs]
@[simp] theorem planSubsu_timeless (f : FmtA) (s : State) : (planSubsu f s).timeless := by
  simp [planSubsu]
@[simp] theorem planMul_timeless (f : FmtA) (s : State) : (planMul f s).timeless := by
  simp [planMul]
@[simp] theorem planMulh_timeless (f : FmtA) (s : State) : (planMulh f s).timeless := by
  simp [planMulh]
@[simp] theorem planMulhu_timeless (f : FmtA) (s : State) : (planMulhu f s).timeless := by
  simp [planMulhu]
@[simp] theorem planDiv_timeless (f : FmtA) (s : State) : (planDiv f s).timeless := by
  simp [planDiv]
@[simp] theorem planDivu_timeless (f : FmtA) (s : State) : (planDivu f s).timeless := by
  simp [planDivu]
@[simp] theorem planRem_timeless (f : FmtA) (s : State) : (planRem f s).timeless := by
  simp [planRem]
@[simp] theorem planRemu_timeless (f : FmtA) (s : State) : (planRemu f s).timeless := by
  simp [planRemu]
@[simp] theorem planNeg_timeless (f : FmtA) (s : State) : (planNeg f s).timeless := by
  simp [planNeg]
@[simp] theorem planAbs_timeless (f : FmtA) (s : State) : (planAbs f s).timeless := by
  simp [planAbs]
@[simp] theorem planMin_timeless (f : FmtA) (s : State) : (planMin f s).timeless := by
  simp [planMin]
@[simp] theorem planMax_timeless (f : FmtA) (s : State) : (planMax f s).timeless := by
  simp [planMax]
@[simp] theorem planMinu_timeless (f : FmtA) (s : State) : (planMinu f s).timeless := by
  simp [planMinu]
@[simp] theorem planMaxu_timeless (f : FmtA) (s : State) : (planMaxu f s).timeless := by
  simp [planMaxu]
@[simp] theorem planAddmin_timeless (f : FmtA) (s : State) : (planAddmin f s).timeless := by
  exact cePlan_timeless fun _ _ _ _ => rfl
@[simp] theorem planAnd_timeless (f : FmtA) (s : State) : (planAnd f s).timeless := by
  simp [planAnd]
@[simp] theorem planOr_timeless (f : FmtA) (s : State) : (planOr f s).timeless := by
  simp [planOr]
@[simp] theorem planXor_timeless (f : FmtA) (s : State) : (planXor f s).timeless := by
  simp [planXor]
@[simp] theorem planAndn_timeless (f : FmtA) (s : State) : (planAndn f s).timeless := by
  simp [planAndn]
@[simp] theorem planNot_timeless (f : FmtA) (s : State) : (planNot f s).timeless := by
  simp [planNot]
@[simp] theorem planShl_timeless (f : FmtA) (s : State) : (planShl f s).timeless := by
  simp [planShl]
@[simp] theorem planShr_timeless (f : FmtA) (s : State) : (planShr f s).timeless := by
  simp [planShr]
@[simp] theorem planSra_timeless (f : FmtA) (s : State) : (planSra f s).timeless := by
  simp [planSra]
@[simp] theorem planRotl_timeless (f : FmtA) (s : State) : (planRotl f s).timeless := by
  simp [planRotl]
@[simp] theorem planClz_timeless (f : FmtA) (s : State) : (planClz f s).timeless := by
  simp [planClz]
@[simp] theorem planCtz_timeless (f : FmtA) (s : State) : (planCtz f s).timeless := by
  simp [planCtz]
@[simp] theorem planPopc_timeless (f : FmtA) (s : State) : (planPopc f s).timeless := by
  simp [planPopc]
@[simp] theorem planSext_timeless (f : FmtA) (s : State) : (planSext f s).timeless := by
  simp [planSext]
@[simp] theorem planZext_timeless (f : FmtA) (s : State) : (planZext f s).timeless := by
  simp [planZext]
@[simp] theorem planBswap_timeless (f : FmtA) (s : State) : (planBswap f s).timeless := by
  simp [planBswap]
@[simp] theorem planSel_timeless (f : FmtA) (s : State) : (planSel f s).timeless := by
  exact cePlan_timeless fun _ _ _ _ => rfl
@[simp] theorem planCeq_timeless (f : FmtA) (s : State) : (planCeq f s).timeless := by
  simp [planCeq]
@[simp] theorem planCne_timeless (f : FmtA) (s : State) : (planCne f s).timeless := by
  simp [planCne]
@[simp] theorem planClt_timeless (f : FmtA) (s : State) : (planClt f s).timeless := by
  simp [planClt]
@[simp] theorem planCltu_timeless (f : FmtA) (s : State) : (planCltu f s).timeless := by
  simp [planCltu]
@[simp] theorem planCle_timeless (f : FmtA) (s : State) : (planCle f s).timeless := by
  simp [planCle]
@[simp] theorem planCleu_timeless (f : FmtA) (s : State) : (planCleu f s).timeless := by
  simp [planCleu]
@[simp] theorem planCtst_timeless (f : FmtA) (s : State) : (planCtst f s).timeless := by
  simp [planCtst]
@[simp] theorem planMovi_timeless (f : FmtA) (s : State) : (planMovi f s).timeless := by
  exact cePlan_timeless fun _ _ _ _ => rfl
@[simp] theorem planMovhi_timeless (f : FmtA) (s : State) : (planMovhi f s).timeless := by
  simp [planMovhi]
@[simp] theorem planLea_timeless (f : FmtA) (s : State) : (planLea f s).timeless := by
  unfold planLea; split <;> simp

/-! ## Machine/LutOps.lean -/

@[simp] theorem planLutx_timeless (f : FmtA) (s : State) : (planLutx f s).timeless := by
  exact cePlan_timeless fun _ _ _ _ => rfl

@[simp] theorem planFsmst_timeless (f : FmtA) (s : State) : (planFsmst f s).timeless := by
  refine cePlan_timeless fun h s' _ _ => ?_
  dsimp only
  split
  · rfl
  · exact modTaskOf_now ..

@[simp] theorem patchPlan_timeless (lat : Nat) (op : Nat → Nat → Nat → Nat) (f : FmtA) (s : State) : (patchPlan lat op f s).timeless := by
  exact cePlan_timeless fun _ _ _ _ => rfl
@[simp] theorem planBext_timeless (f : FmtA) (s : State) : (planBext f s).timeless := by
  simp [planBext]
@[simp] theorem planBdep_timeless (f : FmtA) (s : State) : (planBdep f s).timeless := by
  simp [planBdep]
@[simp] theorem planHashx_timeless (f : FmtA) (s : State) : (planHashx f s).timeless := by
  simp [planHashx]

/-! ## Machine/Tiles.lean -/

@[simp] theorem trapOf_timeless (f : FmtA) (x : XFault) : (trapOf f x).timeless := by
  simp [trapOf]

/-! ## Machine/Matrix.lean -/

theorem dotPlan_timeless {body : Heads → Plan} (hb : ∀ h, (body h).timeless) {f : FmtA} {uR : Bool} {s : State} {ready : Heads → Bool} :
    (dotPlan f uR s ready body).timeless := by
  unfold dotPlan
  split
  · simp
  · split
    · simp
    next h _ =>
      split
      · simp
      · split
        · simp
        · have := hb h
          split
          next hx => rw [hx, Plan.timeless_fire] at this; exact Fire.timeless.plan this
          next => exact this

theorem dotLater_timeless {more : State → State} (hm : ∀ s, (more s).now = s.now) {s : State} {f : FmtA} {cs : List (Nat × Nat)} {op : DotOp}
    {g : Dot → Dot} : (dotLater s f cs op g more).timeless := Fire.timeless.plan fun _ _ _ => (hm _).trans (modDot_now ..)

@[simp] theorem planMma_timeless (f : FmtA) (s : State) : (planMma f s).timeless := by
  refine dotPlan_timeless fun h => ?_
  split
  · exact dotLater_timeless fun _ => rfl
  · simp
  · split
    · simp
    · exact dotLater_timeless fun _ => findErrors_now ..

@[simp] theorem planLdst_timeless (f : FmtA) (s : State) : (planLdst f s).timeless := by
  refine dotPlan_timeless fun h => ?_
  split
  · exact dotLater_timeless fun _ => rfl
  · split
    · simp
    · split
      · simp
      · exact dotLater_timeless fun _ => findErrors_now ..

@[simp] theorem planMswap_timeless (f : FmtA) (s : State) : (planMswap f s).timeless := by
  refine dotPlan_timeless fun h => ?_
  exact Fire.timeless.plan fun _ _ _ => modDot_now ..

@[simp] theorem planMzero_timeless (f : FmtA) (s : State) : (planMzero f s).timeless := by
  unfold planMzero
  refine dotPlan_timeless fun h => ?_
  exact Fire.timeless.plan fun _ _ _ => modDot_now ..

@[simp] theorem planMdrain_timeless (f : FmtA) (s : State) : (planMdrain f s).timeless := by
  refine dotPlan_timeless fun h => ?_
  split
  · exact Fire.timeless.plan fun _ _ _ => raisePoison_now ..
  · dsimp only
    split
    · simp
    · refine dotLater_timeless fun u => ?_
      split
      · rfl
      · exact modTaskOf_now ..

@[simp] theorem planTstat_timeless (f : FmtA) (s : State) : (planTstat f s).timeless := by
  refine dotPlan_timeless fun h => ?_
  exact Fire.timeless.plan fun _ _ _ => rfl

@[simp] theorem planTset_timeless (f : FmtA) (s : State) : (planTset f s).timeless := by
  refine dotPlan_timeless fun h => ?_
  split
  · exact Fire.timeless.plan fun _ _ _ => raisePoison_now ..
  · dsimp only
    split
    · simp
    · refine Fire.timeless.plan ?_
      intro s' _ _
      dsimp only
      split
      · exact modTaskOf_now ..
      · exact modTaskOf_now ..
      · exact modDot_now ..

/-! ## Machine/MemOps.lean -/

@[simp] theorem poisonTrap_timeless (s : State) (pads : List Target) (o : Origin) (kind : Nat) : (poisonTrap s pads o kind).timeless := by
  simp [poisonTrap]

@[simp] theorem memPlan_timeless (i : Instr) (f : FmtM) (uR : Bool) (pads : List Target) (s : State) :
    (memPlan i f uR pads s).timeless := by
  unfold memPlan
  split
  · simp
  · split
    · simp
    · split
      · simp
      · split
        · simp
        · extract_lets a bad badP skip
          split
          · simp
          · split
            · simp
            · exact Fire.timeless.plan fun _ _ _ => modRegion_now ..

@[simp] theorem planLd_timeless (f : FmtM) (s : State) : (planLd f s).timeless := by
  simp [planLd]
@[simp] theorem planSt_timeless (f : FmtM) (s : State) : (planSt f s).timeless := by
  simp [planSt]
@[simp] theorem planLdp_timeless (f : FmtM) (s : State) : (planLdp f s).timeless := by
  simp [planLdp]
@[simp] theorem planStp_timeless (f : FmtM) (s : State) : (planStp f s).timeless := by
  simp [planStp]
@[simp] theorem planLdfe_timeless (f : FmtM) (s : State) : (planLdfe f s).timeless := by
  simp [planLdfe]
@[simp] theorem planStfe_timeless (f : FmtM) (s : State) : (planStfe f s).timeless := by
  simp [planStfe]
@[simp] theorem planLnemp_timeless (f : FmtM) (s : State) : (planLnemp f s).timeless := by
  simp [planLnemp]
@[simp] theorem planLnful_timeless (f : FmtM) (s : State) : (planLnful f s).timeless := by
  simp [planLnful]
@[simp] theorem planAmo_timeless (f : FmtM) (s : State) : (planAmo f s).timeless := by
  simp [planAmo]
@[simp] theorem planCas_timeless (f : FmtM) (s : State) : (planCas f s).timeless := by
  simp [planCas]
@[simp] theorem planRmw_timeless (f : FmtM) (s : State) : (planRmw f s).timeless := by
  simp [planRmw]
@[simp] theorem planPref_timeless (f : FmtM) (s : State) : (planPref f s).timeless := by
  simp [planPref]

@[simp] theorem planFence_timeless (f : FmtM) (s : State) : (planFence f s).timeless := by
  unfold planFence
  repeat' split
  all_goals simp [Fire.timeless]

/-! ## Machine/Packet.lean -/

@[simp] theorem lanePlan_timeless (uR : Bool) (op : List Nat → List Nat → List Nat) (f : FmtA) (s : State) :
    (lanePlan uR op f s).timeless := by
  exact cePlan_timeless fun _ _ _ _ => rfl

@[simp] theorem extremePlan_timeless (greater : Bool) (f : FmtA) (s : State) : (extremePlan greater f s).timeless := by
  refine cePlan_timeless fun h => ?_
  dsimp only
  repeat' split
  all_goals exact fun _ _ _ => rfl

@[simp] theorem planPsum_timeless (f : FmtA) (s : State) : (planPsum f s).timeless := by
  refine cePlan_timeless fun h => ?_
  dsimp only
  repeat' split
  all_goals exact fun _ _ _ => rfl

@[simp] theorem planPmax_timeless (f : FmtA) (s : State) : (planPmax f s).timeless := by
  simp [planPmax]
@[simp] theorem planPmin_timeless (f : FmtA) (s : State) : (planPmin f s).timeless := by
  simp [planPmin]
@[simp] theorem planPlsh_timeless (f : FmtA) (s : State) : (planPlsh f s).timeless := by
  simp [planPlsh]
@[simp] theorem planPperm_timeless (f : FmtA) (s : State) : (planPperm f s).timeless := by
  simp [planPperm]
@[simp] theorem planPbcast_timeless (f : FmtA) (s : State) : (planPbcast f s).timeless := by
  simp [planPbcast]
@[simp] theorem planPext_timeless (f : FmtA) (s : State) : (planPext f s).timeless := by
  simp [planPext]
@[simp] theorem planPins_timeless (f : FmtA) (s : State) : (planPins f s).timeless := by
  exact cePlan_timeless fun _ _ _ _ => rfl
@[simp] theorem planPjoin_timeless (f : FmtA) (s : State) : (planPjoin f s).timeless := by
  simp [planPjoin]
@[simp] theorem planPsplit_timeless (f : FmtA) (s : State) : (planPsplit f s).timeless := by
  exact cePlan_timeless fun _ _ _ _ => rfl
@[simp] theorem planPlen_timeless (f : FmtA) (s : State) : (planPlen f s).timeless := by
  exact cePlan_timeless fun _ _ _ _ => rfl
@[simp] theorem planPmask_timeless (f : FmtA) (s : State) : (planPmask f s).timeless := by
  exact cePlan_timeless fun _ _ _ _ => rfl

/-! ## Machine/System.lean -/

theorem sysPlan_timeless {body : Heads → Fire} (hb : ∀ h, (body h).timeless) {f : FmtS} {uR : Bool} {s : State} :
    (sysPlan f uR s body).timeless := by
  refine routePlan_timeless fun h => ?_
  split
  · exact fun _ _ _ => raisePoison_now ..
  · exact hb _

theorem privileged_now {g : State → State} (hg : ∀ s, (g s).now = s.now) (s : State) (id : Nat) (b : List Nat) :
    (privileged g s id b).now = s.now := (hg _).trans (irrevoke_now ..)
theorem sysLater_timeless (f : FmtS) (op : SysOp) {g : State → State} (hg : ∀ s, (g s).now = s.now) : (sysLater f op g).timeless :=
  fun _ _ _ => (modRegion_now ..).trans (hg _)

theorem heldBack_timeless {p : Plan} (hp : p.timeless) {isOpen : Bool} : (p.heldBack isOpen).timeless := by
  unfold Plan.heldBack
  split
  · split
    · exact hp
    · simp
  · exact hp

@[simp] theorem planSysrd_timeless (f : FmtS) (s : State) : (planSysrd f s).timeless := by
  refine heldBack_timeless (routePlan_timeless fun h s' _ _ => ?_)
  dsimp only
  split
  · rfl
  · exact irrevoke_now ..

@[simp] theorem planSyswr_timeless (f : FmtS) (s : State) : (planSyswr f s).timeless := by
  refine heldBack_timeless (sysPlan_timeless fun h => ?_)
  exact privileged_now fun _ => writeReg_now _ _ _ _
@[simp] theorem planTsget_timeless (f : FmtS) (s : State) : (planTsget f s).timeless := by
  exact routePlan_timeless fun _ _ _ _ => rfl

theorem endTrap_now (s : State) (v : Word) : (s.endTrap v).2.now = s.now := by
  unfold State.endTrap
  extract_lets act a
  split
  · rfl
  next s1 _ =>
    have h1 : s1.now = s.now := rfl
    clear_value s1 act
    split
    · rfl
    · split
      · rfl
      · refine Eq.trans ?_ h1
        dsimp only
        split
        · exact resume_now ..
        · exact kill_now ..
        · exact rollback_now ..

@[simp] theorem planTret_timeless (f : FmtS) (s : State) : (planTret f s).timeless := by
  refine heldBack_timeless (sysPlan_timeless fun h => ?_)
  exact privileged_now fun _ => endTrap_now _ _
@[simp] theorem planTlbinv_timeless (f : FmtS) (s : State) : (planTlbinv f s).timeless :=
  sysPlan_timeless fun _ => sysLater_timeless _ _ fun _ => irrevoke_now ..
@[simp] theorem planKeyrev_timeless (f : FmtS) (s : State) : (planKeyrev f s).timeless :=
  sysPlan_timeless fun _ => sysLater_timeless _ _ fun _ => irrevoke_now ..

@[simp] theorem planCtxsv_timeless (f : FmtS) (s : State) : (planCtxsv f s).timeless := by
  refine sysPlan_timeless fun h => ?_
  dsimp only
  split
  · exact privileged_now fun _ => rfl
  · exact sysLater_timeless _ _ fun _ => (modRegion_now ..).trans (irrevoke_now ..)

@[simp] theorem planCtxld_timeless (f : FmtS) (s : State) : (planCtxld f s).timeless := by
  refine sysPlan_timeless fun h => ?_
  dsimp only
  split
  · exact privileged_now fun _ => rfl
  · exact sysLater_timeless _ _ fun _ => irrevoke_now ..

@[simp] theorem planCfgld_timeless (f : FmtS) (s : State) : (planCfgld f s).timeless :=
  sysPlan_timeless fun _ => sysLater_timeless _ _ fun _ => irrevoke_now ..

@[simp] theorem planLinkq_timeless (f : FmtS) (s : State) : (planLinkq f s).timeless := by
  refine sysPlan_timeless fun h => ?_
  dsimp only
  split
  · exact privileged_now fun _ => rfl
  · split
    · exact privileged_now fun _ => rfl
    · exact sysLater_timeless _ _ fun _ => irrevoke_now ..

@[simp] theorem planEvwait_timeless (f : FmtS) (s : State) : (planEvwait f s).timeless := by
  exact sysPlan_timeless fun _ _ _ _ => rfl

/-! ## Machine/Plans.lean -/

@[simp] theorem planOf_timeless (i : Instr) (s : State) : (planOf i s).timeless := by
  unfold planOf; split <;> simp

end Sys2Proof.Machine
end

section
/-!
TIME STAMPS RISE (R204): no instruction and no event moves the clock; a step moves it at the end of a cycle alone.
-/

namespace Sys2Proof.Machine

open Sys2Proof

/-! ## Machine/Sched.lean -/

theorem execTaskEnd_leavesTime (t : Nat) (s : State) : leavesTime (execTaskEnd t s) s := by
  unfold execTaskEnd; split <;> simp

/-! ## Machine/Matrix.lean -/

theorem execMmaComplete_leavesTime (c cell : Nat) (s : State) : leavesTime (execMmaComplete c cell s) s := by
  unfold execMmaComplete; split <;> simp
theorem execShadowLoaded_leavesTime (c cell : Nat) (s : State) : leavesTime (execShadowLoaded c cell s) s := by
  unfold execShadowLoaded; split <;> simp

theorem drainSignal_now {s t : State} {c : Nat} {o : DotOp} (h : s.drainSignal c o = .ok t) : t.now = s.now := by
  unfold State.drainSignal at h
  dsimp only at h
  split at h
  · rw [← Except.ok.inj h]
  · exact signal_now h

theorem execMdrainComplete_leavesTime (c k : Nat) (s : State) : leavesTime (execMdrainComplete c k s) s := by
  unfold execMdrainComplete
  split
  · exact (leavesTime_next ..).2 rfl
  next o _ =>
    extract_lets s1
    have h1 : s1.now = s.now := by
      unfold s1
      split
      · rfl
      · exact drainStore_now ..
    clear_value s1
    split
    · exact (leavesTime_next ..).2 h1
    · split
      · exact (leavesTime_next ..).2 h1
      · split
        · exact (leavesTime_next ..).2 ((raise_now ..).trans h1)
        next s2 h2 => exact (leavesTime_next ..).2 ((dotDone_now ..).trans ((drainSignal_now h2).trans h1))

/-! ## Machine/MemOps.lean -/

theorem execMemoryAccessPerform_leavesTime (c k age : Nat) (s : State) : leavesTime (execMemoryAccessPerform c k age s) s := by
  unfold execMemoryAccessPerform
  repeat' split
  all_goals simp [Fire.timeless]

theorem execFullEmptyWake_leavesTime (line : Nat) (s : State) : leavesTime (execFullEmptyWake line s) s := by
  refine (leavesTime_next ..).2 (foldl_now _ (fun st x => ?_) _ _)
  split
  · rfl
  · exact runAccess_now ..

theorem execParkRetry_leavesTime (c k : Nat) (s : State) : leavesTime (execParkRetry c k s) s := by
  unfold execParkRetry
  repeat' split
  all_goals simp [Fire.timeless]

theorem execTableWalk_leavesTime (c k : Nat) (s : State) : leavesTime (execTableWalk c k s) s := by
  unfold execTableWalk
  repeat' split
  all_goals simp [Fire.timeless]

/-! ## Machine/SysRegs.lean -/

theorem execSeedWrite_leavesTime (t : Nat) (value : Word) (s : State) : leavesTime (execSeedWrite t value s) s := by
  simp [execSeedWrite]
theorem execRegisterWrite_leavesTime (sysno : Nat) (value : Word) (link : Nat) (s : State) :
    leavesTime (execRegisterWrite sysno value link s) s := by
  unfold execRegisterWrite; split <;> simp
theorem execTrapHkill_leavesTime (value : Word) (s : State) : leavesTime (execTrapHkill value s) s := by
  simp [execTrapHkill]
theorem execJqDoor_leavesTime (value : Word) (s : State) : leavesTime (execJqDoor value s) s := by
  simp [execJqDoor]
theorem execLinkRetrainGo_leavesTime (m : Nat) (s : State) : leavesTime (execLinkRetrainGo m s) s := by
  simp [execLinkRetrainGo]
theorem execIdeRollover_leavesTime (f : Nat) (s : State) : leavesTime (execIdeRollover f s) s := by
  simp [execIdeRollover]
theorem execColdReset_leavesTime (fail : Nat) (s : State) : leavesTime (execColdReset fail s) s := by
  simp [execColdReset]

/-! ## Machine/Wave.lean -/

theorem execOperandDiscard_leavesTime (c i : Nat) (s : State) : leavesTime (execOperandDiscard c i s) s := by
  unfold execOperandDiscard
  repeat' split
  all_goals simp [Fire.timeless]

theorem execTeardownInjection_leavesTime (c : Nat) (s : State) : leavesTime (execTeardownInjection c s) s := by
  unfold execTeardownInjection; dsimp only; repeat' split
  all_goals simp [Fire.timeless]
theorem execNodeRetire_leavesTime (c i : Nat) (s : State) : leavesTime (execNodeRetire c i s) s := by
  unfold execNodeRetire; dsimp only; repeat' split
  all_goals simp [Fire.timeless]
theorem execNodeFlip_leavesTime (c i : Nat) (s : State) : leavesTime (execNodeFlip c i s) s := by
  unfold execNodeFlip; dsimp only; repeat' split
  all_goals simp [Fire.timeless]
theorem execPurgeMarker_leavesTime (c i : Nat) (s : State) : leavesTime (execPurgeMarker c i s) s := by
  unfold execPurgeMarker; rw [leavesTime_next]; dsimp only; repeat' split
  all_goals simp
/-- The state that the fetch of a block leads to. -/
@[simp] def Loaded.state : Loaded → State
  | .ends s _ | .wait s => s

theorem fetchBlock_now (s : State) (c blk : Nat) : (s.fetchBlock c blk).state.now = s.now := by
  unfold State.fetchBlock
  extract_lets a sp
  split
  · rfl
  next runs s0 _ =>
    generalize s.areaRuns sp .fetch runs = found
    split
    rename_i pls _
    have h0 : s0.now = s.now := walkRuns_now ..
    clear_value s0
    split
    · rfl
    · split
      · exact (reached_now ..).trans h0
      next h => exact (reach_wait_now h).trans h0
      · exact (findErrors_now ..).trans ((reached_now ..).trans h0)

/-! ## Machine/Boundary.lean -/

theorem execShadowUsable_leavesTime (c : Nat) (s : State) : leavesTime (execShadowUsable c s) s := by
  unfold execShadowUsable
  split
  · exact (leavesTime_next ..).2 rfl
  next sh _ =>
    split
    · exact (leavesTime_next ..).2 rfl
    · generalize hl : (if (s.region c).callsZero sh.blk then Loaded.ends s (.error (reject .misaligned 0)) else s.fetchBlock c sh.blk) = l
      have h1 : l.state.now = s.now := by
        rw [← hl]
        split
        · rfl
        · exact fetchBlock_now ..
      split
      · exact (leavesTime_next ..).2 h1
      · exact (leavesTime_next ..).2 ((modRegion_now ..).trans h1)
      · exact (leavesTime_next ..).2 ((keepImage_now ..).trans ((modRegion_now ..).trans h1))

theorem boundary_now (c n : Nat) (s : State) : (State.boundary c n s).now = s.now := by
  induction n generalizing s with
  | zero => rfl
  | succ n ih =>
    rw [State.boundary]
    split
    · exact (ih _).trans (boundaryStep_now ..)
    · rfl

theorem execBlockBoundary_leavesTime (c : Nat) (s : State) : leavesTime (execBlockBoundary c s) s := by
  refine (leavesTime_next ..).2 ?_
  split
  · rfl
  · exact boundary_now ..

theorem execBlockStart_leavesTime (c : Nat) (s : State) : leavesTime (execBlockStart c s) s := by
  unfold execBlockStart; dsimp only; repeat' split
  all_goals simp [Fire.timeless]
theorem execAwaitRead_leavesTime (c e : Nat) (s : State) : leavesTime (execAwaitRead c e s) s := by
  unfold execAwaitRead; dsimp only; repeat' split
  all_goals simp [Fire.timeless]

/-! ## Machine/EngineEvents.lean -/

theorem execEngineWait_leavesTime (c k : Nat) (s : State) : leavesTime (execEngineWait c k s) s := by
  unfold execEngineWait; split <;> simp
theorem execTileClaim_leavesTime (c k : Nat) (s : State) : leavesTime (execTileClaim c k s) s := by
  unfold execTileClaim; split <;> simp

theorem execDescriptorRead_leavesTime (c k : Nat) (s : State) : leavesTime (execDescriptorRead c k s) s := by
  unfold execDescriptorRead
  repeat' split
  all_goals simp [Fire.timeless]

theorem settle_now (c : Nat) (w : Work) : (settle c w).now = w.state.now := by
  unfold settle
  split <;> simp

theorem execEngineCompletion_leavesTime (c k : Nat) (s : State) : leavesTime (execEngineCompletion c k s) s := by
  refine (leavesTime_next ..).2 ?_
  split
  · rfl
  · split
    · rfl
    · split
      · exact signalStep_now ..
      · split
        · exact (settle_now ..).trans (work_now ..)
        · rfl

theorem execByteModeSignal_leavesTime (c k : Nat) (s : State) : leavesTime (execByteModeSignal c k s) s := by
  refine (leavesTime_next ..).2 ?_
  split
  · rfl
  next q _ =>
    split
    · rfl
    · split
      · exact prefixSignal_now ..
      · split
        · rfl
        · have hw := work_now s c q (some 2048)
          split
          next h =>
            rw [h] at hw
            exact (prefixSignal_now ..).trans ((putCmd_now ..).trans hw)
          · exact (settle_now ..).trans hw

theorem execInboxSend_leavesTime (c k : Nat) (s : State) : leavesTime (execInboxSend c k s) s := by
  unfold execInboxSend
  repeat' split
  all_goals simp [Fire.timeless]

theorem execInboxPublish_leavesTime (c k : Nat) (s : State) : leavesTime (execInboxPublish c k s) s := by
  unfold execInboxPublish
  repeat' split
  all_goals simp [Fire.timeless]

theorem execMigratePage_leavesTime (c k : Nat) (s : State) : leavesTime (execMigratePage c k s) s := by
  unfold execMigratePage
  repeat' split
  all_goals simp [Fire.timeless]

/-! ## Machine/FarEvents.lean -/

theorem execDrawerSlotPlace_leavesTime (f k : Nat) (s : State) : leavesTime (execDrawerSlotPlace f k s) s := by
  unfold execDrawerSlotPlace; rw [leavesTime_next]; dsimp only; repeat' split
  all_goals simp
theorem execDrawerResponse_leavesTime (f k : Nat) (s : State) : leavesTime (execDrawerResponse f k s) s := by
  unfold execDrawerResponse; rw [leavesTime_next]; dsimp only; repeat' split
  all_goals simp
theorem execPeerRequest_leavesTime (f ch _addr key : Nat) (s : State) : leavesTime (execPeerRequest f ch _addr key s) s := by
  unfold execPeerRequest; rw [leavesTime_next]; dsimp only; repeat' split
  all_goals simp
theorem execLinkStall_leavesTime (f k : Nat) (s : State) : leavesTime (execLinkStall f k s) s := by
  unfold execLinkStall; rw [leavesTime_next]; dsimp only; repeat' split
  all_goals simp
theorem execSlotTableSwitch_leavesTime (s : State) : leavesTime (execSlotTableSwitch s) s := by
  unfold execSlotTableSwitch; split <;> simp
theorem execChannelCalibration_leavesTime (f ch : Nat) (s : State) : leavesTime (execChannelCalibration f ch s) s := by
  unfold execChannelCalibration; split <;> simp
theorem execChannelDown_leavesTime (f ch : Nat) (s : State) : leavesTime (execChannelDown f ch s) s := by
  unfold execChannelDown; split <;> simp
theorem execChannelRelock_leavesTime (f ch : Nat) (s : State) : leavesTime (execChannelRelock f ch s) s := by
  simp [execChannelRelock]
theorem execIdeAutoRollover_leavesTime (f : Nat) (s : State) : leavesTime (execIdeAutoRollover f s) s := by
  unfold execIdeAutoRollover; split <;> simp
theorem execIdeSlotRetire_leavesTime (f : Nat) (s : State) : leavesTime (execIdeSlotRetire f s) s := by
  unfold execIdeSlotRetire; split <;> simp
theorem execMacFailure_leavesTime (f : Nat) (s : State) : leavesTime (execMacFailure f s) s := by
  simp [execMacFailure]

/-! ## Machine/LinkEvents.lean -/

theorem execFlitReceive_leavesTime (m seqno : Nat) (good : Bool) (lane : Nat) (s : State) :
    leavesTime (execFlitReceive m seqno good lane s) s := by
  unfold execFlitReceive; rw [leavesTime_next]; dsimp only; repeat' split
  all_goals simp

theorem execLinkRetrainEnd_leavesTime (m : Nat) (badLanes : BitVec 64) (badSpares : BitVec 4) (s : State) :
    leavesTime (execLinkRetrainEnd m badLanes badSpares s) s := by
  unfold execLinkRetrainEnd; rw [leavesTime_next]; dsimp only; repeat' split
  all_goals simp

/-! ## Machine/Mgmt.lean -/

theorem execHostAccess_leavesTime (op : HostOp) (s : State) : leavesTime (execHostAccess op s) s := by
  unfold execHostAccess; split <;> simp
theorem execPatrolScrub_leavesTime (addr : Nat) (bad : Bool) (s : State) : leavesTime (execPatrolScrub addr bad s) s := by
  unfold execPatrolScrub; split <;> simp
theorem execTelemetrySample_leavesTime (s : State) : leavesTime (execTelemetrySample s) s := by
  unfold execTelemetrySample; split <;> simp
theorem execThrottle_leavesTime (c : Nat) (s : State) : leavesTime (execThrottle c s) s := by
  unfold execThrottle; split <;> simp
theorem execClusterPowerGate_leavesTime (c : Nat) (s : State) : leavesTime (execClusterPowerGate c s) s := by
  unfold execClusterPowerGate; split <;> simp
theorem execAttestationRequest_leavesTime (nonce : List Byte) (s : State) : leavesTime (execAttestationRequest nonce s) s := by
  unfold execAttestationRequest; split <;> simp

/-! ## Machine/Streams.lean -/

theorem execStreamFetch_leavesTime (c p : Nat) (s : State) : leavesTime (execStreamFetch c p s) s := by
  unfold execStreamFetch
  repeat' split
  all_goals simp [Fire.timeless]

theorem execPopDelivery_leavesTime (c e : Nat) (s : State) : leavesTime (execPopDelivery c e s) s := by
  unfold execPopDelivery
  repeat' split
  all_goals simp [Fire.timeless]

theorem execPeekDelivery_leavesTime (c e : Nat) (s : State) : leavesTime (execPeekDelivery c e s) s := by
  unfold execPeekDelivery
  repeat' split
  all_goals simp [Fire.timeless]

theorem execGateDrop_leavesTime (c e : Nat) (s : State) : leavesTime (execGateDrop c e s) s := by
  unfold execGateDrop
  repeat' split
  all_goals simp [Fire.timeless]

theorem execGateHold_leavesTime (c e : Nat) (s : State) : leavesTime (execGateHold c e s) s := by
  unfold execGateHold
  repeat' split
  all_goals simp [Fire.timeless]

theorem execPortPush_leavesTime (c e : Nat) (s : State) : leavesTime (execPortPush c e s) s := by
  unfold execPortPush
  repeat' split
  all_goals simp [Fire.timeless]

theorem execSqueezePush_leavesTime (c e : Nat) (s : State) : leavesTime (execSqueezePush c e s) s := by
  unfold execSqueezePush
  repeat' split
  all_goals simp [Fire.timeless]

/-! ## Machine/Tick.lean -/

theorem execModcAdvance_leavesTime (c : Nat) (s : State) : leavesTime (execModcAdvance c s) s := by
  unfold execModcAdvance; split <;> simp
theorem execBudgetExpiry_leavesTime (c : Nat) (s : State) : leavesTime (execBudgetExpiry c s) s := by
  unfold execBudgetExpiry; rw [leavesTime_next]; dsimp only; repeat' split
  all_goals simp

/-! ## Machine/Probes.lean -/

theorem execProbeSend_leavesTime (c i slot : Nat) (s : State) : leavesTime (execProbeSend c i slot s) s := by
  unfold execProbeSend; rw [leavesTime_next]; dsimp only; repeat' split
  all_goals simp

theorem execProbeHop_leavesTime (k : Nat) (s : State) : leavesTime (execProbeHop k s) s := by
  unfold execProbeHop
  repeat' split
  all_goals simp [Fire.timeless]

/-! ## Machine/SchedEvents.lean -/

theorem execJobLoad_leavesTime (s : State) : leavesTime (execJobLoad s) s := by
  unfold execJobLoad; rw [leavesTime_next]; dsimp only; repeat' split
  all_goals simp
theorem execDispatch_leavesTime (c : Nat) (s : State) : leavesTime (execDispatch c s) s := by
  unfold execDispatch; rw [leavesTime_next]; dsimp only; repeat' split
  all_goals simp
theorem execEprioPromotion_leavesTime (t : Nat) (s : State) : leavesTime (execEprioPromotion t s) s := by
  unfold execEprioPromotion; rw [leavesTime_next]; dsimp only; repeat' split
  all_goals simp

theorem execPreemptionRequest_leavesTime (c t : Nat) (s : State) : leavesTime (execPreemptionRequest c t s) s := by
  unfold execPreemptionRequest
  repeat' split
  all_goals simp [Fire.timeless]

theorem execPreemptionSnapshot_leavesTime (c : Nat) (s : State) : leavesTime (execPreemptionSnapshot c s) s := by
  refine (leavesTime_next ..).2 ?_
  extract_lets r
  split
  · rfl
  · split
    · rfl
    · split
      · exact (halt_now ..).trans (cancelWaiting_now ..)
      · split
        · rfl
        · exact depart_now (fun _ _ => (modCluster_now ..).trans (toBench_now ..)) ..

/-! ## Machine/Recovery.lean -/

theorem execForcedRecoveryPoint_leavesTime (c : Nat) (s : State) : leavesTime (execForcedRecoveryPoint c s) s := by
  refine (leavesTime_next ..).2 ?_
  extract_lets r
  split
  · split
    · rfl
    · have hp := takePoint_now s c (s.context c true 0) true
      split
      next h => rw [h] at hp; exact (raise_now ..).trans ((goOn_now ..).trans hp)
      next h => rw [h] at hp; exact hp
      next h => rw [h] at hp; exact hp
      next h => rw [h] at hp; exact (goOn_now ..).trans hp
  · split
    · split
      · exact (modRegion_now ..).trans (halt_now ..)
      · exact halt_now ..
    · rfl

theorem execSoftError_leavesTime (c unit cell slot : Nat) (s : State) : leavesTime (execSoftError c unit cell slot s) s := by
  unfold execSoftError; rw [leavesTime_next]; dsimp only; repeat' split
  all_goals simp

theorem execUmpireCompare_leavesTime (c k : Nat) (s : State) : leavesTime (execUmpireCompare c k s) s := by
  unfold execUmpireCompare
  repeat' split
  all_goals simp [Fire.timeless]

theorem execUmpireTimeout_leavesTime (c k : Nat) (s : State) : leavesTime (execUmpireTimeout c k s) s := by
  unfold execUmpireTimeout; rw [leavesTime_next]; dsimp only; repeat' split
  all_goals simp

/-! ## Machine/Ring.lean -/

theorem execLapStart_leavesTime (s0 : State) : leavesTime (execLapStart s0) s0 := by
  unfold execLapStart; rw [leavesTime_next]; dsimp only; repeat' split
  all_goals simp
theorem execTileInject_leavesTime (s : State) : leavesTime (execTileInject s) s := by
  unfold execTileInject; split <;> simp
theorem execBoardingRegistration_leavesTime (c k : Nat) (s : State) : leavesTime (execBoardingRegistration c k s) s := by
  unfold execBoardingRegistration; rw [leavesTime_next]; dsimp only; repeat' split
  all_goals simp
theorem execTileCapture_leavesTime (c : Nat) (bad : Bool) (s : State) : leavesTime (execTileCapture c bad s) s := by
  simp [execTileCapture]

theorem execWindowClose_leavesTime (c k : Nat) (s : State) : leavesTime (execWindowClose c k s) s := by
  unfold execWindowClose
  repeat' split
  all_goals simp [Fire.timeless]

/-! ## Machine/SysEvents.lean -/

theorem execTlbinvComplete_leavesTime (c k : Nat) (s : State) : leavesTime (execTlbinvComplete c k s) s := by
  unfold execTlbinvComplete
  repeat' split
  all_goals simp [Fire.timeless]

theorem execKeyrevAck_leavesTime (c k : Nat) (s : State) : leavesTime (execKeyrevAck c k s) s := by
  unfold execKeyrevAck; rw [leavesTime_next]; dsimp only; repeat' split
  all_goals simp

theorem execCtxsvComplete_leavesTime (c k : Nat) (s : State) : leavesTime (execCtxsvComplete c k s) s := by
  refine (leavesTime_next ..).2 ?_
  split
  · split
    · extract_lets v
      split
      · exact sysEnds_now ..
      · split
        · exact modRegion_now ..
        · split
          · rfl
          next t y s1 _ _ _ =>
            have h1 : s1.now = s.now := depart_now (fun _ _ => modTask_now ..) ..
            clear_value s1
            split
            · exact h1
            · exact (sysEnds_now ..).trans h1
    · rfl
  · rfl

theorem execCtxldComplete_leavesTime (c k : Nat) (s : State) : leavesTime (execCtxldComplete c k s) s := by
  refine (leavesTime_next ..).2 ?_
  split
  next op _ =>
    split
    · extract_lets v
      split
      · rfl
      · split
        · exact sysEnds_now ..
        · have hp := imageAt_now s c op.b
          split
          next h => rw [h] at hp; exact (sysEnds_now ..).trans ((loadImage_now ..).trans hp)
          next h => rw [h] at hp; exact hp
          next h => rw [h] at hp; exact (sysEnds_now ..).trans hp
          next h => rw [h] at hp; exact (sysEnds_now ..).trans ((refuseImage_now ..).trans hp)
    · rfl
  · rfl

theorem execCfgldComplete_leavesTime (c k : Nat) (s : State) : leavesTime (execCfgldComplete c k s) s := by
  unfold execCfgldComplete
  repeat' split
  all_goals simp [Fire.timeless]

theorem execLinkqComplete_leavesTime (c k : Nat) (s : State) : leavesTime (execLinkqComplete c k s) s := by
  unfold execLinkqComplete; rw [leavesTime_next]; dsimp only; repeat' split
  all_goals simp
theorem execEvwaitWake_leavesTime (c k : Nat) (s : State) : leavesTime (execEvwaitWake c k s) s := by
  unfold execEvwaitWake; rw [leavesTime_next]; dsimp only; repeat' split
  all_goals simp

/-! ## Machine/TrapEvents.lean -/

theorem execTrapRecord_leavesTime (s : State) : leavesTime (execTrapRecord s) s := by
  unfold execTrapRecord; rw [leavesTime_next]; dsimp only; repeat' split
  all_goals simp
theorem execHandlerDispatch_leavesTime (s : State) : leavesTime (execHandlerDispatch s) s := by
  unfold execHandlerDispatch; rw [leavesTime_next]; dsimp only; repeat' split
  all_goals simp

/-- No instruction and no event moves the clock: a firing by its plan, an event by its own meaning. -/
theorem exec_leavesTime (i : Instr) (s : State) : leavesTime (exec i s) s := by
  have hf (e : exec i s = fireNode (planOf i) s) : leavesTime (exec i s) s := e ▸ fireNode_leavesTime (planOf_timeless i s)
  cases i with
  | operandDiscard c n => exact execOperandDiscard_leavesTime _ _ _
  | shadowUsable c => exact execShadowUsable_leavesTime _ _
  | teardownInjection c => exact execTeardownInjection_leavesTime _ _
  | nodeRetire c n => exact execNodeRetire_leavesTime _ _ _
  | nodeFlip c n => exact execNodeFlip_leavesTime _ _ _
  | purgeMarker c n => exact execPurgeMarker_leavesTime _ _ _
  | blockBoundary c => exact execBlockBoundary_leavesTime _ _
  | blockStart c => exact execBlockStart_leavesTime _ _
  | awaitRead c e => exact execAwaitRead_leavesTime _ _ _
  | popDelivery c e => exact execPopDelivery_leavesTime _ _ _
  | peekDelivery c e => exact execPeekDelivery_leavesTime _ _ _
  | gateDrop c e => exact execGateDrop_leavesTime _ _ _
  | gateHold c e => exact execGateHold_leavesTime _ _ _
  | streamFetch c p => exact execStreamFetch_leavesTime _ _ _
  | portPush c e => exact execPortPush_leavesTime _ _ _
  | squeezePush c e => exact execSqueezePush_leavesTime _ _ _
  | memoryAccessPerform c k age => exact execMemoryAccessPerform_leavesTime _ _ _ _
  | fullEmptyWake line => exact execFullEmptyWake_leavesTime _ _
  | parkRetry c k => exact execParkRetry_leavesTime _ _ _
  | tableWalk c k => exact execTableWalk_leavesTime _ _ _
  | mmaComplete c cell => exact execMmaComplete_leavesTime _ _ _
  | shadowLoaded c cell => exact execShadowLoaded_leavesTime _ _ _
  | mdrainComplete c k => exact execMdrainComplete_leavesTime _ _ _
  | engineWait c k => exact execEngineWait_leavesTime _ _ _
  | tileClaim c k => exact execTileClaim_leavesTime _ _ _
  | descriptorRead c k => exact execDescriptorRead_leavesTime _ _ _
  | byteModeSignal c k => exact execByteModeSignal_leavesTime _ _ _
  | engineCompletion c k => exact execEngineCompletion_leavesTime _ _ _
  | inboxSend c k => exact execInboxSend_leavesTime _ _ _
  | inboxPublish c k => exact execInboxPublish_leavesTime _ _ _
  | migratePage c k => exact execMigratePage_leavesTime _ _ _
  | trapRecord => exact execTrapRecord_leavesTime _
  | handlerDispatch => exact execHandlerDispatch_leavesTime _
  | trapHkill value => exact execTrapHkill_leavesTime _ _
  | budgetExpiry c => exact execBudgetExpiry_leavesTime _ _
  | probeSend c n slot => exact execProbeSend_leavesTime _ _ _ _
  | probeHop k => exact execProbeHop_leavesTime _ _
  | forcedRecoveryPoint c => exact execForcedRecoveryPoint_leavesTime _ _
  | softError c unit cell slot => exact execSoftError_leavesTime _ _ _ _ _
  | umpireCompare c k => exact execUmpireCompare_leavesTime _ _ _
  | umpireTimeout c k => exact execUmpireTimeout_leavesTime _ _ _
  | jqDoor value => exact execJqDoor_leavesTime _ _
  | jobLoad => exact execJobLoad_leavesTime _
  | taskEnd t => exact execTaskEnd_leavesTime _ _
  | dispatch c => exact execDispatch_leavesTime _ _
  | eprioPromotion t => exact execEprioPromotion_leavesTime _ _
  | preemptionRequest c t => exact execPreemptionRequest_leavesTime _ _ _
  | preemptionSnapshot c => exact execPreemptionSnapshot_leavesTime _ _
  | lapStart => exact execLapStart_leavesTime _
  | tileInject => exact execTileInject_leavesTime _
  | boardingRegistration c k => exact execBoardingRegistration_leavesTime _ _ _
  | tileCapture c bad => exact execTileCapture_leavesTime _ _ _
  | windowClose c k => exact execWindowClose_leavesTime _ _ _
  | registerWrite sysno value link => exact execRegisterWrite_leavesTime _ _ _ _
  | seedWrite t value => exact execSeedWrite_leavesTime _ _ _
  | linkRetrainGo m => exact execLinkRetrainGo_leavesTime _ _
  | linkRetrainEnd m badLanes badSpares => exact execLinkRetrainEnd_leavesTime _ _ _ _
  | flitReceive m seqno good lane => exact execFlitReceive_leavesTime _ _ _ _ _
  | linkqComplete c k => exact execLinkqComplete_leavesTime _ _ _
  | ideRollover f => exact execIdeRollover_leavesTime _ _
  | ideAutoRollover f => exact execIdeAutoRollover_leavesTime _ _
  | ideSlotRetire f => exact execIdeSlotRetire_leavesTime _ _
  | macFailure f => exact execMacFailure_leavesTime _ _
  | drawerSlotPlace f k => exact execDrawerSlotPlace_leavesTime _ _ _
  | drawerResponse f k => exact execDrawerResponse_leavesTime _ _ _
  | peerRequest f ch addr key => exact execPeerRequest_leavesTime _ _ addr _ _
  | linkStall f k => exact execLinkStall_leavesTime _ _ _
  | slotTableSwitch => exact execSlotTableSwitch_leavesTime _
  | channelCalibration f ch => exact execChannelCalibration_leavesTime _ _ _
  | channelDown f ch => exact execChannelDown_leavesTime _ _ _
  | channelRelock f ch => exact execChannelRelock_leavesTime _ _ _
  | tlbinvComplete c k => exact execTlbinvComplete_leavesTime _ _ _
  | keyrevAck c k => exact execKeyrevAck_leavesTime _ _ _
  | ctxsvComplete c k => exact execCtxsvComplete_leavesTime _ _ _
  | ctxldComplete c k => exact execCtxldComplete_leavesTime _ _ _
  | evwaitWake c k => exact execEvwaitWake_leavesTime _ _ _
  | hostAccess op => exact execHostAccess_leavesTime _ _
  | patrolScrub addr bad => exact execPatrolScrub_leavesTime _ _ _
  | telemetrySample => exact execTelemetrySample_leavesTime _
  | throttle c => exact execThrottle_leavesTime _ _
  | coldReset fail => exact execColdReset_leavesTime _ _
  | attestationRequest nonce => exact execAttestationRequest_leavesTime _ _
  | modcAdvance c => exact execModcAdvance_leavesTime _ _
  | cfgldComplete c k => exact execCfgldComplete_leavesTime _ _ _
  | clusterPowerGate c => exact execClusterPowerGate_leavesTime _ _
  | _ => exact hf rfl

theorem tick_now_le (s : State) : s.now ≤ s.tick.now := by
  rw [(tick_stage s).2.1]
  split <;> omega

theorem step_now_le {s t : State} (h : step s = .next t) : s.now ≤ t.now := by
  have hexec {i : Instr} {u : State} (hi : step s = exec i u) (hu : u.now = s.now) : s.now ≤ t.now :=
    ((exec_leavesTime i u t (hi.symm.trans h)).trans hu).ge
  have hskip {u : State} (hi : step s = .next u) (hu : u.now = s.now) : s.now ≤ t.now := by
    rw [hi] at h
    cases h
    exact hu.ge
  cases ha : s.agenda with
  | nil =>
    rw [step_empty ha] at h
    cases h
    exact tick_now_le s
  | cons m rest =>
    cases m with
    | node c i =>
      cases hf : s.fetch c i with
      | none => exact hskip (step_node_absent ha hf) rfl
      | some w =>
        cases hd : decode w with
        | ok x => exact hexec (step_node_decoded ha hf hd) rfl
        | error e =>
          rw [step_node_undecodable ha hf hd] at h
          cases h
    | event e =>
      by_cases hk : e.opcode = 0 ∧ e.wellFormed = true
      · exact hexec (step_event_known ha hk) rfl
      · exact hskip (step_event_unknown ha hk) rfl

theorem exec_tsget {f : FmtS} {h : Heads} {s : State} (hr : Ready f.pm true false false [f.t0, f.t1] h s) (ho : h.origin = none) :
    exec (.tsget f) s =
      .next (s.commit { pops := h.slots, outs := [(f.t0, mkPkt .i64 [s.now]), (f.t1, mkPkt .i64 [s.now])] }) := by
  refine (fireNode_route hr rfl ?_ rfl ?_).trans ?_
  · simp [sysOuts]
  · simp
  · simp only [sysOuts, ho]

/-- Settles O27: a ready tsget commits its firing with the present time stamp; of a step, only the end of a cycle moves the clock,
and every meaning of the agenda's moves leaves it. -/
theorem timeStamps : Obligations.TimeStamps :=
  ⟨fun _ _ _ hr ho => exec_tsget hr ho, fun _ _ _ h => step_now_le h⟩

end Sys2Proof.Machine
end
